-- ==== Sys2Proof/Word.lean ====
section
/-! DEFINITION. The words of the machine: 32-bit parcels and registers, bytes, generic addresses and
parcel addresses (spec 00 R3, 01 R9, 09 R199). -/

namespace Sys2Proof

/-- A byte of memory. -/
abbrev Byte := BitVec 8

/-- A parcel, or one register of one lane. -/
abbrev Word := BitVec 32

/-- A register pair, or a 64-bit generic address (R9). -/
abbrev DWord := BitVec 64

/-- A parcel address (R199): 57 bits. -/
abbrev PAddr := BitVec 57

/-- The lanes of a group as a mask: bit L names lane L. -/
abbrev LaneMask := BitVec 32

end Sys2Proof
end

