-- ==== Sys2Proof/Syntax.lean ====
section
/-! DEFINITION. Instr: one constructor per row of spec/opcode_table.json. The first 134 or so rows are what
a program encodes (spec 09 to 13); the others are the steps of the part, its firmware, the host and the
fabric, with the arguments that say which of several such steps is meant (spec 95). -/

namespace Sys2Proof

/-! ## Operands (R208, R210, R212) -/

/-- The literal source codes 0x400 to 0x40F (Table 9.5). -/
inductive Lit where
  | zero | one | two | four | eight | sixteen | thirtyTwo | minusOne | bit31
  | fOne | fMinusOne | fHalf | fTwo | halfOnes | bfOnes | fInf
  deriving DecidableEq, Repr

/-- The special registers 0x410 to 0x41F (Table 9.5). -/
inductive Special where
  | lane | group | tx | ty | tz | team | grid | core | cluster | rank | tw | depth | ns | role | live | cyc
  deriving DecidableEq, Repr

/-- An 11-bit source code (R208). `bad` keeps a code from 0x420 up, which faults when the instruction issues. -/
inductive Src where
  | reg (r : BitVec 10)
  | lit (k : Lit)
  | special (k : Special)
  | bad (code : BitVec 11)
  deriving DecidableEq, Repr

/-- A 4-bit GUARD: g0 to g7, with an inversion (R210). -/
structure Pred where
  idx : BitVec 3
  neg : Bool
  deriving DecidableEq, Repr

/-- FLAG: f0 to f11, or none (R212). -/
abbrev FlagSel := Option (Fin 12)

/-- Scopes (Table 9.7). -/
inductive Scope where
  | lane | grp | team | cl | dev | sys
  deriving DecidableEq, Repr

/-- Orderings (Table 9.7). -/
inductive MemOrd where
  | relaxed | acq | rel | ar | sc
  deriving DecidableEq, Repr

/-- Integer type: W and U of R226. -/
structure ITy where
  w : Bool
  u : Bool
  deriving DecidableEq, Repr

/-- Compare conditions (Table 10.5). -/
inductive Cond where
  | eq | ne | lt | le | gt | ge | num | nan | equ | neu | ltu | leu | gtu | geu
  deriving DecidableEq, Repr

/-- Combining operator of a compare (R243). -/
inductive Comb where
  | none | and | or | xor
  deriving DecidableEq, Repr

/-- Guard operators (R245). -/
inductive GOp where
  | and | or | xor
  deriving DecidableEq, Repr

/-- Rounding modes (Table 8.5). -/
inductive Rnd where
  | rn | rz | rm | rp
  deriving DecidableEq, Repr

/-- Vector float types (R255). -/
inductive FTy where
  | f32 | f16 | bf16
  deriving DecidableEq, Repr

/-- Conversion types (Table 10.7). -/
inductive CTy where
  | f32 | f16 | bf16 | e4m3 | e5m2 | e2m1 | e3m5 | lut4 | i8 | n8 | i16 | n16 | i32 | n32 | i64 | n64 | i4 | n4
  deriving DecidableEq, Repr

/-- Requantisation types (R261). -/
inductive RqTy where
  | i8 | n8 | i4 | n4
  deriving DecidableEq, Repr

/-- Memory access types (Table 9.4). -/
inductive MemTy where
  | n8 | i8 | n16 | i16 | n32 | i32 | n64 | i64 | b128
  deriving DecidableEq, Repr

/-- SP: the space a load or store demands (Table 9.4). -/
inductive Space where
  | any | g | s | p
  deriving DecidableEq, Repr

/-- Types of faa and cas (R277, R279). -/
inductive AtTy where
  | i32 | n32 | i64 | n64
  deriving DecidableEq, Repr

/-- Types of atom (R278). -/
inductive AtomTy where
  | i32 | n32 | i64 | n64 | f32
  deriving DecidableEq, Repr

/-- Operations of atom (Table 12.2). -/
inductive AtomOp where
  | xchg | min | max | and | or | xor | fadd
  deriving DecidableEq, Repr

/-- Modes of shfl (R264). -/
inductive ShflMode where
  | idx | up | down | xor
  deriving DecidableEq, Repr

/-- Modes of vote (R265). -/
inductive VoteMode where
  | all | any | uni | ballot
  deriving DecidableEq, Repr

/-- Operations of red and scan (R267). -/
inductive RedOp where
  | add | min | max | and | or | xor
  deriving DecidableEq, Repr

/-- Types of red and scan (R267). -/
inductive RedTy where
  | i32 | n32 | i64 | n64 | f32 | f16 | bf16
  deriving DecidableEq, Repr

/-- Modes of bar (R290). -/
inductive BarMode where
  | sync | arrive | wait
  deriving DecidableEq, Repr

/-- Roles (R158). -/
inductive Role where
  | copy | matrix | vector
  deriving DecidableEq, Repr

/-- Matrix formats (Table 13.2). -/
inductive MxFmt where
  | e2m1 | e4m3 | e5m2 | bf16 | f16 | lut4 | i8 | n8 | i4 | n4
  deriving DecidableEq, Repr

/-- Operations of acc (R326). -/
inductive AccOp where
  | zero | ld | st
  deriving DecidableEq, Repr

/-! ## Instruction forms (Table 9.3) -/

/-- The fields that format V and format T share: FLAG, REUSE, DST. -/
structure VHead where
  flag  : FlagSel
  reuse : BitVec 2
  dst   : BitVec 10
  deriving DecidableEq, Repr

/-- A two-source integer form: W, U, the modifier flag MODA[2], SRCA, SRCB. -/
structure VBin where
  h : VHead
  t : ITy
  m : Bool
  a : Src
  b : Src
  deriving DecidableEq, Repr

/-- A one-source integer form. -/
structure VUn where
  h : VHead
  t : ITy
  m : Bool
  a : Src
  deriving DecidableEq, Repr

/-- A three-source integer form. -/
structure TInt where
  h : VHead
  t : ITy
  m : Bool
  a : Src
  b : Src
  c : Src
  deriving DecidableEq, Repr

/-- An immediate form: DST, W, U, MOD[2], SRCA, IMM. -/
structure IForm where
  dst : BitVec 10
  t   : ITy
  m   : Bool
  a   : Src
  imm : BitVec 20
  deriving DecidableEq, Repr

/-- A two-source float form. -/
structure FBin where
  h   : VHead
  ty  : FTy
  rnd : Rnd
  a   : Src
  b   : Src
  deriving DecidableEq, Repr

/-- A one-source float form (also the special functions). -/
structure FUn where
  h   : VHead
  ty  : FTy
  rnd : Rnd
  a   : Src
  deriving DecidableEq, Repr

/-- A three-source float form. -/
structure FTri where
  h   : VHead
  ty  : FTy
  rnd : Rnd
  a   : Src
  b   : Src
  c   : Src
  deriving DecidableEq, Repr

/-- Format M: loads and stores. -/
structure MForm where
  srcd  : Src
  scope : Scope
  flag  : FlagSel
  guard : Pred
  off   : BitVec 5
  sp    : Space
  ty    : MemTy
  dst   : BitVec 10
  addr  : Src
  deriving DecidableEq, Repr

/-- Format A: atomics. -/
structure AForm where
  dst   : BitVec 10
  scope : Scope
  flag  : FlagSel
  guard : Pred
  srcd  : Src
  addr  : Src
  off   : BitVec 18
  gd    : BitVec 3
  srce  : Src
  deriving DecidableEq, Repr

/-- Format S: sel (R247). -/
structure SForm where
  reuse : BitVec 2
  gs    : Pred
  dst   : BitVec 10
  guard : Pred
  w     : Bool
  a     : Src
  b     : Src
  deriving DecidableEq, Repr

/-- The two directions of gmov (R246). -/
inductive GMov where
  | toReg (g : Pred)
  | toGuard (a : Src)
  deriving DecidableEq, Repr

/-- tcpy (R285). -/
structure TcpyForm where
  flag : FlagSel
  st   : Bool
  ring : Option (BitVec 3)
  dst  : BitVec 10
  mb   : Src
  sb   : Src
  lay  : Src
  q    : Src
  deriving DecidableEq, Repr

/-- mma (R318). -/
structure MmaForm where
  flag  : FlagSel
  bfmt  : MxFmt
  afmt  : MxFmt
  z     : Bool
  tag   : BitVec 4
  reuse : Bool
  s     : Bool
  t     : BitVec 2
  a     : Src
  cb    : BitVec 2
  ca    : BitVec 2
  deriving DecidableEq, Repr

/-- mma.ldb (R319). `ring` is the ring and the stage. -/
structure LdbForm where
  flag : FlagSel
  dst  : BitVec 10
  ring : Option (BitVec 3 × BitVec 4)
  s    : Bool
  fmt  : MxFmt
  ct   : Bool
  key  : BitVec 4
  lay  : Src
  a    : Src
  q    : Src
  deriving DecidableEq, Repr

/-- acc (R326). -/
structure AccForm where
  flag  : FlagSel
  op    : AccOp
  t     : BitVec 2
  a     : Src
  row0  : Src
  count : Src
  deriving DecidableEq, Repr

/-- epi.run (R331). -/
structure EpiForm where
  flag : FlagSel
  t    : BitVec 2
  tag  : BitVec 4
  sb   : Src
  c    : Src
  p    : Src
  deriving DecidableEq, Repr

/-! ## Arguments of events -/

/-- The writers of service registers (R398). -/
inductive Writer where
  | host | service | root
  deriving DecidableEq, Repr

/-- The readers of the energy counters (R383): the host link, each management core, the root of trust. -/
inductive Reader where
  | host | mgmt (n : Nat) | root
  deriving DecidableEq, Repr

/-- What the root firmware orders of a core's power gate: a quiesce, the gating of an idle core, or power again (R370, R391). -/
inductive GateOrder where
  | quiesce | idle | wake
  deriving DecidableEq, Repr

/-- An order of a core's power gate. -/
structure CoreOrder where
  core  : Nat
  order : GateOrder
  deriving DecidableEq, Repr

/-- An IDE key-management message: the stream that it keys, and the secure session that carries it (R400). -/
structure IdeKeyMsg where
  stream  : Nat
  session : Nat
  deriving DecidableEq, Repr

/-- The service registers of the spec's register maps, and the mask and pending bits of the MSI-X table and PBA of R411, named
and not addressed (log entries 9 and 52). -/
inductive RegName where
  | expBase | expSize | expCtl | tlbInvVa | tlbInvCmd | scrubBase | scrubCtl | clL1Stat | l2Ctl
  | optPortCtl | optPortCnt | cgtEntry | fabCtl | fabStat | combStat | lqCfg | lqPtr | schedCtl
  | fltStat | fltPc | fltAddr | fltAux | fltCtl | ceFlt | ceFltVa | ctxdCfg | ctxCmd | clkStat | ntCtl
  | pwrTok | thrReason | energyLo | energyHi | duskCtl | lifeCfg | lifeRsv | boostPt | confCtl | confShr
  | wkeyStat | aperBase | devCtl | devStat | ceNear | ceFar | ceExp | ceCore | ceL2 | ueUnowned
  | peerRefuse | hlErr | sweeps | rootDeny | msixMask | msixPba | msixCtl
  deriving DecidableEq, Repr

/-- The windows through which the host reaches device memory (R411), and the two firmwares' own accesses (R29). -/
inductive HostWindow where
  | aperture | cxlNear | cxlFar
  /-- a host request that has arrived, by PCIe or by CXL.mem: the offset is the device physical address it was given then (R411) -/
  | arrived | arrivedCxl
  /-- device physical addresses of the service firmware's management cores, and of the root firmware (R29, R30) -/
  | service | root
  deriving DecidableEq, Repr

/-- A host request to device memory: an offset in its window, and the bytes to write or the count to read. -/
structure HostReq where
  window : HostWindow
  offset : Nat
  count  : Nat
  write  : Option (List Byte)
  stream : Nat
  inside : Bool          -- it has passed the link, and waits inside the module
  deriving DecidableEq, Repr

/-- What an inbound peer request does (R23). -/
inductive PeerKind where
  | load (count : Nat)
  | store (data : List Byte)
  | faa (w64 : Bool) (addend : DWord)
  | atom (op : AtomOp) (ty : AtomTy) (b : DWord)
  | cas (w64 : Bool) (cmp new : DWord)
  deriving DecidableEq, Repr

/-- What the acceptance of a peer request found (R24): the device physical address and the caching hint, and the context and
VA[56:16] that it was translated with. -/
structure PeerHome where
  pa  : Nat
  ch  : Nat
  ctx : Nat
  vpn : Nat
  deriving DecidableEq, Repr

/-- An inbound peer request: the source pair of R134, the optical port it enters by, WOFF and the action. -/
structure PeerReq where
  peer : Nat
  core : Nat
  port : Nat
  woff : Nat
  kind : PeerKind
  home : Option PeerHome   -- once it has been accepted
  deriving DecidableEq, Repr

/-- The causes of Table 16.5. -/
inductive ThrCause where
  | thermal | current | slew | cap | reliab
  deriving DecidableEq, Repr

/-- The inputs of R385 for one wear unit. -/
structure WearSample where
  unit : Nat
  v    : Nat
  t8   : Int
  d    : Nat
  act  : Nat
  cur  : Nat
  deriving DecidableEq, Repr

/-- The readings of one clock region at a tick (R385, R395). -/
structure RegionSample where
  region    : Nat
  vMv       : Nat
  t8        : Int
  hot       : Int
  nearLimit : Bool
  deriving DecidableEq, Repr

/-- A weight key as its owner supplies it (R405). -/
structure KeyMaterial where
  keyId  : BitVec 32
  key    : BitVec 256
  digest : BitVec 384
  deriving DecidableEq, Repr

/-- The kinds of full reset (R418). -/
inductive ResetCause where
  | perst | hot | flr
  deriving DecidableEq, Repr

/-! ## Instructions and steps -/

inductive Instr where
  -- control (10 R230 to R235, 09 R213 to R216)
  | nop
  | bra (g : Pred) (off : BitVec 18)
  | brr (a : Src)
  | call (g : Pred) (off : BitVec 18)
  | callr (a : Src)
  | ret
  | exit
  | yield
  | flwait (mask : BitVec 12)
  | pxLit (lit : BitVec 28)
  | pxScope (o : MemOrd) (s : Scope)
  | pxTile (twc : BitVec 3)
  -- integer and bit operations (R236 to R242)
  | add (f : VBin)
  | sub (f : VBin)
  | mul (f : VBin)
  | mulhi (f : VBin)
  | mad (f : TInt)
  | min (f : VBin)
  | max (f : VBin)
  | abs (f : VUn)
  | neg (f : VUn)
  | div (f : VBin)
  | rem (f : VBin)
  | sad (f : TInt)
  | mulw (f : VBin)
  | and (f : VBin)
  | or (f : VBin)
  | xor (f : VBin)
  | not (f : VUn)
  | shl (f : VBin)
  | shr (f : VBin)
  | sar (f : VBin)
  | rotl (f : VBin)
  | popc (f : VUn)
  | clz (f : VUn)
  | brev (f : VUn)
  | bfe (f : TInt)
  | bfi (f : TInt)
  | lea (f : TInt) (k : BitVec 3)
  | fsh (f : TInt)
  | perm (f : TInt)
  | lop3 (f : TInt) (tt : BitVec 8)
  | addi (f : IForm)
  | muli (f : IForm)
  | andi (f : IForm)
  | ori (f : IForm)
  | xori (f : IForm)
  | shli (f : IForm)
  | shri (f : IForm)
  | sari (f : IForm)
  | movi (f : IForm)
  | mov (f : VUn)
  | gtag (dst : BitVec 10) (a : Src) (tag : BitVec 20)
  -- compare, guard, select (R243 to R248)
  | icmp (h : VHead) (cond : Cond) (t : ITy) (op : Comb) (gc : Pred) (a b : Src)
  | fcmp (h : VHead) (cond : Cond) (ty : FTy) (op : Comb) (gc : Pred) (a b : Src)
  | icmpi (dst : BitVec 10) (cond : Cond) (t : ITy) (a : Src) (imm : BitVec 20)
  | gop (h : VHead) (op : GOp) (ga gb : Pred)
  | gmov (h : VHead) (m : GMov)
  | sel (f : SForm)
  | fclass (h : VHead) (ty : FTy) (a : Src) (mask : BitVec 9)
  -- conversion (R249 to R254, R261)
  | cvt (h : VHead) (d s : CTy) (rnd : Rnd) (ct : BitVec 2) (a : Src)
  | cvtpk (h : VHead) (d s : CTy) (rnd : Rnd) (p : BitVec 2) (a b : Src)
  | unpk (h : VHead) (d s : CTy) (e : BitVec 4) (a : Src)
  | lut (h : VHead) (n : BitVec 2) (p : BitVec 2) (f16 : Bool) (a : Src)
  | frnd (h : VHead) (ty : FTy) (rnd : Rnd) (a : Src)
  | rq (h : VHead) (ty : RqTy) (rnd : Rnd) (sh e : BitVec 5) (a b c : Src)
  -- vector float (R255 to R258)
  | fadd (f : FBin)
  | fsub (f : FBin)
  | fmul (f : FBin)
  | fma (f : FTri)
  | fmin (f : FBin)
  | fmax (f : FBin)
  | fabs (f : FUn)
  | fneg (f : FUn)
  | fcpsgn (f : FBin)
  | fadd2 (f : FBin)
  | fmul2 (f : FBin)
  | fma2 (f : FTri)
  | fmin2 (f : FBin)
  | fmax2 (f : FBin)
  | fdot2 (f : FTri)
  -- special functions (R259, R260)
  | rcp (f : FUn)
  | rsqrt (f : FUn)
  | sqrt (f : FUn)
  | exp2 (f : FUn)
  | log2 (f : FUn)
  | sin (f : FUn)
  | cos (f : FUn)
  | tanh (f : FUn)
  | sfuComplete (core op : Nat)
  -- lane operations (R262 to R268)
  | shfl (h : VHead) (mode : ShflMode) (w64 : Bool) (gv : BitVec 3) (a b : Src)
  | vote (h : VHead) (mode : VoteMode) (ga : Pred)
  | red (h : VHead) (op : RedOp) (ty : RedTy) (rnd : Rnd) (a : Src)
  | scan (h : VHead) (op : RedOp) (ty : RedTy) (rnd : Rnd) (excl : Bool) (a : Src)
  | twset (tw : BitVec 20)
  | matchLanes (h : VHead) (w64 : Bool) (a : Src)
  -- memory and synchronisation (R271 to R295)
  | ld (f : MForm)
  | st (f : MForm)
  | faa (f : AForm) (ty : AtTy)
  | atom (f : AForm) (op : AtomOp) (ty : AtomTy)
  | cas (f : AForm) (ty : AtTy)
  | fence (o : MemOrd) (s : Scope)
  | cachePin (h : VHead) (a : Src)
  | cacheUnpin (h : VHead) (a : Src)
  | cpy (flag : FlagSel) (sz : BitVec 2) (dst src : Src)
  | cpySeal
  | cpyWait (n : BitVec 4) (ge : BitVec 3)
  | tcpy (f : TcpyForm)
  | bar (b : BitVec 4) (mode : BarMode)
  | ringWait (h : VHead) (ring : BitVec 3) (empty v : Bool) (stage : Src)
  | ringArrive (h : VHead) (ring : BitVec 3) (empty : Bool) (stage : Src)
  | tlwait (h : VHead) (sel : BitVec 7) (s : Scope) (n : Src)
  | attach (h : VHead) (role : Role)
  | detach
  | shrinkq (h : VHead)
  | launch (dst : BitVec 10) (rec queue : Src)
  -- the matrix engine (13)
  | mma (f : MmaForm)
  | mmaLdb (f : LdbForm)
  | sclPush (h : VHead) (m s : Src)
  | ctSet (h : VHead) (n : BitVec 2) (a : Src)
  | gangSet (h : VHead) (a : Src)
  | acc (f : AccForm)
  | epiLd (flag : FlagSel) (a : Src)
  | epiRun (f : EpiForm)
  -- system (R296 to R304)
  | trap (code : BitVec 16)
  | rtrap
  | brk (code : BitVec 16)
  | sleepNs (h : VHead) (d : Src)
  | waitNs (h : VHead) (d : Src)
  | ntHintEnter
  | ntHintLeave
  | boost (h : VHead) (p t : Src)
  | wearRd (h : VHead) (s : Src)
  | sealPut (h : VHead) (a n : Src)
  -- the abstract machine (04, 02, 03)
  | accessPerform (core id : Nat)
  | releasePoint (core id : Nat)
  | acquirePoint (core id : Nat)
  | fill (l1 sector : Nat)
  | evict (l1 sector : Nat)
  | loadComplete (core op : Nat)
  | atomicReply (core op : Nat)
  | walkComplete (core ctx vpn : Nat)
  | sweepComplete (page : Nat)
  | scratchLineZeroed (core line : Nat)
  | remoteScratchRequest (core id : Nat)
  -- copies (05, 15)
  | cread (core copy unit : Nat)
  | cwrite (core copy unit : Nat)
  | ceRetry (core : Nat)
  | ceAbort (core : Nat)
  | ceAnswerTimeout (core copy : Nat)
  -- engine completions (13)
  | mmaLdbComplete (core op : Nat)
  | tokenGrant (core : Nat)
  | engineHeldAccept (core : Nat)
  | mmaComplete (core op : Nat)
  | ctSetComplete (core op : Nat)
  | epiRunComplete (core op : Nat)
  | sealChunkComplete (grid chunk : Nat)
  | waitExpire (core guid lane : Nat)
  -- fault actions (R357)
  | fltRetry (core : Nat)
  | deliver (core : Nat)
  | fltContinue (core : Nat)
  | killGroup (core : Nat)
  | killGrid (core : Nat)
  -- fabric (06)
  | switchRequestArrival (sw req : Nat)
  | combineWindowClose (sw rec : Nat)
  | contrailReplySplit (sw rec : Nat) (lost : Bool)
  | fabricTimeout (core id : Nat)
  | recordExpire (sw rec : Nat)
  | hostAccess (r : HostReq)
  | hostRegisterAccess (size offset : Nat) (reg : RegName) (index : Nat) (write : Option DWord)
  | peerRequest (r : PeerReq)
  | flitReplay (port : Nat) (ok : Bool)
  | portRetrain (port : Nat) (ok : Bool)
  | portDown (port : Nat)
  | parkReqWrite (port : Nat) (q : BitVec 2)
  | parkAck (port : Nat)
  | parkTimeout (port : Nat)
  | cgtEntryWrite (peer : Nat) (v : DWord)
  | holdTimeout (cluster rank : Nat)
  | expansionHotRemove (device : Nat)
  | patrolRead (sector : Nat)
  -- service registers with steps of their own (02, 03, 15, 14)
  | tlbInvPage (ctx : BitVec 16)
  | tlbInvCtx (ctx : BitVec 16)
  | tlbInvAll
  | tlbInvNone
  | tlbInvComplete
  | scrubSet (count : BitVec 31)
  | l2ModeChange (req : Bool)
  | l1ModeSwitch (cluster : Nat)
  | ctxCreate (ctx : BitVec 16)
  | ctxDestroy (ctx : BitVec 16)
  | lqCfgWrite (q : Nat) (v : DWord)
  | lqDoorbell (q : Nat) (v : DWord)
  -- dispatch (14, 15)
  | dispatchTakeRecord (q : Nat)
  | gridStart (grid : Nat)
  | teamAdmit
  | groupGrow (core : Nat)
  | shrinkRequest
  | shrinkWaitExpire
  | quantumExpire (core slot : Nat)
  | preemptTeam (core slot : Nat)
  | teamRestore
  | coreQuiesce (o : CoreOrder)
  | gridEnd (grid : Nat)
  | throttleWindowEnd (core : Nat)
  -- power, clocks and wear (16)
  | ntWindowEnd (core : Nat)
  | ratioChange (region : Nat)
  | refLoss (region : Nat)
  | refReturn (region : Nat)
  | supplyDroop (region : Nat)
  | throttleCause (region : Nat) (cause : ThrCause)
  | pwrTokSizeWrite (v : DWord)
  | wearTick (regions : List RegionSample) (units : List WearSample)
  | wearCommit
  | powerLoss
  | coreRetire (core spare : Nat)
  | boostEvaluate
  | boostGrantExpire (grant : Nat)
  | energyLoRead (die : Nat) (r : Reader)
  | energyHiRead (die : Nat) (r : Reader)
  | registerWrite (w : Writer) (reg : RegName) (index : Nat) (v : DWord)
  -- trust (17)
  | getCertificate (slot : Nat)
  | challenge (slot : Nat) (nonce : Nat)
  | getMeasurements (index : Nat) (raw : Bool) (signed : Option Nat)
  | keyExchange (session : Nat)
  | finish (session : Nat)
  | setCertificate (slot : Nat) (chain : List Byte) (session : Nat)
  | endSession (session : Nat)
  | ideKeyProgram (m : IdeKeyMsg)
  | ideStallTimeout (stream : Nat)
  | weightKeyInstall (ctx : BitVec 16) (slot : BitVec 4) (key : Option KeyMaterial) (session : Nat)
  | sharedRangeWrite (i : Nat) (v : DWord) (session : Nat)
  | fullReset (cause : ResetCause)
  | devCtlReset (v : DWord)
  -- faults of fetch and decode, and the remaining steps
  | unassignedEncoding (parcel : Word)
  | instructionFetchFault (code : BitVec 8) (addr : DWord) (aux : DWord)
  | accComplete (core op : Nat)
  | portUp (port : Nat)
  | farEndParkRequest (port : Nat) (q : BitVec 2)
  | hostCompletionTimeout (core id : Nat)
  | energyWrap (die : Nat) (units : BitVec 48)
  | islandPointSettled (core island : Nat)
  | calibrationFactorSet (unit : Nat) (cB cH cE : BitVec 16)
  | getVersion
  | getCapabilities
  | negotiateAlgorithms
  | getDigests
  | bringupReady
  | l2ModeChangeComplete
  | scrubSetComplete
  deriving DecidableEq, Repr

end Sys2Proof
end

