-- ==== Sys2Proof/WellFormed.lean ====
section
/-! DEFINITION. Which instructions are well formed: every field at a value that its encoding can carry
(spec 09 R206, R207 and the field tables of 10 to 13), every event argument inside the part's figures
(00 R1). -/

namespace Sys2Proof

/-- A source field holds what an 11-bit code can say: `bad` only for codes from 0x420 up (R208). -/
def Src.wf : Src → Bool
  | .bad c => 0x420 ≤ c.toNat
  | _ => true

/-- A source field that the description marks unused is zero (R207, R226). -/
def Src.unused (s : Src) : Bool := s == .reg 0

/-- A guard destination: DST[9:3] is 0 (R229). -/
def guardDst (dst : BitVec 10) : Bool := dst.toNat < 8

/-- A binary integer form without the modifier flag. -/
def VBin.plain (f : VBin) : Bool := !f.m && f.a.wf && f.b.wf
/-- A binary integer form that takes .sat. -/
def VBin.withSat (f : VBin) : Bool := f.a.wf && f.b.wf
/-- A unary integer form without the modifier flag. -/
def VUn.plain (f : VUn) : Bool := !f.m && f.a.wf
/-- A three-source integer form without the modifier flag. -/
def TInt.plain (f : TInt) : Bool := !f.m && f.a.wf && f.b.wf && f.c.wf
/-- A three-source integer form, modifier flag allowed. -/
def TInt.withM (f : TInt) : Bool := f.a.wf && f.b.wf && f.c.wf
/-- An immediate form without the modifier flag. -/
def IForm.plain (f : IForm) : Bool := !f.m && f.a.wf

/-- The float scalar forms: rounding 00 where nothing is rounded (R255). -/
def FBin.rounds (f : FBin) : Bool := f.a.wf && f.b.wf
def FBin.exact (f : FBin) : Bool := f.rnd == .rn && f.a.wf && f.b.wf
def FUn.rounds (f : FUn) : Bool := f.a.wf
def FUn.exact (f : FUn) : Bool := f.rnd == .rn && f.a.wf
def FTri.wf (f : FTri) : Bool := f.a.wf && f.b.wf && f.c.wf
/-- The packed forms take only 16-bit types (R257). -/
def FTy.packed (t : FTy) : Bool := t != .f32

/-- The source types that R249 calls floats. -/
def CTy.isFloat : CTy → Bool
  | .f32 | .f16 | .bf16 | .e4m3 | .e5m2 | .e2m1 | .e3m5 => true
  | _ => false

/-- The integer types of Table 10.7. -/
def CTy.isInt : CTy → Bool
  | .i8 | .n8 | .i16 | .n16 | .i32 | .n32 | .i64 | .n64 | .i4 | .n4 => true
  | _ => false

/-- Width in bits of an element of a conversion type. -/
def CTy.bits : CTy → Nat
  | .f32 | .i32 | .n32 => 32
  | .f16 | .bf16 | .i16 | .n16 => 16
  | .e4m3 | .e5m2 | .e3m5 | .i8 | .n8 => 8
  | .e2m1 | .lut4 | .i4 | .n4 => 4
  | .i64 | .n64 => 64

/-- FP32, FP16 or BF16: the float types Table 8.7 converts from and to integers. -/
def CTy.wideFloat : CTy → Bool
  | .f32 | .f16 | .bf16 => true
  | _ => false

/-- The 8-bit and 4-bit floats of Table 8.7. -/
def CTy.smallFloat : CTy → Bool
  | .e4m3 | .e5m2 | .e2m1 | .e3m5 => true
  | _ => false

/-- Source and destination form a row of Table 8.7 (R249). -/
def legalCvt (d s : CTy) : Bool :=
  d != s &&
    ((s == .f32 && (d == .f16 || d == .bf16))
      || ((s == .f16 || s == .bf16 || s.smallFloat) && d == .f32)
      || (s.smallFloat && (d == .f16 || d == .bf16))
      || (s == .lut4 && d.wideFloat)
      || (s.wideFloat && d.smallFloat)
      || (s.wideFloat && d.isInt)
      || (s.isInt && d.wideFloat)
      || (s.isInt && d.isInt))

/-- The pairs that Table 8.7 makes exact whatever the value: widening floats, LUT4 to BF16 and FP32, and
integer to integer (R249: rounding code 00). A pair of an integer and a wide float whose values all fit, such as i8 to f32, stands
in a row that Table 8.7 does not mark exact: the model takes every rounding code for it (log entry 77). -/
def exactCvt (d s : CTy) : Bool :=
  ((s == .f16 || s == .bf16 || s.smallFloat) && d == .f32)
    || (s.smallFloat && (d == .f16 || d == .bf16))
    || (s == .lut4 && (d == .bf16 || d == .f32))
    || (s.isInt && d.isInt)

/-- cvt (R249, R250). -/
def cvtWf (d s : CTy) (rnd : Rnd) (ct : BitVec 2) : Bool :=
  legalCvt d s && (!exactCvt d s || rnd == .rn) && (s == .lut4 || ct == 0)

/-- A packable element type: 16, 8 or 4 bits and not lut4 (R251, R252). -/
def CTy.packable (t : CTy) : Bool := t.bits ≤ 16 && t != .lut4

/-- cvtpk (R251). -/
def cvtpkWf (d s : CTy) (rnd : Rnd) (p : BitVec 2) : Bool :=
  d.packable && (s == .f32 || s == .i32 || s == .n32) && legalCvt d s
    && (!exactCvt d s || rnd == .rn) && (2 * p.toNat + 2) * d.bits ≤ 32

/-- unpk (R252). -/
def unpkWf (d s : CTy) (e : BitVec 4) : Bool :=
  s.packable && legalCvt d s && (if s.isFloat then d == .f32 else d == .i32 || d == .n32)
    && (e.toNat + 1) * s.bits ≤ 32

/-- rq (R261). -/
def rqWf (ty : RqTy) (e : BitVec 5) : Bool :=
  match ty with
  | .i8 | .n8 => e.toNat < 4
  | .i4 | .n4 => e.toNat < 8

/-- red and scan (R267): which operations a type takes, and when a rounding code may be nonzero. -/
def redWf (op : RedOp) (ty : RedTy) (rnd : Rnd) : Bool :=
  match ty with
  | .f32 | .f16 | .bf16 =>
    (op == .add || op == .min || op == .max) && (op == .add || rnd == .rn)
  | _ => rnd == .rn

/-- atom (Table 12.2). -/
def atomWf (op : AtomOp) (ty : AtomTy) : Bool :=
  match op with
  | .xchg | .min | .max => true
  | .and | .or | .xor => ty != .f32
  | .fadd => ty == .f32

/-- fcmp takes every condition; icmp and icmpi codes 0 to 5 (Table 10.5). -/
def Cond.forInt : Cond → Bool
  | .eq | .ne | .lt | .le | .gt | .ge => true
  | _ => false

/-- A combining operand is named only with an operator (R243). -/
def combWf (op : Comb) (gc : Pred) : Bool := op != .none || gc == ⟨0, false⟩

/-- Pairs of Table 13.2: A format, B format. -/
def mxPair (a b : MxFmt) : Bool :=
  match a with
  | .e2m1 => b == .e2m1
  | .e4m3 | .e5m2 => b == .e4m3 || b == .e5m2
  | .bf16 | .lut4 => b == .bf16 || b == .lut4
  | .f16 => b == .f16
  | .i8 | .n8 => b == .i8 || b == .n8
  | .i4 | .n4 => b == .i4 || b == .n4

/-- mma (R318). -/
def MmaForm.wf (f : MmaForm) : Bool :=
  mxPair f.afmt f.bfmt && f.a.wf && (f.afmt == .lut4 || f.ca == 0) && (f.bfmt == .lut4 || f.cb == 0)

/-- mma.ldb (R319). -/
def LdbForm.wf (f : LdbForm) : Bool :=
  f.a.wf && f.lay.wf && f.q.wf && (f.ct || (f.key == 0 && f.lay.unused && f.q.unused))

/-- A core of the module: cluster × 256 + logical index (R2). -/
def coreOk (c : Nat) : Bool := c < 2048
/-- A switch: 0 to 7 the cluster switches, 8 and 9 X0 and X1 (Table 6.2). -/
def switchOk (s : Nat) : Bool := s < 10
/-- A clock region: die × 17 + region for the compute dies, then four regions for each exchange die (R374). -/
def regionOk (r : Nat) : Bool := r < 144
/-- An optical port. -/
def portOk (p : Nat) : Bool := p < 12

/-- Well-formed instructions and events. -/
def Instr.wf : Instr → Bool
  | .nop | .ret | .exit | .yield | .cpySeal | .detach | .rtrap | .ntHintEnter | .ntHintLeave => true
  | .bra _ _ | .call _ _ | .flwait _ | .pxLit _ | .pxScope _ _ | .trap _ | .brk _ | .cpyWait _ _ | .bar _ _ => true
  | .brr a | .callr a => a.wf
  | .pxTile t => 1 ≤ t.toNat && t.toNat ≤ 5
  | .add f | .sub f => f.withSat
  | .mul f | .mulhi f | .min f | .max f | .div f | .rem f => f.plain
  | .and f | .or f | .xor f | .shl f | .shr f | .sar f | .rotl f => f.plain
  | .mulw f => f.plain && !f.t.w
  | .mad f | .sad f | .bfe f | .bfi f => f.plain
  | .perm f => f.plain && !f.t.w
  | .fsh f => f.withM
  | .lea f _ => f.plain && !f.t.w
  | .lop3 f _ => f.plain
  | .abs f => !f.t.u && f.a.wf
  | .neg f => f.a.wf
  | .not f | .popc f | .clz f | .brev f | .mov f => f.plain
  | .addi f => f.a.wf
  | .muli f | .andi f | .ori f | .xori f | .shli f | .shri f | .sari f => f.plain
  | .movi f => !f.m && f.a.unused
  | .gtag _ a _ => a.wf
  | .icmp h c _ op gc a b => guardDst h.dst && c.forInt && combWf op gc && a.wf && b.wf
  | .fcmp h _ _ op gc a b => guardDst h.dst && combWf op gc && a.wf && b.wf
  | .icmpi d c _ a _ => guardDst d && c.forInt && a.wf
  | .gop h _ _ _ => guardDst h.dst
  | .gmov h m =>
    match m with
    | .toReg _ => true
    | .toGuard a => guardDst h.dst && a.wf
  | .sel f => f.a.wf && f.b.wf
  | .fclass h _ a _ => guardDst h.dst && a.wf
  | .cvt _ d s r ct a => cvtWf d s r ct && a.wf
  | .cvtpk _ d s r p a b => cvtpkWf d s r p && a.wf && b.wf
  | .unpk _ d s e a => unpkWf d s e && a.wf
  | .lut _ _ _ _ a => a.wf
  | .frnd _ _ _ a => a.wf
  | .rq _ ty _ _ e a b c => rqWf ty e && a.wf && b.wf && c.wf
  | .fadd f | .fsub f | .fmul f => f.rounds
  | .fma f => f.wf
  | .fmin f | .fmax f | .fcpsgn f => f.exact
  | .fabs f | .fneg f => f.exact
  | .fadd2 f | .fmul2 f => f.rounds && f.ty.packed
  | .fma2 f | .fdot2 f => f.wf && f.ty.packed
  | .fmin2 f | .fmax2 f => f.exact && f.ty.packed
  | .rcp f | .sqrt f => f.rounds
  | .rsqrt f | .exp2 f | .log2 f | .sin f | .cos f | .tanh f => f.exact
  | .shfl _ _ _ _ a b => a.wf && b.wf
  | .vote h m _ => m == .ballot || guardDst h.dst
  | .red _ op ty r a => redWf op ty r && a.wf
  | .scan _ op ty r _ a => redWf op ty r && a.wf
  | .twset _ => true
  | .matchLanes _ _ a => a.wf
  | .ld f => f.srcd.unused && f.addr.wf
  | .st f => f.dst == 0 && f.srcd.wf && f.addr.wf
  | .faa f _ => f.srcd.wf && f.addr.wf && f.srce.unused
  | .atom f op ty => atomWf op ty && f.srcd.wf && f.addr.wf && f.srce.unused
  | .cas f _ => f.srcd.wf && f.addr.wf && f.srce.wf
  | .fence o _ => o != .relaxed
  | .cachePin h a | .cacheUnpin h a => h.reuse == 0 && a.wf
  | .cpy _ sz d s => sz.toNat < 3 && d.wf && s.wf
  | .tcpy f => f.mb.wf && f.sb.wf && f.lay.wf && f.q.wf
  | .ringWait h _ _ _ s | .ringArrive h _ _ s => h.reuse == 0 && h.dst == 0 && s.wf
  | .tlwait h _ _ n => h.reuse == 0 && h.dst == 0 && n.wf
  | .attach h _ => h.reuse == 0
  | .shrinkq h => h.reuse == 0
  | .launch _ r q => r.wf && q.wf
  | .mma f => f.wf
  | .mmaLdb f => f.wf
  | .sclPush h m s => h.dst == 0 && m.wf && s.wf
  | .ctSet h _ a => h.dst == 0 && a.wf
  | .gangSet h a => h.reuse == 0 && h.dst == 0 && a.wf
  | .acc f => (f.op != .zero || f.a.unused) && f.a.wf && f.row0.wf && f.count.wf
  | .epiLd _ a => a.wf
  | .epiRun f => f.sb.wf && f.c.wf && f.p.wf
  | .sleepNs h d | .waitNs h d => h.reuse == 0 && h.dst == 0 && d.wf
  | .boost h p t => h.reuse == 0 && p.wf && t.wf
  | .wearRd h s => h.reuse == 0 && s.wf
  | .sealPut h a n => h.reuse == 0 && a.wf && n.wf
  | .sfuComplete c _ | .accessPerform c _ | .releasePoint c _ | .acquirePoint c _ => coreOk c
  | .loadComplete c _ | .atomicReply c _ | .walkComplete c _ _ | .remoteScratchRequest c _ => coreOk c
  | .scratchLineZeroed c l => coreOk c && l < 1024
  | .fill l _ | .evict l _ => l < 2056
  | .sweepComplete _ => true
  | .cread c _ _ | .cwrite c _ _ | .ceRetry c | .ceAbort c | .ceAnswerTimeout c _ => coreOk c
  | .mmaLdbComplete c _ | .tokenGrant c | .engineHeldAccept c | .mmaComplete c _ => coreOk c
  | .ctSetComplete c _ | .epiRunComplete c _ | .accComplete c _ => coreOk c
  | .sealChunkComplete _ _ => true
  | .waitExpire c _ l => coreOk c && l < 32
  | .fltRetry c | .deliver c | .fltContinue c | .killGroup c | .killGrid c => coreOk c
  | .switchRequestArrival w _ | .combineWindowClose w _ | .contrailReplySplit w _ _ | .recordExpire w _ => switchOk w
  | .fabricTimeout c _ | .hostCompletionTimeout c _ => coreOk c
  | .hostAccess r => r.write.all (fun d => d.length == r.count)
  | .hostRegisterAccess _ _ _ _ _ => true
  | .peerRequest r => r.peer < 4096 && portOk r.port
  | .flitReplay p _ | .portRetrain p _ | .portDown p | .parkReqWrite p _ | .parkAck p | .parkTimeout p => portOk p
  | .portUp p | .farEndParkRequest p _ => portOk p
  | .cgtEntryWrite p _ => p < 4096
  | .holdTimeout c _ | .l1ModeSwitch c => c < 8
  | .expansionHotRemove d => d < 8
  | .patrolRead _ => true
  | .tlbInvPage _ | .tlbInvCtx _ | .tlbInvAll | .tlbInvNone | .tlbInvComplete => true
  | .scrubSet _ | .scrubSetComplete | .l2ModeChange _ | .l2ModeChangeComplete => true
  | .ctxCreate _ | .ctxDestroy _ => true
  | .lqCfgWrite q _ | .lqDoorbell q _ | .dispatchTakeRecord q => q < 64
  | .gridStart _ | .gridEnd _ | .teamAdmit | .teamRestore | .shrinkRequest | .shrinkWaitExpire => true
  | .coreQuiesce o => coreOk o.core
  | .groupGrow c | .throttleWindowEnd c | .ntWindowEnd c => coreOk c
  | .quantumExpire c s | .preemptTeam c s => coreOk c && s < 32
  | .ratioChange r | .refLoss r | .refReturn r | .supplyDroop r | .throttleCause r _ => regionOk r
  | .pwrTokSizeWrite _ | .wearTick _ _ | .wearCommit | .powerLoss | .boostEvaluate | .boostGrantExpire _ => true
  | .coreRetire c _ => coreOk c
  | .energyLoRead d _ | .energyHiRead d _ | .energyWrap d _ => d < 10
  | .registerWrite _ _ _ _ => true
  | .getVersion | .getCapabilities | .negotiateAlgorithms | .getDigests => true
  | .getCertificate s | .challenge s _ | .setCertificate s _ _ => s < 8
  | .getMeasurements _ _ s => s.all (· < 8)
  | .keyExchange _ | .finish _ | .endSession _ | .ideKeyProgram _ | .ideStallTimeout _ => true
  | .weightKeyInstall _ _ _ _ => true
  | .sharedRangeWrite i _ _ => i < 8
  | .fullReset _ | .devCtlReset _ | .bringupReady => true
  | .unassignedEncoding _ | .instructionFetchFault _ _ _ => true
  | .islandPointSettled c i => coreOk c && i < 4
  | .calibrationFactorSet _ _ _ _ => true

end Sys2Proof
end

