-- ==== Sys2Proof/Decode.lean ====
section
/-! DEFINITION. The decoder (spec 09 R205 to R218 and the field tables of 10 to 13) and, after it, the encoder
written from the same tables. A decoder reads the parcels from an instruction's first parcel to the end of its
line; it gives the instruction and its length, or names what is wrong (R217, steps 2 and 3). -/

namespace Sys2Proof

/-- What the decoder rejects by name; each is an unassigned encoding (R207, R218) or a length fault (R205). -/
inductive DecodeError where
  /-- no parcel is left in the line -/
  | noParcel
  /-- the instruction would run past slot 14 (R205) -/
  | pastLineEnd
  /-- the major is unassigned, or assigned to another class (R218) -/
  | unassignedMajor
  /-- an RSV bit or an unused field is not 0 (R207) -/
  | reservedBits
  /-- FLAG 12 to 14 (R212) -/
  | badFlag
  /-- SCOPE 110 or 111 (R216) -/
  | badScope
  /-- a field holds a value its description does not define (R207) -/
  | undefinedField
  /-- a prefix of KIND 11 (R214) -/
  | prefixKind
  /-- a prefix whose payload is undefined (R214, R216) -/
  | prefixPayload
  deriving DecidableEq, Repr

/-! ## Codes of the enumerations -/

/-- The codes of `Lit`. -/
def Lit.code : Lit → Nat
  | .zero => 0
  | .one => 1
  | .two => 2
  | .four => 3
  | .eight => 4
  | .sixteen => 5
  | .thirtyTwo => 6
  | .minusOne => 7
  | .bit31 => 8
  | .fOne => 9
  | .fMinusOne => 10
  | .fHalf => 11
  | .fTwo => 12
  | .halfOnes => 13
  | .bfOnes => 14
  | .fInf => 15

/-- `Lit` read from its code; none where the code is not assigned. -/
def Lit.ofCode : Nat → Option Lit
  | 0 => some .zero
  | 1 => some .one
  | 2 => some .two
  | 3 => some .four
  | 4 => some .eight
  | 5 => some .sixteen
  | 6 => some .thirtyTwo
  | 7 => some .minusOne
  | 8 => some .bit31
  | 9 => some .fOne
  | 10 => some .fMinusOne
  | 11 => some .fHalf
  | 12 => some .fTwo
  | 13 => some .halfOnes
  | 14 => some .bfOnes
  | 15 => some .fInf
  | _ => none

/-- The codes of `Special`. -/
def Special.code : Special → Nat
  | .lane => 0
  | .group => 1
  | .tx => 2
  | .ty => 3
  | .tz => 4
  | .team => 5
  | .grid => 6
  | .core => 7
  | .cluster => 8
  | .rank => 9
  | .tw => 10
  | .depth => 11
  | .ns => 12
  | .role => 13
  | .live => 14
  | .cyc => 15

/-- `Special` read from its code; none where the code is not assigned. -/
def Special.ofCode : Nat → Option Special
  | 0 => some .lane
  | 1 => some .group
  | 2 => some .tx
  | 3 => some .ty
  | 4 => some .tz
  | 5 => some .team
  | 6 => some .grid
  | 7 => some .core
  | 8 => some .cluster
  | 9 => some .rank
  | 10 => some .tw
  | 11 => some .depth
  | 12 => some .ns
  | 13 => some .role
  | 14 => some .live
  | 15 => some .cyc
  | _ => none

/-- The codes of `Scope`. -/
def Scope.code : Scope → Nat
  | .lane => 0
  | .grp => 1
  | .team => 2
  | .cl => 3
  | .dev => 4
  | .sys => 5

/-- `Scope` read from its code; none where the code is not assigned. -/
def Scope.ofCode : Nat → Option Scope
  | 0 => some .lane
  | 1 => some .grp
  | 2 => some .team
  | 3 => some .cl
  | 4 => some .dev
  | 5 => some .sys
  | _ => none

/-- The codes of `MemOrd`. -/
def MemOrd.code : MemOrd → Nat
  | .relaxed => 0
  | .acq => 1
  | .rel => 2
  | .ar => 3
  | .sc => 4

/-- `MemOrd` read from its code; none where the code is not assigned. -/
def MemOrd.ofCode : Nat → Option MemOrd
  | 0 => some .relaxed
  | 1 => some .acq
  | 2 => some .rel
  | 3 => some .ar
  | 4 => some .sc
  | _ => none

/-- The codes of `Cond`. -/
def Cond.code : Cond → Nat
  | .eq => 0
  | .ne => 1
  | .lt => 2
  | .le => 3
  | .gt => 4
  | .ge => 5
  | .num => 6
  | .nan => 7
  | .equ => 8
  | .neu => 9
  | .ltu => 10
  | .leu => 11
  | .gtu => 12
  | .geu => 13

/-- `Cond` read from its code; none where the code is not assigned. -/
def Cond.ofCode : Nat → Option Cond
  | 0 => some .eq
  | 1 => some .ne
  | 2 => some .lt
  | 3 => some .le
  | 4 => some .gt
  | 5 => some .ge
  | 6 => some .num
  | 7 => some .nan
  | 8 => some .equ
  | 9 => some .neu
  | 10 => some .ltu
  | 11 => some .leu
  | 12 => some .gtu
  | 13 => some .geu
  | _ => none

/-- The codes of `Comb`. -/
def Comb.code : Comb → Nat
  | .none => 0
  | .and => 1
  | .or => 2
  | .xor => 3

/-- `Comb` read from its code; none where the code is not assigned. -/
def Comb.ofCode : Nat → Option Comb
  | 0 => some .none
  | 1 => some .and
  | 2 => some .or
  | 3 => some .xor
  | _ => none

/-- The codes of `GOp`. -/
def GOp.code : GOp → Nat
  | .and => 0
  | .or => 1
  | .xor => 2

/-- `GOp` read from its code; none where the code is not assigned. -/
def GOp.ofCode : Nat → Option GOp
  | 0 => some .and
  | 1 => some .or
  | 2 => some .xor
  | _ => none

/-- The codes of `Rnd`. -/
def Rnd.code : Rnd → Nat
  | .rn => 0
  | .rz => 1
  | .rm => 2
  | .rp => 3

/-- `Rnd` read from its code; none where the code is not assigned. -/
def Rnd.ofCode : Nat → Option Rnd
  | 0 => some .rn
  | 1 => some .rz
  | 2 => some .rm
  | 3 => some .rp
  | _ => none

/-- The codes of `FTy`. -/
def FTy.code : FTy → Nat
  | .f32 => 0
  | .f16 => 1
  | .bf16 => 2

/-- `FTy` read from its code; none where the code is not assigned. -/
def FTy.ofCode : Nat → Option FTy
  | 0 => some .f32
  | 1 => some .f16
  | 2 => some .bf16
  | _ => none

/-- The codes of `CTy`. -/
def CTy.code : CTy → Nat
  | .f32 => 0
  | .f16 => 1
  | .bf16 => 2
  | .e4m3 => 3
  | .e5m2 => 4
  | .e2m1 => 5
  | .e3m5 => 6
  | .lut4 => 7
  | .i8 => 8
  | .n8 => 9
  | .i16 => 10
  | .n16 => 11
  | .i32 => 12
  | .n32 => 13
  | .i64 => 14
  | .n64 => 15
  | .i4 => 16
  | .n4 => 17

/-- `CTy` read from its code; none where the code is not assigned. -/
def CTy.ofCode : Nat → Option CTy
  | 0 => some .f32
  | 1 => some .f16
  | 2 => some .bf16
  | 3 => some .e4m3
  | 4 => some .e5m2
  | 5 => some .e2m1
  | 6 => some .e3m5
  | 7 => some .lut4
  | 8 => some .i8
  | 9 => some .n8
  | 10 => some .i16
  | 11 => some .n16
  | 12 => some .i32
  | 13 => some .n32
  | 14 => some .i64
  | 15 => some .n64
  | 16 => some .i4
  | 17 => some .n4
  | _ => none

/-- The codes of `RqTy`. -/
def RqTy.code : RqTy → Nat
  | .i8 => 0
  | .n8 => 1
  | .i4 => 2
  | .n4 => 3

/-- `RqTy` read from its code; none where the code is not assigned. -/
def RqTy.ofCode : Nat → Option RqTy
  | 0 => some .i8
  | 1 => some .n8
  | 2 => some .i4
  | 3 => some .n4
  | _ => none

/-- The codes of `MemTy`. -/
def MemTy.code : MemTy → Nat
  | .n8 => 0
  | .i8 => 1
  | .n16 => 2
  | .i16 => 3
  | .n32 => 4
  | .i32 => 5
  | .n64 => 6
  | .i64 => 7
  | .b128 => 8

/-- `MemTy` read from its code; none where the code is not assigned. -/
def MemTy.ofCode : Nat → Option MemTy
  | 0 => some .n8
  | 1 => some .i8
  | 2 => some .n16
  | 3 => some .i16
  | 4 => some .n32
  | 5 => some .i32
  | 6 => some .n64
  | 7 => some .i64
  | 8 => some .b128
  | _ => none

/-- The codes of `Space`. -/
def Space.code : Space → Nat
  | .any => 0
  | .g => 1
  | .s => 2
  | .p => 3

/-- `Space` read from its code; none where the code is not assigned. -/
def Space.ofCode : Nat → Option Space
  | 0 => some .any
  | 1 => some .g
  | 2 => some .s
  | 3 => some .p
  | _ => none

/-- The codes of `AtTy`. -/
def AtTy.code : AtTy → Nat
  | .i32 => 0
  | .n32 => 1
  | .i64 => 2
  | .n64 => 3

/-- `AtTy` read from its code; none where the code is not assigned. -/
def AtTy.ofCode : Nat → Option AtTy
  | 0 => some .i32
  | 1 => some .n32
  | 2 => some .i64
  | 3 => some .n64
  | _ => none

/-- The codes of `AtomTy`. -/
def AtomTy.code : AtomTy → Nat
  | .i32 => 0
  | .n32 => 1
  | .i64 => 2
  | .n64 => 3
  | .f32 => 4

/-- `AtomTy` read from its code; none where the code is not assigned. -/
def AtomTy.ofCode : Nat → Option AtomTy
  | 0 => some .i32
  | 1 => some .n32
  | 2 => some .i64
  | 3 => some .n64
  | 4 => some .f32
  | _ => none

/-- The codes of `AtomOp`. -/
def AtomOp.code : AtomOp → Nat
  | .xchg => 0
  | .min => 1
  | .max => 2
  | .and => 3
  | .or => 4
  | .xor => 5
  | .fadd => 6

/-- `AtomOp` read from its code; none where the code is not assigned. -/
def AtomOp.ofCode : Nat → Option AtomOp
  | 0 => some .xchg
  | 1 => some .min
  | 2 => some .max
  | 3 => some .and
  | 4 => some .or
  | 5 => some .xor
  | 6 => some .fadd
  | _ => none

/-- The codes of `ShflMode`. -/
def ShflMode.code : ShflMode → Nat
  | .idx => 0
  | .up => 1
  | .down => 2
  | .xor => 3

/-- `ShflMode` read from its code; none where the code is not assigned. -/
def ShflMode.ofCode : Nat → Option ShflMode
  | 0 => some .idx
  | 1 => some .up
  | 2 => some .down
  | 3 => some .xor
  | _ => none

/-- The codes of `VoteMode`. -/
def VoteMode.code : VoteMode → Nat
  | .all => 0
  | .any => 1
  | .uni => 2
  | .ballot => 3

/-- `VoteMode` read from its code; none where the code is not assigned. -/
def VoteMode.ofCode : Nat → Option VoteMode
  | 0 => some .all
  | 1 => some .any
  | 2 => some .uni
  | 3 => some .ballot
  | _ => none

/-- The codes of `RedOp`. -/
def RedOp.code : RedOp → Nat
  | .add => 0
  | .min => 1
  | .max => 2
  | .and => 3
  | .or => 4
  | .xor => 5

/-- `RedOp` read from its code; none where the code is not assigned. -/
def RedOp.ofCode : Nat → Option RedOp
  | 0 => some .add
  | 1 => some .min
  | 2 => some .max
  | 3 => some .and
  | 4 => some .or
  | 5 => some .xor
  | _ => none

/-- The codes of `RedTy`. -/
def RedTy.code : RedTy → Nat
  | .i32 => 0
  | .n32 => 1
  | .i64 => 2
  | .n64 => 3
  | .f32 => 4
  | .f16 => 5
  | .bf16 => 6

/-- `RedTy` read from its code; none where the code is not assigned. -/
def RedTy.ofCode : Nat → Option RedTy
  | 0 => some .i32
  | 1 => some .n32
  | 2 => some .i64
  | 3 => some .n64
  | 4 => some .f32
  | 5 => some .f16
  | 6 => some .bf16
  | _ => none

/-- The codes of `BarMode`. -/
def BarMode.code : BarMode → Nat
  | .sync => 0
  | .arrive => 1
  | .wait => 2

/-- `BarMode` read from its code; none where the code is not assigned. -/
def BarMode.ofCode : Nat → Option BarMode
  | 0 => some .sync
  | 1 => some .arrive
  | 2 => some .wait
  | _ => none

/-- The codes of `Role`. -/
def Role.code : Role → Nat
  | .copy => 0
  | .matrix => 1
  | .vector => 2

/-- `Role` read from its code; none where the code is not assigned. -/
def Role.ofCode : Nat → Option Role
  | 0 => some .copy
  | 1 => some .matrix
  | 2 => some .vector
  | _ => none

/-- The codes of `MxFmt`. -/
def MxFmt.code : MxFmt → Nat
  | .e2m1 => 0
  | .e4m3 => 1
  | .e5m2 => 2
  | .bf16 => 3
  | .f16 => 4
  | .lut4 => 5
  | .i8 => 6
  | .n8 => 7
  | .i4 => 8
  | .n4 => 9

/-- `MxFmt` read from its code; none where the code is not assigned. -/
def MxFmt.ofCode : Nat → Option MxFmt
  | 0 => some .e2m1
  | 1 => some .e4m3
  | 2 => some .e5m2
  | 3 => some .bf16
  | 4 => some .f16
  | 5 => some .lut4
  | 6 => some .i8
  | 7 => some .n8
  | 8 => some .i4
  | 9 => some .n4
  | _ => none

/-- The codes of `AccOp`. -/
def AccOp.code : AccOp → Nat
  | .zero => 0
  | .ld => 1
  | .st => 2

/-- `AccOp` read from its code; none where the code is not assigned. -/
def AccOp.ofCode : Nat → Option AccOp
  | 0 => some .zero
  | 1 => some .ld
  | 2 => some .st
  | _ => none
/-! ## Fields -/

/-- A source code (R208). -/
def Src.ofCode (c : BitVec 11) : Src :=
  if c.toNat < 0x400 then .reg (c.setWidth 10)
  else if c.toNat < 0x410 then
    match Lit.ofCode (c.toNat - 0x400) with
    | some k => .lit k
    | none => .bad c
  else if c.toNat < 0x420 then
    match Special.ofCode (c.toNat - 0x410) with
    | some k => .special k
    | none => .bad c
  else .bad c

/-- The code of a source. -/
def Src.code : Src → BitVec 11
  | .reg r => r.setWidth 11
  | .lit k => BitVec.ofNat 11 (0x400 + k.code)
  | .special k => BitVec.ofNat 11 (0x410 + k.code)
  | .bad c => c

/-- A guard selector (R210): bits 2:0 the guard, bit 3 the inversion. -/
def Pred.ofCode (c : BitVec 4) : Pred := ⟨c.setWidth 3, c.getLsbD 3⟩
def Pred.code (p : Pred) : BitVec 4 := BitVec.ofBool p.neg ++ p.idx

/-- FLAG (R212): 15 names none, 12 to 14 are illegal. -/
def flagOf (c : BitVec 4) : Except DecodeError FlagSel :=
  if h : c.toNat < 12 then .ok (some ⟨c.toNat, h⟩)
  else if c = 15 then .ok none
  else .error .badFlag

def flagCode : FlagSel → BitVec 4
  | some i => BitVec.ofNat 4 i.val
  | none => 15

/-- An Option from a code table as a decoding step. -/
def defined {α : Type} : Option α → Except DecodeError α
  | some a => .ok a
  | none => .error .undefinedField

/-- A SCOPE field (R216). -/
def scopeOf (c : BitVec 3) : Except DecodeError Scope :=
  match Scope.ofCode c.toNat with
  | some s => .ok s
  | none => .error .badScope

/-- Stop with an error unless the check holds. -/
def demand (b : Bool) (e : DecodeError) : Except DecodeError Unit :=
  if b then .ok () else .error e

/-- Bits l + n - 1 to l. -/
def fld {w : Nat} (x : BitVec w) (l n : Nat) : BitVec n := x.extractLsb' l n

/-! ## Raw formats (Table 9.3) -/

/-- The fields of an instruction before its major is read. -/
inductive Raw where
  | z (arg : BitVec 22) (major : BitVec 8)
  | b (off : BitVec 18) (guard : BitVec 4) (major : BitVec 8)
  | u (rsv : BitVec 1) (srca : BitVec 11) (dst : BitVec 10) (major : BitVec 8)
  | v (flag : BitVec 4) (reuse : BitVec 2) (moda : BitVec 6) (dst : BitVec 10) (major : BitVec 8)
      (modb : BitVec 10) (srcb srca : BitVec 11)
  | i (rsv : BitVec 1) (srca : BitVec 11) (dst : BitVec 10) (major : BitVec 8) (mod : BitVec 12) (imm : BitVec 20)
  | s (rsv : BitVec 2) (reuse : BitVec 2) (mod : BitVec 4) (dst : BitVec 10) (guard : BitVec 4) (major : BitVec 8)
      (modb : BitVec 10) (srcb srca : BitVec 11)
  | m (srcd : BitVec 11) (scope : BitVec 3) (flag guard : BitVec 4) (major : BitVec 8)
      (off : BitVec 5) (sp : BitVec 2) (ty : BitVec 4) (dst : BitVec 10) (addr : BitVec 11)
  | t (flag : BitVec 4) (reuse : BitVec 2) (moda : BitVec 6) (dst : BitVec 10) (major : BitVec 8)
      (modb : BitVec 10) (srcb srca : BitVec 11) (modc : BitVec 21) (srcc : BitVec 11)
  | a (rsv : BitVec 1) (dst : BitVec 10) (scope : BitVec 3) (flag guard : BitVec 4) (major : BitVec 8)
      (mod : BitVec 10) (srcd addr : BitVec 11) (off : BitVec 18) (gd : BitVec 3) (srce : BitVec 11)
  | x (moda : BitVec 8) (flag : BitVec 4) (dst : BitVec 10) (major : BitVec 8)
      (modb : BitVec 10) (srcb srca : BitVec 11) (modc : BitVec 10) (srcd srcc : BitVec 11)
  | p (payload : BitVec 28) (kind : BitVec 2)
  deriving DecidableEq, Repr

/-- The formats. -/
inductive Format where
  | z | b | u | v | i | s | m | t | a | x | p
  deriving DecidableEq, Repr

/-- The opcode map: every assigned major and its format (Table 9.8). -/
def formatOf (major : Nat) : Option Format :=
  match major with
  | 0x01 | 0x06 | 0x07 | 0x08 | 0x09 => some .z
  | 0x02 | 0x04 => some .b
  | 0x03 | 0x05 => some .u
  | 0x20 | 0x21 | 0x22 | 0x23 | 0x25 | 0x26 | 0x27 | 0x28 | 0x29 | 0x2A | 0x2C => some .v
  | 0x24 | 0x2B => some .t
  | 0x30 | 0x31 | 0x32 | 0x33 | 0x34 | 0x35 | 0x36 | 0x37 | 0x38 | 0x39 | 0x3A => some .v
  | 0x3B | 0x3C | 0x3D | 0x3E | 0x3F => some .t
  | 0x40 | 0x41 | 0x42 | 0x43 | 0x44 | 0x45 | 0x46 | 0x47 | 0x48 => some .i
  | 0x49 => some .v
  | 0x4A => some .i
  | 0x4B => some .t
  | 0x50 | 0x51 | 0x52 => some .v
  | 0x53 => some .s
  | 0x54 => some .v
  | 0x55 => some .i
  | 0x56 => some .v
  | 0x60 | 0x61 | 0x62 => some .v
  | 0x63 => some .t
  | 0x64 | 0x65 => some .v
  | 0x80 | 0x81 | 0x82 => some .v
  | 0x83 => some .t
  | 0x84 | 0x85 | 0x86 | 0x87 | 0x88 => some .v
  | 0x90 | 0x91 => some .v
  | 0x92 => some .t
  | 0x93 | 0x94 => some .v
  | 0x95 => some .t
  | 0xA0 | 0xA1 | 0xA2 | 0xA3 | 0xA4 | 0xA5 | 0xA6 | 0xA7 => some .v
  | 0xB0 | 0xB1 | 0xB2 | 0xB3 => some .v
  | 0xB4 => some .i
  | 0xB5 => some .v
  | 0xC0 | 0xC1 => some .m
  | 0xC4 | 0xC5 | 0xC6 => some .a
  | 0xC8 => some .z
  | 0xC9 => some .v
  | 0xCA => some .x
  | 0xCB | 0xCC => some .z
  | 0xCD => some .x
  | 0xE0 => some .z
  | 0xE1 | 0xE2 | 0xE3 | 0xE4 => some .v
  | 0xE5 => some .z
  | 0xE6 => some .v
  | 0xE7 => some .x
  | 0xF0 | 0xF1 => some .x
  | 0xF2 | 0xF3 | 0xF4 => some .v
  | 0xF5 | 0xF6 => some .x
  | 0xF8 | 0xF9 | 0xFA => some .z
  | 0xFB => some .v
  | 0xFC => some .z
  | 0xFD | 0xFE | 0xFF => some .v
  | _ => none

/-- The length class of a format: parcels, and the code in bits 1:0 (R205, Table 9.3). -/
def Format.cls : Format → Nat
  | .z | .b | .u => 0
  | .v | .i | .s | .m => 1
  | .t | .a | .x => 2
  | .p => 3

/-- Parcels of a class: 1, 2 or 3; a prefix is one parcel. -/
def clsParcels (c : Nat) : Nat := if c = 3 then 1 else c + 1

/-- The raw fields of the parcels p0 (and p1, p2) of a format. -/
def Raw.unpack (f : Format) (p0 p1 p2 : Word) : Raw :=
  match f with
  | .z => .z (fld p0 10 22) (fld p0 2 8)
  | .b => .b (fld p0 14 18) (fld p0 10 4) (fld p0 2 8)
  | .u => .u (fld p0 31 1) (fld p0 20 11) (fld p0 10 10) (fld p0 2 8)
  | .v => .v (fld p0 28 4) (fld p0 26 2) (fld p0 20 6) (fld p0 10 10) (fld p0 2 8)
      (fld p1 22 10) (fld p1 11 11) (fld p1 0 11)
  | .i => .i (fld p0 31 1) (fld p0 20 11) (fld p0 10 10) (fld p0 2 8) (fld p1 20 12) (fld p1 0 20)
  | .s => .s (fld p0 30 2) (fld p0 28 2) (fld p0 24 4) (fld p0 14 10) (fld p0 10 4) (fld p0 2 8)
      (fld p1 22 10) (fld p1 11 11) (fld p1 0 11)
  | .m => .m (fld p0 21 11) (fld p0 18 3) (fld p0 14 4) (fld p0 10 4) (fld p0 2 8)
      (fld p1 27 5) (fld p1 25 2) (fld p1 21 4) (fld p1 11 10) (fld p1 0 11)
  | .t => .t (fld p0 28 4) (fld p0 26 2) (fld p0 20 6) (fld p0 10 10) (fld p0 2 8)
      (fld p1 22 10) (fld p1 11 11) (fld p1 0 11) (fld p2 11 21) (fld p2 0 11)
  | .a => .a (fld p0 31 1) (fld p0 21 10) (fld p0 18 3) (fld p0 14 4) (fld p0 10 4) (fld p0 2 8)
      (fld p1 22 10) (fld p1 11 11) (fld p1 0 11) (fld p2 14 18) (fld p2 11 3) (fld p2 0 11)
  | .x => .x (fld p0 24 8) (fld p0 20 4) (fld p0 10 10) (fld p0 2 8)
      (fld p1 22 10) (fld p1 11 11) (fld p1 0 11) (fld p2 22 10) (fld p2 11 11) (fld p2 0 11)
  | .p => .p (fld p0 4 28) (fld p0 2 2)

/-- The parcels of raw fields, each listed from the high bit down as Table 9.3 lists them. -/
def Raw.pack : Raw → List Word
  | .z arg mj => [arg ++ mj ++ 0#2]
  | .b off g mj => [off ++ g ++ mj ++ 0#2]
  | .u rsv sa d mj => [rsv ++ sa ++ d ++ mj ++ 0#2]
  | .v fl re ma d mj mb sb sa => [fl ++ re ++ ma ++ d ++ mj ++ 1#2, mb ++ sb ++ sa]
  | .i rsv sa d mj mo im => [rsv ++ sa ++ d ++ mj ++ 1#2, mo ++ im]
  | .s rsv re mo d g mj mb sb sa => [rsv ++ re ++ mo ++ d ++ g ++ mj ++ 1#2, mb ++ sb ++ sa]
  | .m sd sc fl g mj off sp ty d ad => [sd ++ sc ++ fl ++ g ++ mj ++ 1#2, off ++ sp ++ ty ++ d ++ ad]
  | .t fl re ma d mj mb sb sa mc sc => [fl ++ re ++ ma ++ d ++ mj ++ 2#2, mb ++ sb ++ sa, mc ++ sc]
  | .a rsv d sc fl g mj mo sd ad off gd se =>
    [rsv ++ d ++ sc ++ fl ++ g ++ mj ++ 2#2, mo ++ sd ++ ad, off ++ gd ++ se]
  | .x ma fl d mj mb sb sa mc sd sc => [ma ++ fl ++ d ++ mj ++ 2#2, mb ++ sb ++ sa, mc ++ sd ++ sc]
  | .p pl k => [pl ++ k ++ 3#2]

/-! ## From raw fields to instructions -/

/-- FLAG, REUSE and DST of formats V and T. -/
def headOf (flag : BitVec 4) (reuse : BitVec 2) (dst : BitVec 10) : Except DecodeError VHead :=
  (flagOf flag).map fun f => ⟨f, reuse, dst⟩

/-- MODA of R226: W, U, the modifier flag; bits 5:3 must be 0. -/
def ityOf (moda : BitVec 6) : ITy := ⟨moda.getLsbD 0, moda.getLsbD 1⟩
def ityCode (t : ITy) (m : Bool) : BitVec 6 := 0#3 ++ BitVec.ofBool m ++ BitVec.ofBool t.u ++ BitVec.ofBool t.w

/-- An instruction that its well-formedness admits; otherwise a field holds an undefined or unused value. -/
def checkWf (i : Instr) : Except DecodeError Instr :=
  if i.wf then .ok i else .error .undefinedField

/-- Format Z (R230, R213, R233, R280, R283, R284, R290, R293, R298, R302 to R304). -/
def decodeZ (arg : BitVec 22) (mj : Nat) : Except DecodeError Instr :=
  match mj with
  | 0x01 => if arg = 0 then .ok .nop else .error .reservedBits
  | 0x06 => if arg = 0 then .ok .ret else .error .reservedBits
  | 0x07 => if arg = 0 then .ok .exit else .error .reservedBits
  | 0x08 => if arg = 0 then .ok .yield else .error .reservedBits
  | 0x09 => if fld arg 12 10 = 0 then .ok (.flwait (fld arg 0 12)) else .error .reservedBits
  | 0xC8 =>
    if fld arg 6 16 = 0 then
      (defined (MemOrd.ofCode (fld arg 0 3).toNat)).bind fun o =>
        (scopeOf (fld arg 3 3)).bind fun s => checkWf (.fence o s)
    else .error .reservedBits
  | 0xCB => if arg = 0 then .ok .cpySeal else .error .reservedBits
  | 0xCC => if fld arg 7 15 = 0 then .ok (.cpyWait (fld arg 0 4) (fld arg 4 3)) else .error .reservedBits
  | 0xE0 =>
    if fld arg 6 16 = 0 then (defined (BarMode.ofCode (fld arg 4 2).toNat)).map fun m => .bar (fld arg 0 4) m
    else .error .reservedBits
  | 0xE5 => if arg = 0 then .ok .detach else .error .reservedBits
  | 0xF8 => if fld arg 16 6 = 0 then .ok (.trap (fld arg 0 16)) else .error .reservedBits
  | 0xF9 => if arg = 0 then .ok .rtrap else .error .reservedBits
  | 0xFA => if fld arg 16 6 = 0 then .ok (.brk (fld arg 0 16)) else .error .reservedBits
  | 0xFC =>
    if arg = 0 then .ok .ntHintEnter
    else if arg = 1 then .ok .ntHintLeave
    else .error .undefinedField
  | _ => .error .unassignedMajor

/-- Format B (R231). -/
def decodeB (off : BitVec 18) (g : BitVec 4) (mj : Nat) : Except DecodeError Instr :=
  match mj with
  | 0x02 => .ok (.bra (Pred.ofCode g) off)
  | 0x04 => .ok (.call (Pred.ofCode g) off)
  | _ => .error .unassignedMajor

/-- Format U (R232). -/
def decodeU (rsv : BitVec 1) (a : BitVec 11) (dst : BitVec 10) (mj : Nat) : Except DecodeError Instr :=
  if rsv = 0 ∧ dst = 0 then
    match mj with
    | 0x03 => .ok (.brr (Src.ofCode a))
    | 0x05 => .ok (.callr (Src.ofCode a))
    | _ => .error .unassignedMajor
  else .error .reservedBits

/-- A two-source integer form of R226: MODB is 0, MODA[5:3] is 0. -/
def vbin (mk : VBin → Instr) (h : VHead) (ma : BitVec 6) (mb : BitVec 10) (sb sa : BitVec 11) : Except DecodeError Instr :=
  if mb = 0 ∧ fld ma 3 3 = 0 then checkWf (mk ⟨h, ityOf ma, ma.getLsbD 2, Src.ofCode sa, Src.ofCode sb⟩)
  else .error .reservedBits

/-- A one-source integer form of R226: MODB and SRCB are 0. -/
def vun (mk : VUn → Instr) (h : VHead) (ma : BitVec 6) (mb : BitVec 10) (sb sa : BitVec 11) : Except DecodeError Instr :=
  if mb = 0 ∧ sb = 0 ∧ fld ma 3 3 = 0 then checkWf (mk ⟨h, ityOf ma, ma.getLsbD 2, Src.ofCode sa⟩)
  else .error .reservedBits

/-- A float form of R255: type in MODA[1:0], rounding in MODA[3:2], MODA[5:4] and MODB 0. -/
def fbin (mk : FBin → Instr) (h : VHead) (ma : BitVec 6) (mb : BitVec 10) (sb sa : BitVec 11) : Except DecodeError Instr :=
  if mb = 0 ∧ fld ma 4 2 = 0 then
    (defined (FTy.ofCode (fld ma 0 2).toNat)).bind fun ty =>
      (defined (Rnd.ofCode (fld ma 2 2).toNat)).bind fun r => checkWf (mk ⟨h, ty, r, Src.ofCode sa, Src.ofCode sb⟩)
  else .error .reservedBits

/-- A one-source float form (R256, R259): SRCB is unused. -/
def fun1 (mk : FUn → Instr) (h : VHead) (ma : BitVec 6) (mb : BitVec 10) (sb sa : BitVec 11) : Except DecodeError Instr :=
  if mb = 0 ∧ sb = 0 ∧ fld ma 4 2 = 0 then
    (defined (FTy.ofCode (fld ma 0 2).toNat)).bind fun ty =>
      (defined (Rnd.ofCode (fld ma 2 2).toNat)).bind fun r => checkWf (mk ⟨h, ty, r, Src.ofCode sa⟩)
  else .error .reservedBits

/-- Format V, after FLAG, REUSE and DST are read (Table 9.8 and the field tables of 10 to 13). -/
def decodeV (h : VHead) (ma : BitVec 6) (mj : Nat) (mb : BitVec 10) (sb sa : BitVec 11) : Except DecodeError Instr :=
  match mj with
  | 0x20 => vbin .add h ma mb sb sa
  | 0x21 => vbin .sub h ma mb sb sa
  | 0x22 => vbin .mul h ma mb sb sa
  | 0x23 => vbin .mulhi h ma mb sb sa
  | 0x25 => vbin .min h ma mb sb sa
  | 0x26 => vbin .max h ma mb sb sa
  | 0x29 => vbin .div h ma mb sb sa
  | 0x2A => vbin .rem h ma mb sb sa
  | 0x2C => vbin .mulw h ma mb sb sa
  | 0x30 => vbin .and h ma mb sb sa
  | 0x31 => vbin .or h ma mb sb sa
  | 0x32 => vbin .xor h ma mb sb sa
  | 0x34 => vbin .shl h ma mb sb sa
  | 0x35 => vbin .shr h ma mb sb sa
  | 0x36 => vbin .sar h ma mb sb sa
  | 0x37 => vbin .rotl h ma mb sb sa
  | 0x27 => vun .abs h ma mb sb sa
  | 0x28 => vun .neg h ma mb sb sa
  | 0x33 => vun .not h ma mb sb sa
  | 0x38 => vun .popc h ma mb sb sa
  | 0x39 => vun .clz h ma mb sb sa
  | 0x3A => vun .brev h ma mb sb sa
  | 0x49 => vun .mov h ma mb sb sa
  | 0x80 => fbin .fadd h ma mb sb sa
  | 0x81 => fbin .fsub h ma mb sb sa
  | 0x82 => fbin .fmul h ma mb sb sa
  | 0x84 => fbin .fmin h ma mb sb sa
  | 0x85 => fbin .fmax h ma mb sb sa
  | 0x88 => fbin .fcpsgn h ma mb sb sa
  | 0x90 => fbin .fadd2 h ma mb sb sa
  | 0x91 => fbin .fmul2 h ma mb sb sa
  | 0x93 => fbin .fmin2 h ma mb sb sa
  | 0x94 => fbin .fmax2 h ma mb sb sa
  | 0x86 => fun1 .fabs h ma mb sb sa
  | 0x87 => fun1 .fneg h ma mb sb sa
  | 0xA0 => fun1 .rcp h ma mb sb sa
  | 0xA1 => fun1 .rsqrt h ma mb sb sa
  | 0xA2 => fun1 .sqrt h ma mb sb sa
  | 0xA3 => fun1 .exp2 h ma mb sb sa
  | 0xA4 => fun1 .log2 h ma mb sb sa
  | 0xA5 => fun1 .sin h ma mb sb sa
  | 0xA6 => fun1 .cos h ma mb sb sa
  | 0xA7 => fun1 .tanh h ma mb sb sa
  | 0x50 =>
    if fld mb 4 4 = 0 then
      (defined (Cond.ofCode (fld ma 2 4).toNat)).bind fun c =>
        (defined (Comb.ofCode (fld mb 8 2).toNat)).bind fun op =>
          checkWf (.icmp h c (ityOf ma) op (Pred.ofCode (fld mb 0 4)) (Src.ofCode sa) (Src.ofCode sb))
    else .error .reservedBits
  | 0x51 =>
    if fld mb 4 4 = 0 then
      (defined (Cond.ofCode (fld ma 2 4).toNat)).bind fun c =>
        (defined (FTy.ofCode (fld ma 0 2).toNat)).bind fun ty =>
          (defined (Comb.ofCode (fld mb 8 2).toNat)).bind fun op =>
            checkWf (.fcmp h c ty op (Pred.ofCode (fld mb 0 4)) (Src.ofCode sa) (Src.ofCode sb))
    else .error .reservedBits
  | 0x52 =>
    if fld ma 2 4 = 0 ∧ mb = 0 ∧ fld sa 4 7 = 0 ∧ fld sb 4 7 = 0 then
      (defined (GOp.ofCode (fld ma 0 2).toNat)).bind fun op =>
        checkWf (.gop h op (Pred.ofCode (fld sa 0 4)) (Pred.ofCode (fld sb 0 4)))
    else .error .reservedBits
  | 0x54 =>
    if fld ma 2 4 = 0 ∧ mb = 0 ∧ sb = 0 then
      if fld ma 0 2 = 0 then
        if fld sa 4 7 = 0 then checkWf (.gmov h (.toReg (Pred.ofCode (fld sa 0 4)))) else .error .reservedBits
      else if fld ma 0 2 = 1 then checkWf (.gmov h (.toGuard (Src.ofCode sa)))
      else .error .undefinedField
    else .error .reservedBits
  | 0x56 =>
    if fld ma 2 4 = 0 ∧ fld mb 9 1 = 0 ∧ sb = 0 then
      (defined (FTy.ofCode (fld ma 0 2).toNat)).bind fun ty => checkWf (.fclass h ty (Src.ofCode sa) (fld mb 0 9))
    else .error .reservedBits
  | 0x60 =>
    if fld ma 4 2 = 0 ∧ sb = 0 then
      (defined (CTy.ofCode (fld mb 5 5).toNat)).bind fun d =>
        (defined (CTy.ofCode (fld mb 0 5).toNat)).bind fun s =>
          (defined (Rnd.ofCode (fld ma 0 2).toNat)).bind fun r => checkWf (.cvt h d s r (fld ma 2 2) (Src.ofCode sa))
    else .error .reservedBits
  | 0x61 =>
    if fld ma 2 2 = 0 then
      (defined (CTy.ofCode (fld mb 5 5).toNat)).bind fun d =>
        (defined (CTy.ofCode (fld mb 0 5).toNat)).bind fun s =>
          (defined (Rnd.ofCode (fld ma 0 2).toNat)).bind fun r =>
            checkWf (.cvtpk h d s r (fld ma 4 2) (Src.ofCode sa) (Src.ofCode sb))
    else .error .reservedBits
  | 0x62 =>
    if fld ma 0 2 = 0 ∧ sb = 0 then
      (defined (CTy.ofCode (fld mb 5 5).toNat)).bind fun d =>
        (defined (CTy.ofCode (fld mb 0 5).toNat)).bind fun s => checkWf (.unpk h d s (fld ma 2 4) (Src.ofCode sa))
    else .error .reservedBits
  | 0x64 =>
    if fld mb 2 8 = 0 ∧ sb = 0 ∧ fld ma 4 2 = 0 then
      if fld mb 0 2 = 0 then checkWf (.lut h (fld ma 0 2) (fld ma 2 2) false (Src.ofCode sa))
      else if fld mb 0 2 = 1 then checkWf (.lut h (fld ma 0 2) (fld ma 2 2) true (Src.ofCode sa))
      else .error .undefinedField
    else .error .reservedBits
  | 0x65 =>
    if fld mb 2 8 = 0 ∧ fld ma 2 4 = 0 ∧ sb = 0 then
      (defined (FTy.ofCode (fld mb 0 2).toNat)).bind fun ty =>
        (defined (Rnd.ofCode (fld ma 0 2).toNat)).bind fun r => checkWf (.frnd h ty r (Src.ofCode sa))
    else .error .reservedBits
  | 0xB0 =>
    if mb = 0 then
      (defined (ShflMode.ofCode (fld ma 0 2).toNat)).bind fun m =>
        checkWf (.shfl h m (ma.getLsbD 2) (fld ma 3 3) (Src.ofCode sa) (Src.ofCode sb))
    else .error .reservedBits
  | 0xB1 =>
    if mb = 0 ∧ sb = 0 ∧ fld ma 2 4 = 0 ∧ fld sa 4 7 = 0 then
      (defined (VoteMode.ofCode (fld ma 0 2).toNat)).bind fun m => checkWf (.vote h m (Pred.ofCode (fld sa 0 4)))
    else .error .reservedBits
  | 0xB2 =>
    if fld mb 2 8 = 0 ∧ sb = 0 then
      (defined (RedOp.ofCode (fld ma 0 3).toNat)).bind fun op =>
        (defined (RedTy.ofCode (fld ma 3 3).toNat)).bind fun ty =>
          (defined (Rnd.ofCode (fld mb 0 2).toNat)).bind fun r => checkWf (.red h op ty r (Src.ofCode sa))
    else .error .reservedBits
  | 0xB3 =>
    if fld mb 3 7 = 0 ∧ sb = 0 then
      (defined (RedOp.ofCode (fld ma 0 3).toNat)).bind fun op =>
        (defined (RedTy.ofCode (fld ma 3 3).toNat)).bind fun ty =>
          (defined (Rnd.ofCode (fld mb 0 2).toNat)).bind fun r =>
            checkWf (.scan h op ty r (mb.getLsbD 2) (Src.ofCode sa))
    else .error .reservedBits
  | 0xB5 =>
    if fld ma 1 5 = 0 ∧ mb = 0 ∧ sb = 0 then checkWf (.matchLanes h (ma.getLsbD 0) (Src.ofCode sa))
    else .error .reservedBits
  | 0xC9 =>
    if fld ma 1 5 = 0 ∧ mb = 0 ∧ sb = 0 then
      if ma.getLsbD 0 then checkWf (.cacheUnpin h (Src.ofCode sa)) else checkWf (.cachePin h (Src.ofCode sa))
    else .error .reservedBits
  | 0xE1 =>
    if fld ma 5 1 = 0 ∧ mb = 0 ∧ sb = 0 then
      checkWf (.ringWait h (fld ma 0 3) (ma.getLsbD 3) (ma.getLsbD 4) (Src.ofCode sa))
    else .error .reservedBits
  | 0xE2 =>
    if fld ma 4 2 = 0 ∧ mb = 0 ∧ sb = 0 then checkWf (.ringArrive h (fld ma 0 3) (ma.getLsbD 3) (Src.ofCode sa))
    else .error .reservedBits
  | 0xE3 =>
    if ma = 0 ∧ sb = 0 then
      match Scope.ofCode (fld mb 7 3).toNat with
      | some s => checkWf (.tlwait h (fld mb 0 7) s (Src.ofCode sa))
      | none => .error .undefinedField
    else .error .reservedBits
  | 0xE4 =>
    if fld ma 2 4 = 0 ∧ mb = 0 ∧ sb = 0 ∧ sa = 0 then
      (defined (Role.ofCode (fld ma 0 2).toNat)).bind fun r => checkWf (.attach h r)
    else .error .reservedBits
  | 0xE6 => if ma = 0 ∧ mb = 0 ∧ sb = 0 ∧ sa = 0 then checkWf (.shrinkq h) else .error .reservedBits
  | 0xF2 => if ma = 0 ∧ mb = 0 then checkWf (.sclPush h (Src.ofCode sa) (Src.ofCode sb)) else .error .reservedBits
  | 0xF3 =>
    if fld ma 2 4 = 0 ∧ mb = 0 ∧ sb = 0 then checkWf (.ctSet h (fld ma 0 2) (Src.ofCode sa)) else .error .reservedBits
  | 0xF4 => if ma = 0 ∧ mb = 0 ∧ sb = 0 then checkWf (.gangSet h (Src.ofCode sa)) else .error .reservedBits
  | 0xFB =>
    if fld ma 1 5 = 0 ∧ mb = 0 ∧ sb = 0 then
      if ma.getLsbD 0 then checkWf (.waitNs h (Src.ofCode sa)) else checkWf (.sleepNs h (Src.ofCode sa))
    else .error .reservedBits
  | 0xFD => if ma = 0 ∧ mb = 0 then checkWf (.boost h (Src.ofCode sa) (Src.ofCode sb)) else .error .reservedBits
  | 0xFE => if ma = 0 ∧ mb = 0 ∧ sb = 0 then checkWf (.wearRd h (Src.ofCode sa)) else .error .reservedBits
  | 0xFF => if ma = 0 ∧ mb = 0 then checkWf (.sealPut h (Src.ofCode sa) (Src.ofCode sb)) else .error .reservedBits
  | _ => .error .unassignedMajor

/-- A three-source integer form: MODB and MODC are 0. -/
def tint (mk : TInt → Instr) (h : VHead) (ma : BitVec 6) (mb : BitVec 10) (sb sa : BitVec 11) (mc : BitVec 21)
    (sc : BitVec 11) : Except DecodeError Instr :=
  if mb = 0 ∧ mc = 0 ∧ fld ma 3 3 = 0 then
    checkWf (mk ⟨h, ityOf ma, ma.getLsbD 2, Src.ofCode sa, Src.ofCode sb, Src.ofCode sc⟩)
  else .error .reservedBits

/-- A three-source float form (R255): MODB and MODC are 0. -/
def ftri (mk : FTri → Instr) (h : VHead) (ma : BitVec 6) (mb : BitVec 10) (sb sa : BitVec 11) (mc : BitVec 21)
    (sc : BitVec 11) : Except DecodeError Instr :=
  if mb = 0 ∧ mc = 0 ∧ fld ma 4 2 = 0 then
    (defined (FTy.ofCode (fld ma 0 2).toNat)).bind fun ty =>
      (defined (Rnd.ofCode (fld ma 2 2).toNat)).bind fun r =>
        checkWf (mk ⟨h, ty, r, Src.ofCode sa, Src.ofCode sb, Src.ofCode sc⟩)
  else .error .reservedBits

/-- Format T. -/
def decodeT (h : VHead) (ma : BitVec 6) (mj : Nat) (mb : BitVec 10) (sb sa : BitVec 11) (mc : BitVec 21)
    (sc : BitVec 11) : Except DecodeError Instr :=
  match mj with
  | 0x24 => tint .mad h ma mb sb sa mc sc
  | 0x2B => tint .sad h ma mb sb sa mc sc
  | 0x3B => tint .bfe h ma mb sb sa mc sc
  | 0x3C => tint .bfi h ma mb sb sa mc sc
  | 0x3E => tint .fsh h ma mb sb sa mc sc
  | 0x3F => tint .perm h ma mb sb sa mc sc
  | 0x83 => ftri .fma h ma mb sb sa mc sc
  | 0x92 => ftri .fma2 h ma mb sb sa mc sc
  | 0x95 => ftri .fdot2 h ma mb sb sa mc sc
  | 0x3D =>
    if mb = 0 ∧ fld mc 3 18 = 0 ∧ fld ma 3 3 = 0 then
      checkWf (.lea ⟨h, ityOf ma, ma.getLsbD 2, Src.ofCode sa, Src.ofCode sb, Src.ofCode sc⟩ (fld mc 0 3))
    else .error .reservedBits
  | 0x4B =>
    if mb = 0 ∧ fld mc 8 13 = 0 ∧ fld ma 3 3 = 0 then
      checkWf (.lop3 ⟨h, ityOf ma, ma.getLsbD 2, Src.ofCode sa, Src.ofCode sb, Src.ofCode sc⟩ (fld mc 0 8))
    else .error .reservedBits
  | 0x63 =>
    if fld ma 4 2 = 0 ∧ mc = 0 then
      (defined (RqTy.ofCode (fld ma 0 2).toNat)).bind fun ty =>
        (defined (Rnd.ofCode (fld ma 2 2).toNat)).bind fun r =>
          checkWf (.rq h ty r (fld mb 5 5) (fld mb 0 5) (Src.ofCode sa) (Src.ofCode sb) (Src.ofCode sc))
    else .error .reservedBits
  | _ => .error .unassignedMajor

/-- An immediate form: MOD[11:3] is 0 (R226). -/
def iform (mk : IForm → Instr) (a : BitVec 11) (dst : BitVec 10) (mo : BitVec 12) (im : BitVec 20) : Except DecodeError Instr :=
  if fld mo 3 9 = 0 then
    checkWf (mk ⟨dst, ⟨mo.getLsbD 0, mo.getLsbD 1⟩, mo.getLsbD 2, Src.ofCode a, im⟩)
  else .error .reservedBits

/-- Format I. The limits on IMM of shli, shri, sari, gtag and twset hold for the immediate that a px.lit has
widened, so the instructions check them (R215, R240, R242, R263). -/
def decodeI (rsv : BitVec 1) (a : BitVec 11) (dst : BitVec 10) (mj : Nat) (mo : BitVec 12) (im : BitVec 20) : Except DecodeError Instr :=
  if rsv = 0 then
    match mj with
    | 0x40 => iform .addi a dst mo im
    | 0x41 => iform .muli a dst mo im
    | 0x42 => iform .andi a dst mo im
    | 0x43 => iform .ori a dst mo im
    | 0x44 => iform .xori a dst mo im
    | 0x45 => iform .shli a dst mo im
    | 0x46 => iform .shri a dst mo im
    | 0x47 => iform .sari a dst mo im
    | 0x48 => iform .movi a dst mo im
    | 0x4A => if mo = 0 then checkWf (.gtag dst (Src.ofCode a) im) else .error .reservedBits
    | 0x55 =>
      if fld mo 6 6 = 0 then
        (defined (Cond.ofCode (fld mo 2 4).toNat)).bind fun c =>
          checkWf (.icmpi dst c ⟨mo.getLsbD 0, mo.getLsbD 1⟩ (Src.ofCode a) im)
      else .error .reservedBits
    | 0xB4 => if mo = 0 ∧ a = 0 ∧ dst = 0 then .ok (.twset im) else .error .reservedBits
    | _ => .error .unassignedMajor
  else .error .reservedBits

/-- Format S (R247). -/
def decodeS (rsv re : BitVec 2) (mo : BitVec 4) (dst : BitVec 10) (g : BitVec 4) (mj : Nat) (mb : BitVec 10)
    (sb sa : BitVec 11) : Except DecodeError Instr :=
  if rsv = 0 ∧ fld mb 1 9 = 0 then
    match mj with
    | 0x53 => checkWf (.sel ⟨re, Pred.ofCode mo, dst, Pred.ofCode g, mb.getLsbD 0, Src.ofCode sa, Src.ofCode sb⟩)
    | _ => .error .unassignedMajor
  else .error .reservedBits

/-- Format M (R271, Table 9.4). -/
def decodeM (sd : BitVec 11) (sc : BitVec 3) (fl g : BitVec 4) (mj : Nat) (off : BitVec 5) (sp : BitVec 2)
    (ty : BitVec 4) (dst : BitVec 10) (ad : BitVec 11) : Except DecodeError Instr :=
  (flagOf fl).bind fun flag =>
    (scopeOf sc).bind fun scope =>
      (defined (Space.ofCode sp.toNat)).bind fun space =>
        (defined (MemTy.ofCode ty.toNat)).bind fun t =>
          let f : MForm := ⟨Src.ofCode sd, scope, flag, Pred.ofCode g, off, space, t, dst, Src.ofCode ad⟩
          match mj with
          | 0xC0 => checkWf (.ld f)
          | 0xC1 => checkWf (.st f)
          | _ => .error .unassignedMajor

/-- Format A (R275 to R279). -/
def decodeA (rsv : BitVec 1) (dst : BitVec 10) (sc : BitVec 3) (fl g : BitVec 4) (mj : Nat) (mo : BitVec 10)
    (sd ad : BitVec 11) (off : BitVec 18) (gd : BitVec 3) (se : BitVec 11) : Except DecodeError Instr :=
  if rsv = 0 then
    (flagOf fl).bind fun flag =>
      (scopeOf sc).bind fun scope =>
        let f : AForm := ⟨dst, scope, flag, Pred.ofCode g, Src.ofCode sd, Src.ofCode ad, off, gd, Src.ofCode se⟩
        match mj with
        | 0xC4 =>
          if fld mo 2 8 = 0 then (defined (AtTy.ofCode (fld mo 0 2).toNat)).bind fun t => checkWf (.faa f t)
          else .error .reservedBits
        | 0xC5 =>
          if fld mo 7 3 = 0 then
            (defined (AtomOp.ofCode (fld mo 0 4).toNat)).bind fun op =>
              (defined (AtomTy.ofCode (fld mo 4 3).toNat)).bind fun t => checkWf (.atom f op t)
          else .error .reservedBits
        | 0xC6 =>
          if fld mo 2 8 = 0 then (defined (AtTy.ofCode (fld mo 0 2).toNat)).bind fun t => checkWf (.cas f t)
          else .error .reservedBits
        | _ => .error .unassignedMajor
  else .error .reservedBits

/-- Format X (R282, R285, R295, R318, R319, R326, R331). -/
def decodeX (ma : BitVec 8) (fl : BitVec 4) (dst : BitVec 10) (mj : Nat) (mb : BitVec 10) (sb sa : BitVec 11)
    (mc : BitVec 10) (sd sc : BitVec 11) : Except DecodeError Instr :=
  (flagOf fl).bind fun flag =>
    match mj with
    | 0xCA =>
      if fld ma 2 6 = 0 ∧ dst = 0 ∧ mb = 0 ∧ mc = 0 ∧ sc = 0 ∧ sd = 0 then
        checkWf (.cpy flag (fld ma 0 2) (Src.ofCode sa) (Src.ofCode sb))
      else .error .reservedBits
    | 0xCD =>
      if fld ma 2 6 = 0 ∧ fld mb 3 7 = 0 ∧ mc = 0 ∧ (ma.getLsbD 1 ∨ fld mb 0 3 = 0) then
        checkWf (.tcpy ⟨flag, ma.getLsbD 0, if ma.getLsbD 1 then some (fld mb 0 3) else none, dst, Src.ofCode sa,
          Src.ofCode sb, Src.ofCode sc, Src.ofCode sd⟩)
      else .error .reservedBits
    | 0xE7 =>
      if ma = 0 ∧ mb = 0 ∧ mc = 0 ∧ sc = 0 ∧ sd = 0 ∧ flag = none then
        checkWf (.launch dst (Src.ofCode sa) (Src.ofCode sb))
      else .error .reservedBits
    | 0xF0 =>
      if dst = 0 ∧ fld mb 9 1 = 0 ∧ sb = 0 ∧ fld mc 4 6 = 0 ∧ sd = 0 ∧ sc = 0 then
        (defined (MxFmt.ofCode (fld ma 4 4).toNat)).bind fun fb =>
          (defined (MxFmt.ofCode (fld ma 0 4).toNat)).bind fun fa =>
            checkWf (.mma ⟨flag, fb, fa, mb.getLsbD 8, fld mb 4 4, mb.getLsbD 3, mb.getLsbD 2, fld mb 0 2,
              Src.ofCode sa, fld mc 2 2, fld mc 0 2⟩)
      else .error .reservedBits
    | 0xF1 =>
      if fld ma 7 1 = 0 ∧ fld mb 7 3 = 0 ∧ fld mc 4 6 = 0 ∧ sd = 0
          ∧ (ma.getLsbD 6 ∨ (fld mb 4 3 = 0 ∧ fld mc 0 4 = 0)) then
        (defined (MxFmt.ofCode (fld ma 1 4).toNat)).bind fun f =>
          checkWf (.mmaLdb ⟨flag, dst, if ma.getLsbD 6 then some (fld mb 4 3, fld mc 0 4) else none, ma.getLsbD 5, f,
            ma.getLsbD 0, fld mb 0 4, Src.ofCode sb, Src.ofCode sa, Src.ofCode sc⟩)
      else .error .reservedBits
    | 0xF5 =>
      if fld ma 4 4 = 0 ∧ dst = 0 ∧ mb = 0 ∧ mc = 0 ∧ sd = 0 then
        (defined (AccOp.ofCode (fld ma 0 2).toNat)).bind fun op =>
          checkWf (.acc ⟨flag, op, fld ma 2 2, Src.ofCode sa, Src.ofCode sb, Src.ofCode sc⟩)
      else .error .reservedBits
    | 0xF6 =>
      if dst = 0 ∧ mb = 0 ∧ mc = 0 ∧ sd = 0 then
        if fld ma 0 2 = 0 then
          if fld ma 2 6 = 0 ∧ sb = 0 ∧ sc = 0 then checkWf (.epiLd flag (Src.ofCode sa)) else .error .reservedBits
        else if fld ma 0 2 = 1 then
          checkWf (.epiRun ⟨flag, fld ma 2 2, fld ma 4 4, Src.ofCode sa, Src.ofCode sb, Src.ofCode sc⟩)
        else .error .undefinedField
      else .error .reservedBits
    | _ => .error .unassignedMajor

/-- Prefixes (R214 to R216): KIND, and the payload's limits. -/
def decodeP (pl : BitVec 28) (kind : Nat) : Except DecodeError Instr :=
  match kind with
  | 0 => .ok (.pxLit pl)
  | 1 =>
    if fld pl 6 22 = 0 then
      match MemOrd.ofCode (fld pl 0 3).toNat, Scope.ofCode (fld pl 3 3).toNat with
      | some o, some s => .ok (.pxScope o s)
      | _, _ => .error .prefixPayload
    else .error .prefixPayload
  | 2 =>
    if fld pl 3 25 = 0 ∧ 1 ≤ (fld pl 0 3).toNat ∧ (fld pl 0 3).toNat ≤ 5 then .ok (.pxTile (fld pl 0 3))
    else .error .prefixPayload
  | _ => .error .prefixKind

/-- The instruction of raw fields. -/
def Raw.toInstr : Raw → Except DecodeError Instr
  | .z arg mj => decodeZ arg mj.toNat
  | .b off g mj => decodeB off g mj.toNat
  | .u rsv sa d mj => decodeU rsv sa d mj.toNat
  | .v fl re ma d mj mb sb sa => (headOf fl re d).bind fun h => decodeV h ma mj.toNat mb sb sa
  | .i rsv sa d mj mo im => decodeI rsv sa d mj.toNat mo im
  | .s rsv re mo d g mj mb sb sa => decodeS rsv re mo d g mj.toNat mb sb sa
  | .m sd sc fl g mj off sp ty d ad => decodeM sd sc fl g mj.toNat off sp ty d ad
  | .t fl re ma d mj mb sb sa mc sc => (headOf fl re d).bind fun h => decodeT h ma mj.toNat mb sb sa mc sc
  | .a rsv d sc fl g mj mo sd ad off gd se => decodeA rsv d sc fl g mj.toNat mo sd ad off gd se
  | .x ma fl d mj mb sb sa mc sd sc => decodeX ma fl d mj.toNat mb sb sa mc sd sc
  | .p pl k => decodeP pl k.toNat

/-- The format of a first parcel: its class and major must agree (R205, R218). -/
def formatOfParcel (p0 : Word) : Except DecodeError Format :=
  if (fld p0 0 2).toNat = 3 then .ok .p
  else
    match formatOf (fld p0 2 8).toNat with
    | some f => if f.cls = (fld p0 0 2).toNat then .ok f else .error .unassignedMajor
    | none => .error .unassignedMajor

/-- The decoder: the parcels from an instruction's first parcel to the end of its line give the instruction and
its length in parcels, or what is wrong. -/
def decode (ps : List Word) : Except DecodeError (Instr × Nat) :=
  match ps with
  | [] => .error .noParcel
  | p0 :: rest =>
    (formatOfParcel p0).bind fun f =>
      let n := clsParcels f.cls
      if ps.length < n then .error .pastLineEnd
      else (Raw.unpack f p0 (rest.getD 0 0) (rest.getD 1 0)).toInstr.map fun i => (i, n)

/-- Little-endian bytes to parcels (R3, R198); a trailing part of a parcel is dropped. -/
def parcelsOfBytes : List Byte → List Word
  | b0 :: b1 :: b2 :: b3 :: rest => (b3 ++ b2 ++ b1 ++ b0) :: parcelsOfBytes rest
  | _ => []

/-- A parcel's bytes, lowest address first. -/
def bytesOfParcel (p : Word) : List Byte := [fld p 0 8, fld p 8 8, fld p 16 8, fld p 24 8]

/-- The parcels of an opcode-table word: bit 0 is bit 0 of the first parcel, and every bit above nbits is 0. -/
def tableParcels (nbits w : Nat) : List Word :=
  let x := w % 2 ^ nbits
  [BitVec.ofNat 32 x, BitVec.ofNat 32 (x / 2 ^ 32), BitVec.ofNat 32 (x / 2 ^ 64)]

/-- What the decoder reads from an instruction whose bits are w, numbered as the opcode table numbers them. -/
def decodeTableWord (nbits w : Nat) : Option Instr :=
  match decode (parcelsOfBytes ((tableParcels nbits w).flatMap bytesOfParcel)) with
  | .ok (i, _) => some i
  | .error _ => none

/-! ## The encoder -/

/-- Format V with FLAG, REUSE and DST from the head. -/
def rawV (h : VHead) (ma : BitVec 6) (mj : BitVec 8) (mb : BitVec 10) (sb sa : BitVec 11) : Raw :=
  .v (flagCode h.flag) h.reuse ma h.dst mj mb sb sa

def rawVBin (mj : BitVec 8) (f : VBin) : Raw := rawV f.h (ityCode f.t f.m) mj 0 f.b.code f.a.code
def rawVUn (mj : BitVec 8) (f : VUn) : Raw := rawV f.h (ityCode f.t f.m) mj 0 0 f.a.code

/-- MODA of a float form (R255). -/
def ftyCode (ty : FTy) (r : Rnd) : BitVec 6 := 0#2 ++ BitVec.ofNat 2 r.code ++ BitVec.ofNat 2 ty.code
def rawFBin (mj : BitVec 8) (f : FBin) : Raw := rawV f.h (ftyCode f.ty f.rnd) mj 0 f.b.code f.a.code
def rawFUn (mj : BitVec 8) (f : FUn) : Raw := rawV f.h (ftyCode f.ty f.rnd) mj 0 0 f.a.code

/-- Format T. -/
def rawT (h : VHead) (ma : BitVec 6) (mj : BitVec 8) (mb : BitVec 10) (mc : BitVec 21) (a b c : Src) : Raw :=
  .t (flagCode h.flag) h.reuse ma h.dst mj mb b.code a.code mc c.code
def rawTInt (mj : BitVec 8) (mc : BitVec 21) (f : TInt) : Raw := rawT f.h (ityCode f.t f.m) mj 0 mc f.a f.b f.c
def rawFTri (mj : BitVec 8) (f : FTri) : Raw := rawT f.h (ftyCode f.ty f.rnd) mj 0 0 f.a f.b f.c

/-- Format I. -/
def rawI (mj : BitVec 8) (f : IForm) : Raw := .i 0 f.a.code f.dst mj (0#6 ++ ityCode f.t f.m) f.imm

/-- Format M. -/
def rawM (mj : BitVec 8) (f : MForm) : Raw :=
  .m f.srcd.code (BitVec.ofNat 3 f.scope.code) (flagCode f.flag) f.guard.code mj f.off (BitVec.ofNat 2 f.sp.code)
    (BitVec.ofNat 4 f.ty.code) f.dst f.addr.code

/-- Format A. -/
def rawA (mj : BitVec 8) (mo : BitVec 10) (f : AForm) : Raw :=
  .a 0 f.dst (BitVec.ofNat 3 f.scope.code) (flagCode f.flag) f.guard.code mj mo f.srcd.code f.addr.code f.off f.gd f.srce.code

/-- The raw fields of an instruction; an event has none. -/
def Instr.toRaw : Instr → Option Raw
  | .nop => some (.z 0 0x01)
  | .ret => some (.z 0 0x06)
  | .exit => some (.z 0 0x07)
  | .yield => some (.z 0 0x08)
  | .flwait m => some (.z (0#10 ++ m) 0x09)
  | .bra g off => some (.b off g.code 0x02)
  | .call g off => some (.b off g.code 0x04)
  | .brr a => some (.u 0 a.code 0 0x03)
  | .callr a => some (.u 0 a.code 0 0x05)
  | .pxLit l => some (.p l 0)
  | .pxScope o s => some (.p (0#22 ++ BitVec.ofNat 3 s.code ++ BitVec.ofNat 3 o.code) 1)
  | .pxTile t => some (.p (0#25 ++ t) 2)
  | .add f => some (rawVBin 0x20 f)
  | .sub f => some (rawVBin 0x21 f)
  | .mul f => some (rawVBin 0x22 f)
  | .mulhi f => some (rawVBin 0x23 f)
  | .min f => some (rawVBin 0x25 f)
  | .max f => some (rawVBin 0x26 f)
  | .div f => some (rawVBin 0x29 f)
  | .rem f => some (rawVBin 0x2A f)
  | .mulw f => some (rawVBin 0x2C f)
  | .and f => some (rawVBin 0x30 f)
  | .or f => some (rawVBin 0x31 f)
  | .xor f => some (rawVBin 0x32 f)
  | .shl f => some (rawVBin 0x34 f)
  | .shr f => some (rawVBin 0x35 f)
  | .sar f => some (rawVBin 0x36 f)
  | .rotl f => some (rawVBin 0x37 f)
  | .abs f => some (rawVUn 0x27 f)
  | .neg f => some (rawVUn 0x28 f)
  | .not f => some (rawVUn 0x33 f)
  | .popc f => some (rawVUn 0x38 f)
  | .clz f => some (rawVUn 0x39 f)
  | .brev f => some (rawVUn 0x3A f)
  | .mov f => some (rawVUn 0x49 f)
  | .fadd f => some (rawFBin 0x80 f)
  | .fsub f => some (rawFBin 0x81 f)
  | .fmul f => some (rawFBin 0x82 f)
  | .fmin f => some (rawFBin 0x84 f)
  | .fmax f => some (rawFBin 0x85 f)
  | .fcpsgn f => some (rawFBin 0x88 f)
  | .fadd2 f => some (rawFBin 0x90 f)
  | .fmul2 f => some (rawFBin 0x91 f)
  | .fmin2 f => some (rawFBin 0x93 f)
  | .fmax2 f => some (rawFBin 0x94 f)
  | .fabs f => some (rawFUn 0x86 f)
  | .fneg f => some (rawFUn 0x87 f)
  | .rcp f => some (rawFUn 0xA0 f)
  | .rsqrt f => some (rawFUn 0xA1 f)
  | .sqrt f => some (rawFUn 0xA2 f)
  | .exp2 f => some (rawFUn 0xA3 f)
  | .log2 f => some (rawFUn 0xA4 f)
  | .sin f => some (rawFUn 0xA5 f)
  | .cos f => some (rawFUn 0xA6 f)
  | .tanh f => some (rawFUn 0xA7 f)
  | .mad f => some (rawTInt 0x24 0 f)
  | .sad f => some (rawTInt 0x2B 0 f)
  | .bfe f => some (rawTInt 0x3B 0 f)
  | .bfi f => some (rawTInt 0x3C 0 f)
  | .fsh f => some (rawTInt 0x3E 0 f)
  | .perm f => some (rawTInt 0x3F 0 f)
  | .fma f => some (rawFTri 0x83 f)
  | .fma2 f => some (rawFTri 0x92 f)
  | .fdot2 f => some (rawFTri 0x95 f)
  | .addi f => some (rawI 0x40 f)
  | .muli f => some (rawI 0x41 f)
  | .andi f => some (rawI 0x42 f)
  | .ori f => some (rawI 0x43 f)
  | .xori f => some (rawI 0x44 f)
  | .shli f => some (rawI 0x45 f)
  | .shri f => some (rawI 0x46 f)
  | .sari f => some (rawI 0x47 f)
  | .movi f => some (rawI 0x48 f)
  | .lea f k => some (rawTInt 0x3D (0#18 ++ k) f)
  | .lop3 f tt => some (rawTInt 0x4B (0#13 ++ tt) f)
  | .gtag d a im => some (.i 0 a.code d 0x4A 0 im)
  | .icmpi d c t a im =>
    some (.i 0 a.code d 0x55 (0#6 ++ BitVec.ofNat 4 c.code ++ BitVec.ofBool t.u ++ BitVec.ofBool t.w) im)
  | .twset im => some (.i 0 0 0 0xB4 0 im)
  | .icmp h c t op gc a b =>
    some (rawV h (BitVec.ofNat 4 c.code ++ BitVec.ofBool t.u ++ BitVec.ofBool t.w) 0x50
      (BitVec.ofNat 2 op.code ++ 0#4 ++ gc.code) b.code a.code)
  | .fcmp h c ty op gc a b =>
    some (rawV h (BitVec.ofNat 4 c.code ++ BitVec.ofNat 2 ty.code) 0x51
      (BitVec.ofNat 2 op.code ++ 0#4 ++ gc.code) b.code a.code)
  | .gop h op ga gb => some (rawV h (0#4 ++ BitVec.ofNat 2 op.code) 0x52 0 (0#7 ++ gb.code) (0#7 ++ ga.code))
  | .gmov h m =>
    match m with
    | .toReg g => some (rawV h 0 0x54 0 0 (0#7 ++ g.code))
    | .toGuard a => some (rawV h 1 0x54 0 0 a.code)
  | .sel f =>
    some (.s 0 f.reuse f.gs.code f.dst f.guard.code 0x53 (0#9 ++ BitVec.ofBool f.w) f.b.code f.a.code)
  | .fclass h ty a mask => some (rawV h (0#4 ++ BitVec.ofNat 2 ty.code) 0x56 (0#1 ++ mask) 0 a.code)
  | .cvt h d s r ct a =>
    some (rawV h (0#2 ++ ct ++ BitVec.ofNat 2 r.code) 0x60 (BitVec.ofNat 5 d.code ++ BitVec.ofNat 5 s.code) 0 a.code)
  | .cvtpk h d s r p a b =>
    some (rawV h (p ++ 0#2 ++ BitVec.ofNat 2 r.code) 0x61 (BitVec.ofNat 5 d.code ++ BitVec.ofNat 5 s.code) b.code a.code)
  | .unpk h d s e a => some (rawV h (e ++ 0#2) 0x62 (BitVec.ofNat 5 d.code ++ BitVec.ofNat 5 s.code) 0 a.code)
  | .lut h n p f16 a => some (rawV h (0#2 ++ p ++ n) 0x64 (0#9 ++ BitVec.ofBool f16) 0 a.code)
  | .frnd h ty r a => some (rawV h (0#4 ++ BitVec.ofNat 2 r.code) 0x65 (0#8 ++ BitVec.ofNat 2 ty.code) 0 a.code)
  | .rq h ty r sh e a b c =>
    some (rawT h (0#2 ++ BitVec.ofNat 2 r.code ++ BitVec.ofNat 2 ty.code) 0x63 (sh ++ e) 0 a b c)
  | .shfl h m w gv a b => some (rawV h (gv ++ BitVec.ofBool w ++ BitVec.ofNat 2 m.code) 0xB0 0 b.code a.code)
  | .vote h m ga => some (rawV h (0#4 ++ BitVec.ofNat 2 m.code) 0xB1 0 0 (0#7 ++ ga.code))
  | .red h op ty r a =>
    some (rawV h (BitVec.ofNat 3 ty.code ++ BitVec.ofNat 3 op.code) 0xB2 (0#8 ++ BitVec.ofNat 2 r.code) 0 a.code)
  | .scan h op ty r ex a =>
    some (rawV h (BitVec.ofNat 3 ty.code ++ BitVec.ofNat 3 op.code) 0xB3
      (0#7 ++ BitVec.ofBool ex ++ BitVec.ofNat 2 r.code) 0 a.code)
  | .matchLanes h w a => some (rawV h (0#5 ++ BitVec.ofBool w) 0xB5 0 0 a.code)
  | .ld f => some (rawM 0xC0 f)
  | .st f => some (rawM 0xC1 f)
  | .faa f t => some (rawA 0xC4 (0#8 ++ BitVec.ofNat 2 t.code) f)
  | .atom f op t => some (rawA 0xC5 (0#3 ++ BitVec.ofNat 3 t.code ++ BitVec.ofNat 4 op.code) f)
  | .cas f t => some (rawA 0xC6 (0#8 ++ BitVec.ofNat 2 t.code) f)
  | .fence o s => some (.z (0#16 ++ BitVec.ofNat 3 s.code ++ BitVec.ofNat 3 o.code) 0xC8)
  | .cachePin h a => some (rawV h 0 0xC9 0 0 a.code)
  | .cacheUnpin h a => some (rawV h 1 0xC9 0 0 a.code)
  | .cpy fl sz d s => some (.x (0#6 ++ sz) (flagCode fl) 0 0xCA 0 s.code d.code 0 0 0)
  | .cpySeal => some (.z 0 0xCB)
  | .cpyWait n ge => some (.z (0#15 ++ ge ++ n) 0xCC)
  | .tcpy f =>
    some (.x (0#6 ++ BitVec.ofBool f.ring.isSome ++ BitVec.ofBool f.st) (flagCode f.flag) f.dst 0xCD
      (0#7 ++ f.ring.getD 0) f.sb.code f.mb.code 0 f.q.code f.lay.code)
  | .bar b m => some (.z (0#16 ++ BitVec.ofNat 2 m.code ++ b) 0xE0)
  | .ringWait h r e v s => some (rawV h (0#1 ++ BitVec.ofBool v ++ BitVec.ofBool e ++ r) 0xE1 0 0 s.code)
  | .ringArrive h r e s => some (rawV h (0#2 ++ BitVec.ofBool e ++ r) 0xE2 0 0 s.code)
  | .tlwait h sl s n => some (rawV h 0 0xE3 (BitVec.ofNat 3 s.code ++ sl) 0 n.code)
  | .attach h r => some (rawV h (0#4 ++ BitVec.ofNat 2 r.code) 0xE4 0 0 0)
  | .detach => some (.z 0 0xE5)
  | .shrinkq h => some (rawV h 0 0xE6 0 0 0)
  | .launch d r q => some (.x 0 15 d 0xE7 0 q.code r.code 0 0 0)
  | .mma f =>
    some (.x (BitVec.ofNat 4 f.bfmt.code ++ BitVec.ofNat 4 f.afmt.code) (flagCode f.flag) 0 0xF0
      (0#1 ++ BitVec.ofBool f.z ++ f.tag ++ BitVec.ofBool f.reuse ++ BitVec.ofBool f.s ++ f.t) 0 f.a.code
      (0#6 ++ f.cb ++ f.ca) 0 0)
  | .mmaLdb f =>
    some (.x (0#1 ++ BitVec.ofBool f.ring.isSome ++ BitVec.ofBool f.s ++ BitVec.ofNat 4 f.fmt.code ++ BitVec.ofBool f.ct)
      (flagCode f.flag) f.dst 0xF1 (0#3 ++ (f.ring.map Prod.fst).getD 0 ++ f.key) f.lay.code f.a.code
      (0#6 ++ (f.ring.map Prod.snd).getD 0) 0 f.q.code)
  | .sclPush h m s => some (rawV h 0 0xF2 0 s.code m.code)
  | .ctSet h n a => some (rawV h (0#4 ++ n) 0xF3 0 0 a.code)
  | .gangSet h a => some (rawV h 0 0xF4 0 0 a.code)
  | .acc f =>
    some (.x (0#4 ++ f.t ++ BitVec.ofNat 2 f.op.code) (flagCode f.flag) 0 0xF5 0 f.row0.code f.a.code 0 0 f.count.code)
  | .epiLd fl a => some (.x 0 (flagCode fl) 0 0xF6 0 0 a.code 0 0 0)
  | .epiRun f => some (.x (f.tag ++ f.t ++ 1#2) (flagCode f.flag) 0 0xF6 0 f.c.code f.sb.code 0 0 f.p.code)
  | .trap c => some (.z (0#6 ++ c) 0xF8)
  | .rtrap => some (.z 0 0xF9)
  | .brk c => some (.z (0#6 ++ c) 0xFA)
  | .sleepNs h d => some (rawV h 0 0xFB 0 0 d.code)
  | .waitNs h d => some (rawV h 1 0xFB 0 0 d.code)
  | .ntHintEnter => some (.z 0 0xFC)
  | .ntHintLeave => some (.z 1 0xFC)
  | .boost h p t => some (rawV h 0 0xFD 0 t.code p.code)
  | .wearRd h s => some (rawV h 0 0xFE 0 0 s.code)
  | .sealPut h a n => some (rawV h 0 0xFF 0 n.code a.code)
  | _ => none

/-- The parcels of an instruction; an event is not encoded. -/
def encode (i : Instr) : List Word := (i.toRaw.map Raw.pack).getD []

end Sys2Proof
end

