-- ==== Sys2Proof/Config.lean ====
section
/-! DEFINITION. The free values: what the spec leaves open and the machine still produces, and the secrets and
fuses of one part. None has a body, so nothing in Lean can evaluate one (log entries 1, 5, 6 and 7). -/

namespace Sys2Proof

/-- From when on a read of a register that an operation is going to write returns the new value (R212): by operation, lane and
register; a number of the order of stamps and operand places. Log entry 1. -/
opaque Config.landsAt : Nat → Nat → Nat → Nat

/-- Which of two results the spec allows is taken, by stamp and place. Log entry 1. -/
opaque Config.readsNew : Nat → Nat → Nat → Nat → Bool

/-- Whether the host leaves a request without a completion until its time is over (R413), by stamp and place. Log entry 73. -/
opaque Config.hostSilent : Nat → Nat → Bool

/-- The f32 result of rsqrt, exp2, log2, sin, cos or tanh (coded 1 to 6) for an input (R259); used only where it
keeps the bound of Table 11.4. Log entry 5. -/
opaque Config.sfuF32 : Nat → Word → Word

/-- The save key that the root firmware draws when a context is created, by the number of the creation (R369, R372).
Log entry 6. -/
opaque Config.saveKey : Nat → BitVec 256

/-- One of the two key pairs that the root firmware derives (R399): the alias key, or the device identity key. It is named by the
measured components that the device identifier follows from, so a change of any component changes both keys. -/
structure DiceKey where
  attest   : Bool
  measured : List (List Byte)
  deriving DecidableEq, Repr

/-- The certificate chain of slot 0: of the device identity key, ending in the alias key (R399, R400). Log entry 6. -/
opaque Config.aliasChain : DiceKey → DiceKey → List Byte

/-- The signature of a slot's key over a message of bytes, by the part's alias key (R402, R410). Log entry 6. -/
opaque Config.signature : DiceKey → Nat → List Byte → List Byte

/-- The image or configuration that a measurement index names, in raw form, as the part came (R401). Log entry 6. -/
opaque Config.measurement : Nat → List Byte

/-- Random bytes that the root firmware draws in SPDM replies, by stamp (R402). Log entry 6. -/
opaque Config.nonce : Nat → List Byte

/-- What another module answers to a request through its window: 1 and 2 for a page-not-present and a page-permission fault, else
served (R23); by stamp and request. Log entry 57. -/
opaque Config.peerAnswer : Nat → Nat → Nat

/-- A value the spec does not state, by stamp and place (log entry 7). -/
opaque Config.unstated : Nat → Nat → BitVec 64

end Sys2Proof
end

