-- ==== Sys2Proof/Machine/Tbl.lean ====
section
/-! DEFINITION. The two kinds of sparse data in State. `Tbl` holds records by number, with a default for every
number not listed. `Memory` holds bytes by address in one canonical form: addresses strictly rising and no
listed byte zero, so that equal memories are equal lists (an unlisted byte reads 0: 02 R45, R48). -/

namespace Sys2Proof.Machine

/-- Records by number, in rising order. -/
abbrev Tbl (β : Type) := List (Nat × β)

/-- The record at a number, or the default. -/
def tblGet {β : Type} (d : β) : Tbl β → Nat → β
  | [], _ => d
  | (k, v) :: t, n => if n = k then v else tblGet d t n

/-- The record at a number, if listed. -/
def tblFind {β : Type} : Tbl β → Nat → Option β
  | [], _ => none
  | (k, v) :: t, n => if n = k then some v else tblFind t n

/-- Write the record at a number. -/
def tblSet {β : Type} : Tbl β → Nat → β → Tbl β
  | [], n, v => [(n, v)]
  | (k, w) :: t, n, v =>
    if n < k then (n, v) :: (k, w) :: t
    else if n = k then (n, v) :: t
    else (k, w) :: tblSet t n v

/-- Forget the record at a number. -/
def tblDel {β : Type} : Tbl β → Nat → Tbl β
  | [], _ => []
  | (k, w) :: t, n => if n = k then tblDel t n else (k, w) :: tblDel t n

/-- Apply a change to every listed record. -/
def tblMap {β : Type} (f : Nat → β → β) : Tbl β → Tbl β
  | [] => []
  | (k, v) :: t => (k, f k v) :: tblMap f t

/-- Change one record. -/
def tblUpd {β : Type} (d : β) (t : Tbl β) (n : Nat) (f : β → β) : Tbl β := tblSet t n (f (tblGet d t n))

/-- Bytes by address. -/
abbrev Memory := List Host.Cell

/-- The byte at an address; an unlisted byte reads 0. -/
def memGet (m : Memory) (a : Nat) : Byte := tblGet 0 m a

/-- Write a byte, keeping the canonical form: a byte written 0 is not listed. -/
def memSet (m : Memory) (a : Nat) (b : Byte) : Memory := if b = 0 then tblDel m a else tblSet m a b

/-- Every listed address is above n, addresses rise, and no listed byte is 0. -/
def memAbove : Nat → Memory → Bool
  | _, [] => true
  | n, (k, c) :: t => decide (n < k) && c != 0 && memAbove k t

/-- The canonical form. -/
def Memory.wf : Memory → Bool
  | [] => true
  | (k, c) :: t => c != 0 && memAbove k t

/-- n bytes from an address. -/
def memRead (m : Memory) (a : Nat) : Nat → List Byte
  | 0 => []
  | n + 1 => memGet m a :: memRead m (a + 1) n

/-- Write bytes from an address. -/
def memWrite (m : Memory) (a : Nat) : List Byte → Memory
  | [] => m
  | b :: t => memWrite (memSet m a b) (a + 1) t

/-- Forget every byte of the range of n bytes from an address: they read 0 afterwards. -/
def memErase (m : Memory) (a n : Nat) : Memory := m.filter fun c => !(a ≤ c.1 && c.1 < a + n)

/-- Little-endian bytes as a number (00 R3). -/
def leNat : List Byte → Nat
  | [] => 0
  | b :: t => b.toNat + 256 * leNat t

/-- The n little-endian bytes of a number. -/
def natLe (x : Nat) : Nat → List Byte
  | 0 => []
  | n + 1 => BitVec.ofNat 8 (x % 256) :: natLe (x / 256) n

end Sys2Proof.Machine
end

