-- ==== Sys2Proof/Machine/State.lean ====
section
/-! DEFINITION. The state of the module as plain data, the reasons a step can stop, and the state after reset.
Every structure names the tables of spec/ it follows. A number that software never sees as a word is a Nat. -/

namespace Sys2Proof.Machine

/-! ## Reasons to stop -/

/-- No step of this model ends in a fault: the part's own faults stop a core, which is a next state (15 R355). -/
inductive Fault where
  /-- Raised by nothing: kept because the interface asks for a type. Safe: it is never answered. -/
  | none
  deriving DecidableEq, Repr

/-- Reasons for having no meaning. -/
inductive Refusal where
  /-- Raised by an arm of Dispatch.lean whose instruction has no meaning yet. Safe: the run stops. -/
  | notModelled (mnemonic : String)
  deriving DecidableEq, Repr

/-! ## Lanes (07 Table 7.4) -/

/-- STATUS. -/
inductive LaneStatus where
  | ready | parked | waiting | exited
  deriving DecidableEq, Repr

/-- What a parked or waiting lane waits for (WAITON, and the parks of R162). -/
inductive WaitOn where
  | nothing
  /-- parked: translations of the context, by VA[56:16] (R41) -/
  | walk (ctx : Nat) (vpns : List Nat)
  /-- parked: physical scratchpad lines of a core that are absent (R59, R60) -/
  | lines (core : Nat) (ls : List Nat)
  /-- parked: physical scratchpad lines of a core at OUT = 63 (R58) -/
  | outFull (core : Nat) (ls : List Nat)
  /-- parked: a free request entry (R116) -/
  | entries
  /-- parked: fewer than 16 unfinished sealed batches (R118) -/
  | batchSlot
  /-- parked: a flag count below 15 (R212) -/
  | flagFull (f : Fin 12)
  /-- parked: earlier accesses of the lane that an access of the instruction itself waits for (R443) -/
  | own (ids : List Nat)
  /-- parked: a rank that an access of the instruction itself goes to moves, or its core's port is stopped (R61, R155, R443); with the
  offset there -/
  | rank (cluster rank grid cohort off : Nat)
  /-- parked: the engine holds a released operation (R327) -/
  | engine
  /-- waiting: a phase of a barrier (R170) -/
  | bar (b : Nat) (phase : Nat)
  /-- waiting: a barrier, with the arrival held (R172) -/
  | barHeld (b : Nat)
  /-- waiting: a ring stage's side at a value (R289) -/
  | ring (r st : Nat) (empty v : Bool)
  /-- waiting: a timeline at a value (R287) -/
  | timeline (sel : Nat) (n : Nat) (scope : Scope)
  /-- waiting: at most n unfinished sealed batches (R284) -/
  | batches (n : Nat) (ge : BitVec 3)
  /-- waiting: a count of clock cycles (R297); true for sleep.ns -/
  | time (cycles : Nat) (sleep : Bool)
  /-- waiting: the flags of a mask (R213) -/
  | flags (mask : BitVec 12)
  deriving DecidableEq, Repr

/-- What trap entry copies and rtrap takes back (R359). -/
structure Shadow where
  pc     : PAddr
  depth  : Nat
  status : LaneStatus
  waitOn : WaitOn
  yld    : Bool
  guards : BitVec 7
  flags  : Tbl Nat
  slots  : Tbl PAddr
  waitFlag : Option (Fin 12)
  deriving DecidableEq, Repr

/-- A copy batch: the copies in it that have not completed, and whether one completed with an error (R118, R284). -/
structure Batch where
  copies : List Nat
  err    : Bool
  cached : Bool      -- some copy in it wrote a cacheable location (R119)
  deriving DecidableEq, Repr

/-- One lane. -/
structure Lane where
  pc       : PAddr
  depth    : Nat
  tl       : Bool
  status   : LaneStatus
  waitOn   : WaitOn
  yld      : Bool
  arr      : BitVec 16
  new      : BitVec 16
  held     : BitVec 16
  heldRel  : Tbl Nat            -- the release point of each held arrival, by barrier (R291)
  guards   : BitVec 7
  flags    : Tbl Nat            -- counts of f0 to f11, 0 to 15
  slots    : Tbl PAddr          -- the 8 on-core return-stack slots (R234)
  regs     : Tbl Word
  openB    : Batch
  sealedB  : List Batch         -- oldest first, with finished ones kept until a wait acquires them
  shadow   : Option Shadow
  entering : Bool               -- the lane is entering its line (R202)
  waitFlag : Option (Fin 12)    -- the flag that the wait in progress has set (R212)
  cpySkip  : Option (PAddr × Nat) -- a parked cpy, and the destination bytes that higher lanes of it have issued (R117)
  deriving DecidableEq, Repr

/-- A lane as its group starts, at an entry (R160). -/
def Lane.start (entry : PAddr) : Lane :=
  { pc := entry, depth := 0, tl := false, status := .ready, waitOn := .nothing, yld := false, arr := 0, new := 0,
    held := 0, heldRel := [], guards := 0, flags := [], slots := [], regs := [], openB := ⟨[], false, false⟩, sealedB := [],
    shadow := none, entering := true, waitFlag := none, cpySkip := none }

/-! ## Groups and teams (07) -/

/-- A resident group. `lanes` lists all 32. -/
structure Group where
  uid     : Nat        -- the model's name for the group, kept across pre-emption
  role    : Role
  units   : Nat        -- REGS (Table 7.2)
  pslot   : Nat        -- private slot (R18)
  ft      : Nat        -- FT (R164)
  tw      : Nat        -- TW (R168)
  lanes   : Tbl Lane
  traps   : Nat        -- trap entry count (Table 15.5)
  age     : Nat        -- order of becoming resident on the core (R351)
  lls     : Nat        -- lost-locality score (R352)
  heldW   : Nat        -- consecutive windows held (R353)
  mayIssue : Bool      -- may issue majors 0xC0 to 0xDF in this window (R353)
  throttled : Bool     -- has been held in this window: it stood at such a major and might not issue it (R353)
  passed  : Nat        -- consecutive ready cycles passed over (R351)
  entryCheck : Bool    -- the first issue has not yet checked the entry's BTM bit (R159, R203)
  deriving DecidableEq, Repr

/-- ROLE_CFG (Table 7.2). -/
structure RoleCfg where
  en     : Bool
  shrink : Nat
  live   : Nat
  gmax   : Nat
  gmin   : Nat
  regs   : Nat
  deriving DecidableEq, Repr

/-- ROLE_ENTRY (Table 7.3). -/
structure RoleEntry where
  joinEn  : Bool
  joinPc  : PAddr
  startPc : PAddr
  deriving DecidableEq, Repr

/-- BAR_CTX (Table 7.8), and the release points that its phases count (R291): `phases` numbers the completed
phases, `rel` lists the release points of the current phase's arrivals, `done` those of completed phases. -/
structure Barrier where
  en     : Bool
  phase  : Bool
  roles  : BitVec 3
  join   : Nat
  arr    : Nat
  exp    : Nat
  phases : Nat
  rel    : List Nat
  done   : Tbl (List Nat)
  deriving DecidableEq, Repr

/-- RING_CFG (Table 5.5): the expected counts and the stage count, as numbers. -/
structure RingCfg where
  en       : Bool
  emptyExp : Nat
  fullExp  : Nat
  stages   : Nat
  deriving DecidableEq, Repr

/-- A counted flip of a phase bit that is not yet observable: the release points and the copies it waits for (R129). -/
structure Flip where
  empty : Bool
  rel   : List Nat
  deriving DecidableEq, Repr

/-- RING_STG (Table 5.6): the observable phase bits and the counts; the flips counted and not yet observable; and
the release points that the current phases have counted. -/
structure RingStg where
  fullPh   : Bool
  emptyPh  : Bool
  emptyArr : Nat
  fullArr  : Nat
  flips    : List Flip
  fullRel  : List Nat
  emptyRel : List Nat
  deriving DecidableEq, Repr

/-- A timeline (R123): the counter, the number the next operation takes, and the numbers completed above the counter. -/
structure Timeline where
  count : Nat
  next  : Nat
  done  : List Nat
  deriving DecidableEq, Repr

def Timeline.start : Timeline := ⟨0, 1, []⟩

/-- An imprecise fault kept pending or held (R356, R367). -/
structure Report where
  code   : Nat
  uid    : Nat
  slot   : Nat
  group  : Nat
  lanes  : LaneMask
  pc     : PAddr
  addr   : DWord
  aux    : DWord
  merged : Bool
  tl     : Bool       -- the fault was raised at trap level
  orig   : Nat        -- for a double trap, the original code
  late   : Bool       -- found after its lanes had moved on
  deriving DecidableEq, Repr

/-- A team. -/
structure Team where
  uid      : Nat
  grid     : Nat
  t        : Nat
  x        : Nat
  y        : Nat
  z        : Nat
  rank     : Option Nat
  cohort   : Nat           -- the number of its cohort in the grid (R178)
  fairM1   : Nat           -- TEAM_CTL (Table 7.5)
  progress : Bool
  ftz16    : Bool          -- FP_CTL (Table 8.6)
  base     : Nat           -- reservation base line (R56)
  scr      : Nat           -- reservation length in lines
  roles    : Tbl RoleCfg   -- 0 copy, 1 matrix, 2 vector
  entries  : Tbl RoleEntry
  bars     : Tbl Barrier
  rings    : Tbl RingCfg
  stages   : Tbl RingStg   -- ring × 16 + stage
  tlCopy   : Timeline
  tlMatrix : Timeline
  cts      : Tbl (BitVec 256)  -- the launch's code tables, for a team without the engine (R185)
  groups   : Tbl Group     -- by group index, live groups only
  joins    : List (Role × Nat × Nat)   -- accepted joins: role, group index, private slot (R174)
  quantum  : Nat           -- nanoseconds left of the quantum (R349)
  yielding : Bool
  stopping : Bool          -- the team issues no more: it is being pre-empted (R367)
  admitted : Nat           -- order of admission to the core (R347)
  lastL1   : Option Nat    -- the L1 structure of its last residence (R108)
  pending  : List Report   -- imprecise faults found during a save (R367)
  deriving DecidableEq, Repr

/-! ## Accesses issued and not yet performed (04 R90, R95) -/

/-- Where the bytes of an access lie (R13, R20 to R23, R28). -/
inductive Place where
  /-- device memory, by device physical address; cacheable (R66) -/
  | dev (pa : Nat)
  /-- the host-system window, by host physical address (R28) -/
  | host (pa : Nat)
  /-- a byte of this core's scratchpad -/
  | spad (at_ : Nat)
  /-- a byte of a rank's reservation: the ranks of a grid's cohort in a cluster (R15, R16, R178) -/
  | rank (cluster rank grid cohort off : Nat)
  /-- a peer's window (R22); for the module's own window the device physical address and the hint that the request's
  acceptance found there (R23, R24) -/
  | peer (peer woff : Nat) (home : Option (Nat × Nat))
  deriving DecidableEq, Repr

/-- What an access does. -/
inductive Act where
  | load (n : Nat)
  | store (data : List Byte)
  | atom (op : AtomOp) (ty : AtomTy) (b : DWord)
  | faa (w64 : Bool) (addend : DWord)
  | cas (w64 : Bool) (cmp new : DWord)
  /-- a release part's point (R95) -/
  | release (s : Scope)
  /-- an acquire part's point (R95) -/
  | acquire (s : Scope)
  /-- the point of a fence.sc (R95) -/
  | sc (s : Scope)
  deriving DecidableEq, Repr

/-- One item of a core's queue: an access, or a point of an ordered access or fence. `lanes` are the lanes it belongs
to: one, or for a faa request every lane that shares the address (R277). -/
structure Item where
  id     : Nat
  op     : Nat          -- the operation in `ops` it belongs to; 0 for none
  uid    : Nat          -- the group
  team   : Nat          -- the team
  grid   : Nat
  ctx    : Nat
  lanes  : LaneMask
  act    : Act
  place  : Place
  ch     : Nat          -- the leaf's caching hint (R39)
  ord    : MemOrd
  scope  : Scope
  after  : List Nat     -- items of lower lanes of the instruction that go first (R273, R278)
  vpn    : Nat          -- the page it was translated with (R42); 0 when none
  inFab  : Bool         -- a faa request that a switch holds (R145)
  ended  : Bool         -- ended under R139 or R152, and yet to be applied
  addr   : DWord        -- the generic address of its lowest lane
  sent   : Option (Nat × Nat)  -- when it was sent: nanosecond counter (R152) and stamp
  wb     : Option (List Nat)  -- the sectors of a point's WB that have not been taken, once it is under way (R91)
  deriving DecidableEq, Repr

/-- What completes an operation, and what it writes then (R212). -/
inductive OpKind where
  /-- a load of a type into a destination -/
  | load (ty : MemTy) (dst : Nat)
  | store
  /-- an atomic: destination, width, GD -/
  | atomic (dst : Nat) (w64 : Bool) (gd : BitVec 3)
  /-- a special function into a destination -/
  | sfu (dst : Nat)
  /-- copies (cpy), which complete by CWRITE -/
  | copy
  deriving DecidableEq, Repr

/-- An instruction issued and not completed. `values` holds the register values of each lane as they become known. -/
structure Op where
  id      : Nat
  uid     : Nat
  kind    : OpKind
  flag    : FlagSel
  tl      : Bool          -- issued at trap level (R360)
  lanes   : LaneMask
  left    : List Nat      -- the items or copies that have not been performed
  values  : Tbl (List Word)
  ended   : LaneMask      -- lanes whose request ended under R139 or R152
  pc      : PAddr
  deriving DecidableEq, Repr

/-- A region's start after the checks made at issue (R115): a virtual address, or a place outside translation. -/
inductive Ref where
  | virt (va : Nat)
  | at_ (p : Place)
  deriving DecidableEq, Repr

/-- An aligned part of a per-lane copy (R111); bit i of `skip` is set where a higher lane of the instruction writes
destination byte i (R117). -/
structure CopyPart where
  lane : Nat
  src  : Ref
  dst  : Ref
  len  : Nat
  skip : Nat
  deriving DecidableEq, Repr

/-- What a tcpy pairs (R122), by the fields of its layout record. -/
structure Tile where
  st    : Bool
  mb    : Ref
  sb    : Ref
  first : Nat
  count : Nat
  nr    : Nat
  nc    : Nat
  br    : Nat
  bw    : Nat
  pitch : Nat              -- bytes
  order : Nat
  block : Nat
  swz   : Nat
  deriving DecidableEq, Repr

/-- The units of a copy, each moved by one CREAD and one CWRITE: the parts of a line transfer, or the bytes of a tile. -/
inductive CopyPlan where
  | parts (ps : List CopyPart)
  | tile (t : Tile)
  deriving DecidableEq, Repr

/-- What has become of a unit: the bytes that its CREAD read, whether its CWRITE has been taken or given up, whether one of
its requests ended with an error, whether it wrote a cacheable location, and when its request to a peer or the host was sent. -/
structure CopyUnit where
  data   : Option (List Byte)
  done   : Bool
  err    : Bool
  cached : Bool
  sent   : Option Nat
  deriving DecidableEq, Repr

/-- The team whose reservation a tag 0x9 destination lies in, by its name, and where its reservation stands or last stood:
core and base line (R16, R57, R120). -/
structure DstHome where
  team : Nat
  core : Nat
  base : Nat
  deriving DecidableEq, Repr

/-- An outstanding copy: one line transfer of a cpy (R116), or a tcpy. -/
structure Copy where
  id      : Nat
  op      : Nat            -- the cpy's operation; 0 for a tcpy
  team    : Nat
  uid     : Nat
  group   : Nat
  ctx     : Nat
  grid    : Nat
  lanes   : LaneMask
  plan    : CopyPlan
  units   : Tbl CopyUnit
  outs    : List (Nat × Nat)   -- scratchpad destination lines it still counts in OUT: core, line
  tile    : Option Nat     -- a tcpy's timeline number
  ring    : Option (Nat × Nat)
  stopped : LaneMask       -- lanes whose copies a copy-engine fault has suspended (R362)
  failed  : Tbl Nat        -- by lane: the unit whose transfer failed, which a retry repeats first (R363, R368)
  ended   : LaneMask       -- lanes whose copies have completed
  home    : Option DstHome
  since   : Nat            -- nanosecond counter at its issue, or at the last retry: its reads are sent then (R152)
  pc      : PAddr
  deriving DecidableEq, Repr

/-- An entry of the copy-fault queue (Table 15.6). -/
structure CopyFault where
  copy  : Nat
  code  : Nat
  ctx   : Nat
  group : Nat
  lane  : Nat
  tile  : Bool
  va    : Nat
  at_   : Nat            -- nanosecond counter when queued (R363)
  deriving DecidableEq, Repr

/-! ## Translation (02) -/

/-- A TLB entry (R40). -/
structure Tlb where
  ctx : Nat
  big : Bool             -- 512 MiB
  va  : Nat              -- first byte of the page
  pa  : Nat
  r   : Bool
  w   : Bool
  x   : Bool
  ch  : Nat
  deriving DecidableEq, Repr

/-- A walk that failed, until the parked lanes re-execute (R41). -/
structure WalkFault where
  ctx   : Nat
  vpn   : Nat
  code  : Nat
  level : Nat
  leaf  : Option Tlb     -- the leaf, where its page lies in no region (R36)
  deriving DecidableEq, Repr

/-- A pointer entry that a cluster's walker keeps (R40): of level A (1) or B (2), the first byte it covers, and the
next table. -/
structure Ptr where
  ctx   : Nat
  level : Nat
  va    : Nat
  table : Nat
  deriving DecidableEq, Repr

/-! ## L1 structures (03) -/

/-- A 64 B sector of an L1: V, DM, and its bytes (R65); the context that last stored to it (R54) with its page's caching hint (R39),
and every context whose stores its dirty bytes hold (R42). -/
structure Sector where
  v    : Bool
  dm   : BitVec 64
  data : BitVec 512
  ctx  : Nat
  ch   : Nat
  by_  : List Nat
  deriving DecidableEq, Repr

/-- The kinds of latent ECC error that a reader may find (R52, R53, R63, R70). -/
inductive EccKind where
  | correctable | uncorrectable
  deriving DecidableEq, Repr

/-- A pinned line (R80): its 256 B line number and the context. -/
structure Pin where
  line : Nat
  ctx  : Nat
  deriving DecidableEq, Repr

/-- A set of a cache: the line that each way holds, by way, and the bits of its replacement tree: bit n − 1 of `tree` is that
of node n, with the root 1 and the children of n at 2n and 2n + 1 (R69, R76). -/
structure CacheSet where
  ways : Tbl Nat
  tree : Nat
  deriving DecidableEq, Repr

def CacheSet.empty : CacheSet := ⟨[], 0⟩

/-- One L1 structure: sectors by PA div 64, its sets, its pins, and latent errors of its storage by sector. -/
structure L1 where
  sectors : Tbl Sector
  sets    : Tbl CacheSet
  pins    : List Pin
  latent  : Tbl EccKind
  deriving DecidableEq, Repr

/-! ## The matrix engine (13 Table 13.1) -/

/-- What position 0 of a joint epi.run gives: where SB lies, the offsets of P_0 to P_3 from it, c0 and NC (R331). -/
structure EpiArgs where
  place : Place
  pks   : List Nat
  c0    : Nat
  nc    : Nat
  deriving DecidableEq, Repr

/-- An entry of a scale queue: the 16 micro-scales and sa of each lane. -/
structure ScaleSet where
  ua : Tbl (BitVec 128)
  sa : Tbl (BitVec 16)
  deriving DecidableEq, Repr

/-- A member's contribution to a joint operation; an operation of one issue has one. -/
structure Member where
  pos     : Nat                 -- list position
  uid     : Nat
  group   : Nat
  lanes   : LaneMask            -- lanes that take part
  tl      : Bool
  pc      : PAddr
  rows    : Tbl (List Word)     -- the A block of each lane
  claimed : Bool                -- it claimed a scale entry
  own     : Option ScaleSet     -- that entry, once its gang has broken and its queue is gone (R314, R323)
  args    : Option EpiArgs
  deriving DecidableEq, Repr

/-- A joint operation's encoding, less SRCA. -/
inductive JointOp where
  | mma (f : MmaForm)
  | epi (f : EpiForm)
  deriving DecidableEq, Repr

/-- The rendezvous latch, or a released operation that the engine holds (R327). -/
structure Latch where
  op      : JointOp
  team    : Nat
  grid    : Nat
  members : List Member
  deriving DecidableEq, Repr

/-- The reuse latch (R316). -/
structure Reuse where
  fmt  : MxFmt
  rows : Tbl (List Word)       -- by row 0 to 191
  deriving DecidableEq, Repr

/-- MX_STAT (Table 13.5). -/
structure MxStat where
  tagFail : Nat
  deriving DecidableEq, Repr

/-- An accepted engine operation (R307), with what it captured at acceptance. -/
inductive EngAct where
  /-- A rows and scales by row 0 to 191, and the code tables of A and B -/
  | mma (f : MmaForm) (count : Nat) (rows : Tbl (List Word)) (scales : Tbl (BitVec 128 × BitVec 16))
      (ca cb : BitVec 256)
  /-- the image's place; with .ct the key (none: an empty slot), TENSOR_ID and the square's index; the timeline number;
      the release point of its ring arrival -/
  | ldb (f : LdbForm) (src : Place) (key : Option (BitVec 256)) (tensor sq num stageRel : Nat)
  | ctSet (n : Nat) (v : BitVec 256)
  | accLd (t : Nat) (src : Place) (row0 count : Nat)
  | accSt (t : Nat) (dst : Place) (row0 count : Nat)
  | accZero (t : Nat) (row0 count : Nat)
  | epi (t count : Nat) (args : EpiArgs) (prog : List Word)
  deriving DecidableEq, Repr

/-- An engine operation, with who issued it and the lines it counts in OUT; what its tag 0x9 source held when its request was served
(R61, R320); and whether its target is gone (R156). -/
structure EngOp where
  id      : Nat
  act     : EngAct
  early   : Option (List Byte)
  gone    : Bool
  flag    : FlagSel
  team    : Nat
  grid    : Nat
  members : List Member
  outs    : List (Nat × Nat)
  deriving DecidableEq, Repr

/-- The engine. -/
structure Engine where
  tiles  : Tbl (Tbl Word)      -- tile, then row × 128 + column
  bufs   : Tbl Memory          -- stationary buffers 0 and 1
  gang   : DWord
  latch  : Option Latch
  reuse  : Option Reuse
  scales : Tbl (List ScaleSet) -- by list position, oldest first
  epiProg : List Word          -- words 1 to LEN of the program store
  ct     : Tbl (BitVec 256)
  stat   : MxStat
  ops    : List EngOp          -- accepted and not completed, oldest first
  held   : List Latch          -- released and not yet accepted, oldest first (R327)
  token  : Bool                -- a token has been granted to the member that waits to release the latch (R317)
  deriving DecidableEq, Repr

def Engine.reset : Engine :=
  { tiles := [], bufs := [], gang := 0, latch := none, reuse := none, scales := [], epiProg := [],
    ct := [], stat := ⟨0⟩, ops := [], held := [], token := false }

/-! ## Cores -/

/-- The fault unit: FLT_STAT, FLT_PC, FLT_ADDR, FLT_AUX, and the faults held (Table 15.2, R356). -/
structure FltUnit where
  stopped  : Bool
  err      : Bool
  cur      : Option Report    -- the last report
  heldQ    : List Report
  overflow : List Report
  act      : Option Nat    -- an ACTION that has been written and waits for DRAINED (Table 15.3)
  deriving DecidableEq, Repr

/-- A remote scratchpad request that waits at its target core (R61) or for a moving rank (R155): an item of the core that sent
it, or a fetch-and-add of the fabric by its name. -/
structure RemoteReq where
  core : Option Nat
  item : Nat
  deriving DecidableEq, Repr

/-- An entry of the victim tag array (R352). -/
structure Victim where
  line : Nat
  uid  : Nat
  deriving DecidableEq, Repr

/-- One logical core (cluster × 256 + index). -/
structure Core where
  phys     : Nat
  gated    : Bool
  quiescing : Bool
  rest     : Option (Nat × Nat)       -- a rest: the service tick it began, and its length as a dusk interval or 0
  teams    : Tbl Team                 -- by team slot
  spad     : Memory
  latent   : Tbl EccKind              -- latent scratchpad errors, by 64 B sector (R63)
  zeroing  : List Nat                 -- lines being zeroed, in order (R57)
  zeroed   : Bool                     -- a line has been zeroed in this cycle (R57)
  outs     : Tbl Nat                  -- OUT by line, where not 0
  freed    : List Nat                 -- freed lines whose OUT is not 0 (R57)
  tlb      : List Tlb
  walks    : List (Nat × Nat)         -- context, VA[56:16]
  walkFaults : List WalkFault
  icache   : Tbl (List Word)          -- by context × 2^51 + line: the 16 words as fetched
  queue    : List Item                -- in issue order
  ops      : Tbl Op
  copies   : Tbl Copy
  copyFaults : List CopyFault
  remote   : List RemoteReq
  flt      : FltUnit
  engine   : Engine
  owner    : Option Nat               -- team slot that owns the engine
  capC     : Nat
  evE      : Nat
  window   : Nat                      -- cycles left of the R352 window
  victims  : List Victim
  ages     : Nat                      -- next age
  ntEnter  : Nat                      -- NT_CTL (Table 16.3)
  ntExit   : Nat
  ntAuto   : Bool
  ntCur    : BitVec 4                 -- islands at near-threshold
  ntSettle : Tbl Bool                 -- islands changing point: whether to near-threshold (R379)
  ntKeep   : Tbl Nat                  -- keep-out windows left, by island
  ntStall  : Nat                      -- stall cycles of the window (R378)
  ntCycles : Nat                      -- cycles of the window
  grown    : Bool                     -- the dispatcher has added a group at this cycle boundary (R347)
  issued   : Nat                      -- the group that issued in this cycle; 0 for none (R351)
  deriving DecidableEq, Repr

def FltUnit.reset : FltUnit := ⟨false, false, none, [], [], none⟩

/-- A core after reset, at its physical position. -/
def Core.reset (phys : Nat) : Core :=
  { phys := phys, gated := false, quiescing := false, rest := none, teams := [],
    spad := [], latent := [], zeroing := [], zeroed := false, outs := [], freed := [], tlb := [], walks := [], walkFaults := [], icache := [],
    queue := [], ops := [], copies := [], copyFaults := [], remote := [], flt := FltUnit.reset,
    engine := Engine.reset, owner := none, capC := 64, evE := 0, window := 1024, victims := [], ages := 0,
    ntEnter := 0xC0, ntExit := 0x80, ntAuto := true, ntCur := 0, ntSettle := [], ntKeep := [],
    ntStall := 0, ntCycles := 0, grown := false, issued := 0 }

/-! ## Clusters -/

/-- An entry of a cluster's rank table (R16, R155): the grid, cohort and rank, the core and team slot that hold it, and when
it was marked moving. -/
structure RankEntry where
  grid   : Nat
  cohort : Nat
  rank   : Nat
  core   : Nat
  slot   : Nat
  moving : Option Nat          -- nanosecond counter when marked
  deriving DecidableEq, Repr

/-- A cluster: its shared TLB, its L1 mode, its rank table and hold buffer, its throttle reasons and its spares. -/
structure Cluster where
  tlb      : List Tlb
  ptrs     : List Ptr          -- the walker's pointer entries, newest first (R40)
  walks    : List (Nat × Nat)  -- misses that wait for a walk, context and VA[56:16], in arrival order (R41)
  fused    : Bool              -- CL_L1_STAT (Table 3.3)
  switches : Nat
  ranks    : List RankEntry
  hold     : List RemoteReq    -- R155, in arrival order
  thr      : BitVec 5          -- THR_REASON (Table 16.5)
  spares   : List Nat          -- physical indices of cold spares
  deriving DecidableEq, Repr

def Cluster.reset : Cluster :=
  { tlb := [], ptrs := [], walks := [], fused := false, switches := 0, ranks := [], hold := [], thr := 0,
    spares := [256, 257, 258, 259, 260, 261, 262, 263, 264, 265, 266, 267, 268, 269, 270, 271] }

/-! ## Device memory (02, 03) -/

/-- An L2 sector that is valid: dirty, the context that last dirtied its line (R54, R75, R79), a latent error of its storage, and
the memory device's own 64 bytes where they matter and differ from the L2's (R53). -/
structure L2Sector where
  dirty : Bool
  ctx   : Option Nat
  bad   : Option EccKind
  under : Option (List Byte)
  deriving DecidableEq, Repr

/-- Memory and the structures at the homes. -/
structure Mem where
  cells   : Memory             -- near, far and expansion memory, by device physical address
  swept   : List Nat           -- 64 KiB pages whose scrub-pending bit is 0 (R44)
  sweeping : List Nat          -- pages being swept (R46)
  waiters : List (Nat × Instr) -- writes that wait for a sweep, by page, in arrival order
  expSize : Nat                -- installed expansion capacity in bytes (R33)
  expDevs : List (Nat × Nat)   -- devices: first byte and size
  removed : List Nat           -- devices hot-removed
  latent  : Tbl EccKind        -- latent errors of the memory devices, by PA div 64
  l2      : Tbl L2Sector       -- by PA div 64
  l2Sets  : Tbl CacheSet       -- by slice × 32,768 + set: lines by PA div 256 (R75)
  l2Low   : List Nat           -- lines allocated at lowest priority (R39)
  host    : Memory             -- host memory, by host physical address
  grants  : List (Nat × Nat)   -- granted host ranges: first byte and size (R28)
  peers   : Tbl Memory         -- the windows of other modules, by peer id (R22)
  deriving DecidableEq, Repr

/-! ## Fabric (06) -/

/-- A faa request in the fabric: an item of a core, an inbound peer's, or the merged request of a record. `sw` is the
switch it stands before; none when it has reached its destination. -/
structure FabReq where
  id     : Nat
  origin : Option (Nat × Nat)  -- core and item
  peer   : Option (Nat × Nat)  -- peer id and its requesting core
  record : Option (Nat × Nat)  -- the switch and record of a merged request
  ctx    : Option Nat          -- the context charged for errors; none for a peer's
  page   : Option (Nat × Nat)  -- the context and VA[56:16] that a peer's was translated with (R42)
  leaves : List (Nat × Nat)    -- the items it serves, as core and item (R91, R154)
  ch     : Nat
  sw     : Option Nat
  port   : Nat                 -- its input port there
  path   : List (Nat × Nat)    -- switches and input ports still to cross after this one
  place  : Place               -- the key: device memory, or a byte of a rank's reservation (R145)
  w64    : Bool
  addend : DWord
  heldBy : Option Nat          -- the record whose window it is held behind (R136)
  deriving DecidableEq, Repr

/-- A contrail record (R146, R147). -/
structure Contrail where
  id     : Nat
  sw     : Nat
  place  : Place
  w64    : Bool
  isOpen : Bool
  opened : Nat                 -- the cycle of the switch's clock region when its window opened (R146)
  reqs   : List FabReq         -- its requesters, in merge order (R147, R150)
  out    : Nat                 -- output port
  path   : List (Nat × Nat)
  reply  : Option DWord        -- the reply has arrived: the old value
  sentAt : Nat
  deriving DecidableEq, Repr

/-- COMB_STAT (Table 6.8). -/
structure CombStat where
  lost    : Nat
  expired : Nat
  pass    : Nat
  merged  : Nat
  deriving DecidableEq, Repr

/-- An optical port: OPT_PORT_CTL and OPT_PORT_CNT (Tables 6.3, 6.4), and the failures in a row (R138, R141). -/
structure Port where
  up        : Bool
  parkErr   : Bool
  parkCur   : BitVec 2
  parkReq   : BitVec 2
  en        : Bool
  replays   : Nat
  retrains  : Nat
  lost      : Nat
  badReplay : Nat
  badTrain  : Nat
  parking   : Option (BitVec 2 × Nat)  -- a handshake: the quarters asked for, and when it began
  deriving DecidableEq, Repr

def Port.reset : Port := ⟨false, false, 0, 0, false, 0, 0, 0, 0, 0, none⟩

/-- CGT_ENTRY (Table 6.5). -/
structure Cgt where
  v     : Bool
  ports : BitVec 12
  size  : Nat
  deriving DecidableEq, Repr

/-- The fabric and the export window (Tables 1.5 to 1.7, 6.3 to 6.8). -/
structure Fabric where
  expBase : Nat
  expSize : Nat
  selfId  : Nat
  wrEn    : Bool
  expCtx  : Nat
  combEn  : BitVec 10
  tmoUs   : Nat
  comb    : Tbl CombStat
  ports   : Tbl Port
  cgt     : Tbl Cgt
  reqs    : List FabReq
  recs    : List Contrail
  behind  : List Instr         -- inbound requests of a peer that stay behind a fetch-and-add of it (R134)
  deriving DecidableEq, Repr

/-! ## Launch and grids (14) -/

/-- A launch record, read (Table 14.3). -/
structure Launch where
  ctx      : Nat
  share    : Bool
  l1mode   : Nat
  cohort   : Nat
  gx       : Nat
  gy       : Nat
  gz       : Nat
  scr      : Nat
  fairM1   : Nat
  progress : Bool
  ftz16    : Bool
  privBase : Nat
  slots    : Nat
  stride   : Nat               -- STRIDE_LOG2
  roles    : Tbl RoleCfg
  entries  : Tbl RoleEntry
  bars     : Tbl (BitVec 3)    -- ROLES of each enabled barrier
  rings    : Tbl RingCfg
  ctAddr   : DWord
  dep0     : Nat
  dep1     : Nat
  dep0Sel  : Nat
  dep1Sel  : Nat
  sigSel   : Nat
  compl    : DWord
  deriving DecidableEq, Repr

/-- What a grid reads from its context's descriptor at its start (R373). -/
structure Desc where
  ptRoot   : Nat               -- physical address of the level A table
  pinQuota : Nat
  frame    : Nat               -- VA of the trap frame array; 0: none
  entry    : PAddr             -- the handler; 0: none
  saveBase : Nat
  saveUnits : Nat
  sealEn   : Bool
  sealSlot : Nat
  sealDst  : Nat
  deriving DecidableEq, Repr

/-- A chunk of a seal stream (R301, R409): its timeline number, the core and team that submitted it, its region, the bytes of it that
have been read, and whether it has completed and was lost. -/
structure Chunk where
  num    : Nat
  core   : Nat
  team   : Nat
  region : Ref
  bytes  : List (Option Byte)
  digest : Option (BitVec 384)
  lost   : Bool
  done   : Bool
  deriving DecidableEq, Repr

/-- An open seal stream (R408). -/
structure Seal where
  keyId    : BitVec 32
  ctDigest : BitVec 384
  issued   : Nat
  chunks   : List Chunk
  tl       : Timeline
  dataLoss : Nat
  tagFail  : Nat
  deriving DecidableEq, Repr

/-- A grid: taken, or started and not ended. -/
structure Grid where
  id       : Nat
  queue    : Nat
  ctx      : Nat
  launch   : Launch
  desc     : Desc
  cts      : Tbl (BitVec 256)
  started  : Bool
  dispatching : Bool
  nextT    : Nat               -- next team not yet admitted
  joined   : Nat               -- order of joining the waiting list (R343)
  liveTeams : Nat              -- admitted and not ended
  slotsHeld : List Nat         -- private slots held (R18)
  sig      : Nat               -- launch timeline number, or 0
  killed   : Bool
  groupKilled : Bool
  lastFault : Nat
  startNs  : Nat
  loss     : Nat               -- charges made to the context since the start (R415)
  tags     : Nat
  stream   : Option Seal
  deriving DecidableEq, Repr

/-- A team that pre-emption removed (R343, R367). What Tables 15.7 and 15.8 list is read back from `area` at the restore;
`team`, `engine` and `suspended` keep what they give no place for: names, free values taken, and bookkeeping. -/
structure Waiting where
  team     : Team
  ctx      : Nat
  prio     : Nat
  joined   : Nat
  area     : Nat
  size     : Nat
  engine   : Option Engine
  suspended : List Copy
  ops      : List Op            -- the issued instructions of the suspended copies
  fallen   : Tbl Nat            -- by line of the reservation: how far OUT has fallen since the save (R57)
  cluster  : Nat
  deriving DecidableEq, Repr

/-- A pending record: its grid id, its SIG selector and number, and whether it took no number for a context that was not live or a
selector that there is not, so that its grid is rejected (R337, R340). -/
structure Pend where
  id  : Nat
  sel : Nat
  num : Nat
  bad : Bool
  deriving DecidableEq, Repr

/-- A queue: LQ_CFG and LQ_PTR (Tables 14.1, 14.2), with its pending records. -/
structure Queue where
  en     : Bool
  src    : Bool
  prio   : Nat
  log2   : Nat
  ctx    : Nat
  base   : Nat
  err    : Bool
  head   : Nat
  tail   : Nat
  pend   : List Pend
  deriving DecidableEq, Repr

def Queue.reset : Queue := ⟨false, false, 0, 0, 0, 0, false, 0, 0, []⟩

/-- A SHRINK value that the dispatcher wrote (R348): the entry it was written for, by its order of joining and its team; the team
that it was written to, by its name; and when SHRINK_WAIT will have passed. -/
structure ShrinkReq where
  entry : Nat × Nat
  team  : Nat
  role  : Nat
  due   : Nat
  deriving DecidableEq, Repr

/-- Dispatch: queues, grids, the waiting list, SCHED_CTL (Table 14.6). -/
structure Sched where
  queues   : Tbl Queue
  gridCtr  : Nat
  grids    : Tbl Grid
  waiting  : List Waiting
  shrinks  : List ShrinkReq
  shrunk   : List (Nat × Nat)    -- the waiting entries that SHRINK has been written for
  growEn   : Bool
  quantumUs : Nat
  shrinkWait : Nat
  llsThr   : Nat
  joins    : Nat               -- next order of joining
  saveSeq  : Nat
  deriving DecidableEq, Repr

/-! ## Program contexts (15) -/

/-- A weight key slot (R405). -/
structure KeySlot where
  keyId  : BitVec 32
  key    : BitVec 256
  digest : BitVec 384
  deriving DecidableEq, Repr

/-- A live context. -/
structure Ctx where
  tls      : Tbl Timeline      -- the launch timelines (R340)
  dataLoss : Nat
  ptFormat : Nat
  last     : Nat               -- CTX_ERR (Table 18.6)
  frameLost : Nat
  complLost : Nat
  kills    : Nat
  dtraps   : Nat
  tagFails : Nat
  keys     : Tbl KeySlot
  saveKey  : Nat               -- which save key Config draws
  saveN    : Nat
  deriving DecidableEq, Repr

def Ctx.fresh (k : Nat) : Ctx := ⟨[], 0, 0, 0, 0, 0, 0, 0, 0, [], k, 0⟩

/-- CTXD_CFG, CTX_CMD (Tables 15.9, 15.11) and the live contexts. -/
structure Ctxs where
  base    : Nat
  count   : Nat
  cmdErr  : Bool
  cmdCtx  : Nat
  cmdOp   : Nat
  running : Option (Nat × Nat) -- the command that runs while BUSY is 1: OP and CTX
  live    : Tbl Ctx
  created : Nat
  deriving DecidableEq, Repr

/-! ## Service registers (02, 03, 18) -/

/-- The registers of X0 that drive translation, scrub and the L2, and the counters of Table 18.3. -/
structure Mgmt where
  invVa    : Nat               -- TLB_INV_VA
  invBusy  : Bool              -- TLB_INV_CMD
  invErr   : Bool
  invCtx   : Nat
  invScope : BitVec 2
  invItems : List (Nat × Nat)  -- accesses that the running command waits for: core, item
  invOps   : List (Nat × Nat)  -- engine operations that it waits for: core, operation; 0 for latched ones
  invReqs  : List Nat          -- peers' requests in the fabric that it waits for
  invPeers : List PeerReq      -- peers' requests held elsewhere that it waits for
  invDirty : List (Nat × Nat)  -- L1 structures and sectors with dirty bytes whose way to the L2 it waits for
  scrubPa  : Nat               -- SCRUB_BASE
  scrubBusy : Bool             -- SCRUB_CTL
  scrubErr : Bool
  scrubCount : Nat
  l2Busy   : Bool              -- L2_CTL
  l2Err    : Bool
  l2Cur    : Bool
  l2Req    : Bool
  l2Held   : List Instr        -- host and peer accesses held during a change (R78)
  aper     : Nat               -- APER_BASE
  ready    : Bool              -- DEV_STAT
  ceNear   : Tbl Nat
  ceFar    : Tbl Nat
  ceExp    : Tbl Nat
  ceCore   : Tbl Nat
  ceL2     : Tbl Nat
  ueUnowned : Tbl Nat
  peerRefuse : Tbl Nat
  hlErr    : Nat
  sweeps   : Tbl Nat
  rootDeny : Nat
  deriving DecidableEq, Repr

/-! ## Clocks, power and wear (16) -/

/-- A clock region: CLK_STAT (Table 16.2) and the readings of the last tick. -/
structure Region where
  refLost : Bool
  vMv     : Nat
  stretch : Nat
  nTgt    : Nat
  nCur    : Nat
  cyc     : Nat
  causes  : BitVec 5           -- causes in force (R381)
  quiet   : Bool               -- no cause has held since the last tick
  t8      : Int
  hot     : Int
  nearLimit : Bool
  deriving DecidableEq, Repr

def Region.reset : Region := ⟨false, 750, 0, 44, 44, 0, 0, true, 680, 680, false⟩

/-- A live boost grant (R397). -/
structure Grant where
  id     : Nat
  ctx    : Nat
  region : Nat
  point  : Nat
  tok    : Nat
  charge : Int
  held   : Int
  dur    : Nat                 -- µs
  at_    : Nat                 -- nanosecond counter at the grant
  deriving DecidableEq, Repr

/-- A boost request that waits for the root firmware (R395). -/
structure BoostReq where
  core  : Nat
  op    : Nat
  ctx   : Nat
  point : Nat
  us    : Nat
  group : Nat
  cyc   : Nat                  -- cycle of its core's region at issue
  at_   : Nat                  -- nanosecond counter at issue
  deriving DecidableEq, Repr

/-- A BOOST_PT entry (Table 16.12). -/
structure BoostPt where
  valid : Bool
  mv    : Nat
  n     : Nat
  tok   : Nat
  deriving DecidableEq, Repr

/-- Power: tokens, dusk, the life budget, boost, energy (Tables 16.4, 16.6, 16.8, 16.11, 16.12). -/
structure Power where
  size     : Nat
  tokOut   : Nat               -- tokens out
  mmaTok   : List Nat          -- cores whose joint mma holds a token
  duskEn   : Bool
  duskMax  : Nat
  duskLen  : Nat
  duskMin  : Nat
  boostEn  : Bool
  aTotal   : Nat
  targetH  : Nat
  targetReq : Option Nat
  reserve  : Nat
  reserveReq : Option Nat
  pts      : Tbl BoostPt
  grants   : List Grant
  requests : List BoostReq
  h        : Nat               -- service ticks H
  tickAt   : Nat               -- nanosecond counter at the last wear tick
  energy   : Tbl Nat
  wrap     : Tbl Bool
  latches  : List (Nat × Reader × Nat)
  deriving DecidableEq, Repr

/-- A wear record (R384, Table 16.7). Mechanisms are CNT:RES as one number in units of 2^-52 SU. -/
structure Wear where
  bti   : Nat
  hci   : Nat
  em    : Nat
  b     : Nat
  cB    : Nat
  cH    : Nat
  cE    : Nat
  st    : Nat                  -- 0 active, 1 cold spare, 2 retired
  logical : Option Nat
  inc   : Nat × Nat × Nat      -- increment of the last committed second
  sec   : Nat × Nat × Nat      -- what the ticks since the last commit added, in 2^-52 SU
  cal   : Option (Nat × Nat × Nat)  -- factors that take effect at the next tick (R389)
  seq   : Nat                  -- commit sequence number
  deriving DecidableEq, Repr

def Wear.reset : Wear := ⟨0, 0, 0, 0, 4096, 4096, 4096, 0, none, (0, 0, 0), (0, 0, 0), none, 0⟩

/-- The wear records: live, and as the 96 bytes of Table 16.7 in MRAM, by unit; a commit in progress has the unit it comes to
next. -/
structure Wears where
  live    : Tbl Wear
  mram    : Tbl (List Byte)
  commit  : Option Nat
  began   : Option Nat         -- nanosecond counter when the last commit began
  seq     : Nat
  reverts : Nat
  lost    : Bool               -- power was lost and the records have not been restored since
  targetChanges : Nat
  summary : List Byte          -- the wear summary as of the last commit (Table 17.3); empty before the first
  deriving DecidableEq, Repr

/-! ## Trust and the host link (17, 18) -/

/-- An SPDM request that is pending on a slot (R402). -/
inductive SpdmReq where
  | challenge (slot : Nat) (nonce : Nat)
  | measurements (index : Nat) (raw : Bool) (slot : Nat)
  deriving DecidableEq, Repr

/-- An IDE stream (R407); `met` says that the turn in progress would send by it while it is stalled. -/
structure Ide where
  count : Nat
  warn  : Bool
  stall : Option Nat           -- nanosecond counter at the stall
  fail  : Bool
  keyed : Bool
  held  : List Instr
  met   : Bool
  deriving DecidableEq, Repr

def Ide.reset : Ide := ⟨0, false, none, false, false, [], false⟩

/-- Confidential mode, certificates, sessions, streams (17). -/
structure Trust where
  mode     : Bool
  req      : Bool
  shr      : Tbl (Nat × Nat)   -- CONF_SHR: base in 64 KiB pages, size in 64 KiB units
  tierKeys : Option Nat        -- which draw the XTS keys of far and expansion memory are; none: destroyed (R49, R403)
  drawn    : Nat               -- how often they have been drawn
  images   : Tbl (List Byte)   -- components that differ from those the part came with, by measurement index (R399)
  measured : Tbl (List Byte)   -- those components as the last reset measured them
  chains   : Tbl (List Byte)   -- slots 1 to 7
  staged   : Tbl (List Byte)
  pending  : List SpdmReq
  sessions : List (Nat × Bool) -- session, and whether FINISH has closed its handshake
  ide      : Tbl Ide
  sealSeq  : Nat
  deriving DecidableEq, Repr

/-- What the module has sent out: interrupt messages, replies. -/
inductive Out where
  | msi (vector : Nat)
  | data (bytes : List Byte)
  | reg (v : DWord)
  | unsupported
  | refused (code : Nat)
  | retry
  | spdm (bytes : List Byte)
  deriving DecidableEq, Repr

/-- The host link (18): MSI-X Enable and Function Mask, the masks and pending bits, and what was sent, newest first. -/
structure Link where
  enable  : Bool
  allMask : Bool
  mask    : List Nat
  pending : List Nat
  sent    : List Out
  deriving DecidableEq, Repr

/-! ## Whose turn it is, and the issue in progress -/

/-- A turn of the agenda. -/
inductive Turn where
  /-- one step of the part, its firmware, the host or the fabric -/
  | event (i : Instr)
  /-- a request that has been held, or the second part of one, goes on; a full reset discards it (R418) -/
  | again (i : Instr)
  /-- the issue slot of a core (R351) -/
  | issue (core : Nat)
  /-- the end of a cycle of a clock region (R164, R208, R297) -/
  | cycle (region : Nat)
  /-- a cycle of the near-threshold clock of a region's islands (R297, R379) -/
  | islandCycle (region : Nat)
  /-- nanoseconds pass on the reference-driven counter (R376) -/
  | pass (ns : Nat)
  deriving DecidableEq, Repr

/-- The issue in progress: who issues, the lanes selected, the position, the line from the position's slot onward,
and the prefixes met. With no lane set, no issue is in progress. -/
structure Issue where
  core  : Nat
  slot  : Nat
  group : Nat
  lanes : LaneMask
  pc    : PAddr                -- the position (R163)
  p     : PAddr                -- the parcel being decoded
  line  : List Word            -- the parcels from p to the end of the line
  len   : Nat                  -- parcels of the instruction at p
  lit   : Option (BitVec 28)
  scope : Option (MemOrd × Scope × PAddr)
  tile  : Option (BitVec 3)
  deriving DecidableEq, Repr

def Issue.idle : Issue := ⟨0, 0, 0, 0, 0, 0, [], 0, Option.none, Option.none, Option.none⟩

/-- The state of the module. -/
structure State where
  ns       : Nat               -- the nanosecond counter, below 2^64 (R376)
  regions  : Tbl Region
  mem      : Mem
  l1       : Tbl L1            -- core index for a private L1, 2048 + cluster for a fused one
  cores    : Tbl Core
  clusters : Tbl Cluster
  fabric   : Fabric
  sched    : Sched
  ctxs     : Ctxs
  mgmt     : Mgmt
  power    : Power
  wear     : Wears
  trust    : Trust
  link     : Link
  issue    : Issue
  agenda   : List Turn
  fresh    : Nat               -- next unique name
  stamp    : Nat               -- place of the next free value (log entry 1)
  deriving DecidableEq, Repr

def L1.reset : L1 := ⟨[], [], [], []⟩

/-- The machine after reset (R48, R403, R418, and the reset columns of the register tables). -/
def State.reset : State :=
  { ns := 0, regions := [],
    mem := { cells := [], swept := [], sweeping := [], waiters := [], expSize := 0, expDevs := [], removed := [],
             latent := [], l2 := [], l2Sets := [], l2Low := [], host := [], grants := [], peers := [] },
    l1 := [], cores := [], clusters := [],
    fabric := { expBase := 0, expSize := 0, selfId := 0, wrEn := false, expCtx := 0, combEn := 0x3FF, tmoUs := 200,
                comb := [], ports := [], cgt := [], reqs := [], recs := [], behind := [] },
    sched := { queues := [], gridCtr := 1, grids := [], waiting := [], shrinks := [], shrunk := [], growEn := true,
               quantumUs := 2000, shrinkWait := 10, llsThr := 8, joins := 0, saveSeq := 0 },
    ctxs := { base := 0, count := 0, cmdErr := false, cmdCtx := 0, cmdOp := 0, running := none, live := [], created := 0 },
    mgmt := { invVa := 0, invBusy := false, invErr := false, invCtx := 0, invScope := 0, invItems := [],
              invOps := [], invReqs := [], invPeers := [], invDirty := [], scrubPa := 0, scrubBusy := false, scrubErr := false, scrubCount := 0, l2Busy := false,
              l2Err := false, l2Cur := false, l2Req := false, l2Held := [], aper := 0, ready := false, ceNear := [],
              ceFar := [], ceExp := [], ceCore := [], ceL2 := [], ueUnowned := [], peerRefuse := [], hlErr := 0,
              sweeps := [], rootDeny := 0 },
    power := { size := 2048, tokOut := 0, mmaTok := [], duskEn := true, duskMax := 1, duskLen := 40,
               duskMin := 0x100000, boostEn := true, aTotal := 0, targetH := 61320, targetReq := none,
               reserve := 0x100000, reserveReq := none,
               pts := [(1, ⟨true, 800, 52, 32⟩), (2, ⟨true, 850, 60, 64⟩)], grants := [], requests := [], h := 0, tickAt := 0,
               energy := [], wrap := [], latches := [] },
    wear := { live := [], mram := [], commit := none, began := none, seq := 0, reverts := 0, lost := false, targetChanges := 0, summary := [] },
    trust := { mode := false, req := false, shr := [], tierKeys := none, drawn := 0, images := [], measured := [], chains := [], staged := [], pending := [],
               sessions := [], ide := [], sealSeq := 0 },
    link := { enable := false, allMask := false, mask := List.range 128, pending := [], sent := [] },
    issue := Issue.idle, agenda := [], fresh := 1, stamp := 0 }

end Sys2Proof.Machine
end

