-- ==== Sys2Proof/Machine/Access.lean ====
section
/-! DEFINITION. Reading and changing one part of State: cores, teams, groups, lanes, contexts and counters.
A core is its logical number cluster × 256 + index (00 R2); physical indices 0 to 255 serve the logical ones at
reset, and 256 to 271 are the cold spares. -/

namespace Sys2Proof.Machine

/-- What a meaning answers. -/
abbrev Result := Host.Outcome State Fault Refusal

/-- Change a listed record; nothing where none is listed. -/
def tblAdj {β : Type} (t : Tbl β) (n : Nat) (f : β → β) : Tbl β :=
  match tblFind t n with
  | some v => tblSet t n (f v)
  | none => t

/-- The numbers listed. -/
def tblKeys {β : Type} (t : Tbl β) : List Nat := t.map (·.1)

/-- The lanes of a mask, ascending. -/
def lanesOf (m : LaneMask) : List Nat := (List.range 32).filter fun l => m.getLsbD l

/-- The mask of a list of lanes. -/
def maskOf : List Nat → LaneMask
  | [] => 0
  | l :: t => (1 : BitVec 32) <<< l ||| maskOf t

/-- The lowest lane of a mask. -/
def lowLane (m : LaneMask) : Nat := (lanesOf m).headD 0

/-- A lane outside every group. -/
def Lane.absent : Lane := { Lane.start 0 with status := .exited }

/-- No group. -/
def Group.absent : Group :=
  { uid := 0, role := .vector, units := 0, pslot := 0, ft := 0, tw := 32, lanes := [], traps := 0, age := 0, lls := 0,
    heldW := 0, mayIssue := true, throttled := false, passed := 0, entryCheck := false }

def RoleCfg.reset : RoleCfg := ⟨false, 0, 0, 0, 0, 0⟩
def RoleEntry.reset : RoleEntry := ⟨false, 0, 0⟩
def Barrier.reset : Barrier := ⟨false, false, 0, 0, 0, 0, 0, [], []⟩
def RingCfg.reset : RingCfg := ⟨false, 0, 0, 0⟩
def RingStg.reset : RingStg := ⟨false, false, 0, 0, [], [], []⟩

/-- No team. -/
def Team.absent : Team :=
  { uid := 0, grid := 0, t := 0, x := 0, y := 0, z := 0, rank := none, cohort := 0, fairM1 := 2047, progress := false,
    ftz16 := false, base := 0, scr := 0, roles := [], entries := [], bars := [], rings := [], stages := [],
    tlCopy := Timeline.start, tlMatrix := Timeline.start, cts := [], groups := [], joins := [], quantum := 0, yielding := false,
    stopping := false, admitted := 0, lastL1 := none, pending := [] }

/-- Role codes (R158). -/
def roleNum : Role → Nat
  | .copy => 0
  | .matrix => 1
  | .vector => 2

/-! ## Cores, teams, groups, lanes -/

def State.core (s : State) (c : Nat) : Core := tblGet (Core.reset (c % 256)) s.cores c

def State.setCore (s : State) (c : Nat) (k : Core) : State := { s with cores := tblSet s.cores c k }

def State.updCore (s : State) (c : Nat) (f : Core → Core) : State := s.setCore c (f (s.core c))

def Core.team (k : Core) (slot : Nat) : Team := tblGet Team.absent k.teams slot

def Core.updTeam (k : Core) (slot : Nat) (f : Team → Team) : Core := { k with teams := tblAdj k.teams slot f }

def Team.group (t : Team) (g : Nat) : Group := tblGet Group.absent t.groups g

def Team.updGroup (t : Team) (g : Nat) (f : Group → Group) : Team := { t with groups := tblAdj t.groups g f }

def Group.lane (g : Group) (l : Nat) : Lane := tblGet Lane.absent g.lanes l

def Group.setLane (g : Group) (l : Nat) (x : Lane) : Group := { g with lanes := tblSet g.lanes l x }

def Group.updLane (g : Group) (l : Nat) (f : Lane → Lane) : Group := g.setLane l (f (g.lane l))

/-- Change the lanes of a list, each on its own. -/
def Group.mapLanes (g : Group) (ls : List Nat) (f : Nat → Lane → Lane) : Group :=
  { g with lanes := tblMap (fun l x => if ls.contains l then f l x else x) g.lanes }

def Team.role (t : Team) (r : Role) : RoleCfg := tblGet RoleCfg.reset t.roles (roleNum r)
def Team.entry (t : Team) (r : Role) : RoleEntry := tblGet RoleEntry.reset t.entries (roleNum r)
def Team.bar (t : Team) (b : Nat) : Barrier := tblGet Barrier.reset t.bars b
def Team.ring (t : Team) (r : Nat) : RingCfg := tblGet RingCfg.reset t.rings r
def Team.stage (t : Team) (r st : Nat) : RingStg := tblGet RingStg.reset t.stages (r * 16 + st)

def State.team (s : State) (c slot : Nat) : Team := (s.core c).team slot
def State.updTeam (s : State) (c slot : Nat) (f : Team → Team) : State := s.updCore c (·.updTeam slot f)
def State.group (s : State) (c slot g : Nat) : Group := (s.team c slot).group g
def State.updGroup (s : State) (c slot g : Nat) (f : Group → Group) : State := s.updTeam c slot (·.updGroup g f)

/-- Where a resident group stands: core, team slot and index. -/
def Core.findGroup (k : Core) (uid : Nat) : Option (Nat × Nat) :=
  k.teams.findSome? fun (slot, t) => t.groups.findSome? fun (g, x) => if x.uid = uid then some (slot, g) else none

/-- Change a resident group by its name. -/
def Core.updByUid (k : Core) (uid : Nat) (f : Group → Group) : Core :=
  match k.findGroup uid with
  | some (slot, g) => k.updTeam slot (·.updGroup g f)
  | none => k

/-- The team slot of a team by its name. -/
def Core.findTeam (k : Core) (uid : Nat) : Option Nat :=
  k.teams.findSome? fun (slot, t) => if t.uid = uid then some slot else none

/-! ## The issue in progress -/

def State.issCore (s : State) : Core := s.core s.issue.core
def State.issTeam (s : State) : Team := s.issCore.team s.issue.slot
def State.issGroup (s : State) : Group := s.issTeam.group s.issue.group
def State.issLane (s : State) (l : Nat) : Lane := s.issGroup.lane l
def State.updIssCore (s : State) (f : Core → Core) : State := s.updCore s.issue.core f
def State.updIssTeam (s : State) (f : Team → Team) : State := s.updTeam s.issue.core s.issue.slot f
def State.updIssGroup (s : State) (f : Group → Group) : State := s.updGroup s.issue.core s.issue.slot s.issue.group f
/-- The issuing lanes, ascending. -/
def State.issLanes (s : State) : List Nat := lanesOf s.issue.lanes
/-- The cluster of a core. -/
def clusterOf (core : Nat) : Nat := core / 256

/-! ## Other parts -/

def State.cluster (s : State) (c : Nat) : Cluster := tblGet Cluster.reset s.clusters c
def State.updCluster (s : State) (c : Nat) (f : Cluster → Cluster) : State :=
  { s with clusters := tblUpd Cluster.reset s.clusters c f }
def State.region (s : State) (r : Nat) : Region := tblGet Region.reset s.regions r
def State.updRegion (s : State) (r : Nat) (f : Region → Region) : State :=
  { s with regions := tblUpd Region.reset s.regions r f }

/-- The clock region of a core: its die's regions by physical index div 17 (R374). -/
def State.regionOf (s : State) (core : Nat) : Nat := clusterOf core * 17 + (s.core core).phys / 17

/-- The rank table's entry is a team's. -/
def RankEntry.isOf (e : RankEntry) (t : Team) : Bool := e.grid == t.grid && e.cohort == t.cohort && some e.rank == t.rank

/-- The rank table's entry of a rank of a grid's cohort in a cluster (R16, R178). -/
def Cluster.rankEntry (c : Cluster) (grid cohort rank : Nat) : Option RankEntry :=
  c.ranks.find? fun e => e.grid == grid && e.cohort == cohort && e.rank == rank

/-- A grid outside the table. -/
def Launch.absent : Launch :=
  { ctx := 0, share := false, l1mode := 0, cohort := 1, gx := 1, gy := 1, gz := 1, scr := 0, fairM1 := 2047,
    progress := false, ftz16 := false, privBase := 0, slots := 0, stride := 10, roles := [], entries := [], bars := [],
    rings := [], ctAddr := 0, dep0 := 0, dep1 := 0, dep0Sel := 0, dep1Sel := 0, sigSel := 0, compl := 0 }

def Desc.absent : Desc := ⟨0, 0, 0, 0, 0, 0, false, 0, 0⟩

def Grid.absent : Grid :=
  { id := 0, queue := 0, ctx := 0, launch := Launch.absent, desc := Desc.absent, cts := [], started := false,
    dispatching := false, nextT := 0, joined := 0, liveTeams := 0, slotsHeld := [], sig := 0, killed := false,
    groupKilled := false, lastFault := 0, startNs := 0, loss := 0, tags := 0, stream := none }

def State.grid (s : State) (id : Nat) : Grid := tblGet Grid.absent s.sched.grids id
def State.updGrid (s : State) (id : Nat) (f : Grid → Grid) : State :=
  { s with sched := { s.sched with grids := tblAdj s.sched.grids id f } }
def State.issGrid (s : State) : Grid := s.grid s.issTeam.grid

/-- A measured component, as the last reset measured it (R399, Table 17.2). -/
def State.component (s : State) (i : Nat) : List Byte := (tblFind s.trust.measured i).getD (Config.measurement i)

/-- A key pair of the part (R399): from the OTP patch set, the root firmware configuration and the Rarel image (log entry 68). -/
def State.dice (s : State) (attest : Bool) : DiceKey := ⟨attest, [2, 3, 4].map s.component⟩

/-- A new unique name. -/
def State.name (s : State) : Nat × State := (s.fresh, { s with fresh := s.fresh + 1 })

/-- Send something out of the module. -/
def State.send (s : State) (o : Out) : State := { s with link := { s.link with sent := o :: s.link.sent } }

/-- A vector sends no message: it is masked, the whole function is, or MSI-X is not enabled (R414). -/
def Link.masked (l : Link) (v : Nat) : Bool := !l.enable || l.allMask || l.mask.contains v

/-- Signal an MSI-X vector: one message, or its pending bit while it is masked (R414). -/
def State.msi (s : State) (v : Nat) : State :=
  if s.link.masked v then
    if s.link.pending.contains v then s else { s with link := { s.link with pending := v :: s.link.pending } }
  else s.send (.msi v)

/-- Pending vectors that are no longer masked send their messages, the lowest first (R414). -/
def State.sendPending (s : State) : State :=
  let out := (List.range 128).filter fun v => s.link.pending.contains v && !s.link.masked v
  out.foldl (fun s v => s.send (.msi v))
    { s with link := { s.link with pending := s.link.pending.filter fun v => !out.contains v } }

/-- A write of a vector's mask bit: clearing it sends a message that is pending (R414, log entry 52). -/
def State.maskVector (s : State) (v : Nat) (on : Bool) : State :=
  let rest := s.link.mask.filter (· != v)
  ({ s with link := { s.link with mask := if on then v :: rest else rest } }).sendPending

/-- A write of MSI-X Enable and Function Mask (R414, log entry 52). -/
def State.msixControl (s : State) (enable allMask : Bool) : State :=
  ({ s with link := { s.link with enable := enable, allMask := allMask } }).sendPending

/-- Saturating and wrapping increments of Table 18.3. -/
def satInc (w x : Nat) : Nat := if x + 1 < 2 ^ w then x + 1 else 2 ^ w - 1
def wrapInc (w x : Nat) : Nat := (x + 1) % 2 ^ w

end Sys2Proof.Machine
end

