-- ==== Sys2Proof/Machine/Home.lean ====
section
/-! DEFINITION. Device memory at the homes (04 R90: H), with zero on first touch, ECC and the counts of a context
(02 R44 to R55); the page walk and the TLBs (02 R34 to R43); the L1 structures (03 R65 to R73). -/

namespace Sys2Proof.Machine

/-! ## The device physical map (Table 1.8) -/

/-- What a device physical address names. -/
inductive PaKind where
  | near | far | exp | host | regs | hole
  deriving DecidableEq, Repr

def expFirst : Nat := 0x080000000000
def farFirst : Nat := 0x010000000000
def hostFirst : Nat := 0x100000000000

/-- Whether a removed device holds the address (R33). -/
def Mem.isRemoved (m : Mem) (pa : Nat) : Bool :=
  m.removed.any fun d =>
    match m.expDevs[d]? with
    | some (a, n) => a ≤ pa && pa < a + n
    | none => false

/-- The region of an address (R25, R33). -/
def Mem.kind (m : Mem) (pa : Nat) : PaKind :=
  if pa < 0x0C00000000 then .near
  else if 0xF000000000 ≤ pa && pa < 0x10000000000 then .regs
  else if farFirst ≤ pa && pa < 0x020000000000 then .far
  else if expFirst ≤ pa && pa < expFirst + m.expSize && !m.isRemoved pa then .exp
  else if hostFirst ≤ pa && pa < 2 ^ 52 then .host
  else .hole

/-- Near, far or installed expansion memory: the cacheable regions (R66). -/
def Mem.isMem (m : Mem) (pa : Nat) : Bool :=
  match m.kind pa with
  | .near | .far | .exp => true
  | _ => false

/-- The exchange die that serves an address (R48, R54). -/
def dieOf (pa : Nat) : Nat :=
  if pa < 0x0C00000000 then (pa / 0x180000000) % 2
  else if pa < 0x020000000000 then (if ((pa - farFirst) / 1024) % 96 < 48 then 0 else 1)
  else 1

/-- The page of an address. -/
def pageOf (pa : Nat) : Nat := pa / 65536

/-- The scrub-pending bit of the page that holds an address (R44). -/
def State.scrubPending (s : State) (pa : Nat) : Bool := s.mem.isMem pa && !s.mem.swept.contains (pageOf pa)

/-! ## Counts of a context (R371, Tables 15.10, 18.6) -/

/-- CTX_ERR as its word. -/
def Ctx.errWord (c : Ctx) : Nat :=
  c.dtraps + 2 ^ 16 * c.kills + 2 ^ 32 * c.complLost + 2 ^ 48 * c.frameLost + 2 ^ 56 * c.last

/-- Bytes 256 to 271 of a descriptor. -/
def Ctx.countBytes (c : Ctx) : List Byte := natLe c.dataLoss 4 ++ natLe c.ptFormat 4 ++ natLe c.errWord 8

/-- The descriptor of a context (R371). -/
def State.descAt (s : State) (c : Nat) : Nat := s.ctxs.base * 65536 + 1024 * c

/-- Complete the sweep of a page: its bit clears, its bytes read 0, SWEEPS counts it, and the writes that wait for it
come next, in arrival order (R46, R48). A far page lies on sub-channels of both exchange dies; it counts on the die of its
first granule (log entry 53). -/
def State.sweepPage (s : State) (page : Nat) : State :=
  let die := dieOf (page * 65536)
  let next := (s.mem.waiters.filter fun w => w.1 == page).map fun w => Turn.again w.2
  { s with
    agenda := next ++ s.agenda
    mem := { s.mem with
      waiters := s.mem.waiters.filter fun w => w.1 != page
      swept := if s.mem.swept.contains page then s.mem.swept else page :: s.mem.swept
      sweeping := s.mem.sweeping.filter (· != page)
      latent := s.mem.latent.filter fun c => pageOf (c.1 * 64) != page
      cells := memErase s.mem.cells (page * 65536) 65536 }
    mgmt := { s.mgmt with sweeps := tblUpd 0 s.mgmt.sweeps die (wrapInc 48) } }

/-- Sweep the page of an address if its bit is set. -/
def State.sweepAt (s : State) (pa : Nat) : State :=
  if s.scrubPending pa then s.sweepPage (pageOf pa) else s

/-- The sectors of n bytes from an address. -/
def sectorsOf (pa n : Nat) : List Nat :=
  if n = 0 then [] else (List.range ((pa + n - 1) / 64 - pa / 64 + 1)).map (· + pa / 64)

/-- The bytes at H, with no effect: 0 while the page is pending (R45). -/
def State.peek (s : State) (pa n : Nat) : List Byte :=
  (List.range n).map fun i => if s.scrubPending (pa + i) then 0 else memGet s.mem.cells (pa + i)

/-- What the memory device holds under a sector that the L2 is about to hold dirty, in expansion memory, whose link may lose the
writeback (R407). Elsewhere a writeback replaces it. -/
def State.underDirty (s : State) (k : Nat) (x : Option L2Sector) : Option (List Byte) :=
  if s.mem.kind (k * 64) == .exp then some ((x.bind (·.under)).getD (s.peek (k * 64) 64)) else none

/-- Write bytes at H by the module itself, sweeping first where the page is pending (R46); a step that would end a sweep in
progress so waits for it (Step.lean). The bytes lie in one 64 KiB page. -/
def State.rawWrite (s : State) (pa : Nat) (bs : List Byte) : State :=
  let s := s.sweepAt pa
  let dirty := fun (t : Tbl L2Sector) (k : Nat) => match tblFind t k with
    | some x => tblSet t k { x with dirty := true, under := s.underDirty k (some x) }
    | none => t
  { s with mem := { s.mem with cells := memWrite s.mem.cells pa bs
                               l2 := (sectorsOf pa bs.length).foldl dirty s.mem.l2 } }

/-- Change the counts of a live context, on chip and at H (R371). -/
def State.updCtx (s : State) (c : Nat) (f : Ctx → Ctx) : State :=
  match tblFind s.ctxs.live c with
  | some k => { s with ctxs := { s.ctxs with live := tblSet s.ctxs.live c (f k) } }
  | none => s

def State.countCtx (s : State) (c : Nat) (f : Ctx → Ctx) : State :=
  match tblFind s.ctxs.live c with
  | some k => (s.updCtx c f).rawWrite (s.descAt c + 256) (f k).countBytes
  | none => s

/-- Who an uncorrectable error is charged to (R54). -/
inductive Charge where
  | ctx (c : Nat)
  | unowned
  deriving DecidableEq, Repr

/-- A charge while a grid runs: its completion record and its open seal stream count it (R410, R415). -/
def Grid.markLoss (g : Grid) : Grid :=
  { g with loss := if g.started then satInc 32 g.loss else g.loss
           stream := g.stream.map fun q => { q with dataLoss := satInc 32 q.dataLoss } }

/-- A failed tag check while a grid runs (R321, R410, R415). -/
def Grid.markTag (g : Grid) : Grid :=
  { g with tags := if g.started then satInc 32 g.tags else g.tags
           stream := g.stream.map fun q => { q with tagFail := satInc 32 q.tagFail } }

/-- Charge one lost sector or request (R54, R139, R152): DATA_LOSS and the open seal streams of the context, or
UE_UNOWNED of a die. -/
def State.chargeLoss (s : State) (who : Charge) (die : Nat) : State :=
  match who with
  | .ctx c =>
    let s := s.countCtx c fun k => { k with dataLoss := satInc 32 k.dataLoss }
    let grids := tblMap (fun _ g => if g.ctx = c then g.markLoss else g) s.sched.grids
    { s with sched := { s.sched with grids := grids } }
  | .unowned =>
    let n := tblGet 0 s.mgmt.ueUnowned die
    let t := { s with mgmt := { s.mgmt with ueUnowned := tblSet s.mgmt.ueUnowned die (satInc 32 n) } }
    if satInc 32 n = n then s else t.msi 80

/-! ## IDE streams (17 R407; log entry 61) -/

def State.stream (s : State) (i : Nat) : Ide := tblGet Ide.reset s.trust.ide i
def State.updStream (s : State) (i : Nat) (f : Ide → Ide) : State :=
  { s with trust := { s.trust with ide := tblUpd Ide.reset s.trust.ide i f } }

/-- A stream uses one vector; WARN and STALL are set at their counts. -/
def State.useVector (s : State) (i : Nat) : State :=
  let x := s.stream i
  let n := x.count + 1
  let warn := x.warn || 2 ^ 32 - 2 ^ 16 ≤ n
  let stall := if n = 2 ^ 32 - 1 then some s.ns else x.stall
  let s := s.updStream i fun x => { x with count := n, warn := warn, stall := stall }
  let s := if warn && !x.warn then s.msi 82 else s
  if n = 2 ^ 32 - 1 then s.msi 82 else s

/-- The stream of the X1 expansion link: above the stream ids of the host link. -/
def expStream : Nat := 2 ^ 16

/-- The stream that carries the module's own requests to the host: the lowest of the host link that has a key; none without IDE. -/
def State.hostStream (s : State) : Option Nat := (s.trust.ide.find? fun x => x.1 < expStream && x.2.keyed).map (·.1)

/-- The stream of an access to expansion memory, where the link has a key. -/
def State.expIde (s : State) (pa : Nat) : Option Nat :=
  if s.mem.kind pa == .exp && (s.stream expStream).keyed then some expStream else none

/-- A stream whose requests end as lost (R139). -/
def State.ideFailed (s : State) (i : Option Nat) : Bool := i.any fun i => (s.stream i).fail

/-- A stream whose requests are held. -/
def State.ideHeld (s : State) (i : Option Nat) : Bool := i.any fun i => (s.stream i).stall.isSome && !(s.stream i).fail

/-- A request of the module leaves by a stream: a vector is used. One that has stalled takes no request: the turn that meets it
waits (Step.lean). -/
def State.ideSend (s : State) (i : Option Nat) : State :=
  match i with
  | some i =>
    if (s.stream i).fail then s
    else if (s.stream i).stall.isSome then s.updStream i fun x => { x with met := true }
    else s.useVector i
  | none => s

/-- The stream that a turn has met while it is stalled. -/
def State.metStall (s : State) : Option Nat := (s.trust.ide.find? fun x => x.2.met).map (·.1)

/-- The home slice of an address (Table 3.4), in partition mode or in shared mode. -/
def homeSlice (partition : Bool) (pa : Nat) : Nat :=
  if !partition then pa / 256 % 8
  else if pa < farFirst then pa / 0x180000000
  else if pa < expFirst then (pa - farFirst) / 1024 % 8
  else (pa - expFirst) / 1024 % 8

/-- Count a correctable error of a memory device (R52): of the partition, sub-channel or device that holds the byte. -/
def State.countCorrectable (s : State) (pa : Nat) : State :=
  match s.mem.kind pa with
  | .near => { s with mgmt := { s.mgmt with ceNear := tblUpd 0 s.mgmt.ceNear (pa / 0x180000000) (wrapInc 32) } }
  | .far =>
    { s with mgmt := { s.mgmt with ceFar := tblUpd 0 s.mgmt.ceFar (((pa - farFirst) / 1024) % 96) (wrapInc 32) } }
  | .exp =>
    let d := (s.mem.expDevs.findIdx? fun (a, n) => a ≤ pa && pa < a + n).getD 0
    { s with mgmt := { s.mgmt with ceExp := tblUpd 0 s.mgmt.ceExp d (wrapInc 32) } }
  | _ => s

/-- Count a correctable error of an L2 slice (R52). -/
def State.countL2 (s : State) (pa : Nat) : State :=
  { s with mgmt := { s.mgmt with ceL2 := tblUpd 0 s.mgmt.ceL2 (homeSlice s.mgmt.l2Cur pa) (wrapInc 32) } }

/-- A memory device writes a sector as zeros (R53): what the L2 holds of it stays. -/
def Mem.zeroSector (m : Mem) (k : Nat) : Mem :=
  match tblFind m.l2 k with
  | none => { m with cells := memErase m.cells (k * 64) 64 }
  | some x =>
    let z := List.replicate 64 (0 : Byte)
    { m with l2 := tblSet m.l2 k { x with under := if x.dirty then x.under.map fun _ => z else some z } }

/-- A memory device reads a sector: a latent error is found (R52, R53). -/
def State.findError (s : State) (who : Charge) (sector : Nat) : State :=
  if s.scrubPending (sector * 64) then s
  else
    match tblFind s.mem.latent sector with
    | none => s
    | some .correctable =>
      ({ s with mem := { s.mem with latent := tblDel s.mem.latent sector } }).countCorrectable (sector * 64)
    | some .uncorrectable =>
      ({ s with mem := ({ s.mem with latent := tblDel s.mem.latent sector } : Mem).zeroSector sector }).chargeLoss who
        (dieOf (sector * 64))

/-! ## Caches with tree pseudo-LRU (R69, R75, R76) -/

/-- The way that a tree points to, among those allowed: down from node n, which covers 2^d ways from `lo`. A set bit points to
the upper half; a half with no allowed way is passed by. -/
def treePick (tree : Nat) (ok : Nat → Bool) : Nat → Nat → Nat → Nat
  | 0, _, lo => lo
  | d + 1, n, lo =>
    let up := lo + 2 ^ d
    let some := fun (a : Nat) => (List.range (2 ^ d)).any fun i => ok (a + i)
    if (if tree.testBit (n - 1) then some up else !some lo) then treePick tree ok d (2 * n + 1) up
    else treePick tree ok d (2 * n) lo

/-- Write a bit of a tree. -/
def treeSet (tree n : Nat) (b : Bool) : Nat :=
  if tree.testBit (n - 1) == b then tree else if b then tree + 2 ^ (n - 1) else tree - 2 ^ (n - 1)

/-- Way w is used: every node on the way to it points to the other half. -/
def treeTouch (w : Nat) : Nat → Nat → Nat → Nat → Nat
  | 0, _, _, tree => tree
  | d + 1, n, lo, tree =>
    if w < lo + 2 ^ d then treeTouch w d (2 * n) lo (treeSet tree n true)
    else treeTouch w d (2 * n + 1) (lo + 2 ^ d) (treeSet tree n false)

def CacheSet.wayOf (c : CacheSet) (line : Nat) : Option Nat := (c.ways.find? fun w => w.2 == line).map (·.1)

/-- A line takes a way of a set of 2^d ways, and is used. -/
def CacheSet.put (c : CacheSet) (d w line : Nat) : CacheSet := ⟨tblSet c.ways w line, treeTouch w d 1 0 c.tree⟩

/-- Where a line goes in a set of 2^d ways: its own way, a free one, or that of the victim, which is one of the lines that
`ok` allows. -/
def CacheSet.place (c : CacheSet) (d line : Nat) (ok : Nat → Bool) : Nat :=
  match c.wayOf line, (List.range (2 ^ d)).find? fun w => (tblFind c.ways w).isNone with
  | some w, _ => w
  | none, some w => w
  | none, none => treePick c.tree (fun w => (tblFind c.ways w).any ok) d 1 0

/-! ## The L2 (R39, R75, R76, R79): 32,768 sets of 16 ways in each slice (log entry 47) -/

/-- The place of a line among those of its home slice (Table 3.4; log entry 47). -/
def homeIndex (partition : Bool) (line : Nat) : Nat :=
  if !partition then line / 8 else if line * 256 < farFirst then line else line / 32 * 4 + line % 4

def State.l2Key (s : State) (line : Nat) : Nat :=
  homeSlice s.mgmt.l2Cur (line * 256) * 32768 + homeIndex s.mgmt.l2Cur line % 32768

def State.l2Sector (s : State) (k : Nat) : Option L2Sector := tblFind s.mem.l2 k

/-- An L2 sector is used, or written back: a latent error of the slice's storage is found (R52, R53). The slice writes its copy as
zeros: under a clean one the memory keeps what it has. -/
def State.findL2 (s : State) (who : Charge) (k : Nat) : State :=
  match s.l2Sector k with
  | none => s
  | some x =>
    let mend := { s with mem := { s.mem with l2 := tblSet s.mem.l2 k { x with bad := none } } }
    match x.bad with
    | none => s
    | some .correctable => mend.countL2 (k * 64)
    | some .uncorrectable =>
      let y := { x with bad := none, under := if x.dirty then x.under else some (x.under.getD (s.peek (k * 64) 64)) }
      ({ s with mem := { s.mem with l2 := tblSet s.mem.l2 k y
                                    cells := memErase s.mem.cells (k * 64) 64 } }).chargeLoss who (dieOf (k * 64))

/-- Who a writeback is charged to: the context that last dirtied the line (R54). Where the host, a peer or the firmware did, the
model charges UE_UNOWNED: the spec names no other (log entry 74). -/
def L2Sector.owner (x : L2Sector) : Charge :=
  match x.ctx with
  | some c => .ctx c
  | none => .unowned

/-- The memory's own bytes stand at H again. -/
def State.uncover (s : State) (k : Nat) (under : Option (List Byte)) : State :=
  match under with
  | some bs => { s with mem := { s.mem with cells := memWrite s.mem.cells (k * 64) bs } }
  | none => s

/-- A dirty sector is written back whole: the memory's copy is fresh. A failed link loses the write (R407). -/
def State.l2Back (s : State) (k : Nat) (x : L2Sector) : State :=
  let s := s.findL2 x.owner k
  if s.ideFailed (s.expIde (k * 64)) then (s.uncover k x.under).chargeLoss x.owner (dieOf (k * 64))
  else
    let s := s.ideSend (s.expIde (k * 64))
    { s with mem := { s.mem with latent := tblDel s.mem.latent k } }

/-- A sector leaves the L2: a dirty one is written back, and under a clean one the memory has what it had. -/
def State.l2Drop (s : State) (k : Nat) : State :=
  match s.l2Sector k with
  | none => s
  | some x =>
    let s := if x.dirty then s.l2Back k x else s.uncover k x.under
    { s with mem := { s.mem with l2 := tblDel s.mem.l2 k } }

/-- A line leaves the L2. -/
def State.l2Evict (s : State) (line : Nat) : State :=
  let s := (List.range 4).foldl (fun s i => s.l2Drop (4 * line + i)) s
  { s with mem := { s.mem with l2Low := s.mem.l2Low.filter (· != line) } }

/-- The line of a sector takes or keeps a way of its set, and is used. The victim of a full set is one of the lines allocated at
lowest priority, where there is one (R39). -/
def State.l2Alloc (s : State) (low : Bool) (k : Nat) : State :=
  let line := k / 4
  let key := s.l2Key line
  let c := tblGet CacheSet.empty s.mem.l2Sets key
  let lows := c.ways.any fun w => s.mem.l2Low.contains w.2
  let w := c.place 4 line fun l => !lows || s.mem.l2Low.contains l
  let fresh := tblFind c.ways w != some line
  let s := match tblFind c.ways w with
    | some old => if fresh then s.l2Evict old else s
    | none => s
  { s with mem := { s.mem with l2Sets := tblSet s.mem.l2Sets key (c.put 4 w line),
                               l2Low := if fresh && low then line :: s.mem.l2Low else s.mem.l2Low } }

/-- A sector of expansion memory that the L2 does not hold is asked for while the link's stream has failed (R407). -/
def State.expLost (s : State) (k : Nat) : Bool := (s.l2Sector k).isNone && s.ideFailed (s.expIde (k * 64))

/-- A sector of near, far or expansion memory is read at its home slice: served from the L2, or filled from memory, which the
hint of a page to bypass leaves out of the L2 (R39, R79). -/
def State.l2Read (s : State) (who : Charge) (ch k : Nat) : State :=
  match s.l2Sector k with
  | some _ => (s.findL2 who k).l2Alloc false k
  | none =>
    let s := (s.ideSend (s.expIde (k * 64))).findError who k
    if ch = 2 then s
    else
      let s := s.l2Alloc (ch == 1) k
      { s with mem := { s.mem with l2 := tblSet s.mem.l2 k ⟨false, none, none, none⟩ } }

/-- A sector is about to be written: one that the L2 does not hold is filled from memory where the write is partial (R76, R79); its
line takes or keeps its way, with the priority that the page's hint gives (R39). -/
def State.l2Ready (s : State) (who : Charge) (ch : Nat) (whole : Bool) (k : Nat) : State :=
  let held := (s.l2Sector k).isSome
  let s := if whole then s else if held then s.findL2 who k else (s.ideSend (s.expIde (k * 64))).findError who k
  s.l2Alloc (!held && ch == 1) k

/-- A sector is written at its home slice: valid dirty. Who writes it is the last to have dirtied its line (R54). -/
def State.l2Write (s : State) (who : Charge) (ch : Nat) (whole : Bool) (k : Nat) : State :=
  let s := s.l2Ready who ch whole k
  let c := match who with
    | .ctx c => some c
    | .unowned => none
  let l2 := (List.range 4).foldl (fun t i => tblAdj t (k / 4 * 4 + i) fun x => { x with ctx := c }) s.mem.l2
  { s with mem := { s.mem with l2 := tblSet l2 k ⟨true, c, none, s.underDirty k (s.l2Sector k)⟩ } }

/-- Every slice writes back its dirty sectors and invalidates every line (R78). -/
def State.l2Clear (s : State) : State :=
  let s := (tblKeys s.mem.l2).foldl (fun s k => s.l2Drop k) s
  { s with mem := { s.mem with l2 := [], l2Sets := [], l2Low := [] } }

/-- Read n bytes of near, far or expansion memory at H; what a failed stream would carry reads zero (R407). -/
def State.hRead (s : State) (who : Charge) (ch pa n : Nat) : State × List Byte :=
  let lost := (sectorsOf pa n).filter s.expLost
  let s := (sectorsOf pa n).foldl (fun s k => if lost.contains k then s else s.l2Read who ch k) s
  if lost.isEmpty then (s, s.peek pa n)
  else (s.chargeLoss who (dieOf pa), (s.peek pa n).zipIdx.map fun b => if lost.contains ((pa + b.2) / 64) then 0 else b.1)

/-- A write of n bytes covers a sector whole: it reads nothing first (R53). -/
def wholeSector (pa n k : Nat) : Bool := pa ≤ k * 64 && k * 64 + 64 ≤ pa + n

/-- Write bytes of near, far or expansion memory at H; the pages touched are not pending. What a failed stream would fill first is
not written (R407). -/
def State.hWrite (s : State) (who : Charge) (ch pa : Nat) (bs : List Byte) : State :=
  let whole := wholeSector pa bs.length
  let lost := (sectorsOf pa bs.length).filter fun k => !whole k && s.expLost k
  let s := (sectorsOf pa bs.length).foldl (fun s k => if lost.contains k then s else s.l2Write who ch (whole k) k) s
  if lost.isEmpty then { s with mem := { s.mem with cells := memWrite s.mem.cells pa bs } }
  else
    let put := fun (m : Memory) (b : Byte × Nat) => if lost.contains ((pa + b.2) / 64) then m else memSet m (pa + b.2) b.1
    ({ s with mem := { s.mem with cells := bs.zipIdx.foldl put s.mem.cells } }).chargeLoss who (dieOf pa)

/-- Write bytes at H, sweeping pending pages in the same step. -/
def State.hWriteSweep (s : State) (who : Charge) (pa : Nat) (bs : List Byte) : State :=
  ((s.sweepAt pa).sweepAt (pa + bs.length - 1)).hWrite who 0 pa bs

/-! ## Host memory (R28, R413) -/

/-- The host has granted a range (R28). -/
def State.hostGranted (s : State) (a n : Nat) : Bool := s.mem.grants.any fun g => g.1 ≤ a && a + n ≤ g.1 + g.2

/-- An error completion from the host (R28, R413). -/
def State.hostError (s : State) (who : Charge) : State :=
  let s := { s with mgmt := { s.mgmt with hlErr := satInc 32 s.mgmt.hlErr } }
  s.chargeLoss who 0

/-- No stream may carry the module's requests to the host: in confidential mode the link's traffic goes only by streams that have a
key (R404). Such a request has no completion (R413; log entry 61). -/
def State.hostBarred (s : State) : Bool := s.trust.mode && s.hostStream.isNone

/-- The host takes a request into n bytes from an address. -/
def State.hostTakes (s : State) (a n : Nat) : Bool := s.hostGranted a n && !s.hostBarred

/-- Read and write host memory through the window (R28, R413): what is not granted reads zero and drops its write, and so does
what a failed stream would carry (R407). -/
def State.hostRead (s : State) (who : Charge) (a n : Nat) : State × List Byte :=
  if s.ideFailed s.hostStream then (s.chargeLoss who 0, List.replicate n 0)
  else
    let s := s.ideSend s.hostStream
    if s.hostTakes a n then (s, memRead s.mem.host a n) else (s.hostError who, List.replicate n 0)

def State.hostWrite (s : State) (who : Charge) (a : Nat) (bs : List Byte) : State :=
  if s.ideFailed s.hostStream then s.chargeLoss who 0
  else
    let s := s.ideSend s.hostStream
    if s.hostTakes a bs.length then { s with mem := { s.mem with host := memWrite s.mem.host a bs } }
    else s.hostError who

/-- A request to the host that is part of one step, whose completion may stay out until its time is over (R413; log entry 73). -/
def State.hostAsk (s : State) (who : Charge) (a n : Nat) : State × List Byte :=
  if Config.hostSilent s.stamp a then (s.hostError who, List.replicate n 0) else s.hostRead who a n

def State.hostPut (s : State) (who : Charge) (a : Nat) (bs : List Byte) : State :=
  if Config.hostSilent s.stamp a then s.hostError who else s.hostWrite who a bs

/-! ## The page walk (R34 to R37) -/

/-- What an access asks of a leaf (Table 2.5). -/
inductive Need where
  | load | store | atomic | fetch | sealRead
  deriving DecidableEq, Repr

/-- The access code of FLT_AUX (Table 15.1). -/
def Need.code : Need → Nat
  | .load => 0
  | .store => 1
  | .atomic => 2
  | .fetch => 3
  | .sealRead => 4

/-- Whether a leaf permits an access (R37). -/
def Tlb.permits (e : Tlb) : Need → Bool
  | .load | .sealRead => e.r
  | .store => e.w
  | .atomic => e.r && e.w
  | .fetch => e.x

/-- A leaf, a leaf whose page lies in no region, or the fault of the walk; with the level (1 A, 2 B, 3 C). -/
inductive WalkRes where
  | leaf (e : Tlb)
  | hole (e : Tlb) (level : Nat)
  | bad (code level : Nat)
  deriving DecidableEq, Repr

def pteBit (e i : Nat) : Bool := e.testBit i

/-- PA[51:16] of an entry as an address. -/
def ptePpn (e : Nat) : Nat := (e / 65536 % 2 ^ 36) * 65536

/-- Read an entry; a table outside near, far and expansion memory is an address fault of the level (R36). -/
def State.readPte (s : State) (who : Charge) (a : Nat) : State × Option Nat :=
  if s.mem.isMem a then
    let (s, bs) := s.hRead who 0 a 8
    (s, some (leNat bs))
  else (s, none)

def State.malformed (s : State) (ctx : Nat) : State :=
  s.countCtx ctx fun k => { k with ptFormat := satInc 32 k.ptFormat }

/-- A leaf, and whether its page lies in a region (R25, R27): near, far, expansion or host. The check comes after that of
permission (R36). -/
def State.leafAt (s : State) (ctx va e : Nat) (big : Bool) (level : Nat) : State × WalkRes :=
  let size := if big then 2 ^ 29 else 65536
  let pa := if big then e / 2 ^ 29 % 2 ^ 23 * 2 ^ 29 else ptePpn e
  let leaf : Tlb := { ctx := ctx, big := big, va := va - va % size, pa := pa, r := pteBit e 2, w := pteBit e 3,
                      x := pteBit e 4, ch := e / 256 % 4 }
  match s.mem.kind (pa + va % size) with
  | .regs | .hole => (s, .hole leaf level)
  | _ => (s, .leaf leaf)

/-- The walk from the table of level C (R36). `who` is charged for an error that the walk finds (R54). -/
def State.walkC (s : State) (who : Charge) (ctx table va : Nat) : State × WalkRes :=
  match s.readPte who (table + 8 * (va / 65536 % 2 ^ 13)) with
  | (s, none) => (s, .bad 3 3)
  | (s, some c) =>
    if !pteBit c 0 then (s, .bad 1 3)
    else if !pteBit c 1 then (s.malformed ctx, .bad 1 3)
    else s.leafAt ctx va c false 3

/-- The walk from the table of level B; `keep` is what the walker does with a pointer entry (R40). -/
def State.walkB (keep : State → Ptr → State) (s : State) (who : Charge) (ctx table va : Nat) : State × WalkRes :=
  match s.readPte who (table + 8 * (va / 2 ^ 29 % 2 ^ 13)) with
  | (s, none) => (s, .bad 3 2)
  | (s, some b) =>
    if !pteBit b 0 then (s, .bad 1 2)
    else if pteBit b 1 then s.leafAt ctx va b true 2
    else (keep s ⟨ctx, 2, va / 2 ^ 29 * 2 ^ 29, ptePpn b⟩).walkC who ctx (ptePpn b) va

/-- The walk from the root (R36). -/
def State.walkA (keep : State → Ptr → State) (s : State) (who : Charge) (ctx root va : Nat) : State × WalkRes :=
  match s.readPte who (root + 8 * (va / 2 ^ 42 % 2 ^ 15)) with
  | (s, none) => (s, .bad 3 1)
  | (s, some a) =>
    if !pteBit a 0 then (s, .bad 1 1)
    else if pteBit a 1 then (s.malformed ctx, .bad 1 1)
    else State.walkB keep (keep s ⟨ctx, 1, va / 2 ^ 42 * 2 ^ 42, ptePpn a⟩) who ctx (ptePpn a) va

/-- A walk that keeps no pointer entry: of the dispatcher and the exchange dies. -/
def State.walk (s : State) (who : Charge) (ctx root va : Nat) : State × WalkRes := s.walkA (fun s _ => s) who ctx root va

/-- Whether a pointer entry of a level covers an address. -/
def Ptr.covers (p : Ptr) (level ctx va : Nat) : Bool :=
  p.level == level && p.ctx == ctx && p.va ≤ va && va < p.va + (if level = 1 then 2 ^ 42 else 2 ^ 29)

/-- A cluster's walker keeps a pointer entry, at most 64 of them, the newest kept (R40; log entry 10). -/
def State.keepPtr (cl : Nat) (s : State) (p : Ptr) : State :=
  s.updCluster cl fun c => { c with ptrs := (p :: c.ptrs.filter (· != p)).take 64 }

/-- A walk of a cluster's walker, which starts at the lowest pointer entry it holds (R36, R40). -/
def State.clusterWalk (s : State) (cl ctx root va : Nat) : State × WalkRes :=
  let ps := (s.cluster cl).ptrs
  match ps.find? (·.covers 2 ctx va) with
  | some p => s.walkC (.ctx ctx) ctx p.table va
  | none =>
    match ps.find? (·.covers 1 ctx va) with
    | some p => State.walkB (State.keepPtr cl) s (.ctx ctx) ctx p.table va
    | none => State.walkA (State.keepPtr cl) s (.ctx ctx) ctx root va

/-- Whether a TLB entry covers an address. -/
def Tlb.covers (e : Tlb) (ctx va : Nat) : Bool :=
  e.ctx == ctx && e.va ≤ va && va < e.va + (if e.big then 2 ^ 29 else 65536)

def tlbFind (t : List Tlb) (ctx va : Nat) : Option Tlb := t.find? (·.covers ctx va)

/-- The set of an entry among n sets: its page number modulo n (log entry 10). -/
def Tlb.set (e : Tlb) (n : Nat) : Nat := e.va / (if e.big then 2 ^ 29 else 65536) % n

/-- Keep the first k entries of a set, and those of every other set. -/
def tlbKeep (n set : Nat) : Nat → List Tlb → List Tlb
  | _, [] => []
  | k, e :: t =>
    if e.set n != set then e :: tlbKeep n set k t
    else
      match k with
      | 0 => tlbKeep n set 0 t
      | k + 1 => e :: tlbKeep n set k t

/-- Add an entry to a TLB of n sets of some ways: its set keeps the newest (R40; log entry 10). -/
def tlbAdd (ways n : Nat) (t : List Tlb) (e : Tlb) : List Tlb := e :: tlbKeep n (e.set n) (ways - 1) (t.filter (· != e))

/-- FLT_AUX of a translation fault (Table 15.1). -/
def auxOf (code level va : Nat) : Nat :=
  if code = 1 then level * 2 ^ 62 + va else if code = 3 then level * 2 ^ 62 else va

/-- FLT_AUX of a refusal (Table 15.1). -/
def auxNeed (need : Need) (va : Nat) : Nat := va + need.code * 2 ^ 61

/-- Whether a leaf permits an access; the page's address and its caching hint, or a page-permission fault. -/
def Tlb.check (e : Tlb) (need : Need) (va : Nat) : Except (Nat × Nat) (Nat × Nat) :=
  if e.permits need then .ok (e.pa + (va - e.va), e.ch) else .error (2, auxNeed need va)

/-- The fault of a walk that found no leaf in a region, for an access (R36, R37). -/
def WalkRes.fault (need : Need) (va : Nat) : WalkRes → Nat × Nat
  | .leaf _ => (0, 0)
  | .hole e level => if e.permits need then (3, auxOf 3 level va) else (2, auxNeed need va)
  | .bad c level => (c, auxOf c level va)

/-- Translate through a context's tables at once: for the dispatcher and the exchange dies. -/
def State.translate (s : State) (who : Charge) (ctx root va : Nat) (need : Need) : State × Except (Nat × Nat) (Nat × Nat) :=
  match s.walk who ctx root va with
  | (s, .leaf e) => (s, e.check need va)
  | (s, w) => (s, .error (w.fault need va))

/-- A leaf joins the TLB of a core. -/
def State.coreTlbAdd (s : State) (core : Nat) (e : Tlb) : State :=
  s.updCore core fun k => { k with tlb := tlbAdd 8 32 k.tlb e }

/-- Look a page up past the core's TLB: in the cluster's shared TLB, else by a walk, whose leaf the shared TLB takes
(R40, R41). -/
def State.lookup (s : State) (cl ctx root va : Nat) : State × WalkRes :=
  match tlbFind (s.cluster cl).tlb ctx va with
  | some e => (s, .leaf e)
  | none =>
    match s.clusterWalk cl ctx root va with
    | (s, .leaf e) => (s.updCluster cl fun c => { c with tlb := tlbAdd 16 2048 c.tlb e }, .leaf e)
    | r => r

/-- The leaf of an address for a unit of a core, within its step: from the core's TLB, else by a lookup that fills it
(R40, R41). -/
def State.tlbLeaf (s : State) (core ctx root va : Nat) : State × WalkRes :=
  match tlbFind (s.core core).tlb ctx va with
  | some e => (s, .leaf e)
  | none =>
    match s.lookup (clusterOf core) ctx root va with
    | (s, .leaf e) => (s.coreTlbAdd core e, .leaf e)
    | r => r

/-- Translate for a unit of a core, within its step. -/
def State.tlbTranslate (s : State) (core ctx root va : Nat) (need : Need) : State × Except (Nat × Nat) (Nat × Nat) :=
  match s.tlbLeaf core ctx root va with
  | (s, .leaf e) => (s, e.check need va)
  | (s, w) => (s, .error (w.fault need va))

/-! ## L1 structures -/

/-- The L1 structure that a core uses (R73). -/
def State.l1Of (s : State) (core : Nat) : Nat :=
  if (s.cluster (clusterOf core)).fused then 2048 + clusterOf core else core

def Sector.absent : Sector := ⟨false, 0, 0, 0, 0, []⟩

def State.l1At (s : State) (id : Nat) : L1 := tblGet L1.reset s.l1 id
def State.updL1 (s : State) (id : Nat) (f : L1 → L1) : State := { s with l1 := tblUpd L1.reset s.l1 id f }
def State.sector (s : State) (id k : Nat) : Sector := tblGet Sector.absent (s.l1At id).sectors k

/-- The mask of n bytes from byte o of a sector. -/
def byteMask (o n : Nat) : BitVec 64 := BitVec.ofNat 64 (((2 ^ n - 1) * 2 ^ o) % 2 ^ 64)

/-- Whether bytes o to o + n − 1 are present (R67). -/
def Sector.present (x : Sector) (o n : Nat) : Bool := x.v || (byteMask o n &&& ~~~x.dm) == 0

/-- Byte i of a sector. -/
def Sector.byte (x : Sector) (i : Nat) : Byte := x.data.extractLsb' (8 * i) 8

/-- The bits of the bytes in a mask. -/
def spreadMask (m : BitVec 64) : Nat :=
  (List.range 64).foldl (fun a i => if m.getLsbD i then a + 255 * 2 ^ (8 * i) else a) 0

/-- Replace the bytes in a mask. -/
def Sector.merge (x : Sector) (m : BitVec 64) (d : BitVec 512) : BitVec 512 :=
  let k := BitVec.ofNat 512 (spreadMask m)
  (x.data &&& ~~~k) ||| (d &&& k)

/-- A store into a sector (R67): the bytes become present dirty; V is set once every byte is dirty. -/
def Sector.store (x : Sector) (o : Nat) (bs : List Byte) (ctx ch : Nat) : Sector :=
  let m := byteMask o bs.length
  let dm := x.dm ||| m
  { v := x.v || dm == BitVec.allOnes 64, dm := dm,
    data := x.merge m (BitVec.ofNat 512 (leNat bs * 2 ^ (8 * o))), ctx := ctx, ch := ch,
    by_ := if x.by_.contains ctx then x.by_ else ctx :: x.by_ }

/-- A fill (R67, FILL): clean bytes take their H values, dirty bytes are kept. -/
def Sector.fill (x : Sector) (home : List Byte) : Sector :=
  { x with v := true, data := x.merge (~~~x.dm) (BitVec.ofNat 512 (leNat home)) }

/-- Write the dirty bytes of a sector to H, as a masked write (R68). -/
def State.writeDirty (s : State) (k : Nat) (x : Sector) : State :=
  let whole := x.dm == BitVec.allOnes 64
  if x.dm == 0 then s
  else if !whole && s.expLost k then s.chargeLoss (.ctx x.ctx) (dieOf (k * 64))
  else
    let s := (s.sweepAt (k * 64)).l2Write (.ctx x.ctx) x.ch whole k
    let cells := (List.range 64).foldl (fun m i => if x.dm.getLsbD i then memSet m (k * 64 + i) (x.byte i) else m)
      s.mem.cells
    { s with mem := { s.mem with cells := cells } }

/-- The core whose L1 array holds a sector of a structure (R73). -/
def l1Core (id k : Nat) : Nat := if id < 2048 then id else (id - 2048) * 256 + k / 4 % 256

/-- Find a latent error of an L1 sector (R70): a clean sector is invalidated and refilled later; a dirty one keeps
its dirty bytes as zeros and is charged: to the context of the access that found it, or for a write-back to the context that
last stored to it (R54, log entry 54). -/
def State.l1Error (s : State) (id k : Nat) (who : Option Charge) : State :=
  match tblFind (s.l1At id).latent k with
  | none => s
  | some e =>
    let s := s.updL1 id fun l => { l with latent := tblDel l.latent k }
    let x := s.sector id k
    let cor := { s with mgmt := { s.mgmt with ceCore := tblUpd 0 s.mgmt.ceCore (l1Core id k) (wrapInc 32) } }
    match e with
    | .correctable => cor
    | .uncorrectable =>
      if x.dm == 0 then cor.updL1 id fun l => { l with sectors := tblDel l.sectors k }
      else
        (s.updL1 id fun l => { l with sectors := tblSet l.sectors k { x with v := false, data := 0 } }).chargeLoss
          (who.getD (.ctx x.ctx)) (dieOf (k * 64))

/-- SFLUSH and EVICT (R91): the dirty bytes go to H, and every byte of the sector becomes absent. -/
def State.sflush (s : State) (id k : Nat) : State :=
  let s := s.l1Error id k none
  (s.writeDirty k (s.sector id k)).updL1 id fun l => { l with sectors := tblDel l.sectors k }

/-- WB of one sector (R71): dirty bytes go to H and become clean; in a sector with V = 0 they become absent. Its line stays
allocated. -/
def State.wbSector (s : State) (id k : Nat) : State :=
  let s := s.l1Error id k none
  let x := s.sector id k
  (s.writeDirty k x).updL1 id fun l =>
    { l with sectors := if x.v then tblSet l.sectors k { x with dm := 0, by_ := [] } else tblDel l.sectors k }

/-- WB of an L1 structure. -/
def State.l1WB (s : State) (id : Nat) : State :=
  (tblKeys (s.l1At id).sectors).foldl (fun s k => s.wbSector id k) s

/-- INV of an L1 structure: every byte becomes absent and every line is freed; pins stay, and their ways (R71, R83). -/
def State.l1INV (s : State) (id : Nat) : State := s.updL1 id fun l =>
  let kept := fun (_ : Nat) (c : CacheSet) =>
    { c with ways := c.ways.filter fun w => l.pins.any fun p => p.line == w.2 }
  { l with sectors := [], latent := [], sets := tblMap kept l.sets }

/-- WBINV. -/
def State.l1WBINV (s : State) (id : Nat) : State := (s.l1WB id).l1INV id

/-- FILL of a sector (R91). -/
def State.l1Fill (s : State) (id k : Nat) (who : Charge) (ch : Nat) : State :=
  let (s, bs) := s.hRead who ch (k * 64) 64
  s.updL1 id fun l => { l with sectors := tblUpd Sector.absent l.sectors k fun x => x.fill bs }

/-- The scopes for which Table 3.2 gives an L1 action (R88). -/
def State.wide (s : State) (core : Nat) (sc : Scope) : Bool :=
  match sc with
  | .cl => !(s.cluster (clusterOf core)).fused
  | .dev | .sys => true
  | _ => false

/-- WBINV of every L1 structure (grid boundaries, R107). -/
def State.allWBINV (s : State) : State := (tblKeys s.l1).foldl (fun s id => s.l1WBINV id) s

end Sys2Proof.Machine
end

