-- ==== Sys2Proof/Machine/Ops.lean ====
section
/-! DEFINITION. The shared operations: flags, moving a lane, raising a fault and stopping a core (15 R354 to R356),
entering the trap handler and returning from it (R358 to R361), fetching a line (09 R198 to R203), barriers
(07 R170), timelines (05 R123), rings (05 R128), copy batches (05 R118), completing operations (09 R212), and
releasing the lanes whose wait or park is over (07 R162). -/

namespace Sys2Proof.Machine

/-! ## Lanes -/

/-- The count of a flag. -/
def flagCount (fl : Tbl Nat) (f : Nat) : Nat := tblGet 0 fl f

/-- A flag of the mask is set (R212, R213). -/
def flagsSet (fl : Tbl Nat) (mask : BitVec 12) : Bool := fl.any fun (f, n) => 0 < n && mask.getLsbD f

def flagInc (fl : Tbl Nat) (f : Nat) : Tbl Nat := tblSet fl f (flagCount fl f + 1)
def flagDec (fl : Tbl Nat) (f : Nat) : Tbl Nat := tblSet fl f (flagCount fl f - 1)

/-- Line of a parcel address, and its slot (R199). -/
def lineOf (p : PAddr) : Nat := p.toNat / 15
def slotOf (p : PAddr) : Nat := p.toNat % 15

/-- Move a lane; it enters a line when the line is another one (R202). -/
def Lane.goto (x : Lane) (p : PAddr) : Lane := { x with pc := p, entering := lineOf p != lineOf x.pc }

/-- A guard of a lane; g7 is always true (R210). -/
def Lane.guard (x : Lane) (g : Nat) : Bool := g == 7 || x.guards.getLsbD g

/-- A guard with its inversion (R210). -/
def Lane.pred (x : Lane) (p : Pred) : Bool := x.guard p.idx.toNat != p.neg

/-- Write g0 to g6. -/
def Lane.setGuard (x : Lane) (g : Nat) (b : Bool) : Lane :=
  { x with guards := if b then x.guards ||| ((1 : BitVec 7) <<< g) else x.guards &&& ~~~((1 : BitVec 7) <<< g) }

def Lane.reg (x : Lane) (r : Nat) : Word := tblGet 0 x.regs r
def Lane.setReg (x : Lane) (r : Nat) (v : Word) : Lane := { x with regs := tblSet x.regs r v }

/-- Consecutive registers from r. -/
def Lane.setRegs (x : Lane) (r : Nat) : List Word → Lane
  | [] => x
  | v :: t => (x.setReg r v).setRegs (r + 1) t

/-- The lane has not exited. -/
def Lane.live (x : Lane) : Bool := x.status != .exited

/-- The lanes of a group that have not exited. -/
def Group.liveLanes (g : Group) : List Nat := (List.range 32).filter fun l => (g.lane l).live

/-- Some lane that has not exited is at trap level (R166). -/
def Group.inTrap (g : Group) : Bool := g.liveLanes.any fun l => (g.lane l).tl

/-! ## Faults and the stop (R354 to R356) -/

/-- A fault as an instruction finds it. -/
structure FaultInfo where
  code  : Nat
  lanes : LaneMask
  pc    : PAddr
  addr  : DWord
  aux   : DWord
  deriving DecidableEq, Repr

/-- The imprecise codes, breakpoint included (Table 15.1). -/
def imprecise (code : Nat) : Bool := code == 0x0B || code == 0x0D || code == 0x10

/-- The code that says whether a report is imprecise: a double trap is as its original (Table 15.1). -/
def Report.kind (r : Report) : Nat := if r.code = 0x0F then r.orig else r.code

/-- A fault that was found after its lanes had moved on (R354). -/
def Report.imprecise (r : Report) : Bool := r.late || Machine.imprecise r.kind

/-- Merge a fault into its overflow entry (R356). -/
def mergeReport (r : Report) : List Report → List Report
  | [] => [{ r with merged := true }]
  | o :: t =>
    if o.uid = r.uid && o.kind = r.kind then { o with lanes := o.lanes ||| r.lanes } :: t
    else o :: mergeReport r t

/-- The overflow entry that joins the queue next: ascending group index, then code (R356). -/
def nextOverflow : List Report → Option Report
  | [] => none
  | o :: t =>
    match nextOverflow t with
    | none => some o
    | some p => if o.group < p.group || (o.group == p.group && o.kind ≤ p.kind) then some o else some p

/-- Overflow entries join the queue while it has room; n bounds the steps. -/
def FltUnit.refill (u : FltUnit) : Nat → FltUnit
  | 0 => u
  | n + 1 =>
    if u.heldQ.length < 16 then
      match nextOverflow u.overflow with
      | none => u
      | some o => ({ u with heldQ := u.heldQ ++ [o], overflow := u.overflow.filter (· != o) } : FltUnit).refill n
    else u

/-- A fault arrives at a core's fault unit (R355, R356). -/
def FltUnit.arrive (u : FltUnit) (r : Report) : FltUnit :=
  if !u.stopped then { u with stopped := true, cur := some r }
  else if u.heldQ.length < 16 && u.overflow.isEmpty then { u with heldQ := u.heldQ ++ [r] }
  else if r.imprecise then { u with overflow := mergeReport r u.overflow }
  else u

/-- The core resumes; with a fault held it stops again at once on the oldest (R356). The registers keep the last report
(log entry 20). -/
def FltUnit.resume (u : FltUnit) : FltUnit :=
  match u.heldQ with
  | [] => { u with stopped := false, heldQ := [], overflow := [], act := none }
  | r :: t => ({ u with cur := some r, heldQ := t, act := none } : FltUnit).refill 64

/-- Some lane of a mask of a group, by its name, is at trap level now. -/
def Core.trapLanes (k : Core) (uid : Nat) (m : LaneMask) : Bool :=
  match k.findGroup uid with
  | some (slot, g) => (lanesOf m).any fun l => (((k.team slot).group g).lane l).tl
  | none => false

/-- Report a fault of a group to its core. A fault of a lane at trap level is a double trap; a breakpoint is not (R358). An
imprecise fault finds its lanes where they stand now. STOPPED rising signals vector 64 + cluster (R414). An imprecise fault of
a team that is being pre-empted is kept as pending (R367). -/
def State.report (s : State) (core : Nat) (r : Report) : State :=
  if (s.team core r.slot).stopping && r.imprecise then
    s.updTeam core r.slot fun t => { t with pending := t.pending ++ [r] }
  else
  let tl := r.tl || (r.imprecise && (s.core core).trapLanes r.uid r.lanes)
  let dbl := tl && r.code != 0x10 && r.code != 0x0F
  let r := if dbl then { r with code := 0x0F, orig := r.code, aux := BitVec.ofNat 64 r.code } else r
  let s := if r.code == 0x0F then
      s.countCtx (s.grid ((s.team core r.slot).grid)).ctx fun k => { k with dtraps := satInc 16 k.dtraps }
    else s
  let u := (s.core core).flt
  let s := s.updCore core fun k => { k with flt := k.flt.arrive r }
  if u.stopped then s else s.msi (64 + clusterOf core)

/-- The report of a fault of the issuing group. -/
def State.issReport (s : State) (f : FaultInfo) : Report :=
  { code := f.code, uid := s.issGroup.uid, slot := s.issue.slot, group := s.issue.group, lanes := f.lanes, pc := f.pc,
    addr := f.addr, aux := f.aux, merged := false, tl := (lanesOf f.lanes).any fun l => (s.issLane l).tl, orig := 0,
    late := false }

/-- The issuing group's instruction raises a fault: the core stops (R355). -/
def State.raise (s : State) (f : FaultInfo) : State := s.report s.issue.core (s.issReport f)

/-- The first fault of a list of checks. -/
def firstFault : List (Option FaultInfo) → Option FaultInfo
  | [] => none
  | some f :: _ => some f
  | none :: t => firstFault t

/-- A fault of the instruction itself that every issuing lane meets. -/
def State.ownFault (s : State) (code : Nat) (aux : Nat := 0) : FaultInfo :=
  ⟨code, s.issue.lanes, s.issue.p, 0, BitVec.ofNat 64 aux⟩

/-- A check that every issuing lane fails or passes together. -/
def State.demand (s : State) (ok : Bool) (code : Nat) (aux : Nat := 0) : Option FaultInfo :=
  if ok then none else some (s.ownFault code aux)

/-- A check of each issuing lane on its own: the fault names the lanes that fail it. -/
def State.demandLanes (s : State) (ok : Nat → Bool) (code : Nat) : Option FaultInfo :=
  let bad := s.issLanes.filter fun l => !ok l
  if bad.isEmpty then none else some { s.ownFault code with lanes := maskOf bad }

/-- Run the instruction unless a check fails; with no issuing lane there is nothing to do (R217). -/
def State.orFault (s : State) (checks : List (Option FaultInfo)) (k : State) : State :=
  if s.issue.lanes = 0 then s
  else
    match firstFault checks with
    | some f => s.raise f
    | none => k

/-! ## Fetch (R198 to R203) -/

/-- The words of a line's 64 bytes. -/
def wordsOf : List Byte → List Word
  | b0 :: b1 :: b2 :: b3 :: t => (b3 ++ b2 ++ b1 ++ b0) :: wordsOf t
  | _ => []

/-- The bytes of words. -/
def bytesOfWords : List Word → List Byte
  | [] => []
  | w :: t => natLe w.toNat 4 ++ bytesOfWords t

/-- Parity of a number below 2^32. -/
def parity32 (x : Nat) : Nat :=
  let x := x ^^^ (x >>> 16)
  let x := x ^^^ (x >>> 8)
  let x := x ^^^ (x >>> 4)
  let x := x ^^^ (x >>> 2)
  (x ^^^ (x >>> 1)) % 2

/-- PAR agrees with the line: the XOR of all 512 bits is 0 (Table 9.1). -/
def parOk (ws : List Word) : Bool := parity32 (ws.foldl (fun a w => a ^^^ w.toNat) 0) == 0

/-- Read a line of a grid's code (R200, R201): translated at each fetch, then from the core's instruction cache or from H; a line
that PAR disagrees with is fetched once more. The result is the 16 words, or a fault code and FLT_AUX. -/
def State.fetchLine (s : State) (core grid line : Nat) : State × Except (Nat × Nat) (List Word) :=
  let g := s.grid grid
  let key := g.ctx * 2 ^ 51 + line
  if 2 ^ 51 ≤ line then (s, .error (3, 0))
  else
    match s.tlbTranslate core g.ctx g.desc.ptRoot (64 * line) .fetch with
    | (s, .error e) => (s, .error e)
    | (s, .ok (pa, ch)) =>
      match (tblFind (s.core core).icache key).filter parOk with
      | some ws => (s, .ok ws)
      | none =>
        let read := fun (s : State) =>
          if s.mem.isMem pa then s.hRead (.ctx g.ctx) ch pa 64 else s.hostAsk (.ctx g.ctx) (pa - hostFirst) 64
        let keep := fun (r : State × List Byte) =>
          (r.1.updCore core fun k => { k with icache := tblSet k.icache key (wordsOf r.2) }, Except.ok (wordsOf r.2))
        if !s.mem.isMem pa && s.mem.kind pa != .host then (s, .error (3, 0))
        else
          let first := read s
          if parOk (wordsOf first.2) then keep first
          else
            let again := read first.1
            if parOk (wordsOf again.2) then keep again else (again.1, .error (0x0E, 0))

/-- The line as a fetch would return it now, with no effect. -/
def State.peekLine (s : State) (core grid line : Nat) : Option (List Word) :=
  match (s.fetchLine core grid line).2 with
  | .ok ws => some ws
  | .error _ => none

/-- A transfer to p is marked in its line's BTM (R203); a line that cannot be fetched faults when it issues. -/
def State.marked (s : State) (core grid : Nat) (p : PAddr) : Bool :=
  match s.peekLine core grid (lineOf p) with
  | some ws => (ws.getD 15 0).getLsbD (slotOf p)
  | none => true

/-- WAIT of the line that holds p (R202); nothing where it cannot be fetched. -/
def State.waitMask (s : State) (core grid : Nat) (p : PAddr) : BitVec 12 :=
  match s.peekLine core grid (lineOf p) with
  | some ws => (ws.getD 15 0).extractLsb' 15 12
  | none => 0

/-! ## The trap handler (R359 to R361) -/

/-- Trap entry of one lane (R359, steps 1 and 2). -/
def Lane.enterTrap (x : Lane) (entry : PAddr) : Lane :=
  if x.live then
    { (x.goto entry) with
      shadow := some ⟨x.pc, x.depth, x.status, x.waitOn, x.yld, x.guards, x.flags, x.slots, x.waitFlag⟩
      tl := true, depth := 0, status := .ready, waitOn := .nothing, yld := false, guards := 0, flags := [],
      waitFlag := none }
  else x

/-- Return of one lane from the handler (R303, R361). -/
def Lane.leaveTrap (x : Lane) : Lane :=
  match x.shadow with
  | some h =>
    { (x.goto h.pc) with
      depth := h.depth, tl := false, status := h.status, waitOn := h.waitOn, yld := h.yld, guards := h.guards,
      flags := h.flags, slots := h.slots, shadow := none, waitFlag := h.waitFlag }
  | none => { x with tl := false }

/-- What the trap frame reports (Table 15.5). -/
structure TrapCause where
  cause : Nat
  code  : Nat
  lanes : LaneMask
  pc    : PAddr
  addr  : DWord
  aux   : DWord
  deriving DecidableEq, Repr

/-- The 64 bytes of a trap frame (Table 15.5). -/
def TrapCause.frame (c : TrapCause) (entries : Nat) : List Byte :=
  natLe c.cause 2 ++ natLe c.code 2 ++ natLe c.lanes.toNat 4 ++ natLe c.pc.toNat 8 ++ natLe c.addr.toNat 8
    ++ natLe c.aux.toNat 8 ++ natLe entries 4 ++ List.replicate 28 0

/-- Write the trap frame at H, or count it as lost (R359, step 3): where it faults, or a failed stream drops it (R407). The frame is
one whole sector, which the L2 takes without its link. -/
def State.writeFrame (s : State) (core : Nat) (g : Grid) (pslot : Nat) (bytes : List Byte) : State :=
  if g.desc.frame = 0 then s
  else
    let lost := fun (s : State) => s.countCtx g.ctx fun k => { k with frameLost := satInc 8 k.frameLost }
    let va := g.desc.frame + pslot * 64
    if 2 ^ 57 ≤ va then lost s
    else
      match s.tlbTranslate core g.ctx g.desc.ptRoot va .store with
      | (s, .error _) => lost s
      | (s, .ok (pa, _)) =>
        if s.mem.isMem pa then
          (s.hWriteSweep (.ctx g.ctx) pa bytes).sflush (s.l1Of core) (pa / 64)
        else if s.mem.kind pa == .host then
          let t := s.hostPut (.ctx g.ctx) (pa - hostFirst) bytes
          if s.ideFailed s.hostStream then lost t else t
        else lost s

/-- TRAP ENTRY (R359): every lane of the group that has not exited saves its shadow and stands at the handler, and
the frame is written. The handler's entry must be marked (R203); the callers check that, and that there is one. -/
def State.trapEnter (s : State) (core slot g : Nat) (c : TrapCause) : State :=
  let team := s.team core slot
  let grid := s.grid team.grid
  let entries := wrapInc 32 (team.group g).traps
  let s := s.updGroup core slot g fun x =>
    { x.mapLanes (List.range 32) (fun _ l => l.enterTrap grid.desc.entry) with traps := entries }
  s.writeFrame core grid (team.group g).pslot (c.frame entries)

/-- RETURN FROM THE HANDLER (R303, R361): each lane takes back its shadow whole. -/
def State.trapReturn (s : State) (core slot g : Nat) (ls : List Nat) : State :=
  s.updGroup core slot g fun x => x.mapLanes ls fun _ l => l.leaveTrap

/-! ## Queues of a core -/

/-- An item is not yet performed. -/
def Core.waitsFor (k : Core) (ids : List Nat) : Bool := k.queue.any fun i => ids.contains i.id

/-- Append a point of a lane to the queue (R95). -/
def State.pushPoint (s : State) (core : Nat) (team ctx uid lane : Nat) (a : Act) : State :=
  let (id, s) := s.name
  let k := s.core core
  let grid := match k.findTeam team with
    | some slot => (k.team slot).grid
    | none => 0
  let i : Item :=
    { id := id, op := 0, uid := uid, team := team, ctx := ctx, grid := grid, lanes := (1 : BitVec 32) <<< lane, act := a,
      place := .dev 0, ch := 0, ord := .relaxed, scope := .team, after := [], vpn := 0, inFab := false, ended := false, addr := 0, sent := none,
      wb := none }
  s.updCore core fun k => { k with queue := k.queue ++ [i] }

/-! ## Barriers (R169 to R172) -/

/-- Apply a change to every lane of a team's groups. -/
def Team.mapAll (t : Team) (f : Nat → Nat → Lane → Lane) : Team :=
  { t with groups := tblMap (fun g x => { x with lanes := tblMap (fun l y => f g l y) x.lanes }) t.groups }

def bitSet (m : BitVec 16) (b : Nat) (v : Bool) : BitVec 16 :=
  if v then m ||| ((1 : BitVec 16) <<< b) else m &&& ~~~((1 : BitVec 16) <<< b)

/-- A lane that waits with a held arrival then waits on a phase. -/
def WaitOn.unhold (b phase : Nat) (w : WaitOn) : WaitOn := if w = .barHeld b then .bar b phase else w

/-- The release points of the arrivals at b that the team's lanes hold (R170, R291). -/
def Team.heldAt (t : Team) (b : Nat) : List Nat :=
  t.groups.flatMap fun c => (c.2.lanes.filter fun d => d.2.held.getLsbD b && d.2.new.getLsbD b).map fun d =>
    tblGet 0 d.2.heldRel b

/-- R170's check(b): a completion, and with held arrivals counted the check again; n bounds the repeats. -/
def Team.check (t : Team) (b : Nat) : Nat → Team
  | 0 => t
  | n + 1 =>
    let x := t.bar b
    if x.arr = x.exp then
      let ph := x.phases + 1
      let h := t.heldAt b
      let t := t.mapAll fun _ _ l =>
        let held := l.new.getLsbD b && l.held.getLsbD b
        { l with arr := bitSet l.arr b held, new := bitSet l.new b false, held := bitSet l.held b false,
                 waitOn := l.waitOn.unhold b ph,
                 shadow := l.shadow.map fun w => { w with waitOn := w.waitOn.unhold b ph } }
      let x := { x with phase := !x.phase, exp := x.exp + x.join, join := 0, arr := h.length, phases := ph,
                        rel := h, done := tblSet x.done x.phases x.rel }
      let t := { t with bars := tblSet t.bars b x }
      if h.isEmpty then t else t.check b n
    else t

/-- arrive(L, b) (R170); `rel` names the arrival's release point. -/
def Team.arrive (t : Team) (g l b rel : Nat) : Team :=
  let x := (t.group g).lane l
  if x.new.getLsbD b then
    t.updGroup g fun y => y.updLane l fun z =>
      { z with held := bitSet z.held b true, heldRel := tblSet z.heldRel b rel }
  else if x.arr.getLsbD b then t
  else
    let t := t.updGroup g fun y => y.updLane l fun z => { z with arr := bitSet z.arr b true }
    let t := { t with bars := tblAdj t.bars b fun q => { q with arr := q.arr + 1, rel := q.rel ++ [rel] } }
    t.check b 64

/-- deduct(L, b) (R170). -/
def Team.deduct (t : Team) (g l b : Nat) : Team :=
  let x := (t.group g).lane l
  if x.new.getLsbD b then
    let t := t.updGroup g fun y => y.updLane l fun z =>
      { z with new := bitSet z.new b false, held := bitSet z.held b false }
    { t with bars := tblAdj t.bars b fun q => { q with join := q.join - 1 } }
  else
    let t := t.updGroup g fun y => y.updLane l fun z => { z with arr := bitSet z.arr b false }
    let t := { t with bars := tblAdj t.bars b fun q =>
      { q with exp := q.exp - 1, arr := if x.arr.getLsbD b then q.arr - 1 else q.arr } }
    t.check b 64

/-- The barriers that cover a role (R169), ascending. -/
def Team.covering (t : Team) (r : Role) : List Nat :=
  (List.range 16).filter fun b => (t.bar b).en && (t.bar b).roles.getLsbD (roleNum r)

/-! ## Timelines (R123) -/

/-- Advance a counter over the completed prefix; n bounds the steps. -/
def Timeline.advance (t : Timeline) : Nat → Timeline
  | 0 => t
  | n + 1 =>
    if t.done.contains (t.count + 1) then
      ({ t with count := t.count + 1, done := t.done.filter (· != t.count + 1) } : Timeline).advance n
    else t

/-- An operation completes. -/
def Timeline.complete (t : Timeline) (num : Nat) : Timeline :=
  let t := { t with done := num :: t.done }
  t.advance t.done.length

/-- Accept an operation: its number. -/
def Timeline.accept (t : Timeline) : Nat × Timeline := (t.next, { t with next := t.next + 1 })

/-! ## Rings (R128, R129) -/

/-- One arrival on a side of a stage, with what its observation waits for. -/
def RingStg.arrive (x : RingStg) (cfg : RingCfg) (empty : Bool) (rel : List Nat) : RingStg :=
  if empty then
    if x.emptyArr + 1 = cfg.emptyExp then
      { x with emptyArr := 0, emptyRel := [], flips := x.flips ++ [⟨true, x.emptyRel ++ rel⟩] }
    else { x with emptyArr := x.emptyArr + 1, emptyRel := x.emptyRel ++ rel }
  else
    if x.fullArr + 1 = cfg.fullExp then
      { x with fullArr := 0, fullRel := [], flips := x.flips ++ [⟨false, x.fullRel ++ rel⟩] }
    else { x with fullArr := x.fullArr + 1, fullRel := x.fullRel ++ rel }

def Team.ringArrive (t : Team) (r st : Nat) (empty : Bool) (rel : List Nat) : Team :=
  { t with stages := tblUpd RingStg.reset t.stages (r * 16 + st) fun x => x.arrive (t.ring r) empty rel }

/-- The flips of a stage whose release points are all reached become observable, each side in order (R129). -/
def RingStg.observe (x : RingStg) (k : Core) : RingStg :=
  let go := fun (acc : RingStg × List Flip × Bool × Bool) (f : Flip) =>
    let (y, keep, holdE, holdF) := acc
    let held := if f.empty then holdE else holdF
    if held || k.waitsFor f.rel then (y, keep ++ [f], holdE || f.empty, holdF || !f.empty)
    else if f.empty then ({ y with emptyPh := !y.emptyPh }, keep, holdE, holdF)
    else ({ y with fullPh := !y.fullPh }, keep, holdE, holdF)
  let (y, keep, _, _) := x.flips.foldl go (x, [], false, false)
  { y with flips := keep }

/-! ## Copy batches (R118) -/

/-- The sealed batches that are not finished: from the first with a copy left. -/
def unfinished : List Batch → Nat
  | [] => 0
  | b :: t => if b.copies.isEmpty then unfinished t else 1 + t.length

/-- A copy completes in a lane's batches. -/
def Batch.finish (b : Batch) (copy : Nat) (err cached : Bool) : Batch :=
  if b.copies.contains copy then
    { copies := b.copies.filter (· != copy), err := b.err || err, cached := b.cached || cached }
  else b

def Lane.finishCopy (x : Lane) (copy : Nat) (err cached : Bool) : Lane :=
  { x with openB := x.openB.finish copy err cached, sealedB := x.sealedB.map (·.finish copy err cached) }

/-- The batches a wait acquires: the finished ones, oldest first; and those left. -/
def takeFinished : List Batch → List Batch × List Batch
  | [] => ([], [])
  | b :: t => if b.copies.isEmpty then let (a, r) := takeFinished t; (b :: a, r) else ([], b :: t)

/-! ## Completing an operation (R212, R360) -/

/-- Registers of a type (R271). -/
def memRegs : MemTy → Nat
  | .n64 | .i64 => 2
  | .b128 => 4
  | _ => 1

/-- The first register and the number of registers that an operation writes at its completion. -/
def OpKind.dst : OpKind → Option (Nat × Nat)
  | .load ty d => some (d, memRegs ty)
  | .atomic d w _ => some (d, if w then 2 else 1)
  | .sfu d => some (d, 1)
  | .store | .copy => none

/-- The operation writes a register of a lane at its completion. -/
def Op.writes (o : Op) (uid l r : Nat) : Bool :=
  o.uid == uid && o.lanes.getLsbD l && o.kind.dst.any fun d => d.1 ≤ r && r < d.1 + d.2

/-- An older operation of a common lane has yet to write a register that this one writes: results land in issue order (log entry
75). -/
def Core.olderDst (k : Core) (o : Op) : Bool :=
  match o.kind.dst with
  | none => false
  | some (d, n) => k.ops.any fun c => c.1 < o.id && (lanesOf o.lanes).any fun l =>
      (List.range n).any fun i => c.2.writes o.uid l (d + i)

/-- An operation whose accesses have all been performed, and whose results may land. -/
def Core.readyOp (k : Core) (id : Nat) : Option Op :=
  match tblFind k.ops id with
  | some o => if o.left.isEmpty && !k.olderDst o then some o else none
  | none => none

/-- Take one from a flag count of the state that issued the operation (R360). -/
def Lane.dropFlag (x : Lane) (tl : Bool) (f : Nat) : Lane :=
  if tl == x.tl then { x with flags := flagDec x.flags f }
  else if x.tl then { x with shadow := x.shadow.map fun h => { h with flags := flagDec h.flags f } }
  else x

/-- Write GD of an atomic in the state that issued it (R275, R359). -/
def Lane.writeGd (x : Lane) (tl : Bool) (g : Nat) (b : Bool) : Lane :=
  if g = 7 then x
  else if tl == x.tl then x.setGuard g b
  else if x.tl then { x with shadow := x.shadow.map fun h =>
    { h with guards := if b then h.guards ||| ((1 : BitVec 7) <<< g) else h.guards &&& ~~~((1 : BitVec 7) <<< g) } }
  else x

/-- What an operation writes in a lane when it completes. -/
def Op.finishLane (o : Op) (l : Nat) (x : Lane) : Lane :=
  let x := match o.kind with
    | .load _ dst | .sfu dst => x.setRegs dst (tblGet [] o.values l)
    | .atomic dst _ gd => (x.setRegs dst (tblGet [] o.values l)).writeGd o.tl gd.toNat (o.ended.getLsbD l)
    | .store | .copy => x
  match o.flag with
  | some f => x.dropFlag o.tl f.val
  | none => x

/-- Complete an operation of a core: results land, flags fall, and it is forgotten. -/
def Core.completeOp (k : Core) (o : Op) : Core :=
  let k := k.updByUid o.uid fun g => g.mapLanes (lanesOf o.lanes) fun l x => o.finishLane l x
  { k with ops := tblDel k.ops o.id }

/-! ## Releasing lanes (R162) -/

/-- A scratchpad line is present (R56). -/
def Core.present (k : Core) (line : Nat) : Bool := !k.zeroing.contains line && tblGet 0 k.outs line == 0

/-- The first line to be zeroed is zeroed (R57). -/
def Core.zeroHead (k : Core) : Core :=
  match k.zeroing with
  | [] => k
  | line :: rest =>
    { k with zeroing := rest, zeroed := true, spad := memErase k.spad (line * 256) 256,
             latent := k.latent.filter fun e => e.1 / 4 != line }

/-- A cycle of the core ends: a line has been zeroed in it, where one is left (R57). -/
def Core.zeroCycle (k : Core) : Core := { (if k.zeroed then k else k.zeroHead) with zeroed := false }

/-- The greatest number of request entries (R116). -/
def requestEntries : Nat := 1536

/-- Entries that the line transfers of a core hold (R116). -/
def Core.entriesUsed (k : Core) : Nat := (k.copies.filter fun c => c.2.tile.isNone).length

/-- The counter of a timeline (Table 5.4). -/
def State.timeline (s : State) (t : Team) (sel : Nat) : Timeline :=
  if sel = 0 then t.tlCopy
  else if sel = 1 then t.tlMatrix
  else if sel = 2 then
    match (s.grid t.grid).stream with
    | some q => q.tl
    | none => Timeline.start
  else
    match tblFind s.ctxs.live (s.grid t.grid).ctx with
    | some c => tblGet Timeline.start c.tls (sel - 64)
    | none => Timeline.start

/-- A park or wait is over. A count of cycles ends by WAIT_EXPIRE, and a held arrival by a phase. -/
def State.over (s : State) (core : Nat) (t : Team) (x : Lane) (flags : Tbl Nat) (w : WaitOn) : Bool :=
  let k := s.core core
  match w with
  | .nothing => true
  | .walk ctx vpns => !vpns.any fun v => k.walks.contains (ctx, v)
  | .lines c ls => ls.all (s.core c).present
  | .outFull c ls => ls.all fun l => tblGet 0 (s.core c).outs l < 63
  | .entries => k.entriesUsed < requestEntries
  | .batchSlot => unfinished x.sealedB < 16
  | .flagFull f => flagCount flags f.val < 15
  | .own ids => !s.cores.any fun c => c.2.waitsFor ids
  | .rank c r g co _ =>
    (match (s.cluster c).rankEntry g co r with
     | some e => e.moving.isNone && (s.core e.core).remote.length < 64
     | none => true)
  | .engine => k.engine.held.isEmpty
  | .bar b ph => ph < (t.bar b).phases && !k.waitsFor (tblGet [] (t.bar b).done ph)
  | .barHeld _ => false
  | .ring r st empty v => (if empty then (t.stage r st).emptyPh else (t.stage r st).fullPh) == v
  | .timeline sel n _ => n ≤ (s.timeline t sel).count
  | .batches n _ => unfinished x.sealedB ≤ n
  | .time _ _ => false
  | .flags m => !flagsSet flags m

/-- The flag that a wait set falls in a count of flags when the wait completes (R212). -/
def dropWait (fl : Tbl Nat) (f : Option (Fin 12)) : Tbl Nat :=
  match f with
  | some f => flagDec fl f.val
  | none => fl

/-- A lane starts to wait, and the flag of its instruction is set (R212). -/
def Lane.await (x : Lane) (flag : FlagSel) (w : WaitOn) : Lane :=
  { x with status := .waiting, waitOn := w, waitFlag := flag,
           flags := match flag with
             | some f => flagInc x.flags f.val
             | none => x.flags }

/-- A lane's wait completes: its flag falls, and the lane stands behind the instruction (R162, R212). -/
def Lane.wake (x : Lane) (len : Nat) : Lane :=
  { (x.goto (x.pc + BitVec.ofNat 57 len)) with
    status := .ready, waitOn := .nothing, flags := dropWait x.flags x.waitFlag, waitFlag := none }

/-- The wait in a shadow completes (R360). -/
def Shadow.wake (h : Shadow) (len : Nat) : Shadow :=
  { h with pc := h.pc + BitVec.ofNat 57 len, status := .ready, waitOn := .nothing, flags := dropWait h.flags h.waitFlag,
           waitFlag := none }

/-- Parcels of the waiting instruction, which the lane passes when its wait completes. -/
def WaitOn.len : WaitOn → Nat
  | .bar _ _ | .barHeld _ | .batches _ _ | .flags _ => 1
  | .ring _ _ _ _ | .timeline _ _ _ | .time _ _ => 2
  | _ => 0

/-- The acquire part that completes a wait (R125, R129, R291). -/
def WaitOn.acquire : WaitOn → Option Scope
  | .bar _ _ | .ring _ _ _ _ => some .team
  | .timeline _ _ sc => some sc
  | _ => none

/-- A completing cpy.wait acquires the finished batches (R119, R284). -/
def Lane.acquireBatches (x : Lane) (ge : BitVec 3) : Lane :=
  let (a, r) := takeFinished x.sealedB
  let x := { x with sealedB := r }
  if ge.toNat = 7 then x else x.setGuard ge.toNat (a.any (·.err))

/-- Whether the batches a cpy.wait acquires wrote a cacheable location. -/
def Lane.acquiresCached (x : Lane) : Bool := (takeFinished x.sealedB).1.any (·.cached)

/-- Release a lane's live wait or park if it is over. -/
def State.settleLive (s : State) (core slot g l : Nat) : State :=
  let t := s.team core slot
  let y := t.group g
  let x := y.lane l
  match x.status with
  | .ready | .exited => s
  | .parked =>
    if s.over core t x x.flags x.waitOn then
      s.updGroup core slot g fun q => q.updLane l fun z => { z with status := .ready, waitOn := .nothing }
    else s
  | .waiting =>
    if s.over core t x x.flags x.waitOn then
      let s := match x.waitOn with
        | .batches _ _ => if x.acquiresCached then s.l1WBINV (s.l1Of core) else s
        | _ => s
      let s := s.updGroup core slot g fun q => q.updLane l fun z =>
        let z := match z.waitOn with
          | .batches _ ge => z.acquireBatches ge
          | _ => z
        z.wake x.waitOn.len
      match x.waitOn.acquire with
      | some sc => s.pushPoint core t.uid (s.grid t.grid).ctx y.uid l (.acquire sc)
      | none => s
    else s

/-- Release the wait or park in a lane's shadow if it is over (R360). -/
def State.settleShadow (s : State) (core slot g l : Nat) : State :=
  let t := s.team core slot
  let y := t.group g
  let x := y.lane l
  match x.shadow with
  | none => s
  | some h =>
    match h.status with
    | .ready | .exited => s
    | .parked =>
      if s.over core t x h.flags h.waitOn then
        s.updGroup core slot g fun q => q.updLane l fun z =>
          { z with shadow := some { h with status := .ready, waitOn := .nothing } }
      else s
    | .waiting =>
      if s.over core t x h.flags h.waitOn then
        let s := match h.waitOn with
          | .batches _ _ => if x.acquiresCached then s.l1WBINV (s.l1Of core) else s
          | _ => s
        let s := s.updGroup core slot g fun q => q.updLane l fun z =>
          let (a, r) := match h.waitOn with
            | .batches _ _ => takeFinished z.sealedB
            | _ => ([], z.sealedB)
          let gs := match h.waitOn with
            | .batches _ ge => if ge.toNat = 7 then h.guards else
                if a.any (·.err) then h.guards ||| ((1 : BitVec 7) <<< ge.toNat)
                else h.guards &&& ~~~((1 : BitVec 7) <<< ge.toNat)
            | _ => h.guards
          { z with sealedB := r, shadow := some { h.wake h.waitOn.len with guards := gs } }
        match h.waitOn.acquire with
        | some sc => s.pushPoint core t.uid (s.grid t.grid).ctx y.uid l (.acquire sc)
        | none => s
      else s

/-- Release what is over in one group. -/
def State.settleGroup (s : State) (core slot g : Nat) : State :=
  (List.range 32).foldl (fun s l => (s.settleLive core slot g l).settleShadow core slot g l) s

/-- Flips of a team become observable; then its lanes are released. -/
def State.settleTeam (s : State) (core slot : Nat) : State :=
  let s := s.updTeam core slot fun t =>
    { t with stages := tblMap (fun _ x => if x.flips.isEmpty then x else x.observe (s.core core)) t.stages }
  (tblKeys (s.team core slot).groups).foldl (fun s g => s.settleGroup core slot g) s

/-- Release what is over everywhere: what becomes so follows each step at once. -/
def State.settle (s : State) : State :=
  (tblKeys s.cores).foldl (fun s c => (tblKeys (s.core c).teams).foldl (fun s t => s.settleTeam c t) s) s

end Sys2Proof.Machine
end

