-- ==== Sys2Proof/Machine/Operands.lean ====
section
/-! DEFINITION. Every operand form: sources (09 R208, Table 9.5) with results that are pending (R212), register
checks (R209), guards (R210), and how an instruction's lanes write their results, take flags and advance. -/

namespace Sys2Proof.Machine

/-! ## Values -/

/-- A register pair as 64 bits: the even register low. -/
def pair (lo hi : Word) : DWord := hi ++ lo
def lowWord (x : DWord) : Word := x.extractLsb' 0 32
def highWord (x : DWord) : Word := x.extractLsb' 32 32

/-- The literals (Table 9.5), as 64-bit operands; the 32-bit value is the low half. -/
def litVal : Lit → DWord
  | .zero => 0
  | .one => 1
  | .two => 2
  | .four => 4
  | .eight => 8
  | .sixteen => 16
  | .thirtyTwo => 32
  | .minusOne => 0xFFFFFFFFFFFFFFFF
  | .bit31 => 0x80000000
  | .fOne => 0x3F800000
  | .fMinusOne => 0xBF800000
  | .fHalf => 0x3F000000
  | .fTwo => 0x40000000
  | .halfOnes => 0x3C003C00
  | .bfOnes => 0x3F803F80
  | .fInf => 0x7F800000

/-- The lanes of a group that have not exited, as %live reads them. -/
def Group.liveMask (g : Group) : LaneMask := maskOf g.liveLanes

/-- The special registers (Table 9.5), as 64-bit operands. -/
def State.special (s : State) (l : Nat) : Special → DWord
  | .lane => BitVec.ofNat 64 l
  | .group => BitVec.ofNat 64 s.issue.group
  | .tx => BitVec.ofNat 64 s.issTeam.x
  | .ty => BitVec.ofNat 64 s.issTeam.y
  | .tz => BitVec.ofNat 64 s.issTeam.z
  | .team => BitVec.ofNat 64 s.issTeam.t
  | .grid => BitVec.ofNat 64 s.issTeam.grid
  | .core => BitVec.ofNat 64 (s.issue.core % 256)
  | .cluster => BitVec.ofNat 64 (clusterOf s.issue.core)
  | .rank =>
    match s.issTeam.rank with
    | some r => BitVec.ofNat 64 r
    | none => 0xFFFFFFFF
  | .tw => BitVec.ofNat 64 s.issGroup.tw
  | .depth => BitVec.ofNat 64 (s.issLane l).depth
  | .ns => BitVec.ofNat 64 s.ns
  | .role => BitVec.ofNat 64 (roleNum s.issGroup.role)
  | .live => s.issGroup.liveMask.setWidth 64
  | .cyc => BitVec.ofNat 64 (s.region (s.regionOf s.issue.core)).cyc

/-- The half of a 16-byte load that holds a register of a lane has not been read. -/
def Core.halfLeft (k : Core) (o : Op) (l i : Nat) : Bool :=
  o.kind.dst.any (·.2 == 4) &&
    k.queue.any fun j => j.op == o.id && j.lanes.getLsbD l && (match j.place with
      | .dev x | .host x | .spad x | .rank _ _ _ _ x | .peer _ x _ => x % 16 / 8 == i / 2)

/-- The new value that an operation holds for a register of a lane, once it is known. -/
def Core.newValue (k : Core) (l r : Nat) (o : Op) : Option Word :=
  match tblFind o.values l, o.kind.dst with
  | some vs, some (d, _) => if k.halfLeft o l (r - d) then none else vs[r - d]?
  | _, _ => none

/-- What a lane reads of a register of value `old` at a moment, past the operations that are going to write it, oldest first, each
with its new value: a result that has landed stays, and lands after those before it (log entry 75). -/
def readLanded (l r now : Nat) : Word → List (Nat × Option Word) → Word
  | old, [] => old
  | old, (id, v) :: t =>
    match v with
    | some v => if Config.landsAt id l r ≤ now then readLanded l r now v t else old
    | none => old

/-- Read a register of an issuing lane at operand place k. While a result that is not interlocked is pending, the
read returns the old value or the new one (R212; log entry 1). -/
def State.readReg (s : State) (k l r : Nat) : Word :=
  readLanded l r (8 * s.stamp + k) ((s.issLane l).reg r)
    ((s.issCore.ops.filter fun c => c.2.writes s.issGroup.uid l r).map fun c => (c.1, s.issCore.newValue l r c.2))

/-- A 32-bit source operand. -/
def State.src32 (s : State) (k l : Nat) : Src → Word
  | .reg r => s.readReg k l r.toNat
  | .lit x => lowWord (litVal x)
  | .special x => lowWord (s.special l x)
  | .bad _ => 0

/-- A 64-bit source operand. -/
def State.src64 (s : State) (k l : Nat) : Src → DWord
  | .reg r => pair (s.readReg k l r.toNat) (s.readReg k l (r.toNat + 1))
  | .lit x => litVal x
  | .special x => s.special l x
  | .bad _ => 0

/-- n consecutive registers of a lane. -/
def State.srcRegs (s : State) (k l r n : Nat) : List Word := (List.range n).map fun i => s.readReg k l (r + i)

/-! ## Register checks (R208, R209) -/

/-- n registers from r: aligned to n, and inside the group's budget. -/
def State.regsOk (s : State) (n r : Nat) : Bool := r % n == 0 && r + n ≤ s.issGroup.units * 64

/-- A source of n registers; literals and special registers are always readable. -/
def State.srcOk (s : State) (n : Nat) : Src → Bool
  | .reg r => s.regsOk n r.toNat
  | .lit _ | .special _ => true
  | .bad _ => false

/-- The operand check of an instruction: illegal operand (R209, R217 step 4). -/
def State.operands (s : State) (oks : List Bool) : Option FaultInfo := s.demand (oks.all id) 0x05

/-- Registers of an operand of a width. -/
def wRegs (w64 : Bool) : Nat := if w64 then 2 else 1

/-! ## Results -/

/-- The parcel after the instruction. -/
def State.nextPc (s : State) : PAddr := s.issue.p + BitVec.ofNat 57 s.issue.len

/-- An issue would take the flag's count past 15 in the lane (R212). -/
def Lane.flagFull (x : Lane) (f : FlagSel) : Bool :=
  match f with
  | some i => 15 ≤ flagCount x.flags i.val
  | none => false

/-- Park a lane until the flag's count falls (R212). -/
def Lane.parkFlag (x : Lane) (f : FlagSel) : Lane :=
  match f with
  | some i => { x with status := .parked, waitOn := .flagFull i }
  | none => x

/-- Park a lane at its instruction. -/
def Lane.park (x : Lane) (w : WaitOn) : Lane := { x with status := .parked, waitOn := w }

/-- The lane performs an instruction with no result pending afterwards: a flag named falls again in the same step. -/
def Lane.perform (x : Lane) (flag : FlagSel) (next : PAddr) (f : Lane → Lane) : Lane :=
  if x.flagFull flag then x.parkFlag flag else (f x).goto next

/-- Every issuing lane performs f and advances. -/
def State.runLanes (s : State) (flag : FlagSel) (f : Nat → Lane → Lane) : State :=
  s.updIssGroup fun g => g.mapLanes s.issLanes fun l x => x.perform flag s.nextPc (f l)

/-- Every issuing lane writes one 32-bit register. -/
def State.put32 (s : State) (flag : FlagSel) (dst : BitVec 10) (v : Nat → Word) : State :=
  s.runLanes flag fun l x => x.setReg dst.toNat (v l)

/-- Every issuing lane writes a register pair. -/
def State.put64 (s : State) (flag : FlagSel) (dst : BitVec 10) (v : Nat → DWord) : State :=
  s.runLanes flag fun l x => (x.setReg dst.toNat (lowWord (v l))).setReg (dst.toNat + 1) (highWord (v l))

/-- Every issuing lane writes a guard. -/
def State.putGuard (s : State) (flag : FlagSel) (dst : BitVec 10) (v : Nat → Bool) : State :=
  s.runLanes flag fun l x => x.setGuard dst.toNat (v l)

/-- Every issuing lane advances. -/
def State.advance (s : State) : State := s.runLanes none fun _ x => x

/-! ## Immediates (R215) -/

/-- An immediate, widened by px.lit: IMM20 to 48 bits. -/
def State.imm48 (s : State) (imm : BitVec 20) : DWord :=
  match s.issue.lit with
  | some l => (l ++ imm : BitVec 48).signExtend 64
  | none => imm.signExtend 64

/-- A branch offset, widened by px.lit: OFF18 to 46 bits. -/
def State.off46 (s : State) (off : BitVec 18) : DWord :=
  match s.issue.lit with
  | some l => (l ++ off : BitVec 46).signExtend 64
  | none => off.signExtend 64

/-- A memory offset, widened by px.lit: OFF5 to 33 bits. -/
def State.off33 (s : State) (off : BitVec 5) : DWord :=
  match s.issue.lit with
  | some l => (l ++ off : BitVec 33).signExtend 64
  | none => off.signExtend 64

/-- TW of a lane operation: px.tile replaces it (R168, R215). -/
def State.tileWidth (s : State) : Nat :=
  match s.issue.tile with
  | some t => 2 ^ t.toNat
  | none => s.issGroup.tw

end Sys2Proof.Machine
end

