-- ==== Sys2Proof/Machine/Issue.lean ====
section
/-! DEFINITION. Who issues: which lanes are ready (07 R162), which the frontier selects (R163, R166), which group a
core issues for (14 R351, R353), the start of an issue (09 R200, R159), and the end of a cycle (07 R164, 12 R297). -/

namespace Sys2Proof.Machine

/-! ## What stands at a position -/

/-- The parcels from p to the end of its line, as a fetch would return them now. -/
def State.parcelsAt (s : State) (core grid : Nat) (p : PAddr) : List Word :=
  match s.peekLine core grid (lineOf p) with
  | some ws => (ws.take 15).drop (slotOf p)
  | none => []

/-- The first parcel that is no prefix. -/
def bodyParcel : List Word → Option Word
  | [] => none
  | w :: t => if w.extractLsb' 0 2 = 3 then bodyParcel t else some w

/-- The major opcode of the instruction at p. -/
def State.majorAt (s : State) (core grid : Nat) (p : PAddr) : Nat :=
  match bodyParcel (s.parcelsAt core grid p) with
  | some w => (w.extractLsb' 2 8).toNat
  | none => 0

/-- The parcel of rtrap (R303). -/
def rtrapParcel : Word := 0x000003E4

/-- GANG.COUNT and the list position of a group (Table 13.4). -/
def gangCount (g : DWord) : Nat := (g.extractLsb' 32 3).toNat
def gangMember (g : DWord) (p : Nat) : Nat := (g.extractLsb' (5 * p) 5).toNat
def gangPos (g : DWord) (grp : Nat) : Option Nat :=
  (List.range (gangCount g)).find? fun p => gangMember g p == grp

/-- Bits of a matrix format (Table 13.2). -/
def mxBits : MxFmt → Nat
  | .e2m1 | .lut4 | .i4 | .n4 => 4
  | .e4m3 | .e5m2 | .i8 | .n8 => 8
  | .bf16 | .f16 => 16

/-- The operand block check of an mma (R309, R315), for a register budget. -/
def blockOk (units : Nat) (gang : DWord) (f : MmaForm) : Bool :=
  (match f.a with
   | .reg r => r.toNat % 16 == 0 && r.toNat + 4 * mxBits f.afmt ≤ units * 64
   | _ => false) && !(5 ≤ gangCount gang && f.t.toNat % 2 == 1)

/-- A joint operation's encoding, less SRCA (R313). -/
def mmaKey (f : MmaForm) : JointOp := .mma { f with a := .lit .zero }
def epiKey (f : EpiForm) : JointOp := .epi { f with sb := .lit .zero }

/-- The group has joined the latched operation. -/
def Latch.joined (la : Latch) (g : Nat) : Bool := la.members.any fun m => m.group == g

/-- The entries of a queue that the latched operation and the held ones have claimed (R323). -/
def Engine.claims (e : Engine) (p : Nat) : Nat :=
  ((e.latch.toList ++ e.held).flatMap fun la => la.members.filter fun m => m.pos == p && m.claimed && m.own.isNone).length

/-- Unclaimed entries of a queue. -/
def Engine.unclaimed (e : Engine) (p : Nat) : Nat := (tblGet [] e.scales p).length - e.claims p

/-- The scale rules of an mma (R323). -/
def Engine.scalesFit (e : Engine) (p : Nat) (f : MmaForm) : Bool := (f.afmt == .e2m1) == decide (0 < e.unclaimed p)

/-- The format of A agrees with a full reuse latch (R316). -/
def Engine.reuseFits (e : Engine) (f : MmaForm) : Bool :=
  match e.reuse with
  | some r => r.fmt == f.afmt
  | none => true

/-- An mma of a group would be the last to join the latched operation, with every check passed (R313). -/
def Engine.wouldRelease (e : Engine) (units g : Nat) (f : MmaForm) : Bool :=
  match e.latch, gangPos e.gang g with
  | some la, some p =>
    la.op == mmaKey f && !la.joined g && la.members.length + 1 == gangCount e.gang && blockOk units e.gang f
      && e.scalesFit p f && e.reuseFits f
  | _, _ => false

/-- Tokens in the pool (Table 16.4), less those granted to cores that have not yet issued (R317). -/
def State.tokensFree (s : State) : Nat :=
  s.power.size - s.power.tokOut - (s.cores.filter fun c => c.2.engine.token).length

/-- A lane stands at an mma that would release the latch: it needs a power token (R317). -/
def State.needsToken (s : State) (core slot g l : Nat) : Bool :=
  let k := s.core core
  let t := k.team slot
  let y := t.group g
  let x := y.lane l
  k.engine.latch.isSome && (gangPos k.engine.gang g).isSome &&
    (y.liveLanes.all fun m =>
      let z := y.lane m
      z.status == .ready && z.depth == x.depth && z.pc == x.pc) &&
    (match decode (s.parcelsAt core t.grid x.pc) with
     | .ok (.mma f, _) => k.engine.wouldRelease y.units g f
     | _ => false)

/-- The lane is held for want of a power token (R317). -/
def State.tokenHeld (s : State) (core slot g l : Nat) : Bool :=
  s.needsToken core slot g l && !(s.core core).engine.token && s.tokensFree == 0

/-! ## Ready lanes (R162, R202, R361, R379) -/

/-- A lane is held by the WAIT mask of the line it is entering (R202). -/
def State.entryHeld (s : State) (core grid : Nat) (x : Lane) : Bool :=
  x.entering && flagsSet x.flags 0xFFF && flagsSet x.flags (s.waitMask core grid x.pc)

/-- No lane at the position of an rtrap issues it while a trap-level lane there has a flag set (R361). -/
def State.rtrapHeld (s : State) (core grid : Nat) (g : Group) (x : Lane) : Bool :=
  x.tl && (g.liveLanes.any fun l =>
      let y := g.lane l
      y.tl && y.depth == x.depth && y.pc == x.pc && flagsSet y.flags 0xFFF)
    && (s.parcelsAt core grid x.pc).head? == some rtrapParcel

/-- A group has a live lane on an island that is changing point. Its lanes there are not ready, and the group's other lanes
wait with them, so that no group diverges for it (R379, R423; log entry 55). -/
def Core.settling (k : Core) (y : Group) : Bool :=
  k.ntSettle.any fun c => y.liveLanes.any fun l => l / 8 == c.1

/-- The lane is ready (R162); its core is not stopped and its team issues. -/
def State.laneReady (s : State) (core slot g l : Nat) : Bool :=
  let k := s.core core
  let t := k.team slot
  let y := t.group g
  let x := y.lane l
  x.status == .ready && !k.settling y
    && !s.entryHeld core t.grid x && !s.rtrapHeld core t.grid y x && !s.tokenHeld core slot g l

/-- The lanes the frontier may take (R163, R166). -/
def State.readyLanes (s : State) (core slot g : Nat) : List Nat :=
  let y := s.group core slot g
  let r := (List.range 32).filter fun l => s.laneReady core slot g l
  if y.inTrap then r.filter fun l => (y.lane l).tl else r

/-! ## The frontier (R163) -/

/-- A position. -/
structure Pos where
  depth : Nat
  pc    : PAddr
  deriving DecidableEq, Repr

def Lane.pos (x : Lane) : Pos := ⟨x.depth, x.pc⟩

/-- The position with priority among lanes: greatest depth, then least address. -/
def firstPos (g : Group) (ls : List Nat) : Pos :=
  ls.foldl (fun p l =>
    let q := (g.lane l).pos
    if p.depth < q.depth || (p.depth == q.depth && q.pc.toNat < p.pc.toNat) then q else p) (g.lane (ls.headD 0)).pos

/-- The position of a fairness turn: least depth, then greatest address. -/
def lastPos (g : Group) (ls : List Nat) : Pos :=
  ls.foldl (fun p l =>
    let q := (g.lane l).pos
    if q.depth < p.depth || (q.depth == p.depth && p.pc.toNat < q.pc.toNat) then q else p) (g.lane (ls.headD 0)).pos

/-- A selection: the lanes, their position, and whether it is a fairness turn. -/
structure Pick where
  lanes : List Nat
  pos   : Pos
  fair  : Bool
  deriving DecidableEq, Repr

/-- The frontier's choice (R163) among ready lanes. -/
def frontier (t : Team) (g : Group) (r : List Nat) : Option Pick :=
  if r.isEmpty then none
  else if !t.progress && t.fairM1 + 1 ≤ g.ft then
    let p := lastPos g r
    some ⟨r.filter fun l => (g.lane l).pos == p, p, true⟩
  else
    let n := r.filter fun l => !(g.lane l).yld
    let p := firstPos g (if n.isEmpty then r else n)
    some ⟨r.filter fun l => (g.lane l).pos == p, p, false⟩

/-- The lanes a group would issue now. -/
def State.pick (s : State) (core slot g : Nat) : Option Pick :=
  frontier (s.team core slot) (s.group core slot g) (s.readyLanes core slot g)

/-- The throttle holds a group that would issue at a position: its instruction has a major from 0xC0 to 0xDF, and the group may
not issue those in this window (R353). -/
def State.throttles (s : State) (core slot g : Nat) (p : Pick) : Bool :=
  !(s.group core slot g).mayIssue &&
    (let m := s.majorAt core (s.team core slot).grid p.pos.pc; 0xC0 ≤ m && m ≤ 0xDF)

/-- The group is ready to issue (R351): its frontier selects lanes, and the throttle does not hold it (R353). -/
def State.groupReady (s : State) (core slot g : Nat) : Bool :=
  match s.pick core slot g with
  | none => false
  | some p => !s.throttles core slot g p

/-! ## The issue slot of a core (R351) -/

/-- Every resident group: team slot, index, age, promoted. -/
def Core.residents (k : Core) : List (Nat × Nat × Nat × Bool) :=
  k.teams.flatMap fun (slot, t) => t.groups.map fun (g, x) => (slot, g, x.age, 4032 ≤ x.passed)

/-- The group that takes the slot: promoted groups before others, the oldest first. -/
def oldest : List (Nat × Nat × Nat × Bool) → Option (Nat × Nat)
  | [] => none
  | c :: t =>
    let b := t.foldl (fun b c =>
      if (c.2.2.2 && !b.2.2.2) || (c.2.2.2 == b.2.2.2 && c.2.2.1 < b.2.2.1) then c else b) c
    some (b.1, b.2.1)

/-- A core that may issue: not stopped, not gated, and no issue in this cycle. -/
def Core.canIssue (k : Core) : Bool := !k.flt.stopped && !k.gated && k.issued == 0

/-- The group that a core issues for now. -/
def State.nextGroup (s : State) (core : Nat) : Option (Nat × Nat) :=
  let k := s.core core
  if !k.canIssue then none
  else oldest (k.residents.filter fun c => !(k.team c.1).stopping && s.groupReady core c.1 c.2.1)

/-- The selected lanes issue: YLD, FT and entry as R163 and R202 give, and the issue in progress set up. -/
def State.beginIssue (s : State) (core slot g : Nat) (p : Pick) : State :=
  let s := s.updGroup core slot g fun y =>
    let y := { y with ft := if p.fair then 0 else y.ft, passed := 0 }
    y.mapLanes (List.range 32) fun l x =>
      let x := if p.fair then x else { x with yld := false }
      if p.lanes.contains l then { x with entering := false } else x
  let s := s.updCore core fun k => { k with issued := (s.group core slot g).uid }
  { s with issue := { core := core, slot := slot, group := g, lanes := maskOf p.lanes, pc := p.pos.pc, p := p.pos.pc,
                      line := [], len := 0, lit := none, scope := none, tile := none } }

/-- The first issue of a group checks its entry (R159). -/
def State.entryFault (s : State) (ws : List Word) : Bool :=
  s.issGroup.entryCheck && !(ws.getD 15 0).getLsbD (slotOf s.issue.p)

/-- Fetch the line of the issue's position (R200): the instruction or the event that comes next is decoded from it;
a fetch that faults gives the event that raises the fault. -/
def State.fetchIssue (s : State) : State × Option Instr :=
  let (s, r) := s.fetchLine s.issue.core s.issTeam.grid (lineOf s.issue.p)
  match r with
  | .error (code, aux) =>
    (s, some (.instructionFetchFault (BitVec.ofNat 8 code) (BitVec.ofNat 64 (64 * lineOf s.issue.p))
      (BitVec.ofNat 64 aux)))
  | .ok ws =>
    if s.entryFault ws then
      (s, some (.instructionFetchFault 6 0 (BitVec.ofNat 64 s.issue.p.toNat)))
    else
      let s := { s with issue := { s.issue with line := (ws.take 15).drop (slotOf s.issue.p) } }
      (s.updIssGroup fun g => { g with entryCheck := false }, none)

/-- What stands at the decoding cursor: an instruction or prefix, or the event of an unassigned encoding (R218). -/
def State.decodeIssue (s : State) : State × Instr :=
  match decode s.issue.line with
  | .ok (i, n) => ({ s with issue := { s.issue with len := n } }, i)
  | .error _ => (s, .unassignedEncoding (s.issue.line.headD 0))

/-- A prefix, after which decoding goes on (R214). -/
def isPrefix : Instr → Bool
  | .pxLit _ | .pxScope _ _ | .pxTile _ => true
  | _ => false

/-- The issue is over; the next free values are new ones. -/
def State.endIssue (s : State) : State := { s with issue := Issue.idle, stamp := s.stamp + 1 }

/-! ## The end of a cycle -/

/-- FT of a group at the end of a cycle (R164); on a stopped core no lane is ready (R162). -/
def State.nextFt (s : State) (core slot g : Nat) : Nat :=
  let t := s.team core slot
  let y := t.group g
  if t.progress || (s.core core).flt.stopped then 0
  else
    match s.readyLanes core slot g with
    | [] => 0
    | l :: r => if r.any fun m => (y.lane m).pos != (y.lane l).pos then min (y.ft + 1) 65536 else 0

/-- A cycle of a wait's clock passes (R297). -/
def WaitOn.tick (w : WaitOn) : WaitOn :=
  match w with
  | .time c b => .time (c - 1) b
  | w => w

def Lane.tick (x : Lane) : Lane :=
  { x with waitOn := x.waitOn.tick, shadow := x.shadow.map fun h => { h with waitOn := h.waitOn.tick } }

/-- Lanes of islands that are, or are not, at near-threshold count a cycle. -/
def Group.tick (y : Group) (islands : BitVec 4) (near : Bool) : Group :=
  { y with lanes := tblMap (fun l x => if islands.getLsbD (l / 8) == near then x.tick else x) y.lanes }

/-- A group at the end of its core's cycle. -/
def State.groupCycle (s : State) (core slot g : Nat) : Group :=
  let k := s.core core
  let y := s.group core slot g
  let ready := !k.flt.stopped && !k.gated && !(k.team slot).stopping && s.groupReady core slot g
  { y.tick k.ntCur false with
    throttled := y.throttled || (s.pick core slot g).any (s.throttles core slot g)
    ft := s.nextFt core slot g
    passed := if k.issued != y.uid && ready then y.passed + 1 else 0 }

/-- An operation of majors 0xC0 to 0xDF that has set its flag. -/
def OpKind.isMemory : OpKind → Bool
  | .load _ _ | .store | .atomic _ _ _ | .copy => true
  | .sfu _ => false

/-- The WAIT mask that holds a lane names the flag of a memory instruction of it that has not completed. -/
def Core.waitsMemory (k : Core) (uid l : Nat) (x : Lane) (mask : BitVec 12) : Bool :=
  k.ops.any fun c => c.2.uid == uid && c.2.lanes.getLsbD l && c.2.tl == x.tl && c.2.kind.isMemory &&
    c.2.flag.any fun f => mask.getLsbD f.val

/-- A stall cycle of R378: nothing issued, while a lane is parked or held by a WAIT flag of a memory instruction. -/
def State.stallCycle (s : State) (core : Nat) : Bool :=
  let k := s.core core
  k.issued == 0 && k.teams.any fun (_, t) => t.groups.any fun (_, y) => y.lanes.any fun (l, x) =>
    x.status == .parked ||
      (x.status == .ready && s.entryHeld core t.grid x && k.waitsMemory y.uid l x (s.waitMask core t.grid x.pc))

/-- The end of a core's cycle: FT, waits, passed-over counts, the windows of R352 and R378, and the zeroing of a line (R57). -/
def State.coreCycle (s : State) (core : Nat) : State :=
  let k := s.core core
  let teams := tblMap (fun slot t => { t with groups := tblMap (fun g _ => s.groupCycle core slot g) t.groups }) k.teams
  s.setCore core { k.zeroCycle with
    teams := teams, issued := 0, grown := false, window := k.window - 1, ntCycles := k.ntCycles + 1,
    ntStall := if s.stallCycle core then k.ntStall + 1 else k.ntStall }

/-- The end of a cycle of a clock region (R164, R208). Joins accepted in the cycle are left to `joinAll`. -/
def State.regionCycle (s : State) (r : Nat) : State :=
  let s := s.updRegion r fun x => { x with cyc := (x.cyc + 1) % 2 ^ 64 }
  (tblKeys s.cores).foldl (fun s c => if s.regionOf c = r then s.coreCycle c else s) s

/-- A cycle of the near-threshold clock in a region (R297). -/
def State.islandCycle (s : State) (r : Nat) : State :=
  (tblKeys s.cores).foldl (fun s c =>
    if s.regionOf c = r then s.updCore c fun k => { k with teams := tblMap (fun _ t =>
      { t with groups := tblMap (fun _ y => y.tick k.ntCur true) t.groups }) k.teams } else s) s

/-- Nanoseconds pass (R376); quanta of teams on cores that are not stopped run down (R349, R355). -/
def State.passNs (s : State) (n : Nat) : State :=
  let cores := tblMap (fun _ k =>
    if k.flt.stopped then k
    else { k with teams := tblMap (fun _ t => { t with quantum := t.quantum - n }) k.teams }) s.cores
  { s with ns := (s.ns + n) % 2 ^ 64, cores := cores }

end Sys2Proof.Machine
end

