-- ==== Sys2Proof/Machine/Load.lean ====
section
/-! DEFINITION. Loading one instruction from outside the machine, as a launch would (log entry 8): a page table in far
memory, one code line in near memory, and a grid, a team and one group of 32 ready lanes on core 0 at that line. -/

namespace Sys2Proof.Machine

/-- The code line with its parcels, nops after them, BTM bit 0 and PAR (Table 9.1). -/
def loadLine (ps : List Word) : List Word :=
  let body := (ps ++ List.replicate 15 (0x00000004 : Word)).take 15
  let x := (body.foldl (fun a w => a ^^^ w.toNat) 0) ^^^ 1
  body ++ [BitVec.ofNat 32 (1 + parity32 x * 2 ^ 31)]

/-- The role that may issue an instruction (R158). -/
def roleFor (ps : List Word) : Role :=
  match bodyParcel ps with
  | some w =>
    let m := (w.extractLsb' 2 8).toNat
    if m = 0xCD then .copy else if 0xF0 ≤ m ∧ m ≤ 0xF7 then .matrix else .vector
  | none => .vector

/-- Page tables that map VA 0 to near memory: read, write and execute. -/
def loadTables (m : Memory) : Memory :=
  let m := memWrite m farFirst (natLe (farFirst + 0x40000 + 1) 8)
  let m := memWrite m (farFirst + 0x40000) (natLe (farFirst + 0x50000 + 1) 8)
  memWrite m (farFirst + 0x50000) (natLe 0x1F 8)

def loadGrid : Grid :=
  { Grid.absent with id := 1, launch := { Launch.absent with slots := 1, roles := [(2, ⟨true, 0, 0, 32, 1, 16⟩)] },
                     desc := { Desc.absent with ptRoot := farFirst }, started := true, nextT := 1, liveTeams := 1,
                     slotsHeld := [0] }

def loadTeam (ps : List Word) (uid : Nat) : Team :=
  let g : Group :=
    { Group.absent with uid := uid, role := roleFor ps, units := 16, entryCheck := true,
                        lanes := (List.range 32).map fun l => (l, Lane.start 0) }
  { Team.absent with uid := uid + 1, grid := 1, scr := 1024, groups := [(0, g)], quantum := 2000000,
                     roles := [(roleNum (roleFor ps), ⟨true, 0, 1, 32, 1, 16⟩)] }

/-- Core 0 with the team; a matrix group's team owns the engine (R305). -/
def loadCore (ps : List Word) (uid : Nat) : Core :=
  let owner := if roleFor ps = .matrix then some 0 else none
  { Core.reset 0 with teams := [(0, loadTeam ps uid)], ages := 1, owner := owner }

/-- The state with one instruction loaded and the issue slot of core 0 next. -/
def State.load (s : State) (ps : List Word) : State :=
  let cells := loadTables s.mem.cells
  let cells := memWrite cells 0 (bytesOfWords (loadLine ps))
  let farPage := pageOf farFirst
  { s with
    mem := { s.mem with cells := cells, swept := [0, farPage, farPage + 4, farPage + 5] ++ s.mem.swept }
    cores := tblSet s.cores 0 (loadCore ps s.fresh)
    sched := { s.sched with grids := tblSet s.sched.grids 1 loadGrid }
    ctxs := { s.ctxs with live := tblSet s.ctxs.live 0 (Ctx.fresh 0) }
    fresh := s.fresh + 2
    agenda := [.issue 0] }

end Sys2Proof.Machine
end

