-- ==== Sys2Proof/Machine/Crypto.lean ====
section
/-! DEFINITION. The algorithms that the part runs on bytes: SHA-384 (17 R409, R410) and AES-256-GCM (13 R320, 15 R369), as
their published standards (FIPS 180-4, FIPS 197, SP 800-38D) define them; the spec names them and gives no other text
(log entry 16). -/

namespace Sys2Proof.Machine

/-! ## SHA-384 -/

/-- The round constants, in four parts. -/
def shaK : List (BitVec 64) :=
  [0x428A2F98D728AE22, 0x7137449123EF65CD, 0xB5C0FBCFEC4D3B2F, 0xE9B5DBA58189DBBC,
   0x3956C25BF348B538, 0x59F111F1B605D019, 0x923F82A4AF194F9B, 0xAB1C5ED5DA6D8118,
   0xD807AA98A3030242, 0x12835B0145706FBE, 0x243185BE4EE4B28C, 0x550C7DC3D5FFB4E2,
   0x72BE5D74F27B896F, 0x80DEB1FE3B1696B1, 0x9BDC06A725C71235, 0xC19BF174CF692694,
   0xE49B69C19EF14AD2, 0xEFBE4786384F25E3, 0x0FC19DC68B8CD5B5, 0x240CA1CC77AC9C65] ++
  [0x2DE92C6F592B0275, 0x4A7484AA6EA6E483, 0x5CB0A9DCBD41FBD4, 0x76F988DA831153B5,
   0x983E5152EE66DFAB, 0xA831C66D2DB43210, 0xB00327C898FB213F, 0xBF597FC7BEEF0EE4,
   0xC6E00BF33DA88FC2, 0xD5A79147930AA725, 0x06CA6351E003826F, 0x142929670A0E6E70,
   0x27B70A8546D22FFC, 0x2E1B21385C26C926, 0x4D2C6DFC5AC42AED, 0x53380D139D95B3DF,
   0x650A73548BAF63DE, 0x766A0ABB3C77B2A8, 0x81C2C92E47EDAEE6, 0x92722C851482353B] ++
  [0xA2BFE8A14CF10364, 0xA81A664BBC423001, 0xC24B8B70D0F89791, 0xC76C51A30654BE30,
   0xD192E819D6EF5218, 0xD69906245565A910, 0xF40E35855771202A, 0x106AA07032BBD1B8,
   0x19A4C116B8D2D0C8, 0x1E376C085141AB53, 0x2748774CDF8EEB99, 0x34B0BCB5E19B48A8,
   0x391C0CB3C5C95A63, 0x4ED8AA4AE3418ACB, 0x5B9CCA4F7763E373, 0x682E6FF3D6B2B8A3,
   0x748F82EE5DEFB2FC, 0x78A5636F43172F60, 0x84C87814A1F0AB72, 0x8CC702081A6439EC] ++
  [0x90BEFFFA23631E28, 0xA4506CEBDE82BDE9, 0xBEF9A3F7B2C67915, 0xC67178F2E372532B,
   0xCA273ECEEA26619C, 0xD186B8C721C0C207, 0xEADA7DD6CDE0EB1E, 0xF57D4F7FEE6ED178,
   0x06F067AA72176FBA, 0x0A637DC5A2C898A6, 0x113F9804BEF90DAE, 0x1B710B35131C471B,
   0x28DB77F523047D84, 0x32CAAB7B40C72493, 0x3C9EBE0A15C9BEBC, 0x431D67C49C100D4C,
   0x4CC5D4BECB3E42B6, 0x597F299CFC657E2A, 0x5FCB6FAB3AD6FAEC, 0x6C44198C4A475817]

/-- The initial hash value. -/
def shaInit : List (BitVec 64) :=
  [0xCBBB9D5DC1059ED8, 0x629A292A367CD507, 0x9159015A3070DD17, 0x152FECD8F70E5939,
   0x67332667FFC00B31, 0x8EB44A8768581511, 0xDB0C2E0D64F98FA7, 0x47B5481DBEFA4FA4]

/-- The padded message: 0x80, zeros, and the length in bits as 16 big-endian bytes. -/
def shaPad (bs : List Byte) : List Byte :=
  bs ++ [0x80] ++ List.replicate ((239 - bs.length % 128) % 128) 0 ++ (natLe (8 * bs.length) 16).reverse

/-- Big-endian 64-bit words. -/
def beWords : List Byte → List (BitVec 64)
  | a :: b :: c :: d :: e :: f :: g :: h :: t => (a ++ b ++ c ++ d ++ e ++ f ++ g ++ h : BitVec 64) :: beWords t
  | _ => []

def shaS0 (x : BitVec 64) : BitVec 64 := x.rotateRight 1 ^^^ x.rotateRight 8 ^^^ (x >>> 7)
def shaS1 (x : BitVec 64) : BitVec 64 := x.rotateRight 19 ^^^ x.rotateRight 61 ^^^ (x >>> 6)
def shaB0 (x : BitVec 64) : BitVec 64 := x.rotateRight 28 ^^^ x.rotateRight 34 ^^^ x.rotateRight 39
def shaB1 (x : BitVec 64) : BitVec 64 := x.rotateRight 14 ^^^ x.rotateRight 18 ^^^ x.rotateRight 41

/-- n more words of the message schedule; `w` holds the last 16, oldest first. -/
def shaSched : Nat → List (BitVec 64) → List (BitVec 64)
  | 0, _ => []
  | n + 1, w =>
    let x := shaS1 (w.getD 14 0) + w.getD 9 0 + shaS0 (w.getD 1 0) + w.getD 0 0
    x :: shaSched n (w.drop 1 ++ [x])

/-- One round. -/
def shaRound (v : List (BitVec 64)) (kw : BitVec 64) : List (BitVec 64) :=
  match v with
  | [a, b, c, d, e, f, g, h] =>
    let t1 := h + shaB1 e + ((e &&& f) ^^^ (~~~e &&& g)) + kw
    let t2 := shaB0 a + ((a &&& b) ^^^ (a &&& c) ^^^ (b &&& c))
    [t1 + t2, a, b, c, d + t1, e, f, g]
  | v => v

/-- One block of 16 words. -/
def shaBlock (h w : List (BitVec 64)) : List (BitVec 64) :=
  let ws := w ++ shaSched 64 w
  let v := ((shaK.zip ws).map fun p => p.1 + p.2).foldl shaRound h
  List.zipWith (· + ·) h v

/-- n blocks. -/
def shaBlocks : Nat → List (BitVec 64) → List (BitVec 64) → List (BitVec 64)
  | 0, h, _ => h
  | n + 1, h, ws => shaBlocks n (shaBlock h (ws.take 16)) (ws.drop 16)

/-- SHA-384: 48 bytes. -/
def sha384 (bs : List Byte) : List Byte :=
  let ws := beWords (shaPad bs)
  ((shaBlocks (ws.length / 16) shaInit ws).take 6).flatMap fun x => (natLe x.toNat 8).reverse

/-! ## AES-256 -/

/-- The S-box, 16 entries a row, entry 0 lowest. -/
def sboxRows : List Nat :=
  [0x76ABD7FE2B670130C56F6BF27B777C63, 0xC072A49CAFA2D4ADF04759FA7DC982CA, 0x1531D871F1E5A534CCF73F362693FDB7, 0x75B227EBE28012079A059618C323C704,
   0x842FE329B3D63B52A05A6E1B1A2C8309, 0xCF584C4A39BECB6A5BB1FC20ED00D153, 0xA89F3C507F02F94585334D43FBAAEFD0, 0xD2F3FF1021DAB6BCF5389D928F40A351,
   0x73195D643D7EA7C41744975FEC130CCD, 0xDB0B5EDE14B8EE4688902A22DC4F8160, 0x79E4959162ACD3C25C2406490A3A32E0, 0x08AE7A65EAF4566CA94ED58D6D37C8E7,
   0x8A8BBD4B1F74DDE8C6B4A61C2E2578BA, 0x9E1DC186B95735610EF6034866B53E70, 0xDF2855CEE9871E9B948ED9691198F8E1, 0x16BB54B00F2D99416842E6BF0D89A18C]

def sbox (x : Byte) : Byte := BitVec.ofNat 8 (sboxRows.getD (x.toNat / 16) 0 / 2 ^ (8 * (x.toNat % 16)))

/-- Times x in the field of AES. -/
def xtime (a : Byte) : Byte := (a <<< 1) ^^^ (if a.msb then 0x1B else 0)

/-- The four bytes of word i of a list of bytes. -/
def word4 (l : List Byte) (i : Nat) : List Byte := (l.drop (4 * i)).take 4

def xorBytes (a b : List Byte) : List Byte := List.zipWith (· ^^^ ·) a b

/-- Words 8 onward of the key schedule: n more, from the last eight words, at word index i. -/
def aesExpand : Nat → Nat → Byte → List Byte → List Byte
  | 0, _, _, _ => []
  | n + 1, i, rc, w =>
    let last := word4 w 7
    let t := if i % 8 = 0 then
        (match last.map sbox with
         | [a, b, c, d] => [b ^^^ rc, c, d, a]
         | l => l)
      else if i % 8 = 4 then last.map sbox else last
    let x := xorBytes (word4 w 0) t
    x ++ aesExpand n (i + 1) (if i % 8 = 0 then xtime rc else rc) (w.drop 4 ++ x)

/-- The 15 round keys, 240 bytes. -/
def aesKeys (key : List Byte) : List Byte := key ++ aesExpand 52 8 1 key

/-- ShiftRows on 16 bytes in column order. -/
def shiftRows (s : List Byte) : List Byte := (List.range 16).map fun i => s.getD ((i + 4 * (i % 4)) % 16) 0

def mixColumn (c : List Byte) : List Byte :=
  match c with
  | [a, b, d, e] =>
    let t := a ^^^ b ^^^ d ^^^ e
    [a ^^^ t ^^^ xtime (a ^^^ b), b ^^^ t ^^^ xtime (b ^^^ d), d ^^^ t ^^^ xtime (d ^^^ e), e ^^^ t ^^^ xtime (e ^^^ a)]
  | c => c

def mixColumns (s : List Byte) : List Byte := (List.range 4).flatMap fun i => mixColumn (word4 s i)

/-- Rounds 14 − n + 1 to 14, with the round keys left. -/
def aesRounds : Nat → List Byte → List Byte → List Byte
  | 0, s, _ => s
  | n + 1, s, ks =>
    let t := shiftRows (s.map sbox)
    aesRounds n (xorBytes (if n = 0 then t else mixColumns t) (ks.take 16)) (ks.drop 16)

/-- One block under expanded keys. -/
def aesBlock (ks s : List Byte) : List Byte := aesRounds 14 (xorBytes s (ks.take 16)) (ks.drop 16)

/-! ## GCM -/

/-- Big-endian bytes as a number. -/
def beNat (bs : List Byte) : Nat := leNat bs.reverse

/-- Multiplication of GHASH: x's most significant bit is the coefficient of 1. -/
def ghashMul (x y : Nat) : Nat :=
  ((List.range 128).foldl (fun (a : Nat × Nat) i =>
    (if x.testBit (127 - i) then a.1 ^^^ a.2 else a.1,
     if a.2.testBit 0 then (a.2 / 2) ^^^ (0xE1 * 2 ^ 120) else a.2 / 2)) (0, y)).1

/-- Bytes in blocks of 16, the last padded with zeros; n bounds the blocks. -/
def blocks16 : Nat → List Byte → List (List Byte)
  | 0, _ => []
  | n + 1, bs => if bs.isEmpty then [] else (bs.take 16 ++ List.replicate (16 - bs.length) 0) :: blocks16 n (bs.drop 16)

def blocksOf (bs : List Byte) : List (List Byte) := blocks16 (bs.length / 16 + 1) bs

/-- GHASH of the AAD and the ciphertext. -/
def ghash (h : Nat) (aad ct : List Byte) : Nat :=
  let lens := (natLe (8 * aad.length) 8).reverse ++ (natLe (8 * ct.length) 8).reverse
  (blocksOf aad ++ blocksOf ct ++ [lens]).foldl (fun y b => ghashMul (y ^^^ beNat b) h) 0

/-- The counter block of a 96-bit IV. -/
def gcmCtr (iv : List Byte) (n : Nat) : List Byte := iv ++ (natLe n 4).reverse

/-- The keystream applied to data: encryption and decryption. -/
def gcmCrypt (key iv data : List Byte) : List Byte :=
  let ks := aesKeys key
  let stream := (List.range ((data.length + 15) / 16)).flatMap fun i => aesBlock ks (gcmCtr iv (i + 2))
  xorBytes data stream

/-- The 16-byte tag over AAD and ciphertext. -/
def gcmTag (key iv aad ct : List Byte) : List Byte :=
  let ks := aesKeys key
  let h := beNat (aesBlock ks (List.replicate 16 0))
  xorBytes (natLe (ghash h aad ct) 16).reverse (aesBlock ks (gcmCtr iv 1))

end Sys2Proof.Machine
end

