-- ==== Sys2Proof/Machine/Groups.lean ====
section
/-! DEFINITION. Groups and teams as they start, join, leave and end (07 R159 to R160, R169 to R175; 03 R57; 13 R312,
R314), and what they hold of their core (14 Table 14.4, 07 R174). -/

namespace Sys2Proof.Machine

/-! ## What a core's teams hold (Table 14.4) -/

def Team.regs (t : Team) (r : Role) : Nat := (t.role r).regs

def roles3 : List Role := [.copy, .matrix, .vector]

/-- The role of a code (R158). -/
def roleOf (n : Nat) : Role := if n = 0 then .copy else if n = 1 then .matrix else .vector

def sumOf (l : List Nat) : Nat := l.foldl (· + ·) 0

/-- Register units held by a team: its live groups and its accepted joins. -/
def Team.unitsHeld (t : Team) : Nat :=
  sumOf (t.groups.map (·.2.units)) + sumOf (t.joins.map fun j => t.regs j.1)

def Team.groupsHeld (t : Team) : Nat := t.groups.length + t.joins.length

def Core.unitsHeld (k : Core) : Nat := sumOf (k.teams.map (·.2.unitsHeld))
def Core.groupsHeld (k : Core) : Nat := sumOf (k.teams.map (·.2.groupsHeld))

/-- The lowest number below n that is not in a list. -/
def lowestFree (n : Nat) (used : List Nat) : Option Nat := (List.range n).find? fun i => !used.contains i

/-- The lowest free group index of a team, accepted joins counted. -/
def Team.freeIndex (t : Team) : Option Nat := lowestFree 32 (tblKeys t.groups ++ t.joins.map (·.2.1))

/-- The lowest free private slot of a grid (R18): the list is never longer than the groups it holds. -/
def Grid.freeSlot (g : Grid) : Option Nat :=
  if g.launch.slots ≤ g.slotsHeld.length then none else lowestFree (g.slotsHeld.length + 1) g.slotsHeld

/-- The lines of a reservation. -/
def Team.lines (t : Team) : List Nat := (List.range t.scr).map (· + t.base)

/-! ## Starting and joining (R159, R160, R172) -/

/-- A group at its start value. -/
def Group.start (uid : Nat) (role : Role) (units pslot age : Nat) (entry : PAddr) : Group :=
  { uid := uid, role := role, units := units, pslot := pslot, ft := 0, tw := 32,
    lanes := (List.range 32).map fun l => (l, Lane.start entry), traps := 0, age := age, lls := 0, heldW := 0,
    mayIssue := true, throttled := false, passed := 0, entryCheck := true }

/-- Put a new group into a team: LIVE and the grid's private slot follow. -/
def State.addGroup (s : State) (core slot : Nat) (role : Role) (g pslot : Nat) (entry : PAddr) : State :=
  let t := s.team core slot
  let (uid, s) := s.name
  let x := Group.start uid role (t.regs role) pslot (s.core core).ages entry
  let s := s.updCore core fun k => { k with ages := k.ages + 1 }
  s.updTeam core slot fun t =>
    { t with groups := tblSet t.groups g x
             roles := tblAdj t.roles (roleNum role) fun c => { c with live := c.live + 1 } }

/-- A joining group's lanes are new members of the barriers that cover its role; each barrier is checked (R172, R173). -/
def Team.joinBarriers (t : Team) (g : Nat) (role : Role) : Team :=
  (t.covering role).foldl (fun t b =>
    let t := t.updGroup g fun x => { x with lanes := tblMap (fun _ l => { l with new := bitSet l.new b true }) x.lanes }
    let t := { t with bars := tblAdj t.bars b fun q => { q with join := q.join + 32 } }
    t.check b 64) t

/-- A group joins a running team at its role's JOIN_PC. -/
def State.joinGroup (s : State) (core slot : Nat) (role : Role) (g pslot : Nat) : State :=
  let entry := ((s.team core slot).entry role).joinPc
  (s.addGroup core slot role g pslot entry).updTeam core slot (·.joinBarriers g role)

/-- The accepted joins of a core's teams land, at the cycle boundary (R174). -/
def State.landJoins (s : State) (core : Nat) : State :=
  (tblKeys (s.core core).teams).foldl (fun s slot =>
    let js := (s.team core slot).joins
    let s := s.updTeam core slot fun t => { t with joins := [] }
    js.foldl (fun s j => s.joinGroup core slot j.1 j.2.1 j.2.2) s) s

/-- The conditions of R174, less JOIN_EN's: the role can take one more group now. -/
def State.canJoin (s : State) (core slot : Nat) (role : Role) : Bool :=
  let k := s.core core
  let t := k.team slot
  let coming := (t.joins.filter fun j => j.1 == role).length
  (t.role role).live + coming < (t.role role).gmax && k.unitsHeld + t.regs role ≤ 64 && k.groupsHeld < 64
    && t.freeIndex.isSome && (s.grid t.grid).freeSlot.isSome

/-- Accept a join of a role (R174): its index and private slot are taken at once. -/
def State.acceptJoin (s : State) (core slot : Nat) (role : Role) : State :=
  let t := s.team core slot
  match t.freeIndex, (s.grid t.grid).freeSlot with
  | some g, some p =>
    let s := s.updGrid t.grid fun q => { q with slotsHeld := p :: q.slotsHeld }
    s.updTeam core slot fun t => { t with joins := t.joins ++ [(role, g, p)] }
  | _, _ => s

/-! ## The gang when a member leaves (R312, R314) -/

/-- The FLAG of a joint operation. -/
def JointOp.flag : JointOp → FlagSel
  | .mma f => f.flag
  | .epi f => f.flag

/-- Members that have claimed scale entries take them out of the queues, in order. -/
def takeClaims (q : Tbl (List ScaleSet)) : List Member → Tbl (List ScaleSet) × List Member
  | [] => (q, [])
  | m :: t =>
    match m.claimed && m.own.isNone, tblGet [] q m.pos with
    | true, x :: r =>
      let (q, ms) := takeClaims (tblSet q m.pos r) t
      (q, { m with own := some x } :: ms)
    | _, _ =>
      let (q, ms) := takeClaims q t
      (q, m :: ms)

/-- Operations that the engine holds take their entries. -/
def takeHeld (q : Tbl (List ScaleSet)) : List Latch → List Latch
  | [] => []
  | la :: t =>
    let (q, ms) := takeClaims q la.members
    { la with members := ms } :: takeHeld q t

/-- The gang breaks in the engine: its queues go, but for the entries that released operations have claimed (R314, R323). -/
def Engine.breakGang (e : Engine) : Engine :=
  { e with gang := e.gang &&& ~~~((7 : BitVec 64) <<< 32), latch := none, reuse := none, held := takeHeld e.scales e.held,
           scales := [], token := false }

/-- The flag that an operation's members set falls in their lanes (R307, R314). -/
def Core.clearFlags (k : Core) (flag : FlagSel) (ms : List Member) : Core :=
  match flag with
  | none => k
  | some f => ms.foldl (fun k m =>
      k.updByUid m.uid fun g => g.mapLanes (lanesOf m.lanes) fun _ x => x.dropFlag m.tl f.val) k

/-- A group of a team leaves: a gang that lists it ends, and a latched operation is discarded with a gang-broken
fault of each other member. -/
def State.leaveGang (s : State) (core slot g : Nat) : State :=
  let k := s.core core
  let e := k.engine
  let listed := (List.range (e.gang.extractLsb' 32 3).toNat).any fun p => (e.gang.extractLsb' (5 * p) 5).toNat == g
  if k.owner = some slot && listed then
    match e.latch with
    | none => s.updCore core fun k => { k with engine := e.breakGang }
    | some la =>
      let s := s.updCore core fun k => { k.clearFlags la.op.flag la.members with engine := e.breakGang }
      (la.members.filter fun m => m.group != g).foldl (fun s m =>
        s.report core { code := 0x0B, uid := m.uid, slot := slot, group := m.group, lanes := m.lanes, pc := m.pc,
                        addr := 0, aux := BitVec.ofNat 64 g, merged := false, tl := false, orig := 0, late := true }) s
  else s

/-! ## Leaving and ending (R57, R171, R175) -/

/-- Free a reservation: a line whose OUT is not 0 stays out of allocation (R57). -/
def Core.freeLines (k : Core) (t : Team) : Core :=
  { k with freed := (t.lines.filter fun l => 0 < tblGet 0 k.outs l) ++ k.freed
           zeroing := k.zeroing.filter fun l => !t.lines.contains l }

/-- A context switch drops the pins of a core's L1 structure (R83). -/
def State.dropPins (s : State) (core : Nat) : State := s.updL1 (s.l1Of core) fun l => { l with pins := [] }

/-- A grid has a team on a core. -/
def Core.hosts (k : Core) (gid : Nat) : Bool := k.teams.any fun t => t.2.grid == gid

/-- A team ends: its reservation, engine and rank are freed. -/
def State.endTeam (s : State) (core slot : Nat) : State :=
  let t := s.team core slot
  let s := s.updCore core fun k =>
    { k.freeLines t with teams := tblDel k.teams slot, owner := if k.owner = some slot then none else k.owner }
  let s := if (s.core core).hosts t.grid then s else s.dropPins core
  let s := s.updCluster (clusterOf core) fun c =>
    { c with ranks := c.ranks.filter fun e => !e.isOf t }
  s.updGrid t.grid fun g =>
    { g with liveTeams := g.liveTeams - 1, slotsHeld := g.slotsHeld.filter fun p => !(t.joins.any fun j => j.2.2 == p) }

/-- A group ends: its index, registers and private slot are freed, LIVE and SHRINK fall (R171, R176), and with the
team's last group the team ends. -/
def State.endGroup (s : State) (core slot g : Nat) : State :=
  let t := s.team core slot
  let x := t.group g
  let s := s.leaveGang core slot g
  let s := s.updTeam core slot fun t =>
    { t with groups := tblDel t.groups g
             roles := tblAdj t.roles (roleNum x.role) fun c => { c with live := c.live - 1, shrink := c.shrink - 1 } }
  let s := s.updGrid t.grid fun q => { q with slotsHeld := q.slotsHeld.filter (· != x.pslot) }
  if (s.team core slot).groups.isEmpty then s.endTeam core slot else s

/-- A lane is deducted from every barrier that covers its group's role, ascending (R171). -/
def Team.deductAll (t : Team) (g l : Nat) : Team :=
  (t.covering (t.group g).role).foldl (fun t b => t.deduct g l b) t

/-- A lane exits: EXITED, then its deductions (R230, R171). -/
def Team.exitLane (t : Team) (g l : Nat) : Team :=
  (t.updGroup g fun x => x.updLane l fun y => { y with status := .exited, waitOn := .nothing }).deductAll g l

/-- The whole group leaves (R175): every live lane is deducted, then the group ends. -/
def State.detachGroup (s : State) (core slot g : Nat) : State :=
  let s := s.updTeam core slot fun t => (t.group g).liveLanes.foldl (fun t l => t.exitLane g l) t
  s.endGroup core slot g

end Sys2Proof.Machine
end

