-- ==== Sys2Proof/Machine/Flags.lean ====
section
/-! DEFINITION. Guard computations (10 R243 to R248): integer relations, combining operators, guard operators. Float
relations and classes stand in Float.lean, with the number formats they read. -/

namespace Sys2Proof.Machine

/-- A width W number as signed (U = 0) or unsigned (U = 1) (R226). -/
def valOf (w : Nat) (u : Bool) (x : Nat) : Int :=
  if u || x < 2 ^ (w - 1) then (x : Int) else (x : Int) - 2 ^ w

/-- A relation of codes 0 to 5 from the order of two numbers (Table 10.5). -/
def relInt (c : Cond) (a b : Int) : Bool :=
  match c with
  | .eq | .equ => a == b
  | .ne | .neu => a != b
  | .lt | .ltu => a < b
  | .le | .leu => a ≤ b
  | .gt | .gtu => b < a
  | .ge | .geu => b ≤ a
  | .num | .nan => false

/-- combine(op, compare, gC) (R243). -/
def combine (op : Comb) (x g : Bool) : Bool :=
  match op with
  | .none => x
  | .and => x && g
  | .or => x || g
  | .xor => x != g

/-- op(gA, gB) (R245). -/
def guardOp (op : GOp) (a b : Bool) : Bool :=
  match op with
  | .and => a && b
  | .or => a || b
  | .xor => a != b

end Sys2Proof.Machine
end

