-- ==== Sys2Proof/Machine/Integer.lean ====
section
/-! DEFINITION. Integer and bit operations, and compare, guard and select (10 R226 to R229, R236 to R247). Results
are computed exactly on integers and narrowed to W bits at the end. -/

namespace Sys2Proof.Machine

/-- W of a type. -/
def ITy.bits (t : ITy) : Nat := if t.w then 64 else 32

/-- x mod 2^W. -/
def narrow (w : Nat) (x : Int) : Nat := (x % 2 ^ w).toNat

/-- sat(x): clamp to the range of the type (R236). -/
def satTo (w : Nat) (u : Bool) (x : Int) : Int :=
  let lo : Int := if u then 0 else -(2 ^ (w - 1))
  let hi : Int := if u then 2 ^ w - 1 else 2 ^ (w - 1) - 1
  if x < lo then lo else if hi < x then hi else x

/-! ## The functions of Table 10.2, on W-bit numbers -/

def intAdd (w : Nat) (u sat : Bool) (a b : Nat) : Nat :=
  let x := valOf w u a + valOf w u b
  narrow w (if sat then satTo w u x else x)

def intSub (w : Nat) (u sat : Bool) (a b : Nat) : Nat :=
  let x := valOf w u a - valOf w u b
  narrow w (if sat then satTo w u x else x)

def intMul (w : Nat) (a b : Nat) : Nat := a * b % 2 ^ w

def intMulhi (w : Nat) (u : Bool) (a b : Nat) : Nat := narrow w ((valOf w u a * valOf w u b) / 2 ^ w)

def intMin (w : Nat) (u : Bool) (a b : Nat) : Nat := if valOf w u b < valOf w u a then b else a
def intMax (w : Nat) (u : Bool) (a b : Nat) : Nat := if valOf w u a < valOf w u b then b else a

def intAbs (w : Nat) (sat : Bool) (a : Nat) : Nat :=
  let v := valOf w false a
  let x := if v < 0 then -v else v
  narrow w (if sat then satTo w false x else x)

def intNeg (w : Nat) (u sat : Bool) (a : Nat) : Nat :=
  let x := -(valOf w u a)
  narrow w (if sat then satTo w u x else x)

/-- div (R237). -/
def intDiv (w : Nat) (u : Bool) (a b : Nat) : Nat :=
  if b = 0 then 2 ^ w - 1 else narrow w ((valOf w u a).tdiv (valOf w u b))

/-- rem (R237). -/
def intRem (w : Nat) (u : Bool) (a b : Nat) : Nat :=
  if b = 0 then a else narrow w ((valOf w u a).tmod (valOf w u b))

def intSad (w : Nat) (u : Bool) (a b c : Nat) : Nat :=
  let d := valOf w u a - valOf w u b
  narrow w ((if d < 0 then -d else d) + valOf w u c)

def intNot (w a : Nat) : Nat := 2 ^ w - 1 - a
def intShl (w a n : Nat) : Nat := if w ≤ n then 0 else a <<< n % 2 ^ w
def intShr (w a n : Nat) : Nat := if w ≤ n then 0 else a >>> n
def intSar (w a n : Nat) : Nat := narrow w (valOf w false a / 2 ^ min n (w - 1))
def intRotl (w a n : Nat) : Nat := let k := n % w; (a <<< k ||| a >>> (w - k)) % 2 ^ w

/-- The bits of a number, lowest first. -/
def bitsOf (w a : Nat) : List Bool := (List.range w).map a.testBit
/-- A number from its bits, lowest first. -/
def ofBits : List Bool → Nat
  | [] => 0
  | b :: t => (if b then 1 else 0) + 2 * ofBits t

def intPopc (w a : Nat) : Nat := (bitsOf w a).countP id
def intClz (w a : Nat) : Nat := if a = 0 then w else w - 1 - Nat.log2 a
def intBrev (w a : Nat) : Nat := ofBits (bitsOf w a).reverse

/-- bfe (R238). -/
def intBfe (w : Nat) (u : Bool) (a b c : Nat) : Nat :=
  let pos := b % 256
  let n := min (c % 256) w
  let x := (a >>> pos) % 2 ^ n
  if n = 0 then 0 else if u then x else narrow w (valOf n false x)

/-- bfi (R238): the control is b, the bits to insert a, the base c. -/
def intBfi (w : Nat) (a b c : Nat) : Nat :=
  let pos := b % 256
  let hi := min (pos + b / 256 % 256) w
  ofBits ((List.range w).map fun j => if pos ≤ j ∧ j < hi then a.testBit (j - pos) else c.testBit j)

/-- lea (R239). -/
def intLea (u : Bool) (k a b c : Nat) : Nat := narrow 64 ((a : Int) + valOf 32 u b * 2 ^ k + c)

/-- fsh (R239): p is b:a. -/
def intFsh (w : Nat) (left : Bool) (a b c : Nat) : Nat :=
  let p := b * 2 ^ w + a
  let n := c % w
  if left then p >>> (w - n) % 2 ^ w else p >>> n % 2 ^ w

/-- perm (R239). -/
def intPerm (a b c : Nat) : Nat :=
  let pool := b * 2 ^ 32 + a
  let one := fun i =>
    let nib := c >>> (4 * i) % 16
    let byte := pool >>> (8 * (nib % 8)) % 256
    if nib < 8 then byte else if 128 ≤ byte then 255 else 0
  one 0 + 2 ^ 8 * one 1 + 2 ^ 16 * one 2 + 2 ^ 24 * one 3

/-- lop3 (R239). -/
def intLop3 (w tt a b c : Nat) : Nat :=
  let bit := fun (x : Nat) j => if x.testBit j then 1 else 0
  ofBits ((List.range w).map fun j => tt.testBit (4 * bit a j + 2 * bit b j + bit c j))

/-! ## Operands at width W -/

/-- A source at width W, as a number below 2^W. -/
def State.srcW (s : State) (w64 : Bool) (k l : Nat) (x : Src) : Nat :=
  if w64 then (s.src64 k l x).toNat else (s.src32 k l x).toNat

/-- Write a W-bit result in every issuing lane. -/
def State.putW (s : State) (flag : FlagSel) (w64 : Bool) (dst : BitVec 10) (v : Nat → Nat) : State :=
  if w64 then s.put64 flag dst fun l => BitVec.ofNat 64 (v l) else s.put32 flag dst fun l => BitVec.ofNat 32 (v l)

/-- An immediate at width W (R215, R240). -/
def State.immW (s : State) (w64 : Bool) (imm : BitVec 20) : Nat :=
  if w64 then (s.imm48 imm).toNat else (lowWord (s.imm48 imm)).toNat

/-- An illegal-instruction check of the instruction itself: FLT_AUX is its parcel (Table 15.1). -/
def State.illegal (s : State) (ok : Bool) : Option FaultInfo := s.demand ok 0x04 (s.issue.line.headD 0).toNat

/-- A destination of a width and sources of widths (R209). -/
def State.regForm (s : State) (dn : Nat) (dst : BitVec 10) (srcs : List (Nat × Src)) : Option FaultInfo :=
  s.operands (s.regsOk dn dst.toNat :: srcs.map fun c => s.srcOk c.1 c.2)

/-- Two sources at width W, a result at width W. -/
def State.intBin (s : State) (f : VBin) (op : Nat → Nat → Nat) : State :=
  let n := wRegs f.t.w
  s.orFault [s.regForm n f.h.dst [(n, f.a), (n, f.b)]]
    (s.putW f.h.flag f.t.w f.h.dst fun l => op (s.srcW f.t.w 0 l f.a) (s.srcW f.t.w 1 l f.b))

/-- A source at width W and a 32-bit count. -/
def State.intShift (s : State) (f : VBin) (op : Nat → Nat → Nat) : State :=
  let n := wRegs f.t.w
  s.orFault [s.regForm n f.h.dst [(n, f.a), (1, f.b)]]
    (s.putW f.h.flag f.t.w f.h.dst fun l => op (s.srcW f.t.w 0 l f.a) (s.src32 1 l f.b).toNat)

/-- One source at width W, a result of its own width. -/
def State.intUn (s : State) (f : VUn) (dw : Bool) (op : Nat → Nat) : State :=
  s.orFault [s.regForm (wRegs dw) f.h.dst [(wRegs f.t.w, f.a)]]
    (s.putW f.h.flag dw f.h.dst fun l => op (s.srcW f.t.w 0 l f.a))

/-- Three sources, each with its width, a result at width W. -/
def State.intTri (s : State) (f : TInt) (bw cw : Bool) (op : Nat → Nat → Nat → Nat) : State :=
  let n := wRegs f.t.w
  s.orFault [s.regForm n f.h.dst [(n, f.a), (wRegs bw, f.b), (wRegs cw, f.c)]]
    (s.putW f.h.flag f.t.w f.h.dst fun l => op (s.srcW f.t.w 0 l f.a) (s.srcW bw 1 l f.b) (s.srcW cw 2 l f.c))

/-- A source and an immediate at width W. -/
def State.intImm (s : State) (f : IForm) (limits : Bool) (op : Nat → Nat → Nat) : State :=
  let n := wRegs f.t.w
  s.orFault [s.illegal limits, s.regForm n f.dst [(n, f.a)]]
    (s.putW none f.t.w f.dst fun l => op (s.srcW f.t.w 0 l f.a) (s.immW f.t.w f.imm))

/-- The immediate of a shift form lies from 0 to W − 1 (Table 10.4). -/
def State.shiftLimit (s : State) (f : IForm) : Bool := (s.imm48 f.imm).toNat < ITy.bits f.t

/-! ## Register forms -/

/-- add (Table 10.2). -/
def execAdd (f : VBin) (s : State) : Result := .next (s.intBin f (intAdd (ITy.bits f.t) f.t.u f.m))
/-- sub (Table 10.2). -/
def execSub (f : VBin) (s : State) : Result := .next (s.intBin f (intSub (ITy.bits f.t) f.t.u f.m))
/-- mul (Table 10.2). -/
def execMul (f : VBin) (s : State) : Result := .next (s.intBin f (intMul (ITy.bits f.t)))
/-- mulhi (Table 10.2). -/
def execMulhi (f : VBin) (s : State) : Result := .next (s.intBin f (intMulhi (ITy.bits f.t) f.t.u))
/-- mad (Table 10.2). -/
def execMad (f : TInt) (s : State) : Result :=
  .next (s.intTri f f.t.w f.t.w fun a b c => (a * b + c) % 2 ^ ITy.bits f.t)
/-- min (Table 10.2). -/
def execMin (f : VBin) (s : State) : Result := .next (s.intBin f (intMin (ITy.bits f.t) f.t.u))
/-- max (Table 10.2). -/
def execMax (f : VBin) (s : State) : Result := .next (s.intBin f (intMax (ITy.bits f.t) f.t.u))
/-- abs (Table 10.2). -/
def execAbs (f : VUn) (s : State) : Result := .next (s.intUn f f.t.w (intAbs (ITy.bits f.t) f.m))
/-- neg (Table 10.2). -/
def execNeg (f : VUn) (s : State) : Result := .next (s.intUn f f.t.w (intNeg (ITy.bits f.t) f.t.u f.m))
/-- div (R237). -/
def execDiv (f : VBin) (s : State) : Result := .next (s.intBin f (intDiv (ITy.bits f.t) f.t.u))
/-- rem (R237). -/
def execRem (f : VBin) (s : State) : Result := .next (s.intBin f (intRem (ITy.bits f.t) f.t.u))
/-- sad (Table 10.2). -/
def execSad (f : TInt) (s : State) : Result := .next (s.intTri f f.t.w f.t.w (intSad (ITy.bits f.t) f.t.u))

/-- mulw (Table 10.2): the exact product of two 32-bit numbers. -/
def execMulw (f : VBin) (s : State) : Result :=
  .next (s.orFault [s.regForm 2 f.h.dst [(1, f.a), (1, f.b)]]
    (s.putW f.h.flag true f.h.dst fun l =>
      narrow 64 (valOf 32 f.t.u (s.srcW false 0 l f.a) * valOf 32 f.t.u (s.srcW false 1 l f.b))))

/-- and (Table 10.2). -/
def execAnd (f : VBin) (s : State) : Result := .next (s.intBin f fun a b => a &&& b)
/-- or (Table 10.2). -/
def execOr (f : VBin) (s : State) : Result := .next (s.intBin f fun a b => a ||| b)
/-- xor (Table 10.2). -/
def execXor (f : VBin) (s : State) : Result := .next (s.intBin f fun a b => a ^^^ b)
/-- not (Table 10.2). -/
def execNot (f : VUn) (s : State) : Result := .next (s.intUn f f.t.w (intNot (ITy.bits f.t)))
/-- shl (Table 10.2). -/
def execShl (f : VBin) (s : State) : Result := .next (s.intShift f (intShl (ITy.bits f.t)))
/-- shr (Table 10.2). -/
def execShr (f : VBin) (s : State) : Result := .next (s.intShift f (intShr (ITy.bits f.t)))
/-- sar (Table 10.2). -/
def execSar (f : VBin) (s : State) : Result := .next (s.intShift f (intSar (ITy.bits f.t)))
/-- rotl (Table 10.2). -/
def execRotl (f : VBin) (s : State) : Result := .next (s.intShift f (intRotl (ITy.bits f.t)))
/-- popc (Table 10.2): a 32-bit result at any W. -/
def execPopc (f : VUn) (s : State) : Result := .next (s.intUn f false (intPopc (ITy.bits f.t)))
/-- clz (Table 10.2): a 32-bit result at any W. -/
def execClz (f : VUn) (s : State) : Result := .next (s.intUn f false (intClz (ITy.bits f.t)))
/-- brev (Table 10.2). -/
def execBrev (f : VUn) (s : State) : Result := .next (s.intUn f f.t.w (intBrev (ITy.bits f.t)))
/-- bfe (R238). -/
def execBfe (f : TInt) (s : State) : Result := .next (s.intTri f false false (intBfe (ITy.bits f.t) f.t.u))
/-- bfi (R238). -/
def execBfi (f : TInt) (s : State) : Result := .next (s.intTri f false f.t.w (intBfi (ITy.bits f.t)))

/-- lea (R239): 64-bit base, addend and result, a 32-bit index. -/
def execLea (f : TInt) (k : BitVec 3) (s : State) : Result :=
  .next (s.orFault [s.regForm 2 f.h.dst [(2, f.a), (1, f.b), (2, f.c)]]
    (s.putW f.h.flag true f.h.dst fun l =>
      intLea f.t.u k.toNat (s.srcW true 0 l f.a) (s.srcW false 1 l f.b) (s.srcW true 2 l f.c)))

/-- fsh (R239). -/
def execFsh (f : TInt) (s : State) : Result := .next (s.intTri f f.t.w false (intFsh (ITy.bits f.t) f.m))
/-- perm (R239). -/
def execPerm (f : TInt) (s : State) : Result := .next (s.intTri f false false intPerm)
/-- lop3 (R239). -/
def execLop3 (f : TInt) (tt : BitVec 8) (s : State) : Result :=
  .next (s.intTri f f.t.w f.t.w (intLop3 (ITy.bits f.t) tt.toNat))

/-! ## Immediate forms (R240) -/

/-- addi. -/
def execAddi (f : IForm) (s : State) : Result := .next (s.intImm f true (intAdd (ITy.bits f.t) f.t.u f.m))
/-- muli. -/
def execMuli (f : IForm) (s : State) : Result := .next (s.intImm f true (intMul (ITy.bits f.t)))
/-- andi. -/
def execAndi (f : IForm) (s : State) : Result := .next (s.intImm f true fun a b => a &&& b)
/-- ori. -/
def execOri (f : IForm) (s : State) : Result := .next (s.intImm f true fun a b => a ||| b)
/-- xori. -/
def execXori (f : IForm) (s : State) : Result := .next (s.intImm f true fun a b => a ^^^ b)
/-- shli. -/
def execShli (f : IForm) (s : State) : Result := .next (s.intImm f (s.shiftLimit f) (intShl (ITy.bits f.t)))
/-- shri. -/
def execShri (f : IForm) (s : State) : Result := .next (s.intImm f (s.shiftLimit f) (intShr (ITy.bits f.t)))
/-- sari. -/
def execSari (f : IForm) (s : State) : Result := .next (s.intImm f (s.shiftLimit f) (intSar (ITy.bits f.t)))

/-- movi: the destination takes the immediate. -/
def execMovi (f : IForm) (s : State) : Result :=
  .next (s.orFault [s.regForm (wRegs f.t.w) f.dst []] (s.putW none f.t.w f.dst fun _ => s.immW f.t.w f.imm))

/-- mov (R241). -/
def execMov (f : VUn) (s : State) : Result := .next (s.intUn f f.t.w fun a => a)

/-- gtag (R242). -/
def execGtag (dst : BitVec 10) (a : Src) (tag : BitVec 20) (s : State) : Result :=
  .next (s.orFault [s.illegal ((s.imm48 tag).toNat < 16), s.regForm 2 dst [(2, a)]]
    (s.putW none true dst fun l => s.srcW true 0 l a % 2 ^ 60 + (s.imm48 tag).toNat * 2 ^ 60))

/-! ## Compare, guard and select -/

/-- A guard destination is g0 to g6 (R229), and sources of widths. -/
def State.guardForm (s : State) (dst : BitVec 10) (srcs : List (Nat × Src)) : Option FaultInfo :=
  s.operands (decide (dst.toNat < 7) :: srcs.map fun c => s.srcOk c.1 c.2)

/-- icmp (R243). -/
def execIcmp (h : VHead) (cond : Cond) (t : ITy) (op : Comb) (gc : Pred) (a b : Src) (s : State) : Result :=
  let n := wRegs t.w
  let w := ITy.bits t
  .next (s.orFault [s.guardForm h.dst [(n, a), (n, b)]]
    (s.putGuard h.flag h.dst fun l =>
      combine op (relInt cond (valOf w t.u (s.srcW t.w 0 l a)) (valOf w t.u (s.srcW t.w 1 l b)))
        ((s.issLane l).pred gc)))

/-- icmpi (R244). -/
def execIcmpi (dst : BitVec 10) (cond : Cond) (t : ITy) (a : Src) (imm : BitVec 20) (s : State) : Result :=
  let n := wRegs t.w
  let w := ITy.bits t
  .next (s.orFault [s.guardForm dst [(n, a)]]
    (s.putGuard none dst fun l => relInt cond (valOf w t.u (s.srcW t.w 0 l a)) (valOf w t.u (s.immW t.w imm))))

/-- gop (R245). -/
def execGop (h : VHead) (op : GOp) (ga gb : Pred) (s : State) : Result :=
  .next (s.orFault [s.guardForm h.dst []]
    (s.putGuard h.flag h.dst fun l => guardOp op ((s.issLane l).pred ga) ((s.issLane l).pred gb)))

/-- gmov (R246). -/
def execGmov (h : VHead) (m : GMov) (s : State) : Result :=
  match m with
  | .toReg g =>
    .next (s.orFault [s.regForm 1 h.dst []]
      (s.put32 h.flag h.dst fun l => if (s.issLane l).pred g then 1 else 0))
  | .toGuard a =>
    .next (s.orFault [s.guardForm h.dst [(1, a)]] (s.putGuard h.flag h.dst fun l => s.src32 0 l a != 0))

/-- sel (R247): lanes whose predicate is false only advance. -/
def execSel (f : SForm) (s : State) : Result :=
  let n := wRegs f.w
  .next (s.orFault [s.regForm n f.dst [(n, f.a), (n, f.b)]]
    (s.runLanes none fun l x =>
      if x.pred f.guard then
        let v := if x.pred f.gs then s.srcW f.w 0 l f.a else s.srcW f.w 1 l f.b
        if f.w then (x.setReg f.dst.toNat (lowWord (BitVec.ofNat 64 v))).setReg (f.dst.toNat + 1)
          (highWord (BitVec.ofNat 64 v))
        else x.setReg f.dst.toNat (BitVec.ofNat 32 v)
      else x))

end Sys2Proof.Machine
end

