-- ==== Sys2Proof/Machine/Mem.lean ====
section
/-! DEFINITION. Generic addresses and the checks of an access in the order of R13 and R270 (01, 12), translation and
parking (02 R41, 03 R59), and how a memory instruction puts its lanes' accesses into the core's queue (04 R90). -/

namespace Sys2Proof.Machine

/-! ## Addresses (01 R9 to R22) -/

def tagOf (a : DWord) : Nat := a.toNat / 2 ^ 60

/-- Tag valid, with the SP check of Table 9.4 (R13 step 1, R270). -/
def tagOk (sp : Space) (a : DWord) : Bool :=
  match sp with
  | .any => [0x0, 0x8, 0x9, 0xA, 0xC].contains (tagOf a)
  | .g => tagOf a == 0x0
  | .s => tagOf a == 0x8 || tagOf a == 0x9
  | .p => tagOf a == 0xA

/-- Bits 59:0 that the tag leaves no meaning are zero (Table 1.2, R10). -/
def mbzOk (a : DWord) : Bool :=
  let x := a.toNat % 2 ^ 60
  match tagOf a with
  | 0x0 => x < 2 ^ 57
  | 0x8 => x < 2 ^ 18
  | 0x9 => x < 2 ^ 26
  | 0xA => x < 2 ^ 32
  | _ => true

/-- Where an address leads before translation. -/
inductive Addr where
  | virt (va : Nat)
  | at_ (p : Place)
  | bad (code aux : Nat)
  deriving DecidableEq, Repr

def State.cgt (s : State) (peer : Nat) : Cgt := tblGet ⟨false, 0, 0⟩ s.fabric.cgt peer
def State.port (s : State) (p : Nat) : Port := tblGet Port.reset s.fabric.ports p

/-- The ports to a peer that are up (R143). -/
def State.peerPorts (s : State) (peer : Nat) : List Nat :=
  (List.range 12).filter fun p => (s.cgt peer).ports.getLsbD p && (s.port p).up

/-- The peer can be reached (R142). -/
def State.reachable (s : State) (peer : Nat) : Bool :=
  (s.cgt peer).v && (peer == s.fabric.selfId || !(s.peerPorts peer).isEmpty)

/-- Who presents an address: its core, team slot, grid and cohort, private slot and lane. -/
structure Who where
  core   : Nat
  slot   : Nat
  grid   : Nat
  cohort : Nat
  pslot  : Nat
  lane   : Nat
  deriving DecidableEq, Repr

/-- An issuing lane. -/
def State.whoIs (s : State) (l : Nat) : Who :=
  ⟨s.issue.core, s.issue.slot, s.issTeam.grid, s.issTeam.cohort, s.issGroup.pslot, l⟩

/-- Steps 3 and 4 of R13 for n bytes at an address whose tag and zero bits are good (R12, R14, R15, R19, R22). -/
def State.resolve (s : State) (w : Who) (a : DWord) (n : Nat) : Addr :=
  let x := a.toNat % 2 ^ 60
  let g := s.grid w.grid
  match tagOf a with
  | 0x0 => if x + n ≤ 2 ^ 57 then .virt x else .bad 0x03 0
  | 0x8 =>
    let t := s.team w.core w.slot
    if x + n ≤ t.scr * 256 then .at_ (.spad (t.base * 256 + x)) else .bad 0x03 0
  | 0x9 =>
    let rank := x / 2 ^ 18
    let off := x % 2 ^ 18
    let c := clusterOf w.core
    if g.launch.share && ((s.cluster c).rankEntry w.grid w.cohort rank).isSome && off + n ≤ g.launch.scr * 256 then
      .at_ (.rank c rank w.grid w.cohort off)
    else .bad 0x03 0
  | 0xA =>
    let size := 2 ^ g.launch.stride
    if g.launch.slots != 0 && x + n ≤ size then .virt (g.launch.privBase + (w.pslot * 32 + w.lane) * size + x)
    else .bad 0x03 0
  | 0xC =>
    let peer := x / 2 ^ 48
    let off := x % 2 ^ 48
    if off + n ≤ (s.cgt peer).size * 65536 then
      if s.reachable peer then .at_ (.peer peer off none) else .bad 0x0C peer
    else .bad 0x03 0
  | _ => .bad 0x03 0

/-- The checks that come before translation, in the order of R270: tag, zero bits, alignment, limits and peers. -/
def State.preCheck (s : State) (w : Who) (sp : Space) (align n : Nat) (a : DWord) : Option (Nat × Nat) :=
  if !tagOk sp a then some (0x03, 0)
  else if !mbzOk a then some (0x03, 0)
  else if a.toNat % align != 0 then some (0x07, 0)
  else
    match s.resolve w a n with
    | .bad c x => some (c, x)
    | _ => none

/-! ## Translation of an access (R41) -/

/-- The place n bytes on. -/
def Place.plus (p : Place) (n : Nat) : Place :=
  match p with
  | .dev a => .dev (a + n)
  | .host a => .host (a + n)
  | .spad x => .spad (x + n)
  | .rank c r g co off => .rank c r g co (off + n)
  | .peer q off home => .peer q (off + n) (home.map fun h => (h.1 + n, h.2))

/-- The offset of a place in its space. -/
def Place.off : Place → Nat
  | .dev a => a
  | .host a => a
  | .spad x => x
  | .rank _ _ _ _ off => off
  | .peer _ off _ => off

/-- What an access of a lane meets. -/
inductive Reach where
  | ok (p : Place) (ch vpn : Nat)
  | miss (ctx : Nat) (vpns : List Nat)
  | absent (core : Nat) (ls : List Nat)
  | bad (code aux : Nat)
  deriving DecidableEq, Repr

/-- The scratchpad lines of n bytes. -/
def linesOf (at_ n : Nat) : List Nat :=
  if n = 0 then [] else (List.range ((at_ + n - 1) / 256 - at_ / 256 + 1)).map (· + at_ / 256)

/-- The place of a translated byte (R25, R28). -/
def State.placeOf (s : State) (pa : Nat) : Option Place :=
  if s.mem.isMem pa then some (.dev pa)
  else if s.mem.kind pa = .host then some (.host (pa - hostFirst))
  else none

/-- Translation and permission of one page of an access, against the core TLB (R37, R41). -/
def State.reachVirt (s : State) (core ctx va : Nat) (need : Need) : Reach :=
  let vpn := va / 65536
  match tlbFind (s.core core).tlb ctx va with
  | some e =>
    if e.permits need then
      match s.placeOf (e.pa + (va - e.va)) with
      | some p => .ok p e.ch vpn
      | none => .bad 0x03 0
    else .bad 0x02 (auxNeed need va)
  | none =>
    match (s.core core).walkFaults.find? fun f => f.ctx == ctx && f.vpn == vpn with
    | some f =>
      let w := match f.leaf with
        | some e => WalkRes.hole e f.level
        | none => .bad f.code f.level
      .bad (w.fault need va).1 (w.fault need va).2
    | none => .miss ctx [vpn]

/-- The core and team slot that hold a rank now, if its team is not moving (R16). -/
def State.rankAt (s : State) (cluster rank grid cohort : Nat) : Option (Nat × Nat) :=
  match (s.cluster cluster).rankEntry grid cohort rank with
  | some e => if e.moving.isNone then some (e.core, e.slot) else none
  | none => none

/-- The exporter's address of its own window (R22, R23), through the page table of EXP_CTX. What faults there is a
page-permission or a page-not-present fault: an address fault found in the walk is the second. The sum EXP_BASE + WOFF goes to the
walk as it is, and a context that is not live is one like any other (log entry 56). `who` is charged for the errors found (R54). -/
def State.exportAt (s : State) (who : Charge) (woff : Nat) (need : Need) : State × Except (Nat × Nat) (Nat × Nat) :=
  let d := s.descAt s.fabric.expCtx
  let (s, bs) := if s.mem.isMem d then s.hRead who 0 d 8 else (s, [])
  let root := leNat bs / 2 ^ 18 % 2 ^ 34 * 2 ^ 18
  match s.translate who s.fabric.expCtx root (s.fabric.expBase + woff) need with
  | (s, .error (3, x)) => (s, .error (1, x + s.fabric.expBase + woff))
  | r => r

/-- An access to the module's own window (R22, R23): the exporter's refusals and faults are the requester's. Its size is that of
the module's own table entry; EXP_SIZE is not looked at (log entry 56). -/
def State.reachSelf (s : State) (ctx off : Nat) (need : Need) : Reach :=
  match (s.exportAt (.ctx ctx) off need).2 with
  | .error (c, x) => .bad c x
  | .ok h =>
    if need == .load || s.fabric.wrEn then .ok (.peer s.fabric.selfId off (some h)) 0 0
    else .bad 0x02 (s.fabric.expBase + off + need.code * 2 ^ 61)

/-- The walk of the exchange die for an own-window access: what it counts and finds (R22, R55). -/
def State.selfWalk (s : State) (w : Who) (a : DWord) (n : Nat) : State :=
  match s.resolve w a n with
  | .at_ (.peer q off _) => if q = s.fabric.selfId then (s.exportAt (.ctx (s.grid w.grid).ctx) off .load).1 else s
  | _ => s

/-- An access to another module's window: served there, or refused or faulted (R23, log entry 57). -/
def State.reachPeer (s : State) (q off : Nat) (need : Need) : Reach :=
  let key := q * 2 ^ 48 + off
  let u := (Config.unstated s.stamp key).toNat
  match Config.peerAnswer s.stamp key with
  | 1 => .bad 0x01 (u % 2 ^ 57 + (u / 2 ^ 57 % 3 + 1) * 2 ^ 62)
  | 2 => .bad 0x02 (u % 2 ^ 57 + need.code * 2 ^ 61)
  | _ => .ok (.peer q off none) 0 0

/-- What an access of n bytes meets after the checks that come before translation. An access of a rank that is moving goes on, to
wait in the cluster switch (R155). -/
def State.reach (s : State) (w : Who) (a : DWord) (n : Nat) (need : Need) : Reach :=
  let lines := fun (core x : Nat) (p : Place) =>
    let ls := (linesOf x n).filter fun l => !(s.core core).present l
    if ls.isEmpty then Reach.ok p 0 0 else .absent core ls
  match s.resolve w a n with
  | .bad c x => .bad c x
  | .virt va => s.reachVirt w.core (s.grid w.grid).ctx va need
  | .at_ (.spad x) => lines w.core x (.spad x)
  | .at_ (.rank c r g co off) =>
    match s.rankAt c r g co with
    | some (k, slot) => lines k ((s.team k slot).base * 256 + off) (.rank c r g co off)
    | none => .ok (.rank c r g co off) 0 0
  | .at_ (.peer q off _) => if q = s.fabric.selfId then s.reachSelf (s.grid w.grid).ctx off need else s.reachPeer q off need
  | .at_ p => .ok p 0 0

/-- FLT_LANES of a fault: the lanes that meet the code of the lowest failing lane. -/
def badLanes (fs : List (Nat × Nat × Nat)) : LaneMask :=
  match fs with
  | [] => 0
  | (_, c, _) :: _ => maskOf ((fs.filter fun f => f.2.1 == c).map (·.1))

/-- The fault of the lowest failing lane; `fs` lists lane, code and FLT_AUX, ascending. -/
def State.laneFault (s : State) (fs : List (Nat × Nat × Nat)) (addr : Nat → DWord) : Option FaultInfo :=
  match fs with
  | [] => none
  | (l, c, x) :: _ => some ⟨c, badLanes fs, s.issue.p, addr l, BitVec.ofNat 64 x⟩

/-- Record the misses of the issuing core: each asks for one walk, and walks queue in their cluster in arrival order (R41). -/
def State.issWalks (s : State) : List (Nat × Nat) → State
  | [] => s
  | w :: t =>
    let s := s.updIssCore fun k => if k.walks.contains w then k else { k with walks := k.walks ++ [w] }
    let s := s.updCluster (clusterOf s.issue.core) fun c =>
      if c.walks.contains w then c else { c with walks := c.walks ++ [w] }
    s.issWalks t

/-- A fault of a walk is raised once (R41). -/
def State.dropWalkFaults (s : State) (core : Nat) (vs : List (Nat × Nat)) : State :=
  s.updCore core fun k => { k with walkFaults := k.walkFaults.filter fun f => !vs.contains (f.ctx, f.vpn) }

/-- Park lanes, each for its own reason. -/
def State.parkLanes (s : State) (ws : List (Nat × WaitOn)) : State :=
  s.updIssGroup fun g => g.mapLanes (ws.map (·.1)) fun l x =>
    match ws.find? fun c => c.1 == l with
    | some c => x.park c.2
    | none => x

/-- What the lanes of an access do: the lanes that perform, with their places. -/
structure Lanes where
  doing : List (Nat × Place × Nat × Nat)
  parks : List (Nat × WaitOn)
  bads  : List (Nat × Nat × Nat)
  walks : List (Nat × Nat)
  deriving DecidableEq, Repr

/-- Sort the lanes of an access by what they meet. -/
def sortLanes (rs : List (Nat × Reach)) : Lanes :=
  rs.foldl (fun a c =>
    match c.2 with
    | .ok p ch v => { a with doing := a.doing ++ [(c.1, p, ch, v)] }
    | .miss ctx vs => { a with parks := a.parks ++ [(c.1, .walk ctx vs)], walks := a.walks ++ vs.map fun v => (ctx, v) }
    | .absent core ls => { a with parks := a.parks ++ [(c.1, .lines core ls)] }
    | .bad code aux => { a with bads := a.bads ++ [(c.1, code, aux)] }) ⟨[], [], [], []⟩

/-- Peer requests that this module refused as exporter, by the exchange die they entered (R23). -/
def State.countRefused (s : State) (die n : Nat) : State :=
  { s with mgmt := { s.mgmt with peerRefuse := tblUpd 0 s.mgmt.peerRefuse die fun x => (x + n) % 2 ^ 32 } }

/-- The lanes, of those that met a fault, whose access the module refused as the exporter of its own window. -/
def State.refusedOwn (s : State) (addrs : List (Nat × DWord)) (bads : List (Nat × Nat × Nat)) : Nat :=
  (bads.filter fun b => (b.2.1 == 1 || b.2.1 == 2) && addrs.any fun c =>
    c.1 == b.1 && tagOf c.2 == 0xC && c.2.toNat / 2 ^ 48 % 2 ^ 12 == s.fabric.selfId).length

/-- Raise a fault of an access, of the lanes `bads`; the walk faults it met are raised once (R41), and what the module refused as
exporter is counted (R23). -/
def State.raiseOwn (s : State) (addrs : List (Nat × DWord)) (bads : List (Nat × Nat × Nat)) (f : FaultInfo) : State :=
  let vs := addrs.filterMap fun c =>
    match s.resolve (s.whoIs c.1) c.2 1 with
    | .virt va => some (s.issGrid.ctx, va / 65536)
    | _ => none
  ((s.countRefused 0 (s.refusedOwn addrs bads)).dropWalkFaults s.issue.core vs).raise f

/-- The faults of a list of lanes in lane order: a fault of its own, or that of its access. -/
def mergeBads (ls : List Nat) (own : Nat → Option (Nat × Nat)) (bads : List (Nat × Nat × Nat)) :
    List (Nat × Nat × Nat) :=
  ls.filterMap fun l =>
    match own l with
    | some (c, x) => some (l, c, x)
    | none => bads.find? fun b => b.1 == l

/-- A memory instruction (R270, R41), with its checks before translation `pre`. Lanes whose guard is true and whose flag
is full park; of the others, those that reach their bytes perform `act` and advance, as do the lanes whose guard is
false; lanes that miss park; a refusal or a walk's fault is raised for the lanes that meet it. -/
def State.access (s : State) (guard : Pred) (flag : FlagSel) (addr : Nat → DWord) (pre : Nat → Option (Nat × Nat))
    (reach : Nat → Reach) (act : State → List (Nat × Place × Nat × Nat) → State) : State :=
  let on := s.issLanes.filter fun l => (s.issLane l).pred guard
  let sel := on.filter fun l => !(s.issLane l).flagFull flag
  match s.laneFault (mergeBads sel pre []) addr with
  | some f => s.raise f
  | none =>
    let r := sortLanes (sel.map fun l => (l, reach l))
    let s1 := act (sel.foldl (fun s l => s.selfWalk (s.whoIs l) (addr l) 1) s) r.doing
    let s2 := s1.updIssGroup fun g => g.mapLanes s.issLanes fun l x =>
      if sel.contains l then (if (r.doing.map (·.1)).contains l then x.goto s.nextPc else x)
      else if on.contains l then x.parkFlag flag else x.goto s.nextPc
    let s3 := (s2.parkLanes r.parks).issWalks r.walks
    match s.laneFault r.bads addr with
    | none => s3
    | some f => s3.raiseOwn (sel.map fun l => (l, addr l)) r.bads f

/-! ## Items of the queue -/

/-- The order of an access (R216, R274): px.scope gives the ordering and the scope, else relaxed. -/
def State.ordOf (s : State) : MemOrd :=
  match s.issue.scope with
  | some (o, _, _) => o
  | none => .relaxed

def State.scopeSel (s : State) (sc : Scope) : Scope :=
  match s.issue.scope with
  | some (_, x, _) => x
  | none => sc

/-- An item of the issuing group. -/
def State.item (s : State) (id op : Nat) (lanes : LaneMask) (a : Act) (p : Place) (addr : DWord) (ch vpn : Nat)
    (o : MemOrd) (sc : Scope) (after : List Nat) : Item :=
  { id := id, op := op, uid := s.issGroup.uid, team := s.issTeam.uid, ctx := s.issGrid.ctx, grid := s.issTeam.grid,
    lanes := lanes, act := a, place := p, ch := ch, ord := o, scope := sc, after := after, vpn := vpn, inFab := false,
    ended := false, addr := addr, sent := none, wb := none }

/-- Append items to the core's queue. -/
def State.enqueue (s : State) (is : List Item) : State := s.updIssCore fun k => { k with queue := k.queue ++ is }

/-- A part of an access that is performed in one step (R85): its name, what it does and where, and the parts that go
first. -/
structure Piece where
  id    : Nat
  act   : Act
  place : Place
  after : List Nat
  deriving DecidableEq, Repr

/-- The items of one access: its release part before it, its acquire part after it; an .sc access between two
points of fence.sc (R95). The points take the names id + 1 to id + 64. -/
def State.orderedItems (s : State) (id op : Nat) (lanes : LaneMask) (ps : List Piece) (addr : DWord) (ch vpn : Nat)
    (sc : Scope) : List Item :=
  let o := s.ordOf
  let pt := fun (n : Nat) (x : Act) (l : Nat) => s.item n 0 ((1 : BitVec 32) <<< l) x (.dev 0) 0 0 0 .relaxed sc []
  let ls := lanesOf lanes
  let pre : List Item := match o with
    | .rel | .ar => ls.map fun l => pt (id + 1 + l) (.release sc) l
    | .sc => ls.map fun l => pt (id + 1 + l) (.sc sc) l
    | _ => []
  let post : List Item := match o with
    | .acq | .ar => ls.map fun l => pt (id + 33 + l) (.acquire sc) l
    | .sc => ls.map fun l => pt (id + 33 + l) (.sc sc) l
    | _ => []
  pre ++ (ps.map fun x => s.item x.id op lanes x.act x.place addr ch vpn o sc x.after) ++ post

/-- Names that one access takes: its own, a release and an acquire point of each lane, and its second half's. -/
def namesPerAccess : Nat := 66

/-- Record an operation, and set its flag in the lanes that perform it (R212). -/
def State.addOp (s : State) (o : Op) : State :=
  let s := s.updIssCore fun k => { k with ops := tblSet k.ops o.id o }
  match o.flag with
  | none => s
  | some f => s.updIssGroup fun g => g.mapLanes (lanesOf o.lanes) fun _ x => { x with flags := flagInc x.flags f.val }

/-! ## Bytes shared by two accesses -/

/-- A name for a location: two places are the same bytes when their spaces and offsets agree (R17, R21, R84). -/
def State.locOf (s : State) (core : Nat) (p : Place) : Nat × Nat :=
  match p with
  | .dev pa => (0, pa)
  | .host a => (1, a)
  | .spad x => (8192 + core, x)
  | .rank c r g co off =>
    match (s.cluster c).rankEntry g co r with
    | some e => (8192 + e.core, (s.team e.core e.slot).base * 256 + off)
    | none => (2, (((c * 256 + r) * 2 ^ 63 + g) * 2 ^ 40 + co) * 2 ^ 18 + off)
  | .peer _ _ (some (pa, _)) => if s.mem.kind pa = .host then (1, pa - hostFirst) else (0, pa)
  | .peer q off none => (16384 + q, off)

/-- Bytes of an access. -/
def Act.size : Act → Nat
  | .load n => n
  | .store d => d.length
  | .atom _ ty _ => (match ty with
    | .i64 | .n64 => 8
    | _ => 4)
  | .faa w _ => if w then 8 else 4
  | .cas w _ _ => if w then 8 else 4
  | _ => 0

def Act.isPoint : Act → Bool
  | .release _ | .acquire _ | .sc _ => true
  | _ => false

def Act.isLoad : Act → Bool
  | .load _ => true
  | _ => false

/-- A store or an atomic. -/
def Act.writes : Act → Bool
  | .store _ | .atom _ _ _ | .faa _ _ | .cas _ _ _ => true
  | _ => false

/-- A load or an atomic. -/
def Act.reads : Act → Bool
  | .load _ | .atom _ _ _ | .faa _ _ | .cas _ _ _ => true
  | _ => false

/-- Two ranges of a space meet. -/
def meets (a : Nat × Nat) (n : Nat) (b : Nat × Nat) (m : Nat) : Bool :=
  a.1 == b.1 && decide (a.2 < b.2 + m) && decide (b.2 < a.2 + n)

/-- Both go to one 64 B block of one destination (R134). -/
def sameBlock (a b : Nat × Nat) : Bool := a.1 == b.1 && a.2 / 64 == b.2 / 64

/-! ## Paths and windows (R132, R133, R136; Tables 3.4, 6.1, 6.2) -/

/-- The die of the home slice of a location, or of its partition for near memory that the L2 does not cache (R132). -/
def State.homeDie (s : State) (ch pa : Nat) : Nat :=
  match s.mem.kind pa with
  | .near => if s.mgmt.l2Cur || ch == 2 then pa / 0x180000000 else pa / 256 % 8
  | .far => if s.mgmt.l2Cur then (pa - farFirst) / 1024 % 96 % 8 else pa / 256 % 8
  | _ => if s.mgmt.l2Cur then (pa - expFirst) / 1024 % 8 else pa / 256 % 8

/-- The switches that a request to a home die crosses, each with the input port it arrives by. -/
def pathFromCore (core home : Nat) : List (Nat × Nat) :=
  let die := clusterOf core
  if die = home then [(die, core % 256)] else [(die, core % 256), (8 + home % 2, die), (home, 256 + home % 2)]

/-- The path of a request that enters an exchange die by a port. -/
def pathFromExchange (x port home : Nat) : List (Nat × Nat) := [(8 + x, port), (home, 256 + x)]

/-- The 64 B block of a place. -/
def Place.block : Place → Place
  | .dev a => .dev (a / 64 * 64)
  | .host a => .host (a / 64 * 64)
  | .spad x => .spad (x / 64 * 64)
  | .rank c r g co off => .rank c r g co (off / 64 * 64)
  | .peer q off h => .peer q (off / 64 * 64) (h.map fun x => (x.1 / 64 * 64, x.2))

/-- The place that a request names past the exporter of its own window. -/
def Place.target : Place → Place
  | .peer _ _ (some (pa, _)) => .dev pa
  | p => p

/-- How many 64 B blocks n bytes at a place touch. -/
def Place.blocks (p : Place) (n : Nat) : Nat := (p.off % 64 + n + 63) / 64

/-- Some switch on a path holds a request from the same input port to the same block in a window, or behind one: a later request
stays behind it (R136). -/
def Fabric.windowHolds (b : Fabric) (path : List (Nat × Nat)) (p : Place) : Bool :=
  path.any fun h => b.recs.any fun c =>
    c.sw == h.1 && c.isOpen && c.place.block == p.block &&
      ((c.reqs.any fun q => q.port == h.2) || b.reqs.any fun q => q.heldBy == some c.id && q.port == h.2)

/-- The path of a core's request to a place that switches combine requests to; none elsewhere. -/
def State.pathTo (s : State) (core ch : Nat) : Place → List (Nat × Nat)
  | .dev pa => if s.mem.isMem pa then pathFromCore core (s.homeDie ch pa) else []
  | .rank _ _ _ _ _ => [(clusterOf core, core % 256)]
  | .peer _ _ (some (pa, hint)) =>
    if s.mem.isMem pa then
      (clusterOf core, core % 256) :: pathFromExchange 0 (clusterOf core) (s.homeDie hint pa)
    else []
  | _ => []

/-- A window on the way holds back a core's request for n bytes at a place (R136). -/
def State.pathHeld (s : State) (core ch : Nat) (p : Place) (n : Nat) : Bool :=
  (List.range (p.blocks n)).any fun i => s.fabric.windowHolds (s.pathTo core ch p) (p.plus (64 * i)).target

/-! ## Accesses of an instruction itself (R443) -/

/-- The writes of a group that have ended and are still to be applied (R152), in the queues of other cores: its team has moved since
(R368). -/
def State.leftBehind (s : State) (core uid : Nat) : List Item :=
  (s.cores.filter fun c => c.1 != core).flatMap fun c => c.2.queue.filter fun j => j.uid == uid && j.ended

/-- An own access at a place leaves its core as a request. -/
def Place.asked : Place → Bool
  | .dev _ | .spad _ => false
  | _ => true

/-- The earlier items that an own access of a lane to n bytes at a place waits for: the lane's accesses to any of its bytes, and
points that hold it back; and requests of the core to its block that have been sent before (R134). -/
def State.ownBlockers (s : State) (l : Nat) (p : Place) (n : Nat) (store : Bool) : List Nat :=
  let core := s.issue.core
  let first := fun (a : Nat × Nat) => (a.1, a.2 / 64 * 64)
  ((s.issCore.queue ++ s.leftBehind core s.issGroup.uid).filter fun i =>
    (i.uid == s.issGroup.uid && i.lanes.getLsbD l &&
      (match i.act with
       | .release _ => store
       | .acquire _ | .sc _ => true
       | a => meets (s.locOf core i.place) a.size (s.locOf core p) n)) ||
    (p.asked && i.sent.isSome &&
      meets (first (s.locOf core i.place)) 64 (first (s.locOf core p)) (64 * p.blocks n))).map (·.id)

/-- Lines of one set: line numbers that agree modulo the sets of the structure (R65, R73). -/
def l1Sets (id : Nat) : Nat := if id < 2048 then 64 else 16384

/-- The set that holds a line. -/
def L1.set (c : L1) (id line : Nat) : CacheSet := tblGet CacheSet.empty c.sets (line % l1Sets id)

/-- EVICT of every sector of a line. -/
def State.evictLine (s : State) (id line : Nat) : State :=
  (List.range 4).foldl (fun s i =>
    if (tblFind (s.l1At id).sectors (4 * line + i)).isSome then s.sflush id (4 * line + i) else s) s

/-- A line takes a way of its set, or uses the one it has: in a full set a victim leaves, chosen by tree pseudo-LRU among the ways
that are not pinned (R67, R69); a fill of a group records the victim in its core's array (R352). -/
def State.makeRoom (s : State) (id line : Nat) (filler : Option (Nat × Nat)) : State :=
  let c := s.l1At id
  let pinned := fun (x : Nat) => c.pins.any fun p => p.line == x
  let w := (c.set id line).place 3 line fun x => !pinned x
  let take := fun (s : State) => s.updL1 id fun c =>
    { c with sets := tblSet c.sets (line % l1Sets id) ((c.set id line).put 3 w line) }
  match tblFind (c.set id line).ways w with
  | none => take s
  | some v =>
    if v = line then take s
    else if pinned v then s
    else
      let s := take (s.evictLine id v)
      match filler with
      | none => s
      | some (core, uid) => s.updCore core fun k => { k with victims := (⟨v, uid⟩ :: k.victims).take 512 }

/-- A miss of a group counts lost locality where another group's fill evicted the line (R352). -/
def Core.countMiss (k : Core) (uid line : Nat) : Core :=
  if k.victims.any fun v => v.line == line && v.uid != uid then
    let k := k.updByUid uid fun g => { g with lls := satInc 8 g.lls }
    { k with evE := k.evE + 1, victims := k.victims.filter fun v => !(v.line == line && v.uid != uid) }
  else k

/-- A load's sector is made present: a miss is counted, a way found and the sector filled (R67). -/
def State.l1Miss (s : State) (core uid id k : Nat) (who : Charge) (ch : Nat) : State :=
  ((s.updCore core fun c => c.countMiss uid (k / 4)).makeRoom id (k / 4) (some (core, uid))).l1Fill id k who ch

/-- Read a cacheable location through an L1, filling what is missing (a FILL may be taken at any time, R91). -/
def State.l1Read (s : State) (core uid : Nat) (who : Charge) (ch pa n : Nat) : State × List Byte :=
  let id := s.l1Of core
  let s := (sectorsOf pa n).foldl (fun s k =>
    let s := s.l1Error id k (some who)
    let lo := max pa (k * 64)
    let hi := min (pa + n) (k * 64 + 64)
    if (s.sector id k).present (lo - k * 64) (hi - lo) then s.makeRoom id (k / 4) none
    else s.l1Miss core uid id k who ch) s
  (s, (List.range n).map fun i => (s.sector id ((pa + i) / 64)).byte ((pa + i) % 64))

/-- Store to a cacheable location in a core's L1 (R67), sector by sector; a store to a line that is not present misses (R352). -/
def State.l1Store (s : State) (core uid ctx ch pa : Nat) (bs : List Byte) : State :=
  let id := s.l1Of core
  (sectorsOf pa bs.length).foldl (fun s k =>
    let lo := max pa (k * 64)
    let hi := min (pa + bs.length) (k * 64 + 64)
    let put := fun (x : Sector) => x.store (lo - k * 64) ((bs.drop (lo - pa)).take (hi - lo)) ctx ch
    let s := if (((s.l1At id).set id (k / 4)).wayOf (k / 4)).isSome then s else s.updCore core fun c => c.countMiss uid (k / 4)
    (s.makeRoom id (k / 4) none).updL1 id fun c =>
      { c with sectors := tblUpd Sector.absent c.sectors k put }) s

/-! ## Scratchpad bytes (R63) -/

/-- The context that owns the reservation of a core's scratchpad line. -/
def State.lineOwner (s : State) (core line : Nat) : Charge :=
  match (s.core core).teams.find? fun t => t.2.base ≤ line && line < t.2.base + t.2.scr with
  | some t => .ctx (s.grid t.2.grid).ctx
  | none => .unowned

/-- Find the latent error of a scratchpad sector (R63). -/
def State.spadError (s : State) (core k : Nat) : State :=
  match tblFind (s.core core).latent k with
  | none => s
  | some e =>
    let s := s.updCore core fun c => { c with latent := tblDel c.latent k }
    match e with
    | .correctable => { s with mgmt := { s.mgmt with ceCore := tblUpd 0 s.mgmt.ceCore core (wrapInc 32) } }
    | .uncorrectable =>
      (s.updCore core fun c => { c with spad := memErase c.spad (k * 64) 64 }).chargeLoss
        (s.lineOwner core (k / 4)) (clusterOf core % 2)

/-- Find the latent errors of the sectors of n bytes. -/
def State.spadErrors (s : State) (core at_ n : Nat) : State :=
  (sectorsOf at_ n).foldl (fun s k => s.spadError core k) s

def State.spadRead (s : State) (core at_ n : Nat) : State × List Byte :=
  let s := s.spadErrors core at_ n
  (s, memRead (s.core core).spad at_ n)

/-- Write scratchpad bytes: a sector written in part is read first, one written whole is fresh. -/
def State.spadWrite (s : State) (core at_ : Nat) (bs : List Byte) : State :=
  let s := (sectorsOf at_ bs.length).foldl (fun s k =>
    if wholeSector at_ bs.length k then s.updCore core fun c => { c with latent := tblDel c.latent k }
    else s.spadError core k) s
  s.updCore core fun c => { c with spad := memWrite c.spad at_ bs }

/-- Every line of n scratchpad bytes of a core is present (R59). -/
def State.linesPresent (s : State) (core at_ n : Nat) : Bool := (linesOf at_ n).all (s.core core).present

/-- A relaxed load of a lane, as part of its instruction, at a place that `reach` gave; a rank that is moving has been waited for. -/
def State.ownLoad (s : State) (core uid ctx : Nat) (p : Place) (ch n : Nat) : State × List Byte :=
  match p with
  | .dev pa => s.l1Read core uid (.ctx ctx) ch pa n
  | .host a => s.hostAsk (.ctx ctx) a n
  | .spad x => s.spadRead core x n
  | .rank c r g co off =>
    match s.rankAt c r g co with
    | some (k, slot) => s.spadRead k ((s.team k slot).base * 256 + off) n
    | none => (s, List.replicate n 0)
  | .peer _ _ (some (pa, ch)) =>
    if s.mem.isMem pa then s.hRead (.ctx ctx) ch pa n else s.hostAsk (.ctx ctx) (pa - hostFirst) n
  | .peer q off none => (s, memRead (tblGet [] s.mem.peers q) off n)

/-! ## What an own access of each lane meets (R443) -/

/-- The checks and translation of one own access. -/
def State.ownReach (s : State) (l : Nat) (a : DWord) (align n : Nat) (need : Need) : Reach :=
  match s.preCheck (s.whoIs l) .any align n a with
  | some (c, x) => .bad c x
  | none => s.reach (s.whoIs l) a n need

/-- What an own access of n bytes at a place waits for on its way: its rank moves (R155), or the port of the rank's core is stopped (R61); or a
window holds requests of its port to its block, until which the instruction is tried again (R136). -/
def State.ownHolds (s : State) (p : Place) (ch n : Nat) : Option WaitOn :=
  let window := if s.pathHeld s.issue.core ch p n then some (WaitOn.own []) else none
  match p with
  | .dev _ | .spad _ => none
  | .rank c r g co off =>
    (match s.rankAt c r g co with
     | none => some (.rank c r g co off)
     | some (t, _) => if 64 ≤ (s.core t).remote.length then some (.rank c r g co off) else window)
  | _ => window

/-- The walks of the exchange die for own accesses of lanes (R22, R55). -/
def State.selfWalks (s : State) (cs : List (Nat × DWord)) : State := cs.foldl (fun s c => s.selfWalk (s.whoIs c.1) c.2 1) s

/-- Sort the lanes; those with earlier accesses or points to wait for park, and those whose access is held on its way. -/
def State.sortOwn (s : State) (rs : List (Nat × Reach)) (n : Nat) (store : Bool) : Lanes :=
  let r := sortLanes rs
  let wait := fun (c : Nat × Place × Nat × Nat) =>
    let ids := s.ownBlockers c.1 c.2.1 n store
    if !ids.isEmpty then some (WaitOn.own ids) else s.ownHolds c.2.1 c.2.2.1 n
  { r with doing := r.doing.filter fun c => (wait c).isNone
           parks := r.parks ++ r.doing.filterMap fun c => (wait c).map fun w => (c.1, w) }

/-- What a lane waits for lets no higher lane of its instruction go first, where the lanes act in ascending order (R286, R295, R301):
its own earlier accesses, or a request that is held on its way. Lanes that park under R41 and R59 let others pass. -/
def WaitOn.keepsOrder : WaitOn → Bool
  | .own _ | .rank _ _ _ _ _ => true
  | _ => false

/-- Lanes that act in ascending order: those above a lane that waits so wait with it. -/
def Lanes.inOrder (r : Lanes) : Lanes :=
  match r.parks.filter fun c => c.2.keepsOrder with
  | [] => r
  | c :: t =>
    let first := t.foldl (fun a b => if b.1 < a.1 then b else a) c
    { r with doing := r.doing.filter fun d => d.1 < first.1
             parks := r.parks ++ (r.doing.filter fun d => first.1 < d.1).map fun d => (d.1, first.2) }

/-- The place is in host memory, past the module's own window where it leads there (R22, R28). -/
def Mem.inHost (m : Mem) : Place → Bool
  | .host _ => true
  | .peer _ _ (some (pa, _)) => m.kind pa == .host
  | _ => false

/-- A relaxed store of a lane to memory, as part of its instruction: device memory through the core's L1, or host
memory. -/
def State.ownStore (s : State) (core uid ctx : Nat) (p : Place) (ch : Nat) (bs : List Byte) : State :=
  match p with
  | .dev pa => s.l1Store core uid ctx ch pa bs
  | .host a => s.hostPut (.ctx ctx) a bs
  | _ => s

end Sys2Proof.Machine
end

