-- ==== Sys2Proof/Machine/Control.lean ====
section
/-! DEFINITION. Control flow (10 R230 to R235), flwait (09 R213) and the prefixes (09 R214 to R216). -/

namespace Sys2Proof.Machine

/-- nop (R230). -/
def execNop (s : State) : Result := .next (s.orFault [] s.advance)

/-! ## Transfers (R203, R231 to R235) -/

/-- The lanes of a list whose target is not marked: an illegal-branch-target fault that carries the target (R203). -/
def State.badTargets (s : State) (ls : List Nat) (target : Nat → PAddr) : Option FaultInfo :=
  s.laneFault ((ls.filter fun l => !s.marked s.issue.core s.issTeam.grid (target l)).map fun l =>
    (l, 0x06, (target l).toNat)) fun _ => 0

/-- Where a 64-bit value leads: bits 63:57 must be zero (R232). FLT_AUX of the fault is the whole value, where Table 15.1 says
target parcel address, which has 57 bits: the model's choice (log entry 76). -/
def State.badHigh (s : State) (v : Nat → DWord) : Option FaultInfo :=
  s.laneFault ((s.issLanes.filter fun l => 2 ^ 57 ≤ (v l).toNat).map fun l => (l, 0x06, (v l).toNat)) fun _ => 0

/-- The issuing lanes whose guard is true. -/
def State.guarded (s : State) (g : Pred) : List Nat := s.issLanes.filter fun l => (s.issLane l).pred g

/-- The offset of a branch counts from its own parcel (R231). -/
def State.branchTarget (s : State) (off : BitVec 18) : PAddr := s.issue.p + (s.off46 off).setWidth 57

/-- The lanes of a list go to their targets, the other issuing lanes to the next instruction. -/
def State.transfer (s : State) (ls : List Nat) (target : Nat → PAddr) : State :=
  s.updIssGroup fun y => y.mapLanes s.issLanes fun l x => x.goto (if ls.contains l then target l else s.nextPc)

/-- bra (R231). -/
def execBra (g : Pred) (off : BitVec 18) (s : State) : Result :=
  let ls := s.guarded g
  let t := s.branchTarget off
  .next (s.orFault [s.badTargets ls fun _ => t] (s.transfer ls fun _ => t))

/-- brr (R232). -/
def execBrr (a : Src) (s : State) : Result :=
  let v := fun l => s.src64 0 l a
  let t := fun l => (v l).setWidth 57
  .next (s.orFault [s.operands [s.srcOk 2 a], s.badHigh v, s.badTargets s.issLanes t] (s.transfer s.issLanes t))

/-! ## The return stack (R234, R235) -/

/-- Where the entry for depth d − 8 lies: POFF = S − 8 × (d − 8) in the lane's private space. -/
def State.spillAt (s : State) (d : Nat) : DWord :=
  (0xA : BitVec 4) ++ (0 : BitVec 28) ++
    (BitVec.ofNat 32 (2 ^ s.issGrid.launch.stride) - BitVec.ofNat 32 (8 * (d - 8)))

def Lane.slot (x : Lane) (d : Nat) : PAddr := tblGet 0 x.slots (d % 8)

/-- push(L, ra, T), after the spill (R234). -/
def Lane.push (x : Lane) (ra t : PAddr) : Lane :=
  { x with slots := tblSet x.slots ((x.depth + 1) % 8) ra, depth := x.depth + 1 }.goto t

/-- pop(L), with the refilled entry where there is one (R234). -/
def Lane.pop (x : Lane) (refill : Option PAddr) : Lane :=
  let t := x.slot x.depth
  let slots := match refill with
    | some v => tblSet x.slots (x.depth % 8) v
    | none => x.slots
  { x with slots := slots, depth := x.depth - 1 }.goto t

/-- A call that takes the lane past its deepest depth (R161, R234). -/
def Lane.tooDeep (x : Lane) : Bool := 65535 < x.depth + 1 || (x.tl && 8 < x.depth + 1)

/-- call and callr: the lanes of a list push and transfer (R231, R232, R234, R235). A lane that must first wait for
its spill store parks. Where the issue faults, none of its spill stores has been performed: R235 leaves open which have (log entry
76). -/
def State.callLanes (s : State) (checks : List (Option FaultInfo)) (ls : List Nat) (target : Nat → PAddr) : State :=
  let deep := fun l => if (s.issLane l).tooDeep then some (0x04, (s.issue.line.headD 0).toNat) else none
  let spill := ls.filter fun l => !(s.issLane l).tooDeep && 8 < (s.issLane l).depth + 1
  let addr := fun l => s.spillAt ((s.issLane l).depth + 1)
  let r := s.sortOwn (spill.map fun l => (l, s.ownReach l (addr l) 8 8 .store)) 8 true
  let bad := s.laneFault (mergeBads ls deep r.bads) fun l => if (s.issLane l).tooDeep then 0 else addr l
  if s.issue.lanes = 0 then s
  else
    match firstFault (checks ++ [bad, s.badTargets ls target]) with
    | some f => s.raiseOwn (spill.map fun l => (l, addr l)) r.bads f
    | none =>
      let u := r.doing.foldl (fun u c =>
        u.ownStore s.issue.core s.issGroup.uid s.issGrid.ctx c.2.1 c.2.2.1 (natLe ((s.issLane c.1).slot ((s.issLane c.1).depth + 1)).toNat 8)) s
      let stay := r.parks.map (·.1)
      let u := u.updIssGroup fun y => y.mapLanes s.issLanes fun l x =>
        if stay.contains l then x else if ls.contains l then x.push s.nextPc (target l) else x.goto s.nextPc
      (u.parkLanes r.parks).issWalks r.walks

/-- call (R231). -/
def execCall (g : Pred) (off : BitVec 18) (s : State) : Result :=
  let t := s.branchTarget off
  .next (s.callLanes [] (s.guarded g) fun _ => t)

/-- callr (R232). -/
def execCallr (a : Src) (s : State) : Result :=
  let v := fun l => s.src64 0 l a
  .next (s.callLanes [s.operands [s.srcOk 2 a], s.badHigh v] s.issLanes fun l => (v l).setWidth 57)

/-- Refill the popped lanes' slots from memory, lane by lane. -/
def State.refills (s : State) : List (Nat × Place × Nat × Nat) → State × List (Nat × PAddr)
  | [] => (s, [])
  | c :: t =>
    let (s, bs) := s.ownLoad s.issue.core s.issGroup.uid s.issGrid.ctx c.2.1 c.2.2.1 8
    let (s, r) := s.refills t
    (s, (c.1, BitVec.ofNat 57 (leNat bs)) :: r)

/-- ret (R233, R234, R235). -/
def execRet (s : State) : Result :=
  let ls := s.issLanes
  let under := fun l => if (s.issLane l).depth = 0 then some (0x08, 0) else none
  let refill := ls.filter fun l => 8 < (s.issLane l).depth
  let addr := fun l => s.spillAt (s.issLane l).depth
  let r := s.sortOwn (refill.map fun l => (l, s.ownReach l (addr l) 8 8 .load)) 8 false
  let bad := s.laneFault (mergeBads ls under r.bads) fun l => if (s.issLane l).depth = 0 then 0 else addr l
  let target := fun l => (s.issLane l).slot (s.issLane l).depth
  .next (
    if s.issue.lanes = 0 then s
    else
      match firstFault [bad, s.badTargets ls target] with
      | some f => s.raiseOwn (refill.map fun l => (l, addr l)) r.bads f
      | none =>
        let (u, vs) := s.refills r.doing
        let stay := r.parks.map (·.1)
        let u := u.updIssGroup fun y => y.mapLanes ls fun l x =>
          if stay.contains l then x else x.pop (tblFind vs l)
        (u.parkLanes r.parks).issWalks r.walks)

/-- exit (R230, R171). -/
def execExit (s : State) : Result :=
  .next (s.orFault [] (
    let g := s.issue.group
    let u := s.updIssTeam fun t => s.issLanes.foldl (fun t l => t.exitLane g l) t
    if u.issGroup.liveLanes.isEmpty then u.endGroup s.issue.core s.issue.slot g else u))

/-- yield (R230, R163). -/
def execYield (s : State) : Result := .next (s.orFault [] (s.runLanes none fun _ x => { x with yld := true }))

/-! ## Waits -/

/-- Issuing lanes wait, each for its own reason, and set the flag of their instruction; a wait that is already over completes at
once (R212). -/
def State.waitLanes (s : State) (flag : FlagSel) (ls : List Nat) (w : Nat → WaitOn) : State :=
  let u := s.updIssGroup fun y => y.mapLanes ls fun l x => x.await flag (w l)
  ls.foldl (fun u l => u.settleLive s.issue.core s.issue.slot s.issue.group l) u

/-- flwait (R213). -/
def execFlwait (mask : BitVec 12) (s : State) : Result :=
  .next (s.orFault [] (s.waitLanes none s.issLanes fun _ => .flags mask))

/-! ## Prefixes (R214 to R216) -/

/-- The formats that Table 9.6 names, of a parcel. -/
inductive PxFormat where
  | b | i | m | a | other
  deriving DecidableEq, Repr

/-- The class of a parcel, and its major. -/
def classOf (w : Word) : Nat := (w.extractLsb' 0 2).toNat
def majorOf (w : Word) : Nat := (w.extractLsb' 2 8).toNat

/-- The format of an instruction's first parcel, as far as prefixes ask (Table 9.8). -/
def pxFormat (w : Word) : PxFormat :=
  let m := majorOf w
  match classOf w with
  | 0 => if m = 0x02 ∨ m = 0x04 then .b else .other
  | 1 =>
    if (0x40 ≤ m ∧ m ≤ 0x48) ∨ m = 0x4A ∨ m = 0x55 ∨ m = 0xB4 then .i
    else if m = 0xC0 ∨ m = 0xC1 then .m else .other
  | 2 => if m = 0xC4 ∨ m = 0xC5 ∨ m = 0xC6 then .a else .other
  | _ => .other

/-- A lane operation that takes px.tile (Table 9.6). -/
def takesTile (w : Word) : Bool :=
  classOf w == 1 && [0xB0, 0xB1, 0xB2, 0xB3, 0xB5].contains (majorOf w)

/-- The orderings of an access (Table 4.2). -/
def ordTaken (w : Word) (o : MemOrd) : Bool :=
  match pxFormat w with
  | .m => if majorOf w = 0xC0 then [MemOrd.relaxed, .acq, .sc].contains o else [MemOrd.relaxed, .rel, .sc].contains o
  | .a => true
  | _ => false

/-- The KIND of a prefix parcel. -/
def pxKind (w : Word) : Nat := (w.extractLsb' 2 2).toNat

/-- A prefix of a kind may stand here (R214): not in slot 14, no second prefix of its kind follows, and the
instruction that follows in the line takes it. -/
def pxAccepted (kind : Nat) (takes : Word → Bool) (line : List Word) : Bool :=
  match line with
  | [] => false
  | _ :: rest =>
    let more := rest.takeWhile fun w => classOf w == 3
    !rest.isEmpty && !(more.any fun w => pxKind w == kind) &&
      (match bodyParcel rest with
       | some w => takes w
       | none => true)

/-- Record a prefix and go on at the next parcel, or raise its fault. -/
def State.prefixed (s : State) (kind : Nat) (takes : Word → Bool) (f : Issue → Issue) : State :=
  s.orFault [s.illegal (pxAccepted kind takes s.issue.line)]
    { s with issue := f { s.issue with p := s.issue.p + 1, line := s.issue.line.drop 1 } }

/-- px.lit (Table 9.6). -/
def execPxLit (lit : BitVec 28) (s : State) : Result :=
  .next (s.prefixed 0 (fun w => pxFormat w != .other) fun i => { i with lit := some lit })

/-- px.scope (Table 9.6, R216). -/
def execPxScope (o : MemOrd) (sc : Scope) (s : State) : Result :=
  .next (s.prefixed 1 (fun w => ordTaken w o) fun i => { i with scope := some (o, sc, s.issue.p) })

/-- px.tile (Table 9.6). -/
def execPxTile (twc : BitVec 3) (s : State) : Result :=
  .next (s.prefixed 2 takesTile fun i => { i with tile := some twc })

end Sys2Proof.Machine
end

