-- ==== Sys2Proof/Machine/Numbers.lean ====
section
/-! DEFINITION. Number formats and exact arithmetic (08 R180 to R191): a float is NaN, an infinity or an exact dyadic
number; operations are exact on these, and one function rounds. -/

namespace Sys2Proof.Machine

/-- A float value: fin s m e is (−1)^s × m × 2^e; m = 0 is a zero of its sign. -/
inductive FVal where
  | nan
  | inf (neg : Bool)
  | fin (neg : Bool) (m : Nat) (e : Int)
  deriving DecidableEq, Repr

/-- A format (Table 8.1): exponent and mantissa widths, bias, the largest finite code without its sign, whether the
code above it is an infinity, the canonical NaN (R187), whether there is a sign bit, and whether a conversion to it
saturates (Table 8.7). -/
structure FFmt where
  ew     : Nat
  mw     : Nat
  bias   : Nat
  top    : Nat
  hasInf : Bool
  nan    : Nat
  signed : Bool
  sat    : Bool
  deriving DecidableEq, Repr

def fmtF32 : FFmt := ⟨8, 23, 127, 0x7F7FFFFF, true, 0x7FC00000, true, false⟩
def fmtF16 : FFmt := ⟨5, 10, 15, 0x7BFF, true, 0x7E00, true, false⟩
def fmtBf16 : FFmt := ⟨8, 7, 127, 0x7F7F, true, 0x7FC0, true, false⟩
def fmtE4m3 : FFmt := ⟨4, 3, 7, 0x7E, false, 0x7F, true, true⟩
def fmtE5m2 : FFmt := ⟨5, 2, 15, 0x7B, true, 0x7E, true, true⟩
/-- E2M1 has no NaN: a NaN source converts to 0 (Table 8.7). -/
def fmtE2m1 : FFmt := ⟨2, 1, 1, 0x7, false, 0, true, true⟩
def fmtE3m5 : FFmt := ⟨3, 5, 3, 0xFE, false, 0xFF, false, true⟩

/-- A vector float type's format. -/
def ftyFmt : FTy → FFmt
  | .f32 => fmtF32
  | .f16 => fmtF16
  | .bf16 => fmtBf16

/-- Bits of a vector float type. -/
def ftyBits : FTy → Nat
  | .f32 => 32
  | _ => 16

/-- The exponent of the mantissa's last bit in subnormals and the least normals. -/
def FFmt.quantum (f : FFmt) : Int := 1 - f.bias - f.mw

/-- The value of a code (R180, R182 to R184). -/
def FFmt.decode (f : FFmt) (x : Nat) : FVal :=
  let s := f.signed && x.testBit (f.ew + f.mw)
  let mag := x % 2 ^ (f.ew + f.mw)
  let e := mag / 2 ^ f.mw
  let m := mag % 2 ^ f.mw
  if f.top < mag then (if f.hasInf && mag == f.top + 1 then .inf s else .nan)
  else if e = 0 then .fin s m f.quantum
  else .fin s (m + 2 ^ f.mw) (f.quantum + e - 1)

/-- The value is a subnormal of the format, read from a code. -/
def FFmt.isSub (f : FFmt) : FVal → Bool
  | .fin _ m _ => m != 0 && m < 2 ^ f.mw
  | _ => false

/-- FTZ16 acts on the 16-bit formats (R189). -/
def FFmt.flushes (f : FFmt) (ftz : Bool) : Bool := ftz && f.ew + f.mw == 15

/-- A code read as an operand: FTZ16 flushes FP16 and BF16 subnormals to a zero of their sign (R189). -/
def FFmt.read (f : FFmt) (ftz : Bool) (x : Nat) : FVal :=
  match f.decode x with
  | .fin s m e => if f.flushes ftz && f.isSub (.fin s m e) then .fin s 0 0 else .fin s m e
  | v => v

/-- Whether a magnitude with a remainder rounds up (Table 8.5). -/
def roundsUp (mode : Rnd) (neg odd : Bool) (rem half : Nat) : Bool :=
  match mode with
  | .rn => half < rem || (rem == half && odd)
  | .rz => false
  | .rm => neg && rem != 0
  | .rp => !neg && rem != 0

/-- m / 2^k rounded to an integer. -/
def roundShift (mode : Rnd) (neg : Bool) (m k : Nat) : Nat :=
  if k = 0 then m
  else
    let r := m >>> k
    if roundsUp mode neg (r % 2 == 1) (m % 2 ^ k) (2 ^ (k - 1)) then r + 1 else r

/-- m × 2^e as a multiple of 2^q. -/
def toQuantum (mode : Rnd) (neg : Bool) (m : Nat) (e q : Int) : Nat :=
  if q ≤ e then m * 2 ^ (e - q).toNat else roundShift mode neg m (q - e).toNat

/-- The exponent of the last bit kept of m × 2^e at a precision of mw + 1 bits. -/
def lastBit (m : Nat) (e : Int) (mw : Nat) : Int := Nat.log2 m + e - mw

/-- The sign bit of a format. -/
def FFmt.signBit (f : FFmt) (neg : Bool) : Nat := if f.signed && neg then 2 ^ (f.ew + f.mw) else 0

/-- A value past the largest finite one (R186), or saturated (Table 8.7). -/
def FFmt.overflow (f : FFmt) (mode : Rnd) (neg : Bool) : Nat :=
  let toInf := match mode with
    | .rn => true
    | .rz => false
    | .rm => neg
    | .rp => !neg
  f.signBit neg + (if f.sat || !toInf then f.top else f.top + 1)

/-- Tiny: below the least normal after rounding with unbounded exponent (R189). -/
def FFmt.tiny (f : FFmt) (mode : Rnd) (neg : Bool) (m : Nat) (e : Int) : Bool :=
  let q := lastBit m e f.mw
  let r := toQuantum mode neg m e q
  q < f.quantum && !(r == 2 ^ (f.mw + 1) && q + 1 == f.quantum)

/-- round_to (R186) as a code of the format. -/
def FFmt.round (f : FFmt) (mode : Rnd) (ftz : Bool) (v : FVal) : Nat :=
  match v with
  | .nan => f.nan
  | .inf s =>
    if !f.signed && s then 0 else f.signBit s + (if f.hasInf then f.top + 1 else f.top)
  | .fin s m e =>
    if !f.signed && s then 0
    else if m = 0 then f.signBit s
    else if f.flushes ftz && f.tiny mode s m e then f.signBit s
    else
      let q := max (lastBit m e f.mw) f.quantum
      let code := (q - f.quantum).toNat * 2 ^ f.mw + toQuantum mode s m e q
      if f.top < code then f.overflow mode s else f.signBit s + code

/-! ## Exact operations (R190) -/

/-- A signed number m × 2^e as a multiple of 2^q, for q ≤ e. -/
def signedAt (s : Bool) (m : Nat) (e q : Int) : Int :=
  let x : Int := m * 2 ^ (e - q).toNat
  if s then -x else x

/-- A signed multiple of 2^e, with the sign that a zero takes. -/
def ofSigned (x : Int) (e : Int) (zeroNeg : Bool) : FVal :=
  if x = 0 then .fin zeroNeg 0 0 else .fin (x < 0) x.natAbs e

def FVal.neg : FVal → FVal
  | .nan => .nan
  | .inf s => .inf (!s)
  | .fin s m e => .fin (!s) m e

/-- a + b. An exact zero sum is +0, −0 under .rm, or the sign of two zeros that share one. -/
def fvAdd (mode : Rnd) (a b : FVal) : FVal :=
  match a, b with
  | .nan, _ | _, .nan => .nan
  | .inf s, .inf t => if s == t then .inf s else .nan
  | .inf s, _ | _, .inf s => .inf s
  | .fin s m e, .fin t n f =>
    let z := if m = 0 && n = 0 && s == t then s else mode == .rm
    let q := min e f
    ofSigned (signedAt s m e q + signedAt t n f q) q z

/-- a × b. -/
def fvMul (a b : FVal) : FVal :=
  match a, b with
  | .nan, _ | _, .nan => .nan
  | .inf s, .inf t => .inf (s != t)
  | .inf s, .fin t n _ | .fin t n _, .inf s => if n = 0 then .nan else .inf (s != t)
  | .fin s m e, .fin t n f => .fin (s != t) (m * n) (e + f)

/-- The order of two values that are no NaN. −0 equals +0. -/
def fvLt (a b : FVal) : Bool :=
  match a, b with
  | .nan, _ | _, .nan => false
  | .inf s, .inf t => s && !t
  | .inf s, .fin _ _ _ => s
  | .fin _ _ _, .inf t => !t
  | .fin s m e, .fin t n f =>
    let q := min e f
    signedAt s m e q < signedAt t n f q

def FVal.isNan : FVal → Bool
  | .nan => true
  | _ => false

def FVal.isNeg : FVal → Bool
  | .nan => false
  | .inf s => s
  | .fin s _ _ => s

/-- minimumNumber and maximumNumber: −0 orders below +0 (R190). -/
def fvMin (a b : FVal) : FVal :=
  if a.isNan then b else if b.isNan then a
  else if fvLt a b then a else if fvLt b a then b else if a.isNeg then a else b

def fvMax (a b : FVal) : FVal :=
  if a.isNan then b else if b.isNan then a
  else if fvLt a b then b else if fvLt b a then a else if a.isNeg then b else a

/-- A sum of three terms rounded once (R258): an exact zero keeps a sign that all terms share. -/
def fvSum3 (mode : Rnd) (a b c : FVal) : FVal :=
  match fvAdd mode (fvAdd mode a b) c with
  | .fin s (m + 1) e => .fin s (m + 1) e
  | .fin _ 0 _ =>
    match a, b, c with
    | .fin s1 0 _, .fin s2 0 _, .fin s3 0 _ => .fin (if s1 == s2 && s2 == s3 then s1 else mode == .rm) 0 0
    | _, _, _ => .fin (mode == .rm) 0 0
  | v => v

/-! ## Integers -/

/-- round_int: m × 2^e rounded to an integer (R261, R191). -/
def roundInt (mode : Rnd) (s : Bool) (m : Nat) (e : Int) : Int :=
  let x : Int := toQuantum mode s m e 0
  if s then -x else x

/-- An integer as a value. -/
def fvOfInt (x : Int) : FVal := .fin (x < 0) x.natAbs 0

def clampInt (lo hi x : Int) : Int := if x < lo then lo else if hi < x then hi else x

/-- A quotient a / b, b not 0, with a sticky last bit: enough bits for one rounding of at most 24 bits. -/
def quotSticky (a b : Nat) : Nat × Int :=
  let k := 64 + Nat.log2 b
  let n := a * 2 ^ k
  (2 * (n / b) + (if n % b = 0 then 0 else 1), -((k : Int) + 1))

/-- Integer square root, bit by bit: n steps from bit n − 1 down. -/
def isqrtFrom (x : Nat) : Nat → Nat → Nat
  | 0, r => r
  | n + 1, r =>
    let t := r + 2 ^ n
    isqrtFrom x n (if t * t ≤ x then t else r)

def isqrt (x : Nat) : Nat := isqrtFrom x (Nat.log2 x / 2 + 1) 0

end Sys2Proof.Machine
end

