-- ==== Sys2Proof/Machine/Special.lean ====
section
/-! DEFINITION. Special functions (11 R259, R260): each is approximated far beyond the bits of a result and rounded
once; a .f32 entry with an error bound takes the part's own result where it keeps the bound (log entry 5). -/

namespace Sys2Proof.Machine

/-- Fraction bits of the approximations. -/
def fxBits : Nat := 320

/-- ln 2 × 2^320, rounded down. -/
def fxLn2 : Nat := 0xB17217F7D1CF79ABC9E3B39803F2F6AF40F343267298B62D8A0D175B8BAAFA2BE7B876206DEBAC98

/-- π / 2 × 2^512, rounded down. -/
def fxHalfPi : Nat := 0x1921FB54442D18469898CC51701B839A252049C1114CF98E804177D4C76273644A29410F31C6809BBDF2A33679A748636605614DBE4BE286E9FC26ADADAA3848B

/-- An approximation: the magnitude lies within slack of v, in units of 2^e. -/
structure Approx where
  neg   : Bool
  v     : Nat
  e     : Int
  slack : Nat
  deriving DecidableEq, Repr

/-- e^y for y below 1, by its series from term n down. -/
def expSeries (y : Nat) : Nat → Nat → Nat
  | 0, r => r
  | n + 1, r => expSeries y n (2 ^ fxBits + y * r / ((n + 1) * 2 ^ fxBits))

def expFix (y : Nat) : Nat := expSeries y 90 (2 ^ fxBits)

/-- sin y and cos y for y below π / 2, by their series. -/
def sinSeries (y2 : Nat) : Nat → Nat → Nat
  | 0, r => r
  | n + 1, r => sinSeries y2 n (2 ^ fxBits - y2 * r / ((2 * n + 2) * (2 * n + 3) * 2 ^ fxBits))

def cosSeries (y2 : Nat) : Nat → Nat → Nat
  | 0, r => r
  | n + 1, r => cosSeries y2 n (2 ^ fxBits - y2 * r / ((2 * n + 1) * (2 * n + 2) * 2 ^ fxBits))

def sinFix (y : Nat) : Nat := y * sinSeries (y * y / 2 ^ fxBits) 50 (2 ^ fxBits) / 2 ^ fxBits
def cosFix (y : Nat) : Nat := cosSeries (y * y / 2 ^ fxBits) 50 (2 ^ fxBits)

/-- atanh z / z for z2 = z² at most 1 / 32, by its series. -/
def atanhSeries (z2 : Nat) : Nat → Nat → Nat
  | 0, r => r
  | n + 1, r => atanhSeries z2 n (2 ^ fxBits / (2 * n + 1) + z2 * r / 2 ^ fxBits)

def atanhFix (z : Nat) : Nat := z * atanhSeries (z * z / 2 ^ fxBits) 80 0 / 2 ^ fxBits

/-- m × 2^e as a fixed-point number; e is at least −320. -/
def toFix (m : Nat) (e : Int) : Nat := m * 2 ^ (e + fxBits).toNat

/-- 2^x; |x| below 1024. -/
def approxExp2 (s : Bool) (m : Nat) (e : Int) : Approx :=
  let x : Int := if s then -(toFix m e) else toFix m e
  let n := x / 2 ^ fxBits
  let f := (x % 2 ^ fxBits).toNat
  ⟨false, expFix (f * fxLn2 / 2 ^ fxBits), n - fxBits, if f = 0 then 0 else 2 ^ 20⟩

/-- log2 x for x above 0. -/
def approxLog2 (m : Nat) (e : Int) : Approx :=
  let l := Nat.log2 m
  let x := m * 2 ^ (fxBits - l)
  let big := 2 ^ (2 * fxBits + 1) < x * x
  let n : Int := l + e + (if big then 1 else 0)
  let b := if big then 2 ^ (fxBits + 1) else 2 ^ fxBits
  let d := if x < b then b - x else x - b
  let y := 2 * atanhFix (d * 2 ^ fxBits / (x + b)) * 2 ^ fxBits / fxLn2
  let t : Int := n * 2 ^ fxBits + (if x < b then -(y : Int) else y)
  ⟨t < 0, t.natAbs, -(fxBits : Int), if y = 0 then 0 else 2 ^ 20⟩

/-- x (1 − δ) with δ from 0 to 2^−38: sin x and tanh x for |x| below 2^−20. -/
def approxSmall (s : Bool) (m : Nat) (e : Int) : Approx := ⟨s, m * 2 ^ 60 - m * 2 ^ 21, e - 60, m * 2 ^ 21⟩

def isSmall (m : Nat) (e : Int) : Bool := (Nat.log2 m : Int) + e < -20

/-- Quadrant and remainder of x modulo π / 2. -/
def reduceArg (m : Nat) (e : Int) : Nat × Nat :=
  let a := m * 2 ^ (e + 512).toNat
  (a / fxHalfPi % 4, (a % fxHalfPi) / 2 ^ 192)

def approxSin (s : Bool) (m : Nat) (e : Int) : Approx :=
  if isSmall m e then approxSmall s m e
  else
    let (q, y) := reduceArg m e
    ⟨s != (2 ≤ q), if q % 2 = 0 then sinFix y else cosFix y, -(fxBits : Int), 2 ^ 20⟩

def approxCos (m : Nat) (e : Int) : Approx :=
  let (q, y) := reduceArg m e
  ⟨q == 1 || q == 2, if q % 2 = 0 then cosFix y else sinFix y, -(fxBits : Int), 2 ^ 20⟩

def approxTanh (s : Bool) (m : Nat) (e : Int) : Approx :=
  if isSmall m e then approxSmall s m e
  else if 6 < (Nat.log2 m : Int) + e then ⟨s, 2 ^ fxBits - 2 ^ 150, -(fxBits : Int), 2 ^ 150⟩
  else
    let y := 2 * toFix m e * 2 ^ fxBits / fxLn2
    let n := y / 2 ^ fxBits
    let t := expFix (y % 2 ^ fxBits * fxLn2 / 2 ^ fxBits) * 2 ^ n
    ⟨s, (t - 2 ^ fxBits) * 2 ^ fxBits / (t + 2 ^ fxBits), -(fxBits : Int), 2 ^ 40⟩

/-- 1 / √x for x above 0. -/
def approxRsqrt (m : Nat) (e : Int) : Approx :=
  let odd := e % 2 != 0
  let (m, e) := if odd then (2 * m, e - 1) else (m, e)
  let n := 2 ^ 400 / m
  let v := isqrt n
  ⟨false, v, -(e / 2) - 200, if v * v * m = 2 ^ 400 then 0 else 2⟩

/-- The special functions with an error bound. -/
inductive SfuFn where
  | rsqrt | exp2 | log2 | sin | cos | tanh
  deriving DecidableEq, Repr

/-- The number of a function in Config.sfuF32. -/
def SfuFn.num : SfuFn → Nat
  | .rsqrt => 1
  | .exp2 => 2
  | .log2 => 3
  | .sin => 4
  | .cos => 5
  | .tanh => 6

/-- A special value (Table 11.3), or the approximation of the function at a nonzero finite value. -/
def SfuFn.eval (fn : SfuFn) (x : FVal) : Except FVal Approx :=
  match fn, x with
  | _, .nan => .error .nan
  | .rsqrt, .inf s => .error (if s then .nan else .fin false 0 0)
  | .rsqrt, .fin s 0 _ => .error (.inf s)
  | .rsqrt, .fin true (_ + 1) _ => .error .nan
  | .rsqrt, .fin false (m + 1) e => .ok (approxRsqrt (m + 1) e)
  | .exp2, .inf s => .error (if s then .fin false 0 0 else .inf false)
  | .exp2, .fin _ 0 _ => .error (.fin false 1 0)
  | .exp2, .fin s (m + 1) e =>
    if 9 < (Nat.log2 (m + 1) : Int) + e then (if s then .ok ⟨false, 1, -1024, 1⟩ else .error (.inf false))
    else .ok (approxExp2 s (m + 1) e)
  | .log2, .inf s => .error (if s then .nan else .inf false)
  | .log2, .fin _ 0 _ => .error (.inf true)
  | .log2, .fin true (_ + 1) _ => .error .nan
  | .log2, .fin false (m + 1) e =>
    let a := approxLog2 (m + 1) e
    if a.v = 0 then .error (.fin false 0 0) else .ok a
  | .sin, .inf _ => .error .nan
  | .sin, .fin s 0 _ => .error (.fin s 0 0)
  | .sin, .fin s (m + 1) e => .ok (approxSin s (m + 1) e)
  | .cos, .inf _ => .error .nan
  | .cos, .fin _ 0 _ => .error (.fin false 1 0)
  | .cos, .fin _ (m + 1) e => .ok (approxCos (m + 1) e)
  | .tanh, .inf s => .error (.fin s 1 0)
  | .tanh, .fin s 0 _ => .error (.fin s 0 0)
  | .tanh, .fin s (m + 1) e => .ok (approxTanh s (m + 1) e)

/-- The spacing of FP32 values at m × 2^e, as an exponent (R260). -/
def ulpExp (a : Approx) : Int := max (Nat.log2 a.v + a.e) (-126) - 23

/-- |c − v| + slack is at most, or below, b × 2^k. -/
def Approx.within (a : Approx) (s : Bool) (m : Nat) (e : Int) (b : Nat) (k : Int) (strict : Bool) : Bool :=
  let q := min (min e a.e) k
  let d := (signedAt s m e q - signedAt a.neg a.v a.e q).natAbs + a.slack * 2 ^ (a.e - q).toNat
  let lim := b * 2 ^ (k - q).toNat
  if strict then d < lim else d ≤ lim

/-- x lies in 0.5 to 2 inclusive. -/
def inHalfTwo (x : FVal) : Bool := !fvLt x (.fin false 1 (-1)) && !fvLt (.fin false 2 0) x

/-- An FP32 result that keeps the bound of Table 11.3 for a nonzero finite input. -/
def SfuFn.keeps (fn : SfuFn) (x : FVal) (a : Approx) (c : FVal) : Bool :=
  match c with
  | .fin s m e =>
    match fn with
    | .rsqrt => a.within s m e 1 (ulpExp a) true && (a.slack != 0 || a.within s m e 0 0 false)
    | .exp2 => a.within s m e 2 (ulpExp a) false && (Nat.log2 a.v : Int) + a.e < 128 &&
        (a.v != 2 ^ fxBits || (Nat.log2 a.v : Int) + a.e < -149 || a.within s m e 0 0 false)
    | .log2 =>
      if a.slack = 0 then c == fmtF32.decode (fmtF32.round .rn false (.fin a.neg a.v a.e))
      else if inHalfTwo x then a.within s m e 1 (-22) false else a.within s m e 2 (ulpExp a) false
    | .sin | .cos => a.within s m e 1 (-21) false && !fvLt (.fin false 1 0) (.fin false m e)
    | .tanh => a.within s m e 2 (ulpExp a) false && !fvLt (.fin false 1 0) (.fin false m e)
  | _ => false

/-- A special function with a bound, on a code of a type (R259, R260). -/
def SfuFn.apply (fn : SfuFn) (ty : FTy) (ftz : Bool) (x : Nat) : Nat :=
  let f := ftyFmt ty
  match fn.eval (f.read ftz x) with
  | .error v => f.round .rn ftz v
  | .ok a =>
    let near := f.round .rn ftz (.fin a.neg a.v a.e)
    match ty with
    | .f32 =>
      let c := (Config.sfuF32 fn.num (BitVec.ofNat 32 x)).toNat
      if fn.keeps (f.decode x) a (f.decode c) then c else near
    | _ => near

/-- rcp (Table 11.3). -/
def rcpBits (ty : FTy) (mode : Rnd) (ftz : Bool) (x : Nat) : Nat :=
  let f := ftyFmt ty
  f.round mode ftz (match f.read ftz x with
    | .nan => .nan
    | .inf s => .fin s 0 0
    | .fin s 0 _ => .inf s
    | .fin s (m + 1) e => let (q, k) := quotSticky 1 (m + 1); .fin s q (k - e))

/-- sqrt (Table 11.3). -/
def sqrtBits (ty : FTy) (mode : Rnd) (ftz : Bool) (x : Nat) : Nat :=
  let f := ftyFmt ty
  f.round mode ftz (match f.read ftz x with
    | .nan => .nan
    | .inf s => if s then .nan else .inf false
    | .fin s 0 _ => .fin s 0 0
    | .fin true (_ + 1) _ => .nan
    | .fin false (m + 1) e =>
      let (n, e) := if e % 2 != 0 then (2 * (m + 1), e - 1) else (m + 1, e)
      let n := n * 2 ^ 80
      let r := isqrt n
      .fin false (2 * r + (if r * r = n then 0 else 1)) (e / 2 - 41))

end Sys2Proof.Machine
end

