-- ==== Sys2Proof/Machine/Float.lean ====
section
/-! DEFINITION. Vector float, conversions, requantisation, float compares and special functions (08, 10 R243, R248 to
R254, 11 R255 to R261). -/

namespace Sys2Proof.Machine

/-- FTZ16 of the issuing team (Table 8.6). -/
def State.ftz (s : State) : Bool := s.issTeam.ftz16

/-- A float operand's code: the low bits of its source. -/
def State.fsrc (s : State) (ty : FTy) (k l : Nat) (x : Src) : Nat := (s.src32 k l x).toNat % 2 ^ ftyBits ty

/-- One 32-bit source. -/
def State.flt1 (s : State) (h : VHead) (a : Src) (op : Nat → Nat) : State :=
  s.orFault [s.regForm 1 h.dst [(1, a)]]
    (s.put32 h.flag h.dst fun l => BitVec.ofNat 32 (op (s.src32 0 l a).toNat))

/-- Two 32-bit sources. -/
def State.flt2 (s : State) (h : VHead) (a b : Src) (op : Nat → Nat → Nat) : State :=
  s.orFault [s.regForm 1 h.dst [(1, a), (1, b)]]
    (s.put32 h.flag h.dst fun l => BitVec.ofNat 32 (op (s.src32 0 l a).toNat (s.src32 1 l b).toNat))

/-- Three 32-bit sources. -/
def State.flt3 (s : State) (h : VHead) (a b c : Src) (op : Nat → Nat → Nat → Nat) : State :=
  s.orFault [s.regForm 1 h.dst [(1, a), (1, b), (1, c)]]
    (s.put32 h.flag h.dst fun l =>
      BitVec.ofNat 32 (op (s.src32 0 l a).toNat (s.src32 1 l b).toNat (s.src32 2 l c).toNat))

/-! ## Operations on codes (Table 11.1) -/

def cutTo (ty : FTy) (x : Nat) : Nat := x % 2 ^ ftyBits ty

def faddBits (ty : FTy) (mode : Rnd) (ftz : Bool) (a b : Nat) : Nat :=
  let f := ftyFmt ty
  f.round mode ftz (fvAdd mode (f.read ftz (cutTo ty a)) (f.read ftz (cutTo ty b)))

def fsubBits (ty : FTy) (mode : Rnd) (ftz : Bool) (a b : Nat) : Nat :=
  let f := ftyFmt ty
  f.round mode ftz (fvAdd mode (f.read ftz (cutTo ty a)) (f.read ftz (cutTo ty b)).neg)

def fmulBits (ty : FTy) (mode : Rnd) (ftz : Bool) (a b : Nat) : Nat :=
  let f := ftyFmt ty
  f.round mode ftz (fvMul (f.read ftz (cutTo ty a)) (f.read ftz (cutTo ty b)))

def fmaBits (ty : FTy) (mode : Rnd) (ftz : Bool) (a b c : Nat) : Nat :=
  let f := ftyFmt ty
  f.round mode ftz (fvAdd mode (fvMul (f.read ftz (cutTo ty a)) (f.read ftz (cutTo ty b))) (f.read ftz (cutTo ty c)))

def fminBits (ty : FTy) (ftz : Bool) (a b : Nat) : Nat :=
  let f := ftyFmt ty
  f.round .rn ftz (fvMin (f.read ftz (cutTo ty a)) (f.read ftz (cutTo ty b)))

def fmaxBits (ty : FTy) (ftz : Bool) (a b : Nat) : Nat :=
  let f := ftyFmt ty
  f.round .rn ftz (fvMax (f.read ftz (cutTo ty a)) (f.read ftz (cutTo ty b)))

/-- A code whose subnormal FTZ16 reads as a zero of its sign; every other code is kept (R189, R256, R267). -/
def flushCode (ty : FTy) (ftz : Bool) (a : Nat) : Nat :=
  let f := ftyFmt ty
  let a := cutTo ty a
  if f.flushes ftz && f.isSub (f.decode a) then a / 2 ^ (ftyBits ty - 1) * 2 ^ (ftyBits ty - 1) else a

def signOf (ty : FTy) (a : Nat) : Nat := cutTo ty a / 2 ^ (ftyBits ty - 1)
def magOf (ty : FTy) (a : Nat) : Nat := a % 2 ^ (ftyBits ty - 1)

def fabsBits (ty : FTy) (ftz : Bool) (a : Nat) : Nat := magOf ty (flushCode ty ftz a)
def fnegBits (ty : FTy) (ftz : Bool) (a : Nat) : Nat :=
  let x := flushCode ty ftz a
  magOf ty x + (1 - signOf ty x) * 2 ^ (ftyBits ty - 1)
def fcpsgnBits (ty : FTy) (ftz : Bool) (a b : Nat) : Nat :=
  magOf ty (flushCode ty ftz a) + signOf ty b * 2 ^ (ftyBits ty - 1)

/-- Both 16-bit elements, each on its own (R257). -/
def both2 (op : Nat → Nat → Nat) (a b : Nat) : Nat :=
  op (a % 65536) (b % 65536) + 65536 * op (a / 65536) (b / 65536)
def both3 (op : Nat → Nat → Nat → Nat) (a b c : Nat) : Nat :=
  op (a % 65536) (b % 65536) (c % 65536) + 65536 * op (a / 65536) (b / 65536) (c / 65536)

/-- fdot2 (R258). -/
def fdot2Bits (ty : FTy) (mode : Rnd) (ftz : Bool) (a b c : Nat) : Nat :=
  let r := fun x => (ftyFmt ty).read ftz (x % 65536)
  let p := fvMul (r a) (r b)
  let q := fvMul (r (a / 65536)) (r (b / 65536))
  fmtF32.round mode false (fvSum3 mode p q (fmtF32.decode c))

/-! ## Meanings of Tables 11.1 and 11.2 -/

/-- fadd. -/
def execFadd (f : FBin) (s : State) : Result := .next (s.flt2 f.h f.a f.b (faddBits f.ty f.rnd s.ftz))
/-- fsub. -/
def execFsub (f : FBin) (s : State) : Result := .next (s.flt2 f.h f.a f.b (fsubBits f.ty f.rnd s.ftz))
/-- fmul. -/
def execFmul (f : FBin) (s : State) : Result := .next (s.flt2 f.h f.a f.b (fmulBits f.ty f.rnd s.ftz))
/-- fma. -/
def execFma (f : FTri) (s : State) : Result := .next (s.flt3 f.h f.a f.b f.c (fmaBits f.ty f.rnd s.ftz))
/-- fmin. -/
def execFmin (f : FBin) (s : State) : Result := .next (s.flt2 f.h f.a f.b (fminBits f.ty s.ftz))
/-- fmax. -/
def execFmax (f : FBin) (s : State) : Result := .next (s.flt2 f.h f.a f.b (fmaxBits f.ty s.ftz))
/-- fabs. -/
def execFabs (f : FUn) (s : State) : Result := .next (s.flt1 f.h f.a (fabsBits f.ty s.ftz))
/-- fneg. -/
def execFneg (f : FUn) (s : State) : Result := .next (s.flt1 f.h f.a (fnegBits f.ty s.ftz))
/-- fcpsgn. -/
def execFcpsgn (f : FBin) (s : State) : Result := .next (s.flt2 f.h f.a f.b (fcpsgnBits f.ty s.ftz))
/-- fadd2. -/
def execFadd2 (f : FBin) (s : State) : Result := .next (s.flt2 f.h f.a f.b (both2 (faddBits f.ty f.rnd s.ftz)))
/-- fmul2. -/
def execFmul2 (f : FBin) (s : State) : Result := .next (s.flt2 f.h f.a f.b (both2 (fmulBits f.ty f.rnd s.ftz)))
/-- fma2. -/
def execFma2 (f : FTri) (s : State) : Result := .next (s.flt3 f.h f.a f.b f.c (both3 (fmaBits f.ty f.rnd s.ftz)))
/-- fmin2. -/
def execFmin2 (f : FBin) (s : State) : Result := .next (s.flt2 f.h f.a f.b (both2 (fminBits f.ty s.ftz)))
/-- fmax2. -/
def execFmax2 (f : FBin) (s : State) : Result := .next (s.flt2 f.h f.a f.b (both2 (fmaxBits f.ty s.ftz)))
/-- fdot2 (R258). -/
def execFdot2 (f : FTri) (s : State) : Result := .next (s.flt3 f.h f.a f.b f.c (fdot2Bits f.ty f.rnd s.ftz))

/-! ## Compare and classify -/

/-- compare of fcmp (Table 10.5). -/
def relFloat (c : Cond) (a b : FVal) : Bool :=
  let un := a.isNan || b.isNan
  let eq := !fvLt a b && !fvLt b a
  match c with
  | .eq => !un && eq
  | .ne => !un && !eq
  | .lt => !un && fvLt a b
  | .le => !un && !fvLt b a
  | .gt => !un && fvLt b a
  | .ge => !un && !fvLt a b
  | .num => !un
  | .nan => un
  | .equ => un || eq
  | .neu => un || !eq
  | .ltu => un || fvLt a b
  | .leu => un || !fvLt b a
  | .gtu => un || fvLt b a
  | .geu => un || !fvLt a b

/-- fcmp (R243). -/
def execFcmp (h : VHead) (cond : Cond) (ty : FTy) (op : Comb) (gc : Pred) (a b : Src) (s : State) : Result :=
  let v := fun k l x => (ftyFmt ty).read s.ftz (s.fsrc ty k l x)
  .next (s.orFault [s.guardForm h.dst [(1, a), (1, b)]]
    (s.putGuard h.flag h.dst fun l => combine op (relFloat cond (v 0 l a) (v 1 l b)) ((s.issLane l).pred gc)))

/-- The class bit of a value (R248). -/
def classBit (f : FFmt) (v : FVal) : Nat :=
  match v with
  | .nan => 0
  | .inf s => if s then 1 else 8
  | .fin s m e =>
    if m = 0 then (if s then 4 else 5)
    else if f.isSub (.fin s m e) then (if s then 3 else 6)
    else if s then 2 else 7

/-- fclass (R248). -/
def execFclass (h : VHead) (ty : FTy) (a : Src) (mask : BitVec 9) (s : State) : Result :=
  let f := ftyFmt ty
  .next (s.orFault [s.guardForm h.dst [(1, a)]]
    (s.putGuard h.flag h.dst fun l => mask.getLsbD (classBit f (f.read s.ftz (s.fsrc ty 0 l a)))))

/-! ## Conversion (R249 to R254) -/

/-- The format of a float conversion type. -/
def ctyFmt : CTy → Option FFmt
  | .f32 => some fmtF32
  | .f16 => some fmtF16
  | .bf16 => some fmtBf16
  | .e4m3 => some fmtE4m3
  | .e5m2 => some fmtE5m2
  | .e2m1 => some fmtE2m1
  | .e3m5 => some fmtE3m5
  | _ => none

/-- Whether an integer conversion type is unsigned. -/
def ctyUnsigned : CTy → Bool
  | .n8 | .n16 | .n32 | .n64 | .n4 => true
  | _ => false

def ctyLo (t : CTy) : Int := if ctyUnsigned t then 0 else -(2 ^ (CTy.bits t - 1))
def ctyHi (t : CTy) : Int := if ctyUnsigned t then 2 ^ CTy.bits t - 1 else 2 ^ (CTy.bits t - 1) - 1

/-- A float value converted to an integer type (Table 8.7). -/
def floatToInt (d : CTy) (mode : Rnd) (v : FVal) : Int :=
  match v with
  | .nan => 0
  | .inf s => if s then ctyLo d else ctyHi d
  | .fin s m e => clampInt (ctyLo d) (ctyHi d) (roundInt mode s m e)

/-- A value converted to a type, as a code (Table 8.7). -/
def convertFrom (d : CTy) (mode : Rnd) (ftz : Bool) (v : FVal) : Nat :=
  match ctyFmt d with
  | some f => f.round mode ftz v
  | none => narrow (CTy.bits d) (floatToInt d mode v)

/-- A conversion of a code (R191). A LUT4 code is looked up before. -/
def convertBits (d t : CTy) (mode : Rnd) (ftz : Bool) (x : Nat) : Nat :=
  let x := x % 2 ^ CTy.bits t
  match ctyFmt t with
  | some f => convertFrom d mode ftz (f.read ftz x)
  | none =>
    let v := valOf (CTy.bits t) (ctyUnsigned t) x
    match ctyFmt d with
    | some f => f.round mode ftz (fvOfInt v)
    | none => narrow (CTy.bits d) (clampInt (ctyLo d) (ctyHi d) v)

/-- Entry c of code table n as the issuing group's lut reads it (R185, R253): the engine's table where its team owns
the engine, else the launch's; an entry of a ct.set that has not completed is seen old or new (log entry 1). -/
def State.codeEntry (s : State) (n c : Nat) : Nat :=
  let entry := fun (t : BitVec 256) => (t.extractLsb' (16 * c) 16).toNat
  let k := s.issCore
  if k.owner = some s.issue.slot then
    k.engine.ops.foldl (fun v o =>
      match o.act with
      | .ctSet m t => if m = n && Config.readsNew s.stamp o.id c n then entry t else v
      | _ => v) (entry (tblGet 0 k.engine.ct n))
  else entry (tblGet 0 s.issTeam.cts n)

/-- The value of a LUT4 code (R185): FTZ16 does not act on the entry, which is no operand of FP16 or BF16. -/
def State.lutVal (s : State) (n c : Nat) : FVal := fmtBf16.decode (s.codeEntry n c)

/-- cvt (R250). -/
def execCvt (h : VHead) (d t : CTy) (rnd : Rnd) (ct : BitVec 2) (a : Src) (s : State) : Result :=
  let sw := wRegs (CTy.bits t == 64)
  let dw := CTy.bits d == 64
  let r := fun l => if t = .lut4 then convertFrom d rnd s.ftz (s.lutVal ct.toNat ((s.src32 0 l a).toNat % 16))
    else convertBits d t rnd s.ftz (s.srcW (CTy.bits t == 64) 0 l a)
  .next (s.orFault [s.regForm (wRegs dw) h.dst [(sw, a)]] (s.putW h.flag dw h.dst r))

/-- Write element e of width w of a register. -/
def setElem (w e old v : Nat) : Nat :=
  let m := (2 ^ w - 1) * 2 ^ (w * e)
  ((2 ^ 32 - 1 - m) &&& old) ||| (v % 2 ^ w) * 2 ^ (w * e)

/-- cvtpk (R251). -/
def execCvtpk (h : VHead) (d t : CTy) (rnd : Rnd) (p : BitVec 2) (a b : Src) (s : State) : Result :=
  let c := fun x => convertBits d t rnd s.ftz x
  .next (s.orFault [s.regForm 1 h.dst [(1, a), (1, b)]]
    (s.put32 h.flag h.dst fun l =>
      let old := (s.readReg 3 l h.dst.toNat).toNat
      let lo := setElem (CTy.bits d) (2 * p.toNat) old (c (s.src32 0 l a).toNat)
      BitVec.ofNat 32 (setElem (CTy.bits d) (2 * p.toNat + 1) lo (c (s.src32 1 l b).toNat))))

/-- unpk (R252). -/
def execUnpk (h : VHead) (d t : CTy) (e : BitVec 4) (a : Src) (s : State) : Result :=
  .next (s.flt1 h a fun x => convertBits d t .rn s.ftz (x >>> (CTy.bits t * e.toNat)))

/-- lut (R253). -/
def execLut (h : VHead) (n p : BitVec 2) (f16 : Bool) (a : Src) (s : State) : Result :=
  let f := if f16 then fmtF16 else fmtBf16
  let one := fun x e => f.round .rn s.ftz (s.lutVal n.toNat (x >>> (4 * e) % 16))
  .next (s.flt1 h a fun x => one x (2 * p.toNat) + 65536 * one x (2 * p.toNat + 1))

/-- An integral value in its own format (R254). -/
def frndBits (ty : FTy) (mode : Rnd) (ftz : Bool) (x : Nat) : Nat :=
  let f := ftyFmt ty
  f.round .rn ftz (match f.read ftz (cutTo ty x) with
    | .fin s m e => if 0 ≤ e then .fin s m e else .fin s (toQuantum mode s m e 0) 0
    | v => v)

/-- frnd (R254). -/
def execFrnd (h : VHead) (ty : FTy) (rnd : Rnd) (a : Src) (s : State) : Result :=
  .next (s.flt1 h a (frndBits ty rnd s.ftz))

/-! ## Requantisation (R261) -/

def rqBits : RqTy → Nat
  | .i8 | .n8 => 8
  | _ => 4
def rqUnsigned : RqTy → Bool
  | .n8 | .n4 => true
  | _ => false

/-- The element that rq writes, before narrowing. -/
def rqVal (ty : RqTy) (mode : Rnd) (sh a b c : Nat) : Int :=
  let p := valOf 32 false a * valOf 32 false b
  let q := roundInt mode (p < 0) p.natAbs (-(31 + (sh : Int)))
  satTo (rqBits ty) (rqUnsigned ty) (q + valOf 32 false c)

/-- rq (R261). -/
def execRq (h : VHead) (ty : RqTy) (rnd : Rnd) (sh e : BitVec 5) (a b c : Src) (s : State) : Result :=
  .next (s.orFault [s.regForm 1 h.dst [(1, a), (1, b), (1, c)]]
    (s.put32 h.flag h.dst fun l =>
      let y := rqVal ty rnd sh.toNat (s.src32 0 l a).toNat (s.src32 1 l b).toNat (s.src32 2 l c).toNat
      BitVec.ofNat 32 (setElem (rqBits ty) e.toNat (s.readReg 3 l h.dst.toNat).toNat (narrow (rqBits ty) y))))

/-! ## Special functions (R259) -/

/-- Issue an operation that completes later: lanes whose flag is full park, the others advance with the flag set. -/
def State.startOp (s : State) (flag : FlagSel) (kind : OpKind) (values : Nat → List Word) : State :=
  let go := s.issLanes.filter fun l => !(s.issLane l).flagFull flag
  let (id, u) := s.name
  let u := if go.isEmpty then s else
    u.addOp { id := id, uid := s.issGroup.uid, kind := kind, flag := flag, tl := go.any fun l => (s.issLane l).tl,
              lanes := maskOf go, left := [], values := go.map fun l => (l, values l), ended := 0, pc := s.issue.p }
  u.updIssGroup fun y => y.mapLanes s.issLanes fun l x => if go.contains l then x.goto s.nextPc else x.parkFlag flag

/-- A special function: the result is known at issue and lands at completion (R212, R259). -/
def State.sfu (s : State) (f : FUn) (op : Nat → Nat) : State :=
  s.orFault [s.regForm 1 f.h.dst [(1, f.a)]]
    (s.startOp f.h.flag (.sfu f.h.dst.toNat) fun l => [BitVec.ofNat 32 (op (s.fsrc f.ty 0 l f.a))])

/-- rcp. -/
def execRcp (f : FUn) (s : State) : Result := .next (s.sfu f (rcpBits f.ty f.rnd s.ftz))
/-- rsqrt. -/
def execRsqrt (f : FUn) (s : State) : Result := .next (s.sfu f (SfuFn.rsqrt.apply f.ty s.ftz))
/-- sqrt. -/
def execSqrt (f : FUn) (s : State) : Result := .next (s.sfu f (sqrtBits f.ty f.rnd s.ftz))
/-- exp2. -/
def execExp2 (f : FUn) (s : State) : Result := .next (s.sfu f (SfuFn.exp2.apply f.ty s.ftz))
/-- log2. -/
def execLog2 (f : FUn) (s : State) : Result := .next (s.sfu f (SfuFn.log2.apply f.ty s.ftz))
/-- sin. -/
def execSin (f : FUn) (s : State) : Result := .next (s.sfu f (SfuFn.sin.apply f.ty s.ftz))
/-- cos. -/
def execCos (f : FUn) (s : State) : Result := .next (s.sfu f (SfuFn.cos.apply f.ty s.ftz))
/-- tanh. -/
def execTanh (f : FUn) (s : State) : Result := .next (s.sfu f (SfuFn.tanh.apply f.ty s.ftz))

/-- SFU_COMPLETE: the results of a special function land and its flag falls (R259). -/
def execSfuComplete (core op : Nat) (s : State) : Result :=
  match (s.core core).readyOp op with
  | some o =>
    match o.kind with
    | .sfu _ => .next (s.updCore core fun k => k.completeOp o)
    | _ => .next s
  | none => .next s

end Sys2Proof.Machine
end

