-- ==== Sys2Proof/Machine/Memory.lean ====
section
/-! DEFINITION. Loads, stores, atomics, fences and pinning as they issue (12 R271 to R281, 03 R80 to R82, 04 R95). What
an access does when it is performed stands in Perform.lean. -/

namespace Sys2Proof.Machine

/-- Bytes of a type (Table 9.4). -/
def memSize : MemTy → Nat
  | .n8 | .i8 => 1
  | .n16 | .i16 => 2
  | .n32 | .i32 => 4
  | .n64 | .i64 => 8
  | .b128 => 16

/-- One lane's part of an access, with the name of its item. -/
structure Part where
  lane  : Nat
  place : Place
  ch    : Nat
  vpn   : Nat
  base  : Nat
  deriving DecidableEq, Repr

/-- Number the parts: each takes its names after the operation's. -/
def State.parts (s : State) (rs : List (Nat × Place × Nat × Nat)) : List Part :=
  rs.zipIdx.map fun c => ⟨c.1.1, c.1.2.1, c.1.2.2.1, c.1.2.2.2, s.fresh + 1 + namesPerAccess * c.2⟩

/-- The names of lower lanes' parts of n bytes that meet a part (R273, R278). -/
def State.lowerParts (s : State) (ps : List Part) (p : Part) (n : Nat) : List Nat :=
  (ps.filter fun q => q.lane < p.lane &&
    meets (s.locOf s.issue.core q.place) n (s.locOf s.issue.core p.place) n).map (·.base)

/-- Record the operation of an access, with its items. -/
def State.startAccess (s : State) (flag : FlagSel) (kind : OpKind) (values : Tbl (List Word)) (lanes : List Nat)
    (main : List Nat) (items : List Item) (names : Nat) : State :=
  if lanes.isEmpty then s
  else
    let o : Op :=
      { id := s.fresh, uid := s.issGroup.uid, kind := kind, flag := flag, tl := lanes.any fun l => (s.issLane l).tl,
        lanes := maskOf lanes, left := main, values := values, ended := 0, pc := s.issue.p }
    (({ s with fresh := s.fresh + 1 + namesPerAccess * names } : State).addOp o).enqueue items

/-- Half k of a load or store of 16 bytes. -/
def Act.half (k : Nat) : Act → Act
  | .load _ => .load 8
  | .store d => .store ((d.drop (8 * k)).take 8)
  | a => a

/-- The single-copy atomic parts of an access of n bytes (R85): one, or the aligned 8-byte halves of 16 bytes. -/
def halves (n : Nat) (a : Act) (p : Place) : List (Act × Place) :=
  if n = 16 then [(a.half 0, p), (a.half 1, p.plus 8)] else [(a, p)]

/-- The name of half k of an access. -/
def halfName (base k : Nat) : Nat := if k = 0 then base else base + 65

/-- The names of the parts of an access of n bytes. -/
def Part.names (p : Part) (n : Nat) : List Nat := (List.range (if n = 16 then 2 else 1)).map (halfName p.base)

/-- The items of an access whose lanes act one by one; `order` makes a lane wait for lower lanes at common bytes. -/
def State.laneItems (s : State) (ps : List Part) (n : Nat) (addr : Nat → DWord) (sc : Scope) (order : Bool)
    (act : Nat → Act) : List Item :=
  ps.flatMap fun p =>
    let low := if order then s.lowerParts ps p n else []
    let pieces := (halves n (act p.lane) p.place).zipIdx.map fun c =>
      ⟨halfName p.base c.2, c.1.1, c.1.2, low.map fun b => halfName b c.2⟩
    s.orderedItems p.base s.fresh ((1 : BitVec 32) <<< p.lane) pieces (addr p.lane) p.ch p.vpn sc

/-! ## ld and st (R271 to R274) -/

/-- EA of a lane. -/
def State.memAddr (s : State) (a : Src) (off : DWord) (size l : Nat) : DWord :=
  s.src64 0 l a + off * BitVec.ofNat 64 size

/-- ld. -/
def execLd (f : MForm) (s : State) : Result :=
  let n := memSize f.ty
  let addr := s.memAddr f.addr (s.off33 f.off) n
  .next (s.orFault [s.operands [s.regsOk (memRegs f.ty) f.dst.toNat, s.srcOk 2 f.addr]]
    (s.access f.guard f.flag addr (fun l => s.preCheck (s.whoIs l) f.sp n n (addr l))
      (fun l => s.reach (s.whoIs l) (addr l) n .load)
      fun s rs =>
        let ps := s.parts rs
        s.startAccess f.flag (.load f.ty f.dst.toNat) [] (ps.map (·.lane)) (ps.flatMap (·.names n))
          (s.laneItems ps n addr (s.scopeSel f.scope) false fun _ => .load n) ps.length))

/-- SRCD of a store: four registers of a b128 are registers (R271). -/
def State.dataOk (s : State) (ty : MemTy) (d : Src) : Bool :=
  match ty, d with
  | .b128, .lit _ | .b128, .special _ => false
  | ty, d => s.srcOk (memRegs ty) d

/-- The data of a store. -/
def State.storeData (s : State) (ty : MemTy) (d : Src) (l : Nat) : List Byte :=
  match ty, d with
  | .b128, .reg r => ((s.srcRegs 1 l r.toNat 4).map fun w => natLe w.toNat 4).flatten
  | .n64, d | .i64, d => natLe (s.src64 1 l d).toNat 8
  | ty, d => natLe (s.src32 1 l d).toNat (memSize ty)

/-- st. -/
def execSt (f : MForm) (s : State) : Result :=
  let n := memSize f.ty
  let addr := s.memAddr f.addr (s.off33 f.off) n
  .next (s.orFault [s.operands [s.dataOk f.ty f.srcd, s.srcOk 2 f.addr]]
    (s.access f.guard f.flag addr (fun l => s.preCheck (s.whoIs l) f.sp n n (addr l))
      (fun l => s.reach (s.whoIs l) (addr l) n .store)
      fun s rs =>
        let ps := s.parts rs
        s.startAccess f.flag .store [] (ps.map (·.lane)) (ps.flatMap (·.names n))
          (s.laneItems ps n addr (s.scopeSel f.scope) true fun l => .store (s.storeData f.ty f.srcd l)) ps.length))

/-! ## Atomics (R275 to R279) -/

def atWide : AtTy → Bool
  | .i64 | .n64 => true
  | _ => false

def atomWide : AtomTy → Bool
  | .i64 | .n64 => true
  | _ => false

/-- A translated address of a lane whose leaf lies in the host-system window. -/
def State.hostLeaf (s : State) (w : Who) (a : DWord) (n : Nat) : Bool :=
  match s.resolve w a n with
  | .virt va =>
    match tlbFind (s.core w.core).tlb (s.grid w.grid).ctx va with
    | some e => s.mem.kind (e.pa + (va - e.va)) == .host
    | none => false
  | _ => false

/-- The checks of an atomic before translation; an atomic that the host window does not take raises an address fault
at check 4, before the leaf's permissions are looked at (R276). -/
def State.atomicPre (s : State) (n : Nat) (hostOk : Bool) (addr : Nat → DWord) (l : Nat) : Option (Nat × Nat) :=
  match s.preCheck (s.whoIs l) .any n n (addr l) with
  | some x => some x
  | none => if !hostOk && s.hostLeaf (s.whoIs l) (addr l) n then some (0x03, 0) else none

/-- An atomic that acts lane by lane. -/
def State.laneAtomic (s : State) (f : AForm) (w : Bool) (hostOk : Bool) (srcs : List Src) (act : Nat → Act) : State :=
  let n := if w then 8 else 4
  let addr := s.memAddr f.addr (s.off46 f.off) n
  s.orFault [s.operands (s.regsOk (wRegs w) f.dst.toNat :: s.srcOk 2 f.addr :: srcs.map (s.srcOk (wRegs w)))]
    (s.access f.guard f.flag addr (s.atomicPre n hostOk addr) (fun l => s.reach (s.whoIs l) (addr l) n .atomic)
      fun s rs =>
        let ps := s.parts rs
        s.startAccess f.flag (.atomic f.dst.toNat w f.gd) [] (ps.map (·.lane)) (ps.map (·.base))
          (s.laneItems ps n addr (s.scopeSel f.scope) true act) ps.length)

/-- An operand of an atomic at its width. -/
def State.atomSrc (s : State) (w : Bool) (k l : Nat) (x : Src) : DWord :=
  if w then s.src64 k l x else (s.src32 k l x).setWidth 64

/-- atom (R278). -/
def execAtom (f : AForm) (op : AtomOp) (ty : AtomTy) (s : State) : Result :=
  let w := atomWide ty
  .next (s.laneAtomic f w (op == .xchg) [f.srcd] fun l => .atom op ty (s.atomSrc w 1 l f.srcd))

/-- cas (R279). -/
def execCas (f : AForm) (ty : AtTy) (s : State) : Result :=
  let w := atWide ty
  .next (s.laneAtomic f w true [f.srcd, f.srce] fun l => .cas w (s.atomSrc w 1 l f.srcd) (s.atomSrc w 2 l f.srce))

/-- Two lanes of a faa name one address: the same generic address, resolved to the same place (R19, R277). -/
def sameAddress (addr : Nat → DWord) (c d : Nat × Place × Nat × Nat) : Bool := addr c.1 == addr d.1 && c.2.1 == d.2.1

/-- The lanes of one faa, by distinct address, in the order of each address's lowest lane (R277). -/
def byAddress (addr : Nat → DWord) : List (Nat × Place × Nat × Nat) → List (List (Nat × Place × Nat × Nat))
  | [] => []
  | c :: t =>
    let rest := byAddress addr t
    let mine := rest.filter fun g => g.any (sameAddress addr c)
    (c :: mine.flatten) :: rest.filter fun g => !g.any (sameAddress addr c)

/-- The key of a lane's addend in an operation's values. -/
def addendKey (l : Nat) : Nat := 32 + l

/-- faa (R277): one request for each distinct address, with the sum of its lanes' addends. -/
def execFaa (f : AForm) (ty : AtTy) (s : State) : Result :=
  let w := atWide ty
  let n := if w then 8 else 4
  let addr := s.memAddr f.addr (s.off46 f.off) n
  let add := fun l => s.atomSrc w 1 l f.srcd
  .next (s.orFault [s.operands [s.regsOk (wRegs w) f.dst.toNat, s.srcOk 2 f.addr, s.srcOk (wRegs w) f.srcd]]
    (s.access f.guard f.flag addr (s.atomicPre n true addr) (fun l => s.reach (s.whoIs l) (addr l) n .atomic)
      fun s rs =>
        let gs := byAddress addr rs
        let ps := s.parts (gs.filterMap (·.head?))
        let items := (gs.zip ps).flatMap fun c =>
          let ls := c.1.map (·.1)
          let sum := ls.foldl (fun a l => a + add l) (0 : DWord)
          s.orderedItems c.2.base s.fresh (maskOf ls) [⟨c.2.base, .faa w sum, c.2.place, []⟩] (addr c.2.lane) c.2.ch
            c.2.vpn
            (s.scopeSel f.scope)
        s.startAccess f.flag (.atomic f.dst.toNat w f.gd)
          (rs.map fun c => (addendKey c.1, [lowWord (add c.1), highWord (add c.1)])) (rs.map (·.1)) (ps.map (·.base))
          items ps.length))

/-! ## Fences (R280, R95) -/

/-- The points of a fence. -/
def fencePoints (o : MemOrd) (sc : Scope) : List Act :=
  match o with
  | .rel => [.release sc]
  | .acq => [.acquire sc]
  | .ar => [.release sc, .acquire sc]
  | .sc => [.sc sc]
  | .relaxed => []

/-- fence. -/
def execFence (o : MemOrd) (sc : Scope) (s : State) : Result :=
  .next (s.orFault [s.illegal (o != .relaxed)]
    (s.issLanes.foldl (fun u l => (fencePoints o sc).foldl (fun u a =>
      u.pushPoint s.issue.core s.issTeam.uid s.issGrid.ctx s.issGroup.uid l a) u) s.advance))

/-! ## Pinning (R80 to R82) -/

/-- What a leaf gives a pin: the line and its hint, or SPACE before NOMAP (Table 3.8); the releasing of a pin asks for no R (R82). -/
def State.pinLeaf (s : State) (reads : Bool) (e : Tlb) (va : Nat) : Except Nat (Nat × Nat) :=
  let pa := e.pa + (va - e.va)
  if !s.mem.isMem pa then .error 5 else if e.r || !reads then .ok (pa / 256, e.ch) else .error 6

/-- The line of a pin's address, or the code that says why there is none (Table 3.8). A walk that meets a table outside near, far
and expansion memory finds no translation: NOMAP (log entry 58). -/
def State.pinLine (s : State) (reads : Bool) (l : Nat) (a : DWord) : State × Except Nat (Nat × Nat) :=
  if !(tagOf a == 0x0 || tagOf a == 0xA) || !mbzOk a then (s, .error 5)
  else
    match s.resolve (s.whoIs l) a 1 with
    | .virt va =>
      match tlbFind s.issCore.tlb s.issGrid.ctx va with
      | some e => (s, s.pinLeaf reads e va)
      | none =>
        match s.lookup (clusterOf s.issue.core) s.issGrid.ctx s.issGrid.desc.ptRoot va with
        | (s, .leaf e) => (s.coreTlbAdd s.issue.core e, s.pinLeaf reads e va)
        | (s, .hole _ _) => (s, .error 5)
        | (s, .bad _ _) => (s, .error 6)
    | _ => (s, .error 5)

/-- Fill the sectors of a line that are not valid (R81). -/
def State.fillLine (s : State) (id line ch : Nat) : State :=
  (List.range 4).foldl (fun s i =>
    if (s.sector id (4 * line + i)).v then s
    else s.l1Miss s.issue.core s.issGroup.uid id (4 * line + i) (.ctx s.issGrid.ctx) ch) s

/-- cache.pin of one lane: the status code. -/
def State.pinOne (s : State) (l : Nat) (a : DWord) : State × Nat :=
  match s.pinLine true l a with
  | (s, .error c) => (s, c)
  | (s, .ok (line, ch)) =>
    let id := s.l1Of s.issue.core
    let ctx := s.issGrid.ctx
    let pins := (s.l1At id).pins
    if pins.any fun p => p.line == line && p.ctx == ctx then (s, 1)
    else if pins.any fun p => p.line == line then (s, 2)
    else if 6 ≤ (pins.filter fun p => p.line % l1Sets id == line % l1Sets id).length then (s, 3)
    else if s.issGrid.desc.pinQuota ≤ (pins.filter fun p => p.ctx == ctx).length then (s, 4)
    else
      let s := s.makeRoom id line (some (s.issue.core, s.issGroup.uid))
      let s := s.updL1 id fun c => { c with pins := ⟨line, ctx⟩ :: c.pins }
      (s.fillLine id line ch, 0)

/-- cache.unpin of one lane. -/
def State.unpinOne (s : State) (l : Nat) (a : DWord) : State × Nat :=
  match s.pinLine false l a with
  | (s, .error _) => (s, 7)
  | (s, .ok (line, _)) =>
    let id := s.l1Of s.issue.core
    let mine := fun (p : Pin) => p.line == line && p.ctx == s.issGrid.ctx
    if (s.l1At id).pins.any mine then
      (s.updL1 id fun c => { c with pins := c.pins.filter fun p => !mine p }, 0)
    else (s, 7)

/-- The lanes take their turns in ascending order; each one's status. -/
def State.pinAll (one : State → Nat → State × Nat) (s : State) : List Nat → State × Tbl Nat
  | [] => (s, [])
  | l :: t =>
    let (s, c) := one s l
    let (s, r) := State.pinAll one s t
    (s, (l, c) :: r)

/-- A pin instruction: statuses are written and the flag falls in the same step (log entry 12). -/
def State.pinInstr (s : State) (h : VHead) (a : Src) (one : State → Nat → DWord → State × Nat) : State :=
  s.orFault [s.regForm 1 h.dst [(2, a)]]
    (let go := s.issLanes.filter fun l => !(s.issLane l).flagFull h.flag
     let (u, codes) := State.pinAll (fun u l => one u l (s.src64 0 l a)) s go
     u.put32 h.flag h.dst fun l => BitVec.ofNat 32 (tblGet 0 codes l))

/-- cache.pin (R81). -/
def execCachePin (h : VHead) (a : Src) (s : State) : Result := .next (s.pinInstr h a State.pinOne)
/-- cache.unpin (R82). -/
def execCacheUnpin (h : VHead) (a : Src) (s : State) : Result := .next (s.pinInstr h a State.unpinOne)

end Sys2Proof.Machine
end

