-- ==== Sys2Proof/Machine/Perform.lean ====
section
/-! DEFINITION. The abstract machine of chapter 04: an issued access is performed, a release or acquire point is
reached, a sector is filled or evicted (R91 to R96); and the completions of loads and atomics, walks, sweeps, zeroing
and remote scratchpad requests (02, 03). An event whose condition does not hold changes nothing (log entry 13). -/

namespace Sys2Proof.Machine

/-! ## What an engine operation reads from scratchpad (Table 13.3, R320, R326) -/

/-- Data bytes of a square, and the offset of its tag. -/
def squareData (f : MxFmt) : Nat := 2048 * mxBits f
def squareTag (f : MxFmt) : Nat := squareData f + (if f = .e2m1 then 2064 else 0)

/-- The scratchpad bytes that an operation reads as a copy does its source: where they begin, and how many. -/
def EngAct.source : EngAct → Option (Place × Nat)
  | .ldb f p _ _ _ _ _ => some (p, squareTag f.fmt + 16)
  | .accLd _ p _ count => some (p, 512 * count)
  | _ => none

/-! ## What holds an item back (R94, R95, R96, R134) -/

/-- The items of a core's queue that stand before one. -/
def Core.before (k : Core) (id : Nat) : List Item := k.queue.takeWhile fun j => j.id != id

/-- Two items share a lane. -/
def Item.shares (i j : Item) : Bool := i.uid == j.uid && (i.lanes &&& j.lanes) != 0

/-- An ordered access at a wide scope, or an atomic, acts at H also on a cacheable location (Table 4.3). -/
def State.atHome (s : State) (core : Nat) (i : Item) : Bool :=
  match i.place with
  | .dev _ =>
    match i.act with
    | .load _ => s.wide core i.scope && (i.ord == .acq || i.ord == .sc)
    | .store _ => s.wide core i.scope && (i.ord == .rel || i.ord == .sc)
    | _ => true
  | _ => true

/-- The access leaves its core as a request to its destination (R132, R134). -/
def State.isRequest (s : State) (core : Nat) (i : Item) : Bool :=
  match i.place with
  | .dev _ => s.atHome core i
  | .spad _ => false
  | _ => true

/-- An earlier item holds back an access. -/
def State.holdsAccess (s : State) (core : Nat) (i j : Item) : Bool :=
  match j.act with
  | .release _ => i.act.writes
  | .acquire _ | .sc _ => true
  | a =>
    let x := s.locOf core j.place
    let y := s.locOf core i.place
    meets x a.size y i.act.size || (s.isRequest core i && s.isRequest core j && sameBlock x y)

/-- An access that a release part or fence.sc of a narrower scope than system does not wait for (R96). -/
def exempt (sc : Scope) (j : Item) : Bool :=
  sc != .sys && (match j.place with
    | .peer _ _ _ | .host _ => true
    | _ => false)

/-- An earlier item holds back a point (R95): a fence is an access that later fences keep behind, but for the parts of an
acquire, which wait for reads and for the acquire points that hold every later access. An access that has ended counts as performed
(R152). -/
def holdsPoint (a : Act) (j : Item) : Bool :=
  match a with
  | .release sc | .sc sc => j.act.isPoint || (!j.ended && !exempt sc j)
  | .acquire _ =>
    (match j.act with
     | .acquire _ | .sc _ => true
     | b => b.reads && !j.ended)
  | _ => false

/-- The request was sent before another of its core. -/
def Core.sentBefore (k : Core) (j i : Item) : Bool :=
  match j.sent, i.sent with
  | none, _ => false
  | some _, none => true
  | some a, some b => a.2 < b.2 || (a.2 == b.2 && (k.before i.id).any fun x => x.id == j.id)

/-- A request of the core to the same block has been sent before and is not yet performed: later ones keep behind it (R134). -/
def State.behindSent (s : State) (core : Nat) (i : Item) : Bool :=
  s.isRequest core i && (s.core core).queue.any fun j =>
    j.id != i.id && (s.core core).sentBefore j i && sameBlock (s.locOf core j.place) (s.locOf core i.place)

/-- A write of one of the item's lanes that has ended, and that its team left behind in another core's queue when it moved, comes
first (R94, R152). -/
def State.leftAhead (s : State) (core : Nat) (i : Item) : Bool :=
  !i.act.isPoint && (s.leftBehind core i.uid).any fun j => i.shares j && s.holdsAccess core i j

/-- Something holds the item back. -/
def State.blocked (s : State) (core : Nat) (i : Item) : Bool :=
  let k := s.core core
  k.waitsFor i.after || (!i.act.isPoint && s.behindSent core i) || s.leftAhead core i ||
    (k.before i.id).any fun j => i.shares j && (if i.act.isPoint then holdsPoint i.act j else s.holdsAccess core i j)

def Core.item (k : Core) (id : Nat) : Option Item := k.queue.find? fun i => i.id == id

/-! ## What waits at a switch (R136) -/

/-- A window holds back a request of a core. -/
def State.heldAtSwitch (s : State) (core : Nat) (i : Item) : Bool :=
  s.isRequest core i && s.fabric.windowHolds (s.pathTo core i.ch i.place) i.place.target

/-! ## Results -/

/-- The registers that a load's bytes fill (R272); of a b128, those of one half. -/
def loadWords (ty : MemTy) (bs : List Byte) : List Word :=
  let x := leNat bs
  match ty with
  | .i8 => [(BitVec.ofNat 8 x).signExtend 32]
  | .i16 => [(BitVec.ofNat 16 x).signExtend 32]
  | .n8 | .n16 | .n32 | .i32 => [BitVec.ofNat 32 x]
  | .n64 | .i64 => [BitVec.ofNat 32 x, BitVec.ofNat 32 (x / 2 ^ 32)]
  | .b128 => wordsOf bs

/-- A value at a width, as registers. -/
def valueWords (w : Bool) (x : Nat) : List Word :=
  if w then [BitVec.ofNat 32 x, BitVec.ofNat 32 (x / 2 ^ 32)] else [BitVec.ofNat 32 x]

def wordsVal : List Word → Nat
  | [] => 0
  | w :: t => w.toNat + 2 ^ 32 * wordsVal t

/-- The values of a faa's lanes from the old value: the prefix rebuild of R104 and R277. -/
def rebuild (o : Op) (w : Bool) : Nat → List Nat → Tbl (List Word) → Tbl (List Word)
  | _, [], t => t
  | f, l :: ls, t =>
    rebuild o w (f + wordsVal (tblGet [] o.values (addendKey l))) ls
      (tblSet t l (valueWords w (f % 2 ^ (if w then 64 else 32))))

/-- Put the two registers of half k among the four of a b128 load. -/
def putHalf (old : List Word) (k : Nat) (ws : List Word) : List Word :=
  let old := if old.isEmpty then List.replicate 4 0 else old
  if k = 0 then ws ++ old.drop 2 else old.take 2 ++ ws

/-- The values that an item's lanes receive for the old value x. -/
def Op.lanesGet (o : Op) (i : Item) (x : Nat) : Tbl (List Word) :=
  match o.kind with
  | .load .b128 _ => (lanesOf i.lanes).foldl (fun t l => tblSet t l
      (putHalf (tblGet [] t l) (i.place.off % 16 / 8) (loadWords .b128 (natLe x 8)))) o.values
  | .load ty _ => (lanesOf i.lanes).foldl (fun t l => tblSet t l (loadWords ty (natLe x (memSize ty)))) o.values
  | .atomic _ w _ =>
    (match i.act with
     | .faa _ _ => rebuild o w x (lanesOf i.lanes) o.values
     | _ => (lanesOf i.lanes).foldl (fun t l => tblSet t l (valueWords w x)) o.values)
  | _ => o.values

/-- What an operation's lanes take where there is no value: zeros. -/
def Op.zeros (o : Op) : List Word :=
  match o.kind with
  | .load ty _ => List.replicate (memRegs ty) 0
  | .atomic _ w _ => valueWords w 0
  | _ => []

/-- The operation of an item takes the old value x, or zeros where there is none; `unknown` is the outcome-unknown status. A
store's operation completes with its last item (R273). -/
def Core.settleItem (k : Core) (i : Item) (x : Option Nat) (unknown : Bool) : Core :=
  match tblFind k.ops i.op with
  | none => k
  | some o =>
    let zero := (lanesOf i.lanes).foldl (fun t l => tblSet t l o.zeros) o.values
    let values := match x with
      | none => zero
      | some x => if (o.ended &&& i.lanes) != 0 then o.values else o.lanesGet i x
    let atomic := match o.kind with
      | .atomic _ _ _ => true
      | _ => false
    let o := { o with left := o.left.filter (· != i.id), values := values,
                      ended := if x.isNone && (unknown || !atomic) then o.ended ||| i.lanes else o.ended }
    let k := { k with ops := tblSet k.ops i.op o }
    if o.kind = .store && o.left.isEmpty then k.completeOp o else k

/-- Change the lists of requests that wait for a rank: the hold buffer of its cluster, and what waits at a core of it. -/
def State.updWaits (s : State) (p : Place) (f : List RemoteReq → List RemoteReq) : State :=
  match p with
  | .rank c _ _ _ _ =>
    let wait := fun (i : Nat) (k : Core) => if clusterOf i == c && !k.remote.isEmpty then { k with remote := f k.remote } else k
    ({ s with cores := tblMap wait s.cores }).updCluster c fun y => { y with hold := f y.hold }
  | _ => s

/-- A request waits for its rank no more. -/
def State.unwait (s : State) (p : Place) (id : Nat) : State := s.updWaits p fun q => q.filter fun r => r.item != id

/-- An item leaves its core's queue, and the lists of requests that wait for a rank. -/
def State.dropItem (s : State) (core id : Nat) : State :=
  let place : Option Place := ((s.core core).queue.find? fun i => i.id == id).map (·.place)
  let s := s.updCore core fun k => { k with queue := k.queue.filter fun j => j.id != id }
  match place with
  | some p => s.unwait p id
  | none => s

/-- An item has been performed with the old value x, or has ended with zeros: it leaves the queue. -/
def State.finishItem (s : State) (core : Nat) (i : Item) (x : Option Nat) (unknown : Bool := false) : State :=
  (s.dropItem core i.id).updCore core fun k => k.settleItem i x unknown

/-! ## Atomics (Table 12.2, R277 to R279) -/

def atomTyBits : AtomTy → Nat
  | .i64 | .n64 => 64
  | _ => 32

def atomUnsigned : AtomTy → Bool
  | .n32 | .n64 => true
  | _ => false

/-- new(o, b) (Table 12.2). -/
def atomNew (op : AtomOp) (ty : AtomTy) (o b : Nat) : Nat :=
  let w := atomTyBits ty
  let b := b % 2 ^ w
  match op with
  | .xchg => b
  | .min => if ty = .f32 then fminBits .f32 false o b else intMin w (atomUnsigned ty) o b
  | .max => if ty = .f32 then fmaxBits .f32 false o b else intMax w (atomUnsigned ty) o b
  | .and => o &&& b
  | .or => o ||| b
  | .xor => o ^^^ b
  | .fadd => faddBits .f32 .rn false o b

/-- The value that an action writes over the old one; nothing where it does not write (R279). -/
def Act.newVal (a : Act) (o : Nat) : Option Nat :=
  match a with
  | .atom op ty b => some (atomNew op ty o b.toNat)
  | .faa w x => some ((o + x.toNat) % 2 ^ (if w then 64 else 32))
  | .cas w c x =>
    let m := 2 ^ (if w then 64 else 32)
    if o = c.toNat % m then some (x.toNat % m) else none
  | _ => none

/-! ## Bytes at H by place -/

/-- A write that meets a page whose scrub-pending bit is set starts its sweep and waits (R46). -/
def State.waitSweep (s : State) (page : Nat) (i : Instr) : State :=
  let m := s.mem
  { s with mem := { m with sweeping := if m.sweeping.contains page then m.sweeping else page :: m.sweeping
                           waiters := if m.waiters.contains (page, i) then m.waiters else m.waiters ++ [(page, i)] } }

/-- Where an item's bytes stand now: scratchpad places resolved to a core and a byte of its scratchpad. -/
inductive Spot where
  | mem (pa : Nat)
  | host (a : Nat)
  | spad (core at_ : Nat)
  | peer (q off : Nat)
  | wait
  deriving DecidableEq, Repr

/-- Where a translated address lies: in the host window, or in device memory. -/
def Mem.spotAt (m : Mem) (pa : Nat) : Spot := if m.kind pa == .host then .host (pa - hostFirst) else .mem pa

/-- The bytes of a request that waits for a rank: its place and size. It is an item or an engine operation of a core, or a
fetch-and-add of the fabric. -/
def State.remoteBytes (s : State) (r : RemoteReq) : Option (Place × Nat) :=
  match r.core with
  | some c =>
    (match (s.core c).item r.item with
     | some i => some (i.place, i.act.size)
     | none => ((s.core c).engine.ops.find? fun o => o.id == r.item).bind fun o => o.act.source)
  | none =>
    ((s.fabric.reqs ++ s.fabric.recs.flatMap fun c => c.reqs).find? fun q => q.id == r.item).map fun q =>
      (q.place, if q.w64 then 8 else 4)

/-- The rank a place lies in. -/
def Place.rankOf : Place → Option (Nat × Nat × Nat × Nat)
  | .rank c r g co _ => some (c, r, g, co)
  | _ => none

/-- Where n bytes of a rank stand: its core and byte, with every line present; nothing while the rank moves or a line is absent. -/
def State.rankSpot (s : State) (p : Place) (n : Nat) : Option (Nat × Nat) :=
  match p with
  | .rank c r g co off =>
    (match s.rankAt c r g co with
     | some (t, slot) =>
       let x := (s.team t slot).base * 256 + off
       if s.linesPresent t x n then some (t, x) else none
     | none => none)
  | _ => none

/-- A request to a rank of a core may be served (R61, R156): the requests of the hold buffer to the rank go first, in their
order; requests that wait at the target are served in arrival order, and with 64 of them its port takes no other. R61 does not say
whether a request whose lines are present passes an earlier one that still waits for an absent line: in the model it does. The writes
of copies and engine operations pass a stopped port, since they make lines present (log entry 78). -/
def State.remoteTurn (s : State) (p : Place) (target : Nat) (r : RemoteReq) : Bool :=
  let held := match p.rankOf with
    | some (c, _) => ((s.cluster c).hold.takeWhile (·.item != r.item)).any fun q =>
        (s.remoteBytes q).any fun b => b.1.rankOf == p.rankOf
    | none => false
  let q := (s.core target).remote
  let turn := if q.any (·.item == r.item) then
      !((q.takeWhile (·.item != r.item)).any fun a => (s.remoteBytes a).any fun b => (s.rankSpot b.1 b.2).isSome)
    else q.length < 64
  !held && turn

/-- Where a request to n bytes of a rank is served now. -/
def State.rankServed (s : State) (p : Place) (n : Nat) (r : RemoteReq) : Spot :=
  match s.rankSpot p n with
  | some (t, x) => if s.remoteTurn p t r then .spad t x else .wait
  | none => .wait

def State.spot (s : State) (core : Nat) (i : Item) : Spot :=
  match i.place with
  | .dev pa => .mem pa
  | .host a => .host a
  | .spad x => if s.linesPresent core x i.act.size then .spad core x else .wait
  | .rank c r g co off => s.rankServed (.rank c r g co off) i.act.size ⟨some core, i.id⟩
  | .peer _ _ (some (pa, _)) => s.mem.spotAt pa
  | .peer q off none => .peer q off

/-- Read n bytes at H. -/
def State.readSpot (s : State) (who : Charge) (ch n : Nat) : Spot → State × List Byte
  | .mem pa => if s.mem.isMem pa then s.hRead who ch pa n else (s.chargeLoss who (dieOf pa), List.replicate n 0)
  | .host a => s.hostRead who a n
  | .spad c x => s.spadRead c x n
  | .peer q off => (s, memRead (tblGet [] s.mem.peers q) off n)
  | .wait => (s, List.replicate n 0)

/-- Write bytes at H; a page of device memory is not pending. -/
def State.writeSpot (s : State) (who : Charge) (ch : Nat) (bs : List Byte) : Spot → State
  | .mem pa => if s.mem.isMem pa then s.hWrite who ch pa bs else s
  | .host a => s.hostWrite who a bs
  | .spad c x => s.spadWrite c x bs
  | .peer q off => { s with mem := { s.mem with peers := tblUpd [] s.mem.peers q fun m => memWrite m off bs } }
  | .wait => s

/-- The page that a write at a spot must sweep first. -/
def State.mustSweep (s : State) : Spot → Option Nat
  | .mem pa => if s.scrubPending pa then some (pageOf pa) else none
  | _ => none

/-- An AtomicOp that the host completes with an error (R276, R413), or that a failed stream would carry (R407). -/
def State.hostFails (s : State) (a : Act) : Spot → Bool
  | .host h => a.writes && a.reads && (!s.hostTakes h a.size || s.ideFailed s.hostStream)
  | .mem pa => a.writes && a.reads && s.expLost (pa / 64)
  | _ => false

/-- What a failing AtomicOp counts: once. -/
def State.failAtomic (s : State) (who : Charge) (p : Spot) : State :=
  match p with
  | .host _ => if s.ideFailed s.hostStream then s.chargeLoss who 0 else s.hostError who
  | .mem pa => s.chargeLoss who (dieOf pa)
  | _ => s

/-- The request stands behind a stalled stream (R407): to the host, or for a sector of expansion memory that the L2 does not hold. -/
def State.linkHolds (s : State) : Spot → Bool
  | .mem pa => (s.l2Sector (pa / 64)).isNone && s.ideHeld (s.expIde pa)
  | .host _ => s.ideHeld s.hostStream
  | _ => false

/-- A load, store or atomic at H (Table 4.3): the new state and the old value, or the page that is swept first. A cas
that does not write is a read (R279). -/
def State.actAt (s : State) (who : Charge) (ch : Nat) (a : Act) (p : Spot) : State × Except Nat Nat :=
  match a with
  | .load n =>
    let (s, bs) := s.readSpot who ch n p
    (s, .ok (leNat bs))
  | .store d =>
    match s.mustSweep p with
    | some page => (s, .error page)
    | none => (s.writeSpot who ch d p, .ok 0)
  | a =>
    if s.hostFails a p then (s.failAtomic who p, .ok 0)
    else
      let (t, bs) := s.readSpot who ch a.size p
      match a.newVal (leNat bs) with
      | none => (t, .ok (leNat bs))
      | some v =>
        match s.mustSweep p with
        | some page => (s, .error page)
        | none => (t.writeSpot who ch (natLe v a.size) p, .ok (leNat bs))

/-! ## ACCESS_PERFORM -/

/-- What an access finds when it reaches its destination: an access to a module that the connected-group table no longer
allows is refused (R144), unless it has ended and is still to be applied (R154), and one to a rank that no team holds any more (R15).
The error is a fault code and its FLT_AUX. -/
def State.destSpot (s : State) (core : Nat) (i : Item) : Except (Nat × Nat) Spot :=
  match i.place with
  | .peer q _ _ => if i.ended || s.reachable q then .ok (s.spot core i) else .error (0x0C, q)
  | .rank c r g co _ => if ((s.cluster c).rankEntry g co r).isNone then .error (0x03, 0) else .ok (s.spot core i)
  | _ => .ok (s.spot core i)

/-- The report of a fault of an item, found after its lanes moved on. -/
def State.itemReport (s : State) (core : Nat) (i : Item) (code aux : Nat) : Option Report :=
  let k := s.core core
  let o := (tblFind k.ops i.op)
  (k.findGroup i.uid).map fun g =>
    { code := code, uid := i.uid, slot := g.1, group := g.2, lanes := i.lanes, pc := (o.map (·.pc)).getD 0, addr := i.addr,
      aux := BitVec.ofNat 64 aux, merged := false, tl := o.any (·.tl), orig := 0, late := true }

/-- An access that faults after its lanes moved on (R144, R156; log entry 14): nothing of it is performed, its lanes take zeros,
and the fault is reported for them; where it had ended already there is nothing to report. -/
def State.refuseItem (s : State) (core : Nat) (i : Item) (code aux : Nat) : State :=
  let t := s.finishItem core i none
  if i.ended then t
  else
    match s.itemReport core i code aux with
    | some r => t.report core r
    | none => t

/-- A cacheable access of its own L1 (Table 4.3): relaxed or narrow. -/
def State.performL1 (s : State) (core : Nat) (i : Item) (pa : Nat) : State :=
  match i.act with
  | .load n =>
    let (s, bs) := s.l1Read core i.uid (.ctx i.ctx) i.ch pa n
    s.finishItem core i (some (leNat bs))
  | .store d => (s.l1Store core i.uid i.ctx i.ch pa d).finishItem core i (some 0)
  | _ => s

/-- An access of an ended team to scratchpad lines that another team has been given: it leaves no trace there, since the new team's
lines were zeroed after it (R57). -/
def Core.staleSpad (k : Core) (i : Item) : Bool :=
  match i.place with
  | .spad x => (k.findTeam i.team).isNone && k.teams.any fun t =>
      t.2.base * 256 < x + i.act.size && x < (t.2.base + t.2.scr) * 256
  | _ => false

/-- An access at H; an ordered access or atomic on a cacheable location takes SFLUSH of its sector first. -/
def State.performHome (s : State) (core : Nat) (i : Item) : State :=
  match s.destSpot core i with
  | .error (code, aux) => s.refuseItem core i code aux
  | .ok .wait => s
  | .ok p =>
    let s := match i.place with
      | .dev pa => s.sflush (s.l1Of core) (pa / 64)
      | _ => s
    let ch := match i.place with
      | .peer _ _ (some (_, ch)) => ch
      | _ => i.ch
    match s.actAt (.ctx i.ctx) ch i.act p with
    | (s, .error page) => s.waitSweep page (.accessPerform core i.id)
    | (t, .ok x) => if s.hostFails i.act p then t.finishItem core i none true else t.finishItem core i (some x)

/-- A fetch-and-add that travels as a request which switches may combine (R145). -/
def State.viaSwitch (s : State) (i : Item) : Bool :=
  match i.act, i.place with
  | .faa _ _, .dev pa => s.mem.isMem pa
  | .faa _ _, .rank _ _ _ _ _ => true
  | _, _ => false

/-- Perform an item that nothing holds back, and that no switch may combine or holds in or behind a window. One that acts at H
waits behind a stalled stream; one of the L1 that meets it waits as its turn does (Step.lean). -/
def State.perform (s : State) (core : Nat) (i : Item) : State :=
  if i.act.isPoint || s.viaSwitch i || s.blocked core i || s.heldAtSwitch core i then s
  else
    let home := fun (_ : Unit) => if (s.core core).staleSpad i then s.finishItem core i (some 0)
      else if s.linkHolds (s.spot core i) then s else s.performHome core i
    match i.place with
    | .dev pa => if s.atHome core i || !s.mem.isMem pa then home () else s.performL1 core i pa
    | _ => home ()

/-! ## Points (R95) -/

/-- The sectors of an L1 structure with dirty bytes, in rising order: a WB takes them so, where Table 4.3 allows any order (log entry
71). -/
def L1.dirty (c : L1) : List Nat := (c.sectors.filter fun x => x.2.dm != 0).map (·.1)

/-- One step of the WB that a point asks for (R91): the sectors that are dirty when it starts are written back one by one, and with
none left `done` follows. -/
def State.pointStep (s : State) (core : Nat) (i : Item) (wide : Bool) (done : State → State) : State :=
  if s.blocked core i then s
  else
    match (if wide then i.wb.getD (s.l1At (s.l1Of core)).dirty else []) with
    | [] => (done s).dropItem core i.id
    | k :: rest =>
      (s.wbSector (s.l1Of core) k).updCore core fun c =>
        { c with queue := c.queue.map fun j => if j.id == i.id then { j with wb := some rest } else j }

/-- RELEASE_POINT: with every earlier access performed, the L1 is written back at a wide scope. -/
def execReleasePoint (core id : Nat) (s : State) : Result :=
  match (s.core core).item id with
  | some i =>
    match i.act with
    | .release sc => .next (s.pointStep core i (s.wide core sc) fun s => s)
    | _ => .next s
  | none => .next s

/-- ACQUIRE_POINT: of an acquire part, or the point of a fence.sc. INV comes last: what became dirty since its WB is written
back by it. -/
def execAcquirePoint (core id : Nat) (s : State) : Result :=
  match (s.core core).item id with
  | some i =>
    match i.act with
    | .acquire sc | .sc sc =>
      let wide := s.wide core sc
      .next (s.pointStep core i wide fun s => if wide then s.l1WBINV (s.l1Of core) else s)
    | _ => .next s
  | none => .next s

/-! ## FILL and EVICT (R91) -/

/-- An L1 structure that is in use: a core's in private mode, a cluster's in fused mode (R73). -/
def State.l1InUse (s : State) (id : Nat) : Bool :=
  if id < 2048 then !(s.cluster (id / 256)).fused else id < 2056 && (s.cluster (id - 2048)).fused

/-- The caching hint of a page, from a translation that the L1's core or cluster holds (R39). -/
def State.hintOf (s : State) (l1 pa : Nat) : Nat :=
  let core := l1Core l1 (pa / 64)
  let held := (s.core core).tlb ++ (s.cluster (clusterOf core)).tlb
  ((held.find? fun e => e.pa ≤ pa && pa < e.pa + (if e.big then 2 ^ 29 else 65536)).map (·.ch)).getD 0

/-- FILL of a sector. No access asks for it, so an uncorrectable error that it finds is charged to nobody: UE_UNOWNED counts it
(log entry 60). -/
def execFill (l1 sector : Nat) (s : State) : Result :=
  if s.l1InUse l1 && s.mem.isMem (sector * 64) then
    .next ((s.makeRoom l1 (sector / 4) none).l1Fill l1 sector .unowned (s.hintOf l1 (sector * 64)))
  else .next s

/-- EVICT of a sector. -/
def execEvict (l1 sector : Nat) (s : State) : Result :=
  if s.l1InUse l1 && (tblFind (s.l1At l1).sectors sector).isSome then .next (s.sflush l1 sector) else .next s

/-! ## Completions (R212, R272, R275) -/

/-- LOAD_COMPLETE: every lane's value has been read; the registers are written and the flag falls. -/
def execLoadComplete (core op : Nat) (s : State) : Result :=
  match (s.core core).readyOp op with
  | some o =>
    match o.kind with
    | .load _ _ => .next (s.updCore core fun k => k.completeOp o)
    | _ => .next s
  | none => .next s

/-- ATOMIC_REPLY: every lane's result is written, with GD, and the flag falls. -/
def execAtomicReply (core op : Nat) (s : State) : Result :=
  match (s.core core).readyOp op with
  | some o =>
    match o.kind with
    | .atomic _ _ _ => .next (s.updCore core fun k => k.completeOp o)
    | _ => .next s
  | none => .next s

/-! ## Walks (R36, R40, R41) -/

/-- The root that a core's walk uses: that of a grid of the context, one with a team on the core before any other (R373). A walk of
a context that has no grid left has no lane that waits for it. -/
def State.rootFor (s : State) (core ctx : Nat) : Option Nat :=
  match (s.core core).teams.find? fun t => (s.grid t.2.grid).ctx == ctx with
  | some t => some (s.grid t.2.grid).desc.ptRoot
  | none => (s.sched.grids.find? fun g => g.2.ctx == ctx && g.2.started).map (·.2.desc.ptRoot)

/-- A walk ends for every core of its cluster that waits for it (R41): one lookup, one walk. -/
def State.endWalk (s : State) (cl ctx vpn : Nat) (f : Core → Core) : State :=
  let g := fun (c : Nat) (k : Core) =>
    if clusterOf c == cl && k.walks.contains (ctx, vpn) then f { k with walks := k.walks.filter (· != (ctx, vpn)) } else k
  ({ s with cores := tblMap g s.cores }).updCluster cl fun c => { c with walks := c.walks.filter (· != (ctx, vpn)) }

/-- What a core takes from a walk: its leaf, or its fault until the parked lanes re-execute. -/
def Core.takeWalk (ctx vpn : Nat) (w : WalkRes) (k : Core) : Core :=
  match w with
  | .leaf e => { k with tlb := tlbAdd 8 32 k.tlb e }
  | .hole e level => { k with walkFaults := ⟨ctx, vpn, 3, level, some e⟩ :: k.walkFaults }
  | .bad code level => { k with walkFaults := ⟨ctx, vpn, code, level, none⟩ :: k.walkFaults }

/-- The walks that a cluster's walker has in flight: the first 128 (R41). -/
def walksInFlight : Nat := 128

/-- WALK_COMPLETE: the shared TLB is looked up, and the tables walked where it misses; the lanes parked on it
re-execute. -/
def execWalkComplete (core ctx vpn : Nat) (s : State) : Result :=
  let cl := clusterOf core
  if !(s.core core).walks.contains (ctx, vpn) || !((s.cluster cl).walks.take walksInFlight).contains (ctx, vpn) then .next s
  else
    match s.rootFor core ctx with
    | none => .next (s.endWalk cl ctx vpn id)
    | some root =>
      let (t, w) := s.lookup cl ctx root (vpn * 65536)
      .next (t.endWalk cl ctx vpn (Core.takeWalk ctx vpn w))

/-! ## Sweeps and zeroing (R46, R57) -/

/-- SWEEP_COMPLETE: the page reads zero, its bit clears, and the writes that wait land in arrival order. -/
def execSweepComplete (page : Nat) (s : State) : Result :=
  .next (if s.mem.sweeping.contains page then s.sweepPage page else s)

/-- SCRATCH_LINE_ZEROED: lines are zeroed in ascending order of a reservation, one in each cycle (R57); copies and the engine write
to a line after its zeroing (log entry 59). -/
def execScratchLineZeroed (core line : Nat) (s : State) : Result :=
  if (s.core core).zeroing.head? = some line && !(s.core core).zeroed then .next (s.updCore core Core.zeroHead) else .next s

/-! ## Remote scratchpad requests (R61, R155) -/

/-- A request to a rank that cannot be served: it enters the hold buffer of 256 while its rank moves, or waits at the target, which
holds 64, and leaves the hold buffer as it does. -/
def State.waitRank (s : State) (p : Place) (r : RemoteReq) : State :=
  match p with
  | .rank c k g co _ =>
    (match s.rankAt c k g co with
     | none =>
       let q := (s.cluster c).hold
       if q.any (·.item == r.item) || 256 ≤ q.length then s else s.updCluster c fun y => { y with hold := y.hold ++ [r] }
     | some (t, _) =>
       let q := (s.core t).remote
       if q.any (·.item == r.item) || 64 ≤ q.length then s
       else (s.updCore t fun x => { x with remote := x.remote ++ [r] }).updCluster c fun y =>
         { y with hold := y.hold.filter (·.item != r.item) })
  | _ => s

/-- An item has been sent. -/
def State.stampSent (s : State) (core id : Nat) : State :=
  s.updCore core fun k => { k with queue := k.queue.map fun i =>
    if i.id == id && i.sent.isNone then { i with sent := some (s.ns, s.stamp) } else i }

/-- REMOTE_SCRATCH_REQUEST: a tag 0x9 request reaches its rank. It is performed where its lines are present; it waits at
the target where one is absent; it is held while the rank moves. -/
def execRemoteScratchRequest (core id : Nat) (s : State) : Result :=
  match (s.core core).item id with
  | none => .next s
  | some i =>
    match i.place with
    | .rank c r g co _ =>
      if i.act.isPoint || i.inFab || s.blocked core i || ((s.cluster c).rankEntry g co r).isNone then .next s
      else if (s.rankSpot i.place i.act.size).isSome then .next (s.perform core i)
      else if s.viaSwitch i && (s.rankAt c r g co).isSome then .next s
      else .next ((s.waitRank i.place ⟨some core, id⟩).stampSent core id)
    | _ => .next s

end Sys2Proof.Machine
end

