-- ==== Sys2Proof/Machine/Fabric.lean ====
section
/-! DEFINITION. The fabric (06): combining fetch-and-adds in windows and records (R145 to R150), lost and expired records
(R151, R153), the fabric timeout (R152) and held requests for a moving rank (R155, R156). Only faa requests stand in
switches as data; every other access reaches its destination in the one step that performs it (log entry 15). -/

namespace Sys2Proof.Machine

/-! ## Requests on their way (R132, R133) -/

/-- The output port of a switch towards the next hop: a core, a link, an L2 slice or a die. -/
def State.outPort (s : State) (sw : Nat) (r : FabReq) : Nat :=
  match r.path, r.place with
  | (n, _) :: _, _ => if sw < 8 then 256 + (n - 8) else n
  | [], .rank c k g co _ => ((s.rankAt c k g co).map fun x => x.1 % 256).getD 0
  | [], _ => 258

/-- A request leaves a switch: it stands before the next one, or at its destination. -/
def FabReq.forward (r : FabReq) : FabReq :=
  match r.path with
  | (n, p) :: t => { r with sw := some n, port := p, path := t, heldBy := none }
  | [] => { r with sw := none, heldBy := none }

def FabReq.block (r : FabReq) : Place := r.place.block

def State.setFabric (s : State) (f : Fabric → Fabric) : State := { s with fabric := f s.fabric }

def State.updComb (s : State) (sw : Nat) (f : CombStat → CombStat) : State :=
  s.setFabric fun b => { b with comb := tblUpd ⟨0, 0, 0, 0⟩ b.comb sw f }

def Fabric.dropReq (b : Fabric) (id : Nat) : Fabric := { b with reqs := b.reqs.filter fun q => q.id != id }

/-- Replace a record, or forget it. -/
def Fabric.putRec (b : Fabric) (c : Contrail) : Fabric :=
  { b with recs := b.recs.map fun x => if x.id = c.id then c else x }
def Fabric.dropRec (b : Fabric) (id : Nat) : Fabric := { b with recs := b.recs.filter fun x => x.id != id }

/-- Send a request on, behind what has been sent before it. -/
def Fabric.sendOn (b : Fabric) (r : FabReq) : Fabric :=
  let b := b.dropReq r.id
  { b with reqs := b.reqs ++ [r.forward] }

/-! ## Arrival at a switch (R136, R145, R146) -/

/-- The request that a core sends for a faa item, standing before its cluster's switch; none while its rank moves. -/
def State.sendReq (s : State) (core : Nat) (i : Item) : Option FabReq :=
  match i.act, s.pathTo core i.ch i.place with
  | .faa w add, (sw, p) :: t =>
    let there := match i.place with
      | .rank c r g co _ => (s.rankAt c r g co).isSome && s.remoteTurn i.place ((s.rankAt c r g co).getD (0, 0)).1 ⟨some core, i.id⟩
      | _ => true
    if s.viaSwitch i && there then
      some { id := i.id, origin := some (core, i.id), peer := none, record := none, ctx := some i.ctx, page := none,
             leaves := [(core, i.id)], ch := i.ch, sw := some sw, port := p, path := t, place := i.place, w64 := w,
             addend := add, heldBy := none }
    else none
  | _, _ => none

/-- The item with an id, in any core of a cluster. -/
def State.findItem (s : State) (cluster id : Nat) : Option (Nat × Item) :=
  s.cores.findSome? fun (c, k) => if clusterOf c = cluster then (k.item id).map fun i => (c, i) else none

/-- A request of the same core to the same block is ahead of a faa item, other than an add that stands in an open window which
the item may join at its port (R134, R146). -/
def State.joinsBehind (s : State) (core : Nat) (i : Item) : Bool :=
  (s.core core).waitsFor i.after ||
    ((s.core core).queue.any fun j =>
      j.id != i.id && ((s.core core).sentBefore j i && s.isRequest core j && sameBlock (s.locOf core j.place) (s.locOf core i.place)
          && !(j.inFab && j.place == i.place && s.fabric.recs.any fun c =>
            c.isOpen && c.place == i.place && c.reqs.any fun q => q.origin == some (core, j.id)))) ||
    s.leftAhead core i || ((s.core core).before i.id).any fun j => i.shares j && s.holdsAccess core i j

/-- The request that arrives at a switch under a name: one that stands before it with none ahead of it from its port to
its block (R134), or one that a core of the cluster sends now. -/
def State.arriving (s : State) (sw id : Nat) : Option FabReq :=
  match s.fabric.reqs.find? fun q => q.id == id with
  | some r =>
    let ahead := s.fabric.reqs.takeWhile fun q => q.id != id
    if r.sw == some sw && r.heldBy.isNone
        && !(ahead.any fun q => q.sw == some sw && q.port == r.port && q.block == r.block && q.heldBy.isNone) then
      some r
    else none
  | none =>
    match s.findItem sw id with
    | some (c, i) =>
      if i.inFab || s.joinsBehind c i then none
      else
        match s.sendReq c i with
        | some r => if r.sw = some sw then some r else none
        | none => none
    | none => none

def FabReq.sameKey (r : FabReq) (c : Contrail) : Bool := r.place == c.place && r.w64 == c.w64

/-- The open window that a request must stay behind (R136): it holds a request from the same port to the same block, and
the new one cannot join it, or follows one that is held already. -/
def Fabric.heldBehind (b : Fabric) (sw : Nat) (r : FabReq) : Option Contrail :=
  b.recs.find? fun c =>
    c.sw == sw && c.isOpen && c.place.block == r.block && (c.reqs.any fun q => q.port == r.port)
      && (!r.sameKey c || b.reqs.any fun q => q.heldBy == some c.id && q.port == r.port && q.block == r.block)

/-- Merge order (R150): ascending input port, then arrival. -/
def insertReq (r : FabReq) : List FabReq → List FabReq
  | [] => [r]
  | q :: t => if r.port < q.port then r :: q :: t else q :: insertReq r t

/-- Records of a switch's output port. -/
def recordCap (sw : Nat) : Nat := if sw < 8 then 256 else 4096

/-- Cycles of a window (R146). -/
def windowLen (sw : Nat) : Nat := if sw < 8 then 32 else 64

/-- The clock region of a switch: the uncore of its compute die, or the first region of its exchange die (R374, log entry 47). -/
def switchRegion (sw : Nat) : Nat := if sw < 8 then sw * 17 + 16 else 136 + (sw - 8) * 4

/-- A window's time has run out (R146). -/
def State.windowOver (s : State) (c : Contrail) : Bool :=
  windowLen c.sw ≤ ((s.region (switchRegion c.sw)).cyc + 2 ^ 64 - c.opened) % 2 ^ 64

/-- The switch may combine a request: its bit, and its kind of key (R145, R146). -/
def Fabric.combines (b : Fabric) (sw : Nat) (r : FabReq) : Bool := b.combEn.getLsbD sw && (sw < 8 || r.place.rankOf.isNone)

/-- Who a request is charged to: its context, or nobody for a peer's (R54). -/
def chargeOf : Option Nat → Charge
  | some c => .ctx c
  | none => .unowned

/-- The sum of the addends of a record. -/
def addendSum (l : List FabReq) : DWord := l.foldl (fun a q => a + q.addend) 0

/-- Where requests that wait for a rank become one, it has the place of the first. -/
def mergeWaits (ids : List Nat) (m : Nat) : List RemoteReq → List RemoteReq
  | [] => []
  | r :: t => if ids.contains r.item then ⟨none, m⟩ :: t.filter fun q => !ids.contains q.item else r :: mergeWaits ids m t

/-- Close a window (R146): one requester goes on unchanged and the record is freed; more leave as one request. Then the
held requests leave, in their order (R136). -/
def State.closeWindow (s : State) (c : Contrail) : State :=
  let held := s.fabric.reqs.filter fun q => q.heldBy == some c.id
  let s := match c.reqs with
    | [] => s.setFabric fun b => b.dropRec c.id
    | [r] => s.setFabric fun b => (b.dropRec c.id).sendOn r
    | r :: _ =>
      let (id, s) := s.name
      let m : FabReq :=
        { id := id, origin := none, peer := none, record := some (c.sw, c.id), ctx := r.ctx, page := r.page,
          leaves := (c.reqs.map FabReq.leaves).flatten, ch := r.ch, sw := none, port := 0, path := c.path, place := c.place, w64 := c.w64,
          addend := addendSum c.reqs, heldBy := none }
      let shut := { c with isOpen := false, sentAt := s.ns }
      let s := s.updComb c.sw fun x => { x with merged := wrapInc 20 x.merged }
      (s.updWaits c.place (mergeWaits (c.reqs.map FabReq.id) id)).setFabric fun b => (b.putRec shut).sendOn m
  s.setFabric fun b => held.foldl (fun b q => b.sendOn q) b

/-- A request joins an open window; the record that holds 64 requesters closes at once. -/
def State.joinWindow (s : State) (c : Contrail) (r : FabReq) : State :=
  let full := { c with reqs := insertReq r c.reqs }
  let s := s.setFabric fun b => (b.dropReq r.id).putRec full
  if full.reqs.length = 64 then s.closeWindow full else s

/-- Open a window for a request. -/
def State.openWindow (s : State) (sw : Nat) (r : FabReq) : State :=
  let (id, s) := s.name
  let c : Contrail :=
    { id := id, sw := sw, place := r.place, w64 := r.w64, isOpen := true, opened := (s.region (switchRegion sw)).cyc, reqs := [r],
      out := s.outPort sw r, path := r.path, reply := none, sentAt := s.ns }
  s.setFabric fun b => { b.dropReq r.id with recs := b.recs ++ [c] }

/-- A request of a core's item is now in the fabric: it has left the hold buffer and its core. Where it waits at its rank it keeps
its place there. -/
def State.markSent (s : State) (r : FabReq) : State :=
  match r.origin with
  | some (c, id) =>
    let s := (s.stampSent c id).updCore c fun k =>
      { k with queue := k.queue.map fun i => if i.id == id then { i with inFab := true } else i }
    s.updCluster (clusterOf c) fun y => { y with hold := y.hold.filter (· != ⟨some c, id⟩) }
  | none => s

/-- Windows of a switch whose time has run out close before a request that arrives is looked at (R146). -/
def State.closeOver (s : State) (sw : Nat) : State :=
  (s.fabric.recs.filter fun c => c.sw == sw && c.isOpen && s.windowOver c).foldl (fun s c => s.closeWindow c) s

/-- A request arrives at a switch. -/
def State.arrive (s : State) (sw : Nat) (r : FabReq) : State :=
  let s := (s.markSent r).closeOver sw
  match s.fabric.heldBehind sw r with
  | some c => s.setFabric fun b =>
      let b := b.dropReq r.id
      { b with reqs := b.reqs ++ [{ r with heldBy := some c.id }] }
  | none =>
    match s.fabric.recs.find? fun c => c.sw == sw && c.isOpen && c.out == s.outPort sw r && r.sameKey c with
    | some c => s.joinWindow c r
    | none =>
      if !s.fabric.combines sw r then s.setFabric fun b => b.sendOn r
      else if (s.fabric.recs.filter fun c => c.sw == sw && c.out == s.outPort sw r).length < recordCap sw then
        s.openWindow sw r
      else (s.updComb sw fun x => { x with pass := wrapInc 20 x.pass }).setFabric fun b => b.sendOn r

/-- SWITCH_REQUEST_ARRIVAL (R132, R136, R145, R146). -/
def execSwitchRequestArrival (sw id : Nat) (s : State) : Result :=
  match s.arriving sw id with
  | some r => .next (s.arrive sw r)
  | none => .next s

/-- COMBINE_WINDOW_CLOSE: a window's time has run out (R146). -/
def execCombineWindowClose (sw rid : Nat) (s : State) : Result :=
  match s.fabric.recs.find? fun c => c.id == rid && c.sw == sw && c.isOpen with
  | some c => .next (if s.windowOver c then s.closeWindow c else s)
  | none => .next s

/-! ## At the destination, and the replies (R148, R151, R153) -/

/-- A request receives its old value (R148): its item, the record that it carries, or the peer that sent it. A reply
that finds no record is counted (R153); one that finds its request ended is discarded (R152). -/
def State.replyTo (s : State) (r : FabReq) (x : Nat) : State :=
  let v := x % 2 ^ (if r.w64 then 64 else 32)
  match r.origin, r.record with
  | some (c, id), _ =>
    match (s.core c).item id with
    | some i => s.finishItem c i (some v)
    | none => s
  | none, some (sw, id) =>
    match s.fabric.recs.find? fun c => c.id == id with
    | some c => s.setFabric fun b => b.putRec { c with reply := some (BitVec.ofNat 64 v) }
    | none => s.updComb sw fun x => { x with expired := satInc 12 x.expired }
  | none, none => s.send (.data (natLe v (if r.w64 then 8 else 4)))

/-- A request of the fabric has been applied: what ended while it was on its way leaves its core's queue (R154), and the
requests of peers that stood behind a peer's add come again (R134). -/
def State.applied (s : State) (r : FabReq) : State :=
  let s := r.leaves.foldl (fun s o => match (s.core o.1).item o.2 with
    | some i => if i.ended then s.dropItem o.1 o.2 else s
    | none => s) (s.setFabric fun b => b.dropReq r.id)
  let next := s.fabric.behind.map Turn.again
  { s with agenda := next ++ s.agenda, fabric := { s.fabric with behind := [] } }

/-- The rank that a request goes to has ended on its way: its bytes are nobody's any more. A merged request can never fault (R149),
so its lanes take zero and the outcome-unknown status (R106; log entry 14). -/
def State.loseReq (s : State) (r : FabReq) : State :=
  let s := (s.unwait r.place r.id).setFabric fun b => (match r.record with
    | some (_, id) => b.dropRec id
    | none => b).dropReq r.id
  r.leaves.foldl (fun s o => match (s.core o.1).item o.2 with
    | some i => s.finishItem o.1 i none true
    | none => s) s

/-- The items that a request serves end with a fault: none of its adds is applied (R156). -/
def State.refuseReq (s : State) (r : FabReq) (code aux : Nat) : State :=
  let s := s.setFabric fun b => (match r.record with
    | some (_, id) => b.dropRec id
    | none => b).dropReq r.id
  r.leaves.foldl (fun s o => match (s.core o.1).item o.2 with
    | some i => s.refuseItem o.1 i code aux
    | none => s) s

/-- Apply a request at a spot, with SFLUSH of the sector in the L1 of each core it serves (R91, R148). -/
def State.applyReq (s : State) (r : FabReq) (p : Spot) : State :=
  let s := match r.place with
    | .dev pa => r.leaves.foldl (fun (s : State) (o : Nat × Nat) => s.sflush (s.l1Of o.1) (pa / 64)) s
    | _ => s
  match s.actAt (chargeOf r.ctx) r.ch (.faa r.w64 r.addend) p with
  | (s, .error page) => s.waitSweep page (.accessPerform 0 r.id)
  | (t, .ok x) =>
    if s.hostFails (.faa r.w64 r.addend) p then
      r.leaves.foldl (fun (s : State) (o : Nat × Nat) => match (s.core o.1).item o.2 with
        | some i => s.finishItem o.1 i none true
        | none => s) (t.applied r)
    else (t.applied r).replyTo r x

/-- Apply a request that stands at its destination, with none ahead of it to its block (R134, R148). To a rank it goes as any
request does (R61, R155). -/
def State.performReq (s : State) (r : FabReq) : State :=
  let ahead := s.fabric.reqs.takeWhile fun q => q.id != r.id
  if ahead.any fun q => q.sw.isNone && q.block == r.block then s
  else
    match r.place with
    | .dev pa => if s.linkHolds (.mem pa) then s else s.applyReq r (.mem pa)
    | .rank c k g co _ =>
      if ((s.cluster c).rankEntry g co k).isNone then s.loseReq r
      else
        (match s.rankServed r.place (if r.w64 then 8 else 4) ⟨none, r.id⟩ with
         | .wait => if (s.rankSpot r.place (if r.w64 then 8 else 4)).isSome then s else s.waitRank r.place ⟨none, r.id⟩
         | p => (s.unwait r.place r.id).applyReq r p)
    | _ => s

/-- ACCESS_PERFORM (R91): an access of a core, or a request that stands at its destination. -/
def execAccessPerform (core id : Nat) (s : State) : Result :=
  match s.fabric.reqs.find? fun q => q.id == id && q.sw.isNone with
  | some r => .next (s.performReq r)
  | none =>
    match (s.core core).item id with
    | some i => .next (s.perform core i)
    | none => .next s

/-- Give each requester of a record its share: F plus the addends before it. -/
def State.shares (s : State) : Nat → List FabReq → State
  | _, [] => s
  | f, r :: t => (s.replyTo r f).shares (f + r.addend.toNat) t

/-- CONTRAIL_REPLY_SPLIT (R148), or the record is lost (R151). -/
def execContrailReplySplit (sw rid : Nat) (lost : Bool) (s : State) : Result :=
  match s.fabric.recs.find? fun c => c.id == rid && c.sw == sw with
  | some c =>
    match c.reply with
    | none => .next s
    | some f =>
      let s := s.setFabric fun b => b.dropRec rid
      .next (if lost then s.updComb sw fun x => { x with lost := satInc 12 x.lost } else s.shares f.toNat c.reqs)
  | none => .next s

/-- FAB_CTL.TMO_US in nanoseconds. -/
def Fabric.tmo (b : Fabric) : Nat := b.tmoUs * 1000

/-- RECORD_EXPIRE (R153): no reply within TMO_US + 50 µs of the send. -/
def execRecordExpire (sw rid : Nat) (s : State) : Result :=
  match s.fabric.recs.find? fun c => c.id == rid && c.sw == sw && !c.isOpen && c.reply.isNone with
  | some c =>
    if c.sentAt + s.fabric.tmo + 50000 ≤ s.ns then
      .next ((s.setFabric fun b => b.dropRec rid).updComb sw fun x =>
        { x with expired := satInc 12 x.expired })
    else .next s
  | none => .next s

/-! ## Requests that end without a reply (R139, R152) -/

/-- A fabric atomic, a tag 0xC request or a request to the host: its core starts a timer when it sends it (R152, R413). -/
def Item.timed (i : Item) : Bool :=
  (match i.place with
   | .peer _ _ _ | .host _ => true
   | .dev _ | .rank _ _ _ _ _ => i.act.writes && i.act.reads
   | _ => false) && !i.act.isPoint

/-- The timed requests of a core that nothing holds back have been sent. -/
def State.stampCore (s : State) (core : Nat) : State :=
  (s.core core).queue.foldl (fun s i =>
    if i.timed && i.sent.isNone && !s.blocked core i then s.stampSent core i.id else s) s

/-- At the end of each step, what has become free to leave has left. -/
def State.stampSends (s : State) : State :=
  (s.cores.filter fun c => !c.2.queue.isEmpty).foldl (fun s c => s.stampCore c.1) s

/-- The add of a faa item is still on its way. -/
def Fabric.carries (b : Fabric) (core id : Nat) : Bool :=
  let mine := fun (q : FabReq) => q.leaves.contains (core, id)
  b.reqs.any mine || b.recs.any fun c => c.isOpen && c.reqs.any mine

/-- End a request: its lanes take zero and the outcome-unknown status, and a store counts as performed; DATA_LOSS counts
it. A write that was sent and is still on its way is applied, once, when it reaches its destination (R106, R154); until then the
item keeps its place among its lane's accesses (R94, R134). -/
def State.endRequest (s : State) (core : Nat) (i : Item) (coming : Bool) : State :=
  let s := s.chargeLoss (.ctx i.ctx) (clusterOf core % 2)
  if coming && i.act.writes then
    s.updCore core fun k =>
      let k := k.settleItem i none true
      { k with queue := k.queue.map fun j => if j.id == i.id then { j with op := 0, after := [], ended := true } else j }
  else s.finishItem core i none true

/-- FABRIC_TIMEOUT of an item (R152). A request into host memory ends by its own event (R413). -/
def State.timeoutItem (s : State) (core : Nat) (i : Item) : State :=
  if i.timed && !s.mem.inHost i.place && !i.ended && i.sent.any fun t => t.1 + s.fabric.tmo ≤ s.ns then
    s.endRequest core i (!i.inFab || s.fabric.carries core i.id)
  else s

/-! ## Requests held for a moving rank (R155, R156) -/

/-- A held request ends with a scratchpad-target-gone fault at its requester: nothing of it is performed, and the lanes of
a load take zero (R156, R357). -/
def State.targetGone (s : State) (r : RemoteReq) (rank : Nat) : State :=
  match r.core with
  | some c =>
    (match (s.core c).item r.item with
     | some i => s.refuseItem c i 0x0D rank
     | none => s)
  | none =>
    match s.fabric.reqs.find? fun q => q.id == r.item with
    | some q => s.refuseReq q 0x0D rank
    | none => s

/-- The requests that stand held for an entry: those of the hold buffer, and the items of the cluster's cores that wait before it
where it is full. -/
def State.heldFor (s : State) (cluster : Nat) (e : RankEntry) : List RemoteReq :=
  let key := some (cluster, e.rank, e.grid, e.cohort)
  let waits := s.cores.flatMap fun c => (c.2.queue.filter fun i =>
    i.place.rankOf == key && !i.act.isPoint && !i.inFab && i.sent.isSome).map fun i => (⟨some c.1, i.id⟩ : RemoteReq)
  let reqs := (s.fabric.reqs.filter fun q => q.place.rankOf == key && q.sw.isNone).map fun q => (⟨none, q.id⟩ : RemoteReq)
  let buf := (s.cluster cluster).hold.filter fun r => (s.remoteBytes r).any fun b => b.1.rankOf == key
  buf ++ (waits ++ reqs).filter fun r => !buf.contains r

end Sys2Proof.Machine
end

