-- ==== Sys2Proof/Machine/Copies.lean ====
section
/-! DEFINITION. Copies (05 R111 to R124): per-lane copies with the coalescer, batches, tile copies with their layout
records, the CREAD and CWRITE steps of the copy engine (12 R282 to R286), and copy-engine faults (15 R362, R363). -/

namespace Sys2Proof.Machine

/-! ## Regions after the checks at issue (R115) -/

/-- Where an address leads before translation; the checks have passed. -/
def State.refOf (s : State) (w : Who) (a : DWord) (n : Nat) : Ref :=
  match s.resolve w a n with
  | .virt va => .virt va
  | .at_ p => .at_ p
  | .bad _ _ => .virt 0

def Ref.plus (r : Ref) (n : Nat) : Ref :=
  match r with
  | .virt va => .virt (va + n)
  | .at_ p => .at_ (p.plus n)

/-- The place of a region's byte now, and its caching hint. -/
def State.refPlace (s : State) (core ctx root : Nat) (r : Ref) (need : Need) :
    State × Except (Nat × Nat) (Place × Nat) :=
  match r with
  | .at_ p => (s, .ok (p, 0))
  | .virt va =>
    match s.tlbTranslate core ctx root va need with
    | (s, .error e) => (s, .error e)
    | (s, .ok (pa, ch)) =>
      match s.placeOf pa with
      | some p => (s, .ok (p, ch))
      | none => (s, .error (3, 0))

/-- The core and scratchpad byte of a scratchpad place now; nothing while its rank moves. -/
def State.spadSpot (s : State) (core : Nat) (p : Place) : Option (Nat × Nat) :=
  match p with
  | .spad x => some (core, x)
  | .rank c r g co off =>
    match s.rankAt c r g co with
    | some (k, slot) => some (k, (s.team k slot).base * 256 + off)
    | none => none
  | _ => none

def Place.isSpad : Place → Bool
  | .spad _ | .rank _ _ _ _ _ => true
  | _ => false

def Ref.isSpad : Ref → Bool
  | .at_ p => p.isSpad
  | .virt _ => false

/-- The scratchpad lines of n bytes at a region, as core and line; nothing while its rank moves. -/
def State.refLines (s : State) (core : Nat) (r : Ref) (n : Nat) : Option (List (Nat × Nat)) :=
  match r with
  | .virt _ => some []
  | .at_ p =>
    if p.isSpad then
      match s.spadSpot core p with
      | some (k, x) => some ((linesOf x n).map fun l => (k, l))
      | none => none
    else some []

/-! ## Conditions and L1 actions of ISSUE (R60, R112) -/

/-- The earlier accesses of a lane that a copy of n bytes waits for before ISSUE: writes of bytes it reads, any access of
bytes it writes, and acquire points. -/
def State.copyBlockers (s : State) (l : Nat) (src dst : Option Place) (n : Nat) : List Nat :=
  let core := s.issue.core
  let hits := fun (p : Option Place) (i : Item) =>
    match p with
    | some p => meets (s.locOf core i.place) i.act.size (s.locOf core p) n
    | none => false
  ((s.issCore.queue ++ s.leftBehind core s.issGroup.uid).filter fun i =>
    i.uid == s.issGroup.uid && i.lanes.getLsbD l &&
      (match i.act with
       | .acquire _ | .sc _ => true
       | .release _ => false
       | a => (a.writes && hits src i) || hits dst i)).map (·.id)

/-- The L1 actions of ISSUE on n bytes (R112): the source's dirty bytes are written back, the destination's sectors
flushed. -/
def State.copyL1 (s : State) (core n : Nat) (read : Bool) (p : Option Place) : State :=
  match p with
  | some (.dev pa) =>
    if s.mem.isMem pa then
      (sectorsOf pa n).foldl (fun s k =>
        if read then s.wbSector (s.l1Of core) k else s.sflush (s.l1Of core) k) s
    else s
  | _ => s

/-- The place of a region for the L1 actions and for the accesses that go first; a translation that fails, and a leaf that refuses,
are left to the copy engine (R115). In its own window and in another module's a copy has no L1 action. -/
def State.issuePlace (s : State) (r : Ref) : State × Option Place :=
  match r with
  | .at_ p => (s, some p)
  | .virt va =>
    match s.tlbLeaf s.issue.core s.issGrid.ctx s.issGrid.desc.ptRoot va with
    | (s, .leaf e) => (s, s.placeOf (e.pa + (va - e.va)))
    | (s, _) => (s, none)

/-! ## OUT (R56, R58) -/

/-- OUT of a line rises or falls. A line beyond the cores is one of a pre-empted team, in its saved state (R368). -/
def State.outAdd (s : State) (l : Nat × Nat) : State :=
  s.updCore l.1 fun k => { k with outs := tblSet k.outs l.2 (tblGet 0 k.outs l.2 + 1) }

/-- Cores below this are real; a line of a pre-empted team is counted under this number plus the team's name. -/
def savedCore : Nat := 2 ^ 20

def State.outSub (s : State) (l : Nat × Nat) : State :=
  if l.1 < savedCore then
    s.updCore l.1 fun k =>
      let n := tblGet 0 k.outs l.2
      { k with outs := if n ≤ 1 then tblDel k.outs l.2 else tblSet k.outs l.2 (n - 1)
               freed := if n ≤ 1 then k.freed.filter (· != l.2) else k.freed }
  else
    let dec := fun (w : Waiting) =>
      if w.team.uid + savedCore = l.1 then { w with fallen := tblSet w.fallen l.2 (tblGet 0 w.fallen l.2 + 1) } else w
    { s with sched := { s.sched with waiting := s.sched.waiting.map dec } }

/-! ## The units of a copy -/

/-- Block (i, j) of an ordinal (Table 5.2). -/
def Tile.blockOf (t : Tile) (q : Nat) : Nat × Nat :=
  if t.order = 1 then (q % t.nr, q / t.nr)
  else if t.order = 2 && q / t.nc % 2 = 1 then (q / t.nc, t.nc - 1 - q % t.nc)
  else (q / t.nc, q % t.nc)

/-- Bytes of a tile. -/
def Tile.bytes (t : Tile) : Nat := t.count * t.br * t.bw

/-- The memory and scratchpad offsets of byte b of a tile (R122). -/
def Tile.pair (t : Tile) (b : Nat) : Nat × Nat :=
  let per := t.br * t.bw
  let q := b / per
  let (i, j) := t.blockOf (t.first + q)
  let row := b % per / t.bw
  let ch := b % t.bw / 16
  let cs := ch ^^^ (row % 2 ^ t.swz)
  let inner := if t.block = 0 then row * t.bw + cs * 16 else (cs * t.br + row) * 16
  ((i * t.br + row) * t.pitch + j * t.bw + b % t.bw, q * per + inner + b % 16)

/-- A unit: its lane, source, destination, length and the bytes it does not write. -/
def Copy.unit (c : Copy) (k : Nat) : Option CopyPart :=
  match c.plan with
  | .parts ps => ps[k]?
  | .tile t =>
    if k < t.bytes then
      let (m, x) := t.pair k
      let mem := t.mb.plus m
      let sp := t.sb.plus x
      some { lane := lowLane c.lanes, src := if t.st then sp else mem, dst := if t.st then mem else sp, len := 1,
             skip := 0 }
    else none

/-- How many units a copy has. -/
def Copy.total (c : Copy) : Nat :=
  match c.plan with
  | .parts ps => ps.length
  | .tile t => t.bytes

def Copy.state (c : Copy) (k : Nat) : CopyUnit := tblGet ⟨none, false, false, false, none⟩ c.units k

/-- The units of a lane's copy; a tile copy is one lane's. -/
def Copy.unitsOf (c : Copy) (l : Nat) : List Nat :=
  match c.plan with
  | .parts ps => (ps.zipIdx.filter fun p => p.1.lane == l).map (·.2)
  | .tile t => List.range t.bytes

/-- A lane's copy has taken every CWRITE (R111). -/
def Copy.laneDone (c : Copy) (l : Nat) : Bool := (c.unitsOf l).all fun k => (c.state k).done

def State.updCopy (s : State) (core id : Nat) (f : Copy → Copy) : State :=
  s.updCore core fun k => { k with copies := tblAdj k.copies id f }

/-! ## Completion (R118, R123, R128, R363) -/

/-- A lane's copy completes: the lane's batches learn of it, with its error status and whether it wrote a cacheable location. -/
def State.completeLane (s : State) (core : Nat) (c : Copy) (l : Nat) (aborted : Bool) : State :=
  let us := (c.unitsOf l).map c.state
  let err := aborted || us.any (·.err)
  let cached := us.any (·.cached)
  let s := s.updCopy core c.id fun x =>
    { x with ended := x.ended ||| maskOf [l], stopped := x.stopped &&& ~~~(maskOf [l]), failed := tblDel x.failed l }
  if c.tile.isSome then s
  else s.updCore core fun k => k.updByUid c.uid fun g => g.mapLanes [l] fun _ x => x.finishCopy c.id err cached

/-- With every lane's copy complete, a line transfer or tile copy ends: the lines that it still counts leave OUT, its operation
learns of it, a tile's number completes on the team's timeline, and its ring stage takes a full-side arrival. -/
def State.completeCopy (s : State) (core : Nat) (c : Copy) : State :=
  let s := s.updCore core fun k => { k with copies := tblDel k.copies c.id }
  let s := c.outs.foldl (fun s l => s.outSub l) s
  match c.tile with
  | none =>
    match tblFind (s.core core).ops c.op with
    | none => s
    | some o =>
      let o := { o with left := o.left.filter (· != c.id) }
      s.updCore core fun k => if o.left.isEmpty then k.completeOp o else { k with ops := tblSet k.ops c.op o }
  | some n =>
    match (s.core core).findTeam c.team with
    | none => s
    | some slot =>
      s.updTeam core slot fun t =>
        let t := { t with tlCopy := t.tlCopy.complete n }
        match c.ring with
        | some (r, st) => t.ringArrive r st false []
        | none => t

/-! ## cpy (R282, R116, R117) -/

/-- Bytes of a size code. -/
def cpySize (sz : BitVec 2) : Nat := 4 * 2 ^ sz.toNat

/-- The line of an address: an aligned 256 B block of one space, rank or peer; a private line is one lane's. -/
def lineKey (l : Nat) (a : DWord) : Nat × Nat := (a.toNat / 256, if tagOf a = 0xA then l else 0)

/-- A lane of a cpy that may issue. -/
structure CpyLane where
  lane : Nat
  src  : DWord
  dst  : DWord
  srcR : Ref
  dstR : Ref
  srcP : Option Place
  dstP : Option Place
  deriving DecidableEq, Repr

def CpyLane.key (c : CpyLane) : (Nat × Nat) × Nat × Nat := (lineKey c.lane c.src, lineKey c.lane c.dst)

/-- Line transfers in the order of each one's lowest lane (R116). -/
def transfers : List CpyLane → List (List CpyLane)
  | [] => []
  | c :: t =>
    let rest := transfers t
    let mine := (rest.filter fun g => g.any fun d => d.key == c.key).flatten
    (c :: mine) :: rest.filter fun g => !g.any fun d => d.key == c.key

/-- The location that a lane's cpy of n bytes writes. -/
def State.cpyTo (s : State) (n l : Nat) (a : DWord) : Option (Nat × Nat) :=
  match s.preCheck (s.whoIs l) .any n n a with
  | some _ => none
  | none =>
    match (s.issuePlace (s.refOf (s.whoIs l) a n)).2 with
    | some p => some (s.locOf s.issue.core p)
    | none => some (99, a.toNat)

/-- The bytes o to o + len − 1 of a lane's destination that higher lanes of the instruction write, issued or parked (R117), as a mask;
`tos` gives where each lane writes its n bytes. -/
def skipMask (tos : List (Nat × Nat × Nat)) (l n o len : Nat) : Nat :=
  match tos.find? fun d => d.1 == l with
  | none => 0
  | some (_, sp, a) =>
    (List.range len).foldl (fun m i =>
      if tos.any fun d => l < d.1 && meets d.2 n (sp, a + o + i) 1 then m + 2 ^ i else m) 0

/-- The destination bytes of a lane's parked cpy that are left to higher lanes of it (R117). -/
def State.skipped (s : State) (l : Nat) : Nat :=
  match (s.issLane l).cpySkip with
  | some (p, m) => if p = s.issue.p then m else 0
  | none => 0

/-- The parts of a lane's copy: aligned parts of min(size, 8) bytes (R111). -/
def State.cpyParts (s : State) (tos : List (Nat × Nat × Nat)) (n : Nat) (c : CpyLane) : List CopyPart :=
  let m := min n 8
  (List.range (n / m)).map fun i =>
    { lane := c.lane, src := c.srcR.plus (i * m), dst := c.dstR.plus (i * m), len := m,
      skip := skipMask tos c.lane n (i * m) m ||| s.skipped c.lane / 2 ^ (i * m) % 2 ^ m }

/-- The team whose reservation a destination of tag 0x9 lies in, and where it stands (R57, R120). -/
def State.dstHome (s : State) (r : Ref) : Option DstHome :=
  match r with
  | .at_ (.rank c k g co _) => (s.rankAt c k g co).map fun x => ⟨(s.team x.1 x.2).uid, x.1, (s.team x.1 x.2).base⟩
  | _ => none

/-- What holds a transfer back: no free entry, or a destination line at OUT = 63 (R116). -/
def State.transferHeld (s : State) (g : List CpyLane) (n : Nat) : Option WaitOn :=
  if requestEntries ≤ s.issCore.entriesUsed then some .entries
  else
    let ls := (g.flatMap fun c => (s.refLines s.issue.core c.dstR n).getD []).eraseDups
    match ls.find? fun l => tblGet 0 (s.core l.1).outs l.2 = 63 with
    | some (k, _) => some (.outFull k ((ls.filter fun l => l.1 == k).map (·.2)))
    | none => none

/-- A transfer issues: the L1 actions, OUT, its entry, and the open batches of its lanes. -/
def State.issueTransfer (s : State) (tos : List (Nat × Nat × Nat)) (g : List CpyLane) (n op : Nat) : State × Nat :=
  let core := s.issue.core
  let (id, s) := s.name
  let s := g.foldl (fun s c => (s.copyL1 core n true c.srcP).copyL1 core n false c.dstP) s
  let outs := (g.flatMap fun c => (s.refLines core c.dstR n).getD []).eraseDups
  let s := outs.foldl (fun s l => s.outAdd l) s
  let lanes := g.map (·.lane)
  let c : Copy :=
    { id := id, op := op, team := s.issTeam.uid, uid := s.issGroup.uid, group := s.issue.group, ctx := s.issGrid.ctx,
      grid := s.issTeam.grid, lanes := maskOf lanes, plan := .parts (g.flatMap (s.cpyParts tos n)), units := [],
      outs := outs, tile := none, ring := none, stopped := 0, failed := [], ended := 0,
      home := g.head?.bind fun c => s.dstHome c.dstR, since := s.ns, pc := s.issue.p }
  let s := s.updCore core fun k => { k with copies := tblSet k.copies id c }
  (s.updIssGroup fun y => y.mapLanes lanes fun _ x =>
    { x with openB := { x.openB with copies := id :: x.openB.copies }, cpySkip := none }, id)

/-- The transfers issue in order; the first that is held parks its lanes and every later one's. The result names the
transfers that issued, their lanes, and the lanes that park. -/
def State.issueTransfers (s : State) (tos : List (Nat × Nat × Nat)) (n op : Nat) :
    List (List CpyLane) → State × List Nat × List Nat × List (Nat × WaitOn)
  | [] => (s, [], [], [])
  | g :: t =>
    match s.transferHeld g n with
    | some w => (s, [], [], ((g :: t).flatten.map fun c => (c.lane, w)))
    | none =>
      let (s, id) := s.issueTransfer tos g n op
      let (s, ids, go, parks) := s.issueTransfers tos n op t
      (s, id :: ids, g.map (·.lane) ++ go, parks)

/-- A region of a rank that moves is waited for (R155). -/
def Ref.awaited : Ref → WaitOn
  | .at_ (.rank c k g co off) => .rank c k g co off
  | _ => .own []

/-- The lanes of a cpy that may issue, and the reasons of those that park first (R60, R112). Source lines are looked at for every
lane before the first transfer of the instruction issues (log entry 62). -/
def State.cpyLanes (s : State) (n : Nat) (dst src : Nat → DWord) :
    List Nat → State × List CpyLane × List (Nat × WaitOn)
  | [] => (s, [], [])
  | l :: t =>
    let w := s.whoIs l
    let core := s.issue.core
    let sr := s.refOf w (src l) n
    let dr := s.refOf w (dst l) n
    let (s, sp) := s.issuePlace sr
    let (s, dp) := s.issuePlace dr
    let ids := s.copyBlockers l sp dp n
    let (u, go, parks) := s.cpyLanes n dst src t
    if !ids.isEmpty then (u, go, (l, .own ids) :: parks)
    else
      match s.refLines core sr n, s.refLines core dr n with
      | some a, some _ =>
        let gone := a.filter fun x => !(s.core x.1).present x.2
        (match gone with
         | [] => (u, ⟨l, src l, dst l, sr, dr, sp, dp⟩ :: go, parks)
         | x :: _ => (u, go, (l, .lines x.1 ((gone.filter fun y => y.1 == x.1).map (·.2))) :: parks))
      | none, _ => (u, go, (l, sr.awaited) :: parks)
      | _, none => (u, go, (l, dr.awaited) :: parks)

/-- Lanes that park at a cpy remember which of their destination bytes are left to higher lanes of it (R117). -/
def State.noteSkips (u s : State) (tos : List (Nat × Nat × Nat)) (n : Nat) (ls : List Nat) : State :=
  u.updIssGroup fun y => y.mapLanes ls fun l x =>
    let m := skipMask tos l n 0 n ||| s.skipped l
    { x with cpySkip := if m = 0 then none else some (s.issue.p, m) }

/-- cpy. -/
def execCpy (flag : FlagSel) (sz : BitVec 2) (dst src : Src) (s : State) : Result :=
  let n := cpySize sz
  let da := fun l => s.src64 0 l dst
  let sa := fun l => s.src64 1 l src
  let go := s.issLanes.filter fun l => !(s.issLane l).flagFull flag
  let dBad := fun l => s.preCheck (s.whoIs l) .any n n (da l)
  let sBad := fun l => s.preCheck (s.whoIs l) .any n n (sa l)
  let own := fun l => match dBad l with
    | some x => some x
    | none => sBad l
  let bad := s.laneFault (mergeBads go own []) fun l => if (dBad l).isSome then da l else sa l
  .next (s.orFault [s.illegal (sz.toNat < 3), s.operands [s.srcOk 2 dst, s.srcOk 2 src], bad] (
    let (op, u) := s.name
    let (u, ls, early) := u.cpyLanes n da sa go
    let tos := s.issLanes.filterMap fun l => (s.cpyTo n l (da l)).map fun a => (l, a)
    let (u, ids, done, late) := u.issueTransfers tos n op (transfers ls)
    let o : Op :=
      { id := op, uid := s.issGroup.uid, kind := .copy, flag := flag, tl := done.any fun l => (s.issLane l).tl,
        lanes := maskOf done, left := ids, values := [], ended := 0, pc := s.issue.p }
    let u := if done.isEmpty then u else u.addOp o
    let u := u.updIssGroup fun y => y.mapLanes s.issLanes fun l x =>
      if done.contains l then x.goto s.nextPc else if go.contains l then x else x.parkFlag flag
    let u := u.noteSkips s tos n (s.issLanes.filter fun l => !done.contains l)
    u.parkLanes (early ++ late)))

/-! ## Batches (R283, R284) -/

/-- cpy.seal. -/
def execCpySeal (s : State) : Result :=
  .next (s.orFault [] (s.updIssGroup fun y => y.mapLanes s.issLanes fun _ x =>
    if 16 ≤ unfinished x.sealedB then x.park .batchSlot
    else ({ x with sealedB := x.sealedB ++ [x.openB], openB := ⟨[], false, false⟩ }).goto s.nextPc))

/-- cpy.wait. -/
def execCpyWait (n : BitVec 4) (ge : BitVec 3) (s : State) : Result :=
  .next (s.orFault [] (s.waitLanes none s.issLanes fun _ => .batches n.toNat ge))

/-! ## tcpy (R121, R122, R285, R286) -/

/-- Bits hi to lo of a number. -/
def field (x hi lo : Nat) : Nat := x / 2 ^ lo % 2 ^ (hi - lo + 1)

/-- A layout record (Table 5.1). -/
structure Layout where
  order  : Nat
  block  : Nat
  swz    : Nat
  nr     : Nat
  nc     : Nat
  br     : Nat
  bw     : Nat
  pitch  : Nat
  tensor : Nat
  sqBase : Nat
  deriving DecidableEq, Repr

/-- The record of 32 bytes, unless it is illegal (R121, Table 5.2). -/
def layoutOf (bs : List Byte) : Option Layout :=
  let x := leNat bs
  let r : Layout :=
    { order := field x 203 200, block := field x 199 196, swz := field x 195 192, nr := field x 191 176 + 1,
      nc := field x 175 160 + 1, br := field x 143 136 + 1, bw := (field x 131 128 + 1) * 16,
      pitch := field x 95 64 * 16, tensor := field x 63 32, sqBase := field x 31 0 }
  if field x 255 204 = 0 ∧ field x 159 144 = 0 ∧ field x 135 132 = 0 ∧ field x 127 96 = 0 ∧ r.order < 3 ∧ r.block < 2
      ∧ r.swz < 5 ∧ (r.swz = 0 ∨ r.bw / 16 % 2 ^ r.swz = 0) ∧ r.nc * r.bw ≤ r.pitch then some r
  else none

/-- The tile of a tcpy over regions not yet resolved. -/
def Layout.tile (r : Layout) (st : Bool) (first count : Nat) : Tile :=
  { st := st, mb := .virt 0, sb := .virt 0, first := first, count := count, nr := r.nr, nc := r.nc, br := r.br,
    bw := r.bw, pitch := r.pitch, order := r.order, block := r.block, swz := r.swz }

/-- The offsets of a tile's 16 B chunks. -/
def Tile.chunks (t : Tile) : List (Nat × Nat) := (List.range (t.bytes / 16)).map fun i => t.pair (16 * i)

/-- The space of an address, with its rank or peer (R12). -/
def spaceOf (a : DWord) : Nat × Nat :=
  let x := a.toNat % 2 ^ 60
  (tagOf a, match tagOf a with
    | 0x9 => x / 2 ^ 18
    | 0xC => x / 2 ^ 48
    | _ => 0)

/-- The check of a base of a tcpy: its space, its zero bits and its alignment (R122). The fault of a tag outside the allowed ones is
the model's choice, the address fault (log entry 69). -/
def baseBad (tags : List Nat) (a : DWord) : Option (Nat × Nat) :=
  if !tags.contains (tagOf a) || !mbzOk a then some (3, 0) else if a.toNat % 16 != 0 then some (7, 0) else none

/-- The check of a chunk against its base (R12, R122). -/
def State.chunkBad (s : State) (w : Who) (base : DWord) (off : Nat) : Option (Nat × Nat) :=
  let a := base + BitVec.ofNat 64 off
  if spaceOf a != spaceOf base then some (3, 0) else s.preCheck w .any 16 16 a

/-- The first of a list of checks that fails. -/
def firstBad : List (Option (Nat × Nat)) → Option (Nat × Nat)
  | [] => none
  | some x :: _ => some x
  | none :: t => firstBad t

/-- The operands of a lane's tcpy. -/
structure TcpyLane where
  mb    : DWord
  sb    : DWord
  rp    : DWord
  first : Nat
  count : Nat
  stage : Nat
  high  : Nat
  deriving DecidableEq, Repr

def State.tcpyLane (s : State) (f : TcpyForm) (l : Nat) : TcpyLane :=
  let q := s.src64 3 l f.q
  { mb := s.src64 0 l f.mb, sb := s.src64 1 l f.sb, rp := s.src64 2 l f.lay, first := (q.extractLsb' 0 32).toNat,
    count := (q.extractLsb' 32 24).toNat, stage := (q.extractLsb' 56 4).toNat, high := (q.extractLsb' 60 4).toNat }

/-- The ring of a tcpy is declared and has the stage (R128). -/
def Team.stageOk (t : Team) (r st : Nat) : Bool := (t.ring r).en && st < (t.ring r).stages

/-- The checks of a lane's tcpy before its record is read. -/
def State.tcpyEarly (s : State) (f : TcpyForm) (l : Nat) : Option (Nat × Nat) :=
  let x := s.tcpyLane f l
  let ringOk := match f.ring with
    | some r => s.issTeam.stageOk r.toNat x.stage
    | none => x.stage == 0
  if x.high != 0 || !ringOk then some (5, 0) else s.preCheck (s.whoIs l) .any 32 32 x.rp

/-- The checks of a lane's tcpy with its record (R121, R122, R115). -/
def State.tcpyLate (s : State) (f : TcpyForm) (l : Nat) (bs : List Byte) : Except (Nat × Nat) Tile :=
  let x := s.tcpyLane f l
  match layoutOf bs with
  | none => .error (5, 0)
  | some r =>
    let t := r.tile f.st x.first x.count
    let w := s.whoIs l
    let chunks := t.chunks.map fun c =>
      match s.chunkBad w x.mb c.1 with
      | some e => some e
      | none => s.chunkBad w x.sb c.2
    match firstBad ([baseBad [0x0, 0xA, 0xC] x.mb, baseBad [0x8, 0x9] x.sb,
        if r.nr * r.nc < x.first + x.count then some (5, 0) else none] ++ chunks) with
    | some e => .error e
    | none => .ok { t with mb := s.refOf w x.mb 1, sb := s.refOf w x.sb 1 }

/-- The records that the lanes read, lane by lane (R121, R443). -/
def State.readOwn (s : State) (n : Nat) : List (Nat × Place × Nat × Nat) → State × List (Nat × List Byte)
  | [] => (s, [])
  | c :: t =>
    let (s, bs) := s.ownLoad s.issue.core s.issGroup.uid s.issGrid.ctx c.2.1 c.2.2.1 n
    let (s, r) := s.readOwn n t
    (s, (c.1, bs) :: r)

/-- What a tile's issue meets: earlier accesses of the lane, absent source lines, or lines at OUT = 63 (R58, R60, R112). -/
def State.tileHeld (s : State) (l : Nat) (t : Tile) : State × Option WaitOn × List (Option Place) :=
  let core := s.issue.core
  let cs := t.chunks
  let (s, mems) := cs.foldl (fun (a : State × List (Option Place)) c =>
    let (s, p) := a.1.issuePlace (t.mb.plus c.1)
    (s, a.2 ++ [p])) (s, [])
  let ids := (cs.zip mems).flatMap fun c =>
    let sp := match t.sb.plus c.1.2 with
      | .at_ p => some p
      | .virt _ => none
    if t.st then s.copyBlockers l sp c.2 16 else s.copyBlockers l c.2 sp 16
  let lines := cs.map fun c => s.refLines core (t.sb.plus c.2) 16
  let ls := (lines.flatMap fun x => x.getD []).eraseDups
  let held := if !ids.isEmpty then some (WaitOn.own ids)
    else if lines.contains none then some t.sb.awaited
    else if t.st then
      match ls.filter fun x => !(s.core x.1).present x.2 with
      | [] => none
      | x :: r => some (.lines x.1 (((x :: r).filter fun y => y.1 == x.1).map (·.2)))
    else
      match ls.find? fun x => tblGet 0 (s.core x.1).outs x.2 = 63 with
      | some (k, _) => some (.outFull k ((ls.filter fun y => y.1 == k).map (·.2)))
      | none => none
  (s, held, mems)

/-- Accept a lane's tcpy (R286): its number, its L1 actions and OUT, and its copy. -/
def State.acceptTcpy (s : State) (f : TcpyForm) (l : Nat) (t : Tile) (stage : Nat) (mems : List (Option Place)) : State :=
  let core := s.issue.core
  let num := s.issTeam.tlCopy.next
  let s := s.updIssTeam fun x => { x with tlCopy := x.tlCopy.accept.2 }
  let (id, s) := s.name
  let s := mems.foldl (fun s p => s.copyL1 core 16 (!t.st) p) s
  let outs := if t.st then [] else
    ((t.chunks.map fun c => (s.refLines core (t.sb.plus c.2) 16).getD []).flatten).eraseDups
  let s := outs.foldl (fun s x => s.outAdd x) s
  let c : Copy :=
    { id := id, op := 0, team := s.issTeam.uid, uid := s.issGroup.uid, group := s.issue.group, ctx := s.issGrid.ctx,
      grid := s.issTeam.grid, lanes := (1 : BitVec 32) <<< l, plan := .tile t, units := [], outs := outs,
      tile := some num, ring := f.ring.map fun r => (r.toNat, stage), stopped := 0, failed := [], ended := 0,
      home := if t.st then none else s.dstHome t.sb, since := s.ns, pc := s.issue.p }
  let s := s.updCore core fun k => { k with copies := tblSet k.copies id c }
  let s := s.updIssGroup fun y => y.updLane l fun x =>
    ((x.setReg f.dst.toNat (BitVec.ofNat 32 num)).setReg (f.dst.toNat + 1) (BitVec.ofNat 32 (num / 2 ^ 32))).goto s.nextPc
  if t.bytes = 0 then s.completeCopy core c else s

/-- The lanes' tcpys are accepted in ascending order (R286); a lane that must wait parks, and the higher lanes with it where it waits
for its own earlier accesses. -/
def State.acceptTiles (s : State) (f : TcpyForm) : List (Nat × Tile × Nat) → State
  | [] => s
  | (l, t, stage) :: r =>
    match s.tileHeld l t with
    | (s, none, mems) => (s.acceptTcpy f l t stage mems).acceptTiles f r
    | (s, some w, _) =>
      if w.keepsOrder then s.parkLanes ((l, w) :: r.map fun c => (c.1, w)) else (s.parkLanes [(l, w)]).acceptTiles f r

/-- tcpy. -/
def execTcpy (f : TcpyForm) (s : State) : Result :=
  let go := s.issLanes.filter fun l => !(s.issLane l).flagFull f.flag
  let rp := fun l => (s.tcpyLane f l).rp
  let early := go.filter fun l => (s.tcpyEarly f l).isNone
  let r := (s.sortOwn (early.map fun l => (l, s.ownReach l (rp l) 32 32 .load)) 32 false).inOrder
  let checks := [s.illegal (s.issGroup.role == .copy),
    s.operands [s.regsOk 2 f.dst.toNat, s.srcOk 2 f.mb, s.srcOk 2 f.sb, s.srcOk 2 f.lay, s.srcOk 2 f.q]]
  .next (
    if s.issue.lanes = 0 then s
    else
      match firstFault checks with
      | some x => s.raise x
      | none =>
        let (u, recs) := (s.selfWalks (early.map fun l => (l, rp l))).readOwn 32 r.doing
        let plans := recs.map fun c => (c.1, s.tcpyLate f c.1 c.2)
        let own := fun l => match s.tcpyEarly f l with
          | some e => some e
          | none => match plans.find? fun p => p.1 == l with
            | some (_, .error e) => some e
            | _ => none
        match s.laneFault (mergeBads go own r.bads) rp with
        | some x => (u.raiseOwn (early.map fun l => (l, rp l)) r.bads x)
        | none =>
          let ok := plans.filterMap fun p =>
            match p.2 with
            | .ok t => some (p.1, t, (s.tcpyLane f p.1).stage)
            | .error _ => none
          let u := u.acceptTiles f ok
          let u := u.updIssGroup fun y => y.mapLanes s.issLanes fun l x =>
            if go.contains l then x else x.parkFlag f.flag
          (u.parkLanes r.parks).issWalks r.walks)

/-! ## CREAD and CWRITE (R111), copy-engine faults (R362) -/

/-- A copy-engine fault: the lane's copy is suspended at the transfer and its entry queued; a full queue leaves things as they
stand. -/
def State.copyFault (s : State) (core : Nat) (c : Copy) (k : Nat) (p : CopyPart) (r : Ref) (code : Nat) : State :=
  let q := (s.core core).copyFaults
  if 32 ≤ q.length then s
  else
    let va := match r with
      | .virt va => va
      | .at_ _ => 0
    let e : CopyFault :=
      { copy := c.id, code := code, ctx := c.ctx, group := c.group, lane := p.lane, tile := c.tile.isSome, va := va,
        at_ := s.ns }
    let s := (s.updCopy core c.id fun c =>
        { c with stopped := c.stopped ||| maskOf [p.lane], failed := tblSet c.failed p.lane k }).updCore core fun x =>
      { x with copyFaults := x.copyFaults ++ [e] }
    if q.isEmpty then s.msi (72 + clusterOf core) else s

/-- The place a copy reads or writes at H now, with the place that its request names on its way. -/
inductive CopyAt where
  | spot (p : Spot) (ch : Nat) (via : Place)
  | fault (code : Nat)
  | gone (peer : Nat)
  | drop
  | wait
  deriving DecidableEq, Repr

/-- The team of a tag 0x9 destination has ended, or its rank is another team's: the bytes go to the lines that it held (R57, R120),
and nowhere where it ended outside every core. -/
def State.homeGone (s : State) (p : Place) (h : DstHome) : Bool :=
  match p with
  | .rank cl r g co _ =>
    (match (s.cluster cl).rankEntry g co r with
     | some e => e.moving.isNone && (s.team e.core e.slot).uid != h.team
     | none => true)
  | _ => false

/-- Where a copy's next access of a region lies. A write into a line that is still to be zeroed waits for its zeroing, which would
erase the bytes (R57, R64, R430; log entry 59). -/
def State.copyAt (s : State) (core : Nat) (c : Copy) (r : Ref) (need : Need) : State × CopyAt :=
  match s.refPlace core c.ctx (s.grid c.grid).desc.ptRoot r need with
  | (s, .error (code, _)) => (s, .fault code)
  | (s, .ok (p, ch)) =>
    match p with
    | .dev pa => (s, .spot (.mem pa) ch p)
    | .host a => (s, .spot (.host a) ch p)
    | .peer q off _ =>
      if !s.reachable q then (s, .gone q)
      else if q = s.fabric.selfId then
        match s.exportAt (.ctx c.ctx) off need with
        | (s, .error (code, _)) => (s.countRefused 0 1, .fault code)
        | (s, .ok (pa, ch)) =>
          if need == .load || s.fabric.wrEn then (s, .spot (s.mem.spotAt pa) ch (.peer q off (some (pa, ch))))
          else (s.countRefused 0 1, .fault 2)
      else
        match s.reachPeer q off need with
        | .bad code _ => (s, .fault code)
        | _ => (s, .spot (.peer q off) 0 p)
    | p =>
      let zeroing := fun (k x : Nat) => need == .store && (s.core k).zeroing.contains (x / 256)
      match (if need == .store then c.home else none) with
      | some h =>
        if s.homeGone p h then (s, if h.core < savedCore then .spot (.spad h.core (h.base * 256 + p.off)) 0 p else .drop)
        else
          match s.spadSpot core p with
          | some (k, x) => (s, if zeroing k x then .wait else .spot (.spad k x) 0 p)
          | none => (s, .wait)
      | none =>
        match s.spadSpot core p with
        | some (k, x) => (s, if zeroing k x then .wait else .spot (.spad k x) 0 p)
        | none =>
          match p with
          | .rank cl r g co _ => if ((s.cluster cl).rankEntry g co r).isNone then (s, .fault 3) else (s, .wait)
          | _ => (s, .wait)

/-- The fault of a copy that is reported to its group (R144, R156), and the lane's address. -/
def State.copyReport (s : State) (core : Nat) (c : Copy) (lanes : LaneMask) (code aux : Nat) (addr : DWord) : State :=
  match (s.core core).findGroup c.uid with
  | none => s
  | some (slot, g) =>
    s.report core { code := code, uid := c.uid, slot := slot, group := g, lanes := lanes, pc := c.pc, addr := addr,
                    aux := BitVec.ofNat 64 aux, merged := false, tl := false, orig := 0, late := true }

/-- The generic address of a byte outside translation. -/
def Ref.address : Ref → DWord
  | .at_ (.rank _ r _ _ off) => BitVec.ofNat 64 (0x9 * 2 ^ 60 + r * 2 ^ 18 + off)
  | .at_ (.peer q off _) => BitVec.ofNat 64 (0xC * 2 ^ 60 + q * 2 ^ 48 + off)
  | .at_ p => BitVec.ofNat 64 p.off
  | .virt va => BitVec.ofNat 64 va

/-- A unit of a copy that may take its next step: its lane's copy is not suspended and has not ended, and a transfer that failed is
repeated first (R363). -/
def State.copyUnit (s : State) (core id k : Nat) : Option (Copy × CopyPart) :=
  match tblFind (s.core core).copies id with
  | some c =>
    match c.unit k with
    | some p =>
      if c.stopped.getLsbD p.lane || c.ended.getLsbD p.lane || !((tblFind c.failed p.lane).all (· == k)) then none
      else some (c, p)
    | none => none
  | none => none

/-- The unit's state changes; its transfer has not failed. -/
def State.updUnit (s : State) (core id k lane : Nat) (f : CopyUnit → CopyUnit) : State :=
  s.updCopy core id fun c => { c with units := tblSet c.units k (f (c.state k)), failed := tblDel c.failed lane }

/-- The scratchpad lines of a unit's destination, as the copy counts them: of tag 0x9, those of its home, wherever its team stands
or stood (R57, R120). -/
def State.dstLines (s : State) (core : Nat) (c : Copy) (p : CopyPart) : List (Nat × Nat) :=
  match p.dst, c.home with
  | .at_ (.rank _ _ _ _ off), some h => (linesOf off p.len).map fun l => (h.core, h.base + l)
  | r, _ => (s.refLines core r p.len).getD []

/-- Every unit of a copy that writes a scratchpad line has been written, or its lane's copy has ended (R58, R64). -/
def State.lineWritten (s : State) (core : Nat) (c : Copy) (l : Nat × Nat) : Bool :=
  (List.range c.total).all fun k =>
    match c.unit k with
    | some p => (c.state k).done || c.ended.getLsbD p.lane || !(s.dstLines core c p).contains l
    | none => true

/-- After a CWRITE, or the end of a lane's copy: the lines written whole leave OUT, a lane with every CWRITE taken completes,
and so does a copy of which every lane has. -/
def State.afterWrite (s : State) (core id lane : Nat) (lines : List (Nat × Nat)) : State :=
  match tblFind (s.core core).copies id with
  | none => s
  | some c =>
    let s := if c.laneDone lane && !c.ended.getLsbD lane then s.completeLane core c lane false else s
    match tblFind (s.core core).copies id with
    | none => s
    | some c =>
      let off := lines.filter fun l => c.outs.contains l && s.lineWritten core c l
      let s := off.foldl (fun s l => s.outSub l) s
      let c := { c with outs := c.outs.filter fun l => !off.contains l }
      let s := s.updCopy core id fun _ => c
      if (lanesOf c.lanes).all c.ended.getLsbD then s.completeCopy core c else s

/-- A lane's copy ends with an error status: it takes no further CWRITE. -/
def State.abortLane (s : State) (core copy lane : Nat) : State :=
  match tblFind (s.core core).copies copy with
  | some c => if c.ended.getLsbD lane then s else (s.completeLane core c lane true).afterWrite core copy lane c.outs
  | none => s

/-- A request of a copy to a module that the table no longer allows (R144). -/
def State.copyPeerGone (s : State) (core : Nat) (c : Copy) (p : CopyPart) (r : Ref) (peer : Nat) : State :=
  (s.abortLane core c.id p.lane).copyReport core c (maskOf [p.lane]) 0x0C peer r.address

/-- A window or a stalled stream holds back a request of a copy (R136, R407). -/
def State.copyHeld (s : State) (core ch : Nat) (q : Spot) (via : Place) : Bool :=
  s.linkHolds q || s.pathHeld core ch via 1

/-- CREAD of a unit: its source bytes at H. -/
def execCread (core id k : Nat) (s : State) : Result :=
  match s.copyUnit core id k with
  | none => .next s
  | some (c, p) =>
    if (c.state k).data.isSome then .next s
    else
      match s.copyAt core c p.src .load with
      | (_, .wait) | (_, .drop) => .next s
      | (s, .fault code) => .next (s.copyFault core c k p p.src code)
      | (s, .gone q) => .next (s.copyPeerGone core c p p.src q)
      | (t, .spot q ch via) =>
        if s.copyHeld core ch q via then .next s
        else
          let (t, bs) := t.readSpot (.ctx c.ctx) ch p.len q
          .next (t.updUnit core id k p.lane fun u => { u with data := some bs, sent := some s.ns })

/-- Write the bytes of a unit that no higher lane writes. -/
def State.writePart (s : State) (c : Copy) (p : CopyPart) (ch : Nat) (bs : List Byte) (q : Spot) : State :=
  if p.skip = 0 then s.writeSpot (.ctx c.ctx) ch bs q
  else
    bs.zipIdx.foldl (fun s b =>
      if p.skip.testBit b.2 then s
      else s.writeSpot (.ctx c.ctx) ch [b.1] (match q with
        | .mem a => .mem (a + b.2)
        | .host a => .host (a + b.2)
        | .spad k x => .spad k (x + b.2)
        | .peer m off => .peer m (off + b.2)
        | .wait => .wait)) s

/-- CWRITE of a unit: its destination bytes at H. -/
def execCwrite (core id k : Nat) (s : State) : Result :=
  match s.copyUnit core id k with
  | none => .next s
  | some (c, p) =>
    match (c.state k).data with
    | none => .next s
    | some bs =>
      if (c.state k).done then .next s
      else
        match s.copyAt core c p.dst .store with
        | (_, .wait) => .next s
        | (t, .drop) =>
          .next ((t.updUnit core id k p.lane fun u => { u with done := true }).afterWrite core id p.lane (t.dstLines core c p))
        | (s, .fault code) => .next (s.copyFault core c k p p.dst code)
        | (s, .gone q) => .next (s.copyPeerGone core c p p.dst q)
        | (t, .spot q ch via) =>
          if s.copyHeld core ch q via then .next s
          else
            match t.mustSweep q with
            | some page => .next (t.waitSweep page (.cwrite core id k))
            | none =>
              let mem := match q with
                | .mem pa => t.mem.isMem pa
                | _ => false
              let t := (t.writePart c p ch bs q).updUnit core id k p.lane fun u => { u with done := true, cached := mem }
              .next (t.afterWrite core id p.lane (t.dstLines core c p))

/-! ## Answers (R363) -/

/-- Take a lane's copy out of the queue of faults. -/
def State.popFault (s : State) (core copy lane : Nat) : State :=
  s.updCore core fun k => { k with copyFaults := k.copyFaults.filter fun e => !(e.copy == copy && e.lane == lane) }

/-- The head of the queue is popped, and its copy repeats the failing transfer. -/
def State.ceRetry (s : State) (core : Nat) : State :=
  match (s.core core).copyFaults with
  | [] => s
  | e :: _ => (s.popFault core e.copy e.lane).updCopy core e.copy fun c =>
    { c with stopped := c.stopped &&& ~~~(maskOf [e.lane]), since := s.ns }

/-- The head of the queue is popped, and its copy ends. -/
def State.ceAbort (s : State) (core : Nat) : State :=
  match (s.core core).copyFaults with
  | [] => s
  | e :: _ => (s.popFault core e.copy e.lane).abortLane core e.copy e.lane

/-- CE_RETRY. -/
def execCeRetry (core : Nat) (s : State) : Result := .next (s.ceRetry core)
/-- CE_ABORT. -/
def execCeAbort (core : Nat) (s : State) : Result := .next (s.ceAbort core)

/-- CE_ANSWER_TIMEOUT: entries not answered within 100 ms of being queued end their copies. -/
def execCeAnswerTimeout (core copy : Nat) (s : State) : Result :=
  let due := (s.core core).copyFaults.filter fun e => e.copy == copy && e.at_ + 100000000 ≤ s.ns
  .next (due.foldl (fun s e => (s.popFault core copy e.lane).abortLane core copy e.lane) s)

/-! ## Copies' requests that end without a reply (R139, R152, R413) -/

/-- Where a unit's next request goes: its source, or with its bytes read its destination. -/
def CopyPart.next (p : CopyPart) (u : CopyUnit) : Ref := if u.data.isNone then p.src else p.dst

/-- When a unit's next request was sent. -/
def Copy.sentAt (c : Copy) (k : Nat) : Nat := max c.since ((c.state k).sent.getD 0)

/-- The units of a copy whose next request stands at a place, which are neither suspended nor ended. -/
def Copy.waiting (c : Copy) (ok : Ref → Bool) : List (Nat × CopyPart) :=
  (List.range c.total).filterMap fun k =>
    match c.unit k with
    | some p =>
      if !(c.state k).done && !c.stopped.getLsbD p.lane && !c.ended.getLsbD p.lane && ok (p.next (c.state k)) then some (k, p)
      else none
    | none => none

/-- A request of a copy ends: a read gives zeros, and a write counts as performed; the copy's status learns of it where it ends
under R139 or R152 (R284). -/
def State.endUnit (s : State) (core id : Nat) (u : Nat × CopyPart) (err : Bool) : State :=
  match tblFind (s.core core).copies id with
  | none => s
  | some c =>
    if (c.state u.1).data.isNone then
      s.updUnit core id u.1 u.2.lane fun x => { x with data := some (List.replicate u.2.len 0), err := x.err || err, sent := some s.ns }
    else (s.updUnit core id u.1 u.2.lane fun x => { x with done := true, err := x.err || err }).afterWrite core id u.2.lane
      (s.dstLines core c u.2)

/-- The write of a unit whose request timed out lands at its destination, unless it is lost on the way (log entry 46). -/
def State.lateWrite (s : State) (core : Nat) (c : Copy) (u : Nat × CopyPart) : State :=
  match (c.state u.1).data with
  | none => s
  | some bs =>
    if Config.readsNew s.stamp c.id u.1 0 then
      match s.copyAt core c u.2.dst .store with
      | (t, .spot q ch _) => if (t.mustSweep q).isNone then t.writePart c u.2 ch bs q else s
      | _ => s
    else s

/-- A region's next byte lies in host memory, by the core's TLB or the table of the module's own window. -/
def State.refInHost (s : State) (core : Nat) (c : Copy) (r : Ref) : Bool :=
  match r with
  | .virt va =>
    (match tlbFind (s.core core).tlb c.ctx va with
     | some e => s.mem.kind (e.pa + (va - e.va)) == .host
     | none => false)
  | .at_ (.peer q off none) =>
    q == s.fabric.selfId && (match (s.exportAt (.ctx c.ctx) off .load).2 with
     | .ok (pa, _) => s.mem.kind pa == .host
     | .error _ => false)
  | .at_ p => s.mem.inHost p

/-- FABRIC_TIMEOUT of a copy (R152): its next request to a peer has no reply. -/
def State.timeoutCopy (s : State) (core : Nat) (c : Copy) : State :=
  let peer := fun (r : Ref) => match r with
    | .at_ (.peer _ _ _) => !s.refInHost core c r
    | _ => false
  match (c.waiting peer).find? fun u => c.sentAt u.1 + s.fabric.tmo ≤ s.ns with
  | some u => ((s.lateWrite core c u).chargeLoss (.ctx c.ctx) (clusterOf core % 2)).endUnit core c.id u true
  | none => s

/-- FABRIC_TIMEOUT (R152): of an access, or of a copy's next request to a peer. -/
def execFabricTimeout (core id : Nat) (s : State) : Result :=
  match (s.core core).item id, tblFind (s.core core).copies id with
  | some i, _ => .next (s.timeoutItem core i)
  | none, some c => .next (s.timeoutCopy core c)
  | none, none => .next s

/-- HOST_COMPLETION_TIMEOUT (R413): a request into the host window reads zero or drops its write; a failed AtomicOp
gives 0 with GD true (R276). -/
def execHostCompletionTimeout (core id : Nat) (s : State) : Result :=
  match (s.core core).item id, tblFind (s.core core).copies id with
  | some i, _ =>
    .next (if s.mem.inHost i.place && i.timed && i.sent.any fun t => t.1 + s.fabric.tmo ≤ s.ns then
      (s.hostError (.ctx i.ctx)).finishItem core i none true else s)
  | none, some c =>
    (match (c.waiting (s.refInHost core c)).find? fun u => c.sentAt u.1 + s.fabric.tmo ≤ s.ns with
     | some u => .next ((s.hostError (.ctx c.ctx)).endUnit core id u false)
     | none => .next s)
  | none, none => .next s

/-! ## Copies and held requests of a rank that moves (R156) -/

/-- The units of a copy whose next request goes to a rank. -/
def Copy.meeting (c : Copy) (cluster : Nat) (e : RankEntry) : List (Nat × CopyPart) :=
  c.waiting fun r => match r with
    | .at_ p => p.rankOf == some (cluster, e.rank, e.grid, e.cohort)
    | _ => false

/-- The copies that wait for a rank, by core. -/
def State.copiesFor (s : State) (cluster : Nat) (e : RankEntry) : List (Nat × Copy) :=
  s.cores.flatMap fun k => ((k.2.copies.map (·.2)).filter fun c => !(c.meeting cluster e).isEmpty).map fun c => (k.1, c)

/-- Copies whose requests end with a scratchpad-target-gone fault take no further CWRITE (R114, R156); the report names their lanes,
and the address of the first. -/
def State.copyGone (s : State) (x : Nat × Copy) (cluster : Nat) (e : RankEntry) : State :=
  let us := x.2.meeting cluster e
  let ls := (us.map (·.2.lane)).eraseDups
  let addr := (us.head?.map fun u => (u.2.next (x.2.state u.1)).address).getD 0
  (ls.foldl (fun s l => s.abortLane x.1 x.2.id l) s).copyReport x.1 x.2 (maskOf ls) 0x0D e.rank addr

end Sys2Proof.Machine
end

