-- ==== Sys2Proof/Machine/Ports.lean ====
section
/-! DEFINITION. Optical ports (06 R138 to R141) and the connected-group table (R142 to R144). -/

namespace Sys2Proof.Machine

/-! ## Optical ports (R138 to R141) -/

def State.updPort (s : State) (p : Nat) (f : Port → Port) : State :=
  s.setFabric fun b => { b with ports := tblUpd Port.reset b.ports p f }

/-- Ports of a peer other than one. -/
def State.otherPorts (s : State) (peer port : Nat) : List Nat := (s.peerPorts peer).filter (· != port)

/-- The port a request to a peer leaves by (R143). -/
def State.chosenPort (s : State) (peer woff : Nat) : Nat :=
  let u := s.peerPorts peer
  u.getD (woff / 64 % u.length) 0

/-- What a port has sent to another module is lost when it goes down: no other port of the peer is up (R139). -/
def State.portLoses (s : State) (port q off : Nat) : Bool :=
  q != s.fabric.selfId && (s.peerPorts q).contains port && s.chosenPort q off == port && (s.otherPorts q port).isEmpty

/-- The requests of the cores' accesses that a port loses. -/
def State.lostItems (s : State) (port : Nat) : List (Nat × Item) :=
  s.cores.flatMap fun (c, k) => (k.queue.filter fun i =>
    match i.place with
    | .peer q off _ => i.sent.isSome && s.portLoses port q off
    | _ => false).map fun i => (c, i)

/-- A lost request (R139): a store is dropped, and an add has been applied (R154); whether another atomic was applied is open. Of
one that had ended nothing is left to count. -/
def State.loseItem (s : State) (core : Nat) (i : Item) : State :=
  let t := if i.ended then s.dropItem core i.id else s.endRequest core i false
  let applied := match i.act with
    | .faa _ _ => true
    | a => a.writes && a.reads && Config.readsNew s.stamp i.id 0 0
  if applied then
    match s.actAt (.ctx i.ctx) i.ch i.act (s.spot core i) with
    | (_, .ok x) => match i.act.newVal x, i.place with
      | some v, .peer q off none => { t with mem := { t.mem with peers := tblUpd [] t.mem.peers q fun m => memWrite m off (natLe v i.act.size) } }
      | _, _ => t
    | _ => t
  else t

/-- The units of copies whose requests a port loses: core, copy and unit. How many requests a copy's outstanding bytes make is left
open: each unit counts as one (log entry 80). -/
def State.lostUnits (s : State) (port : Nat) : List (Nat × Copy × Nat × CopyPart) :=
  let lost := fun (r : Ref) => match r with
    | .at_ (.peer q off _) => s.portLoses port q off
    | _ => false
  s.cores.flatMap fun k => k.2.copies.flatMap fun c => (c.2.waiting lost).map fun u => (k.1, c.2, u)

/-- UP falls (R138, R139): what the port sent is resent by another port of the peer, or is lost; vector 81. An open handshake runs
on to its timeout (R141). -/
def State.portFalls (s : State) (port : Nat) : State :=
  let ls := s.lostItems port
  let us := s.lostUnits port
  let s := s.updPort port fun p =>
    { p with up := false, badReplay := 0, badTrain := 0, lost := min 0xFFFF (p.lost + ls.length + us.length) }
  let s := ls.foldl (fun s c => s.loseItem c.1 c.2) s
  (us.foldl (fun s c => (s.chargeLoss (.ctx c.2.1.ctx) (clusterOf c.1 % 2)).endUnit c.1 c.2.1.id c.2.2 true) s).msi 81

/-- FLIT_REPLAY (R138): a replay succeeds or fails; 16 failures in a row make the port retrain. -/
def execFlitReplay (port : Nat) (ok : Bool) (s : State) : Result :=
  let p := s.port port
  if p.up && p.badReplay < 16 then
    .next (s.updPort port fun p =>
      { p with replays := wrapInc 32 p.replays, badReplay := if ok then 0 else p.badReplay + 1 })
  else .next s

/-- PORT_RETRAIN (R138): after 16 failed replays of a flit the port retrains; three failures in a row bring it down. -/
def execPortRetrain (port : Nat) (ok : Bool) (s : State) : Result :=
  let p := s.port port
  if p.up && p.badReplay = 16 then
    let s := s.updPort port fun p =>
      { p with retrains := satInc 16 p.retrains, badReplay := if ok then 0 else 16,
               badTrain := if ok then 0 else p.badTrain + 1 }
    .next (if !ok && 3 ≤ p.badTrain + 1 then s.portFalls port else s)
  else .next s

/-- PORT_DOWN (R138, R139). -/
def execPortDown (port : Nat) (s : State) : Result := .next (if (s.port port).up then s.portFalls port else s)

/-- PORT_UP: an enabled port has trained and carries flits (Table 6.3). -/
def execPortUp (port : Nat) (s : State) : Result :=
  .next (if (s.port port).en then s.updPort port fun p => { p with up := true, badReplay := 0, badTrain := 0 } else s)

/-- PARK_REQ_WRITE (R141): a handshake starts. One that is pending is given up for it, and the 1 ms begins again: R141 says nothing of
a second write (log entry 81). -/
def execParkReqWrite (port : Nat) (q : BitVec 2) (s : State) : Result :=
  .next (s.updPort port fun p => { p with parkReq := q, parking := some (q, s.ns) })

/-- PARK_ACK: the far end has acknowledged, and the width changes at a flit boundary; an acknowledgement that comes later than 1 ms
comes too late. -/
def execParkAck (port : Nat) (s : State) : Result :=
  .next (s.updPort port fun p =>
    match p.parking with
    | some (q, t) =>
      if !p.up then p
      else if t + 1000000 < s.ns then { p with parkErr := true, parking := none }
      else { p with parkCur := q, parking := none }
    | none => p)

/-- PARK_TIMEOUT: no acknowledgement within 1 ms. -/
def execParkTimeout (port : Nat) (s : State) : Result :=
  .next (s.updPort port fun p =>
    match p.parking with
    | some (_, t) => if t + 1000000 ≤ s.ns then { p with parkErr := true, parking := none } else p
    | none => p)

/-- FAR_END_PARK_REQUEST: the far end asks for a width; the port acknowledges and takes it. -/
def execFarEndParkRequest (port : Nat) (q : BitVec 2) (s : State) : Result :=
  .next (if (s.port port).up then s.updPort port fun p => { p with parkCur := q } else s)

/-! ## The connected-group table (R142, R144) -/

/-- An entry as its word (Table 6.5). -/
def Cgt.word (c : Cgt) : Nat := (if c.v then 2 ^ 63 else 0) + c.ports.toNat * 2 ^ 32 + c.size

def cgtOf (v : DWord) : Cgt := ⟨v.getLsbD 63, v.extractLsb' 32 12, (v.extractLsb' 0 32).toNat⟩

/-- CGT_ENTRY_WRITE: requests that reach the exchange switch afterwards use the new entry. -/
def execCgtEntryWrite (peer : Nat) (v : DWord) (s : State) : Result :=
  .next (s.setFabric fun b => { b with cgt := tblSet b.cgt peer (cgtOf v) })

end Sys2Proof.Machine
end

