-- ==== Sys2Proof/Machine/Queues.lean ====
section
/-! DEFINITION. Launch queues and records (14 R334 to R341, 18 R416), context descriptors (15 R371), completion records
(18 R415) and the seal record (17 R409, R410). -/

namespace Sys2Proof.Machine

/-! ## Queues (R334 to R337) -/

def State.queue (s : State) (q : Nat) : Queue := tblGet Queue.reset s.sched.queues q
def State.updQueue (s : State) (q : Nat) (f : Queue → Queue) : State :=
  { s with sched := { s.sched with queues := tblUpd Queue.reset s.sched.queues q f } }

def Queue.slots (x : Queue) : Nat := 2 ^ x.log2
def Queue.used (x : Queue) : Nat := (x.tail + 2 ^ 31 - x.head) % 2 ^ 31
/-- The address of record i. -/
def Queue.slotAt (x : Queue) (i : Nat) : Nat := x.base * 65536 + i % x.slots * 256

/-- A launch timeline selector (Table 5.4). -/
def isLaunchSel (n : Nat) : Bool := 64 ≤ n && n < 128

def State.ctx? (s : State) (c : Nat) : Option Ctx := tblFind s.ctxs.live c

/-- A dependence or signal selector is 0 or a launch timeline (R341). -/
def selOk (n : Nat) : Bool := n == 0 || isLaunchSel n

/-- The record at TAIL becomes pending (R337, R340): its grid id, and its number on the launch timeline that its SIG_SEL
byte names; or that it is to be rejected, where the queue's context is not live then or there is no such selector. The result is the
grid id. -/
def State.pendOne (s : State) (q : Nat) : State × Nat :=
  let x := s.queue q
  let id := s.sched.gridCtr
  let (s, bs) := s.hRead (.ctx x.ctx) 0 (x.slotAt x.tail + 218) 1
  let sel := leNat bs
  let num := match s.ctx? x.ctx with
    | some c => if isLaunchSel sel then (tblGet Timeline.start c.tls (sel - 64)).next else 0
    | none => 0
  let s := if num = 0 then s else s.updCtx x.ctx fun c =>
    { c with tls := tblUpd Timeline.start c.tls (sel - 64) fun t => t.accept.2 }
  let s := { s with sched := { s.sched with gridCtr := (id + 1) % 2 ^ 63 } }
  let p : Pend := { id := id, sel := sel, num := num, bad := (s.ctx? x.ctx).isNone || !selOk sel }
  (s.updQueue q fun x => { x with tail := (x.tail + 1) % 2 ^ 31, pend := x.pend ++ [p] }, id)

/-- The code of Table 18.5 for what a record met when it became pending (R340). -/
def Pend.code (p : Pend) : Option Nat := if p.bad then some (if selOk p.sel then 9 else 8) else none

/-- The operation of a launch timeline completes (R340). -/
def State.signal (s : State) (ctx sel num : Nat) : State :=
  if num = 0 then s
  else s.updCtx ctx fun c => { c with tls := tblUpd Timeline.start c.tls (sel - 64) fun t => t.complete num }

/-! ## The launch record (Table 14.3) -/

/-- Bytes lo to lo + n − 1 of a record. -/
def sub (bs : List Byte) (lo n : Nat) : Nat := leNat ((bs.drop lo).take n)

def allZero (bs : List Byte) (lo n : Nat) : Bool := sub bs lo n == 0

/-- Images of Tables 7.2, 7.3 and 5.5. -/
def roleCfgOf (x : Nat) : RoleCfg :=
  ⟨x.testBit 63, field x 47 42, field x 41 36, field x 35 30, field x 29 24, field x 4 0⟩
def roleEntryOf (x : Nat) : RoleEntry :=
  ⟨x.testBit 127, BitVec.ofNat 57 (field x 120 64), BitVec.ofNat 57 (field x 56 0)⟩
def ringCfgOf (x : Nat) : RingCfg := ⟨x.testBit 63, field x 35 26 + 1, field x 25 16 + 1, field x 3 0 + 1⟩

/-- FAIR_M1 as it is stored (Table 7.5). -/
def fairOf (x : Nat) : Nat := max 255 (field x 31 16)

/-- The record of 256 bytes. -/
def launchOf (bs : List Byte) : Launch :=
  let flags := sub bs 2 1
  let bars := sub bs 120 8
  { ctx := sub bs 0 2, share := flags.testBit 0, l1mode := field flags 2 1, cohort := sub bs 3 1 + 1,
    gx := sub bs 4 4, gy := sub bs 8 2, gz := sub bs 10 2, scr := sub bs 12 2, fairM1 := fairOf (sub bs 16 8),
    progress := (sub bs 16 8).testBit 0, ftz16 := (sub bs 24 8).testBit 0, privBase := sub bs 32 8,
    slots := field (sub bs 40 8) 51 32, stride := field (sub bs 40 8) 5 0,
    roles := (List.range 3).map fun i => (i, roleCfgOf (sub bs (48 + 8 * i) 8)),
    entries := (List.range 3).map fun i => (i, roleEntryOf (sub bs (72 + 16 * i) 16)),
    bars := ((List.range 16).filter fun b => bars.testBit (4 * b + 3)).map fun b =>
      (b, BitVec.ofNat 3 (field bars (4 * b + 2) (4 * b))),
    rings := (List.range 8).map fun i => (i, ringCfgOf (sub bs (128 + 8 * i) 8)),
    ctAddr := BitVec.ofNat 64 (sub bs 192 8), dep0 := sub bs 200 8, dep1 := sub bs 208 8, dep0Sel := sub bs 216 1,
    dep1Sel := sub bs 217 1, sigSel := sub bs 218 1, compl := BitVec.ofNat 64 (sub bs 224 8) }

/-- The record keeps Table 14.3: values in range and every RSV byte and bit 0. -/
def launchOk (bs : List Byte) : Bool :=
  let l := launchOf bs
  field (sub bs 2 1) 7 3 == 0 && l.l1mode != 3 && (l.share || l.cohort == 1)
    && 1 ≤ l.gx && l.gx < 2 ^ 31 && 1 ≤ l.gy && 1 ≤ l.gz && l.scr ≤ 1024
    && allZero bs 14 2 && allZero bs 219 5 && allZero bs 232 24
    && field (sub bs 16 8) 63 32 == 0 && field (sub bs 16 8) 15 1 == 0 && field (sub bs 24 8) 63 1 == 0
    && field (sub bs 32 8) 63 57 == 0 && field (sub bs 32 8) 7 0 == 0
    && field (sub bs 40 8) 63 52 == 0 && field (sub bs 40 8) 31 6 == 0
    && ((List.range 3).all fun i =>
      let x := sub bs (48 + 8 * i) 8
      field x 62 48 == 0 && field x 47 36 == 0 && field x 23 5 == 0)
    && ((List.range 3).all fun i =>
      let x := sub bs (72 + 16 * i) 16
      field x 126 121 == 0 && field x 63 57 == 0)
    && ((List.range 8).all fun i =>
      let x := sub bs (128 + 8 * i) 8
      field x 62 36 == 0 && field x 15 4 == 0)
    && l.ctAddr.toNat % 32 == 0 && l.ctAddr.toNat < 2 ^ 57 && l.compl.toNat < 2 ^ 57

/-! ## What a team needs (Table 14.4) -/

def Launch.role (l : Launch) (r : Nat) : RoleCfg := tblGet RoleCfg.reset l.roles r
/-- The enabled roles. -/
def Launch.on (l : Launch) : List Nat := (List.range 3).filter fun r => (l.role r).en
def Launch.minGroups (l : Launch) : Nat := sumOf (l.on.map fun r => (l.role r).gmin)
def Launch.minUnits (l : Launch) : Nat := sumOf (l.on.map fun r => (l.role r).gmin * (l.role r).regs)
def Launch.ringCount (l : Launch) : Nat := (l.rings.filter fun c => c.2.en).length
/-- The team may use the matrix engine (R305). -/
def Launch.usesEngine (l : Launch) : Bool := (l.role 1).en && 1 ≤ (l.role 1).gmax
/-- The teams of a grid. -/
def Launch.teams (l : Launch) : Nat := l.gx * l.gy * l.gz

/-- The most teams of the footprint that an empty core holds. -/
def Launch.perCore (l : Launch) : Nat :=
  let div := fun (cap need : Nat) => if need = 0 then cap else cap / need
  min (min (min (div 64 l.minUnits) (div 64 l.minGroups)) (min 32 (if l.scr = 0 then 32 else 1024 / l.scr)))
    (min (min (if l.bars.isEmpty then 32 else 64 / l.bars.length) (if l.ringCount = 0 then 32 else 32 / l.ringCount))
      (if l.usesEngine then 1 else 32))

/-! ## Descriptors (Table 15.10) -/

/-- Bytes 0 to 255 of a context's descriptor keep Table 15.10. -/
def descOk (bs : List Byte) : Bool :=
  let pt := sub bs 0 8
  let trap := sub bs 16 16
  field pt 63 52 == 0 && field pt 17 0 == 0 && field (sub bs 8 8) 63 17 == 0 && field trap 127 121 == 0
    && field trap 69 57 == 0 && field (sub bs 32 8) 15 0 == 0 && field (sub bs 40 8) 62 4 == 0
    && field (sub bs 48 8) 63 57 == 0 && field (sub bs 48 8) 7 0 == 0 && allZero bs 56 200

def descOf (bs : List Byte) : Desc :=
  let trap := sub bs 16 16
  let sv := sub bs 32 8
  let cfg := sub bs 40 8
  { ptRoot := field (sub bs 0 8) 51 18 * 2 ^ 18, pinQuota := field (sub bs 8 8) 16 0, frame := field trap 120 70 * 64,
    entry := BitVec.ofNat 57 (field trap 56 0), saveBase := field sv 51 16 * 65536, saveUnits := field sv 63 52,
    sealEn := cfg.testBit 63, sealSlot := field cfg 3 0, sealDst := field (sub bs 48 8) 56 8 * 256 }

/-- Read a descriptor's bytes 0 to 255 at H. -/
def State.readDesc (s : State) (c : Nat) : State × List Byte := s.hRead (.ctx c) 0 (s.descAt c) 256

/-! ## Global addresses used by the module itself -/

/-- n bytes from a virtual address, page by page; f bounds the pages. -/
def pagePieces : Nat → Nat → Nat → List (Nat × Nat)
  | 0, _, _ => []
  | f + 1, va, n =>
    let room := 65536 - va % 65536
    if n = 0 then [] else if n ≤ room then [(va, n)] else (va, room) :: pagePieces f (va + room) (n - room)

/-- A piece of a range, translated: its device physical address, the leaf's caching hint and its length. -/
structure VaPiece where
  pa : Nat
  ch : Nat
  n  : Nat
  deriving DecidableEq, Repr

/-- Translate the pieces, unless one faults. -/
def State.vaPieces (s : State) (ctx root : Nat) (need : Need) :
    List (Nat × Nat) → State × Option (List VaPiece)
  | [] => (s, some [])
  | (va, n) :: t =>
    if 2 ^ 57 < va + n then (s, none)
    else
      match s.translate (.ctx ctx) ctx root va need with
      | (s, .error _) => (s, none)
      | (s, .ok (pa, ch)) =>
        match s.vaPieces ctx root need t with
        | (s, none) => (s, none)
        | (s, some r) => (s, some (⟨pa, ch, n⟩ :: r))

/-- Read bytes at H through a context's tables. -/
def State.vaRead (s : State) (ctx root va n : Nat) : State × Option (List Byte) :=
  match s.vaPieces ctx root .load (pagePieces 8 va n) with
  | (s, none) => (s, none)
  | (s, some ps) =>
    let (s, bs) := ps.foldl (fun (a : State × List Byte) p =>
      let (s, b) := if a.1.mem.isMem p.pa then a.1.hRead (.ctx ctx) p.ch p.pa p.n
        else a.1.hostAsk (.ctx ctx) (p.pa - hostFirst) p.n
      (s, a.2 ++ b)) (s, [])
    (s, some bs)

/-- Write bytes at H through a context's tables; false where the write faults, and then nothing is written. -/
def State.vaWrite (s : State) (ctx root va : Nat) (bs : List Byte) : State × Bool :=
  match s.vaPieces ctx root .store (pagePieces 8 va bs.length) with
  | (s, none) => (s, false)
  | (s, some ps) =>
    ((ps.foldl (fun (a : State × List Byte) p =>
      let d := a.2.take p.n
      (if a.1.mem.isMem p.pa then a.1.hWriteSweep (.ctx ctx) p.pa d else a.1.hostPut (.ctx ctx) (p.pa - hostFirst) d,
       a.2.drop p.n)) (s, bs)).1, true)

/-! ## The waiting list (R343) -/

/-- An entry of the waiting list: a dispatching grid, or the teams that one pre-emption removed. -/
structure Entry where
  prio   : Nat
  joined : Nat
  gid    : Nat
  back   : Bool
  deriving DecidableEq, Repr

/-- A grid stands in the list while it is dispatching. -/
def State.gridEntry (s : State) (g : Grid) : Option Entry :=
  if g.started && g.dispatching then some ⟨(s.queue g.queue).prio, g.joined, g.id, false⟩ else none

def State.entries (s : State) : List Entry :=
  (s.sched.grids.filterMap fun c => s.gridEntry c.2)
    ++ (s.sched.waiting.map fun w => ⟨w.prio, w.joined, w.team.grid, true⟩)

/-- The first entry: highest priority, then the earliest to join. -/
def State.firstEntry (s : State) : Option Entry :=
  match s.entries with
  | [] => none
  | e :: t => some (t.foldl (fun b x =>
      if b.prio < x.prio || (b.prio == x.prio && x.joined < b.joined) then x else b) e)

/-- QUANTUM_US in nanoseconds. -/
def State.quantumNs (s : State) : Nat := s.sched.quantumUs * 1000

/-- With an empty waiting list, no team yields: each starts a new quantum (R349). -/
def State.calm (s : State) : State :=
  if s.entries.isEmpty then
    let q := s.quantumNs
    let cores := tblMap (fun _ k => { k with teams := tblMap (fun _ t =>
      if t.yielding && !t.stopping then { t with yielding := false, quantum := q } else t) k.teams }) s.cores
    { s with cores := cores }
  else s

/-! ## Rejection (R339, R416) -/

/-- Codes 1, 2 and 9, which come first; `late` is what the record met when it became pending. -/
def State.earlyReject (s : State) (q : Nat) (late : Option Nat) (bs : List Byte) : State × Option Nat :=
  let l := launchOf bs
  if !launchOk bs then (s, some 1)
  else if l.ctx != (s.queue q).ctx then (s, some 2)
  else if (s.ctx? l.ctx).isNone || late == some 9 then (s, some 9)
  else
    let (s, d) := s.readDesc l.ctx
    (s, if descOk d then none else some 9)

/-- Codes 3 to 6 and 8, the lowest that applies; CT_ADDR is not read then. -/
def Launch.reject (l : Launch) (late : Option Nat) : Option Nat :=
  if l.stride < 10 || 32 < l.stride || 2 ^ 57 < l.privBase + l.slots * 32 * 2 ^ l.stride then some 3
  else if ((List.range 3).any fun r => (l.role r).gmax < (l.role r).gmin) || l.minGroups == 0
      || 32 < sumOf ((List.range 3).map fun r => (l.role r).gmax)
      || (l.on.any fun r => (l.role r).regs == 0 || 16 < (l.role r).regs) then some 4
  else if l.share && (l.perCore * 256 < l.cohort || l.slots < l.cohort * l.minGroups) then some 5
  else if l.perCore == 0 || l.slots < l.minGroups then some 6
  else if !(selOk l.dep0Sel && selOk l.dep1Sel && selOk l.sigSel) || late == some 8 then some 8
  else none

/-- CT0 to CT3 from 128 bytes (Table 14.3, Table 13.1). -/
def ctsOf (bs : List Byte) : Tbl (BitVec 256) :=
  (List.range 4).map fun i => (i, BitVec.ofNat 256 (sub bs (32 * i) 32))

/-- Read CT_ADDR; nothing where the read faults (code 7). -/
def State.readCts (s : State) (l : Launch) (root : Nat) : State × Option (Tbl (BitVec 256)) :=
  if l.ctAddr = 0 then (s, some [])
  else
    match s.vaRead l.ctx root l.ctAddr.toNat 128 with
    | (s, some bs) => (s, some (ctsOf bs))
    | (s, none) => (s, none)

/-! ## Completion records (Table 18.4) -/

/-- What a completion record reports beside its grid. -/
structure Ending where
  gid    : Nat
  ctx    : Nat
  status : Nat
  reject : Nat
  fault  : Nat
  sealSt : Nat
  loss   : Nat
  tags   : Nat
  sig    : Nat
  start  : Nat
  record : List Byte       -- the seal record, or nothing
  deriving DecidableEq, Repr

def zeros (n : Nat) : List Byte := List.replicate n 0

/-- The 512 bytes. -/
def Ending.bytes (e : Ending) (now : Nat) : List Byte :=
  natLe 1 8 ++ natLe e.gid 8 ++ natLe e.ctx 2 ++ natLe e.status 1 ++ natLe e.reject 1 ++ natLe e.fault 1
    ++ natLe e.sealSt 1 ++ zeros 2 ++ natLe e.loss 4 ++ natLe e.tags 4 ++ natLe e.sig 8 ++ natLe e.start 8
    ++ natLe now 8 ++ zeros 200 ++ (e.record ++ zeros 256).take 256

/-- Write a grid's completion record, and send its queue's vector (R414, R415). `root` is nothing where no record can be
written and no count changes. -/
def State.writeCompletion (s : State) (q ctx : Nat) (root : Option Nat) (compl : DWord) (e : Ending) : State :=
  let s :=
    if compl = 0 then s
    else
      match root with
      | none => s
      | some r =>
        match s.vaWrite ctx r compl.toNat (e.bytes s.ns) with
        | (s, true) => s
        | (s, false) => s.countCtx ctx fun k => { k with complLost := satInc 16 k.complLost }
  s.msi q

/-- The root by which a rejected grid's record is translated (R415). -/
def State.rejectRoot (s : State) (ctx : Nat) : State × Option Nat :=
  if (s.ctx? ctx).isNone then (s, none)
  else
    let (s, bs) := s.hRead (.ctx ctx) 0 (s.descAt ctx) 8
    let pt := leNat bs
    (s, if field pt 63 52 = 0 ∧ field pt 17 0 = 0 then some (field pt 51 18 * 2 ^ 18) else none)

/-- A grid is rejected (R339): its record, its SIG operation. -/
def State.rejectGrid (s : State) (q gid sel num code : Nat) (bs : List Byte) : State :=
  let ctx := (s.queue q).ctx
  let (s, root) := s.rejectRoot ctx
  let e : Ending :=
    { gid := gid, ctx := sub bs 0 2, status := 3, reject := code, fault := 0, sealSt := 0, loss := 0, tags := 0, sig := num,
      start := 0, record := [] }
  (s.writeCompletion q ctx root (BitVec.ofNat 64 (sub bs 224 8)) e).signal ctx sel num

/-! ## The seal record (R409, R410, Table 17.7) -/

/-- Chain the digests of completed chunks that are not lost, from number i; the result counts them. -/
def chainChunks (q : Seal) : Nat → Nat → List Byte → Nat × List Byte
  | 0, i, h => (i - 1, h)
  | n + 1, i, h =>
    match q.chunks.find? fun c => c.num == i && c.done && !c.lost with
    | some c =>
      match c.digest with
      | some d => chainChunks q n (i + 1) (sha384 (h ++ natLe d.toNat 48 ++ natLe i 8))
      | none => (i - 1, h)
    | none => (i - 1, h)

/-- Bytes 0 to 71, with SEQ next. -/
def Seal.header (q : Seal) (g : Grid) : List Byte :=
  natLe 1 8 ++ natLe g.id 8 ++ natLe g.ctx 2 ++ zeros 2 ++ natLe q.keyId.toNat 4 ++ natLe q.ctDigest.toNat 48

/-- The record's bytes 0 to 159, and SIG over them. -/
def Seal.record (q : Seal) (key : DiceKey) (g : Grid) (seq : Nat) : List Byte :=
  let head := q.header g
  let (n, final) := chainChunks q q.issued 1 (sha384 head)
  let status := if g.killed || g.groupKilled then 1 else if q.dataLoss != 0 || q.tagFail != 0 || n < q.issued then 2 else 0
  let body := head ++ natLe seq 8 ++ natLe n 8 ++ natLe q.issued 8 ++ natLe q.tagFail 4 ++ natLe q.dataLoss 4
    ++ natLe status 1 ++ zeros 7 ++ final
  body ++ (Config.signature key 0 body ++ zeros 96).take 96

/-- Finalise a grid's stream: SEAL_ST and the record (R410, Table 18.4). -/
def State.finaliseSeal (s : State) (g : Grid) : State × Nat × List Byte :=
  match g.stream with
  | none => (s, 0, [])
  | some q =>
    let r := q.record (s.dice true) g s.trust.sealSeq
    let s := { s with trust := { s.trust with sealSeq := s.trust.sealSeq + 1 } }
    match s.vaWrite g.ctx g.desc.ptRoot g.desc.sealDst r with
    | (s, true) => (s, 1, r)
    | (s, false) => (s, 2, r)

end Sys2Proof.Machine
end

