-- ==== Sys2Proof/Machine/Sync.lean ====
section
/-! DEFINITION. Barriers, rings, timelines, team shape and launch (12 R287 to R295). -/

namespace Sys2Proof.Machine

/-- The lanes that an instruction with a flag acts in; the others park until their count falls (R212). -/
def State.goLanes (s : State) (flag : FlagSel) : List Nat := s.issLanes.filter fun l => !(s.issLane l).flagFull flag

/-- Park the issuing lanes whose flag is full. -/
def State.parkFull (u : State) (s : State) (flag : FlagSel) : State :=
  let full := s.issLanes.filter fun l => (s.issLane l).flagFull flag
  u.updIssGroup fun y => y.mapLanes full fun _ x => x.parkFlag flag

/-! ## Barriers (R290, R291) -/

/-- A lane of a bar: its arrival, with the release point it counts, and whether it waits. A lane of .sync whose arrival completes the
phase is released with the others that waited on it, once the arrivals' release points are reached (R291, R437; log entry 49). -/
def State.barLane (s : State) (b : Nat) (mode : BarMode) (l : Nat) : State :=
  let core := s.issue.core
  let slot := s.issue.slot
  let g := s.issue.group
  let x := s.issLane l
  let counts := x.new.getLsbD b || !x.arr.getLsbD b
  let before := (s.issTeam.bar b).phases
  let s :=
    if mode = .wait then s
    else
      let rel := s.fresh
      let s := if counts then
          s.pushPoint core s.issTeam.uid s.issGrid.ctx s.issGroup.uid l (.release .team)
        else s
      s.updTeam core slot fun t => t.arrive g l b rel
  let y := s.issLane l
  let phase := (s.issTeam.bar b).phases
  let stay := fun (w : WaitOn) => s.updIssGroup fun q => q.updLane l fun z => { z with status := .waiting, waitOn := w }
  if y.held.getLsbD b then stay (.barHeld b)
  else if mode != .arrive && y.arr.getLsbD b then (stay (.bar b phase)).settleLive core slot g l
  else if mode == .sync then (stay (.bar b before)).settleLive core slot g l
  else s.updIssGroup fun q => q.updLane l fun z => z.goto s.nextPc

/-- bar (R290): lanes in ascending order. -/
def execBar (b : BitVec 4) (mode : BarMode) (s : State) : Result :=
  let x := s.issTeam.bar b.toNat
  .next (s.orFault [s.demand (x.en && x.roles.getLsbD (roleNum s.issGroup.role)) 0x05]
    (s.issLanes.foldl (fun s l => s.barLane b.toNat mode l) s))

/-! ## Rings (R288, R289) -/

/-- The stage that a lane names. -/
def State.stageArg (s : State) (stage : Src) (l : Nat) : Nat := (s.src32 0 l stage).toNat

/-- ring.wait. -/
def execRingWait (h : VHead) (ring : BitVec 3) (empty v : Bool) (stage : Src) (s : State) : Result :=
  let st := s.stageArg stage
  .next (s.orFault [s.operands [s.srcOk 1 stage], s.demandLanes (fun l => s.issTeam.stageOk ring.toNat (st l)) 0x05]
    ((s.waitLanes h.flag (s.goLanes h.flag) fun l => .ring ring.toNat (st l) empty v).parkFull s h.flag))

/-- ring.arrive. -/
def execRingArrive (h : VHead) (ring : BitVec 3) (empty : Bool) (stage : Src) (s : State) : Result :=
  let st := s.stageArg stage
  .next (s.orFault [s.operands [s.srcOk 1 stage], s.demandLanes (fun l => s.issTeam.stageOk ring.toNat (st l)) 0x05]
    (((s.goLanes h.flag).foldl (fun (u : State) l =>
      let rel := u.fresh
      let u := u.pushPoint s.issue.core s.issTeam.uid s.issGrid.ctx s.issGroup.uid l (.release .team)
      u.updIssTeam fun t => t.ringArrive ring.toNat (st l) empty [rel]) s).runLanes h.flag fun _ x => x))

/-! ## Timelines (R287) -/

/-- A selector that tlwait can name (Table 5.4). -/
def timelineSel (n : Nat) : Bool := n < 3 || isLaunchSel n

/-- tlwait. -/
def execTlwait (h : VHead) (sel : BitVec 7) (sc : Scope) (n : Src) (s : State) : Result :=
  .next (s.orFault [s.operands [s.srcOk 2 n], s.demand (timelineSel sel.toNat) 0x05]
    ((s.waitLanes h.flag (s.goLanes h.flag) fun l => .timeline sel.toNat (s.src64 0 l n).toNat sc).parkFull s h.flag))

/-! ## Team shape (R292 to R294) -/

/-- attach: one request for the issue. -/
def execAttach (h : VHead) (role : Role) (s : State) : Result :=
  .next (s.orFault [s.regForm 1 h.dst []] (
    let t := s.issTeam
    let c := t.role role
    let coming := (t.joins.filter fun j => j.1 == role).length
    if (s.goLanes h.flag).isEmpty then s.put32 h.flag h.dst fun _ => 0
    else if !c.en || !(t.entry role).joinEn then s.put32 h.flag h.dst fun _ => 1
    else if c.gmax ≤ c.live + coming then s.put32 h.flag h.dst fun _ => 2
    else if s.canJoin s.issue.core s.issue.slot role then
      let g := t.freeIndex.getD 0
      (s.acceptJoin s.issue.core s.issue.slot role).put32 h.flag h.dst fun _ => BitVec.ofNat 32 (g * 256)
    else s.put32 h.flag h.dst fun _ => 3))

/-- detach (R175, R293). -/
def execDetach (s : State) : Result := .next (s.orFault [] (s.detachGroup s.issue.core s.issue.slot s.issue.group))

/-- shrinkq. -/
def execShrinkq (h : VHead) (s : State) : Result :=
  .next (s.orFault [s.regForm 1 h.dst []]
    (s.put32 h.flag h.dst fun _ => BitVec.ofNat 32 (s.issTeam.role s.issGroup.role).shrink))

/-! ## launch (R295, R336) -/

/-- The earlier accesses of a lane that the release part of a launch waits for (R95, R96). -/
def State.releaseBlockers (s : State) (l : Nat) : List Nat :=
  (s.issCore.queue.filter fun i =>
    i.uid == s.issGroup.uid && i.lanes.getLsbD l && (i.act.isPoint || (!i.ended && !exempt .dev i))).map (·.id)

/-- What launch returns where the record is refused: the queue number, the queue's owner, its room. -/
def State.launchRefusal (s : State) (q : Nat) : Option Nat :=
  let x := s.queue q
  if 63 < q then some 3
  else if !x.en || !x.src || x.ctx != s.issGrid.ctx then some 2
  else if x.used = x.slots then some 1
  else none

/-- Append a lane's record to its queue, in one step with its doorbell; the result is vD. -/
def State.launchOne (s : State) (q : Nat) (bs : List Byte) : State × DWord :=
  match s.launchRefusal q with
  | some c => (s, BitVec.ofNat 64 (2 ^ 63 + c))
  | none =>
    let x := s.queue q
    let (s, id) := (s.hWriteSweep (.ctx s.issGrid.ctx) (x.slotAt x.tail) bs).pendOne q
    (s, BitVec.ofNat 64 id)

/-- The lanes' launches, in ascending order. -/
def State.launchAll (s : State) (dst : BitVec 10) (queue : Src) : List (Nat × Place × Nat × Nat) → State
  | [] => s
  | c :: t =>
    let core := s.issue.core
    let s := if s.wide core .dev then s.l1WB (s.l1Of core) else s
    let (s, bs) := s.ownLoad core s.issGroup.uid s.issGrid.ctx c.2.1 c.2.2.1 256
    let (s, v) := s.launchOne (s.src32 1 c.1 queue).toNat bs
    let s := s.updIssGroup fun y => y.updLane c.1 fun x =>
      ((x.setReg dst.toNat (lowWord v)).setReg (dst.toNat + 1) (highWord v)).goto s.nextPc
    s.launchAll dst queue t

/-- What the lanes of a launch meet: those whose release part or own read has to wait park, and higher lanes with them. -/
def State.launchLanes (s : State) (addr : Nat → DWord) : Lanes :=
  let r := s.sortOwn (s.issLanes.map fun l => (l, s.ownReach l (addr l) 256 256 .load)) 256 false
  let held := fun (l : Nat) => !(s.releaseBlockers l).isEmpty
  ({ r with doing := r.doing.filter fun c => !held c.1
            parks := r.parks ++ (r.doing.filter fun c => held c.1).map fun c => (c.1, .own (s.releaseBlockers c.1)) } : Lanes).inOrder

/-- launch: lanes in ascending order. -/
def execLaunch (dst : BitVec 10) (record queue : Src) (s : State) : Result :=
  let addr := fun l => s.src64 0 l record
  let at_ := s.issLanes.map fun l => (l, addr l)
  let r := s.launchLanes addr
  .next (s.orFault [s.regForm 2 dst [(2, record), (1, queue)]] (
    match s.laneFault r.bads addr with
    | some f => s.raiseOwn at_ r.bads f
    | none => (((s.selfWalks at_).launchAll dst queue r.doing).parkLanes r.parks).issWalks r.walks))

end Sys2Proof.Machine
end

