-- ==== Sys2Proof/Machine/Engine.lean ====
section
/-! DEFINITION. The matrix engine (13 R305 to R333): the gang, joint operations with the rendezvous latch and power
tokens, the reuse latch, the scale FIFO, code tables, the stationary port, the accumulator tiles and the epilogue
processor. An operation captures what it needs at its acceptance and takes effect at its completion; completions of
operations that share a tile or buffer keep acceptance order (R307). -/

namespace Sys2Proof.Machine

/-! ## Fields and images (Tables 13.2, 13.3, 13.4) -/

/-- Entry c of a code table (R185). -/
def ctEntry (t : BitVec 256) (c : Nat) : Nat := (t.extractLsb' (16 * c) 16).toNat

/-- The value of an element's code (R180 to R185). -/
def mxVal (ct : BitVec 256) (f : MxFmt) (x : Nat) : FVal :=
  match f with
  | .e2m1 => fmtE2m1.decode x
  | .e4m3 => fmtE4m3.decode x
  | .e5m2 => fmtE5m2.decode x
  | .bf16 => fmtBf16.decode x
  | .f16 => fmtF16.decode x
  | .lut4 => fmtBf16.decode (ctEntry ct x)
  | .i8 => fvOfInt (valOf 8 false x)
  | .n8 => fvOfInt (valOf 8 true x)
  | .i4 => fvOfInt (valOf 4 false x)
  | .n4 => fvOfInt (valOf 4 true x)

/-- The accumulator of a format is integer. -/
def mxInt : MxFmt → Bool
  | .i8 | .n8 | .i4 | .n4 => true
  | _ => false

/-- Element k of a row in registers (R309, R181). -/
def rowElem (b : Nat) (row : List Word) (k : Nat) : Nat :=
  (row.getD (k * b / 32) 0).toNat / 2 ^ (k * b % 32) % 2 ^ b

/-- Column n of B in a buffer, as one number with element k at bit k × b (R310). -/
def bufColumn (buf : Memory) (b n : Nat) : Nat := leNat (memRead buf (16 * b * n) (16 * b))

/-! ## mma arithmetic (08 R192 to R196) -/

/-- An exact sum. -/
def fvSum (l : List FVal) : FVal := l.foldl (fvAdd .rn) (.fin false 0 0)

def FVal.isZero : FVal → Bool
  | .fin _ 0 _ => true
  | _ => false

def FVal.isFin : FVal → Bool
  | .fin _ _ _ => true
  | _ => false

/-- The exact sum of products over K positions first to first + n − 1. -/
def dotFrom (a b : Nat → FVal) (first n : Nat) : FVal :=
  fvSum ((List.range n).map fun k => fvMul (a (first + k)) (b (first + k)))

/-- C plus a block value, rounded once (R192, R195). -/
def addBlock (c : Nat) (block : FVal) : Nat :=
  let v := fmtF32.decode c
  if v.isNan || block.isNan then fmtF32.nan
  else if block.isZero then c
  else fmtF32.round .rn false (fvAdd .rn v block)

/-- The FP4 element of R194: W of the micro-blocks with scales ua and ub, then sa and sb. -/
def fp4Elem (c : Nat) (a b ua ub : Nat → FVal) (sa sb : FVal) : Nat :=
  let w := fvSum ((List.range 16).map fun j => fvMul (dotFrom a b (8 * j) 8) (fvMul (ua j) (ub j)))
  let v := fmtF32.decode c
  if w.isNan || sa.isNan || sb.isNan || v.isNan then fmtF32.nan
  else if w.isZero && sa.isFin && sb.isFin then c
  else fmtF32.round .rn false (fvAdd .rn v (fvMul (fvMul w sa) sb))

/-- The integer element of R196. -/
def intElem (c : Nat) (a b : Nat → Int) : Nat :=
  narrow 32 ((c : Int) + ((List.range 128).map fun k => a k * b k).foldl (· + ·) 0)

/-- The new element of column n of a row with accumulator c. -/
def mmaElem (f : MmaForm) (buf : Memory) (row : List Word) (scale : BitVec 128 × BitVec 16) (ca cb : BitVec 256)
    (n c : Nat) : Nat :=
  let c := if f.z then 0 else c
  let x := rowElem (mxBits f.afmt) row
  let col := bufColumn buf (mxBits f.bfmt) n
  let y := fun k => col / 2 ^ (k * mxBits f.bfmt) % 2 ^ mxBits f.bfmt
  if mxInt f.afmt then
    intElem c (fun k => valOf (mxBits f.afmt) (f.afmt == .n8 || f.afmt == .n4) (x k))
      (fun k => valOf (mxBits f.bfmt) (f.bfmt == .n8 || f.bfmt == .n4) (y k))
  else
    let a := fun k => mxVal ca f.afmt (x k)
    let b := fun k => mxVal cb f.bfmt (y k)
    if f.afmt = .e2m1 then
      let d := squareData .e2m1
      fp4Elem c a b (fun j => fmtE3m5.decode (scale.1.extractLsb' (8 * j) 8).toNat)
        (fun j => fmtE3m5.decode (memGet buf (d + 16 * n + j)).toNat) (fmtBf16.decode scale.2.toNat)
        (fmtBf16.decode (leNat (memRead buf (d + 2048) 2)))
    else addBlock c (dotFrom a b 0 128)

/-- Tile and element of row i and column n of a joint operation (R315). -/
def tileSpot (t i n : Nat) : Nat × Nat := (t + i / 128, i % 128 * 128 + n)

def Engine.elem (e : Engine) (t i n : Nat) : Word :=
  tblGet 0 (tblGet [] e.tiles (tileSpot t i n).1) (tileSpot t i n).2

def Engine.setElem (e : Engine) (t i n : Nat) (v : Word) : Engine :=
  { e with tiles := tblUpd [] e.tiles (tileSpot t i n).1 fun x => tblSet x (tileSpot t i n).2 v }

/-- One row of an mma. -/
def Engine.mmaRow (e : Engine) (f : MmaForm) (i : Nat) (row : List Word) (scale : BitVec 128 × BitVec 16)
    (ca cb : BitVec 256) : Engine :=
  let buf := tblGet [] e.bufs (if f.s then 1 else 0)
  (List.range 128).foldl (fun d n =>
    d.setElem f.t.toNat i n (BitVec.ofNat 32 (mmaElem f buf row scale ca cb n (e.elem f.t.toNat i n).toNat))) e

/-- The rows that are not skipped (R318). -/
def Engine.mmaRun (e : Engine) (f : MmaForm) (rows : Tbl (List Word)) (scales : Tbl (BitVec 128 × BitVec 16))
    (ca cb : BitVec 256) : Engine :=
  rows.foldl (fun d r => d.mmaRow f r.1 r.2 (tblGet (0, 0) scales r.1) ca cb) e

/-! ## Operations that an engine has accepted (R307) -/

def EngAct.isMma : EngAct → Bool
  | .mma _ _ _ _ _ _ => true
  | _ => false

/-- The tiles of a joint operation of k members (R315). -/
def tilesOf (t k : Nat) : List Nat := if 5 ≤ k then [t, t + 1] else [t]

/-- Engine state that an operation reads, and that it writes: tiles 0 to 3, buffers 4 and 5, code tables 8 to 11. -/
def EngAct.reads : EngAct → List Nat
  | .mma f _ _ _ _ _ => [4 + (if f.s then 1 else 0)]
  | .accSt t _ _ _ => [t]
  | .epi t k _ _ => tilesOf t k
  | _ => []

def EngAct.writes : EngAct → List Nat
  | .mma f k _ _ _ _ => tilesOf f.t.toNat k
  | .ldb f _ _ _ _ _ _ => [4 + (if f.s then 1 else 0)]
  | .ctSet n _ => [8 + n]
  | .accLd t _ _ _ | .accZero t _ _ => [t]
  | _ => []

/-- Two operations must take effect in acceptance order. -/
def EngAct.conflicts (a b : EngAct) : Bool :=
  (a.writes.any fun x => (b.reads ++ b.writes).contains x) || a.reads.any b.writes.contains

/-- An accepted operation that may complete: no earlier one shares engine state with it; for a ct.set, every earlier mma
has started, each after all that was accepted before it (R324, R325). -/
def Engine.opReady (e : Engine) (id : Nat) : Option EngOp :=
  let before := e.ops.takeWhile fun o => o.id != id
  match e.ops.find? fun o => o.id == id with
  | none => none
  | some o =>
    let started := match o.act with
      | .ctSet _ _ => !((before.drop 1).any fun b => b.act.isMma)
      | _ => true
    if started && before.all fun b => !b.act.conflicts o.act then some o else none

def State.updEngine (s : State) (core : Nat) (f : Engine → Engine) : State :=
  s.updCore core fun k => { k with engine := f k.engine }

/-- An operation has completed: its flag falls, its lines leave OUT, and it is forgotten. -/
def State.endEngOp (s : State) (core : Nat) (o : EngOp) : State :=
  let s := s.updCore core fun k => k.clearFlags o.flag o.members
  let s := o.outs.foldl (fun s l => s.outSub l) s
  s.updEngine core fun e => { e with ops := e.ops.filter fun x => x.id != o.id }

/-- Code table n after every operation accepted so far (R325). -/
def Engine.ctNow (e : Engine) (n : Nat) : BitVec 256 :=
  e.ops.foldl (fun v o =>
    match o.act with
    | .ctSet m t => if m = n then t else v
    | _ => v) (tblGet 0 e.ct n)

/-! ## Issuing once per issue (R306) -/

/-- The lanes that issue set the flag and advance. -/
def State.passLanes (s : State) (flag : FlagSel) (go : List Nat) : State :=
  let next := s.nextPc
  s.updIssGroup fun y => y.mapLanes go fun _ x =>
    (match flag with
     | some f => { x with flags := flagInc x.flags f.val }
     | none => x).goto next

/-- What the issue contributes. -/
def State.member (s : State) (go : List Nat) (pos : Nat) (rows : Tbl (List Word)) (claimed : Bool)
    (args : Option EpiArgs) : Member :=
  { pos := pos, uid := s.issGroup.uid, group := s.issue.group, lanes := maskOf go,
    tl := go.any fun l => (s.issLane l).tl, pc := s.issue.p, rows := rows, claimed := claimed, own := none, args := args }

/-- Accept an operation of one issue. -/
def State.acceptEng (s : State) (flag : FlagSel) (go : List Nat) (act : EngAct) (outs : List (Nat × Nat)) : State :=
  let m := s.member go 0 [] false none
  let (id, u) := s.name
  let o : EngOp :=
    { id := id, act := act, early := none, gone := false, flag := flag, team := s.issTeam.uid, grid := s.issTeam.grid,
      members := [m], outs := outs }
  let u := outs.foldl (fun u l => u.outAdd l) u
  (u.passLanes flag go).updEngine s.issue.core fun e => { e with ops := e.ops ++ [o] }

/-- All lanes that issue park together. -/
def State.parkAll (s : State) (go : List Nat) (w : WaitOn) : State := s.parkLanes (go.map fun l => (l, w))

/-- What an access of the whole issue meets: lanes park, or the fault is raised; nothing where it may go on. -/
def State.stopOn (s : State) (go : List Nat) (a : DWord) (r : Reach) : Option State :=
  match r with
  | .ok _ _ _ => none
  | .miss ctx vpns => some ((s.parkAll go (.walk ctx vpns)).issWalks (vpns.map fun v => (ctx, v)))
  | .absent core ls => some (s.parkAll go (.lines core ls))
  | .bad code aux =>
    let l := lowLane (maskOf go)
    some (s.raiseOwn [(l, a)] [(l, code, aux)] ⟨code, maskOf go, s.issue.p, a, BitVec.ofNat 64 aux⟩)

/-- A relaxed load of the lowest issuing lane, aligned (R443): it goes on with the bytes, or the issue stops. -/
def State.loadOnce (s : State) (go : List Nat) (a : DWord) (align n : Nat) : Except State (State × List Byte) :=
  let l := lowLane (maskOf go)
  let r := s.ownReach l a align n .load
  match s.stopOn go a r with
  | some u => .error u
  | none =>
    match r with
    | .ok p ch _ =>
      let ids := s.ownBlockers l p n false
      (match (if ids.isEmpty then s.ownHolds p ch n else some (.own ids)) with
       | some w => .error (s.parkAll go w)
       | none => .ok ((s.selfWalk (s.whoIs l) a 1).ownLoad s.issue.core s.issGroup.uid s.issGrid.ctx p ch n))
    | _ => .error s

/-- The checks of an address in tag 0x8 or 0x9 that an engine operation presents, as one fault of the issue. -/
def State.spadFault (s : State) (align n : Nat) (a : DWord) : Option FaultInfo :=
  match s.preCheck (s.whoIs (lowLane s.issue.lanes)) .s align n a with
  | some (c, x) => some { s.ownFault c x with addr := a }
  | none => none

/-- The place of a checked scratchpad address. -/
def State.spadPlace (s : State) (a : DWord) (n : Nat) : Place :=
  match s.refOf (s.whoIs (lowLane s.issue.lanes)) a n with
  | .at_ p => p
  | .virt _ => .spad 0

/-- Lines of the core's own scratchpad that are absent at issue (R60, R320, R327). -/
def State.absentLines (s : State) (p : Place) (n : Nat) : List Nat :=
  match p with
  | .spad x => (linesOf x n).filter fun l => !s.issCore.present l
  | _ => []

/-- The role check of majors 0xF0 to 0xF7 (R158). -/
def State.matrixRole (s : State) : Option FaultInfo := s.illegal (s.issGroup.role == .matrix)

/-- A block of n registers, aligned to n. -/
def State.blockReg (s : State) (n : Nat) : Src → Bool
  | .reg r => s.regsOk n r.toNat
  | _ => false

/-! ## Joint operations (R311 to R317) -/

/-- Checks 2 to 4 of R313 for an operation. -/
def State.gangChecks (s : State) (op : JointOp) (go : List Nat) : List (Option FaultInfo) :=
  let e := s.issCore.engine
  let g := s.issue.group
  let aux := e.gang.toNat
  let fits := match e.latch with
    | none => true
    | some la => la.op == op && !la.joined g
  [s.demand (gangPos e.gang g).isSome 0x0A aux, s.demand fits 0x0A aux,
   s.demand (s.issGroup.liveLanes.all fun l => go.contains l) 0x0A aux]

/-- The bytes of P_k that an epilogue word reaches: k, first byte, count (Table 13.6, R330). -/
def epiReach (w : Word) (c0 nc m : Nat) : Option (Nat × Nat × Nat) :=
  let op := (w.extractLsb' 28 4).toNat
  let k := (w.extractLsb' 0 2).toNat
  if op = 1 then some (k, 4 * c0, 4 * nc)
  else if op = 2 then some (k, 0, 4 * m)
  else if op = 8 then some (k, 0, 268)
  else if op = 0xB && w.getLsbD 15 then
    let size := 4 * 2 ^ (w.extractLsb' 13 2).toNat
    some (k, 0, (m - 1) * 16 * size + (nc - 1) * size / 8 + max 1 (size / 8))
  else none

/-- The first register, the size and the validity of a register store. -/
def epiRegStore (w : Word) : Option (Nat × Nat) :=
  if w.extractLsb' 28 4 = 0xB#4 && !w.getLsbD 15 then
    some ((w.extractLsb' 0 10).toNat, 4 * 2 ^ (w.extractLsb' 13 2).toNat)
  else none

/-- Scratchpad lines that a run stores to, once each; nothing while their rank moves. -/
def State.epiLines (s : State) (core : Nat) (a : EpiArgs) (prog : List Word) (m : Nat) : Option (List (Nat × Nat)) :=
  match s.spadSpot core a.place with
  | none => none
  | some (k, x) =>
    let stores := prog.filter fun w => w.extractLsb' 28 4 = 0xB#4 && w.getLsbD 15
    some ((stores.flatMap fun w =>
      let size := 4 * 2 ^ (w.extractLsb' 13 2).toNat
      let p := x + a.pks.getD (w.extractLsb' 0 2).toNat 0
      (List.range m).flatMap fun i =>
        (linesOf (p + i * 16 * size) ((a.nc * size + 7) / 8)).map fun l => (k, l)).eraseDups)

/-- A released operation can be accepted: an epi.run's destination lines are below 63 (R327). -/
def State.acceptable (s : State) (core : Nat) (la : Latch) : Bool :=
  match la.op with
  | .mma _ => true
  | .epi _ =>
    match (la.members.find? fun m => m.pos == 0).bind (·.args) with
    | some a =>
      (match s.epiLines core a (s.core core).engine.epiProg (32 * la.members.length) with
       | some ls => ls.all fun l => tblGet 0 (s.core l.1).outs l.2 < 63
       | none => false)
    | none => true

/-- The rows of A that members supply. -/
def memberRows (ms : List Member) : Tbl (List Word) :=
  ms.foldl (fun t m => m.rows.foldl (fun t r => tblSet t (32 * m.pos + r.1) r.2) t) []

/-- The scales of the entries that members claimed. -/
def memberScales (ms : List Member) : Tbl (BitVec 128 × BitVec 16) :=
  ms.foldl (fun t m =>
    match m.own with
    | some x => (lanesOf m.lanes).foldl (fun t l => tblSet t (32 * m.pos + l) (tblGet 0 x.ua l, tblGet 0 x.sa l)) t
    | none => t) []

/-- ACCEPTANCE of a joint operation (R307, R313, R316, R318, R323, R331). -/
def State.acceptJoint (s : State) (core : Nat) (la : Latch) : State :=
  let e := (s.core core).engine
  let k := la.members.length
  let (id, s) := s.name
  let op := fun (a : EngAct) (outs : List (Nat × Nat)) =>
    ({ id := id, act := a, early := none, gone := false, flag := la.op.flag, team := la.team, grid := la.grid, members := la.members, outs := outs } : EngOp)
  match la.op with
  | .mma f =>
    let own := memberRows la.members
    let rows := match e.reuse with
      | some r => tblMap (fun i x => tblGet x r.rows i) own
      | none => own
    let (scales, ms) := takeClaims e.scales la.members
    let act := EngAct.mma f k rows (memberScales ms) (e.ctNow f.ca.toNat) (e.ctNow f.cb.toNat)
    s.updEngine core fun e =>
      { e with reuse := if f.reuse then some ⟨f.afmt, rows⟩ else none, scales := scales, ops := e.ops ++ [op act []] }
  | .epi f =>
    match (la.members.find? fun m => m.pos == 0).bind (·.args) with
    | some a =>
      if e.epiProg.isEmpty then s.updCore core fun c => c.clearFlags f.flag la.members
      else
        let outs := (s.epiLines core a e.epiProg (32 * k)).getD []
        let s := outs.foldl (fun s l => s.outAdd l) s
        s.updEngine core fun e => { e with ops := e.ops ++ [op (.epi f.t.toNat k a e.epiProg) outs] }
    | none => s

/-- An mma takes a power token when its latch is released (R317). -/
def State.takeToken (s : State) (core : Nat) : State :=
  let s := s.updEngine core fun e => { e with token := false }
  { s with power := { s.power with tokOut := s.power.tokOut + 1, mmaTok := core :: s.power.mmaTok } }

def State.returnToken (s : State) (core : Nat) : State :=
  { s with power := { s.power with tokOut := s.power.tokOut - 1, mmaTok := s.power.mmaTok.erase core } }

/-- A member joins the latched operation, or opens the latch; the last one releases it (R313). -/
def State.joinLatch (s : State) (op : JointOp) (m : Member) : State :=
  let core := s.issue.core
  let e := s.issCore.engine
  let la : Latch := { op := op, team := s.issTeam.uid, grid := s.issTeam.grid, members := (match e.latch with
    | some l => l.members
    | none => []) ++ [m] }
  if la.members.length < gangCount e.gang then s.updEngine core fun e => { e with latch := some la }
  else
    let s := s.updEngine core fun e => { e with latch := none }
    let s := match op with
      | .mma _ => s.takeToken core
      | .epi _ => s
    if e.held.isEmpty && s.acceptable core la then s.acceptJoint core la
    else s.updEngine core fun e => { e with held := e.held ++ [la] }

/-- mma (R309, R313, R318, R323). The operand check comes before the park of lanes whose flag is full, as for every instruction (R217,
log entry 82). -/
def execMma (f : MmaForm) (s : State) : Result :=
  let e := s.issCore.engine
  let go := s.goLanes f.flag
  let pos := (gangPos e.gang s.issue.group).getD 0
  let r := match f.a with
    | .reg r => r.toNat
    | _ => 0
  .next (s.orFault [s.matrixRole, s.operands [blockOk s.issGroup.units e.gang f]] (
    if go.isEmpty then s.parkFull s f.flag
    else
      s.orFault (s.gangChecks (mmaKey f) go ++
          [s.demand (e.scalesFit pos f) 0x09 pos, s.demand (e.reuseFits f) 0x0A e.gang.toNat]) (
        let rows := go.map fun l => (l, s.srcRegs 0 l r (4 * mxBits f.afmt))
        let m := s.member go pos rows (f.afmt == .e2m1) none
        (s.passLanes f.flag go).joinLatch (mmaKey f) m)))

/-! ## gang.set and scl.push (R311, R322, R323) -/

/-- The value of a gang.set is legal for a team. -/
def gangOk (t : Team) (v : DWord) : Bool :=
  let k := gangCount v
  let ms := (List.range k).map (gangMember v)
  k != 1 && k != 7 && ms.Nodup && v.toNat / 2 ^ 35 == 0 && v.toNat % 2 ^ 32 / 2 ^ (5 * k) == 0
    && ms.all fun g => (tblFind t.groups g).isSome && (t.group g).role == .matrix

/-- gang.set. -/
def execGangSet (h : VHead) (a : Src) (s : State) : Result :=
  let e := s.issCore.engine
  let v := s.src64 0 (lowLane s.issue.lanes) a
  let full := (List.range 6).find? fun p => !(tblGet [] e.scales p).isEmpty
  .next (s.orFault [s.matrixRole, s.operands [s.srcOk 2 a]] (
    if (s.goLanes h.flag).isEmpty then s.parkFull s h.flag
    else
      s.orFault [s.demand (gangOk s.issTeam v) 0x05, s.demand e.latch.isNone 0x0A e.gang.toNat,
          s.demand full.isNone 0x09 (full.getD 0)]
        ((s.updEngine s.issue.core fun e => { e with gang := v, reuse := none }).runLanes h.flag fun _ x => x)))

/-- The micro-scales of four registers: micro-scale j in bits 8j + 7 to 8j (R322). -/
def packScales (ws : List Word) : BitVec 128 := BitVec.ofNat 128 (leNat (bytesOfWords ws))

/-- scl.push. -/
def execSclPush (h : VHead) (m sc : Src) (s : State) : Result :=
  let e := s.issCore.engine
  let go := s.goLanes h.flag
  let pos := gangPos e.gang s.issue.group
  let p := pos.getD 0
  let r := match m with
    | .reg r => r.toNat
    | _ => 0
  let x : ScaleSet := { ua := go.map fun l => (l, packScales (s.srcRegs 0 l r 4)),
                        sa := go.map fun l => (l, (s.src32 1 l sc).extractLsb' 0 16) }
  .next (s.orFault [s.matrixRole, s.operands [s.blockReg 4 m, s.srcOk 1 sc]] (
    if go.isEmpty then s.parkFull s h.flag
    else
      s.orFault [s.demand pos.isSome 0x0A e.gang.toNat, s.demand ((tblGet [] e.scales p).length < 8) 0x09 p,
          s.demand (s.issGroup.liveLanes.all fun l => go.contains l) 0x09 p]
        ((s.updEngine s.issue.core fun e => { e with scales := tblUpd [] e.scales p fun q => q ++ [x] }).runLanes h.flag
          fun _ x => x)))

/-! ## ct.set (R324) -/

/-- ct.set. -/
def execCtSet (h : VHead) (n : BitVec 2) (a : Src) (s : State) : Result :=
  let go := s.goLanes h.flag
  let r := match a with
    | .reg r => r.toNat
    | _ => 0
  let v := BitVec.ofNat 256 (leNat (bytesOfWords (s.srcRegs 0 (lowLane (maskOf go)) r 8)))
  .next (s.orFault [s.matrixRole, s.operands [s.blockReg 8 a]] (
    if go.isEmpty then s.parkFull s h.flag
    else if !s.issCore.engine.held.isEmpty then (s.parkAll go .engine).parkFull s h.flag
    else (s.acceptEng h.flag go (.ctSet n.toNat v) []).parkFull s h.flag))

/-! ## mma.ldb (R319 to R321) -/

/-- The issue of an mma.ldb with its record read: TENSOR_ID and the square's index. -/
def State.issueLdb (s : State) (f : LdbForm) (go : List Nat) (tensor sq : Nat) : State :=
  let l := lowLane (maskOf go)
  let core := s.issue.core
  let n := squareTag f.fmt + 16
  let a := s.src64 0 l f.a
  let p := s.spadPlace a n
  let gone := s.absentLines p n
  if !gone.isEmpty then s.parkAll go (.lines core gone)
  else
    let num := s.issTeam.tlMatrix.next
    let key := match tblFind s.ctxs.live s.issGrid.ctx with
      | some c => (tblFind c.keys f.key.toNat).map (·.key)
      | none => none
    let rel := s.fresh
    let u := s.updIssTeam fun t => { t with tlMatrix := t.tlMatrix.accept.2 }
    let u := if f.ring.isSome then
        u.pushPoint core s.issTeam.uid s.issGrid.ctx s.issGroup.uid l (.release .team)
      else u
    let id := u.fresh
    let o : Op :=
      { id := id, uid := s.issGroup.uid, kind := .sfu f.dst.toNat, flag := none,
        tl := go.any fun l => (s.issLane l).tl, lanes := maskOf go, left := [id],
        values := go.map fun l => (l, [BitVec.ofNat 32 num, BitVec.ofNat 32 (num / 2 ^ 32)]), ended := 0,
        pc := s.issue.p }
    (u.acceptEng f.flag go (.ldb f p key tensor sq num rel) []).updCore core fun k =>
      { k with ops := tblSet k.ops id o }

/-- mma.ldb. -/
def execMmaLdb (f : LdbForm) (s : State) : Result :=
  let go := s.goLanes f.flag
  let l := lowLane (maskOf go)
  let a := s.src64 0 l f.a
  let v := s.src64 1 l f.lay
  let ringOk := match f.ring with
    | some (r, st) => s.issTeam.stageOk r.toNat st.toNat
    | none => true
  .next (s.orFault [s.matrixRole,
      s.operands ([s.regsOk 2 f.dst.toNat, s.srcOk 2 f.a] ++ if f.ct then [s.srcOk 2 f.lay, s.srcOk 1 f.q] else [])] (
    if go.isEmpty then s.parkFull s f.flag
    else
      s.orFault [s.demand ringOk 0x05, s.spadFault 256 (squareTag f.fmt + 16) a] ((
        if !s.issCore.engine.held.isEmpty then s.parkAll go .engine
        else if f.ct then
          match s.loadOnce go v 32 8 with
          | .error u => u
          | .ok (u, bs) =>
            u.issueLdb f go (leNat (bs.drop 4)) ((leNat (bs.take 4) + (s.src32 2 l f.q).toNat) % 2 ^ 32)
        else s.issueLdb f go 0 0).parkFull s f.flag)))

/-- The rank of a place has ended: no entry of its cluster's table holds it. -/
def State.rankEnded (s : State) : Place → Bool
  | .rank c r g co _ => ((s.cluster c).rankEntry g co r).isNone
  | _ => false

/-- A request of an engine operation ends with a fault at its requester, the lowest lane of its issue (R156). -/
def State.engReport (s : State) (core : Nat) (o : EngOp) (p : Place) (code aux : Nat) : State :=
  match o.members with
  | [] => s
  | m :: _ =>
    match (s.core core).findGroup m.uid with
    | none => s
    | some (slot, g) =>
      s.report core { code := code, uid := m.uid, slot := slot, group := g, lanes := (1 : BitVec 32) <<< lowLane m.lanes,
                      pc := m.pc, addr := (Ref.at_ p).address, aux := BitVec.ofNat 64 aux, merged := false, tl := m.tl,
                      orig := 0, late := true }

/-- An operation's tag 0x9 source has been read. -/
def State.tookSource (s : State) (core id : Nat) (p : Place) (bs : List Byte) : State :=
  (s.unwait p id).updEngine core fun e =>
    { e with ops := e.ops.map fun o => if o.id == id then { o with early := some bs } else o }

/-- The request of an operation for its tag 0x9 source, one for the whole of it (log entry 78): it waits at the target for present
lines and while the rank moves, in arrival order, and is read when it is served (R61, R136, R155, R320). A rank that has ended gives
zeros and a fault. -/
def State.askSource (s : State) (core : Nat) (o : EngOp) : State :=
  match o.act.source with
  | none => s
  | some (p, n) =>
    if p.rankOf.isNone || o.early.isSome || o.gone || s.pathHeld core 0 p n then s
    else if s.rankEnded p then (s.tookSource core o.id p (zeros n)).engReport core o p 0x03 0
    else
      match s.rankServed p n ⟨some core, o.id⟩ with
      | .spad k x => (s.spadRead k x n).1.tookSource core o.id p (s.spadRead k x n).2
      | _ => if (s.rankSpot p n).isSome then s else s.waitRank p ⟨some core, o.id⟩

/-- The bytes that an operation's source gives: a tag 0x8 source was checked at the issue and is read as it is now; what a tag 0x9
request has read. The source of a target that is gone reads zero. -/
def State.engineBytes (s : State) (core : Nat) (o : EngOp) (p : Place) (n : Nat) : Option (State × List Byte) :=
  if o.gone then some (s, zeros n)
  else
    match p with
    | .spad x => some (s.spadRead core x n)
    | _ => o.early.map fun bs => (s, bs)

/-- An accepted operation, by its name. -/
def Engine.opAt (e : Engine) (id : Nat) : Option EngOp := e.ops.find? fun o => o.id == id

/-- A square or a saved buffer failed its tag check, or a square found no key (R321, R369). -/
def State.countTagFail (s : State) (core ctx : Nat) : State :=
  let s := s.updEngine core fun e => { e with stat := ⟨satInc 32 e.stat.tagFail⟩ }
  let s := s.updCtx ctx fun c => { c with tagFails := satInc 32 c.tagFails }
  let grids := tblMap (fun _ g => if g.ctx = ctx then g.markTag else g) s.sched.grids
  { s with sched := { s.sched with grids := grids } }

/-- The IV of a square (R321). -/
def squareIv (tensor sq : Nat) : List Byte := (natLe tensor 4).reverse ++ (natLe sq 4).reverse ++ [0, 0, 0, 0]

/-- The plaintext of an encrypted image, if the key is there and the tag agrees (R321). -/
def openSquare (key : Option (BitVec 256)) (tensor sq : Nat) (body tag : List Byte) : Option (List Byte) :=
  match key with
  | none => none
  | some k =>
    let key := (natLe k.toNat 32).reverse
    if gcmTag key (squareIv tensor sq) [] body = tag then some (gcmCrypt key (squareIv tensor sq) body) else none

/-- The buffer takes the square of an mma.ldb, and what waits for the load learns of it. -/
def State.loadSquare (s : State) (core : Nat) (o : EngOp) (f : LdbForm) (key : Option (BitVec 256)) (tensor sq num rel : Nat)
    (bs : List Byte) : State :=
  let body := bs.take (squareTag f.fmt)
  let plain := if f.ct then openSquare key tensor sq body (bs.drop (squareTag f.fmt)) else some body
  let s := if plain.isNone then s.countTagFail core (s.grid o.grid).ctx else s
  let buf := memWrite [] 0 (plain.getD [])
  let s := s.updEngine core fun e => { e with bufs := tblSet e.bufs (if f.s then 1 else 0) buf }
  let s := match (s.core core).findTeam o.team with
    | none => s
    | some slot => s.updTeam core slot fun t =>
      let t := { t with tlMatrix := t.tlMatrix.complete num }
      match f.ring with
      | some (r, st) => t.ringArrive r.toNat st.toNat true [rel]
      | none => t
  let s := s.updCore core fun k => match tblFind k.ops o.id with
    | some p => k.completeOp p
    | none => k
  s.endEngOp core o

/-- MMA_LDB_COMPLETE: a tag 0x9 source is asked for first; the load completes once it has its bytes. -/
def execMmaLdbComplete (core id : Nat) (s : State) : Result :=
  match (s.core core).engine.opAt id with
  | none => .next s
  | some q =>
    match q.act with
    | .ldb f p key tensor sq num rel =>
      let s := s.askSource core q
      (match (s.core core).engine.opReady id with
       | none => .next s
       | some o =>
         match s.engineBytes core o p (squareTag f.fmt + 16) with
         | none => .next s
         | some (s, bs) => .next (s.loadSquare core o f key tensor sq num rel bs))
    | _ => .next s

/-! ## Tokens and held operations (R317, R327) -/

/-- TOKEN_GRANT: a free token is granted to a core where a lane waits for one. -/
def execTokenGrant (core : Nat) (s : State) : Result :=
  let k := s.core core
  let waits := k.teams.any fun t => t.2.groups.any fun g => (List.range 32).any fun l =>
    (g.2.lane l).live && s.needsToken core t.1 g.1 l
  .next (if waits && !k.engine.token && 0 < s.tokensFree then s.updEngine core fun e => { e with token := true } else s)

/-- ENGINE_HELD_ACCEPT: the oldest held operation is accepted once its destination lines allow it. -/
def execEngineHeldAccept (core : Nat) (s : State) : Result :=
  match (s.core core).engine.held with
  | [] => .next s
  | la :: t =>
    .next (if s.acceptable core la then (s.acceptJoint core la).updEngine core fun e => { e with held := t } else s)

/-! ## Completions of mma and ct.set (R318, R324, R325) -/

/-- MMA_COMPLETE. -/
def execMmaComplete (core id : Nat) (s : State) : Result :=
  match (s.core core).engine.opReady id with
  | some o =>
    match o.act with
    | .mma f _ rows scales ca cb =>
      .next (((s.updEngine core fun e => e.mmaRun f rows scales ca cb).returnToken core).endEngOp core o)
    | _ => .next s
  | none => .next s

/-- CT_SET_COMPLETE. -/
def execCtSetComplete (core id : Nat) (s : State) : Result :=
  match (s.core core).engine.opReady id with
  | some o =>
    match o.act with
    | .ctSet n v => .next ((s.updEngine core fun e => { e with ct := tblSet e.ct n v }).endEngOp core o)
    | _ => .next s
  | none => .next s

/-! ## acc (R326, R327) -/

/-- acc. -/
def execAcc (f : AccForm) (s : State) : Result :=
  let go := s.goLanes f.flag
  let l := lowLane (maskOf go)
  let a := s.src64 0 l f.a
  let row0 := (s.src32 1 l f.row0).toNat
  let count := (s.src32 2 l f.count).toNat
  let n := 512 * count
  let core := s.issue.core
  .next (s.orFault [s.matrixRole,
      s.operands ([s.srcOk 1 f.row0, s.srcOk 1 f.count] ++ if f.op = .zero then [] else [s.srcOk 2 f.a])] (
    if go.isEmpty then s.parkFull s f.flag
    else
      s.orFault [s.demand (1 ≤ count && row0 + count ≤ 128) 0x05, if f.op = .zero then none else s.spadFault 256 n a] ((
        if !s.issCore.engine.held.isEmpty then s.parkAll go .engine
        else
          let p := s.spadPlace a n
          match f.op with
          | .zero => s.acceptEng f.flag go (.accZero f.t.toNat row0 count) []
          | .ld =>
            let gone := s.absentLines p n
            if gone.isEmpty then s.acceptEng f.flag go (.accLd f.t.toNat p row0 count) []
            else s.parkAll go (.lines core gone)
          | .st =>
            match s.refLines core (.at_ p) n with
            | none => s.parkAll go (Ref.at_ p).awaited
            | some ls =>
              match ls.find? fun x => tblGet 0 (s.core x.1).outs x.2 = 63 with
              | some (k, _) => s.parkAll go (.outFull k ((ls.filter fun y => y.1 == k).map (·.2)))
              | none => s.acceptEng f.flag go (.accSt f.t.toNat p row0 count) ls).parkFull s f.flag)))

/-- The elements of rows row0 on, in order: 128 of each row. -/
def Engine.rowsOf (e : Engine) (t row0 count : Nat) : List Word :=
  (List.range (128 * count)).map fun i => e.elem t (row0 + i / 128) (i % 128)

/-- Write rows row0 on. -/
def Engine.putRows (e : Engine) (t row0 : Nat) (ws : List Word) : Engine :=
  ws.zipIdx.foldl (fun e w => e.setElem t (row0 + w.2 / 128) (w.2 % 128) w.1) e

/-- Some line is still to be zeroed: what would be written into it waits (R57, R64; log entry 59). -/
def State.zeroingAny (s : State) (ls : List (Nat × Nat)) : Bool := ls.any fun l => (s.core l.1).zeroing.contains l.2

/-- The rows of an acc.st are written to a place: to nowhere where its target is gone; they wait while the rank moves, behind a
window (R136), and for the zeroing of their lines. -/
def State.storeRows (s : State) (core : Nat) (o : EngOp) (p : Place) (ws : List Word) : State :=
  if o.gone || s.rankEnded p then s.endEngOp core o
  else
    match s.spadSpot core p with
    | none => s
    | some (k, x) =>
      if s.pathHeld core 0 p (4 * ws.length) || s.zeroingAny ((linesOf x (4 * ws.length)).map fun l => (k, l)) then s
      else (s.spadWrite k x (bytesOfWords ws)).endEngOp core o

/-- ACC_COMPLETE: a tag 0x9 source of acc.ld is asked for first. -/
def execAccComplete (core id : Nat) (s : State) : Result :=
  match (s.core core).engine.opAt id with
  | none => .next s
  | some q =>
    match q.act with
    | .accZero t row0 count =>
      (match (s.core core).engine.opReady id with
       | none => .next s
       | some o => .next ((s.updEngine core fun e => e.putRows t row0 (List.replicate (128 * count) 0)).endEngOp core o))
    | .accLd t p row0 count =>
      let s := s.askSource core q
      (match (s.core core).engine.opReady id with
       | none => .next s
       | some o =>
         match s.engineBytes core o p (512 * count) with
         | none => .next s
         | some (s, bs) => .next ((s.updEngine core fun e => e.putRows t row0 (wordsOf bs)).endEngOp core o))
    | .accSt t p row0 count =>
      (match (s.core core).engine.opReady id with
       | none => .next s
       | some o => .next (s.storeRows core o p ((s.core core).engine.rowsOf t row0 count)))
    | _ => .next s

/-! ## The epilogue processor (R328 to R331) -/

/-- The fields of an epilogue word. -/
def epiOp (w : Word) : Nat := (w.extractLsb' 28 4).toNat
def epiD (w : Word) : Nat := (w.extractLsb' 25 3).toNat
def epiA (w : Word) : Nat := (w.extractLsb' 22 3).toNat
def epiB (w : Word) : Nat := (w.extractLsb' 19 3).toNat
def epiC (w : Word) : Nat := (w.extractLsb' 16 3).toNat
def epiImm (w : Word) : Nat := (w.extractLsb' 0 16).toNat

/-- Whether fields D, A, B, C and which bits of IMM an operation uses (Table 13.6). -/
def epiUses (op imm : Nat) : Bool × Bool × Bool × Bool × Nat :=
  if op = 0 then (true, false, false, false, 1)
  else if op = 1 ∨ op = 2 then (true, false, false, false, 3)
  else if op = 3 ∨ op = 4 ∨ op = 6 then (true, true, true, false, 0)
  else if op = 5 then (true, true, true, true, 0)
  else if op = 7 then (true, false, false, false, 0xFFFF)
  else if op = 8 then (true, true, false, false, 3)
  else if op = 9 then (true, true, false, false, 0x3FF)
  else if op = 0xA then (true, true, false, false, 7)
  else (false, true, false, false, if imm / 2 ^ 15 = 0 then 0x63FF else 0xE003)

/-- A word keeps R328. -/
def epiWordOk (w : Word) : Bool :=
  let op := epiOp w
  let imm := epiImm w
  let (d, a, b, c, bits) := epiUses op imm
  op ≤ 0xB && (d || epiD w == 0) && (a || epiA w == 0) && (b || epiB w == 0) && (c || epiC w == 0)
    && imm &&& bits == imm && (op != 0xA || imm ≤ 4)

/-- Read the words of a program, four bytes each. -/
def State.loadWords (s : State) (go : List Nat) (a : DWord) : Nat → Except State (State × List Word)
  | 0 => .ok (s, [])
  | n + 1 =>
    match s.loadOnce go a 4 4 with
    | .error u => .error u
    | .ok (s, bs) =>
      match s.loadWords go (a + 4) n with
      | .error u => .error u
      | .ok (s, ws) => .ok (s, BitVec.ofNat 32 (leNat bs) :: ws)

/-- epi.ld: the program store takes effect in acceptance order, and no operation that was accepted reads it again. -/
def execEpiLd (flag : FlagSel) (a : Src) (s : State) : Result :=
  let go := s.goLanes flag
  let p := s.src64 0 (lowLane (maskOf go)) a
  .next (s.orFault [s.matrixRole, s.operands [s.srcOk 2 a]] (
    if go.isEmpty then s.parkFull s flag
    else if !s.issCore.engine.held.isEmpty then (s.parkAll go .engine).parkFull s flag
    else
      match s.loadOnce go p 4 4 with
      | .error u => u.parkFull s flag
      | .ok (u, bs) =>
        let len := leNat bs
        if 64 < len then u.raise (s.ownFault 0x05)
        else
          match u.loadWords go (p + 4) len with
          | .error u => u.parkFull s flag
          | .ok (u, ws) =>
            if ws.all epiWordOk then
              (u.updEngine s.issue.core fun e => { e with epiProg := ws }).runLanes flag fun _ x => x
            else u.raise (s.ownFault 0x05)))

/-- What position 0 of an epi.run presents: SB, c0, NC and the offsets of P_0 to P_3 (R331). -/
def State.epiArgs (s : State) (f : EpiForm) (l : Nat) : DWord × Nat × Nat × List Nat × Word :=
  let c := s.src32 1 l f.c
  let p := s.src32 2 l f.p
  (s.src64 0 l f.sb, (c.extractLsb' 0 7).toNat, (c.extractLsb' 8 8).toNat,
   (List.range 4).map fun k => 256 * (p.extractLsb' (8 * k) 8).toNat, c)

/-- The checks of position 0 (R331). -/
def State.epiChecks (s : State) (f : EpiForm) (l : Nat) : List (Option FaultInfo) :=
  let e := s.issCore.engine
  let (sb, c0, nc, pks, c) := s.epiArgs f l
  let k := gangCount e.gang
  let prog := e.epiProg
  let units := (List.range k).map fun p => (s.issTeam.group (gangMember e.gang p)).units
  let regs := prog.all fun w => match epiRegStore w with
    | some (r, size) => units.all fun u => r + (nc * size + 31) / 32 ≤ u * 64
    | none => true
  let base := if !tagOk .s sb || !mbzOk sb then some (3, 0) else if sb.toNat % 256 != 0 then some (7, 0) else none
  let ranges := prog.map fun w => match epiReach w c0 nc (32 * k) with
    | some (j, first, n) =>
      let a := sb + BitVec.ofNat 64 (pks.getD j 0 + first)
      if spaceOf a != spaceOf sb then some (3, 0) else s.preCheck (s.whoIs l) .s 1 n a
    | none => none
  [s.demand (c &&& 0xFFFF0080 == 0 && 1 ≤ nc && c0 + nc ≤ 128) 0x05, s.demand regs 0x05,
   (firstBad (base :: ranges)).map fun x => { s.ownFault x.1 x.2 with addr := sb }]

/-- epi.run: a member's issue (R313, R331). -/
def execEpiRun (f : EpiForm) (s : State) : Result :=
  let e := s.issCore.engine
  let go := s.goLanes f.flag
  let l := lowLane (maskOf go)
  let pos := gangPos e.gang s.issue.group
  let tile := !(5 ≤ gangCount e.gang && f.t.toNat % 2 == 1)
  .next (s.orFault [s.matrixRole, s.operands [s.srcOk 2 f.sb, s.srcOk 1 f.c, s.srcOk 1 f.p, tile]] (
    if go.isEmpty then s.parkFull s f.flag
    else
      let (sb, c0, nc, pks, _) := s.epiArgs f l
      let own := if pos = some 0 then s.epiChecks f l else []
      let args := if pos = some 0 then some (EpiArgs.mk (s.spadPlace sb 0) pks c0 nc) else none
      s.orFault (own ++ s.gangChecks (epiKey f) go)
        ((s.passLanes f.flag go).joinLatch (epiKey f) (s.member go (pos.getD 0) [] false args))))

/-- FP32 results of exact operations (R190, R328). -/
def ef32 (v : FVal) : Nat := fmtF32.round .rn false v
def ev (x : Nat) : FVal := fmtF32.decode x

/-- e.act over the words of a table (R329). -/
def epiAct (a : Nat) (tab : Nat → Nat) : Nat :=
  let u := ev (ef32 (fvMul (ev (ef32 (fvAdd .rn (ev a) (ev (tab 0)).neg))) (ev (tab 1))))
  if u.isNan then fmtF32.nan
  else
    let u := fvMin (fvMax u (.fin false 0 0)) (fvOfInt 64)
    let j : Nat := min 63 (match u with
      | .fin _ m e => toQuantum .rz false m e 0
      | _ => 0)
    let f := fvAdd .rn u (fvOfInt j).neg
    let y := tab (2 + j)
    let d := ev (ef32 (fvAdd .rn (ev (tab (3 + j))) (ev y).neg))
    ef32 (fvAdd .rn (fvMul f d) (ev y))

/-- e.rq: q + zp clamped to a type, 0 i8, 1 n8, 2 i4, 3 n4. -/
def epiRq (a ty zp : Nat) : Nat :=
  let lo : Int := if ty = 0 then -128 else if ty = 2 then -8 else 0
  let hi : Int := if ty = 0 then 127 else if ty = 1 then 255 else if ty = 2 then 7 else 15
  narrow 32 (match ev a with
    | .nan => clampInt lo hi (valOf 8 false zp)
    | .inf s => if s then lo else hi
    | .fin s m e => clampInt lo hi (roundInt .rn s m e + valOf 8 false zp))

/-- The format of e.cvt. -/
def epiFmt (k : Nat) : FFmt :=
  if k = 0 then fmtBf16 else if k = 1 then fmtF16 else if k = 2 then fmtE4m3 else if k = 3 then fmtE5m2 else fmtE2m1

/-- The value that a word which stores nothing gives to eD (Table 13.6): `rd k o` is the word at byte o of P_k. -/
def epiValue (rd : Nat → Nat → Nat) (acc : Word) (i n : Nat) (r : Nat → Nat) (w : Word) : Nat :=
  let op := epiOp w
  let imm := epiImm w
  let k := imm % 4
  let a := r (epiA w)
  let b := r (epiB w)
  if op = 0 then (if imm % 2 = 0 then acc.toNat else ef32 (fvOfInt acc.toInt))
  else if op = 1 then rd k (4 * n)
  else if op = 2 then rd k (4 * i)
  else if op = 3 then ef32 (fvMul (ev a) (ev b))
  else if op = 4 then ef32 (fvAdd .rn (ev a) (ev b))
  else if op = 5 then ef32 (fvAdd .rn (fvMul (ev a) (ev b)) (ev (r (epiC w))))
  else if op = 6 then ef32 (fvMax (ev a) (ev b))
  else if op = 7 then imm * 2 ^ 16
  else if op = 8 then epiAct a fun j => rd k (4 * j)
  else if op = 9 then epiRq a (imm / 256 % 4) (imm % 256)
  else (epiFmt (imm % 8)).round .rn false (ev a)

/-- The stores of one element: each store word with its value, in order (R329). -/
def epiElem (rd : Nat → Nat → Nat) (acc : Word) (i n : Nat) : List Word → Tbl Nat → List (Word × Nat)
  | [], _ => []
  | w :: t, r =>
    let get := tblGet 0 r
    if epiOp w = 0xB then (w, get (epiA w)) :: epiElem rd acc i n t r
    else epiElem rd acc i n t (tblSet r (epiD w) (epiValue rd acc i n get w))

/-- Replace size bits of a word at an offset. -/
def putBits (old : Word) (off size v : Nat) : Word :=
  BitVec.ofNat 32 (old.toNat - (old.toNat / 2 ^ off % 2 ^ size) * 2 ^ off + v % 2 ^ size * 2 ^ off)

/-- A store of element e of row i to the lane that owns the row (R330). -/
def State.epiStoreReg (s : State) (core : Nat) (ms : List Member) (i e r size v : Nat) : State :=
  match ms.find? fun m => m.pos == i / 32 with
  | none => s
  | some m =>
    let at_ := r + e * size / 32
    s.updCore core fun k => k.updByUid m.uid fun g => g.updLane (i % 32) fun x =>
      if x.live && m.lanes.getLsbD (i % 32) && at_ < g.units * 64 then
        x.setReg at_ (putBits (x.reg at_) (e * size % 32) size v)
      else x

/-- A store of element e of row i to scratchpad, from byte p of a core's scratchpad (R330). -/
def State.epiStoreSpad (s : State) (core p i e size v : Nat) : State :=
  let a := p + i * 16 * size + e * size / 8
  let s := s.spadErrors core a 1
  if size = 4 then
    let old := memGet (s.core core).spad a
    let new := if e % 2 = 0 then old.extractLsb' 4 4 ++ BitVec.ofNat 4 v else BitVec.ofNat 4 v ++ old.extractLsb' 0 4
    s.spadWrite core a [new]
  else s.spadWrite core a (natLe (v % 2 ^ size) (size / 8))

/-- The stores of an element; those to the scratchpad of a target that is gone are dropped. -/
def State.epiStore (s : State) (core : Nat) (ms : List Member) (a : EpiArgs) (spot : Option (Nat × Nat)) (i e : Nat)
    (w : Word × Nat) : State :=
  let size := 4 * 2 ^ (w.1.extractLsb' 13 2).toNat
  if w.1.getLsbD 15 then
    match spot with
    | some (k, x) => s.epiStoreSpad k (x + a.pks.getD (w.1.extractLsb' 0 2).toNat 0) i e size w.2
    | none => s
  else s.epiStoreReg core ms i e (w.1.extractLsb' 0 10).toNat size w.2

/-- Find the latent errors of the parameters that a run reads (R63). -/
def State.epiErrors (s : State) (a : EpiArgs) (prog : List Word) (m c x : Nat) : State :=
  prog.foldl (fun s w =>
    match epiReach w a.c0 a.nc m with
    | some (j, first, n) => if w.extractLsb' 28 4 = 0xB#4 then s else s.spadErrors c (x + a.pks.getD j 0 + first) n
    | none => s) s

/-- The parameters of a run as words: byte `off` of P_j. Those of a target that is gone read zero. -/
def State.epiParams (s : State) (a : EpiArgs) (spot : Option (Nat × Nat)) (j off : Nat) : Nat :=
  match spot with
  | some (c, x) => leNat (memRead (s.core c).spad (x + a.pks.getD j 0 + off) 4)
  | none => 0

/-- A run's parameters and stores can go now: its rank does not move, no window holds them, and its lines have been zeroed. -/
def State.epiFree (s : State) (core : Nat) (a : EpiArgs) (prog : List Word) (m : Nat) : Bool :=
  let reach := prog.filterMap fun w => epiReach w a.c0 a.nc m
  !(reach.any fun r => s.pathHeld core 0 (a.place.plus (a.pks.getD r.1 0 + r.2.1)) r.2.2) &&
    (match s.epiLines core a prog m with
     | some ls => !s.zeroingAny ls
     | none => false)

/-- EPI_RUN_COMPLETE: rows and columns ascending (R329). Parameters are read as the run begins. -/
def execEpiRunComplete (core id : Nat) (s : State) : Result :=
  match (s.core core).engine.opReady id with
  | some o =>
    match o.act with
    | .epi t k a prog =>
      let spot := if o.gone then none else s.spadSpot core a.place
      if !o.gone && !s.rankEnded a.place && !s.epiFree core a prog (32 * k) then .next s
      else
        let s := match spot with
          | some (c, x) => s.epiErrors a prog (32 * k) c x
          | none => s
        let e := (s.core core).engine
        let rd := s.epiParams a spot
        let u := (List.range (32 * k)).foldl (fun u i =>
          (List.range a.nc).foldl (fun u j =>
            (epiElem rd (e.elem t i (a.c0 + j)) i (a.c0 + j) prog []).foldl
              (fun u w => u.epiStore core o.members a spot i j w) u) u) s
        .next (u.endEngOp core o)
    | _ => .next s
  | none => .next s

/-! ## Requests held for a rank that moves (R156) -/

/-- The rank that an operation's request goes to. -/
def EngAct.target : EngAct → Option Place
  | .ldb _ p _ _ _ _ _ | .accLd _ p _ _ | .accSt _ p _ _ => some p
  | .epi _ _ a _ => some a.place
  | _ => none

/-- An operation waits for an entry's rank. -/
def EngOp.waitsFor (o : EngOp) (cluster : Nat) (e : RankEntry) : Bool :=
  !o.gone && o.early.isNone && o.act.target.any fun p => p.rankOf == some (cluster, e.rank, e.grid, e.cohort)

/-- The engine operations of a core that wait for a rank end with a scratchpad-target-gone fault: their reads give zero, and
their stores are not written. -/
def State.engGone (s : State) (core cluster : Nat) (e : RankEntry) : State :=
  let os := (s.core core).engine.ops.filter fun o => o.waitsFor cluster e
  let s := s.updEngine core fun g => { g with ops := g.ops.map fun o => if o.waitsFor cluster e then { o with gone := true } else o }
  let s := os.foldl (fun s o => s.unwait (o.act.target.getD (.spad 0)) o.id) s
  os.foldl (fun s o => s.engReport core o (o.act.target.getD (.spad 0)) 0x0D e.rank) s

/-- A lane is parked for an entry's rank; the offset there. -/
def Lane.parkedFor (x : Lane) (cluster : Nat) (e : RankEntry) : Option Nat :=
  match x.status, x.waitOn with
  | .parked, .rank c r g co off => if c = cluster ∧ r = e.rank ∧ g = e.grid ∧ co = e.cohort then some off else none
  | _, _ => none

/-- An access of an instruction itself that waits in its lane for a rank ends with the fault (R156, R443): nothing of the instruction
is performed, and the lane stands ready at it. -/
def State.parkGone (s : State) (core slot g l cluster : Nat) (e : RankEntry) : State :=
  let y := s.group core slot g
  let x := y.lane l
  match x.parkedFor cluster e with
  | none => s
  | some off =>
    (s.updGroup core slot g fun q => q.updLane l fun z => { z with status := .ready, waitOn := .nothing }).report core
      { code := 0x0D, uid := y.uid, slot := slot, group := g, lanes := (1 : BitVec 32) <<< l, pc := x.pc,
        addr := (Ref.at_ (.rank cluster e.rank e.grid e.cohort off)).address, aux := BitVec.ofNat 64 e.rank, merged := false,
        tl := x.tl, orig := 0, late := true }

/-- Every lane of a core that is parked for a rank. -/
def State.parksGone (s : State) (core cluster : Nat) (e : RankEntry) : State :=
  (s.core core).teams.foldl (fun s t => t.2.groups.foldl (fun s g =>
    (List.range 32).foldl (fun s l => s.parkGone core t.1 g.1 l cluster e) s) s) s

/-- The requests that stand held for an entry end (R156). -/
def State.endHeld (s : State) (cluster : Nat) (e : RankEntry) : State :=
  let hs := s.heldFor cluster e
  let cs := s.copiesFor cluster e
  let s := s.updCluster cluster fun c => { c with hold := c.hold.filter fun r => !hs.contains r }
  let s := hs.foldl (fun s r => s.targetGone r e.rank) s
  let s := cs.foldl (fun s x => s.copyGone x cluster e) s
  (tblKeys s.cores).foldl (fun s c => (s.engGone c cluster e).parksGone c cluster e) s

/-- HOLD_TIMEOUT (R156): 100 µs have passed since a rank was marked moving, in whichever grid and cohort holds it. -/
def execHoldTimeout (cluster rank : Nat) (s : State) : Result :=
  let due := (s.cluster cluster).ranks.filter fun e => e.rank == rank && e.moving.any fun t => t + 100000 ≤ s.ns
  .next (due.foldl (fun s e => s.endHeld cluster e) s)

end Sys2Proof.Machine
end

