-- ==== Sys2Proof/Machine/Wear.lean ====
section
/-! DEFINITION. Wear records and their arithmetic (16 R384 to R392), the life budget (R394) and boost charges (R395). -/

namespace Sys2Proof.Machine

/-! ## Wear units (R384): numbered here by kind, log entry 9 -/

def coreUnit (cluster phys : Nat) : Nat := cluster * 272 + phys
def engineUnit (cluster phys : Nat) : Nat := 2176 + coreUnit cluster phys
def sliceUnit (die : Nat) : Nat := 4352 + die
def portUnit (port : Nat) : Nat := 4360 + port

/-- The record of a unit that none is listed for: a spare's is cold (R390). -/
def wearStart (unit : Nat) : Wear :=
  if 4352 ≤ unit then Wear.reset
  else if 256 ≤ unit % 272 then { Wear.reset with st := 1 }
  else { Wear.reset with logical := some (unit % 272) }

def State.wearAt (s : State) (unit : Nat) : Wear := (tblFind s.wear.live unit).getD (wearStart unit)
def State.updWear (s : State) (unit : Nat) (f : Wear → Wear) : State :=
  { s with wear := { s.wear with live := tblSet s.wear.live unit (f (s.wearAt unit)) } }

/-- CNT of a mechanism. -/
def wearCnt (x : Nat) : Nat := x / 2 ^ 32

/-- Composite W (R300). -/
def Wear.composite (w : Wear) : Nat := min (2 ^ 64 - 1) (wearCnt w.bti + wearCnt w.hci + wearCnt w.em / 2)

/-- An addition that saturates (R384). -/
def wearAdd (a b : Nat) : Nat := min (2 ^ 96 - 1) (a + b)

/-! ## P(n, m) and the increments (R386) -/

/-- The greatest k with (2k − 1)^m at most 2^t, bit by bit from bit i − 1 down. -/
def rootSearch (m t : Nat) : Nat → Nat → Nat
  | 0, k => k
  | i + 1, k =>
    let c := k + 2 ^ i
    rootSearch m t i (if (2 * c - 1) ^ m ≤ 2 ^ t then c else k)

/-- P(n, m) × 2^24. -/
def pow2At (n : Int) (m : Nat) : Nat :=
  let t := 25 * (m : Int) + n
  if t < 0 then 0 else rootSearch m t.toNat (t / m + 2).toNat 0

/-- a / b rounded to an integer, ties to even. -/
def divEven (a b : Nat) : Nat :=
  let q := a / b
  let r := a % b
  if b < 2 * r || (b == 2 * r && q % 2 == 1) then q + 1 else q

/-- The inputs of a unit for one tick (R385). -/
structure WearIn where
  v   : Nat
  t8  : Int
  d   : Nat
  act : Nat
  cur : Nat
  deriving DecidableEq, Repr

def btiInc (w : Wear) (x : WearIn) : Nat :=
  divEven (2 ^ 52 * w.cB * x.d * pow2At ((x.v : Int) - 750) 50 * pow2At (x.t8 - 680) 80)
    (3600000 * 4096 * 1024 * 2 ^ 48)

def hciInc (w : Wear) (x : WearIn) : Nat :=
  divEven (2 ^ 52 * w.cH * x.act * pow2At ((x.v : Int) - 750) 40 * pow2At (680 - x.t8) 320)
    (3600000 * 4096 * 1024 * 2 ^ 48)

def emInc (w : Wear) (x : WearIn) : Nat :=
  divEven (2 ^ 52 * w.cE * x.cur ^ 2 * pow2At (x.t8 - 680) 96) (3600000 * 4096 * 2 ^ 20 * 2 ^ 24)

/-- Factors that were set take effect (R389). -/
def Wear.calibrated (w : Wear) : Wear :=
  match w.cal with
  | some (b, h, e) => { w with cB := b, cH := h, cE := e, cal := none }
  | none => w

/-- A tick of a unit that accrues: an active one (R387, R390). -/
def Wear.tick (w : Wear) (x : WearIn) : Wear :=
  if w.st = 0 then
    let i := btiInc w x
    let h := hciInc w x
    let e := emInc w x
    { w with bti := wearAdd w.bti i, hci := wearAdd w.hci h, em := wearAdd w.em e, b := wearAdd w.b i,
             sec := (w.sec.1 + i, w.sec.2.1 + h, w.sec.2.2 + e) }
  else w

/-- The recovery at the end of a rest of t ms (R392). -/
def Wear.recover (w : Wear) (dusk : Bool) (t : Nat) : Wear :=
  let a := (if dusk then 30 else 12) * w.b * (2 ^ 24 - pow2At (-(t : Int)) 40)
  let den := 100 * 2 ^ 24
  { w with bti := w.bti - (a + den - 1) / den, b := 0 }

/-- The supply ceiling in units of 1/4096 mV (R389). -/
def Wear.ceiling (w : Wear) : Int := 850 * 4096 - 25 * ((max w.cB (max w.cH w.cE) : Nat) - 4096 : Int)

/-! ## Records in MRAM (Table 16.7, R387, R388) -/

/-- Units are numbered from 0 to 4,371. -/
def wearUnits : Nat := 4372

/-- Kind: 0 core, 1 matrix engine, 2 L2 slice, 3 optical port. -/
def unitKind (unit : Nat) : Nat := if unit < 2176 then 0 else if unit < 4352 then 1 else if unit < 4360 then 2 else 3

/-- Physical index: of a core or an engine in its cluster, of a slice by its die, of a port. -/
def unitPhys (unit : Nat) : Nat := if unit < 4352 then unit % 272 else if unit < 4360 then unit - 4352 else unit - 4360

/-- CNT and RES, 12 bytes. -/
def wearBytes (x : Nat) : List Byte := natLe (x / 2 ^ 32) 8 ++ natLe (x % 2 ^ 32) 4
def wearFrom (bs : List Byte) (lo : Nat) : Nat := sub bs lo 8 * 2 ^ 32 + sub bs (lo + 8) 4

/-- The 96 bytes of a unit's record. -/
def Wear.image (w : Wear) (unit : Nat) : List Byte :=
  wearBytes w.bti ++ wearBytes w.hci ++ wearBytes w.em ++ wearBytes w.b ++ natLe w.cB 2 ++ natLe w.cH 2 ++ natLe w.cE 2
    ++ natLe w.st 1 ++ natLe (unitKind unit) 1 ++ natLe (unitPhys unit) 2 ++ natLe (w.logical.getD 0xFFFF) 2
    ++ natLe w.inc.1 4 ++ natLe w.inc.2.1 4 ++ natLe w.inc.2.2 4 ++ natLe w.seq 8 ++ zeros 16

/-- The record that an image holds; what had not been committed is gone. -/
def Wear.ofImage (bs : List Byte) : Wear :=
  { bti := wearFrom bs 0, hci := wearFrom bs 12, em := wearFrom bs 24, b := wearFrom bs 36, cB := sub bs 48 2,
    cH := sub bs 50 2, cE := sub bs 52 2, st := sub bs 54 1,
    logical := if sub bs 58 2 = 0xFFFF then none else some (sub bs 58 2),
    inc := (sub bs 60 4, sub bs 64 4, sub bs 68 4), sec := (0, 0, 0), cal := none, seq := sub bs 72 8 }

/-- A record as it is committed, with what the ticks of the second added. -/
def Wear.commit (w : Wear) : Wear :=
  let f := fun (n : Nat) => wearCnt n % 2 ^ 32
  { w with inc := (f w.sec.1, f w.sec.2.1, f w.sec.2.2), sec := (0, 0, 0), seq := w.seq + 1 }

/-- Commit the record of one unit. -/
def State.commitUnit (s : State) (unit : Nat) : State :=
  let w := (s.wearAt unit).commit
  { s with wear := { s.wear with live := tblSet s.wear.live unit w, mram := tblSet s.wear.mram unit (w.image unit) } }

/-- Power is lost: the records revert to those in MRAM. -/
def Wears.revert (w : Wears) : Wears :=
  { w with live := w.mram.map fun c => (c.1, Wear.ofImage c.2), commit := none, lost := true }

/-- At the reset after a loss of power, each active unit's mechanisms take the last-second increment once (R388). -/
def Wears.restore (w : Wears) : Wears :=
  if w.lost then
    let add := fun (_ : Nat) (x : Wear) =>
      if x.st = 0 then
        { x with bti := wearAdd x.bti (x.inc.1 * 2 ^ 32), hci := wearAdd x.hci (x.inc.2.1 * 2 ^ 32),
                 em := wearAdd x.em (x.inc.2.2 * 2 ^ 32) }
      else x
    { w with live := tblMap add w.live, lost := false, reverts := w.reverts + 1 }
  else w

/-! ## The life budget (R394) -/

def Power.accrued (p : Power) : Nat := p.aTotal * 16 * 2 ^ 20 * p.h / (p.targetH * 3600000)
def Power.held (p : Power) : Int := (p.grants.map (·.held)).foldl (· + ·) 0

/-- W of the active cores, added up. -/
def State.coreWear (s : State) : Nat :=
  sumOf ((List.range 2176).map fun u => if (s.wearAt u).st = 0 then (s.wearAt u).composite else 0)

/-- SPENT; grants of points below 750 mV may take it below 0 (log entry 36). -/
def State.spent (s : State) : Int := (s.coreWear / 2048 : Nat) + s.power.held
def State.avail (s : State) : Nat := ((s.power.accrued : Int) - s.spent - (s.power.reserve : Int)).toNat

/-! ## Boost charges (R395) -/

/-- The BTI factor plus the HCI factor at a supply and temperature, in units of 2^−48. -/
def boostFactor (mv : Nat) (t8 : Int) : Nat :=
  pow2At ((mv : Int) - 750) 50 * pow2At (t8 - 680) 80 + pow2At ((mv : Int) - 750) 40 * pow2At (680 - t8) 320

/-- x(p) as a fraction of this denominator; a point below 750 mV has a negative one. -/
def boostExtra (mv : Nat) (t8 : Int) : Int := 2 ^ 20 * ((boostFactor mv t8 : Int) - boostFactor 750 t8)
def boostDen : Nat := 3600000000 * 2 ^ 48

/-- a / b rounded up. -/
def ceilDiv (a : Int) (b : Nat) : Int := -(-a / b)

/-- c(D) for n cores. -/
def boostCharge (n : Nat) (x : Int) (d : Nat) : Int := ceilDiv (n * d * x) (2048 * boostDen)

/-- The greatest D ≤ t with c(D) at most a. -/
def boostMax (n : Nat) (x : Int) (t a : Nat) : Nat :=
  if n * x ≤ 0 then t else min t (a * 2048 * boostDen / (n * x).toNat)

end Sys2Proof.Machine
end

