-- ==== Sys2Proof/Machine/System.lean ====
section
/-! DEFINITION. System instructions (12 R296 to R304): waits on time, near-threshold hints, boost requests, wear records,
seal chunks, traps and breakpoints; and the faults of fetching and decoding (09 R200, R218). -/

namespace Sys2Proof.Machine

/-! ## Fetch and decode (R200, R218) -/

/-- An unassigned encoding: an illegal-instruction fault with the parcel. -/
def execUnassignedEncoding (parcel : Word) (s : State) : Result := .next (s.orFault [s.demand false 0x04 parcel.toNat] s)

/-- A fault of the fetch, or of a group's first entry. -/
def execInstructionFetchFault (code : BitVec 8) (addr aux : DWord) (s : State) : Result :=
  .next (s.orFault [some { s.ownFault code.toNat aux.toNat with addr := addr }] s)

/-! ## sleep.ns and wait.ns (R296, R297) -/

/-- The clock that drives a lane, in MHz: the island's while it is near-threshold, else the region's (Table 16.1). -/
def State.laneMhz (s : State) (core l : Nat) : Nat :=
  if (s.core core).ntCur.getLsbD (l / 8) then 300 else 25 * (s.region (s.regionOf core)).nCur

/-- ceil(d × f / 1000): cycles of d nanoseconds. -/
def nsToCycles (d f : Nat) : Nat := (d * f + 999) / 1000

/-- ceil(C × 1000 / f): nanoseconds of C cycles. -/
def cyclesToNs (c f : Nat) : Nat := (c * 1000 + f - 1) / f

/-- A count at a frequency transition. -/
def WaitOn.retime (w : WaitOn) (old new : Nat) : WaitOn :=
  match w with
  | .time c b => .time (nsToCycles (cyclesToNs c old) new) b
  | w => w

def Lane.retime (x : Lane) (old new : Nat) : Lane :=
  { x with waitOn := x.waitOn.retime old new,
           shadow := x.shadow.map fun h => { h with waitOn := h.waitOn.retime old new } }

/-- The lanes wait for a count of nanoseconds; a count of 0 is over at once. -/
def State.waitNs (s : State) (h : VHead) (d : Src) (sleep : Bool) : State :=
  let go := s.goLanes h.flag
  let c := fun l => nsToCycles (s.src64 0 l d).toNat (s.laneMhz s.issue.core l)
  let done := go.filter fun l => c l = 0
  let u := s.updIssGroup fun y => y.mapLanes go fun l x =>
    if done.contains l then x.goto s.nextPc else x.await h.flag (.time (c l) sleep)
  s.orFault [s.operands [s.srcOk 2 d]] (u.parkFull s h.flag)

/-- sleep.ns. -/
def execSleepNs (h : VHead) (d : Src) (s : State) : Result := .next (s.waitNs h d true)

/-- wait.ns. -/
def execWaitNs (h : VHead) (d : Src) (s : State) : Result := .next (s.waitNs h d false)

/-- A count that has run out. -/
def WaitOn.ranOut : WaitOn → Bool
  | .time c _ => c == 0
  | _ => false

/-- A lane passes a wait on time that has run out, live or in its shadow (R297, R360). -/
def Lane.expire (x : Lane) : Lane :=
  let x := if x.status == .waiting && x.waitOn.ranOut then x.wake 2 else x
  { x with shadow := x.shadow.map fun h => if h.status == .waiting && h.waitOn.ranOut then h.wake 2 else h }

/-- WAIT_EXPIRE: of a lane of a group, by the group's name. -/
def execWaitExpire (core guid lane : Nat) (s : State) : Result :=
  .next (s.updCore core fun k => k.updByUid guid fun g => g.mapLanes [lane] fun _ x => x.expire)

/-! ## nt.hint (R298, R378, R379) -/

/-- The core's region runs at a boost point. -/
def State.boosted (s : State) (core : Nat) : Bool :=
  let r := s.region (s.regionOf core)
  44 < r.nCur || 44 < r.nTgt

/-- The state that an island has or is changing to. -/
def Core.islandNear (k : Core) (i : Nat) : Bool := (tblFind k.ntSettle i).getD (k.ntCur.getLsbD i)

/-- An island starts to change point; nothing where it has the state asked for. -/
def Core.moveIsland (k : Core) (i : Nat) (near : Bool) : Core :=
  if k.islandNear i == near then k else { k with ntSettle := tblSet k.ntSettle i near }

/-- A wait of wait.ns. -/
def WaitOn.isWaitNs : WaitOn → Bool
  | .time _ sleep => !sleep
  | _ => false

/-- A lane stands in a wait.ns, live or in its shadow. -/
def Lane.inWaitNs (x : Lane) : Bool :=
  (x.status == .waiting && x.waitOn.isWaitNs) || x.shadow.any fun h => h.status == .waiting && h.waitOn.isWaitNs

/-- The live lanes of an island, with their places. -/
def Core.onIsland (k : Core) (i : Nat) : List (Nat × Nat × Nat × Lane) :=
  k.teams.flatMap fun t => t.2.groups.flatMap fun g =>
    (g.2.lanes.filter fun c => c.1 / 8 == i && c.2.live).map fun c => (t.1, g.1, c.1, c.2)

/-- A lane in wait.ns keeps its island at its operating point (R296, log entry 63). -/
def Core.keepsIsland (k : Core) (i : Nat) : Bool := (k.onIsland i).any fun c => c.2.2.2.inWaitNs

/-- An island moves by a hint or at the end of a window, but where a lane keeps it. -/
def Core.shiftIsland (k : Core) (i : Nat) (near : Bool) : Core := if k.keepsIsland i then k else k.moveIsland i near

/-- The islands that hold the index of an issuing lane. -/
def State.hintIslands (s : State) : List Nat := (List.range 4).filter fun i => s.issLanes.any fun l => l / 8 == i

/-- nt.hint.enter. -/
def execNtHintEnter (s : State) : Result :=
  .next (s.orFault [] (
    let boosted := s.boosted s.issue.core
    (s.updIssCore fun k => if boosted then k else s.hintIslands.foldl (fun k i => k.shiftIsland i true) k).advance))

/-- nt.hint.leave: the islands stay out of automatic entry for the rest of the window and the next one. -/
def execNtHintLeave (s : State) : Result :=
  .next (s.orFault [] (
    (s.updIssCore fun k => s.hintIslands.foldl (fun k i =>
      if k.islandNear i then { k.shiftIsland i false with ntKeep := tblSet k.ntKeep i 2 } else k) k).advance))

/-! ## boost and wear.rd (R299, R300) -/

/-- boost: one request of the lowest issuing lane, answered by BOOST_EVALUATE. -/
def execBoost (h : VHead) (p t : Src) (s : State) : Result :=
  let go := s.goLanes h.flag
  let l := lowLane (maskOf go)
  let vp := s.src32 0 l p
  let (id, u) := s.name
  let o : Op :=
    { id := id, uid := s.issGroup.uid, kind := .sfu h.dst.toNat, flag := h.flag, tl := go.any fun l => (s.issLane l).tl,
      lanes := maskOf go, left := [id], values := [], ended := 0, pc := s.issue.p }
  let r : BoostReq :=
    { core := s.issue.core, op := id, ctx := s.issGrid.ctx, point := vp.toNat % 256, us := (s.src32 1 l t).toNat,
      group := s.issue.group, cyc := (s.region (s.regionOf s.issue.core)).cyc, at_ := s.ns }
  let u := (u.addOp o).updIssGroup fun y => y.mapLanes go fun _ x => x.goto s.nextPc
  let u := { u with power := { u.power with requests := u.power.requests ++ [r] } }
  .next (s.orFault [s.regForm 2 h.dst [(1, p), (1, t)]] (
    if go.isEmpty then s.parkFull s h.flag
    else s.orFault [s.demand (vp.toNat < 256) 0x05] (u.parkFull s h.flag)))

/-- A selector of wear.rd within its limits. -/
def wearSelOk (v : Word) : Bool :=
  let kind := (v.extractLsb' 2 3).toNat
  let idx := (v.extractLsb' 8 4).toNat
  v.toNat < 4096 && (v.extractLsb' 5 3) == 0 && kind < 5 && (if kind = 3 then idx < 12 else idx == 0)
    && !(kind == 4 && v.extractLsb' 0 2 == 3)

/-- The value that a selector names for the issuing core. -/
def State.wearValue (s : State) (v : Word) : Nat :=
  let kind := (v.extractLsb' 2 3).toNat
  let mech := (v.extractLsb' 0 2).toNat
  let c := clusterOf s.issue.core
  let unit := if kind = 0 then coreUnit c s.issCore.phys else if kind = 1 then engineUnit c s.issCore.phys
    else if kind = 2 then sliceUnit c else portUnit (v.extractLsb' 8 4).toNat
  let w := s.wearAt unit
  if kind = 4 then (if mech = 0 then s.power.accrued else if mech = 1 then (s.spent % 2 ^ 64).toNat else s.avail)
  else if mech = 0 then wearCnt w.bti else if mech = 1 then wearCnt w.hci else if mech = 2 then wearCnt w.em
  else w.composite

/-- wear.rd. It reads and completes in the step that issues it, where R212 leaves time between the two (log entry 12). -/
def execWearRd (h : VHead) (sel : Src) (s : State) : Result :=
  let v := fun l => s.src32 0 l sel
  .next (s.orFault [s.regForm 2 h.dst [(1, sel)], s.demandLanes (fun l => wearSelOk (v l)) 0x05]
    (s.put64 h.flag h.dst fun l => BitVec.ofNat 64 (s.wearValue (v l))))

/-! ## seal.put (R301, 17 R409) -/

/-- The pages whose translations a region misses. -/
def Reach.misses : Reach → List Nat
  | .miss _ vpns => vpns
  | _ => []

/-- What holds a region back, by the reaches of its pages: a failure of a lower page comes before one of a higher (R37), and a lane
that misses waits for every page it misses (R41). -/
def worstReach (rs : List Reach) : Reach :=
  match rs.find? fun r => match r with
    | .ok _ _ _ => false
    | _ => true with
  | some (.miss ctx _) => .miss ctx (rs.flatMap Reach.misses)
  | some r => r
  | none => rs.headD (.bad 3 0)

/-- The pieces of a region, each in one page. -/
def Ref.pieces (r : Ref) (n : Nat) : List (Ref × Nat) :=
  match r with
  | .virt va => (pagePieces 32 va n).map fun p => (.virt p.1, p.2)
  | .at_ p => [(.at_ p, n)]

/-- What a region of a lane meets, page by page. -/
def State.sealReach (s : State) (l n : Nat) (a : DWord) : Reach :=
  worstReach (((s.refOf (s.whoIs l) a n).pieces n).map fun p =>
    match p.1 with
    | .virt va => s.reachVirt s.issue.core s.issGrid.ctx va .sealRead
    | .at_ _ => s.reach (s.whoIs l) a n .sealRead)

/-- Submit a lane's chunk. -/
def State.submitChunk (s : State) (dst : BitVec 10) (l n : Nat) (a : DWord) : State :=
  let r := s.refOf (s.whoIs l) a n
  let core := s.issue.core
  let s := (r.pieces n).foldl (fun s p =>
    let (s, q) := s.issuePlace p.1
    s.copyL1 core p.2 true q) s
  let num := match s.issGrid.stream with
    | some q => q.tl.next
    | none => 0
  let c : Chunk := { num := num, core := core, team := s.issTeam.uid, region := r, bytes := List.replicate n none, digest := none,
                     lost := false, done := false }
  let s := s.updGrid s.issTeam.grid fun g => { g with stream := g.stream.map fun q =>
    { q with issued := q.issued + 1, tl := q.tl.accept.2, chunks := q.chunks ++ [c] } }
  s.updIssGroup fun y => y.updLane l fun x =>
    ((x.setReg dst.toNat (BitVec.ofNat 32 num)).setReg (dst.toNat + 1) (BitVec.ofNat 32 (num / 2 ^ 32))).goto s.nextPc

/-- The earlier accesses of a lane that the L1 action on its region comes after (R112). -/
def State.sealBlockers (s : State) (l n : Nat) (a : DWord) : List Nat :=
  ((s.refOf (s.whoIs l) a n).pieces n).flatMap fun p => s.copyBlockers l (s.issuePlace p.1).2 none p.2

/-- What the lanes of a seal.put meet: lanes act in ascending order. -/
def State.sealLanes (s : State) (go : List Nat) (len : Nat → Nat) (addr : Nat → DWord) : Lanes :=
  let r := sortLanes (go.map fun l => (l, s.sealReach l (len l) (addr l)))
  let held := fun (c : Nat × Place × Nat × Nat) => s.sealBlockers c.1 (len c.1) (addr c.1)
  ({ r with doing := r.doing.filter fun c => (held c).isEmpty
            parks := r.parks ++ (r.doing.filter fun c => !(held c).isEmpty).map fun c => (c.1, .own (held c)) } : Lanes).inOrder

/-- The addresses at which a region's pages begin, for a lane. -/
def sealPages (l n : Nat) (a : DWord) : List (Nat × DWord) :=
  (l, a) :: (List.range (n / 65536 + 1)).map fun i => (l, a + BitVec.ofNat 64 (65536 * (i + 1) - a.toNat % 65536))

/-- seal.put: the lanes' chunks in ascending order. -/
def execSealPut (h : VHead) (a n : Src) (s : State) : Result :=
  let go := s.goLanes h.flag
  let addr := fun l => s.src64 0 l a
  let len := fun l => (s.src32 1 l n).toNat
  let pre := fun l =>
    if !([0x0, 0x8, 0xA].contains (tagOf (addr l))) then some (3, 0) else s.preCheck (s.whoIs l) .any 1 (len l) (addr l)
  let act := fun (_ : Unit) =>
    let r := s.sealLanes go len addr
    let u := r.doing.foldl (fun u c => u.submitChunk h.dst c.1 (len c.1) (addr c.1)) s
    let u := ((u.parkLanes r.parks).issWalks r.walks).parkFull s h.flag
    match s.laneFault r.bads addr with
    | none => u
    | some f => u.raiseOwn (go.flatMap fun l => sealPages l (len l) (addr l)) r.bads f
  .next (s.orFault [s.regForm 2 h.dst [(2, a), (1, n)], s.demand s.issGrid.stream.isSome 0x05,
      s.demandLanes (fun l => 0 < len l && len l ≤ 2 ^ 20) 0x05, s.laneFault (mergeBads go pre []) addr]
    (act ()))

/-- Read n bytes of a chunk's region in one sector: the bytes, and whether the read was lost: it faulted, or it ended as R139 gives.
What the host completes with an error is read as zeros (R413). -/
def State.chunkSector (s : State) (core ctx root : Nat) (r : Ref) (n : Nat) : State × List Byte × Bool :=
  match s.refPlace core ctx root r .sealRead with
  | (s, .error _) => (s, zeros n, true)
  | (s, .ok (p, ch)) =>
    match p with
    | .dev pa => let (u, bs) := s.hRead (.ctx ctx) ch pa n; (u, bs, (sectorsOf pa n).any s.expLost)
    | .host x => let (u, bs) := s.hostAsk (.ctx ctx) x n; (u, bs, s.ideFailed s.hostStream)
    | .spad x => let (s, bs) := s.spadRead core x n; (s, bs, false)
    | _ => (s, zeros n, true)

/-- The parts of n bytes from an offset that lie in one 64 B sector each; f bounds them. -/
def sectorParts : Nat → Nat → Nat → List Nat
  | 0, _, _ => []
  | f + 1, a, n =>
    let room := 64 - a % 64
    if n = 0 then [] else if n ≤ room then [n] else room :: sectorParts f (a + room) (n - room)

/-- The offset of a region's first byte in its space. -/
def Ref.off : Ref → Nat
  | .virt va => va
  | .at_ p => p.off

/-- Read bytes o onward of a chunk, sector by sector: those of them that `now` asks for. The result gives the bytes read so far, and
whether a read was lost. -/
def State.chunkRead (s : State) (core ctx root : Nat) (r : Ref) (now : Nat → Bool) :
    Nat → List Nat → List (Option Byte) → State × List (Option Byte) × Bool
  | _, [], bs => (s, bs, false)
  | o, n :: t, bs =>
    let wants := (List.range n).any fun i => now (o + i)
    let (s, got, bad) := if wants then s.chunkSector core ctx root (r.plus o) n else (s, [], false)
    let mine := (bs.take n).zipIdx.map fun b => if now (o + b.2) then some (got.getD b.2 0) else b.1
    let (s, rest, worse) := s.chunkRead core ctx root r now (o + n) t (bs.drop n)
    (s, mine ++ rest, bad || worse)

/-- Which bytes of a chunk are read at a moment (R301: each at some moment before the chunk completes): a free choice of those left,
one at least (log entry 1). -/
def Chunk.reads (c : Chunk) (stamp : Nat) : Nat → Bool :=
  let left := (c.bytes.zipIdx.filter fun b => b.1.isNone).map (·.2)
  let now := left.filter fun i => !Config.readsNew stamp c.num i 0
  let some_ := if now.isEmpty then [left.getD ((Config.unstated stamp c.num).toNat % left.length) 0] else now
  let all := some_.length == c.bytes.length
  fun i => all || some_.contains i

/-- SEAL_CHUNK_COMPLETE: bytes of the region are read; with all of them read they are hashed, or the chunk is lost; its operation
completes either way. -/
def execSealChunkComplete (grid chunk : Nat) (s : State) : Result :=
  let g := s.grid grid
  match g.stream with
  | none => .next s
  | some q =>
    match q.chunks.find? fun c => c.num == chunk && !c.done with
    | none => .next s
    | some c =>
      let n := c.bytes.length
      let (s, bs, bad) := s.chunkRead c.core g.ctx g.desc.ptRoot c.region (c.reads s.stamp) 0 (sectorParts (n / 64 + 2) c.region.off n) c.bytes
      let lost := c.lost || bad
      let whole := bs.all (·.isSome)
      let d := { c with bytes := bs, done := whole, lost := lost,
                        digest := if lost || !whole then none else some (BitVec.ofNat 384 (leNat (sha384 (bs.map (·.getD 0))))) }
      .next (s.updGrid grid fun g => { g with stream := g.stream.map fun q =>
        { q with tl := if whole then q.tl.complete chunk else q.tl
                 chunks := q.chunks.map fun x => if x.num = chunk then d else x } })

/-! ## Traps and breakpoints (R302 to R304, 15 R358, R359) -/

/-- trap: every lane of the group that has not exited enters the handler; the issuing lanes have passed the trap. -/
def execTrap (code : BitVec 16) (s : State) : Result :=
  let entry := s.issGrid.desc.entry
  let core := s.issue.core
  let inside := s.issLanes.any fun l => (s.issLane l).tl
  let c : TrapCause := ⟨0x40, code.toNat, s.issue.lanes, s.issue.p, 0, 0⟩
  .next (s.orFault [s.demand (!inside && entry != 0) 0x0F 0x40,
      s.demand (s.marked core s.issTeam.grid entry) 0x06 entry.toNat]
    (s.advance.trapEnter core s.issue.slot s.issue.group c))

/-- rtrap: all the handler's lanes together. -/
def execRtrap (s : State) : Result :=
  let y := s.issGroup
  let inside := y.liveLanes.filter fun l => (y.lane l).tl
  .next (s.orFault [s.illegal (!inside.isEmpty && inside == s.issLanes)]
    (s.trapReturn s.issue.core s.issue.slot s.issue.group inside))

/-- brk: the lanes pass it, and the core stops. -/
def execBrk (code : BitVec 16) (s : State) : Result :=
  .next (s.orFault [] (s.advance.raise { s.ownFault 0x10 code.toNat with lanes := s.issue.lanes }))

end Sys2Proof.Machine
end

