-- ==== Sys2Proof/Machine/Faults.lean ====
section
/-! DEFINITION. The actions of FLT_CTL on a stopped core (15 R357, Table 15.3). An action that Table 15.3 does not allow,
and any action while the core is not stopped, sets ERR; a permitted one waits until DRAINED is 1. -/

namespace Sys2Proof.Machine

/-- DRAINED: nothing that the core issued is outstanding (R355). -/
def State.drained (s : State) (core : Nat) : Bool :=
  let k := s.core core
  k.queue.isEmpty && k.ops.isEmpty && k.copies.isEmpty && k.engine.ops.isEmpty && k.engine.held.isEmpty
    && s.sched.grids.all fun g => match g.2.stream with
      | some q => q.chunks.all fun c => c.done || c.core != core
      | none => true

def State.updFlt (s : State) (core : Nat) (f : FltUnit → FltUnit) : State :=
  s.updCore core fun k => { k with flt := f k.flt }

/-- The core resumes; where it stops again at once on a held fault, its vector is sent again (R356, R414). -/
def State.resumeCore (s : State) (core : Nat) : State :=
  let s := s.updFlt core FltUnit.resume
  if (s.core core).flt.stopped then s.msi (64 + clusterOf core) else s

/-- The group of a report, if it is resident at trap level. -/
def State.reportInTrap (s : State) (core : Nat) (r : Report) : Bool :=
  match (s.core core).findGroup r.uid with
  | some (slot, g) => (s.group core slot g).inTrap
  | none => false

/-- Whether Table 15.3 and R357 allow an action for a report: 0 RETRY, 1 DELIVER, 2 CONTINUE, 3 and 4 the kills. -/
def State.actionOk (s : State) (core n : Nat) (r : Report) : Bool :=
  if n = 0 then !r.imprecise && r.code != 0x0F
  else if n = 1 then r.code != 0x0F && !s.reportInTrap core r
  else if n = 2 then r.imprecise && r.code != 0x0F
  else n < 5

/-- Write an action: refused, done at once, or kept until the core has drained. -/
def State.faultAction (s : State) (core n : Nat) (act : Report → State) : State :=
  let u := (s.core core).flt
  match u.cur with
  | some r =>
    if u.stopped && s.actionOk core n r then (if s.drained core then act r else s.updFlt core fun u => { u with act := some n })
    else s.updFlt core fun u => { u with err := true }
  | none => s.updFlt core fun u => { u with err := true }

/-- FLT_RETRY: the faulting lanes re-execute their instruction. -/
def execFltRetry (core : Nat) (s : State) : Result := .next (s.faultAction core 0 fun _ => s.resumeCore core)

/-- FLT_CONTINUE. -/
def execFltContinue (core : Nat) (s : State) : Result := .next (s.faultAction core 2 fun _ => s.resumeCore core)

/-- The stop goes on with another report (R203, R358). -/
def State.restop (s : State) (core : Nat) (r : Report) : State :=
  s.updFlt core fun u => { u with cur := some r, act := none }

/-- DELIVER enters the faulting group's handler. With no handler it is a double trap (R358); a handler whose parcel is not
marked is an illegal branch target (R203). -/
def State.deliverTo (s : State) (core : Nat) (r : Report) : State :=
  match (s.core core).findGroup r.uid with
  | none => s.resumeCore core
  | some (slot, g) =>
    let grid := s.grid (s.team core slot).grid
    let entry := grid.desc.entry
    if entry = 0 then
      (s.countCtx grid.ctx fun k => { k with dtraps := satInc 16 k.dtraps }).restop core
        { r with code := 0x0F, orig := r.code, aux := BitVec.ofNat 64 r.code }
    else if !s.marked core (s.team core slot).grid entry then
      s.restop core { r with code := 0x06, addr := 0, aux := BitVec.ofNat 64 entry.toNat }
    else (s.trapEnter core slot g ⟨r.code, 0, r.lanes, r.pc, r.addr, r.aux⟩).resumeCore core

/-- DELIVER. -/
def execDeliver (core : Nat) (s : State) : Result := .next (s.faultAction core 1 (s.deliverTo core))

/-- Discard the reports of ended groups; a unit whose current report is one of them resumes. -/
def FltUnit.discard (u : FltUnit) (uids : List Nat) : FltUnit :=
  let u := { u with heldQ := u.heldQ.filter fun r => !uids.contains r.uid
                    overflow := u.overflow.filter fun r => !uids.contains r.uid }
  match u.cur with
  | some r => if u.stopped && uids.contains r.uid then (u.refill 64).resume else u.refill 64
  | none => u

/-- Discard reports on a core, with the vector where it stops again. -/
def State.discardFaults (s : State) (core : Nat) (uids : List Nat) : State :=
  let u := (s.core core).flt
  let hit := match u.cur with
    | some r => u.stopped && uids.contains r.uid
    | none => false
  let s := s.updFlt core fun u => u.discard uids
  if hit && (s.core core).flt.stopped then s.msi (64 + clusterOf core) else s

/-- Groups of a context are ended by a kill: KILLS and LAST of CTX_ERR (Table 18.6). -/
def State.countKills (s : State) (ctx n code : Nat) : State :=
  s.countCtx ctx fun k => { k with kills := min 65535 (k.kills + n), last := code }

/-- KILL_GROUP: the group ends as a detach does. -/
def State.killGroupOf (s : State) (core : Nat) (r : Report) : State :=
  match (s.core core).findGroup r.uid with
  | none => s.resumeCore core
  | some (slot, g) =>
    let gid := (s.team core slot).grid
    let s := s.countKills (s.grid gid).ctx 1 r.code
    let s := s.updGrid gid fun x => { x with groupKilled := true, lastFault := r.code }
    (s.detachGroup core slot g).discardFaults core [r.uid]

/-- KILL_GROUP. -/
def execKillGroup (core : Nat) (s : State) : Result := .next (s.faultAction core 3 (s.killGroupOf core))

/-- The resident groups of a grid that end at once: a team that is being pre-empted ends with its save. -/
def State.gridGroups (s : State) (gid : Nat) : List (Nat × Nat × Nat × Nat) :=
  s.cores.flatMap fun c => c.2.teams.flatMap fun t =>
    if t.2.grid = gid && !t.2.stopping then t.2.groups.map fun g => (c.1, t.1, g.1, g.2.uid) else []

/-- KILL_GRID: every team of a grid ends, resident or waiting, and no further one is admitted. -/
def State.killGridOf (s : State) (gid code : Nat) : State :=
  let gs := s.gridGroups gid
  let out := s.sched.waiting.filter fun w => w.team.grid = gid
  let s := s.countKills (s.grid gid).ctx (gs.length + sumOf (out.map fun w => w.team.groups.length)) code
  let s := s.updGrid gid fun x =>
    { x with killed := true, dispatching := false, lastFault := code, liveTeams := x.liveTeams - out.length }
  let s := { s with sched := { s.sched with waiting := s.sched.waiting.filter fun w => w.team.grid != gid } }
  let s := out.foldl (fun s w => s.updCluster w.cluster fun c =>
    { c with ranks := c.ranks.filter fun e => !e.isOf w.team }) s
  let s := gs.foldl (fun s g => s.detachGroup g.1 g.2.1 g.2.2.1) s
  ((tblKeys s.cores).foldl (fun s c => s.discardFaults c (gs.map (·.2.2.2))) s).calm

/-- KILL_GRID of the faulting group's grid. -/
def State.killGridFor (s : State) (core : Nat) (r : Report) : State :=
  match (s.core core).findGroup r.uid with
  | some (slot, _) => s.killGridOf (s.team core slot).grid r.code
  | none => s.resumeCore core

/-- KILL_GRID. -/
def execKillGrid (core : Nat) (s : State) : Result := .next (s.faultAction core 4 (s.killGridFor core))

end Sys2Proof.Machine
end

