-- ==== Sys2Proof/Machine/Admit.lean ====
section
/-! DEFINITION. Admission, growth and shrinking (14 R343 to R348): what an entry of the waiting list asks, where it fits,
which core or cluster it goes to, and how a new team starts (07 R157 to R160, R178; 03 R57, R74, R83). -/

namespace Sys2Proof.Machine

/-! ## What a team asks and what a core has (Table 14.4) -/

structure Demand where
  units  : Nat
  groups : Nat
  lines  : Nat
  bars   : Nat
  rings  : Nat
  engine : Bool
  deriving DecidableEq, Repr

/-- A new team of a launch. -/
def Launch.demand (l : Launch) : Demand := ⟨l.minUnits, l.minGroups, l.scr, l.bars.length, l.ringCount, l.usesEngine⟩

def Team.barCount (t : Team) : Nat := (t.bars.filter fun b => b.2.en).length
def Team.ringCount (t : Team) : Nat := (t.rings.filter fun r => r.2.en).length

/-- A team that comes back, with the groups it has. -/
def Team.demand (t : Team) (engine : Bool) : Demand :=
  ⟨t.unitsHeld, t.groupsHeld, t.scr, t.barCount, t.ringCount, engine⟩

/-- Scratchpad lines in use, as ranges: the reservations, and freed lines whose OUT is not 0 (R57). -/
def Core.blocks (k : Core) : List (Nat × Nat) :=
  (k.teams.map fun c => (c.2.base, c.2.base + c.2.scr)) ++ k.freed.map fun l => (l, l + 1)

/-- The lowest line where n free lines begin. -/
def Core.lineBase (k : Core) (n : Nat) : Option Nat :=
  if n = 0 then some 0
  else
    let bs := k.blocks
    let ok := (0 :: bs.map (·.2)).filter fun b => b + n ≤ 1024 && bs.all fun x => x.2 ≤ b || b + n ≤ x.1
    ok.foldl (fun m b => match m with
      | some c => some (min b c)
      | none => some b) none

/-- The engine has no owner, and nothing of an ended one is left in it. -/
def Core.engineFree (k : Core) : Bool := k.owner.isNone && k.engine.ops.isEmpty && k.engine.held.isEmpty

/-- The demand fits, once `units` and `groups` have been given back by groups that leave. -/
def Core.fits (k : Core) (d : Demand) (units groups : Nat) : Bool :=
  k.unitsHeld + d.units ≤ 64 + units && k.groupsHeld + d.groups ≤ 64 + groups && k.teams.length < 32
    && (k.lineBase d.lines).isSome && sumOf (k.teams.map (·.2.barCount)) + d.bars ≤ 64
    && sumOf (k.teams.map (·.2.ringCount)) + d.rings ≤ 32 && (!d.engine || k.engineFree)

/-! ## Candidates (R345, R346) -/

/-- The core may be a candidate: not quiesced, and not gated, as in a dusk interval. -/
def Core.candidate (k : Core) : Bool :=
  !k.gated && !k.quiescing

/-- No team is resident on a cluster, and no copy issued from it is outstanding (R74). -/
def State.clusterEmpty (s : State) (c : Nat) : Bool :=
  s.cores.all fun k => clusterOf k.1 != c || (k.2.teams.isEmpty && k.2.copies.isEmpty)

/-- The cluster's mode suits L1MODE as it stands. -/
def State.modeSuits (s : State) (c mode : Nat) : Bool :=
  mode == 0 || (mode == 2) == (s.cluster c).fused

/-- It suits, or the cluster is empty and its mode can be chosen (R74). -/
def State.modeOk (s : State) (c mode : Nat) : Bool := s.modeSuits c mode || s.clusterEmpty c

/-- The core has room for the team. -/
def State.fitsCore (s : State) (d : Demand) (core : Nat) : Bool := (s.core core).candidate && (s.core core).fits d 0 0

/-- A candidate: the team fits on the core. -/
def State.fitsOn (s : State) (d : Demand) (mode core : Nat) : Bool := s.modeOk (clusterOf core) mode && s.fitsCore d core

/-- Composite W of a core. -/
def State.wOf (s : State) (core : Nat) : Nat := (s.wearAt (coreUnit (clusterOf core) (s.core core).phys)).composite

/-- The least-worn of cores listed in ascending order; ties go to the first. -/
def State.leastCore (s : State) : List Nat → Option Nat
  | [] => none
  | c :: t => some (t.foldl (fun b x => if s.wOf x < s.wOf b then x else b) c)

def coresOf (cluster : Nat) : List Nat := (List.range 256).map (· + cluster * 256)

/-- A core with a team of a demand put on it, to see what is left for the next one. -/
def Core.reserve (k : Core) (d : Demand) : Core :=
  let slot := (lowestFree 32 (tblKeys k.teams)).getD 32
  let t : Team :=
    { Team.absent with
      base := (k.lineBase d.lines).getD 0, scr := d.lines,
      bars := (List.range d.bars).map fun i => (i, { Barrier.reset with en := true }),
      rings := (List.range d.rings).map fun i => (i, { RingCfg.reset with en := true }),
      groups := (List.range d.groups).map fun i => (i, { Group.absent with units := if i = 0 then d.units else 0 }) }
  { k with teams := tblSet k.teams slot t, owner := if d.engine then some slot else k.owner }

/-- Cores for teams placed one after the other, each by the core rule and each seeing those before it (R345), among cores whose
clusters suit them. -/
def State.place (s : State) (cores : List Nat) : List Demand → Option (List Nat)
  | [] => some []
  | d :: t =>
    match s.leastCore (cores.filter (s.fitsCore d)) with
    | none => none
    | some c =>
      match (s.updCore c (·.reserve d)).place cores t with
      | none => none
      | some r => some (c :: r)

/-- The cores of the clusters whose mode suits, or can be chosen. -/
def State.assign (s : State) (clusters : List Nat) (mode : Nat) (ds : List Demand) : Option (List Nat) :=
  s.place ((clusters.filter fun c => s.modeOk c mode).flatMap coresOf) ds

/-! ## What an entry asks -/

/-- The teams that an entry stands for, with their demands: the linear indices of new teams, or the numbers of teams in
the list of those removed. -/
def State.entryTeams (s : State) (e : Entry) : List (Nat × Demand) :=
  let g := s.grid e.gid
  if e.back then
    let ws := s.sched.waiting.filter fun w => w.joined == e.joined
    let ws := ws.mergeSort fun a b => a.team.t ≤ b.team.t
    ws.map fun w => (w.team.t, w.team.demand w.engine.isSome)
  else
    let n := if g.launch.share then min g.launch.cohort (g.launch.teams - g.nextT) else 1
    (List.range n).map fun i => (g.nextT + i, g.launch.demand)

/-- The private slots that an entry needs are free (R18). -/
def State.slotsOk (s : State) (e : Entry) : Bool :=
  let g := s.grid e.gid
  e.back || sumOf ((s.entryTeams e).map (·.2.groups)) + g.slotsHeld.length ≤ g.launch.slots

/-- A cohort that pre-emption removes comes back when all of its teams have been saved (R178). -/
def State.entryWhole (s : State) (e : Entry) : Bool :=
  let g := s.grid e.gid
  !e.back || !g.launch.share || (s.sched.waiting.all fun w => w.joined != e.joined ||
    s.cores.all fun k => k.2.teams.all fun t =>
      t.2.grid != e.gid || t.2.cohort != w.team.cohort)

/-- The sum of W over a cluster's candidates for a demand (R345). -/
def State.clusterW (s : State) (d : Demand) (mode c : Nat) : Nat :=
  sumOf (((coresOf c).filter (s.fitsOn d mode)).map s.wOf)

/-- The cluster of least sum; ties go to the lowest. -/
def leastBy (f : Nat → Nat) : List Nat → Option Nat
  | [] => none
  | c :: t => some (t.foldl (fun b x => if f x < f b then x else b) c)

/-- The cores that an entry would be admitted to now (R344, R345), or nothing where it does not fit. -/
def State.placement (s : State) (e : Entry) : Option (List Nat) :=
  let g := s.grid e.gid
  let ds := (s.entryTeams e).map (·.2)
  let mode := g.launch.l1mode
  if s.slotsOk e && s.entryWhole e then
    if g.launch.share then
      let cs := (List.range 8).filter fun c => (s.assign [c] mode ds).isSome
      match leastBy (s.clusterW (ds.headD g.launch.demand) mode) cs with
      | some c => s.assign [c] mode ds
      | none => none
    else s.assign (List.range 8) mode ds
  else none

/-- A tick falls at this instant and has not come yet: what the instant holds comes after it (R345, R393, R396). -/
def State.beforeTick (s : State) : Bool := s.ns % 1000000 == 0 && s.ns != s.power.tickAt

/-! ## The L1 mode of a cluster (R74) -/

/-- A cluster changes mode: WBINV of its L1s, and every pin in them is dropped. -/
def State.switchL1 (s : State) (c : Nat) : State :=
  let f := (s.cluster c).fused
  let ids := if f then [2048 + c] else (tblKeys s.l1).filter fun i => i < 2048 && i / 256 == c
  let s := ids.foldl (fun s i => (s.l1WBINV i).updL1 i fun l => { l with pins := [] }) s
  s.updCluster c fun x => { x with fused := !f, switches := (x.switches + 1) % 2 ^ 32 }

/-- The mode of an empty cluster is chosen for the grid admitted next. -/
def State.chooseMode (s : State) (c mode : Nat) : State := if s.modeSuits c mode then s else s.switchL1 c

/-- L1_MODE_SWITCH: an empty cluster whose mode does not suit the grid that is admitted next. -/
def execL1ModeSwitch (cluster : Nat) (s : State) : Result :=
  match s.firstEntry with
  | some e =>
    .next (if s.clusterEmpty cluster then s.chooseMode cluster (s.grid e.gid).launch.l1mode else s)
  | none => .next s

/-! ## A new team (R159, R160, R338) -/

/-- The barriers of a new team: EXP counts 32 lanes for each group of a covered role (R169). -/
def Launch.teamBars (l : Launch) : Tbl Barrier :=
  l.bars.map fun b =>
    let n := sumOf (l.on.map fun r => if b.2.getLsbD r then (l.role r).gmin else 0)
    (b.1, { Barrier.reset with en := true, roles := b.2, exp := 32 * n })

/-- Team t of a grid, before its groups start. -/
def State.newTeam (s : State) (g : Grid) (t uid core base : Nat) : Team :=
  let l := g.launch
  { Team.absent with
    uid := uid, grid := g.id, t := t, x := t % l.gx, y := t / l.gx % l.gy, z := t / (l.gx * l.gy),
    rank := if l.share then some (t % l.cohort) else none, cohort := if l.share then t / l.cohort else t,
    fairM1 := l.fairM1, progress := l.progress, ftz16 := l.ftz16, base := base, scr := l.scr,
    roles := l.roles, entries := l.entries, bars := l.teamBars, rings := l.rings, cts := g.cts, quantum := s.quantumNs,
    admitted := uid, lastL1 := some (s.l1Of core) }

/-- Start the next group of a role at START_PC. -/
def State.startGroup (s : State) (core slot : Nat) (r : Role) : State :=
  let t := s.team core slot
  match t.freeIndex, (s.grid t.grid).freeSlot with
  | some i, some p =>
    (s.updGrid t.grid fun q => { q with slotsHeld := p :: q.slotsHeld }).addGroup core slot r i p (t.entry r).startPc
  | _, _ => s

/-- The rank table follows a team (R16). -/
def State.putRank (s : State) (core slot : Nat) : State :=
  let t := s.team core slot
  match t.rank with
  | none => s
  | some r =>
    s.updCluster (clusterOf core) fun c =>
      { c with ranks := c.ranks.filter (fun e => !e.isOf t) ++ [⟨t.grid, t.cohort, r, core, slot, none⟩] }

/-- A team takes a slot of a core; a grid that starts on the core is a context switch (R83). -/
def State.seat (s : State) (core : Nat) (t : Team) (engine : Option Engine) : State × Nat :=
  let k := s.core core
  let slot := (lowestFree 32 (tblKeys k.teams)).getD 32
  let s := if k.hosts t.grid then s else s.dropPins core
  let s := s.updCore core fun k =>
    { k with teams := tblSet k.teams slot t, owner := if engine.isSome then some slot else k.owner,
             engine := engine.getD k.engine }
  (s.putRank core slot, slot)

/-- Admit team t of a grid to a core: its reservation is absent until it is zeroed (R57). -/
def State.admitTeam (s : State) (gid t core : Nat) : State :=
  let g := s.grid gid
  let l := g.launch
  let s := s.chooseMode (clusterOf core) l.l1mode
  match (s.core core).lineBase l.scr with
  | none => s
  | some base =>
    let (uid, s) := s.name
    let x := s.newTeam g t uid core base
    let engine := if l.usesEngine then some { Engine.reset with ct := g.cts } else none
    let (s, slot) := s.seat core x engine
    let s := s.updCore core fun k => { k with zeroing := k.zeroing ++ x.lines }
    let s := roles3.foldl (fun s r =>
      let n := if l.on.contains (roleNum r) then (l.role (roleNum r)).gmin else 0
      (List.range n).foldl (fun s _ => s.startGroup core slot r) s) s
    s.updGrid gid fun g =>
      { g with nextT := t + 1, liveTeams := g.liveTeams + 1, dispatching := g.dispatching && t + 1 < l.teams }

/-! ## Shrinking (R348) -/

/-- SHRINK of a role goes back to 0 where a request wrote it. -/
def Team.unshrink (t : Team) (rs : List ShrinkReq) : Team :=
  let mine := fun (r : Nat) => rs.any fun q => q.team == t.uid && q.role == r
  { t with roles := tblMap (fun r c => if mine r then { c with shrink := 0 } else c) t.roles }

/-- The SHRINK values that were written in some requests go back to 0, wherever their teams are. -/
def State.clearShrinks (s : State) (which : ShrinkReq → Bool) : State :=
  let rs := s.sched.shrinks.filter which
  if rs.isEmpty then s
  else
    let cores := tblMap (fun _ k => { k with teams := tblMap (fun _ t => t.unshrink rs) k.teams }) s.cores
    let sched := { s.sched with
      shrinks := s.sched.shrinks.filter fun r => !which r
      waiting := s.sched.waiting.map fun w => { w with team := w.team.unshrink rs } }
    { s with cores := cores, sched := sched }

/-- What names an entry of the waiting list: its order of joining, and the team it stands for. -/
def State.entryTag (s : State) (e : Entry) : Nat × Nat := (e.joined, if e.back then 0 else (s.grid e.gid).nextT)

/-- An entry has been admitted: what was written for it goes back. -/
def State.entryDone (s : State) (tag : Nat × Nat) : State :=
  let s := s.clearShrinks fun r => r.entry == tag
  { s with sched := { s.sched with shrunk := s.sched.shrunk.filter (· != tag) } }

/-- TEAM_ADMIT: the first entry is a grid; its next team or cohort goes to the core or cluster that R345 gives. No
admission is made while the L2 changes mode (R78), nor before the tick of the instant. -/
def execTeamAdmit (s : State) : Result :=
  match s.firstEntry with
  | none => .next s
  | some e =>
    if e.back || s.mgmt.l2Busy || s.beforeTick then .next s
    else
      match s.placement e with
      | none => .next s
      | some cores =>
        let ts := (s.entryTeams e).map (·.1)
        .next (((ts.zip cores).foldl (fun s p => s.admitTeam e.gid p.1 p.2) s).entryDone (s.entryTag e)).calm

/-- Sublists of a length, in the order of their first differing members. -/
def combos {α : Type} : Nat → List α → List (List α)
  | 0, _ => [[]]
  | _ + 1, [] => []
  | n + 1, a :: t => ((combos n t).map (a :: ·)) ++ combos (n + 1) t

/-- The shortest sublist that passes a test, and among those the first. -/
def fewest {α : Type} (l : List α) (ok : List α → Bool) : Option (List α) :=
  (List.range (l.length + 1)).findSome? fun n => (combos n l).find? ok

/-- Teams of a core by admission, oldest first. -/
def Core.byAdmission (k : Core) : List (Nat × Team) := k.teams.mergeSort fun a b => a.2.admitted ≤ b.2.admitted

/-- The groups above GMIN, in the order they are taken: vector, matrix, copy; and teams in reverse admission order. Each
is a team slot, its role and its register units. -/
def Core.surplus (k : Core) : List (Nat × Nat × Nat) :=
  [2, 1, 0].flatMap fun r => k.byAdmission.reverse.flatMap fun c =>
    let x := tblGet RoleCfg.reset c.2.roles r
    if c.2.stopping then [] else List.replicate (x.live - x.gmin) (c.1, r, x.regs)

/-- The groups whose leaving would make room for an entry of one team on a core. -/
def State.shrinkSet (s : State) (e : Entry) (d : Demand) (core : Nat) : Option (List (Nat × Nat × Nat)) :=
  let k := s.core core
  let g := s.grid e.gid
  if k.candidate && s.modeOk (clusterOf core) g.launch.l1mode then
    fewest k.surplus fun l =>
      let own := (l.filter fun c => (k.team c.1).grid == e.gid).length
      k.fits d (sumOf (l.map (·.2.2))) l.length
        && (e.back || d.groups + g.slotsHeld.length ≤ g.launch.slots + own)
  else none

/-- SHRINK_REQUEST: the first entry fits nowhere, and would fit if groups above GMIN left. -/
def execShrinkRequest (s : State) : Result :=
  match s.firstEntry with
  | none => .next s
  | some e =>
    let tag := s.entryTag e
    match s.entryTeams e with
    | [(_, d)] =>
      if (s.placement e).isSome || s.sched.shrunk.contains tag then .next s
      else
        let cs := (tblKeys s.cores).filter fun c => (s.shrinkSet e d c).isSome
        match s.leastCore cs with
        | none => .next s
        | some c =>
          let set := (s.shrinkSet e d c).getD []
          let due := (s.ns + s.sched.shrinkWait * 100000) % 2 ^ 64
          let pairs := (set.map fun x => (x.1, x.2.1)).eraseDups
          let s := pairs.foldl (fun s p =>
            s.updTeam c p.1 fun t => { t with roles := tblAdj t.roles p.2 fun x =>
              { x with shrink := (set.filter fun y => (y.1, y.2.1) == p).length } }) s
          let rs := pairs.map fun p => (⟨tag, (s.team c p.1).uid, p.2, due⟩ : ShrinkReq)
          .next { s with sched := { s.sched with shrinks := s.sched.shrinks ++ rs, shrunk := tag :: s.sched.shrunk } }
    | _ => .next s

/-- A time on the nanosecond counter has come: the counter wraps (R376). -/
def State.reached (s : State) (t : Nat) : Bool := (s.ns + 2 ^ 64 - t) % 2 ^ 64 < 2 ^ 63

/-- SHRINK_WAIT_EXPIRE. -/
def execShrinkWaitExpire (s : State) : Result :=
  .next (s.clearShrinks fun r => s.reached r.due)

/-! ## Growth (R347) -/

/-- Some entry of the waiting list fits on a core: one of its teams would. -/
def State.someFits (s : State) (core : Nat) : Bool :=
  s.entries.any fun e =>
    s.slotsOk e && (s.entryTeams e).any fun t => s.fitsOn t.2 (s.grid e.gid).launch.l1mode core

/-- The team slot and role that grow next. -/
def State.grows (s : State) (core : Nat) : Option (Nat × Role) :=
  (s.core core).byAdmission.findSome? fun c =>
    if c.2.stopping then none
    else (roles3.find? fun r =>
      (c.2.role r).en && (c.2.entry r).joinEn && (c.2.role r).shrink == 0 && s.canJoin core c.1 r).map fun r => (c.1, r)

/-- GROUP_GROW: at a cycle boundary a group is added to a resident team. -/
def execGroupGrow (core : Nat) (s : State) : Result :=
  let k := s.core core
  if s.sched.growEn && k.issued == 0 && !k.grown && !k.gated && !s.someFits core then
    match s.grows core with
    | some (slot, r) =>
      .next (((s.acceptJoin core slot r).landJoins core).updCore core fun k => { k with grown := true })
    | none => .next s
  else .next s

end Sys2Proof.Machine
end

