-- ==== Sys2Proof/Machine/Save.lean ====
section
/-! DEFINITION. The context save area (15 R364 to R366, R369): its size and place, its bytes, and what a restore reads
back from it. What the tables list without a format has one of the model's own (log entry 22). -/

namespace Sys2Proof.Machine

/-! ## Size and place (R364, R365) -/

def alignUp (n x : Nat) : Nat := (x + n - 1) / n * n

def engineBytesLen : Nat := 454144

/-- Offset of the line states. -/
def Team.lineAt (t : Team) : Nat := 0x400 + 256 * t.scr
/-- Offset of the engine section, or of what follows where there is none. -/
def Team.engineAt (t : Team) : Nat := alignUp 256 (t.lineAt + t.scr)
/-- Offset of the group records. -/
def Team.groupsAt (t : Team) (engine : Bool) : Nat := alignUp 256 (t.engineAt + if engine then engineBytesLen else 0)

/-- The size of a group's record. -/
def groupLen (units : Nat) : Nat := 256 + 16384 + units * 8192

/-- Bytes of an area. -/
def Team.areaLen (t : Team) (engine : Bool) (ns nf : Nat) : Nat :=
  t.groupsAt engine + sumOf (t.groups.map fun g => groupLen g.2.units) + 64 * ns + 32 * nf

/-- The areas of saved teams. -/
def State.areas (s : State) : List (Nat × Nat) := s.sched.waiting.map fun w => (w.area, w.area + w.size)

/-- The lowest place of a grid's region where an area lies on none of those given. -/
def State.areaAt (s : State) (others : List (Nat × Nat)) (gid n : Nat) : Option Nat :=
  let d := (s.grid gid).desc
  let top := d.saveBase + d.saveUnits * 65536
  let starts := d.saveBase :: others.map fun o => alignUp 65536 o.2
  let ok := starts.filter fun a =>
    d.saveBase ≤ a && a + n ≤ top && others.all fun o => o.2 ≤ a || a + n ≤ o.1
  ok.foldl (fun m b => match m with
    | some c => some (min b c)
    | none => some b) none

/-- Copies of a team of which some lane's is suspended. -/
def Core.suspended (k : Core) (t : Team) : List Copy :=
  (k.copies.map (·.2)).filter fun c => c.team == t.uid && c.stopped != 0

/-- The size of a resident team's area. -/
def State.areaSize (s : State) (core slot : Nat) : Nat :=
  let k := s.core core
  let t := k.team slot
  t.areaLen (k.owner == some slot) (sumOf ((k.suspended t).map fun c => (lanesOf c.stopped).length)) t.pending.length

/-- Places for the areas of resident teams beside those given, one after the other. -/
def State.areasFor (s : State) (others : List (Nat × Nat)) : List (Nat × Nat) → Option (List Nat)
  | [] => some []
  | (c, slot) :: r =>
    let n := s.areaSize c slot
    match s.areaAt others (s.team c slot).grid n with
    | some a => (s.areasFor ((a, a + n) :: others) r).map (a :: ·)
    | none => none

/-! ## Images: team fields (Tables 7.2, 7.3, 7.5, 7.8, 5.5, 5.6) -/

def bit (b : Bool) (i : Nat) : Nat := if b then 2 ^ i else 0

/-- Table 7.2. -/
def RoleCfg.word (x : RoleCfg) : Nat :=
  bit x.en 63 + x.shrink * 2 ^ 42 + x.live * 2 ^ 36 + x.gmax * 2 ^ 30 + x.gmin * 2 ^ 24 + x.regs
def RoleCfg.ofWord (w : Nat) : RoleCfg :=
  ⟨w.testBit 63, field w 47 42, field w 41 36, field w 35 30, field w 29 24, field w 4 0⟩
/-- Table 7.3. -/
def RoleEntry.word (x : RoleEntry) : Nat := bit x.joinEn 127 + x.joinPc.toNat * 2 ^ 64 + x.startPc.toNat
def RoleEntry.ofWord (w : Nat) : RoleEntry :=
  ⟨w.testBit 127, BitVec.ofNat 57 (field w 120 64), BitVec.ofNat 57 (field w 56 0)⟩
/-- Table 7.8. -/
def Barrier.word (x : Barrier) : Nat :=
  bit x.en 63 + bit x.phase 62 + x.roles.toNat * 2 ^ 59 + x.join * 2 ^ 32 + x.arr * 2 ^ 11 + x.exp
/-- A barrier as its word reads back; the count of its phases is the model's own. -/
def Barrier.ofWord (x : Barrier) (w : Nat) : Barrier :=
  { x with en := w.testBit 63, phase := w.testBit 62, roles := BitVec.ofNat 3 (field w 61 59), join := field w 42 32,
           arr := field w 21 11, exp := field w 10 0 }
/-- Table 5.5. -/
def RingCfg.word (x : RingCfg) : Nat :=
  bit x.en 63 + (x.emptyExp - 1) * 2 ^ 26 + (x.fullExp - 1) * 2 ^ 16 + (x.stages - 1)
def RingCfg.ofWord (w : Nat) : RingCfg := ⟨w.testBit 63, field w 35 26 + 1, field w 25 16 + 1, field w 3 0 + 1⟩
/-- Table 5.6. -/
def RingStg.word (x : RingStg) : Nat := bit x.fullPh 31 + bit x.emptyPh 30 + x.emptyArr * 2 ^ 10 + x.fullArr
def RingStg.ofWord (x : RingStg) (w : Nat) : RingStg :=
  { x with fullPh := w.testBit 31, emptyPh := w.testBit 30, emptyArr := field w 19 10, fullArr := field w 9 0 }
/-- Table 7.5. -/
def Team.ctlWord (t : Team) : Nat := t.fairM1 * 2 ^ 16 + bit t.progress 0

/-! ## Images: lanes and groups (Tables 7.4, 15.8) -/

/-- STATUS (Table 7.4). -/
def LaneStatus.code : LaneStatus → Nat
  | .ready => 0
  | .parked => 1
  | .waiting => 2
  | .exited => 3

def statusOf (n : Nat) : LaneStatus :=
  if n = 0 then .ready else if n = 1 then .parked else if n = 2 then .waiting else .exited

/-- Flag counts, 4 bits each, f0 lowest. -/
def flagsWord (f : Tbl Nat) : Nat := sumOf ((List.range 12).map fun i => flagCount f i * 2 ^ (4 * i))
def flagsOf (x : Nat) : Tbl Nat :=
  ((List.range 12).map fun i => (i, field x (4 * i + 3) (4 * i))).filter fun c => c.2 != 0

def slotBytes (t : Tbl PAddr) : List Byte := (List.range 8).flatMap fun i => natLe (tblGet 0 t i).toNat 8

/-- WAITON as a kind, three small numbers and an operand (log entry 22). A parked lane re-executes and keeps none. -/
def WaitOn.parts : WaitOn → Nat × Nat × Nat × Nat × Nat
  | .bar b ph => (1, b, 0, 0, ph)
  | .barHeld b => (2, b, 0, 0, 0)
  | .ring r st e v => (3, r, st, bit e 1 + bit v 0, 0)
  | .timeline sel n sc => (4, sel, sc.code, 0, n)
  | .batches n ge => (5, n, ge.toNat, 0, 0)
  | .time c sl => (6, bit sl 0, 0, 0, c)
  | .flags m => (7, 0, 0, 0, m.toNat)
  | _ => (0, 0, 0, 0, 0)

/-- The 16 bytes of WAITON and its operand, with the flag that the wait has set. -/
def waitBytes (w : WaitOn) (flag : Option (Fin 12)) : List Byte :=
  let (k, a, b, c, x) := w.parts
  let f := match flag with
    | some f => f.val + 1
    | none => 0
  natLe k 1 ++ natLe a 1 ++ natLe b 1 ++ natLe c 1 ++ natLe f 1 ++ zeros 3 ++ natLe x 8

def waitOfParts (k a b c x : Nat) : WaitOn :=
  if k = 1 then .bar a x else if k = 2 then .barHeld a else if k = 3 then .ring a b (c.testBit 1) (c.testBit 0)
  else if k = 4 then .timeline a x ((Scope.ofCode b).getD .team) else if k = 5 then .batches a (BitVec.ofNat 3 b)
  else if k = 6 then .time x (a.testBit 0) else if k = 7 then .flags (BitVec.ofNat 12 x) else .nothing

/-- WAITON and its flag as 16 bytes read back. -/
def waitBack (m : Memory) (a : Nat) : WaitOn × Option (Fin 12) :=
  let rd := fun (o : Nat) => (memGet m (a + o)).toNat
  (waitOfParts (rd 0) (rd 1) (rd 2) (rd 3) (leNat (memRead m (a + 8) 8)),
   (List.finRange 12).find? fun f => f.val + 1 == rd 4)

/-- An entry of the copy batches: the suspended copies in it, and its bits (log entry 22). -/
def Batch.word (b : Batch) : Nat := bit b.err 15 + bit b.cached 14 + b.copies.length
def Batch.ofWord (w : Nat) (copies : List Nat) : Batch := ⟨copies, w.testBit 15, w.testBit 14⟩

/-- Bytes 112 to 159: the open batch, the head and count of the queue, what the finished batches at its front have gathered, and
16 entries. -/
def Lane.batchBytes (x : Lane) : List Byte :=
  let (fin, rest) := takeFinished x.sealedB
  natLe x.openB.word 2 ++ natLe 0 1 ++ natLe rest.length 1
    ++ natLe (bit (!fin.isEmpty) 0 + bit (fin.any (·.err)) 1 + bit (fin.any (·.cached)) 2) 1 ++ zeros 11
    ++ (List.range 16).flatMap fun i => natLe ((rest[i]?).elim 0 Batch.word) 2

/-- The sealed batches as they read back; `copies` gives the suspended copies of batch 0, the open one, and 1 to 16. -/
def sealedBack (m : Memory) (a : Nat) (copies : Nat → List Nat) : List Batch :=
  let f := leNat (memRead m (a + 4) 1)
  (if f.testBit 0 then [⟨[], f.testBit 1, f.testBit 2⟩] else [])
    ++ (List.range (leNat (memRead m (a + 3) 1))).map fun i => Batch.ofWord (leNat (memRead m (a + 16 + 2 * i) 2)) (copies (i + 1))

/-- Bytes 8 to 15 of a lane record. -/
def posWord (depth : Nat) (tl yld : Bool) (st : LaneStatus) (guards : BitVec 7) : Nat :=
  depth + bit tl 16 + st.code * 2 ^ 17 + bit yld 19 + guards.toNat * 2 ^ 20

/-- A lane record (Table 15.8). -/
def Lane.record (x : Lane) : List Byte :=
  let shadow := match x.shadow with
    | some h =>
      natLe h.pc.toNat 8 ++ natLe (posWord h.depth false h.yld h.status h.guards) 8 ++ waitBytes h.waitOn h.waitFlag
        ++ natLe (flagsWord h.flags) 8 ++ slotBytes h.slots
    | none => zeros 104
  natLe x.pc.toNat 8 ++ natLe (posWord x.depth x.tl x.yld x.status x.guards) 8 ++ waitBytes x.waitOn x.waitFlag
    ++ natLe x.arr.toNat 2 ++ natLe x.new.toNat 2 ++ natLe x.held.toNat 2 ++ zeros 2 ++ natLe (flagsWord x.flags) 8
    ++ slotBytes x.slots ++ x.batchBytes ++ shadow ++ zeros 248

/-- The trap shadow of a record that is at trap level. -/
def shadowBack (m : Memory) (a : Nat) : Shadow :=
  let rd := fun (o n : Nat) => leNat (memRead m (a + o) n)
  let v := rd 8 8
  let w := waitBack m (a + 16)
  { pc := BitVec.ofNat 57 (rd 0 8), depth := field v 15 0, status := statusOf (field v 18 17), waitOn := w.1,
    yld := v.testBit 19, guards := BitVec.ofNat 7 (field v 26 20), flags := flagsOf (rd 32 8),
    slots := (List.range 8).map fun i => (i, BitVec.ofNat 57 (rd (40 + 8 * i) 8)), waitFlag := w.2 }

/-- A lane as its record reads back; `copies` gives the suspended copies of its batches. -/
def Lane.fromRecord (x : Lane) (m : Memory) (a : Nat) (copies : Nat → List Nat) : Lane :=
  let rd := fun (o n : Nat) => leNat (memRead m (a + o) n)
  let v := rd 8 8
  let w := waitBack m (a + 16)
  { x with pc := BitVec.ofNat 57 (rd 0 8), depth := field v 15 0, tl := v.testBit 16, status := statusOf (field v 18 17),
           waitOn := w.1, waitFlag := w.2, yld := v.testBit 19, guards := BitVec.ofNat 7 (field v 26 20),
           arr := BitVec.ofNat 16 (rd 32 2), new := BitVec.ofNat 16 (rd 34 2), held := BitVec.ofNat 16 (rd 36 2),
           flags := flagsOf (rd 40 8), slots := (List.range 8).map fun i => (i, BitVec.ofNat 57 (rd (48 + 8 * i) 8)),
           openB := Batch.ofWord (rd 112 2) (copies 0), sealedB := sealedBack m (a + 112) copies,
           shadow := if v.testBit 16 then some (shadowBack m (a + 160)) else none }

/-- Registers of a group's lanes: register r of lane L at 16,640 + 128r + 4L. -/
def Group.regBytes (g : Group) : List Byte :=
  (List.range (g.units * 64)).flatMap fun r => (List.range 32).flatMap fun l => natLe ((g.lane l).reg r).toNat 4

/-- A group record: index, role, REGS, FT, TW and private slot, then the lanes and registers. -/
def Group.record (g : Group) (i : Nat) : List Byte :=
  natLe i 1 ++ natLe (roleNum g.role) 1 ++ natLe g.units 1 ++ zeros 1 ++ natLe g.ft 4 ++ natLe g.tw 4 ++ natLe g.pslot 4
    ++ zeros 240 ++ ((List.range 32).flatMap fun l => (g.lane l).record) ++ g.regBytes

/-- A group as its record reads back. -/
def Group.fromRecord (g : Group) (m : Memory) (a : Nat) (copies : Nat → Nat → List Nat) : Group :=
  let rd := fun (o n : Nat) => leNat (memRead m (a + o) n)
  { g with
    role := roleOf (rd 1 1), ft := rd 4 4, tw := rd 8 4, pslot := rd 12 4,
    lanes := tblMap (fun l x =>
      let x := x.fromRecord m (a + 256 + 512 * l) (copies l)
      let regs := (List.range (g.units * 64)).map fun r => (r, BitVec.ofNat 32 (leNat (memRead m (a + 16640 + 128 * r + 4 * l) 4)))
      { x with regs := regs.filter fun c => c.2 != 0 }) g.lanes }

/-- The offsets of the group records, in ascending group index. -/
def groupSpots : Nat → Tbl Group → List (Nat × Nat)
  | _, [] => []
  | a, (i, g) :: t => (i, a) :: groupSpots (a + groupLen g.units) t

/-! ## The engine section (R365, R369) -/

def saveIv (n buf : Nat) : List Byte := natLe n 8 ++ natLe buf 4
def saveAad (gid t : Nat) : List Byte := natLe gid 8 ++ natLe t 8

/-- The save key of a context. -/
def State.saveKey (s : State) (ctx : Nat) : List Byte :=
  match s.ctx? ctx with
  | some c => (natLe (Config.saveKey c.saveKey).toNat 32).reverse
  | none => zeros 32

/-- The ciphertext and tag of a stationary buffer. -/
def sealBuffer (key : List Byte) (n gid t buf : Nat) (bs : List Byte) : List Byte × List Byte :=
  let c := gcmCrypt key (saveIv n buf) bs
  (c, gcmTag key (saveIv n buf) (saveAad gid t) c)

/-- An A block's bytes, and the row's place among the 256-byte rows. -/
def rowChunks (at_ : Nat) (rows : Tbl (List Word)) : List (Nat × List Byte) :=
  rows.map fun r => (at_ + 256 * r.1, bytesOfWords r.2)

/-- Row i of a 256-byte table, in the registers of an A block. -/
def rowBack (m : Memory) (at_ : Nat) (f : MxFmt) (i : Nat) : List Word := wordsOf (memRead m (at_ + 256 * i) (16 * mxBits f))

/-- The rows of the rendezvous latch. -/
def Latch.rows (la : Latch) : Tbl (List Word) := la.members.flatMap fun m => m.rows.map fun r => (32 * m.pos + r.1, r.2)

/-- A joint operation's encoding. -/
def JointOp.words : JointOp → List Word
  | .mma f => encode (.mma f)
  | .epi f => encode (.epiRun f)

def jointOf (ws : List Word) : Option JointOp :=
  match decode ws with
  | .ok (.mma f, _) => some (.mma f)
  | .ok (.epiRun f, _) => some (.epi f)
  | _ => none

/-- The generic address of a scratchpad place of a team whose reservation begins at a line. -/
def Place.generic (base : Nat) : Place → DWord
  | .spad x => BitVec.ofNat 64 (0x8 * 2 ^ 60 + (x - base * 256))
  | p => (Ref.at_ p).address

/-- Where a restored team stands: its core's cluster, its base line, its grid and cohort. -/
structure Stand where
  cluster : Nat
  base    : Nat
  grid    : Nat
  cohort  : Nat
  deriving DecidableEq, Repr

def Stand.place (x : Stand) (a : DWord) : Place :=
  let n := a.toNat % 2 ^ 60
  if tagOf a = 0x9 then .rank x.cluster (n / 2 ^ 18) x.grid x.cohort (n % 2 ^ 18) else .spad (x.base * 256 + n)

/-- SB, P_0 to P_3, c0 and NC of a latched epi.run. -/
def EpiArgs.bytes (a : EpiArgs) (base : Nat) : List Byte :=
  natLe (a.place.generic base).toNat 8 ++ (List.range 4).flatMap (fun k => natLe (a.pks.getD k 0) 4) ++ natLe a.c0 4 ++ natLe a.nc 4

def EpiArgs.back (m : Memory) (a : Nat) (x : Stand) : EpiArgs :=
  let rd := fun (o n : Nat) => leNat (memRead m (a + o) n)
  ⟨x.place (BitVec.ofNat 64 (rd 0 8)), (List.range 4).map fun k => rd (8 + 4 * k) 4, rd 24 4, rd 28 4⟩

/-- The positions of members that pass a test, as a mask. -/
def Latch.mask (la : Latch) (ok : Member → Bool) : Nat := sumOf ((la.members.filter ok).map fun m => 2 ^ m.pos)

/-- The engine control block, as chunks (its order is that of Table 15.7; its places are log entry 22's): reuse, latch, queue
counts, the latched words and arguments, the epilogue program, N and the buffers' tags. -/
def Engine.control (e : Engine) (at_ base n : Nat) (tags : List (List Byte)) : List (Nat × List Byte) :=
  let reuse := match e.reuse with
    | some r => natLe 1 1 ++ natLe r.fmt.code 1
    | none => zeros 2
  let latch := match e.latch with
    | some la =>
      [(at_ + 2, natLe 1 1 ++ natLe la.op.words.length 1 ++ zeros 4 ++ natLe (la.mask fun _ => true) 1 ++ natLe (la.mask (·.claimed)) 1),
       (at_ + 24, bytesOfWords la.op.words),
       (at_ + 64, match (la.members.find? fun m => m.pos == 0).bind (·.args) with
         | some a => a.bytes base
         | none => [])]
    | none => []
  [(at_, reuse)] ++ latch ++
  [(at_ + 16, (List.range 8).flatMap fun p => natLe (tblGet [] e.scales p).length 1),
   (at_ + 96, natLe e.epiProg.length 4 ++ bytesOfWords e.epiProg), (at_ + 360, natLe n 8), (at_ + 368, tags.flatten)]

/-- The engine section at an offset, as chunks. -/
def Engine.chunks (e : Engine) (at_ base n : Nat) (bufs : List (List Byte × List Byte)) : List (Nat × List Byte) :=
  let tiles := (List.range 4).map fun t =>
    (at_ + 0x10000 * t, (List.range 16384).flatMap fun i => natLe (tblGet 0 (tblGet [] e.tiles t) i).toNat 4)
  let bs := bufs.zipIdx.map fun b => (at_ + 0x40000 + 0x8000 * b.2, b.1.1)
  let reuse := match e.reuse with
    | some r => rowChunks (at_ + 0x50000) r.rows
    | none => []
  let latch := match e.latch with
    | some la => rowChunks (at_ + 0x5C000) la.rows
    | none => []
  let scales := e.scales.flatMap fun q => q.2.zipIdx.flatMap fun x => (List.range 32).map fun l =>
    (at_ + 0x68000 + 4608 * q.1 + 576 * x.2 + 18 * l,
     natLe (tblGet 0 x.1.ua l).toNat 16 ++ natLe (tblGet 0 x.1.sa l).toNat 2)
  tiles ++ bs ++ reuse ++ latch ++ scales ++ e.control (at_ + 0x6EC00) base n (bufs.map (·.2))

/-- The tiles as the section reads back. -/
def tilesBack (m : Memory) (at_ : Nat) : Tbl (Tbl Word) :=
  (List.range 4).map fun t =>
    (t, ((List.range 16384).map fun i => (i, BitVec.ofNat 32 (leNat (memRead m (at_ + 0x10000 * t + 4 * i) 4)))).filter
      fun c => c.2 != 0)

/-- The latch as the section reads back; the members that had joined keep their names. -/
def Latch.back (la : Latch) (m : Memory) (at_ : Nat) (x : Stand) : Option Latch :=
  let cb := at_ + 0x6EC00
  let rd := fun (o n : Nat) => leNat (memRead m (cb + o) n)
  match jointOf (wordsOf (memRead m (cb + 24) (4 * rd 3 1))) with
  | none => none
  | some op =>
    let ms := (la.members.filter fun y => (rd 8 1).testBit y.pos).map fun y =>
      { y with claimed := (rd 9 1).testBit y.pos,
               rows := match op with
                 | .mma f => (lanesOf y.lanes).map fun l => (l, rowBack m (at_ + 0x5C000) f.afmt (32 * y.pos + l))
                 | .epi _ => [],
               args := if y.pos = 0 then y.args.map fun _ => EpiArgs.back m (cb + 64) x else none }
    some { la with op := op, members := ms }

/-- The scale queues as the section reads back. -/
def scalesBack (m : Memory) (at_ : Nat) : Tbl (List ScaleSet) :=
  ((List.range 6).map fun p =>
    (p, (List.range (memGet m (at_ + 0x6EC00 + 16 + p)).toNat).map fun e =>
      let rd := fun (l o n : Nat) => leNat (memRead m (at_ + 0x68000 + 4608 * p + 576 * e + 18 * l + o) n)
      (⟨(List.range 32).map fun l => (l, BitVec.ofNat 128 (rd l 0 16)),
        (List.range 32).map fun l => (l, BitVec.ofNat 16 (rd l 16 2))⟩ : ScaleSet))).filter fun q => !q.2.isEmpty

/-- The engine as its section and the team's fields read back, less the stationary buffers. The RSV bits of GANG read zero (Table
13.4). -/
def Engine.back (e : Engine) (m : Memory) (at_ : Nat) (x : Stand) : Engine :=
  let cb := at_ + 0x6EC00
  let reuse := if memGet m cb = 0 then none else
    (MxFmt.ofCode (memGet m (cb + 1)).toNat).map fun f => (⟨f, (List.range 192).map fun i => (i, rowBack m (at_ + 0x50000) f i)⟩ : Reuse)
  { e with
    tiles := tilesBack m at_, reuse := reuse, scales := scalesBack m at_,
    latch := if memGet m (cb + 2) = 0 then none else e.latch.bind fun la => la.back m at_ x,
    epiProg := wordsOf (memRead m (cb + 100) (4 * leNat (memRead m (cb + 96) 4))),
    gang := BitVec.ofNat 64 (leNat (memRead m 0x28 8) &&& 0x73FFFFFFF), stat := ⟨field (leNat (memRead m 0x30 8)) 31 0⟩,
    ct := (List.range 4).map fun i => (i, BitVec.ofNat 256 (leNat (memRead m (0x368 + 32 * i) 32))) }

/-! ## Suspended copies and pending faults -/

/-- A suspended lane's copy: which copy, its group and lane, the batch that holds it (0 open, 1 to 16 sealed, 17 none: of a tile copy,
or of a lane whose group has ended, R120), and the transfer that failed, with its addresses and a tile copy's number (log entry 22). -/
structure Suspended where
  copy  : Copy
  lane  : Nat
  batch : Nat
  deriving DecidableEq, Repr

/-- The batch of a lane that holds a copy; 17 for none. -/
def Lane.batchOf (x : Lane) (copy : Nat) : Nat :=
  if x.openB.copies.contains copy then 0
  else (((takeFinished x.sealedB).2.zipIdx.find? fun b => b.1.copies.contains copy).map fun b => b.2 + 1).getD 17

/-- The group of a team that has a name; none where it has ended, whatever group has its index now. -/
def Team.groupNamed (t : Team) (uid : Nat) : Group :=
  ((t.groups.find? fun g => g.2.uid == uid).map (·.2)).getD Group.absent

/-- The suspended copies of a team, by copy and lane. -/
def Core.descriptors (k : Core) (t : Team) : List Suspended :=
  (k.suspended t).flatMap fun c => (lanesOf c.stopped).map fun l => ⟨c, l, (((t.groupNamed c.uid).lane l).batchOf c.id)⟩

def Suspended.bytes (d : Suspended) : List Byte :=
  let c := d.copy
  let u := tblGet 0 c.failed d.lane
  let p := c.unit u
  let at_ := fun (f : CopyPart → Ref) => natLe ((p.map fun x => (f x).address).getD 0).toNat 8
  natLe c.id 8 ++ natLe c.group 1 ++ natLe d.lane 1 ++ natLe (bit c.tile.isSome 0) 1 ++ natLe d.batch 1 ++ natLe u 4
    ++ at_ (·.src) ++ at_ (·.dst) ++ natLe (c.tile.getD 0) 8 ++ zeros 24

/-- A descriptor as it reads back: copy, group, lane, batch, transfer. -/
structure Descriptor where
  copy  : Nat
  group : Nat
  lane  : Nat
  batch : Nat
  unit  : Nat
  deriving DecidableEq, Repr

def descriptorsBack (m : Memory) (a n : Nat) : List Descriptor :=
  (List.range n).map fun i =>
    let rd := fun (o k : Nat) => leNat (memRead m (a + 64 * i + o) k)
    ⟨rd 0 8, rd 8 1, rd 9 1, rd 11 1, rd 12 4⟩

/-- The transfers that failed, as the descriptors give them. -/
def Copy.withFailed (c : Copy) (ds : List Descriptor) : Copy :=
  { c with failed := (ds.filter fun d => d.copy == c.id).foldl (fun t d => tblSet t d.lane d.unit) c.failed }

/-- A pending imprecise fault in the form of FLT_STAT, FLT_PC, FLT_ADDR and FLT_AUX. -/
def Report.bytes (r : Report) : List Byte :=
  natLe (r.code * 2 ^ 48 + r.group * 2 ^ 43 + bit r.merged 42 + r.slot * 2 ^ 32 + r.lanes.toNat) 8
    ++ natLe r.pc.toNat 8 ++ natLe r.addr.toNat 8 ++ natLe r.aux.toNat 8

/-- Pending faults as they read back, for a team that is in a slot. -/
def reportsBack (m : Memory) (a n : Nat) (t : Team) (slot : Nat) : List Report :=
  (List.range n).map fun i =>
    let rd := fun (o : Nat) => leNat (memRead m (a + 32 * i + o) 8)
    let w := rd 0
    { code := field w 55 48, uid := (t.group (field w 47 43)).uid, slot := slot, group := field w 47 43,
      lanes := BitVec.ofNat 32 (field w 31 0), pc := BitVec.ofNat 57 (rd 8), addr := BitVec.ofNat 64 (rd 16),
      aux := BitVec.ofNat 64 (rd 24), merged := w.testBit 42, tl := false, orig := 0, late := true }

/-! ## The whole area -/

/-- The bytes of a reservation as they are saved: a line that has yet to be zeroed is saved as its zeroing leaves it (R57, log
entry 65). -/
def Core.spadImage (k : Core) (t : Team) : List Byte :=
  t.lines.flatMap fun l => if k.zeroing.contains l then zeros 256 else memRead k.spad (l * 256) 256

/-- A line's state: presence in bit 7, OUT below. -/
def Core.lineState (k : Core) (l : Nat) : Byte := BitVec.ofNat 8 (bit (k.present l) 7 + tblGet 0 k.outs l)

/-- The code tables that the area holds: the engine's, or those of a team without it. -/
def Team.tables (t : Team) : Option Engine → Tbl (BitVec 256)
  | some e => e.ct
  | none => t.cts

/-- Offset of what follows the group records. -/
def Team.tailAt (t : Team) (engine : Bool) : Nat := t.groupsAt engine + sumOf (t.groups.map fun g => groupLen g.2.units)

/-- Table 15.7, as chunks: the team on its core, with the encrypted buffers of an owner, their tags, and the save number. -/
def Team.chunks (t : Team) (k : Core) (engine : Option Engine) (bufs : List (List Byte × List Byte)) (n size : Nat) :
    List (Nat × List Byte) :=
  let e := engine.getD Engine.reset
  let rank := t.rank.getD 0x1FF
  let mask := sumOf (t.groups.map fun g => 2 ^ g.1)
  let spots := groupSpots (t.groupsAt engine.isSome) t.groups
  let ds := k.descriptors t
  let tail := t.tailAt engine.isSome
  [(0, natLe (1 + (size + 255) / 256 * 2 ^ 32) 8), (8, natLe t.t 8),
   (0x10, natLe (mask + t.scr * 2 ^ 32 + bit engine.isSome 43 + rank * 2 ^ 44) 8),
   (0x18, natLe t.ctlWord 8 ++ natLe (bit t.ftz16 0) 8 ++ natLe e.gang.toNat 8 ++ natLe e.stat.tagFail 8),
   (0x38, natLe (ds.length + t.pending.length * 2 ^ 16) 8),
   (0x40, (List.range 3).flatMap fun r => natLe (tblGet RoleCfg.reset t.roles r).word 8),
   (0x58, (List.range 3).flatMap fun r => natLe (tblGet RoleEntry.reset t.entries r).word 16),
   (0x88, (List.range 16).flatMap fun b => natLe (t.bar b).word 8),
   (0x108, (List.range 8).flatMap fun r => natLe (t.ring r).word 8),
   (0x148, (List.range 128).flatMap fun i => natLe (t.stage (i / 16) (i % 16)).word 4),
   (0x348, natLe t.tlCopy.count 8 ++ natLe t.tlCopy.next 8 ++ natLe t.tlMatrix.count 8 ++ natLe t.tlMatrix.next 8),
   (0x368, (List.range 4).flatMap fun i => natLe (tblGet 0 (t.tables engine) i).toNat 32),
   (0x400, k.spadImage t), (t.lineAt, t.lines.map k.lineState)]
  ++ (if engine.isSome then e.chunks t.engineAt t.base n bufs else [])
  ++ (spots.map fun p => (p.2, (t.group p.1).record p.1))
  ++ [(tail, ds.flatMap (·.bytes)), (tail + 64 * ds.length, t.pending.flatMap (·.bytes))]

/-- The team's fields, 0x18 to 0x3E7, as the area reads back. SHRINK is what the area holds while a request stands (R348). -/
def Team.back (t : Team) (m : Memory) : Team :=
  let rd := fun (a n : Nat) => leNat (memRead m a n)
  let role := fun (r : Nat) =>
    let x := RoleCfg.ofWord (rd (0x40 + 8 * r) 8)
    if (tblGet RoleCfg.reset t.roles r).shrink = 0 then { x with shrink := 0 } else x
  { t with
    fairM1 := field (rd 0x18 8) 31 16, progress := (rd 0x18 8).testBit 0, ftz16 := (rd 0x20 8).testBit 0,
    roles := (List.range 3).map fun r => (r, role r),
    entries := (List.range 3).map fun r => (r, RoleEntry.ofWord (rd (0x58 + 16 * r) 16)),
    bars := (List.range 16).map fun b => (b, (t.bar b).ofWord (rd (0x88 + 8 * b) 8)),
    rings := (List.range 8).map fun r => (r, RingCfg.ofWord (rd (0x108 + 8 * r) 8)),
    stages := (List.range 128).map fun i => (i, (t.stage (i / 16) (i % 16)).ofWord (rd (0x148 + 4 * i) 4)),
    tlCopy := { t.tlCopy with count := rd 0x348 8, next := rd 0x350 8 },
    tlMatrix := { t.tlMatrix with count := rd 0x358 8, next := rd 0x360 8 },
    cts := (List.range 4).map fun i => (i, BitVec.ofNat 256 (rd (0x368 + 32 * i) 32)) }

/-- A line as the area gives it: presence, and OUT less what has ended since the save. -/
def Waiting.lineBack (w : Waiting) (m : Memory) (i : Nat) : Bool × Nat :=
  let b := (memGet m (w.team.lineAt + i)).toNat
  (b.testBit 7, b % 64 - tblGet 0 w.fallen i)

/-- A line that was absent with OUT 0 when saved: its zeroing had not come (R57). -/
def Waiting.unzeroed (w : Waiting) (m : Memory) (i : Nat) : Bool :=
  let b := (memGet m (w.team.lineAt + i)).toNat
  !b.testBit 7 && b % 64 == 0

/-- The bytes of an area: every byte that no chunk gives is zero. -/
def areaBytes (chunks : List (Nat × List Byte)) (size : Nat) : List Byte :=
  memRead (chunks.foldl (fun m c => memWrite m c.1 c.2) []) 0 size

/-- Pieces of a device physical range, page by page; n bounds the pages. -/
def paPieces : Nat → Nat → Nat → List (Nat × Nat)
  | 0, _, _ => []
  | f + 1, a, n =>
    let room := 65536 - a % 65536
    if n = 0 then [] else if n ≤ room then [(a, n)] else (a, room) :: paPieces f (a + room) (n - room)

/-- Write an area at H. -/
def State.writeArea (s : State) (ctx a : Nat) (bs : List Byte) : State :=
  ((paPieces (bs.length / 65536 + 2) a bs.length).foldl (fun (p : State × List Byte) c =>
    (p.1.hWriteSweep (.ctx ctx) c.1 (p.2.take c.2), p.2.drop c.2)) (s, bs)).1

/-- Read an area at H, as bytes from 0. -/
def State.readArea (s : State) (ctx a n : Nat) : State × Memory :=
  let r := (paPieces (n / 65536 + 2) a n).foldl (fun (p : State × Memory × Nat) c =>
    let (s, bs) := p.1.hRead (.ctx ctx) 0 c.1 c.2
    (s, memWrite p.2.1 p.2.2 bs, p.2.2 + c.2)) (s, [], 0)
  (r.1, r.2.1)

end Sys2Proof.Machine
end

