-- ==== Sys2Proof/Machine/Preempt.lean ====
section
/-! DEFINITION. Time-slicing, pre-emption and restore (14 R349; 15 R364, R367 to R370; 04 R108; 06 R155, R156). -/

namespace Sys2Proof.Machine

/-! ## Cohorts (R178) -/

/-- The resident teams of a team's cohort, itself among them: without cluster share each team is one of its own. -/
def State.mates (s : State) (core slot : Nat) : List (Nat × Nat) :=
  let t := s.team core slot
  s.cores.flatMap fun c => (c.2.teams.filter fun x =>
    x.2.grid == t.grid && x.2.cohort == t.cohort).map fun x => (c.1, x.1)

/-- Teams whose pre-emption has begun. -/
def State.leaving (s : State) : List (Nat × Nat) :=
  s.cores.flatMap fun c => (c.2.teams.filter fun x => x.2.stopping).map fun x => (c.1, x.1)

/-- A cohort may be pre-empted now: none of its cores is stopped (R355), and the areas have places beside those of the
teams that are leaving (R364). -/
def State.canLeave (s : State) (core slot : Nat) : Bool :=
  let ms := s.mates core slot
  (ms.all fun m => !(s.core m.1).flt.stopped) && (s.areasFor s.areas ((s.leaving ++ ms).eraseDups)).isSome

/-! ## The start of a pre-emption (R367 steps 1 and 2, R155) -/

/-- The rank is marked moving; requests that wait at the core return to the hold buffer, ahead of later arrivals. They may take it
past its 256 entries, since R155 does not say where else they go (log entry 79). -/
def State.markMoving (s : State) (core slot : Nat) : State :=
  let t := s.team core slot
  let c := clusterOf core
  match (s.cluster c).ranks.find? (·.isOf t) with
  | none => s
  | some e =>
    let key := some (c, e.rank, e.grid, e.cohort)
    let q := (s.core core).remote.filter fun r => (s.remoteBytes r).any fun b => b.1.rankOf == key
    let s := s.updCore core fun k => { k with remote := k.remote.filter fun x => !q.contains x }
    let now := s.ns
    s.updCluster c fun y =>
      { y with ranks := y.ranks.map fun e => if e.isOf t then { e with moving := some now } else e, hold := q ++ y.hold }

/-- The team has a rank that has yet to be marked moving. -/
def State.unmarked (s : State) (core slot : Nat) : Bool :=
  (s.cluster (clusterOf core)).ranks.any fun e => e.isOf (s.team core slot) && e.moving.isNone

/-- The team issues no more. -/
def State.beginLeave (s : State) (m : Nat × Nat) : State := s.updTeam m.1 m.2 fun t => { t with stopping := true }

/-- A team's quantum starts again, and it does not yield. -/
def State.restartQuantum (s : State) (m : Nat × Nat) : State :=
  let q := s.quantumNs
  s.updTeam m.1 m.2 fun t => { t with quantum := q, yielding := false }

/-! ## Which teams make room (R349) -/

/-- A core without a team. -/
def Core.vacate (k : Core) (slot : Nat) : Core :=
  { k with teams := tblDel k.teams slot, owner := if k.owner = some slot then none else k.owner,
           engine := if k.owner = some slot then Engine.reset else k.engine }

/-- A core without a team, its accesses and its copies. -/
def Core.without (k : Core) (slot : Nat) : Core :=
  let uid := (k.team slot).uid
  { k.vacate slot with queue := k.queue.filter fun i => i.team != uid, copies := k.copies.filter fun c => c.2.team != uid }

def State.without (s : State) (ts : List (Nat × Nat)) : State := ts.foldl (fun s m => s.updCore m.1 (·.without m.2)) s

/-- The yielding teams of a core that may be pre-empted, by admission. -/
def State.yielders (s : State) (core : Nat) : List (Nat × Nat) :=
  ((s.core core).byAdmission.filter fun c => c.2.yielding && !c.2.stopping && s.canLeave core c.1).map fun c => (core, c.1)

/-- A set holds the whole of each cohort among the teams to choose from. -/
def State.cohortClosed (s : State) (ys set : List (Nat × Nat)) : Bool :=
  set.all fun m => (s.mates m.1 m.2).all fun x => !ys.contains x || set.contains x

/-- Where an entry may go: a cluster for a cohort, else a core. -/
inductive Site where
  | cluster (c : Nat)
  | core (k : Nat)
  deriving DecidableEq, Repr

/-- The teams of an entry fit at a site. -/
def State.fitsSite (s : State) (e : Entry) (ds : List Demand) : Site → Bool
  | .cluster c => (s.assign [c] (s.grid e.gid).launch.l1mode ds).isSome
  | .core k => s.modeOk (clusterOf k) (s.grid e.gid).launch.l1mode && (s.place [k] ds).isSome

/-- The yielding teams of a site that may be pre-empted, by admission. -/
def State.siteYielders (s : State) : Site → List (Nat × Nat)
  | .cluster c => ((coresOf c).flatMap s.yielders).mergeSort fun a b => (s.team a.1 a.2).admitted ≤ (s.team b.1 b.2).admitted
  | .core k => s.yielders k

/-- The fewest teams of a site that make room for an entry there, once those that leave have left. -/
def State.roomSet (s : State) (e : Entry) (site : Site) : Option (List (Nat × Nat)) :=
  let ys := s.siteYielders site
  let ds := (s.entryTeams e).map (·.2)
  let base := s.without s.leaving
  if ys.isEmpty then none else fewest ys fun set => s.cohortClosed ys set && (base.without set).fitsSite e ds site

/-- The site that R345 chooses among those that qualify: by a cluster's candidates as they are with room made, or by W. -/
def State.bestSite (s : State) (e : Entry) : Option Site :=
  let g := s.grid e.gid
  if g.launch.share then
    let w := fun (c : Nat) =>
      (s.without (s.leaving ++ (s.roomSet e (.cluster c)).getD [])).clusterW
        (((s.entryTeams e).map (·.2)).headD g.launch.demand) g.launch.l1mode c
    (leastBy w ((List.range 8).filter fun c => (s.roomSet e (.cluster c)).isSome)).map .cluster
  else (s.leastCore ((tblKeys s.cores).filter fun c => (s.roomSet e (.core c)).isSome)).map .core

/-- The teams to pre-empt for the first entry: none where it fits once those that leave have left. -/
def State.chosen (s : State) : List (Nat × Nat) :=
  match s.firstEntry with
  | none => []
  | some e =>
    if ((s.without s.leaving).placement e).isSome || !s.slotsOk e || !s.entryWhole e then []
    else
      let set := ((s.bestSite e).bind fun x => s.roomSet e x).getD []
      (set.flatMap fun m => s.mates m.1 m.2).eraseDups

/-- The pre-emptions that R349 asks for begin. -/
def State.makeRoom349 (s : State) : State := s.chosen.foldl State.beginLeave s

/-- QUANTUM_EXPIRE: a team's quantum has run out, and so has that of each team of its cohort. -/
def execQuantumExpire (core slot : Nat) (s : State) : Result :=
  let ms := s.mates core slot
  let t := s.team core slot
  if ms.isEmpty || t.stopping || !(ms.all fun m => (s.team m.1 m.2).quantum == 0 && !(s.core m.1).flt.stopped) then .next s
  else if (s.core core).quiescing then
    .next (if s.canLeave core slot then ms.foldl State.beginLeave s else ms.foldl State.restartQuantum s)
  else if s.entries.isEmpty || !s.canLeave core slot then .next (ms.foldl State.restartQuantum s)
  else
    .next (ms.foldl (fun s m => s.updTeam m.1 m.2 fun t => { t with yielding := true }) s).makeRoom349

/-! ## The save (R367) -/

/-- The team has drained: accesses performed or ended, copies completed or suspended, engine operations and seal chunks
completed (R108, R126, R305). -/
def State.teamDrained (s : State) (core slot : Nat) : Bool :=
  let k := s.core core
  let t := k.team slot
  let mine := t.groups.map (·.2.uid)
  (k.queue.all fun i => i.team != t.uid || i.ended)
    && (k.copies.all fun c => c.2.team != t.uid || (lanesOf c.2.lanes).all fun l => c.2.ended.getLsbD l || c.2.stopped.getLsbD l)
    && (k.ops.all fun o => !mine.contains o.2.uid || o.2.kind == .copy)
    && (k.owner != some slot || (k.engine.ops.isEmpty && k.engine.held.isEmpty)) && t.joins.isEmpty
    && (s.sched.grids.all fun g => match g.2.stream with
      | some q => q.chunks.all fun c => c.done || c.team != t.uid
      | none => true)

/-- Change every outstanding copy, of a resident team or a saved one. -/
def State.mapCopies (s : State) (f : Copy → Copy) : State :=
  { s with cores := tblMap (fun _ k => { k with copies := tblMap (fun _ c => f c) k.copies }) s.cores
           sched := { s.sched with waiting := s.sched.waiting.map fun w => { w with suspended := w.suspended.map f } } }

/-- Change every engine. -/
def State.mapEngines (s : State) (f : Engine → Engine) : State :=
  { s with cores := tblMap (fun _ k => { k with engine := f k.engine }) s.cores
           sched := { s.sched with waiting := s.sched.waiting.map fun w => { w with engine := w.engine.map f } } }

/-- Change the lines that copies and engine operations count in OUT. -/
def State.mapOuts (s : State) (f : Nat × Nat → Nat × Nat) : State :=
  (s.mapCopies fun c => { c with outs := c.outs.map f }).mapEngines fun e =>
    { e with ops := e.ops.map fun o => { o with outs := o.outs.map f } }

/-- Where a team's reservation stands, as the copies into it by tag 0x9 know it (R120). -/
def State.rehome (s : State) (uid core base : Nat) : State :=
  s.mapCopies fun c => { c with home := c.home.map fun h => if h.team = uid then ⟨uid, core, base⟩ else h }

/-- Change the places in a copy's plan. -/
def Ref.mapPlace (f : Place → Place) : Ref → Ref
  | .at_ p => .at_ (f p)
  | r => r

def Copy.mapPlace (f : Place → Place) (c : Copy) : Copy :=
  { c with plan := match c.plan with
    | .parts ps => .parts (ps.map fun p => { p with src := p.src.mapPlace f, dst := p.dst.mapPlace f })
    | .tile t => .tile { t with mb := t.mb.mapPlace f, sb := t.sb.mapPlace f } }

/-- Move an offset of the core's own scratchpad. -/
def Place.moveSpad (f : Nat → Nat) : Place → Place
  | .spad x => .spad (f x)
  | p => p

/-- The places of an engine's operations. -/
def EpiArgs.mapPlace (f : Place → Place) (a : EpiArgs) : EpiArgs := { a with place := f a.place }

def Latch.mapPlace (f : Place → Place) (la : Latch) : Latch :=
  { la with members := la.members.map fun m => { m with args := m.args.map (·.mapPlace f) } }

def EngAct.mapPlace (f : Place → Place) : EngAct → EngAct
  | .ldb x p k te sq num rel => .ldb x (f p) k te sq num rel
  | .accLd t p r n => .accLd t (f p) r n
  | .accSt t p r n => .accSt t (f p) r n
  | .epi t k a prog => .epi t k (a.mapPlace f) prog
  | a => a

def Engine.mapPlace (f : Place → Place) (e : Engine) : Engine :=
  { e with ops := e.ops.map fun o => { o with act := o.act.mapPlace f }
           latch := e.latch.map (·.mapPlace f), held := e.held.map (·.mapPlace f) }

/-- A cohort's ranks are named through the cluster that it stands in: what is under way to them follows it (R16, R156). -/
def Place.recluster (old : Nat) (x : Stand) : Place → Place
  | .rank c r g co off => if c = old ∧ g = x.grid ∧ co = x.cohort then .rank x.cluster r g co off else .rank c r g co off
  | p => p

def State.recluster (s : State) (old : Nat) (x : Stand) : State :=
  if old = x.cluster then s
  else
    let f := Place.recluster old x
    let req := fun (q : FabReq) => { q with place := f q.place }
    let s := (s.mapCopies (·.mapPlace f)).mapEngines (·.mapPlace f)
    { s with
      cores := tblMap (fun _ k => { k with queue := k.queue.map fun i => { i with place := f i.place } }) s.cores
      fabric := { s.fabric with reqs := s.fabric.reqs.map req
                                recs := s.fabric.recs.map fun c => { c with place := f c.place, reqs := c.reqs.map req } } }

/-- Counts of waits on time become nanoseconds (R297). -/
def WaitOn.toNs (mhz : Nat) : WaitOn → WaitOn
  | .time c b => .time (cyclesToNs c mhz) b
  | w => w

def WaitOn.fromNs (mhz : Nat) : WaitOn → WaitOn
  | .time r b => .time (nsToCycles r mhz) b
  | w => w

def Lane.mapWait (f : WaitOn → WaitOn) (x : Lane) : Lane :=
  { x with waitOn := f x.waitOn, shadow := x.shadow.map fun h => { h with waitOn := f h.waitOn } }

def Team.mapWaits (t : Team) (f : Nat → WaitOn → WaitOn) : Team := t.mapAll fun _ l x => x.mapWait (f l)

/-- The order of joining: that of the cohort's teams already removed, or a new one (R343). -/
def State.joinOrder (s : State) (gid cohort : Nat) : Nat × State :=
  match s.sched.waiting.find? fun w => w.team.grid == gid && w.team.cohort == cohort with
  | some w => (w.joined, s)
  | none => (s.sched.joins, { s with sched := { s.sched with joins := s.sched.joins + 1 } })

/-- The buffers' ciphertexts and tags, under the save number. -/
def State.sealBuffers (s : State) (e : Engine) (ctx n gid t : Nat) : List (List Byte × List Byte) :=
  let key := s.saveKey ctx
  [0, 1].map fun b => sealBuffer key n gid t b (memRead (tblGet [] e.bufs b) 0 32768)

/-- Save a team whose area has a place, and free what it holds. -/
def State.saveTeam (s : State) (core slot area : Nat) : State :=
  let t := s.team core slot
  let s := s.spadErrors core (t.base * 256) (t.scr * 256)
  let k := s.core core
  let g := s.grid t.grid
  let size := s.areaSize core slot
  let engine := if k.owner = some slot then some { k.engine with token := false } else none
  let s := s.updCtx g.ctx fun c => { c with saveN := c.saveN + 1 }
  let n := ((s.ctx? g.ctx).map (·.saveN)).getD 0
  let bufs := match engine with
    | some e => s.sealBuffers e g.ctx n t.grid t.t
    | none => []
  let mhz := fun l => s.laneMhz core l
  let kept := t.mapWaits fun l => WaitOn.toNs (mhz l)
  let s := s.writeArea g.ctx area (areaBytes (kept.chunks k engine bufs n size) size)
  let s := s.l1WB (s.l1Of core)
  let (joined, s) := s.joinOrder t.grid t.cohort
  let susp := k.suspended t
  let ids := susp.map (·.id)
  let mine := t.groups.map (·.2.uid)
  let moves := fun (o : Op) => mine.contains o.uid || o.left.any ids.contains
  let w : Waiting :=
    { team := { kept with pending := [] }, ctx := g.ctx, prio := (s.queue g.queue).prio, joined := joined, area := area,
      size := size, engine := engine, suspended := susp.map fun c => c.mapPlace (Place.moveSpad (· - t.base * 256)),
      ops := (k.ops.filter fun o => moves o.2).map (·.2), fallen := [], cluster := clusterOf core }
  let s := s.updCore core fun k =>
    { k.vacate slot with
      copies := k.copies.filter fun c => !ids.contains c.1
      copyFaults := k.copyFaults.filter fun e => !ids.contains e.copy
      ops := k.ops.filter fun o => !moves o.2
      outs := k.outs.filter fun o => !(t.base ≤ o.1 && o.1 < t.base + t.scr)
      zeroing := k.zeroing.filter fun l => !t.lines.contains l }
  let s := { s with sched := { s.sched with waiting := s.sched.waiting ++ [w] } }
  let s := (s.mapOuts fun l =>
    if l.1 = core ∧ t.base ≤ l.2 ∧ l.2 < t.base + t.scr then (savedCore + t.uid, l.2 - t.base) else l).rehome t.uid
      (savedCore + t.uid) 0
  if (s.core core).hosts t.grid then s else s.dropPins core

/-- A saved team of a killed grid is discarded, and its area is freed (R357). -/
def State.discardSaved (s : State) (uid : Nat) : State :=
  match s.sched.waiting.find? fun w => w.team.uid == uid with
  | none => s
  | some w =>
    let s := s.countKills w.ctx w.team.groups.length (s.grid w.team.grid).lastFault
    let s := { s with sched := { s.sched with waiting := s.sched.waiting.filter fun w => w.team.uid != uid } }
    (s.updGrid w.team.grid fun g => { g with liveTeams := g.liveTeams - 1 }).updCluster w.cluster fun c =>
      { c with ranks := c.ranks.filter fun e => !e.isOf w.team }

/-- A team of a killed grid whose area has no place ends where it stands, as a resident team is ended. -/
def State.endHere (s : State) (core slot : Nat) : State :=
  let t := s.team core slot
  let g := s.grid t.grid
  let s := s.countKills g.ctx t.groups.length g.lastFault
  let s := s.updTeam core slot fun t => { t with stopping := false }
  (tblKeys t.groups).foldl (fun s i => s.detachGroup core slot i) s

/-- Requests held for a rank for 100 µs end before the rest are handed over (R156). -/
def State.endLate (s : State) (c : Nat) (e : RankEntry) : State :=
  if e.moving.any fun t => t + 100000 ≤ s.ns then s.endHeld c e else s

/-- The pre-emption is given up: the area has no place. Faults kept for the save are raised, and requests held for the rank go to
it. -/
def State.stay (s : State) (core slot : Nat) : State :=
  let t := s.team core slot
  let c := clusterOf core
  let s := match (s.cluster c).ranks.find? (·.isOf t) with
    | some e => s.endLate c e
    | none => s
  let held := match (s.cluster c).ranks.find? (·.isOf t) with
    | some e => s.heldFor c e
    | none => []
  let s := (s.updTeam core slot fun t => { t with stopping := false, pending := [] }).restartQuantum (core, slot)
  let s := (s.updCluster c fun y =>
      { y with ranks := y.ranks.map fun e => if e.isOf t then { e with moving := none } else e
               hold := y.hold.filter fun r => !held.contains r }).updCore core fun k => { k with remote := k.remote ++ held }
  t.pending.foldl (fun s r => s.report core r) s

/-- The cohort is saved as a whole, or stays as a whole (R178); a killed grid's is discarded. -/
def State.saveCohort (s : State) (ms : List (Nat × Nat)) (killed : Bool) : State :=
  match s.areasFor s.areas ms with
  | some as =>
    let uids := ms.map fun m => (s.team m.1 m.2).uid
    let s := (ms.zip as).foldl (fun s x => s.saveTeam x.1.1 x.1.2 x.2) s
    if killed then uids.foldl State.discardSaved s else s
  | none =>
    if killed then ms.foldl (fun s m => s.endHere m.1 m.2) s else ms.foldl (fun s m => s.stay m.1 m.2) s

/-- PREEMPT_TEAM: a team that R349 chooses stops issuing; then its rank is marked moving; once its whole cohort has drained, with
none of its cores stopped for a fault, it is saved. -/
def execPreemptTeam (core slot : Nat) (s : State) : Result :=
  match tblFind (s.core core).teams slot with
  | none => .next s
  | some t =>
    if !t.stopping then .next (if s.chosen.contains (core, slot) then s.makeRoom349 else s)
    else if s.unmarked core slot then .next (s.markMoving core slot)
    else
      let ms := s.mates core slot
      if ms.all fun m => (s.team m.1 m.2).stopping && !s.unmarked m.1 m.2 && !(s.core m.1).flt.stopped && s.teamDrained m.1 m.2 then
        .next (s.saveCohort ms (s.grid t.grid).killed)
      else .next s

/-! ## The restore (R368) -/

/-- A saved lane on its new core: a parked one is ready and re-executes, and every one enters its line (R202). -/
def Lane.comeBack (x : Lane) : Lane :=
  let x := if x.status = .parked then { x with status := .ready, waitOn := .nothing } else x
  { x with entering := x.live,
           shadow := x.shadow.map fun h => if h.status = .parked then { h with status := .ready, waitOn := .nothing } else h }

/-- The groups of a saved team as its area gives them; their ages follow in ascending index. -/
def Waiting.groupsBack (w : Waiting) (m : Memory) (ds : List Descriptor) (age : Nat) : Tbl Group :=
  let spots := groupSpots (w.team.groupsAt w.engine.isSome) w.team.groups
  let copies := fun (i l b : Nat) => (ds.filter fun d => d.group == i && d.lane == l && d.batch == b &&
    w.suspended.any fun c => c.id == d.copy && c.tile.isNone).map (·.copy)
  (w.team.groups.zipIdx).map fun c =>
    let g := c.1.2.fromRecord m (tblGet 0 spots c.1.1) (copies c.1.1)
    (c.1.1, { g with age := age + c.2, lls := 0, heldW := 0, mayIssue := true, throttled := false, passed := 0,
                     lanes := tblMap (fun _ x => x.comeBack) g.lanes })

/-- The buffers as the area gives them, and whether each agrees with its tag (R369). -/
def State.openBuffers (s : State) (w : Waiting) (m : Memory) : List (Bool × Memory) :=
  let key := s.saveKey w.ctx
  let at_ := w.team.engineAt
  let n := leNat (memRead m (at_ + 0x6EC00 + 360) 8)
  [0, 1].map fun b =>
    let c := memRead m (at_ + 0x40000 + 0x8000 * b) 32768
    let ok := gcmTag key (saveIv n b) (saveAad w.team.grid w.team.t) c == memRead m (at_ + 0x6EC00 + 368 + 16 * b) 16
    (ok, if ok then memWrite [] 0 (gcmCrypt key (saveIv n b) c) else [])

/-- The rank-table entry of a saved team goes; requests held for 100 µs have ended before (R156). The rest go to the new core. -/
def State.takeHeld (s : State) (w : Waiting) : State × List RemoteReq :=
  let c := w.cluster
  match (s.cluster c).ranks.find? (·.isOf w.team) with
  | none => (s, [])
  | some e =>
    let s := s.endLate c e
    let held := s.heldFor c e
    (s.updCluster c fun y =>
      { y with ranks := y.ranks.filter fun e => !e.isOf w.team, hold := y.hold.filter fun r => !held.contains r }, held)

/-- The core takes back a team's scratchpad and its lines' states (R57), its copies, which retry the transfer that failed first, and
its operations; the requests that were held for its rank wait at it. -/
def Core.takeBack (k : Core) (w : Waiting) (m : Memory) (x : Stand) (ds : List Descriptor) (held : List RemoteReq) (now : Nat) : Core :=
  let n := w.team.scr
  let ls := List.range n
  let back := fun (c : Copy) =>
    { (c.mapPlace (Place.moveSpad (· + x.base * 256))).withFailed ds with
      stopped := 0, since := now, units := tblMap (fun _ u => { u with sent := none }) c.units }
  { k with
    ages := k.ages + w.team.groups.length
    spad := memWrite (memErase k.spad (x.base * 256) (n * 256)) (x.base * 256) (memRead m 0x400 (n * 256))
    latent := k.latent.filter fun e => !(x.base ≤ e.1 / 4 && e.1 / 4 < x.base + n)
    outs := ls.foldl (fun o i => if (w.lineBack m i).2 = 0 then o else tblSet o (x.base + i) (w.lineBack m i).2) k.outs
    zeroing := k.zeroing ++ (ls.filter (w.unzeroed m)).map (x.base + ·)
    copies := w.suspended.foldl (fun o c => tblSet o c.id (back c)) k.copies
    ops := w.ops.foldl (fun o x => tblSet o x.id x) k.ops
    remote := k.remote ++ held }

/-- Restore a team onto a core (R368): what Tables 15.7 and 15.8 list comes from its area. -/
def State.restoreTeam (s : State) (w : Waiting) (core : Nat) : State :=
  let s := s.chooseMode (clusterOf core) (s.grid w.team.grid).launch.l1mode
  match (s.core core).lineBase w.team.scr with
  | none => s
  | some base =>
    let x : Stand := ⟨clusterOf core, base, w.team.grid, w.team.cohort⟩
    let (s, m) := s.readArea w.ctx w.area w.size
    let tail := w.team.tailAt w.engine.isSome
    let counts := leNat (memRead m 0x38 8)
    let ds := descriptorsBack m tail (field counts 15 0)
    let (order, s) := s.name
    let bufs := s.openBuffers w m
    let engine := w.engine.map fun e =>
      { e.back m w.team.engineAt x with bufs := bufs.zipIdx.map fun b => (b.2, b.1.2) }
    let (s, held) := s.takeHeld w
    let t := { w.team.back m with
      groups := w.groupsBack m ds (s.core core).ages, base := base, quantum := s.quantumNs, yielding := false,
      stopping := false, admitted := order, lastL1 := some (s.l1Of core), pending := [] }
    let (s, slot) := s.seat core t engine
    let s := if w.team.lastL1 = some (s.l1Of core) then s else s.l1WBINV (s.l1Of core)
    let now := s.ns
    let s := s.updCore core fun k => k.takeBack w m x ds held now
    let s := { s with sched := { s.sched with waiting := s.sched.waiting.filter fun y => y.team.uid != t.uid } }
    let s := s.mapOuts fun l => if l.1 = savedCore + t.uid then (core, base + l.2) else l
    let s := (s.rehome t.uid core base).recluster w.cluster x
    let mhz := fun l => s.laneMhz core l
    let s := s.updTeam core slot fun t => t.mapWaits fun l => WaitOn.fromNs (mhz l)
    let s := if engine.isSome then (bufs.filter fun b => !b.1).foldl (fun s _ => s.countTagFail core w.ctx) s else s
    (reportsBack m (tail + 64 * ds.length) (field counts 31 16) t slot).foldl (fun s r => s.report core r) s

/-- TEAM_RESTORE: the first entry is a team or cohort that pre-emption removed. -/
def execTeamRestore (s : State) : Result :=
  match s.firstEntry with
  | none => .next s
  | some e =>
    if !e.back || s.mgmt.l2Busy || s.beforeTick then .next s
    else
      match s.placement e with
      | none => .next s
      | some cores =>
        let ts := (s.entryTeams e).map (·.1)
        .next (((ts.zip cores).foldl (fun s p =>
          match s.sched.waiting.find? fun w => w.joined == e.joined && w.team.t == p.1 with
          | some w => s.restoreTeam w p.2
          | none => s) s).entryDone (s.entryTag e)).calm

/-! ## Quiesce (R370) -/

/-- A core is gated without reverse bias, and rests; a rest that has not ended goes on. -/
def State.gate (s : State) (core : Nat) : State :=
  let now := s.power.h
  s.updCore core fun k => { k with gated := true, rest := some (k.rest.getD (now, 0)) }

/-- The core stops being a candidate and its teams are pre-empted where their areas fit; once no team is resident, it is gated
without reverse bias, and rests. -/
def State.quiesce (s : State) (core : Nat) : State :=
  let s := s.updCore core fun k => { k with quiescing := true }
  let go := (s.core core).teams.filter fun t => !t.2.stopping && s.canLeave core t.1
  let s := go.foldl (fun s t => if s.canLeave core t.1 then (s.mates core t.1).foldl State.beginLeave s else s) s
  if (s.core core).teams.isEmpty then s.gate core else s

/-- CORE_QUIESCE, by what the root firmware orders: a quiesce (R370); the gating of an idle core; or that the core is powered again,
which ends a rest without reverse bias at the next tick (R391). -/
def execCoreQuiesce (o : CoreOrder) (s : State) : Result :=
  let k := s.core o.core
  match o.order with
  | .quiesce => .next (if k.gated then s else s.quiesce o.core)
  | .idle =>
    .next (if k.gated || !k.teams.isEmpty then s else s.gate o.core)
  | .wake =>
    .next (if k.gated && k.rest.any fun r => r.2 != 0 then s
      else s.updCore o.core fun k => { k with gated := false, quiescing := false })

end Sys2Proof.Machine
end

