-- ==== Sys2Proof/Machine/Sched.lean ====
section
/-! DEFINITION. Grids (14 R338 to R342; 04 R107; 15 R373; 17 R408, R410; 18 R415): a record is taken, a grid starts, a grid
ends; and the memory throttle of a core (14 R352, R353). -/

namespace Sys2Proof.Machine

/-! ## Taking a record (R342) -/

/-- A grid of a queue that has been taken and is not yet past dispatching. -/
def Grid.inQueue (g : Grid) (q : Nat) : Bool := g.queue == q && (!g.started || g.dispatching)

/-- The first rejection code that applies, in the order of R416; CT_ADDR is read last. -/
def State.checkRecord (s : State) (q : Nat) (p : Pend) (bs : List Byte) : State × Except Nat (Tbl (BitVec 256)) :=
  let l := launchOf bs
  match s.earlyReject q p.code bs with
  | (s, some c) => (s, .error c)
  | (s, none) =>
    match l.reject p.code with
    | some c => (s, .error c)
    | none =>
      let (s, d) := s.readDesc l.ctx
      match s.readCts l (descOf d).ptRoot with
      | (s, some cts) => (s, .ok cts)
      | (s, none) => (s, .error 7)

/-- DISPATCH_TAKE_RECORD: the head record of a queue that has no dispatching grid. -/
def execDispatchTakeRecord (q : Nat) (s : State) : Result :=
  let x := s.queue q
  match x.pend with
  | [] => .next s
  | p :: rest =>
    if !x.en || s.sched.grids.any fun g => g.2.inQueue q then .next s
    else
      let (s, bs) := s.hRead (.ctx x.ctx) 0 (x.slotAt x.head) 256
      let s := s.updQueue q fun x => { x with head := (x.head + 1) % 2 ^ 31, pend := rest }
      match s.checkRecord q p bs with
      | (s, .error code) => .next (s.rejectGrid q p.id p.sel p.num code bs)
      | (s, .ok cts) =>
        let l := { launchOf bs with sigSel := p.sel }
        let g : Grid :=
          { Grid.absent with id := p.id, queue := q, ctx := l.ctx, launch := l, cts := cts, sig := p.num }
        .next { s with sched := { s.sched with grids := tblSet s.sched.grids p.id g } }

/-! ## Grid boundaries (R107, R43, R201) -/

/-- What a boundary does to every core: WB and INV of every L1, the instruction caches empty, and the core TLB entries of
the context go. -/
def State.boundary (s : State) (ctx : Nat) : State :=
  let s := s.allWBINV
  { s with cores := tblMap (fun _ k => { k with icache := [], tlb := k.tlb.filter fun e => e.ctx != ctx }) s.cores }

/-- A dependence holds (R341). -/
def State.depHolds (s : State) (ctx sel val : Nat) : Bool :=
  sel == 0 || (match s.ctx? ctx with
    | some c => val ≤ (tblGet Timeline.start c.tls (sel - 64)).count
    | none => false)

/-- The seal stream that a grid opens (R408). -/
def State.openStream (s : State) (ctx : Nat) (d : Desc) : Option Seal :=
  if !d.sealEn then none
  else
    let slot := match s.ctx? ctx with
      | some c => tblFind c.keys d.sealSlot
      | none => none
    let (id, dg) := match slot with
      | some k => (k.keyId, k.digest)
      | none => (0xFFFFFFFF, 0)
    some { keyId := id, ctDigest := dg, issued := 0, chunks := [], tl := Timeline.start, dataLoss := 0, tagFail := 0 }

/-- GRID_START: once its dependences hold and fewer than 1,024 grids run, a taken grid starts and joins the waiting list. -/
def execGridStart (grid : Nat) (s : State) : Result :=
  match tblFind s.sched.grids grid with
  | none => .next s
  | some g =>
    let l := g.launch
    let running := (s.sched.grids.filter fun c => c.2.started).length
    if g.started || !s.depHolds g.ctx l.dep0Sel l.dep0 || !s.depHolds g.ctx l.dep1Sel l.dep1 || 1024 ≤ running then .next s
    else
      let s := s.boundary g.ctx
      let (s, bs) := s.readDesc g.ctx
      let d := descOf bs
      let stream := s.openStream g.ctx d
      let now := s.ns
      let order := s.sched.joins
      let s := { s with sched := { s.sched with joins := order + 1 } }
      .next (s.updGrid grid fun g =>
        { g with started := true, dispatching := true, desc := d, startNs := now, stream := stream, joined := order })

/-- Nothing of a grid is left to run: every team was admitted and has ended, and every access, copy, engine operation and
seal chunk of it has been performed. An access that has timed out and is still on its way keeps its item (R106, R154). -/
def State.gridDone (s : State) (g : Grid) : Bool :=
  g.started && !g.dispatching && g.liveTeams == 0
    && (s.cores.all fun k =>
      (k.2.queue.all fun i => i.grid != g.id) && (k.2.copies.all fun c => c.2.grid != g.id)
        && (k.2.engine.ops.all fun o => o.grid != g.id) && (k.2.engine.held.all fun la => la.grid != g.id))
    && (match g.stream with
      | some q => q.chunks.all (·.done)
      | none => true)

/-- GRID_END: the boundary, the seal record, the completion record with its vector, and the SIG operation. -/
def execGridEnd (grid : Nat) (s : State) : Result :=
  match tblFind s.sched.grids grid with
  | none => .next s
  | some g =>
    if !s.gridDone g then .next s
    else
      let s := s.boundary g.ctx
      let (s, sealSt, record) := s.finaliseSeal (s.grid grid)
      let g := s.grid grid
      let e : Ending :=
        { gid := g.id, ctx := g.ctx, status := if g.killed then 2 else if g.groupKilled then 1 else 0, reject := 0,
          fault := g.lastFault, sealSt := sealSt, loss := g.loss, tags := g.tags, sig := g.sig, start := g.startNs,
          record := record }
      let s := s.writeCompletion g.queue g.ctx (some g.desc.ptRoot) g.launch.compl e
      let s := s.signal g.ctx g.launch.sigSel g.sig
      let clusters := tblMap (fun _ c => { c with ranks := c.ranks.filter fun r => r.grid != grid }) s.clusters
      .next { s with sched := { s.sched with grids := tblDel s.sched.grids grid }, clusters := clusters }

/-! ## The memory throttle (R352, R353) -/

/-- The class of a group in the ranking of a window. -/
def Group.throttleClass (y : Group) (thr : Nat) : Nat := if 16 ≤ y.heldW then 0 else if y.lls ≤ thr then 1 else 2

/-- The groups of a core by rank: their class, then their age. -/
def Core.ranking (k : Core) (thr : Nat) : List Nat :=
  let all := k.teams.flatMap fun t => t.2.groups.map fun g => (g.2.throttleClass thr, g.2.age, g.2.uid)
  (all.mergeSort fun a b => a.1 < b.1 || (a.1 == b.1 && a.2.1 ≤ b.2.1)).map (·.2.2)

/-- THROTTLE_WINDOW_END: the cap moves, the scores halve, windows in which a group was held are counted, and the groups are ranked
for the next window. -/
def execThrottleWindowEnd (core : Nat) (s : State) : Result :=
  let k := s.core core
  if k.window != 0 then .next s
  else
    let cap := if 32 ≤ k.evE then max 2 (k.capC - 2) else if k.evE ≤ 8 then min 64 (k.capC + 1) else k.capC
    let close := fun (_ : Nat) (y : Group) =>
      { y with lls := y.lls / 2, heldW := if y.throttled then y.heldW + 1 else 0, throttled := false }
    let k := { k with teams := tblMap (fun _ t => { t with groups := tblMap close t.groups }) k.teams }
    let first := (k.ranking s.sched.llsThr).take cap
    let mark := fun (_ : Nat) (y : Group) => { y with mayIssue := first.contains y.uid }
    .next (s.setCore core
      { k with teams := tblMap (fun _ t => { t with groups := tblMap mark t.groups }) k.teams, capC := cap, evE := 0,
               window := 1024 })

end Sys2Proof.Machine
end

