-- ==== Sys2Proof/Machine/Power.lean ====
section
/-! DEFINITION. Clocks, near-threshold islands, throttling, tokens, energy, wear ticks, retirement and boost grants
(16 R374 to R397, 15 R370). -/

namespace Sys2Proof.Machine

/-! ## Clock regions (R374 to R377): die × 17 + region, then 136 to 143 for the exchange dies -/

/-- The cluster whose THR_REASON a region reports in (R381). -/
def regionCluster (r : Nat) : Nat := if r < 136 then r / 17 else 0

/-- The cores of a region that are listed. -/
def State.coresIn (s : State) (r : Nat) : List Nat := (tblKeys s.cores).filter fun c => s.regionOf c == r

/-- Lanes that count the region's clock: those of islands not at near-threshold. -/
def Core.retime (k : Core) (near : Bool) (old new : Nat) : Core :=
  let f := fun (l : Nat) (x : Lane) => if k.ntCur.getLsbD (l / 8) == near then x.retime old new else x
  let h := fun (_ : Nat) (g : Group) => { g with lanes := tblMap f g.lanes }
  let m := fun (_ : Nat) (t : Team) => { t with groups := tblMap h t.groups }
  { k with teams := tblMap m k.teams }

/-- RATIO_CHANGE: at a cycle boundary the region's ratio becomes the one it moves to, and waits are converted (R297). -/
def execRatioChange (region : Nat) (s : State) : Result :=
  let x := s.region region
  let cs := s.coresIn region
  if x.nCur == x.nTgt || cs.any fun c => (s.core c).issued != 0 then .next s
  else
    let s := s.updRegion region fun x => { x with nCur := x.nTgt }
    .next (cs.foldl (fun s c => s.updCore c fun k => k.retime false (25 * x.nCur) (25 * x.nTgt)) s)

/-- REF_LOSS: the generator holds over, and REF_LOST is set. -/
def execRefLoss (region : Nat) (s : State) : Result :=
  let t := s.updRegion region fun x => { x with refLost := true }
  .next (if (s.region region).refLost then t else t.msi 85)

/-- REF_RETURN: the generator relocks; REF_LOST stays. -/
def execRefReturn (_region : Nat) (s : State) : Result := .next s

/-- SUPPLY_DROOP: the region's clock is stretched, and a stretch counted. -/
def execSupplyDroop (region : Nat) (s : State) : Result :=
  .next (s.updRegion region fun x => { x with stretch := (x.stretch + 1) % 2 ^ 16 })

/-! ## Throttling (R381) -/

def thrBit : ThrCause → Nat
  | .thermal => 0
  | .current => 1
  | .slew => 2
  | .cap => 3
  | .reliab => 4

/-- A bit of THR_REASON is set; one that was clear signals vector 84. -/
def State.setReason (s : State) (cluster : Nat) (c : ThrCause) : State :=
  if (s.cluster cluster).thr.getLsbD (thrBit c) then s
  else (s.updCluster cluster fun x => { x with thr := x.thr ||| ((1 : BitVec 5) <<< (thrBit c)) }).msi 84

/-- The highest point that a region's live grants give it; 0 is nominal (R397). -/
def State.topPoint (s : State) (region : Nat) : Nat :=
  (s.power.grants.filter fun g => g.region == region).foldl (fun m g => max m g.point) 0

/-- The ratio of that point. -/
def State.grantedN (s : State) (region : Nat) : Nat :=
  let p := s.topPoint region
  if p = 0 then 44 else (tblGet ⟨false, 0, 44, 0⟩ s.power.pts p).n

/-- The physical cores of a region that are active. -/
def State.activeIn (s : State) (region : Nat) : List Nat :=
  ((List.range 17).map fun i => coreUnit (region / 17) (region % 17 * 17 + i)).filter fun u => (s.wearAt u).st == 0

/-- A supply lies above the ceiling of a unit of a region (R389). -/
def State.overCeiling (s : State) (region mv : Nat) : Bool :=
  (s.activeIn region).any fun u =>
    (s.wearAt u).ceiling < ((mv * 4096 : Nat) : Int) || (s.wearAt (u + 2176)).ceiling < ((mv * 4096 : Nat) : Int)

/-- The point that a region was granted would raise a unit above its ceiling. -/
def State.capped (s : State) (region : Nat) : Bool :=
  let p := s.topPoint region
  p != 0 && s.overCeiling region (tblGet ⟨false, 0, 44, 0⟩ s.power.pts p).mv

/-- A ratio below the one given; the spec does not say how far (log entry 7). -/
def State.lowered (s : State) (region n : Nat) : Nat :=
  if n ≤ 4 then 4 else 4 + (Config.unstated s.stamp region).toNat % (n - 4)

/-- While a cause holds, a region's point is below the one that its grants give it (R381). -/
def State.keepLow (s : State) (region : Nat) : State :=
  let n := s.grantedN region
  let low := s.lowered region n
  s.updRegion region fun x => { x with nTgt := if x.nTgt < n then x.nTgt else low }

/-- A cause lowers a region's point. -/
def State.lowerPoint (s : State) (region : Nat) (c : ThrCause) : State :=
  let low := s.lowered region (s.grantedN region)
  s.updRegion region fun x =>
    { x with causes := x.causes ||| ((1 : BitVec 5) <<< (thrBit c)), quiet := false,
             nTgt := if x.causes == 0 then low else x.nTgt }

/-- A region whose point would raise a unit above its ceiling is held lower (R389). -/
def State.hold (s : State) (region : Nat) : State :=
  (s.lowerPoint region .reliab).setReason (regionCluster region) .reliab

/-- A region moves to the point it was granted, unless a cause holds it lower; islands leave near-threshold where a grant
raises it, whatever their lanes wait in (R378, log entry 63). -/
def State.retarget (s : State) (region : Nat) : State :=
  if (s.region region).causes != 0 then s.keepLow region
  else if s.capped region then s.hold region
  else
    let n := s.grantedN region
    let t := s.updRegion region fun x => { x with nTgt := n }
    if s.topPoint region = 0 then t
    else (s.coresIn region).foldl (fun s c => s.updCore c fun k =>
      (List.range 4).foldl (fun k i => k.moveIsland i false) k) t

/-- THROTTLE_CAUSE. -/
def execThrottleCause (region : Nat) (cause : ThrCause) (s : State) : Result :=
  .next ((s.lowerPoint region cause).setReason (regionCluster region) cause)

/-! ## Near-threshold islands (R378, R379) -/

/-- Every lane on an island sleeps or is not ready, and some lane sleeps (R296). -/
def Core.sleeps (k : Core) (i : Nat) : Bool :=
  let ls := k.onIsland i
  let asleep := fun (x : Lane) => x.status == .waiting && (match x.waitOn with
    | .time _ b => b
    | _ => false)
  (ls.any fun c => asleep c.2.2.2) && ls.all fun c => c.2.2.2.status != .ready

/-- NT_WINDOW_END: by the stall ratio of the window, every island enters or leaves; an island whose lanes sleep may enter, which
the spec leaves to the core (log entry 63). -/
def execNtWindowEnd (core : Nat) (s : State) : Result :=
  let k := s.core core
  if s.ns % 10000 != 0 || k.ntCycles == 0 then .next s
  else
    let exit := min k.ntExit k.ntEnter
    let enter := k.ntAuto && k.ntEnter * k.ntCycles ≤ 256 * k.ntStall && !s.boosted core
    let leave := k.ntAuto && 256 * k.ntStall < exit * k.ntCycles
    let may := fun (i : Nat) => k.ntAuto && !s.boosted core && k.sleeps i && (Config.unstated s.stamp (core * 4 + i)).getLsbD 0
    let k := (List.range 4).foldl (fun k i =>
      if (enter || may i) && tblGet 0 k.ntKeep i == 0 then k.shiftIsland i true
      else if leave then k.shiftIsland i false else k) k
    let keep := (tblMap (fun _ n => n - 1) k.ntKeep).filter fun c => c.2 != 0
    .next (s.setCore core { k with ntKeep := keep, ntStall := 0, ntCycles := 0 })

/-- ISLAND_POINT_SETTLED: the island has the state it was changing to, and its lanes' waits count its clock. -/
def execIslandPointSettled (core island : Nat) (s : State) : Result :=
  let k := s.core core
  match tblFind k.ntSettle island with
  | none => .next s
  | some near =>
    let old := s.laneMhz core (8 * island)
    let bit := (1 : BitVec 4) <<< island
    let s := s.updCore core fun k =>
      { k with ntSettle := tblDel k.ntSettle island, ntCur := if near then k.ntCur ||| bit else k.ntCur &&& ~~~bit }
    let new := s.laneMhz core (8 * island)
    let f := fun (l : Nat) (x : Lane) => if l / 8 == island then x.retime old new else x
    let h := fun (_ : Nat) (g : Group) => { g with lanes := tblMap f g.lanes }
    let m := fun (_ : Nat) (t : Team) => { t with groups := tblMap h t.groups }
    .next (s.updCore core fun k => { k with teams := tblMap m k.teams })

/-! ## Tokens and energy (R380, R382, R383) -/

/-- A write of SIZE: FREE is what the new size leaves over the tokens out. A size that lowers the pool sets CAP in every
cluster; which regions lower their points for it comes with THROTTLE_CAUSE (log entry 18). -/
def State.writeTokens (s : State) (v : Nat) : State :=
  let n := min 2048 (v % 4096)
  let t := { s with power := { s.power with size := n } }
  if n < s.power.size then (List.range 8).foldl (fun (t : State) c => t.setReason c .cap) t else t

/-- PWR_TOK_SIZE_WRITE. -/
def execPwrTokSizeWrite (v : DWord) (s : State) : Result := .next (s.writeTokens v.toNat)

/-- ENERGY_WRAP: a die draws energy; its accumulator wraps, and a wrap sets WRAP. -/
def execEnergyWrap (die : Nat) (units : BitVec 48) (s : State) : Result :=
  let p := s.power
  let e := tblGet 0 p.energy die + units.toNat
  .next { s with power := { p with energy := tblSet p.energy die (e % 2 ^ 48),
                                   wrap := if e < 2 ^ 48 then p.wrap else tblSet p.wrap die true } }

/-- The latch of a reader. -/
def Power.latch (p : Power) (die : Nat) (r : Reader) : Option Nat :=
  (p.latches.find? fun l => l.1 == die && l.2.1 == r).map (·.2.2)

def Power.unlatch (p : Power) (die : Nat) (r : Reader) : Power :=
  { p with latches := p.latches.filter fun l => !(l.1 == die && l.2.1 == r) }

/-- ENERGY_LO: bits 31:0, with bits 47:32 latched for the reader. -/
def State.readEnergyLo (s : State) (die : Nat) (r : Reader) : State × Nat :=
  let e := tblGet 0 s.power.energy die
  let p := s.power.unlatch die r
  ({ s with power := { p with latches := (die, r, e / 2 ^ 32) :: p.latches } }, e % 2 ^ 32)

/-- ENERGY_HI: the latched bits, or the live ones, with WRAP. -/
def State.readEnergyHi (s : State) (die : Nat) (r : Reader) : State × Nat :=
  let hi := (s.power.latch die r).getD (tblGet 0 s.power.energy die / 2 ^ 32)
  ({ s with power := s.power.unlatch die r }, (if tblGet false s.power.wrap die then 2 ^ 31 else 0) + hi)

/-- A host's request before READY (R419). -/
def State.early (s : State) (r : Reader) : Bool := r == .host && !s.mgmt.ready

/-- ENERGY_LO_READ; the host's before READY reads zero and latches nothing (R419). -/
def execEnergyLoRead (die : Nat) (r : Reader) (s : State) : Result :=
  let (t, v) := s.readEnergyLo die r
  .next (if s.early r then s.send (.reg 0) else t.send (.reg (BitVec.ofNat 64 v)))

/-- ENERGY_HI_READ. -/
def execEnergyHiRead (die : Nat) (r : Reader) (s : State) : Result :=
  let (t, v) := s.readEnergyHi die r
  .next (if s.early r then s.send (.reg 0) else t.send (.reg (BitVec.ofNat 64 v)))

/-! ## Boost grants (R395 to R397) -/

/-- A grant ends: its tokens return, its charge leaves HELD, and its region moves to what is left. -/
def State.endGrant (s : State) (id : Nat) : State :=
  match s.power.grants.find? fun g => g.id == id with
  | none => s
  | some g =>
    let p := { s.power with grants := s.power.grants.filter fun x => x.id != id, tokOut := s.power.tokOut - g.tok }
    ({ s with power := p }).retarget g.region

/-- The grants of a context in a region. -/
def State.grantsOf (s : State) (ctx region : Nat) : List Grant :=
  s.power.grants.filter fun g => g.ctx == ctx && g.region == region

/-- What a request comes to: a grant of a point for a duration at a charge, or a code. -/
inductive BoostRes where
  | ended
  | refused (code : Nat)
  | granted (point dur : Nat) (charge : Int)
  deriving DecidableEq, Repr

/-- The points from p down, with the reason kept for the point asked for (R395). -/
def State.boostPoints (s : State) (region want t : Nat) : Nat → Option Nat → BoostRes
  | 0, why => .refused (why.getD 5)
  | p + 1, why =>
    let e := tblGet ⟨false, 0, 0, 0⟩ s.power.pts (p + 1)
    let no := fun (code : Nat) =>
      s.boostPoints region want t p (if p + 1 = want then some code else why)
    if !e.valid then s.boostPoints region want t p why
    else
      let x := s.region region
      if 800 ≤ x.hot || x.nearLimit || s.overCeiling region e.mv then no 3
      else if s.tokensFree < e.tok then no 2
      else
        let n := (s.activeIn region).length
        let w := boostExtra e.mv x.t8
        let d := boostMax n w t s.avail
        if 1 ≤ d then .granted (p + 1) d (boostCharge n w d) else no 1

/-- The answer to a request; `s` has the context's grant in the region released. -/
def State.boostAnswer (s : State) (region point us : Nat) : BoostRes :=
  if point = 0 ∨ us = 0 then .ended
  else if !s.power.boostEn then .refused 4
  else if 4 < point || !(tblGet ⟨false, 0, 0, 0⟩ s.power.pts point).valid then .refused 5
  else s.boostPoints region point us point none

/-- The request that is evaluated next, of those in order of issue: of the requests issued in one cycle, the least core, then the
least group (R396). Requests of one region are of one cycle by its cycle count; those of several regions are where the first of
each was issued in one nanosecond (log entry 64). -/
def State.nextBoost (s : State) : Option BoostReq :=
  match s.power.requests with
  | [] => none
  | r :: t =>
    let joins := fun (x : BoostReq) =>
      ((r :: t).find? fun y => s.regionOf y.core == s.regionOf x.core).all fun y => y.cyc == x.cyc && y.at_ == r.at_
    some ((t.filter joins).foldl (fun b x =>
      if x.core < b.core || (x.core == b.core && x.group < b.group) then x else b) r)

/-- The cycle of a request is over, and no tick is yet to come at this instant. -/
def State.boostReady (s : State) (r : BoostReq) : Bool := (s.region (s.regionOf r.core)).cyc != r.cyc && !s.beforeTick

/-- The operation of a request completes with its pair. -/
def State.finishBoost (s : State) (r : BoostReq) (dur point code : Nat) : State :=
  s.updCore r.core fun k =>
    match tblFind k.ops r.op with
    | some o =>
      let v := [BitVec.ofNat 32 (point * 256 + code), BitVec.ofNat 32 dur]
      k.completeOp { o with values := (lanesOf o.lanes).map fun l => (l, v) }
    | none => k

/-- One of the points that a request tried, from the one it asked for down, lies above a ceiling (R389). -/
def State.tooHigh (s : State) (region want got : Nat) : Bool :=
  (List.range 5).any fun p =>
    let e := tblGet ⟨false, 0, 0, 0⟩ s.power.pts p
    got < p && p ≤ want && e.valid && s.overCeiling region e.mv

/-- BOOST_EVALUATE: the root firmware grants or refuses the next request, once every core has issued in its cycle; one of a tick
instant waits for the tick (R396). -/
def execBoostEvaluate (s : State) : Result :=
  match s.nextBoost with
  | none => .next s
  | some r =>
    if !s.boostReady r then .next s
    else
    let s := { s with power := { s.power with requests := s.power.requests.erase r } }
    let region := s.regionOf r.core
    let old := s.grantsOf r.ctx region
    let freed := old.foldl (fun s g => s.endGrant g.id) s
    match freed.boostAnswer region r.point r.us with
    | .ended => .next (freed.finishBoost r 0 0 0)
    | .refused code =>
      let s := if code < 4 ∧ s.tooHigh region r.point 0 then s.setReason (regionCluster region) .reliab else s
      .next (s.finishBoost r 0 0 code)
    | .granted p d c =>
      let tok := (tblGet ⟨false, 0, 0, 0⟩ s.power.pts p).tok
      let (id, s) := freed.name
      let g : Grant :=
        { id := id, ctx := r.ctx, region := region, point := p, tok := tok, charge := c, held := c, dur := d, at_ := s.ns }
      let s := ({ s with power := { s.power with grants := s.power.grants ++ [g], tokOut := s.power.tokOut + tok } }).retarget
        region
      let s := if s.tooHigh region r.point p then s.setReason (regionCluster region) .reliab else s
      .next (s.finishBoost r d p 0)

/-- BOOST_GRANT_EXPIRE: DUR has run out. -/
def execBoostGrantExpire (grant : Nat) (s : State) : Result :=
  match s.power.grants.find? fun g => g.id == grant with
  | some g => .next (if s.reached ((g.at_ + g.dur * 1000) % 2 ^ 64) then s.endGrant grant else s)
  | none => .next s

/-- The remaining charge of a grant at a tick (R397). -/
def Grant.atTick (g : Grant) (ns : Nat) : Grant :=
  let whole := g.dur * 1000
  let left : Nat := whole - (ns + 2 ^ 64 - g.at_) % 2 ^ 64
  { g with held := ceilDiv (g.charge * left) whole }

/-! ## The wear tick (R385, R391 to R393) -/

/-- A unit rests: its core is gated, in dusk or otherwise (R385). -/
def State.unitRests (s : State) (unit : Nat) : Bool :=
  unit < 4352 && s.cores.any fun k => k.2.gated && coreUnit (clusterOf k.1) k.2.phys == unit % 2176

/-- The clock region of a core's or engine's unit. -/
def unitRegion (unit : Nat) : Nat := unit % 2176 / 272 * 17 + unit % 272 / 17

/-- V of a unit: a matrix engine's is that of its core's region (R385). -/
def State.unitV (s : State) (rs : List RegionSample) (u : WearSample) : Nat :=
  if 2176 ≤ u.unit ∧ u.unit < 4352 then
    ((rs.find? fun r => r.region == unitRegion u.unit).map (·.vMv)).getD (s.region (unitRegion u.unit)).vMv
  else u.v

/-- The tick's increments, with the factors that take effect on it (R389). -/
def State.tickUnits (s : State) (rs : List RegionSample) (us : List WearSample) : State :=
  us.foldl (fun s u =>
    let v := s.unitV rs u
    let x : WearIn := if s.unitRests u.unit then ⟨v, u.t8, 0, 0, 0⟩ else ⟨v, u.t8, u.d, u.act, u.cur⟩
    s.updWear u.unit fun w => w.tick x)
    { s with wear := { s.wear with live := tblMap (fun _ => Wear.calibrated) s.wear.live } }

/-- Grants whose points lie above a ceiling that a new factor lowered are held (R389). -/
def State.checkCeilings (s : State) : State :=
  s.power.grants.foldl (fun s g =>
    if (s.region g.region).causes.getLsbD (thrBit .reliab) || !s.capped g.region then s else s.hold g.region) s

/-- The readings of the regions, and the points that rise again after a tick without a cause. -/
def State.tickRegions (s : State) (rs : List RegionSample) : State :=
  let s := rs.foldl (fun s r => s.updRegion r.region fun x =>
    { x with vMv := r.vMv, t8 := r.t8, hot := r.hot, nearLimit := r.nearLimit }) s
  (tblKeys s.regions).foldl (fun s r =>
    let x := s.region r
    if x.causes == 0 then s
    else if x.quiet then (s.updRegion r fun x => { x with causes := 0 }).retarget r
    else s.updRegion r fun x => { x with quiet := true }) s

/-- Rests that end on this tick, with their recovery (R392): those of their full length, and those of cores that a reset powered
again. -/
def State.endRests (s : State) : State :=
  (tblKeys s.cores).foldl (fun s c =>
    let k := s.core c
    match k.rest with
    | some (t0, len) =>
      if !k.gated || (len != 0 && t0 + len ≤ s.power.h) then
        let u := coreUnit (clusterOf c) k.phys
        let t := s.power.h - t0
        let s := (s.updWear u fun w => w.recover (len != 0) t).updWear (u + 2176) fun w => w.recover (len != 0) t
        s.updCore c fun k => { k with rest := none, gated := false }
      else s
    | none => s) s

/-- A core may be chosen for a dusk interval (R391). -/
def State.duskOk (s : State) (c : Nat) : Bool :=
  let k := s.core c
  let w := s.wearAt (coreUnit (clusterOf c) k.phys)
  k.candidate && k.teams.isEmpty && w.st == 0 && s.power.duskMin * 2 ^ 32 ≤ w.b

/-- The eligible core of greatest W; ties go to the lowest index. -/
def State.duskPick (s : State) (cluster : Nat) : Option Nat :=
  match (coresOf cluster).filter s.duskOk with
  | [] => none
  | c :: t => some (t.foldl (fun b x => if s.wOf b < s.wOf x then x else b) c)

/-- Fill a cluster to DUSK_MAX; n bounds the cores. -/
def State.fillDusk (s : State) (cluster : Nat) : Nat → State
  | 0 => s
  | n + 1 =>
    let inDusk := (s.cores.filter fun k => clusterOf k.1 == cluster && k.2.rest.any fun r => r.2 != 0).length
    if inDusk < s.power.duskMax then
      match s.duskPick cluster with
      | some c =>
        let r := (s.power.h, s.power.duskLen)
        (s.updCore c fun k => { k with gated := true, rest := some r }).fillDusk cluster n
      | none => s
    else s

/-- Admissions until the first entry does not fit; n bounds them. -/
def State.admitAll (s : State) : Nat → State
  | 0 => s
  | n + 1 =>
    match s.firstEntry with
    | none => s
    | some e =>
      if s.mgmt.l2Busy || (s.placement e).isNone then s
      else
        match (if e.back then execTeamRestore s else execTeamAdmit s) with
        | .next t => t.admitAll n
        | _ => s

/-- Requests of the service firmware that the root firmware applies at a tick (R394). -/
def State.applyLife (s : State) : State :=
  let p := s.power
  let t := p.targetReq.getD p.targetH
  { s with
    power := { p with targetH := t, targetReq := none, reserve := p.reserveReq.getD p.reserve, reserveReq := none }
    wear := { s.wear with targetChanges := if t = p.targetH then s.wear.targetChanges else s.wear.targetChanges + 1 } }

/-- WEAR_TICK, in the order of R393. -/
def execWearTick (regions : List RegionSample) (units : List WearSample) (s : State) : Result :=
  if s.ns % 1000000 != 0 || s.ns == s.power.tickAt then .next s
  else
    let now := s.ns
    let s := (s.tickUnits regions units).checkCeilings
    let s := { s with power := { s.power with h := s.power.h + 1, tickAt := now } }
    let s := s.endRests
    let s := (s.tickRegions regions).applyLife
    let s := { s with power := { s.power with grants := s.power.grants.map (Grant.atTick · now) } }
    let s := if s.power.duskEn then (List.range 8).foldl (fun (s : State) c => s.fillDusk c 8) s else s
    .next (s.admitAll 65536)

/-! ## The wear summary and commits (R387 to R390) -/

/-- The greatest composite W of the units of a range (Table 17.3). -/
def State.maxW (s : State) (first n : Nat) : Nat :=
  ((List.range n).map fun i => (s.wearAt (first + i)).composite).foldl max 0

/-- The wear summary now (Table 17.3). -/
def State.summaryNow (s : State) : List Byte :=
  let us := List.range 2176
  let retired := (us.filter fun u => (s.wearAt u).st == 2).length
  let spares := (us.filter fun u => (s.wearAt u).st == 1).length
  natLe s.wear.seq 8 ++ natLe s.power.h 8 ++ natLe s.power.targetH 4 ++ natLe s.power.accrued 8 ++ natLe (s.spent % 2 ^ 64).toNat 8
    ++ natLe s.power.reserve 8 ++ natLe (s.maxW 0 2176) 8 ++ natLe (s.maxW 2176 2176) 8 ++ natLe (s.maxW 4352 8) 8
    ++ natLe (s.maxW 4360 12) 8 ++ natLe retired 4 ++ natLe spares 4 ++ natLe s.wear.reverts 4
    ++ natLe s.wear.targetChanges 4 ++ zeros 36

/-- WEAR_COMMIT: every second, every live record goes to MRAM, in one step per unit (R388); the summary follows the last. -/
def execWearCommit (s : State) : Result :=
  match s.wear.commit with
  | none =>
    if s.ns % 1000000000 != 0 || s.wear.began == some s.ns then .next s
    else
      let now := s.ns
      let s := s.commitUnit 0
      .next { s with wear := { s.wear with commit := some 1, began := some now } }
  | some u =>
    let s := s.commitUnit u
    if u + 1 < wearUnits then .next { s with wear := { s.wear with commit := some (u + 1) } }
    else
      let s := { s with wear := { s.wear with commit := none, seq := s.wear.seq + 1 } }
      .next { s with wear := { s.wear with summary := s.summaryNow } }

/-- POWER_LOSS: the records revert to the last commit. -/
def execPowerLoss (s : State) : Result := .next { s with wear := s.wear.revert }

/-- CALIBRATION_FACTOR_SET: factors from 2,048 to 8,192, which take effect at the next tick (R389). -/
def execCalibrationFactorSet (unit : Nat) (cB cH cE : BitVec 16) (s : State) : Result :=
  let ok := fun (c : BitVec 16) => 2048 ≤ c.toNat && c.toNat ≤ 8192
  if !(ok cB && ok cH && ok cE) then .next s
  else .next (s.updWear unit fun w => { w with cal := some (cB.toNat, cH.toNat, cE.toNat) })

/-! ## Retirement (R370, R390, R2) -/

/-- A core holds nothing that a team left behind: no access, copy or operation still under way, and no request of another. -/
def Core.settled (k : Core) : Bool := k.queue.isEmpty && k.copies.isEmpty && k.ops.isEmpty && k.remote.isEmpty

/-- CORE_RETIRE: a quiesced and gated core is replaced by a cold spare, which takes its logical index; it waits for what the
core's ended teams left under way, which still lands (R107, R152). What the registers of the index then hold is open; they take
their reset values (log entry 43). -/
def execCoreRetire (core spare : Nat) (s : State) : Result :=
  let k := s.core core
  let c := clusterOf core
  if !(k.quiescing && k.gated && k.teams.isEmpty && k.settled && (s.cluster c).spares.contains spare) then .next s
  else
    let out := fun (w : Wear) => { w with st := 2, logical := none }
    let called := fun (w : Wear) => { w with st := 0, logical := some (core % 256) }
    let s := (s.updWear (coreUnit c k.phys) out).updWear (engineUnit c k.phys) out
    let s := (s.updWear (coreUnit c spare) called).updWear (engineUnit c spare) called
    let s := s.updCluster c fun x => { x with spares := x.spares.filter (· != spare) }
    let s := (s.l1WBINV core).updL1 core fun l => { l with pins := [] }
    .next (s.setCore core (Core.reset spare))

end Sys2Proof.Machine
end

