-- ==== Sys2Proof/Machine/Host.lean ====
section
/-! DEFINITION. Requests from outside: of the host to device memory (18 R411, R413, 17 R404, R407, 03 R78), of the two firmwares
(01 R29, R30), of a peer to the export window (01 R22 to R24), and the background reads and removals of memory (02 R33, R54). -/

namespace Sys2Proof.Machine

/-! ## What holds a request back -/

/-- A posted write of the host; one by CXL.mem is none (R109, R135). -/
def Instr.hostWrite : Instr → Bool
  | .hostAccess r => r.write.isSome && (r.window == .aperture || r.window == .arrived)
  | .hostRegisterAccess _ _ _ _ w => w.isSome
  | .registerWrite .host _ _ _ | .lqDoorbell _ _ | .lqCfgWrite _ _ => true
  | _ => false

/-- A request joins those that wait for a page. -/
def State.waitBehind (s : State) (page : Nat) (i : Instr) : State :=
  { s with mem := { s.mem with waiters := s.mem.waiters ++ [(page, i)] } }

/-- A request is held during a change of the L2 mode (R78). -/
def State.holdL2 (s : State) (i : Instr) : State :=
  { s with mgmt := { s.mgmt with l2Held := s.mgmt.l2Held ++ [i] } }

/-- A request stays behind a combining window (R134, R136). -/
def State.holdWindow (s : State) (i : Instr) : State := s.setFabric fun b => { b with behind := b.behind ++ [i] }

/-- A request is held by a stalled stream (R407). -/
def State.holdStream (s : State) (stream : Nat) (i : Instr) : State := s.updStream stream fun x => { x with held := x.held ++ [i] }

/-- The 64 B blocks of a request of the host link that has its device physical address: the first, and how many. -/
def Instr.hostBlocks : Instr → Option (Nat × Nat)
  | .hostAccess r =>
    if r.window == .arrived || r.window == .arrivedCxl then
      some (r.offset / 64, (r.offset % 64 + (r.write.map (·.length)).getD r.count + 63) / 64)
    else none
  | _ => none

/-- A request of the host stays behind an earlier one: a posted write behind a posted write (R135), and any behind one to its
block (R134). -/
def Instr.behindHost (i j : Instr) : Bool :=
  (Instr.hostWrite i && Instr.hostWrite j) ||
    match Instr.hostBlocks i, Instr.hostBlocks j with
    | some a, some b => a.1 < b.1 + b.2 && b.1 < a.1 + a.2
    | _, _ => false

/-- A request of the host joins an earlier one that it stays behind and that waits inside the module: for a sweep, for the L2,
behind a window or before a stalled stream (R134, R135). -/
def State.joinHost (s : State) (i : Instr) : Option State :=
  match s.mem.waiters.find? fun w => Instr.behindHost i w.2 with
  | some w => some (s.waitBehind w.1 i)
  | none =>
    if s.mgmt.l2Held.any (Instr.behindHost i) then some (s.holdL2 i)
    else if s.fabric.behind.any (Instr.behindHost i) then some (s.holdWindow i)
    else
      match s.trust.ide.find? fun x => x.2.held.any (Instr.behindHost i) with
      | some x => some (s.holdStream x.1 i)
      | none => none

/-- The first page of a range that a write must sweep. -/
def State.pendingPage (s : State) (pa n : Nat) : Option Nat :=
  ((List.range ((pa + n - 1) / 65536 - pa / 65536 + 1)).map (· + pa / 65536)).find? fun p => s.scrubPending (p * 65536)

/-! ## Host access to memory (R411) -/

/-- The device physical address that a request names as it arrives. -/
def State.hostPa (s : State) (r : HostReq) : Nat :=
  match r.window with
  | .aperture => s.mgmt.aper * 2 ^ 34 + r.offset
  | .cxlFar => farFirst + r.offset
  | .cxlNear | .arrived | .arrivedCxl | .service | .root => r.offset

/-- The length of a request. -/
def hostLen (r : HostReq) : Nat := (r.write.map (·.length)).getD r.count

/-- The request lies inside its window: the aperture's 16 GiB, or what HDM decoder 0 or 1 exposes (R411). -/
def State.inWindow (s : State) (r : HostReq) : Bool :=
  let pa := s.hostPa r
  let both := fun (k : PaKind) => s.mem.kind pa == k && s.mem.kind (pa + hostLen r - 1) == k
  match r.window with
  | .aperture => r.offset + hostLen r ≤ 2 ^ 34
  | .cxlNear => both .near
  | .cxlFar => both .far
  | .arrived | .arrivedCxl | .service | .root => true

/-- The request with its device physical address, which later writes of APER_BASE leave as it is (R411). -/
def State.arrived (s : State) (r : HostReq) : HostReq :=
  { r with window := if r.window == .cxlNear || r.window == .cxlFar || r.window == .arrivedCxl then .arrivedCxl else .arrived,
           offset := s.hostPa r }

/-- A byte lies in a shared range (R404). -/
def State.isShared (s : State) (pa : Nat) : Bool :=
  s.trust.shr.any fun c => c.2.1 * 65536 ≤ pa && pa < (c.2.1 + c.2.2) * 65536

/-- In confidential mode the host and the service firmware reach shared ranges only (R30). -/
def State.hostAllowed (s : State) (pa n : Nat) : Bool := !s.trust.mode || (List.range n).all fun i => s.isShared (pa + i)

/-- A request that reads zero, or drops its write. -/
def State.hostNothing (s : State) (r : HostReq) : State :=
  if r.write.isSome then s else s.send (.data (List.replicate r.count 0))

/-- A request takes effect at H (R109, R110); a write to a page whose scrub-pending bit is set waits for its sweep (R46), and what
goes to the expansion link is held while its stream has stalled (R407). -/
def State.hostAct (s : State) (r : HostReq) : State :=
  let pa := r.offset
  let i := Instr.hostAccess { r with inside := true }
  if s.linkHolds (.mem pa) then s.holdStream expStream i
  else
    match r.write with
    | some bs =>
      match s.pendingPage pa (hostLen r) with
      | some page => s.waitSweep page i
      | none => s.hWrite .unowned 0 pa bs
    | none =>
      let (s, bs) := s.hRead .unowned 0 pa r.count
      s.send (.data bs)

/-- A request of the host, with its device physical address, is performed: outside memory HL_ERR counts it (R411), and in
confidential mode it reaches shared ranges only (R30). The spec does not say what an aperture request finds in the device-register
region or in the host-system window; the model takes it as one that lands in a hole (log entry 83). -/
def State.hostPerform (s : State) (r : HostReq) : State :=
  let pa := r.offset
  if hostLen r = 0 then s.hostNothing r
  else if !(s.mem.isMem pa && s.mem.isMem (pa + hostLen r - 1)) then
    ({ s with mgmt := { s.mgmt with hlErr := satInc 32 s.mgmt.hlErr } }).hostNothing r
  else if !s.hostAllowed pa (hostLen r) then s.hostNothing r
  else s.hostAct r

/-- The path of a request that enters X0 by the host link (port 20) or from the management cores (port 21) (Table 6.2). -/
def State.x0Path (s : State) (port pa : Nat) : List (Nat × Nat) :=
  if s.mem.isMem pa then pathFromExchange 0 port (s.homeDie 0 pa) else []

/-- A request past the link: it keeps behind an earlier posted write that waits (R135), is held during a change of the L2 mode
(R78), and stays behind a window that holds a request of its port to its block (R136). -/
def State.hostInside (s : State) (r : HostReq) : State :=
  let i := Instr.hostAccess { r with inside := true }
  match s.joinHost i with
  | some t => t
  | none =>
    if s.mgmt.l2Busy then s.holdL2 i
    else if s.fabric.windowHolds (s.x0Path 20 r.offset) (.dev r.offset) then s.holdWindow i
    else s.hostPerform r

/-! ## The firmwares' own accesses (R29, R30; log entry 67) -/

/-- The bytes that a firmware's read of an address with no memory gives: the spec states none (log entry 7). -/
def State.noBytes (s : State) (pa n : Nat) : List Byte :=
  (List.range n).map fun i => BitVec.ofNat 8 (Config.unstated s.stamp (pa + i)).toNat

/-- An access of the service or the root firmware by device physical address: to device memory, of which the service firmware
reaches shared ranges only in confidential mode, and to host memory. -/
def State.firmwareAccess (s : State) (r : HostReq) : State :=
  let pa := r.offset
  let n := hostLen r
  let i := Instr.hostAccess { r with inside := true }
  if n = 0 then s.hostNothing r
  else if s.mem.isMem pa && s.mem.isMem (pa + n - 1) then
    if r.window == .service && !s.hostAllowed pa n then s.hostNothing r
    else if s.mgmt.l2Busy then s.holdL2 i
    else if s.fabric.windowHolds (s.x0Path 21 pa) (.dev pa) then s.holdWindow i
    else s.hostAct r
  else if s.mem.kind pa == .host then
    match r.write with
    | some bs => s.hostPut .unowned (pa - hostFirst) bs
    | none =>
      let (s, bs) := s.hostAsk .unowned (pa - hostFirst) r.count
      s.send (.data bs)
  else if r.write.isSome then s else s.send (.data (s.noBytes pa r.count))

/-! ## IDE streams (R407) -/

/-- A request of a failed stream ends as lost (R139, R407). -/
def State.hostLost (s : State) (r : HostReq) : State := (s.hostNothing r).chargeLoss .unowned (dieOf r.offset)

/-- A request passes the link by its stream (R404, R407). Stream 0 is traffic without IDE, which confidential mode does not admit;
another carries traffic once it has a key. -/
def State.byStream (s : State) (r : HostReq) : State :=
  let x := s.stream r.stream
  if r.stream = 0 then (if s.trust.mode then s.hostNothing r else s.hostInside r)
  else if !x.keyed then s.hostNothing r
  else if x.fail then s.hostLost r
  else if x.stall.isSome then s.holdStream r.stream (.hostAccess r)
  else (s.useVector r.stream).hostInside r

/-- HOST_ACCESS: READY (R419), the window, the stream, then memory. -/
def execHostAccess (r : HostReq) (s : State) : Result :=
  .next (match r.window with
    | .service | .root => s.firmwareAccess r
    | _ =>
      if r.inside then s.hostInside r
      else if !s.mgmt.ready || !s.inWindow r then s.hostNothing r
      else s.byStream (s.arrived r))

/-! ## Peers (R22 to R24) -/

/-- The bytes and the access of a peer's request. -/
def peerAct (k : PeerKind) : Act :=
  match k with
  | .load n => .load n
  | .store d => .store d
  | .faa w a => .faa w a
  | .atom op ty b => .atom op ty b
  | .cas w c x => .cas w c x

def peerNeed (k : PeerKind) : Need :=
  match k with
  | .load _ => .load
  | .store _ => .store
  | _ => .atomic

/-- The exchange die of an optical port. -/
def portDie (port : Nat) : Nat := if port < 6 then 0 else 1

/-- A refusal at the exporter: counted, and returned to the requester as a code of Table 15.1. -/
def State.refusePeer (s : State) (r : PeerReq) (code : Nat) : State :=
  (s.countRefused (portDie r.port) 1).send (.refused code)

/-- The reply of a request that was performed: a load's bytes, or an atomic's old value. -/
def State.peerReply (s : State) (a : Act) (x : Nat) : State :=
  if a.reads then s.send (.data (natLe x a.size)) else s

/-- A request of a kind stands in a switch or before its destination: as itself, or in the request of a record, which may stand in
another record, through at most n records. -/
def Fabric.underWay (b : Fabric) : Nat → (FabReq → Bool) → Bool
  | 0, _ => false
  | n + 1, p => b.reqs.any p ||
      b.recs.any fun c => c.reqs.any p && (c.isOpen || b.underWay n fun q => q.record == some (c.sw, c.id))

/-- A request that is no fetch-and-add stays behind a fetch-and-add of its source pair to its block (R134), and behind a window on
its way (R136). -/
def State.behindPeer (s : State) (r : PeerReq) (h : PeerHome) : Bool :=
  let p := Place.dev h.pa
  (s.fabric.underWay 4 fun q => q.peer == some (r.peer, r.core) && q.block == p.block) ||
    s.fabric.windowHolds (pathFromExchange (portDie r.port) (8 + r.port) (s.homeDie h.ch h.pa)) p

/-- Any request stays behind one to its block that does (R136). -/
def Fabric.holdsBlock (b : Fabric) (pa : Nat) : Bool :=
  b.behind.any fun i => match i with
    | .peerRequest q => q.home.any fun h => h.pa / 64 == pa / 64
    | .hostAccess q => q.offset / 64 == pa / 64
    | _ => false

/-- A request of the same source pair that waits: the page of its sweep. -/
def State.peerWaits (s : State) (r : PeerReq) : Option Nat :=
  (s.mem.waiters.find? fun w => match w.2 with
    | .peerRequest q => q.peer == r.peer && q.core == r.core
    | _ => false).map (·.1)

/-- A fetch-and-add of a peer goes to the exchange switch where it entered (R133). -/
def State.sendPeer (s : State) (r : PeerReq) (h : PeerHome) (w : Bool) (add : DWord) : State :=
  let (id, s) := s.name
  let x := portDie r.port
  let q : FabReq :=
    { id := id, origin := none, peer := some (r.peer, r.core), record := none, ctx := none, page := some (h.ctx, h.vpn),
      leaves := [], ch := h.ch, sw := some (8 + x), port := 8 + r.port,
      path := (pathFromExchange x (8 + r.port) (s.homeDie h.ch h.pa)).drop 1, place := .dev h.pa, w64 := w, addend := add,
      heldBy := none }
  s.setFabric fun b => { b with reqs := b.reqs ++ [q] }

/-- The host leaves a request of a peer without its completion (R413; log entry 73). -/
def State.silentTo (s : State) : Spot → Bool
  | .host a => Config.hostSilent s.stamp a
  | _ => false

/-- A request that is performed at H, in host memory where the window leads there. -/
def State.peerPerform (s : State) (r : PeerReq) (h : PeerHome) : State :=
  let p := s.mem.spotAt h.pa
  if s.linkHolds p then
    s.holdStream ((match p with
      | .host _ => s.hostStream
      | _ => none).getD expStream) (.peerRequest r)
  else if s.silentTo p then (s.hostError .unowned).peerReply (peerAct r.kind) 0
  else
    match s.actAt .unowned h.ch (peerAct r.kind) p with
    | (s, .error page) => s.waitSweep page (.peerRequest r)
    | (s, .ok v) => s.peerReply (peerAct r.kind) v

/-- An accepted request is under way: to a switch, or to its destination. -/
def State.peerAt (s : State) (r : PeerReq) (h : PeerHome) : State :=
  if s.fabric.holdsBlock h.pa then s.holdWindow (.peerRequest r)
  else
    match r.kind, s.mem.isMem h.pa with
    | .faa w add, true => s.sendPeer r h w add
    | _, _ => if s.behindPeer r h then s.holdWindow (.peerRequest r) else s.peerPerform r h

/-- An accepted request proceeds: behind a request of its source that waits, and not during a change of the L2 mode (R78). -/
def State.peerGo (s : State) (r : PeerReq) (h : PeerHome) : State :=
  match s.peerWaits r with
  | some page => s.waitBehind page (.peerRequest r)
  | none => if s.mgmt.l2Busy then s.holdL2 (.peerRequest r) else s.peerAt r h

/-- The acceptance of a request: limits, translation and permission in the export window, as EXP_BASE, EXP_SIZE and EXP_CTL stand
when it arrives (R22 to R24). -/
def State.acceptPeer (s : State) (r : PeerReq) : State × Except Nat PeerHome :=
  if s.fabric.expSize * 65536 < r.woff + (peerAct r.kind).size then (s, .error 0x02)
  else if !s.fabric.wrEn && peerNeed r.kind != .load then (s, .error 0x02)
  else
    match s.exportAt .unowned r.woff (peerNeed r.kind) with
    | (s, .error (code, _)) => (s, .error code)
    | (s, .ok (pa, ch)) => (s, .ok ⟨pa, ch, s.fabric.expCtx, (s.fabric.expBase + r.woff) / 65536⟩)

/-- PEER_REQUEST: a request arrives, or one that waited goes on with what its acceptance found. -/
def execPeerRequest (r : PeerReq) (s : State) : Result :=
  .next (match r.home with
    | some h => s.peerGo r h
    | none =>
      match s.acceptPeer r with
      | (s, .error code) => s.refusePeer r code
      | (s, .ok h) => s.peerGo { r with home := some h } h)

/-! ## The end of a stall (R407) -/

/-- The steps of the module that stand before a stalled stream with nothing else to hold them: of items, of copies, and of requests
that have left the switches. -/
def State.heldByLink (s : State) : List Instr :=
  (s.cores.flatMap fun c =>
    ((c.2.queue.filter fun i => !i.act.isPoint && s.linkHolds (s.spot c.1 i)).map fun i => Instr.accessPerform c.1 i.id) ++
      c.2.copies.flatMap fun x => (x.2.waiting fun _ => true).map fun u =>
        if (x.2.state u.1).data.isSome then Instr.cwrite c.1 x.1 u.1 else .cread c.1 x.1 u.1) ++
    (s.fabric.reqs.filter fun q => q.sw.isNone && (match q.place with
      | .dev pa => s.linkHolds (.mem pa)
      | _ => false)).map fun q => Instr.accessPerform 0 q.id

/-- One second has passed since the stall of a stream, with no key. -/
def State.stallOver (s : State) (stream : Nat) : Bool :=
  !(s.stream stream).fail && (s.stream stream).stall.any fun t => t + 1000000000 ≤ s.ns

/-- A stream fails once 1 s has passed since its stall with no key: what it held goes on next, and ends as lost. -/
def State.stallEnds (s : State) (stream : Nat) : State :=
  if s.stallOver stream then
    let next := ((s.stream stream).held ++ s.heldByLink).map Turn.again
    let u := (s.updStream stream fun x => { x with fail := true, held := [] }).msi 82
    { u with agenda := next ++ u.agenda }
  else s

/-- IDE_STALL_TIMEOUT. -/
def execIdeStallTimeout (stream : Nat) (s : State) : Result := .next (s.stallEnds stream)

/-- A stream takes a new key by step i: the counter restarts, FAIL clears, and what is held proceeds in order. A key that comes
later than 1 s after the stall comes behind the loss of what was held. -/
def State.keyStream (s : State) (stream : Nat) (i : Instr) : State :=
  if s.stallOver stream then ({ s with agenda := .again i :: s.agenda }).stallEnds stream
  else
    let held := (s.stream stream).held.map Turn.again
    let s := s.updStream stream fun _ => { Ide.reset with keyed := true }
    { s with agenda := held ++ s.agenda }

/-! ## Background events of memory -/

/-- EXPANSION_HOT_REMOVE (R33): a device leaves; its range is no memory any more. -/
def execExpansionHotRemove (device : Nat) (s : State) : Result :=
  if device < s.mem.expDevs.length && !s.mem.removed.contains device then
    .next { s with mem := { s.mem with removed := device :: s.mem.removed } }
  else .next s

/-- PATROL_READ (R54): a controller reads a sector; an uncorrectable error is charged to UE_UNOWNED. -/
def execPatrolRead (sector : Nat) (s : State) : Result :=
  .next (if s.mem.isMem (sector * 64) then s.findError .unowned sector else s)

end Sys2Proof.Machine
end

