-- ==== Sys2Proof/Machine/Lanes.lean ====
section
/-! DEFINITION. Lane operations (11 R262 to R268): they combine the lanes that issue together, within tiles. -/

namespace Sys2Proof.Machine

/-- Base of a lane's tile; the lanes that perform the instruction (R212); a lane's participants (R262). -/
def State.tileBase (s : State) (l : Nat) : Nat := l / s.tileWidth * s.tileWidth
def State.performing (s : State) (flag : FlagSel) : List Nat := s.issLanes.filter fun m => !(s.issLane m).flagFull flag
def State.participants (s : State) (flag : FlagSel) (l : Nat) : List Nat :=
  (s.performing flag).filter fun m => s.tileBase m == s.tileBase l

/-! ## shfl (R264) -/

/-- The tile position that a lane reads. -/
def shflSource (mode : ShflMode) (i b : Nat) : Int :=
  match mode with
  | .idx => b
  | .up => (i : Int) - b
  | .down => (i : Int) + b
  | .xor => (i ^^^ b : Nat)

/-- The lane whose value lane l takes, and whether it is a valid source. -/
def State.shflLane (s : State) (flag : FlagSel) (mode : ShflMode) (l b : Nat) : Nat × Bool :=
  let base := s.tileBase l
  let p := shflSource mode (l - base) b
  let m := base + p.toNat
  if 0 ≤ p && p < s.tileWidth && (s.performing flag).contains m then (m, true) else (l, false)

/-- shfl. Each reading lane reads its source lane's operand for itself (R262). -/
def execShfl (h : VHead) (mode : ShflMode) (w64 : Bool) (gv : BitVec 3) (a b : Src) (s : State) : Result :=
  let n := wRegs w64
  let from_ := fun l => s.shflLane h.flag mode l (s.src32 1 l b).toNat
  .next (s.orFault [s.regForm n h.dst [(n, a), (1, b)]]
    (s.runLanes h.flag fun l x =>
      let v := s.src64 (16 + l) (from_ l).1 a
      let v32 := s.src32 (16 + l) (from_ l).1 a
      let x := if w64 then (x.setReg h.dst.toNat (lowWord v)).setReg (h.dst.toNat + 1) (highWord v)
        else x.setReg h.dst.toNat v32
      if gv.toNat = 7 then x else x.setGuard gv.toNat (from_ l).2))

/-! ## vote and match (R265, R266) -/

/-- vote. -/
def execVote (h : VHead) (mode : VoteMode) (ga : Pred) (s : State) : Result :=
  let g := fun m => (s.issLane m).pred ga
  let ps := s.participants h.flag
  match mode with
  | .all => .next (s.orFault [s.guardForm h.dst []] (s.putGuard h.flag h.dst fun l => (ps l).all g))
  | .any => .next (s.orFault [s.guardForm h.dst []] (s.putGuard h.flag h.dst fun l => (ps l).any g))
  | .uni =>
    .next (s.orFault [s.guardForm h.dst []] (s.putGuard h.flag h.dst fun l => (ps l).all g || !(ps l).any g))
  | .ballot =>
    .next (s.orFault [s.regForm 1 h.dst []] (s.put32 h.flag h.dst fun l => maskOf ((ps l).filter g)))

/-- match: each participant's own bits against those it reads of the others. -/
def execMatchLanes (h : VHead) (w64 : Bool) (a : Src) (s : State) : Result :=
  .next (s.orFault [s.regForm 1 h.dst [(wRegs w64, a)]]
    (s.put32 h.flag h.dst fun l =>
      maskOf ((s.participants h.flag l).filter fun m => s.srcW w64 (16 + l) m a == s.srcW w64 (16 + l) l a)))

/-! ## red and scan (R267, R268) -/

/-- Width of a type in bits. -/
def redBits : RedTy → Nat
  | .i32 | .n32 | .f32 => 32
  | .i64 | .n64 => 64
  | .f16 | .bf16 => 16

def redWide (t : RedTy) : Bool := redBits t == 64

/-- The float type, of a float reduction. -/
def redFloat : RedTy → Option FTy
  | .f32 => some .f32
  | .f16 => some .f16
  | .bf16 => some .bf16
  | _ => none

def redUnsigned : RedTy → Bool
  | .n32 | .n64 => true
  | _ => false

/-- One operation of the reduction on codes. -/
def redOp (op : RedOp) (ty : RedTy) (mode : Rnd) (ftz : Bool) (a b : Nat) : Nat :=
  match redFloat ty with
  | some f =>
    match op with
    | .min => fminBits f ftz a b
    | .max => fmaxBits f ftz a b
    | _ => faddBits f mode ftz a b
  | none =>
    let w := redBits ty
    match op with
    | .add => (a + b) % 2 ^ w
    | .min => intMin w (redUnsigned ty) a b
    | .max => intMax w (redUnsigned ty) a b
    | .and => a &&& b
    | .or => a ||| b
    | .xor => a ^^^ b

/-- A value as a reduction reads it. -/
def redRead (ty : RedTy) (ftz : Bool) (x : Nat) : Nat :=
  match redFloat ty with
  | some f => flushCode f ftz x
  | none => x

/-- tree(lo, 2^k) with absent lanes (R267). -/
def redTree (f : Nat → Nat → Nat) (v : Nat → Option Nat) : Nat → Nat → Option Nat
  | 0, lo => v lo
  | k + 1, lo =>
    match redTree f v k lo, redTree f v k (lo + 2 ^ k) with
    | none, y => y
    | x, none => x
    | some x, some y => some (f x y)

/-- The value that lane m contributes to lane l's result. -/
def State.redVal (s : State) (flag : FlagSel) (ty : RedTy) (a : Src) (l m : Nat) : Option Nat :=
  if (s.performing flag).contains m then some (redRead ty s.ftz (s.srcW (redWide ty) (16 + l) m a)) else none

/-- red (R267). -/
def execRed (h : VHead) (op : RedOp) (ty : RedTy) (rnd : Rnd) (a : Src) (s : State) : Result :=
  let w := redWide ty
  let v := fun l => (redTree (redOp op ty rnd s.ftz) (s.redVal h.flag ty a l) (Nat.log2 s.tileWidth) (s.tileBase l)).getD 0
  .next (s.orFault [s.regForm (wRegs w) h.dst [(wRegs w, a)]] (s.putW h.flag w h.dst v))

/-- identity(op, type) (R268). -/
def redIdentity (op : RedOp) (ty : RedTy) : Nat :=
  match redFloat ty with
  | some f =>
    let g := ftyFmt f
    match op with
    | .min => g.top + 1
    | .max => g.signBit true + g.top + 1
    | _ => g.signBit true
  | none =>
    let w := redBits ty
    match op with
    | .add | .or | .xor => 0
    | .and => 2 ^ w - 1
    | .min => if redUnsigned ty then 2 ^ w - 1 else 2 ^ (w - 1) - 1
    | .max => if redUnsigned ty then 0 else 2 ^ (w - 1)

/-- The left fold over the participants of a list of lanes, ascending. -/
def scanFold (f : Nat → Nat → Nat) (v : Nat → Option Nat) (ms : List Nat) : Option Nat :=
  ms.foldl (fun acc m =>
    match acc, v m with
    | acc, none => acc
    | none, some x => some x
    | some a, some x => some (f a x)) none

/-- scan (R268). -/
def execScan (h : VHead) (op : RedOp) (ty : RedTy) (rnd : Rnd) (excl : Bool) (a : Src) (s : State) : Result :=
  let w := redWide ty
  let v := fun l =>
    let n := l - s.tileBase l + (if excl then 0 else 1)
    (scanFold (redOp op ty rnd s.ftz) (s.redVal h.flag ty a l) ((List.range n).map (· + s.tileBase l))).getD
      (redIdentity op ty)
  .next (s.orFault [s.regForm (wRegs w) h.dst [(wRegs w, a)]] (s.putW h.flag w h.dst v))

/-! ## twset (R263) -/

/-- twset. -/
def execTwset (tw : BitVec 20) (s : State) : Result :=
  let n := (s.imm48 tw).toNat
  .next (s.orFault [s.illegal ([2, 4, 8, 16, 32].contains n)]
    (s.advance.updIssGroup fun y => { y with tw := n }))

end Sys2Proof.Machine
end

