-- ==== Sys2Proof/Machine/Trust.lean ====
section
/-! DEFINITION. The SPDM responder (17 R400 to R402), weight keys (R405) and shared ranges (R404). A reply is the SPDM
version, the response code and what the spec names of the response; its other bytes are not modelled (log entry 17). -/

namespace Sys2Proof.Machine

/-- A response stands in the DOE mailbox: it goes out, and vector 86 is signalled (R414). -/
def State.respond (s : State) (code : Nat) (payload : List Byte) : State :=
  (s.send (.spdm ([0x13, BitVec.ofNat 8 code] ++ payload))).msi 86

/-- A request before READY gets Request Retry Status (R419). -/
def State.spdm (s : State) (k : State) : State := if s.mgmt.ready then k else s.send .retry

/-- The ERROR response. -/
def State.spdmError (s : State) : State := s.respond 0x7F []

/-- The chain in effect of a slot, never a staged one (R402). -/
def State.chain (s : State) (slot : Nat) : Option (List Byte) :=
  if slot = 0 then some (Config.aliasChain (s.dice false) (s.dice true)) else tblFind s.trust.chains slot

/-- A session whose handshake FINISH has closed. -/
def State.inSession (s : State) (id : Nat) : Bool := s.trust.sessions.contains (id, true)

/-! ## Requests that are answered at once -/

/-- GET_VERSION: SPDM 1.3. -/
def execGetVersion (s : State) : Result := .next (s.spdm (s.respond 0x04 (natLe 0x1300 2)))

/-- GET_CAPABILITIES. -/
def execGetCapabilities (s : State) : Result := .next (s.spdm (s.respond 0x61 []))

/-- NEGOTIATE_ALGORITHMS: ECDSA P-384, SHA-384 and AES-256-GCM, as the SPDM standard codes them (log entry 17). -/
def execNegotiateAlgorithms (s : State) : Result :=
  .next (s.spdm (s.respond 0x63 (natLe 0x80 4 ++ natLe 0x2 4 ++ natLe 0x2 2)))

/-- GET_DIGESTS: of the chains in effect, slot 0 first. -/
def execGetDigests (s : State) : Result :=
  .next (s.spdm (s.respond 0x01 ((List.range 8).flatMap fun i => match s.chain i with
    | some c => sha384 c
    | none => [])))

/-- GET_CERTIFICATE. -/
def execGetCertificate (slot : Nat) (s : State) : Result :=
  .next (s.spdm (match s.chain slot with
    | some c => s.respond 0x02 c
    | none => s.spdmError))

/-! ## Sessions -/

/-- KEY_EXCHANGE: a session begins. -/
def execKeyExchange (session : Nat) (s : State) : Result :=
  let rest := s.trust.sessions.filter fun x => x.1 != session
  let t := { s with trust := { s.trust with sessions := (session, false) :: rest } }
  .next (s.spdm (t.respond 0x64 (Config.nonce s.stamp)))

/-- FINISH: the handshake of a session that has begun is closed. -/
def execFinish (session : Nat) (s : State) : Result :=
  let open_ := s.trust.sessions.contains (session, false)
  let done := s.trust.sessions.map fun (x : Nat × Bool) => if x.1 = session then (x.1, true) else x
  let t := { s with trust := { s.trust with sessions := done } }
  .next (s.spdm (if open_ then t.respond 0x65 [] else s.spdmError))

/-- END_SESSION. -/
def execEndSession (session : Nat) (s : State) : Result :=
  let t := { s with trust := { s.trust with sessions := s.trust.sessions.filter fun x => x.1 != session } }
  .next (s.spdm (if s.inSession session then t.respond 0x6C [] else s.spdmError))

/-! ## Measurements (Table 17.2) -/

/-- Measurement 5: MODE, and CONF_SHR0 to CONF_SHR7. -/
def State.confBytes (s : State) : List Byte :=
  natLe (if s.trust.mode then 1 else 0) 1 ++ (List.range 8).flatMap fun i =>
    let r := tblGet (0, 0) s.trust.shr i
    natLe (r.1 + r.2 * 2 ^ 36) 8

/-- A measurement in raw form. -/
def State.measurement (s : State) (i : Nat) : List Byte :=
  if i = 5 then s.confBytes
  else if i = 6 then (if s.wear.summary.isEmpty then s.summaryNow else s.wear.summary)
  else s.component i

/-- A measurement block: its index, and the digest or the raw bytes. -/
def State.measured (s : State) (i : Nat) (raw : Bool) : List Byte :=
  let m := s.measurement i
  natLe i 1 ++ (if raw then m else sha384 m)

/-! ## Signed requests (R402) -/

/-- The slot that a pending request names. -/
def SpdmReq.slot : SpdmReq → Nat
  | .challenge s _ => s
  | .measurements _ _ s => s

/-- A staged chain takes effect once no pending request names its slot. -/
def State.unstage (s : State) (slot : Nat) : State :=
  if s.trust.pending.any fun r => r.slot == slot then s
  else
    match tblFind s.trust.staged slot with
    | some c => { s with trust := { s.trust with chains := tblSet s.trust.chains slot c,
                                                 staged := tblDel s.trust.staged slot } }
    | none => s

/-- A signed response: the digest of the slot's chain, a nonce, the content, and the signature over all three. -/
def State.signed (s : State) (code slot : Nat) (content : List Byte) : State :=
  let body := sha384 ((s.chain slot).getD []) ++ Config.nonce s.stamp ++ content
  s.respond code (body ++ Config.signature (s.dice true) slot body)

/-- A signed request becomes pending when it arrives, and is completed by its second turn, with the chain in effect. Two of one
content are two requests: each has its own second turn, which is under way where one fewer than are pending is still to come (log
entry 43). -/
def State.signedRequest (s : State) (r : SpdmReq) (again : Instr) (content : State → List Byte) (code : Nat) : State :=
  if (s.chain r.slot).isNone then s.spdmError
  else if s.agenda.count (.again again) < s.trust.pending.count r then
    let t := { s with trust := { s.trust with pending := s.trust.pending.erase r } }
    (t.signed code r.slot (content t)).unstage r.slot
  else
    { s with trust := { s.trust with pending := s.trust.pending ++ [r] }, agenda := s.agenda ++ [.again again] }

/-- CHALLENGE. -/
def execChallenge (slot nonce : Nat) (s : State) : Result :=
  .next (s.spdm (s.signedRequest (.challenge slot nonce) (.challenge slot nonce) (fun _ => natLe nonce 32) 0x03))

/-- GET_MEASUREMENTS: of one index of Table 17.2, signed by a slot's key where the requester asks. -/
def execGetMeasurements (index : Nat) (raw : Bool) (signed : Option Nat) (s : State) : Result :=
  .next (s.spdm (
    if index = 0 || 6 < index then s.spdmError
    else
      match signed with
      | none => s.respond 0x60 (s.measured index raw)
      | some slot =>
        s.signedRequest (.measurements index raw slot) (.getMeasurements index raw signed)
          (fun t => t.measured index raw) 0x60))

/-- SET_CERTIFICATE: slots 1 to 7, inside a session; staged while a pending request names the slot. -/
def execSetCertificate (slot : Nat) (chain : List Byte) (session : Nat) (s : State) : Result :=
  let busy := s.trust.pending.any fun r => r.slot == slot
  let t := if busy then { s with trust := { s.trust with staged := tblSet s.trust.staged slot chain } }
    else { s with trust := { s.trust with chains := tblSet s.trust.chains slot chain } }
  .next (s.spdm (if s.inSession session && 1 ≤ slot && slot < 8 then t.respond 0x6E [] else s.spdmError))

/-! ## Requests of a session to the root firmware -/

/-- WEIGHT_KEY_INSTALL: a slot of a live context is written or cleared (R405, R406). -/
def execWeightKeyInstall (ctx : BitVec 16) (slot : BitVec 4) (key : Option KeyMaterial) (session : Nat) (s : State) : Result :=
  .next (if s.inSession session then
      s.updCtx ctx.toNat fun c => { c with keys := match key with
        | some k => tblSet c.keys slot.toNat ⟨k.keyId, k.key, k.digest⟩
        | none => tblDel c.keys slot.toNat }
    else s)

/-- IDE_KEY_PROGRAM: an IDE key-management message of a secure session (R400, R404, R407). -/
def execIdeKeyProgram (m : IdeKeyMsg) (s : State) : Result :=
  .next (if s.inSession m.session then s.keyStream m.stream (.ideKeyProgram m) else s)

/-- SHARED_RANGE_WRITE: the root firmware writes a range (R404). -/
def execSharedRangeWrite (i : Nat) (v : DWord) (session : Nat) (s : State) : Result :=
  .next (if s.inSession session && i < 8 then
      { s with trust := { s.trust with shr := tblSet s.trust.shr i (field v.toNat 35 0, field v.toNat 63 36) } }
    else s)

end Sys2Proof.Machine
end

