-- ==== Sys2Proof/Machine/Reset.lean ====
section
/-! DEFINITION. Full resets and bring-up (18 R418, R419, 17 R403, 02 R48). -/

namespace Sys2Proof.Machine

/-- The root firmware's part of bring-up on CONF_CTL and the keys: MODE takes REQ, the tier keys are destroyed, and new ones are
drawn when MODE is 1 (R403); the components are measured (R399). What lies in MRAM stays: certificate slots 1 to 7, with a chain
that was staged, and the seal sequence. -/
def Trust.restart (t : Trust) : Trust :=
  { mode := t.req, req := t.req, shr := [], tierKeys := if t.req then some (t.drawn + 1) else none,
    drawn := if t.req then t.drawn + 1 else t.drawn, images := t.images, measured := t.images,
    chains := t.staged.foldl (fun m c => tblSet m c.1 c.2) t.chains, staged := [], pending := [], sessions := [], ide := [],
    sealSeq := t.sealSeq }

/-- A core after a reset: its logical index stays with the physical core that holds it (R2). A rest that the reset cut short ends
at the next tick (R391, R392). -/
def Core.restart (k : Core) : Core := { Core.reset k.phys with rest := k.rest }

/-- A request that is outstanding in the agenda: it is discarded (R418). -/
def Turn.outstanding : Turn → Bool
  | .again _ => true
  | _ => false

/-- A FULL RESET (R418, R403, R48): every work is discarded, every scrub-pending bit is set, and the wear records are
restored. What lies outside the module, in MRAM and in fuses stays. -/
def State.fullReset (s : State) : State :=
  let z := State.reset
  { z with
    ns := s.ns
    agenda := s.agenda.filter fun t => !t.outstanding
    fresh := s.fresh
    stamp := s.stamp
    cores := tblMap (fun _ => Core.restart) s.cores
    clusters := tblMap (fun _ c => { Cluster.reset with spares := c.spares }) s.clusters
    mem := { z.mem with expSize := s.mem.expSize, expDevs := s.mem.expDevs, removed := s.mem.removed, host := s.mem.host,
                        grants := s.mem.grants, peers := s.mem.peers }
    power := { z.power with aTotal := s.power.aTotal, h := s.power.h, tickAt := s.power.tickAt }
    wear := s.wear.restore
    trust := s.trust.restart
    ctxs := { z.ctxs with created := s.ctxs.created }
    link := { z.link with sent := s.link.sent } }

/-- FULL_RESET: PERST#, a hot reset or a Function Level Reset. -/
def execFullReset (_cause : ResetCause) (s : State) : Result := .next s.fullReset

/-- DEV_CTL_RESET: a write of DEV_CTL. -/
def execDevCtlReset (v : DWord) (s : State) : Result := .next (if v.getLsbD 0 then s.fullReset else s)

/-- BRINGUP_READY: the service firmware sets READY. -/
def execBringupReady (s : State) : Result := .next { s with mgmt := { s.mgmt with ready := true } }

end Sys2Proof.Machine
end

