-- ==== Sys2Proof/Machine/Regs.lean ====
section
/-! DEFINITION. The service registers: what each reads (tables of 01, 02, 03, 06, 14 to 18), what a write does under its
access codes (00 R6), and the commands they start: invalidations (02 R42), scrub (02 R47), the L2 mode (03 R78), contexts
(15 R372), launch queues (14 R334, R335). A register is named, and `index` names its instance (log entry 9). -/

namespace Sys2Proof.Machine

/-! ## Translation invalidation (R42) -/

/-- What a command covers: a page, a context, or everything. -/
inductive Cover where
  | page (ctx va : Nat)
  | ctx (c : Nat)
  | all
  deriving DecidableEq, Repr

/-- An entry of a context for the bytes from va to va + n − 1 is covered. -/
def Cover.hits (c : Cover) (ctx va n : Nat) : Bool :=
  match c with
  | .page k a => k == ctx && va ≤ a && a < va + n
  | .ctx k => k == ctx
  | .all => true

/-- The 512 MiB that hold a page: what a pointer entry or a larger leaf that served it may cover. -/
def Cover.hitsPage (c : Cover) (ctx vpn : Nat) : Bool := c.hits ctx (vpn / 8192 * 2 ^ 29) (2 ^ 29)

def Cover.keeps (c : Cover) (e : Tlb) : Bool := !c.hits e.ctx e.va (if e.big then 2 ^ 29 else 65536)

/-- Drop the covered entries of every TLB, and the walks' results: their lanes are walked again. An instruction line that a core
keeps was fetched by an entry, and goes with it: a later fetch is translated and checked again (R13, R200). -/
def State.dropEntries (s : State) (c : Cover) : State :=
  let core := fun (_ : Nat) (k : Core) =>
    { k with tlb := k.tlb.filter c.keeps, walkFaults := k.walkFaults.filter fun f => !c.hitsPage f.ctx f.vpn
             icache := k.icache.filter fun x => !c.hitsPage (x.1 / 2 ^ 51) (x.1 % 2 ^ 51 / 1024) }
  let cluster := fun (_ : Nat) (k : Cluster) =>
    { k with tlb := k.tlb.filter c.keeps
             ptrs := k.ptrs.filter fun p => !c.hits p.ctx p.va (if p.level = 1 then 2 ^ 42 else 2 ^ 29) }
  { s with cores := tblMap core s.cores, clusters := tblMap cluster s.clusters }

/-- A command may cover an access of a context, whatever its page. -/
def Cover.touches (c : Cover) (ctx : Nat) : Bool :=
  match c with
  | .page k _ | .ctx k => k == ctx
  | .all => true

/-- An access may use a covered entry: by its page, and in the module's own window whatever its page was (R20, R22, R25). -/
def Cover.hitsItem (c : Cover) (i : Item) : Bool :=
  !i.act.isPoint && (match i.place with
    | .dev _ | .host _ => c.hitsPage i.ctx i.vpn
    | .peer _ _ (some _) => true
    | _ => false)

/-- The accesses of the cores' queues that may use a covered entry. -/
def State.itemsUnder (s : State) (c : Cover) : List (Nat × Nat) :=
  s.cores.flatMap fun k => (k.2.queue.filter c.hitsItem).map fun i => (k.1, i.id)

/-- The sectors where a store that used a covered entry stands or will stand in an L1: its way to the L2 or memory is awaited. A
sector that is dirty knows the contexts of its stores. -/
def State.dirtyUnder (s : State) (c : Cover) : List (Nat × Nat) :=
  (s.l1.flatMap fun x => (x.2.sectors.filter fun k => k.2.dm != 0 && k.2.by_.any c.touches).map fun k => (x.1, k.1)) ++
    s.cores.flatMap fun k => (k.2.queue.filter c.hitsItem).filterMap fun i => match i.place with
      | .dev pa => if i.act.writes then some (s.l1Of k.1, pa / 64) else none
      | _ => none

/-- The requests of peers that wait outside the fabric's switches: for a sweep, for the L2, behind a window, for a stream, or to go
on. -/
def State.heldPeers (s : State) : List PeerReq :=
  (s.mem.waiters.map (·.2) ++ s.mgmt.l2Held ++ s.fabric.behind ++ s.trust.ide.flatMap (·.2.held) ++
    s.agenda.filterMap fun t => match t with
      | .again i => some i
      | _ => none).filterMap fun i => match i with
    | .peerRequest r => some r
    | _ => none

/-- The fetch-and-adds of peers that stand in the fabric. -/
def Fabric.peerReqs (b : Fabric) : List FabReq := (b.reqs ++ b.recs.flatMap fun c => c.reqs).filter fun q => q.peer.isSome

/-- The engine operations that may use a covered entry: accepted ones, and with number 0 those latched. -/
def State.engineUnder (s : State) (c : Cover) : List (Nat × Nat) :=
  s.cores.flatMap fun k =>
    let e := k.2.engine
    let ops := (e.ops.filter fun o => c.touches (s.grid o.grid).ctx).map fun o => (k.1, o.id)
    if e.latch.isSome || !e.held.isEmpty then (k.1, 0) :: ops else ops

/-- GO of TLB_INV_CMD. -/
def State.tlbGo (s : State) (ctx scope : Nat) : State :=
  if s.mgmt.invBusy || scope = 3 then { s with mgmt := { s.mgmt with invErr := true } }
  else
    let c := if scope = 0 then Cover.page ctx s.mgmt.invVa else if scope = 1 then .ctx ctx else .all
    let m := { s.mgmt with invBusy := true, invItems := s.itemsUnder c, invOps := s.engineUnder c, invDirty := s.dirtyUnder c,
                           invReqs := (s.fabric.peerReqs.filter fun q => q.page.any fun x => c.hitsPage x.1 x.2).map (·.id),
                           invPeers := s.heldPeers.filter fun r => r.home.any fun h => c.hitsPage h.ctx h.vpn }
    ({ s with mgmt := m }).dropEntries c

/-- A command with its fields. -/
def State.tlbCommand (s : State) (ctx scope : Nat) : State :=
  ({ s with mgmt := { s.mgmt with invCtx := ctx, invScope := BitVec.ofNat 2 scope } }).tlbGo ctx scope

/-- TLB_INV_PAGE. -/
def execTlbInvPage (ctx : BitVec 16) (s : State) : Result := .next (s.tlbCommand ctx.toNat 0)
/-- TLB_INV_CTX. -/
def execTlbInvCtx (ctx : BitVec 16) (s : State) : Result := .next (s.tlbCommand ctx.toNat 1)
/-- TLB_INV_ALL. -/
def execTlbInvAll (s : State) : Result := .next (s.tlbCommand s.mgmt.invCtx 2)
/-- TLB_INV_NONE. -/
def execTlbInvNone (s : State) : Result := .next (s.tlbCommand s.mgmt.invCtx 3)

/-- An access that a command waits for is still to be performed. -/
def State.itemLeft (s : State) (x : Nat × Nat) : Bool := ((s.core x.1).item x.2).isSome

def State.engineLeft (s : State) (x : Nat × Nat) : Bool :=
  let e := (s.core x.1).engine
  if x.2 = 0 then e.latch.isSome || !e.held.isEmpty else e.ops.any fun o => o.id == x.2

/-- A sector of an L1 has dirty bytes. -/
def State.dirtyLeft (s : State) (x : Nat × Nat) : Bool := (s.sector x.1 x.2).dm != 0

/-- A peer's request that a command waits for is still to be performed. -/
def State.reqLeft (s : State) (id : Nat) : Bool := s.fabric.underWay 4 fun q => q.id == id

/-- Everything that used a covered entry has been performed. -/
def State.invDone (s : State) : Bool :=
  let m := s.mgmt
  !m.invItems.any s.itemLeft && !m.invOps.any s.engineLeft && !m.invDirty.any s.dirtyLeft && !m.invReqs.any s.reqLeft
    && !m.invPeers.any fun r => s.heldPeers.contains r

/-- TLB_INV_COMPLETE: BUSY clears once nothing that used a covered entry is left. What has been written back meanwhile is awaited
no longer. -/
def execTlbInvComplete (s : State) : Result :=
  let m := s.mgmt
  .next (if !m.invBusy then s
    else if s.invDone then
      { s with mgmt := { m with invBusy := false, invItems := [], invOps := [], invDirty := [], invReqs := [], invPeers := [] } }
    else if m.invItems.any s.itemLeft then s
    else { s with mgmt := { m with invDirty := m.invDirty.filter s.dirtyLeft } })

/-! ## Scrub (R47) -/

/-- A range of pages lies in one region and meets no hole. -/
def Mem.rangeOk (m : Mem) (pa n : Nat) : Bool :=
  m.isMem pa && m.kind pa == m.kind (pa + n * 65536 - 1) &&
    !(m.removed.any fun d => match m.expDevs[d]? with
      | some (a, k) => a < pa + n * 65536 && pa < a + k
      | none => false)

/-- GO of SCRUB_CTL. -/
def State.scrubGo (s : State) (n : Nat) : State :=
  let m := s.mem
  let pa := s.mgmt.scrubPa
  if s.mgmt.scrubBusy then { s with mgmt := { s.mgmt with scrubErr := true } }
  else if n = 0 then s
  else if !m.rangeOk pa n then { s with mgmt := { s.mgmt with scrubErr := true } }
  else
    let out := fun (page : Nat) => !(pageOf pa ≤ page && page < pageOf pa + n)
    let keep := fun (_ : Nat) (c : CacheSet) => { c with ways := c.ways.filter fun w => out (w.2 / 256) }
    { s with mem := { m with swept := m.swept.filter out, l2 := m.l2.filter fun c => out (c.1 / 1024),
                             l2Sets := tblMap keep m.l2Sets, l2Low := m.l2Low.filter fun l => out (l / 256) }
             mgmt := { s.mgmt with scrubBusy := true } }

/-- SCRUB_SET. -/
def execScrubSet (count : BitVec 31) (s : State) : Result :=
  .next (({ s with mgmt := { s.mgmt with scrubCount := count.toNat } }).scrubGo count.toNat)

/-- SCRUB_SET_COMPLETE. -/
def execScrubSetComplete (s : State) : Result := .next { s with mgmt := { s.mgmt with scrubBusy := false } }

/-! ## The L2 mode (R78) -/

/-- An operation of the stationary port. -/
def EngAct.isLdb : EngAct → Bool
  | .ldb _ _ _ _ _ _ _ => true
  | _ => false

/-- A context boundary: no team resident, and no copy, stationary-port read or seal operation outstanding. -/
def State.atBoundary (s : State) : Bool :=
  s.cores.all (fun k => k.2.teams.isEmpty && k.2.copies.isEmpty && !k.2.engine.ops.any fun o => o.act.isLdb)
    && s.sched.grids.all fun g => match g.2.stream with
      | some q => q.chunks.all fun c => c.done
      | none => true

/-- GO of L2_CTL with a value of REQ: one that is refused stores nothing. -/
def State.l2Go (s : State) (req : Bool) : State :=
  if s.mgmt.l2Busy || !s.atBoundary then { s with mgmt := { s.mgmt with l2Err := true } }
  else { s with mgmt := { s.mgmt with l2Busy := true, l2Req := req } }

/-- L2_MODE_CHANGE. -/
def execL2ModeChange (req : Bool) (s : State) : Result := .next (s.l2Go req)

/-- L2_MODE_CHANGE_COMPLETE: every slice is written back and invalid, CUR takes REQ, and what was held proceeds. -/
def execL2ModeChangeComplete (s : State) : Result :=
  if s.mgmt.l2Busy then
    let s := s.l2Clear
    let held := s.mgmt.l2Held.map Turn.again
    .next { s with mgmt := { s.mgmt with l2Busy := false, l2Cur := s.mgmt.l2Req, l2Held := [] }, agenda := held ++ s.agenda }
  else .next s

/-! ## Contexts (R372) -/

def State.ctxErr (s : State) : State := { s with ctxs := { s.ctxs with cmdErr := true } }

/-- CREATE. -/
def State.createCtx (s : State) (c : Nat) : State :=
  let s := (s.rawWrite (s.descAt c + 256) (zeros 16)).dropEntries (.ctx c)
  let x := s.ctxs
  { s with ctxs := { x with live := tblSet x.live c (Ctx.fresh x.created), created := x.created + 1 } }

/-- A context is in use. -/
def State.ctxInUse (s : State) (c : Nat) : Bool :=
  (s.sched.queues.any fun q => q.2.ctx == c && (q.2.en || !q.2.pend.isEmpty))
    || (s.sched.grids.any fun g => g.2.ctx == c) || (s.sched.waiting.any fun w => w.ctx == c)
    || (s.fabric.expCtx == c && s.fabric.expSize != 0)

/-- DESTROY: keys, save key and translations go, and the context's grants end (16 R397). -/
def State.destroyCtx (s : State) (c : Nat) : State :=
  let s := s.dropEntries (.ctx c)
  let s := (s.power.grants.filter fun g => g.ctx == c).foldl (fun s g => s.endGrant g.id) s
  { s with ctxs := { s.ctxs with live := tblDel s.ctxs.live c } }

/-- A command is refused: 1 CREATE, 2 DESTROY; no other OP is defined. -/
def State.ctxRefused (s : State) (op c : Nat) : Bool :=
  if op = 1 then (s.ctx? c).isSome || s.ctxs.count ≤ c
  else if op = 2 then (s.ctx? c).isNone || s.ctxInUse c
  else true

/-- A write of CTX_CMD: GO starts OP for CTX, and BUSY is 1 until it has run. -/
def State.ctxCommand (s : State) (c op : Nat) (go : Bool) : State :=
  let s := { s with ctxs := { s.ctxs with cmdCtx := c, cmdOp := op } }
  if !go then s
  else if s.ctxs.running.isSome || s.ctxRefused op c then s.ctxErr
  else { s with ctxs := { s.ctxs with running := some (op, c) } }

/-- A command runs: its last step clears BUSY. What has come to refuse it since its GO refuses it still. -/
def State.ctxRun (s : State) (op c : Nat) : State :=
  let s := { s with ctxs := { s.ctxs with running := none } }
  if s.ctxRefused op c then s.ctxErr else if op = 1 then s.createCtx c else s.destroyCtx c

/-- The step of a command: the one that BUSY shows, or, with none in progress, a command from its GO to its end. -/
def State.ctxStep (s : State) (op c : Nat) : State :=
  match s.ctxs.running with
  | some r => if r = (op, c) then s.ctxRun op c else s.ctxErr
  | none => ({ s with ctxs := { s.ctxs with cmdCtx := c, cmdOp := op } }).ctxRun op c

/-- CTX_CREATE. -/
def execCtxCreate (ctx : BitVec 16) (s : State) : Result := .next (s.ctxStep 1 ctx.toNat)
/-- CTX_DESTROY. -/
def execCtxDestroy (ctx : BitVec 16) (s : State) : Result := .next (s.ctxStep 2 ctx.toNat)

/-! ## Launch queues (R334, R335) -/

/-- LQ_PTR.ERR is set; vector 83 is sent where it was clear. -/
def State.queueErr (s : State) (q : Nat) : State :=
  if (s.queue q).err then s else (s.updQueue q fun x => { x with err := true }).msi 83

/-- A write of LQ_CFG. -/
def State.writeCfg (s : State) (q v : Nat) : State :=
  let x := s.queue q
  let busy := x.head != x.tail || s.sched.grids.any fun g => g.2.queue == q && g.2.started && g.2.dispatching
  if busy then s.queueErr q
  else s.updQueue q fun x =>
    { x with en := v.testBit 63, src := v.testBit 62, prio := field v 61 59, log2 := field v 58 55, ctx := field v 51 36,
             base := field v 35 0 }

/-- Records become pending, in number order. -/
def State.pendMany (s : State) (q : Nat) : Nat → State
  | 0 => s
  | n + 1 => (s.pendOne q).1.pendMany q n

/-- A write of LQ_PTR: ERR is W1C, and another TAIL is a doorbell. -/
def State.writePtr (s : State) (q v : Nat) : State :=
  let s := if v.testBit 63 then s.updQueue q fun x => { x with err := false } else s
  let x := s.queue q
  let n := field v 30 0
  let ahead := (n + 2 ^ 31 - x.head) % 2 ^ 31
  let more := (n + 2 ^ 31 - x.tail) % 2 ^ 31
  if n = x.tail then s
  else if x.src || x.slots < ahead || ahead < more then s.queueErr q
  else s.pendMany q more

/-- A host's write of a register takes effect: not before READY (R419), and behind an earlier posted write that waits (R135). -/
def State.hostPosted (s : State) (i : Instr) (k : State → State) : State :=
  if !s.mgmt.ready then s
  else
    match s.joinHost i with
    | some t => t
    | none => k s

/-- LQ_CFG_WRITE, by the host. -/
def execLqCfgWrite (q : Nat) (v : DWord) (s : State) : Result :=
  .next (s.hostPosted (.lqCfgWrite q v) fun s => if q < 64 then s.writeCfg q v.toNat else s)
/-- LQ_DOORBELL, by the host. -/
def execLqDoorbell (q : Nat) (v : DWord) (s : State) : Result :=
  .next (s.hostPosted (.lqDoorbell q v) fun s => if q < 64 then s.writePtr q v.toNat else s)

/-! ## What registers read -/

/-- The number of instances of a register. -/
def regCount (r : RegName) : Nat :=
  match r with
  | .clL1Stat | .thrReason | .confShr | .ceNear | .ceExp | .ceL2 => 8
  | .optPortCtl | .optPortCnt => 12
  | .cgtEntry => 4096
  | .combStat | .energyLo | .energyHi => 10
  | .lqCfg | .lqPtr => 64
  | .fltStat | .fltPc | .fltAddr | .fltAux | .fltCtl | .ceFlt | .ceFltVa | .ntCtl | .ceCore => 2048
  | .clkStat => 144
  | .boostPt => 5
  | .wkeyStat => 65536 * 128
  | .ceFar => 96
  | .ueUnowned | .peerRefuse | .sweeps | .msixPba => 2
  | .msixMask => 128
  | _ => 1

/-- FLT_STAT (Table 15.2); DRAINED is part of a stop (R355). -/
def State.fltStatWord (s : State) (c : Nat) : Nat :=
  let u := (s.core c).flt
  let r := match u.cur with
    | some r => r.code * 2 ^ 48 + r.group * 2 ^ 43 + bit r.merged 42 + r.slot * 2 ^ 32 + r.lanes.toNat
    | none => 0
  bit u.stopped 63 + bit (u.stopped && s.drained c) 62 + bit u.err 61 + u.heldQ.length * 2 ^ 56 + r

/-- FLT_PC, FLT_ADDR and FLT_AUX: of the last report. -/
def State.fltPart (s : State) (c : Nat) (f : Report → Nat) : Nat :=
  match (s.core c).flt.cur with
  | some r => f r
  | none => 0

/-- CE_FLT (Table 15.6). -/
def CopyFault.word (e : CopyFault) : Nat :=
  2 ^ 63 + e.code * 2 ^ 56 + e.ctx * 2 ^ 32 + e.group * 2 ^ 27 + e.lane * 2 ^ 22 + bit e.tile 21

/-- Requests of peers that are inside, and not completed (Table 6.7). -/
def State.inPeer (s : State) : Nat :=
  s.fabric.peerReqs.length + s.heldPeers.length

/-- Tag 0xC requests sent and not ended: of the cores' accesses and of their copies. -/
def State.outPeer (s : State) : Nat :=
  let peer := fun (r : Ref) => match r with
    | .at_ (.peer _ _ _) => true
    | _ => false
  sumOf (s.cores.map fun k => (k.2.queue.filter fun i => peer (.at_ i.place) && i.sent.isSome && !i.ended).length
    + sumOf (k.2.copies.map fun c => (c.2.waiting peer).length))

/-- A word of WKEY_STAT (Table 17.5): index is (context × 16 + slot) × 8 + word. -/
def State.wkeyWord (s : State) (i : Nat) : Nat :=
  match s.ctx? (i / 128) with
  | some c =>
    (match tblFind c.keys (i / 8 % 16) with
     | some k => (k.keyId.toNat + 2 ^ 63 + k.digest.toNat * 2 ^ 64) / 2 ^ (64 * (i % 8)) % 2 ^ 64
     | none => 0)
  | none => 0

/-- A register's word, with no effect of the read. -/
def State.regWord (s : State) (r : RegName) (i : Nat) : Nat :=
  let f := s.fabric
  let m := s.mgmt
  let p := s.power
  match r with
  | .expBase => f.expBase
  | .expSize => f.expSize * 65536
  | .expCtl => f.selfId * 2 ^ 20 + bit f.wrEn 16 + f.expCtx
  | .tlbInvVa => m.invVa
  | .tlbInvCmd => bit m.invBusy 63 + m.invCtx * 2 ^ 32 + m.invScope.toNat * 4 + bit m.invErr 1
  | .scrubBase => m.scrubPa
  | .scrubCtl => bit m.scrubBusy 63 + bit m.scrubErr 62 + m.scrubCount * 2
  | .clL1Stat => (s.cluster i).switches % 2 ^ 32 * 2 ^ 32 + bit (s.cluster i).fused 0
  | .l2Ctl => bit m.l2Busy 63 + bit m.l2Err 62 + bit m.l2Cur 8 + bit m.l2Req 1
  | .optPortCtl =>
    let x := s.port i
    bit x.up 63 + bit x.parkErr 62 + x.parkCur.toNat * 64 + x.parkReq.toNat * 4 + bit x.en 0
  | .optPortCnt => (s.port i).replays * 2 ^ 32 + (s.port i).retrains * 2 ^ 16 + (s.port i).lost
  | .cgtEntry => (s.cgt i).word
  | .fabCtl => f.combEn.toNat * 2 ^ 32 + f.tmoUs
  | .fabStat => s.inPeer % 2 ^ 16 * 2 ^ 16 + s.outPeer % 2 ^ 16
  | .combStat =>
    let x := tblGet ⟨0, 0, 0, 0⟩ f.comb i
    x.lost * 2 ^ 52 + x.expired * 2 ^ 40 + x.pass * 2 ^ 20 + x.merged
  | .lqCfg =>
    let x := s.queue i
    bit x.en 63 + bit x.src 62 + x.prio * 2 ^ 59 + x.log2 * 2 ^ 55 + x.ctx * 2 ^ 36 + x.base
  | .lqPtr => bit (s.queue i).err 63 + (s.queue i).head * 2 ^ 32 + (s.queue i).tail
  | .schedCtl =>
    bit s.sched.growEn 48 + s.sched.quantumUs * 2 ^ 32 + s.sched.shrinkWait * 2 ^ 24 + s.sched.llsThr
  | .fltStat => s.fltStatWord i
  | .fltPc => s.fltPart i fun r => r.pc.toNat
  | .fltAddr => s.fltPart i fun r => r.addr.toNat
  | .fltAux => s.fltPart i fun r => r.aux.toNat
  | .fltCtl => 0
  | .ceFlt => ((s.core i).copyFaults.head?.map CopyFault.word).getD 0
  | .ceFltVa => ((s.core i).copyFaults.head?.map (·.va)).getD 0
  | .ctxdCfg => s.ctxs.count * 2 ^ 47 + s.ctxs.base
  | .ctxCmd => bit s.ctxs.running.isSome 63 + bit s.ctxs.cmdErr 62 + s.ctxs.cmdCtx * 2 ^ 32 + bit (s.ctx? s.ctxs.cmdCtx).isSome 31 + s.ctxs.cmdOp * 2
  | .clkStat =>
    let x := s.region i
    bit x.refLost 63 + x.vMv * 2 ^ 32 + x.stretch * 2 ^ 16 + x.nTgt * 256 + x.nCur
  | .ntCtl =>
    let k := s.core i
    k.ntEnter * 2 ^ 24 + k.ntExit * 2 ^ 16 + bit k.ntAuto 4 + k.ntCur.toNat
  | .pwrTok => s.tokensFree * 2 ^ 32 + p.size
  | .thrReason => (s.cluster i).thr.toNat
  | .energyLo => tblGet 0 p.energy i % 2 ^ 32
  | .energyHi => bit (tblGet false p.wrap i) 31 + tblGet 0 p.energy i / 2 ^ 32
  | .duskCtl => bit p.duskEn 63 + p.duskMax * 2 ^ 40 + p.duskLen * 2 ^ 32 + p.duskMin
  | .lifeCfg => bit p.boostEn 63 + p.aTotal * 2 ^ 32 + p.targetH
  | .lifeRsv => p.reserve
  | .boostPt =>
    let e := tblGet ⟨false, 0, 0, 0⟩ p.pts i
    bit e.valid 63 + e.mv * 2 ^ 32 + e.n * 2 ^ 16 + e.tok
  | .confCtl => bit s.trust.mode 63 + bit s.trust.req 0
  | .confShr => (tblGet (0, 0) s.trust.shr i).1 + (tblGet (0, 0) s.trust.shr i).2 * 2 ^ 36
  | .wkeyStat => s.wkeyWord i
  | .aperBase => m.aper
  | .devCtl => 0
  | .devStat => bit m.ready 63
  | .ceNear => tblGet 0 m.ceNear i
  | .ceFar => tblGet 0 m.ceFar i
  | .ceExp => tblGet 0 m.ceExp i
  | .ceCore => tblGet 0 m.ceCore i
  | .ceL2 => tblGet 0 m.ceL2 i
  | .ueUnowned => tblGet 0 m.ueUnowned i
  | .peerRefuse => tblGet 0 m.peerRefuse i
  | .hlErr => m.hlErr
  | .sweeps => tblGet 0 m.sweeps i
  | .rootDeny => m.rootDeny
  | .msixMask => bit (s.link.mask.contains i) 0
  | .msixCtl => bit s.link.enable 15 + bit s.link.allMask 14 + 127
  | .msixPba => sumOf ((List.range 64).map fun k => bit (s.link.pending.contains (64 * i + k)) k)

/-- A read by a reader: the energy counters latch (R383); a register that does not exist reads zero. -/
def State.regRead (s : State) (r : RegName) (i : Nat) (who : Reader) : State × Nat :=
  if regCount r ≤ i then (s, 0)
  else
    match r with
    | .energyLo => s.readEnergyLo i who
    | .energyHi => s.readEnergyHi i who
    | _ => (s, s.regWord r i)

/-! ## What a write does -/

/-- The bits of a register that clear by writing 1 (R6). -/
def w1cMask (r : RegName) : Nat :=
  match r with
  | .tlbInvCmd => 2
  | .scrubCtl | .l2Ctl | .optPortCtl | .ctxCmd => 2 ^ 62
  | .lqPtr | .clkStat => 2 ^ 63
  | .fltStat => 2 ^ 61
  | .thrReason => 31
  | .energyHi => 2 ^ 31
  | _ => 0

def State.setMgmt (s : State) (f : Mgmt → Mgmt) : State := { s with mgmt := f s.mgmt }
def State.setPower (s : State) (f : Power → Power) : State := { s with power := f s.power }

/-- TLB_INV_CMD: only the two firmwares write it (R42). -/
def State.writeInvCmd (s : State) (v : Nat) : State :=
  let s := s.setMgmt fun m =>
    { m with invErr := m.invErr && !v.testBit 1, invCtx := field v 47 32, invScope := BitVec.ofNat 2 (field v 3 2) }
  if v.testBit 0 then s.tlbGo (field v 47 32) (field v 3 2) else s

/-- SCRUB_CTL. -/
def State.writeScrub (s : State) (v : Nat) : State :=
  let s := s.setMgmt fun m => { m with scrubErr := m.scrubErr && !v.testBit 62, scrubCount := field v 31 1 }
  if v.testBit 0 then s.scrubGo (field v 31 1) else s

/-- L2_CTL. -/
def State.writeL2 (s : State) (v : Nat) : State :=
  let s := s.setMgmt fun m => { m with l2Err := m.l2Err && !v.testBit 62 }
  if v.testBit 0 then s.l2Go (v.testBit 1) else s.setMgmt fun m => { m with l2Req := v.testBit 1 }

/-- OPT_PORT_CTL: a write of PARK_REQ starts a handshake (R141), and EN 0 makes the port dark. R141 does not speak of a second write
while a handshake is pending: any write that covers PARK_REQ replaces it and starts the 1 ms again (log entry 81). -/
def State.writePort (s : State) (i v : Nat) (low : Bool) : State :=
  let now := s.ns
  let q := BitVec.ofNat 2 (field v 3 2)
  let s := s.updPort i fun p => { p with parkErr := p.parkErr && !v.testBit 62 }
  if !low then s
  else
    let s := s.updPort i fun p => { p with parkReq := q, parking := some (q, now), en := v.testBit 0 }
    if !v.testBit 0 && (s.port i).up then s.portFalls i else s

/-- FLT_CTL (Table 15.3). -/
def State.writeFltCtl (s : State) (c v : Nat) : State :=
  let n := field v 3 1
  if !(s.core c).flt.stopped || 5 ≤ n then s.updFlt c fun u => { u with err := true }
  else if v.testBit 0 then
    s.faultAction c n fun r =>
      if n = 0 || n = 2 then s.resumeCore c
      else if n = 1 then s.deliverTo c r
      else if n = 3 then s.killGroupOf c r
      else s.killGridFor c r
  else s

/-- CE_FLT.ANSWER (Table 15.6). -/
def State.writeCeFlt (s : State) (c v : Nat) : State :=
  if field v 1 0 = 1 then s.ceRetry c else if field v 1 0 = 2 then s.ceAbort c else s

/-- CTXD_CFG (R371). -/
def State.writeCtxd (s : State) (v : Nat) : State :=
  if s.ctxs.live.isEmpty then
    { s with ctxs := { s.ctxs with count := min 65536 (field v 63 47), base := field v 35 0 } }
  else s.ctxErr

/-- CTX_CMD: only the service firmware writes it (R372). -/
def State.writeCtxCmd (s : State) (v : Nat) : State :=
  let s := if v.testBit 62 then { s with ctxs := { s.ctxs with cmdErr := false } } else s
  s.ctxCommand (field v 47 32) (field v 3 1) (v.testBit 0)

/-- A supply and a ratio of BOOST_PT, where the write covers them; what a write outside the limits stores is not stated
(log entry 7). -/
def State.boostEntry (s : State) (i v : Nat) (low high : Bool) : BoostPt :=
  let old := tblGet ⟨false, 0, 0, 0⟩ s.power.pts i
  let mv := field v 47 32
  let n := field v 22 16
  { valid := v.testBit 63
    mv := if !high then old.mv else if mv ≤ 850 then mv else (Config.unstated s.stamp (2 * i)).toNat % 851
    n := if !low then old.n else if 45 ≤ n ∧ n ≤ 60 then n else 45 + (Config.unstated s.stamp (2 * i + 1)).toNat % 16
    tok := field v 11 0 }

/-- A write of a register by a writer; `low` and `high` tell whether it covers bits 31:0 and 63:32. What the map makes RO or RSV
is ignored; so is a write to a root-only register, which ROOT_DENY counts for the service firmware (R398, R412). -/
def State.writeReg (s : State) (w : Writer) (r : RegName) (i v : Nat) (low high : Bool) : State :=
  if regCount r ≤ i then s
  else
    match r with
    | .expBase => s.setFabric fun b => { b with expBase := field v 56 16 * 65536 }
    | .expSize => s.setFabric fun b => { b with expSize := field v 47 16 }
    | .expCtl => s.setFabric fun b => { b with selfId := field v 31 20, wrEn := v.testBit 16, expCtx := field v 15 0 }
    | .tlbInvVa => if w = .host then s else s.setMgmt fun m => { m with invVa := field v 56 16 * 65536 }
    | .tlbInvCmd => if w = .host then s else s.writeInvCmd v
    | .scrubBase => s.setMgmt fun m => { m with scrubPa := field v 51 16 * 65536 }
    | .scrubCtl => s.writeScrub v
    | .l2Ctl => s.writeL2 v
    | .optPortCtl => s.writePort i v low
    | .cgtEntry => s.setFabric fun b => { b with cgt := tblSet b.cgt i (cgtOf (BitVec.ofNat 64 v)) }
    | .fabCtl => s.setFabric fun b => { b with combEn := BitVec.ofNat 10 (field v 41 32), tmoUs := max 10 (field v 15 0) }
    | .lqCfg => s.writeCfg i v
    | .lqPtr => s.writePtr i v
    | .schedCtl =>
      { s with sched := { s.sched with growEn := v.testBit 48, quantumUs := max 100 (field v 47 32),
                                       shrinkWait := max 1 (field v 31 24), llsThr := field v 7 0 } }
    | .fltStat => s.updFlt i fun u => { u with err := u.err && !v.testBit 61 }
    | .fltCtl => if low then s.writeFltCtl i v else s
    | .ceFlt => s.writeCeFlt i v
    | .ctxdCfg => s.writeCtxd v
    | .ctxCmd => if w = .service then s.writeCtxCmd v else s
    | .clkStat => s.updRegion i fun x => { x with refLost := x.refLost && !v.testBit 63 }
    | .ntCtl => s.updCore i fun k => { k with ntEnter := field v 31 24, ntExit := field v 23 16, ntAuto := v.testBit 4 }
    | .pwrTok => s.writeTokens v
    | .thrReason => s.updCluster i fun c => { c with thr := c.thr &&& ~~~(BitVec.ofNat 5 v) }
    | .energyHi => if v.testBit 31 then s.setPower fun p => { p with wrap := tblSet p.wrap i false } else s
    | .duskCtl => s.setPower fun p =>
      { p with duskEn := v.testBit 63, duskMax := field v 42 40, duskLen := max 1 (field v 39 32), duskMin := field v 31 0 }
    | .lifeCfg => s.setPower fun p =>
      { p with boostEn := v.testBit 63, targetReq := if field v 31 0 = 0 then p.targetReq else some (field v 31 0) }
    | .lifeRsv => s.setPower fun p => { p with reserveReq := some (field v 47 0) }
    | .boostPt => if i = 0 then s else
      let e := s.boostEntry i v low high
      s.setPower fun p => { p with pts := tblSet p.pts i e }
    | .confCtl => { s with trust := { s.trust with req := v.testBit 0 } }
    | .confShr => if w = .service then s.setMgmt fun m => { m with rootDeny := wrapInc 32 m.rootDeny } else s
    | .aperBase => s.setMgmt fun m => { m with aper := field v 17 0 }
    | .devCtl => if v.testBit 0 then s.fullReset else s
    | .devStat => if w = .service && v.testBit 63 then s.setMgmt fun m => { m with ready := true } else s
    | .clL1Stat | .optPortCnt | .fabStat | .combStat | .fltPc | .fltAddr | .fltAux | .ceFltVa | .energyLo | .wkeyStat
    | .ceNear | .ceFar | .ceExp | .ceCore | .ceL2 | .ueUnowned | .peerRefuse | .hlErr | .sweeps | .rootDeny
    | .msixPba => s
    | .msixMask => if w = .host then s.maskVector i (v.testBit 0) else s
    | .msixCtl => if w = .host then s.msixControl (v.testBit 15) (v.testBit 14) else s

/-- REGISTER_WRITE: eight bytes. Before READY a host's is dropped, and one of MSI-X Message Control, which is a configuration
request, gets Request Retry Status (R419). -/
def execRegisterWrite (w : Writer) (reg : RegName) (index : Nat) (v : DWord) (s : State) : Result :=
  let k := fun (s : State) => s.writeReg w reg index v.toNat true true
  .next (if w = .host then
      if !s.mgmt.ready && reg == .msixCtl then s.send .retry else s.hostPosted (.registerWrite w reg index v) k
    else k s)

/-- The word that a write of half a register leaves in place: that of the last write, where it has yet to take effect (R394). -/
def State.writtenWord (s : State) (r : RegName) (i : Nat) : Nat :=
  match r with
  | .lifeCfg => s.regWord r i / 2 ^ 32 * 2 ^ 32 + s.power.targetReq.getD 0
  | .lifeRsv => s.power.reserveReq.getD s.power.reserve
  | _ => s.regWord r i

/-- The eight bytes that a write of four bytes makes: the other half keeps its value, and clears nothing. -/
def mergeHalf (cur mask v : Nat) (high : Bool) : Nat :=
  let keep := cur &&& (2 ^ 64 - 1 - mask)
  if high then v % 2 ^ 32 * 2 ^ 32 + keep % 2 ^ 32 else keep / 2 ^ 32 * 2 ^ 32 + v % 2 ^ 32

/-- A host access that R412 allows. The registers are taken to start at multiples of 8, those of 32 bits too, so an access of four
bytes at an offset of 4 modulo 8 meets bits 63:32 (log entry 66). -/
def State.hostReg (s : State) (size offset : Nat) (reg : RegName) (index : Nat) (write : Option DWord) : State :=
  let high := offset % 8 == 4
  match write with
  | none =>
    let (s, x) := s.regRead reg index .host
    s.send (.reg (BitVec.ofNat 64 (if size = 4 then x / (if high then 2 ^ 32 else 1) % 2 ^ 32 else x)))
  | some v =>
    if size = 8 then s.writeReg .host reg index v.toNat true true
    else s.writeReg .host reg index (mergeHalf (s.writtenWord reg index) (w1cMask reg) v.toNat high) (!high) high

/-- HOST_REGISTER_ACCESS: 4 or 8 bytes, aligned; before READY a read is zero and a write is dropped, and a request to MSI-X
Message Control, which is a configuration request, gets Request Retry Status. A write keeps its link order behind an earlier
posted write that waits (R135). -/
def execHostRegisterAccess (size offset : Nat) (reg : RegName) (index : Nat) (write : Option DWord) (s : State) : Result :=
  let i := Instr.hostRegisterAccess size offset reg index write
  let k := fun (s : State) => s.hostReg size offset reg index write
  .next (
    if !s.mgmt.ready && reg == .msixCtl then s.send .retry
    else if !((size == 4 || size == 8) && offset % size == 0) then s.send .unsupported
    else if write.isSome then s.hostPosted i k
    else if !s.mgmt.ready then s.send (.reg 0)
    else k s)

end Sys2Proof.Machine
end

