-- ==== Sys2Proof/Machine/Dispatch.lean ====
section
/-! DEFINITION. Which meaning each instruction and each event has: one arm per constructor of Instr. -/

namespace Sys2Proof.Machine

/-- The meaning of an instruction or event. -/
def exec (i : Instr) (s : State) : Host.Outcome State Fault Refusal :=
  match i with
  | .nop => Sys2Proof.Machine.execNop s
  | .bra a b => Sys2Proof.Machine.execBra a b s
  | .brr a => Sys2Proof.Machine.execBrr a s
  | .call a b => Sys2Proof.Machine.execCall a b s
  | .callr a => Sys2Proof.Machine.execCallr a s
  | .ret => Sys2Proof.Machine.execRet s
  | .exit => Sys2Proof.Machine.execExit s
  | .yield => Sys2Proof.Machine.execYield s
  | .flwait a => Sys2Proof.Machine.execFlwait a s
  | .pxLit a => Sys2Proof.Machine.execPxLit a s
  | .pxScope a b => Sys2Proof.Machine.execPxScope a b s
  | .pxTile a => Sys2Proof.Machine.execPxTile a s
  | .add a => Sys2Proof.Machine.execAdd a s
  | .sub a => Sys2Proof.Machine.execSub a s
  | .mul a => Sys2Proof.Machine.execMul a s
  | .mulhi a => Sys2Proof.Machine.execMulhi a s
  | .mad a => Sys2Proof.Machine.execMad a s
  | .min a => Sys2Proof.Machine.execMin a s
  | .max a => Sys2Proof.Machine.execMax a s
  | .abs a => Sys2Proof.Machine.execAbs a s
  | .neg a => Sys2Proof.Machine.execNeg a s
  | .div a => Sys2Proof.Machine.execDiv a s
  | .rem a => Sys2Proof.Machine.execRem a s
  | .sad a => Sys2Proof.Machine.execSad a s
  | .mulw a => Sys2Proof.Machine.execMulw a s
  | .and a => Sys2Proof.Machine.execAnd a s
  | .or a => Sys2Proof.Machine.execOr a s
  | .xor a => Sys2Proof.Machine.execXor a s
  | .not a => Sys2Proof.Machine.execNot a s
  | .shl a => Sys2Proof.Machine.execShl a s
  | .shr a => Sys2Proof.Machine.execShr a s
  | .sar a => Sys2Proof.Machine.execSar a s
  | .rotl a => Sys2Proof.Machine.execRotl a s
  | .popc a => Sys2Proof.Machine.execPopc a s
  | .clz a => Sys2Proof.Machine.execClz a s
  | .brev a => Sys2Proof.Machine.execBrev a s
  | .bfe a => Sys2Proof.Machine.execBfe a s
  | .bfi a => Sys2Proof.Machine.execBfi a s
  | .lea a b => Sys2Proof.Machine.execLea a b s
  | .fsh a => Sys2Proof.Machine.execFsh a s
  | .perm a => Sys2Proof.Machine.execPerm a s
  | .lop3 a b => Sys2Proof.Machine.execLop3 a b s
  | .addi a => Sys2Proof.Machine.execAddi a s
  | .muli a => Sys2Proof.Machine.execMuli a s
  | .andi a => Sys2Proof.Machine.execAndi a s
  | .ori a => Sys2Proof.Machine.execOri a s
  | .xori a => Sys2Proof.Machine.execXori a s
  | .shli a => Sys2Proof.Machine.execShli a s
  | .shri a => Sys2Proof.Machine.execShri a s
  | .sari a => Sys2Proof.Machine.execSari a s
  | .movi a => Sys2Proof.Machine.execMovi a s
  | .mov a => Sys2Proof.Machine.execMov a s
  | .gtag a b c => Sys2Proof.Machine.execGtag a b c s
  | .icmp a b c d e f g => Sys2Proof.Machine.execIcmp a b c d e f g s
  | .fcmp a b c d e f g => Sys2Proof.Machine.execFcmp a b c d e f g s
  | .icmpi a b c d e => Sys2Proof.Machine.execIcmpi a b c d e s
  | .gop a b c d => Sys2Proof.Machine.execGop a b c d s
  | .gmov a b => Sys2Proof.Machine.execGmov a b s
  | .sel a => Sys2Proof.Machine.execSel a s
  | .fclass a b c d => Sys2Proof.Machine.execFclass a b c d s
  | .cvt a b c d e f => Sys2Proof.Machine.execCvt a b c d e f s
  | .cvtpk a b c d e f g => Sys2Proof.Machine.execCvtpk a b c d e f g s
  | .unpk a b c d e => Sys2Proof.Machine.execUnpk a b c d e s
  | .lut a b c d e => Sys2Proof.Machine.execLut a b c d e s
  | .frnd a b c d => Sys2Proof.Machine.execFrnd a b c d s
  | .rq a b c d e f g h => Sys2Proof.Machine.execRq a b c d e f g h s
  | .fadd a => Sys2Proof.Machine.execFadd a s
  | .fsub a => Sys2Proof.Machine.execFsub a s
  | .fmul a => Sys2Proof.Machine.execFmul a s
  | .fma a => Sys2Proof.Machine.execFma a s
  | .fmin a => Sys2Proof.Machine.execFmin a s
  | .fmax a => Sys2Proof.Machine.execFmax a s
  | .fabs a => Sys2Proof.Machine.execFabs a s
  | .fneg a => Sys2Proof.Machine.execFneg a s
  | .fcpsgn a => Sys2Proof.Machine.execFcpsgn a s
  | .fadd2 a => Sys2Proof.Machine.execFadd2 a s
  | .fmul2 a => Sys2Proof.Machine.execFmul2 a s
  | .fma2 a => Sys2Proof.Machine.execFma2 a s
  | .fmin2 a => Sys2Proof.Machine.execFmin2 a s
  | .fmax2 a => Sys2Proof.Machine.execFmax2 a s
  | .fdot2 a => Sys2Proof.Machine.execFdot2 a s
  | .rcp a => Sys2Proof.Machine.execRcp a s
  | .rsqrt a => Sys2Proof.Machine.execRsqrt a s
  | .sqrt a => Sys2Proof.Machine.execSqrt a s
  | .exp2 a => Sys2Proof.Machine.execExp2 a s
  | .log2 a => Sys2Proof.Machine.execLog2 a s
  | .sin a => Sys2Proof.Machine.execSin a s
  | .cos a => Sys2Proof.Machine.execCos a s
  | .tanh a => Sys2Proof.Machine.execTanh a s
  | .sfuComplete a b => Sys2Proof.Machine.execSfuComplete a b s
  | .shfl a b c d e f => Sys2Proof.Machine.execShfl a b c d e f s
  | .vote a b c => Sys2Proof.Machine.execVote a b c s
  | .red a b c d e => Sys2Proof.Machine.execRed a b c d e s
  | .scan a b c d e f => Sys2Proof.Machine.execScan a b c d e f s
  | .twset a => Sys2Proof.Machine.execTwset a s
  | .matchLanes a b c => Sys2Proof.Machine.execMatchLanes a b c s
  | .ld a => Sys2Proof.Machine.execLd a s
  | .st a => Sys2Proof.Machine.execSt a s
  | .faa a b => Sys2Proof.Machine.execFaa a b s
  | .atom a b c => Sys2Proof.Machine.execAtom a b c s
  | .cas a b => Sys2Proof.Machine.execCas a b s
  | .fence a b => Sys2Proof.Machine.execFence a b s
  | .cachePin a b => Sys2Proof.Machine.execCachePin a b s
  | .cacheUnpin a b => Sys2Proof.Machine.execCacheUnpin a b s
  | .cpy a b c d => Sys2Proof.Machine.execCpy a b c d s
  | .cpySeal => Sys2Proof.Machine.execCpySeal s
  | .cpyWait a b => Sys2Proof.Machine.execCpyWait a b s
  | .tcpy a => Sys2Proof.Machine.execTcpy a s
  | .bar a b => Sys2Proof.Machine.execBar a b s
  | .ringWait a b c d e => Sys2Proof.Machine.execRingWait a b c d e s
  | .ringArrive a b c d => Sys2Proof.Machine.execRingArrive a b c d s
  | .tlwait a b c d => Sys2Proof.Machine.execTlwait a b c d s
  | .attach a b => Sys2Proof.Machine.execAttach a b s
  | .detach => Sys2Proof.Machine.execDetach s
  | .shrinkq a => Sys2Proof.Machine.execShrinkq a s
  | .launch a b c => Sys2Proof.Machine.execLaunch a b c s
  | .mma a => Sys2Proof.Machine.execMma a s
  | .mmaLdb a => Sys2Proof.Machine.execMmaLdb a s
  | .sclPush a b c => Sys2Proof.Machine.execSclPush a b c s
  | .ctSet a b c => Sys2Proof.Machine.execCtSet a b c s
  | .gangSet a b => Sys2Proof.Machine.execGangSet a b s
  | .acc a => Sys2Proof.Machine.execAcc a s
  | .epiLd a b => Sys2Proof.Machine.execEpiLd a b s
  | .epiRun a => Sys2Proof.Machine.execEpiRun a s
  | .trap a => Sys2Proof.Machine.execTrap a s
  | .rtrap => Sys2Proof.Machine.execRtrap s
  | .brk a => Sys2Proof.Machine.execBrk a s
  | .sleepNs a b => Sys2Proof.Machine.execSleepNs a b s
  | .waitNs a b => Sys2Proof.Machine.execWaitNs a b s
  | .ntHintEnter => Sys2Proof.Machine.execNtHintEnter s
  | .ntHintLeave => Sys2Proof.Machine.execNtHintLeave s
  | .boost a b c => Sys2Proof.Machine.execBoost a b c s
  | .wearRd a b => Sys2Proof.Machine.execWearRd a b s
  | .sealPut a b c => Sys2Proof.Machine.execSealPut a b c s
  | .accessPerform a b => Sys2Proof.Machine.execAccessPerform a b s
  | .releasePoint a b => Sys2Proof.Machine.execReleasePoint a b s
  | .acquirePoint a b => Sys2Proof.Machine.execAcquirePoint a b s
  | .fill a b => Sys2Proof.Machine.execFill a b s
  | .evict a b => Sys2Proof.Machine.execEvict a b s
  | .loadComplete a b => Sys2Proof.Machine.execLoadComplete a b s
  | .atomicReply a b => Sys2Proof.Machine.execAtomicReply a b s
  | .walkComplete a b c => Sys2Proof.Machine.execWalkComplete a b c s
  | .sweepComplete a => Sys2Proof.Machine.execSweepComplete a s
  | .scratchLineZeroed a b => Sys2Proof.Machine.execScratchLineZeroed a b s
  | .remoteScratchRequest a b => Sys2Proof.Machine.execRemoteScratchRequest a b s
  | .cread a b c => Sys2Proof.Machine.execCread a b c s
  | .cwrite a b c => Sys2Proof.Machine.execCwrite a b c s
  | .ceRetry a => Sys2Proof.Machine.execCeRetry a s
  | .ceAbort a => Sys2Proof.Machine.execCeAbort a s
  | .ceAnswerTimeout a b => Sys2Proof.Machine.execCeAnswerTimeout a b s
  | .mmaLdbComplete a b => Sys2Proof.Machine.execMmaLdbComplete a b s
  | .tokenGrant a => Sys2Proof.Machine.execTokenGrant a s
  | .engineHeldAccept a => Sys2Proof.Machine.execEngineHeldAccept a s
  | .mmaComplete a b => Sys2Proof.Machine.execMmaComplete a b s
  | .ctSetComplete a b => Sys2Proof.Machine.execCtSetComplete a b s
  | .epiRunComplete a b => Sys2Proof.Machine.execEpiRunComplete a b s
  | .sealChunkComplete a b => Sys2Proof.Machine.execSealChunkComplete a b s
  | .waitExpire a b c => Sys2Proof.Machine.execWaitExpire a b c s
  | .fltRetry a => Sys2Proof.Machine.execFltRetry a s
  | .deliver a => Sys2Proof.Machine.execDeliver a s
  | .fltContinue a => Sys2Proof.Machine.execFltContinue a s
  | .killGroup a => Sys2Proof.Machine.execKillGroup a s
  | .killGrid a => Sys2Proof.Machine.execKillGrid a s
  | .switchRequestArrival a b => Sys2Proof.Machine.execSwitchRequestArrival a b s
  | .combineWindowClose a b => Sys2Proof.Machine.execCombineWindowClose a b s
  | .contrailReplySplit a b c => Sys2Proof.Machine.execContrailReplySplit a b c s
  | .fabricTimeout a b => Sys2Proof.Machine.execFabricTimeout a b s
  | .recordExpire a b => Sys2Proof.Machine.execRecordExpire a b s
  | .hostAccess a => Sys2Proof.Machine.execHostAccess a s
  | .hostRegisterAccess a b c d e => Sys2Proof.Machine.execHostRegisterAccess a b c d e s
  | .peerRequest a => Sys2Proof.Machine.execPeerRequest a s
  | .flitReplay a b => Sys2Proof.Machine.execFlitReplay a b s
  | .portRetrain a b => Sys2Proof.Machine.execPortRetrain a b s
  | .portDown a => Sys2Proof.Machine.execPortDown a s
  | .parkReqWrite a b => Sys2Proof.Machine.execParkReqWrite a b s
  | .parkAck a => Sys2Proof.Machine.execParkAck a s
  | .parkTimeout a => Sys2Proof.Machine.execParkTimeout a s
  | .cgtEntryWrite a b => Sys2Proof.Machine.execCgtEntryWrite a b s
  | .holdTimeout a b => Sys2Proof.Machine.execHoldTimeout a b s
  | .expansionHotRemove a => Sys2Proof.Machine.execExpansionHotRemove a s
  | .patrolRead a => Sys2Proof.Machine.execPatrolRead a s
  | .tlbInvPage a => Sys2Proof.Machine.execTlbInvPage a s
  | .tlbInvCtx a => Sys2Proof.Machine.execTlbInvCtx a s
  | .tlbInvAll => Sys2Proof.Machine.execTlbInvAll s
  | .tlbInvNone => Sys2Proof.Machine.execTlbInvNone s
  | .tlbInvComplete => Sys2Proof.Machine.execTlbInvComplete s
  | .scrubSet a => Sys2Proof.Machine.execScrubSet a s
  | .l2ModeChange a => Sys2Proof.Machine.execL2ModeChange a s
  | .l1ModeSwitch a => Sys2Proof.Machine.execL1ModeSwitch a s
  | .ctxCreate a => Sys2Proof.Machine.execCtxCreate a s
  | .ctxDestroy a => Sys2Proof.Machine.execCtxDestroy a s
  | .lqCfgWrite a b => Sys2Proof.Machine.execLqCfgWrite a b s
  | .lqDoorbell a b => Sys2Proof.Machine.execLqDoorbell a b s
  | .dispatchTakeRecord a => Sys2Proof.Machine.execDispatchTakeRecord a s
  | .gridStart a => Sys2Proof.Machine.execGridStart a s
  | .teamAdmit => Sys2Proof.Machine.execTeamAdmit s
  | .groupGrow a => Sys2Proof.Machine.execGroupGrow a s
  | .shrinkRequest => Sys2Proof.Machine.execShrinkRequest s
  | .shrinkWaitExpire => Sys2Proof.Machine.execShrinkWaitExpire s
  | .quantumExpire a b => Sys2Proof.Machine.execQuantumExpire a b s
  | .preemptTeam a b => Sys2Proof.Machine.execPreemptTeam a b s
  | .teamRestore => Sys2Proof.Machine.execTeamRestore s
  | .coreQuiesce a => Sys2Proof.Machine.execCoreQuiesce a s
  | .gridEnd a => Sys2Proof.Machine.execGridEnd a s
  | .throttleWindowEnd a => Sys2Proof.Machine.execThrottleWindowEnd a s
  | .ntWindowEnd a => Sys2Proof.Machine.execNtWindowEnd a s
  | .ratioChange a => Sys2Proof.Machine.execRatioChange a s
  | .refLoss a => Sys2Proof.Machine.execRefLoss a s
  | .refReturn a => Sys2Proof.Machine.execRefReturn a s
  | .supplyDroop a => Sys2Proof.Machine.execSupplyDroop a s
  | .throttleCause a b => Sys2Proof.Machine.execThrottleCause a b s
  | .pwrTokSizeWrite a => Sys2Proof.Machine.execPwrTokSizeWrite a s
  | .wearTick a b => Sys2Proof.Machine.execWearTick a b s
  | .wearCommit => Sys2Proof.Machine.execWearCommit s
  | .powerLoss => Sys2Proof.Machine.execPowerLoss s
  | .coreRetire a b => Sys2Proof.Machine.execCoreRetire a b s
  | .boostEvaluate => Sys2Proof.Machine.execBoostEvaluate s
  | .boostGrantExpire a => Sys2Proof.Machine.execBoostGrantExpire a s
  | .energyLoRead a b => Sys2Proof.Machine.execEnergyLoRead a b s
  | .energyHiRead a b => Sys2Proof.Machine.execEnergyHiRead a b s
  | .registerWrite a b c d => Sys2Proof.Machine.execRegisterWrite a b c d s
  | .getCertificate a => Sys2Proof.Machine.execGetCertificate a s
  | .challenge a b => Sys2Proof.Machine.execChallenge a b s
  | .getMeasurements a b c => Sys2Proof.Machine.execGetMeasurements a b c s
  | .keyExchange a => Sys2Proof.Machine.execKeyExchange a s
  | .finish a => Sys2Proof.Machine.execFinish a s
  | .setCertificate a b c => Sys2Proof.Machine.execSetCertificate a b c s
  | .endSession a => Sys2Proof.Machine.execEndSession a s
  | .ideKeyProgram a => Sys2Proof.Machine.execIdeKeyProgram a s
  | .ideStallTimeout a => Sys2Proof.Machine.execIdeStallTimeout a s
  | .weightKeyInstall a b c d => Sys2Proof.Machine.execWeightKeyInstall a b c d s
  | .sharedRangeWrite a b c => Sys2Proof.Machine.execSharedRangeWrite a b c s
  | .fullReset a => Sys2Proof.Machine.execFullReset a s
  | .devCtlReset a => Sys2Proof.Machine.execDevCtlReset a s
  | .unassignedEncoding a => Sys2Proof.Machine.execUnassignedEncoding a s
  | .instructionFetchFault a b c => Sys2Proof.Machine.execInstructionFetchFault a b c s
  | .accComplete a b => Sys2Proof.Machine.execAccComplete a b s
  | .portUp a => Sys2Proof.Machine.execPortUp a s
  | .farEndParkRequest a b => Sys2Proof.Machine.execFarEndParkRequest a b s
  | .hostCompletionTimeout a b => Sys2Proof.Machine.execHostCompletionTimeout a b s
  | .energyWrap a b => Sys2Proof.Machine.execEnergyWrap a b s
  | .islandPointSettled a b => Sys2Proof.Machine.execIslandPointSettled a b s
  | .calibrationFactorSet a b c d => Sys2Proof.Machine.execCalibrationFactorSet a b c d s
  | .getVersion => Sys2Proof.Machine.execGetVersion s
  | .getCapabilities => Sys2Proof.Machine.execGetCapabilities s
  | .negotiateAlgorithms => Sys2Proof.Machine.execNegotiateAlgorithms s
  | .getDigests => Sys2Proof.Machine.execGetDigests s
  | .bringupReady => Sys2Proof.Machine.execBringupReady s
  | .l2ModeChangeComplete => Sys2Proof.Machine.execL2ModeChangeComplete s
  | .scrubSetComplete => Sys2Proof.Machine.execScrubSetComplete s

end Sys2Proof.Machine
end

