-- ==== Sys2Proof/Machine/Turns.lean ====
section
/-! DEFINITION. The turns: how an issue turn starts, the end of a cycle with the joins of groups, and the model's default
turn, which is taken when the agenda is empty (log entry 2). The default turn lets the part's own steps run first, then
issues, cycles and the nanosecond counter; it never takes a step of the host, of the firmware's readings or of a peer. -/

namespace Sys2Proof.Machine

/-- The issue in progress of a core's slot, if a group takes it. -/
def State.startIssue (s : State) (core : Nat) : Option State :=
  match s.nextGroup core with
  | none => none
  | some (slot, g) =>
    match s.pick core slot g with
    | some p => some (s.beginIssue core slot g p)
    | none => none

/-- The end of a region's cycle, with the joins accepted in it (07 R174). In every fourth cycle the near-threshold clock of
its islands has one too; how the two clocks lie to each other is the model's choice (log entry 2). -/
def State.endCycle (s : State) (r : Nat) : State :=
  let s := s.regionCycle r
  let s := if (s.region r).cyc % 4 = 0 then s.islandCycle r else s
  (tblKeys s.cores).foldl (fun s c => if s.regionOf c = r then s.landJoins c else s) s

/-! ## The part's own steps that may be due -/

/-- The steps that take an item of a core's queue, the end of one that has no reply among them (R97, R152, R413). -/
def itemDue (core : Nat) (i : Item) : List Instr :=
  let late : List Instr := if i.sent.isSome then [.fabricTimeout core i.id, .hostCompletionTimeout core i.id] else []
  match i.act with
  | .release _ => [.releasePoint core i.id]
  | .acquire _ | .sc _ => [.acquirePoint core i.id]
  | _ =>
    match i.place with
    | .rank _ _ _ _ _ => [.accessPerform core i.id, .switchRequestArrival (clusterOf core) i.id, .remoteScratchRequest core i.id] ++ late
    | _ => [.accessPerform core i.id, .switchRequestArrival (clusterOf core) i.id] ++ late

/-- The step that completes an operation. -/
def opDue (core : Nat) (o : Op) : List Instr :=
  match o.kind with
  | .load _ _ => [.loadComplete core o.id]
  | .atomic _ _ _ => [.atomicReply core o.id]
  | .sfu _ => [.sfuComplete core o.id]
  | _ => []

/-- The next step of each unit of a copy, and the end of a request that has no reply. -/
def copyDue (core : Nat) (c : Copy) : List Instr :=
  ((c.waiting fun _ => true).map fun u =>
    if (c.state u.1).data.isSome then .cwrite core c.id u.1 else .cread core c.id u.1)
    ++ [.fabricTimeout core c.id, .hostCompletionTimeout core c.id]

/-- The step that completes an engine operation. -/
def engDue (core : Nat) (o : EngOp) : List Instr :=
  match o.act with
  | .mma _ _ _ _ _ _ => [.mmaComplete core o.id]
  | .ldb _ _ _ _ _ _ _ => [.mmaLdbComplete core o.id]
  | .ctSet _ _ => [.ctSetComplete core o.id]
  | .accLd _ _ _ _ | .accSt _ _ _ _ | .accZero _ _ _ => [.accComplete core o.id]
  | .epi _ _ _ _ => [.epiRunComplete core o.id]

/-- The waits on time of a group that have run out. -/
def groupDue (core : Nat) (g : Group) : List Instr :=
  (g.lanes.filter fun c => (c.2.status == .waiting && c.2.waitOn.ranOut) ||
    (c.2.shadow.any fun h => h.status == .waiting && h.waitOn.ranOut)).map fun c => .waitExpire core g.uid c.1

/-- An action of FLT_CTL that waits for DRAINED. -/
def actionDue (core : Nat) (n : Nat) : Instr :=
  if n = 0 then .fltRetry core else if n = 1 then .deliver core else if n = 2 then .fltContinue core
  else if n = 3 then .killGroup core else .killGrid core

/-- Steps of a core. -/
def Core.due (k : Core) (c : Nat) : List Instr :=
  (k.flt.act.toList.map (actionDue c)) ++ (k.queue.flatMap (itemDue c)) ++ (k.ops.flatMap fun o => opDue c o.2)
    ++ (k.walks.map fun w => .walkComplete c w.1 w.2)
    ++ (if k.zeroed then [] else k.zeroing.head?.toList.map (.scratchLineZeroed c))
    ++ (k.copies.flatMap fun x => copyDue c x.2) ++ (k.engine.ops.flatMap (engDue c))
    ++ (if k.engine.held.isEmpty then [] else [.engineHeldAccept c])
    ++ (if k.engine.latch.isSome then [.tokenGrant c] else [])
    ++ (k.teams.flatMap fun t => t.2.groups.flatMap fun g => groupDue c g.2)
    ++ (if k.window = 0 then [.throttleWindowEnd c] else [])
    ++ (k.ntSettle.map fun i => .islandPointSettled c i.1)
    ++ (k.copyFaults.map fun f => .ceAnswerTimeout c f.copy)

/-- Steps of the fabric. -/
def Fabric.due (b : Fabric) : List Instr :=
  (b.reqs.map fun r => match r.sw with
    | some sw => .switchRequestArrival sw r.id
    | none => .accessPerform 0 r.id)
    ++ b.recs.flatMap fun c => (if c.isOpen then [.combineWindowClose c.sw c.id] else [])
      ++ (if c.reply.isSome then [.contrailReplySplit c.sw c.id false] else [.recordExpire c.sw c.id])

/-- Steps of a grid. -/
def Grid.due (g : Grid) : List Instr :=
  (if g.started then [.gridEnd g.id] else [.gridStart g.id])
    ++ match g.stream with
      | some q => (q.chunks.filter fun c => !c.done).map fun c => .sealChunkComplete g.id c.num
      | none => []

/-- Steps of the dispatcher. -/
def State.dispatchDue (s : State) : List Instr :=
  ((s.sched.queues.filter fun q => q.2.en && !q.2.pend.isEmpty).map fun q => .dispatchTakeRecord q.1)
    ++ (s.sched.grids.flatMap fun g => g.2.due)
    ++ (if s.entries.isEmpty then [] else [.teamRestore, .teamAdmit, .shrinkRequest])
    ++ (if s.sched.shrinks.isEmpty then [] else [.shrinkWaitExpire])
    ++ (s.cores.flatMap fun c =>
      (c.2.teams.flatMap fun t =>
        (if t.2.quantum = 0 then [.quantumExpire c.1 t.1] else [])
          ++ (if t.2.yielding || t.2.stopping || !s.entries.isEmpty then [.preemptTeam c.1 t.1] else []))
        ++ (if c.2.teams.isEmpty then [] else [.groupGrow c.1]))
    ++ ((List.range 8).flatMap fun c => ((s.cluster c).ranks.filter fun e => e.moving.isSome).map fun e => .holdTimeout c e.rank)

/-- Steps of the service commands: an invalidation brings the dirty bytes that it waits for to the L2 (R42). -/
def State.commandDue (s : State) : List Instr :=
  (if s.mgmt.invBusy then .tlbInvComplete :: s.mgmt.invDirty.map fun x => .evict x.1 x.2 else [])
    ++ (if s.mgmt.scrubBusy then [.scrubSetComplete] else []) ++ (if s.mgmt.l2Busy then [.l2ModeChangeComplete] else [])
    ++ match s.ctxs.running with
      | some (op, c) => [if op = 1 then .ctxCreate (BitVec.ofNat 16 c) else .ctxDestroy (BitVec.ofNat 16 c)]
      | none => []

/-- Steps of memory, of the links and of the power logic. -/
def State.commonDue (s : State) : List Instr :=
  (s.mem.sweeping.map .sweepComplete) ++ s.commandDue
    ++ ((s.trust.ide.filter fun x => x.2.stall.isSome).map fun x => .ideStallTimeout x.1)
    ++ ((s.fabric.ports.filter fun x => x.2.parking.isSome).map fun x => .parkTimeout x.1)
    ++ (if s.wear.commit.isSome then [.wearCommit] else [])
    ++ (if s.power.requests.isEmpty then [] else [.boostEvaluate])
    ++ (s.power.grants.map fun g => .boostGrantExpire g.id)
    ++ ((s.regions.filter fun r => r.2.nCur != r.2.nTgt).map fun r => .ratioChange r.1)

/-- Every step that may be due, in the default order. -/
def State.due (s : State) : List Instr :=
  s.commonDue ++ (s.cores.flatMap fun c => c.2.due c.1) ++ s.fabric.due ++ s.dispatchDue

/-- A step changes the state; one that a stalled stream holds waits for its key (R407). -/
def State.changes (s : State) (i : Instr) : Bool :=
  !(s.trust.ide.any fun x => x.2.held.contains i) &&
    match exec i s with
    | .next t => t != s
    | _ => true

/-- A region's cycle comes before the next nanosecond: one of each in turn. -/
def State.cycleFirst (s : State) (r : Nat) : Bool := ((s.region r).cyc + s.ns) % 2 == 0

/-- The cores that hold a team. -/
def State.busyCores (s : State) : List Nat := (s.cores.filter fun c => !c.2.teams.isEmpty).map (·.1)

/-- The regions that have something to count: those of busy cores, of cores with lines to zero (R57) or a boost request (R396), and
those of switches with an open window (R146). -/
def State.countingRegions (s : State) : List Nat :=
  let cores := s.busyCores ++ (s.cores.filter fun c => !c.2.zeroing.isEmpty).map (·.1) ++ s.power.requests.map (·.core)
  cores.map s.regionOf ++ (s.fabric.recs.filter fun c => c.isOpen).map fun c => switchRegion c.sw

/-- The default turn. -/
def State.defaultTurn (s : State) : Turn :=
  match s.due.find? s.changes with
  | some i => .event i
  | none =>
    match s.busyCores.find? fun c => s.cycleFirst (s.regionOf c) && (s.nextGroup c).isSome with
    | some c => .issue c
    | none =>
      match s.countingRegions.find? s.cycleFirst with
      | some r => .cycle r
      | none => .pass 1

end Sys2Proof.Machine
end

