-- ==== Sys2Proof/Machine/Step.lean ====
section
/-! DEFINITION. One step: a turn of the agenda, or the model's default turn when none is listed (log entry 2). An
issue turn selects, fetches and decodes, and runs the instruction with its prefixes; every turn ends with what it
releases. -/

namespace Sys2Proof.Machine

/-- Run what stands at the decoding cursor: a prefix that was accepted is followed by what comes after it (R214);
a prefix that faulted has not moved the cursor. -/
def runDecoded : Nat → State → Host.Outcome State Fault Refusal
  | 0, s => .next s
  | n + 1, s =>
    match exec s.decodeIssue.2 s.decodeIssue.1 with
    | .next t => if isPrefix s.decodeIssue.2 && t.issue.p != s.issue.p then runDecoded n t else .next t
    | r => r

/-- Fetch and run the issue in progress. -/
def runIssue (s : State) : Host.Outcome State Fault Refusal :=
  match s.fetchIssue with
  | (t, some i) => exec i t
  | (t, none) => runDecoded 4 t

/-- What a turn does. -/
def takeTurn (t : Turn) (s : State) : Host.Outcome State Fault Refusal :=
  match t with
  | .event i | .again i => exec i s
  | .issue core =>
    match s.startIssue core with
    | some u => runIssue u
    | none => .next s
  | .cycle r => .next (s.endCycle r)
  | .islandCycle r => .next (s.islandCycle r)
  | .pass n => .next (s.passNs n)

/-- The turn that comes, and the state with the rest of the agenda. -/
def nextTurn (s : State) : Turn × State :=
  match s.agenda with
  | t :: rest => (t, { s with agenda := rest })
  | [] => (s.defaultTurn, s)

/-- The page whose sweep a turn has ended before its time: the turn wrote to a page that was being swept (R46). -/
def State.cutSweep (s : State) (turn : Turn) (t : State) : Option Nat :=
  s.mem.sweeping.find? fun p => t.mem.swept.contains p && !s.mem.swept.contains p && turn != .event (.sweepComplete p)
    && turn != .again (.sweepComplete p)

/-- A turn has met a stream that is stalled: a step waits for the stream's key and an issue slot of the core is lost, with nothing of
either done; time goes on (R407; log entry 61). -/
def State.meet (s : State) (turn : Turn) (u : State) (stream : Nat) : State :=
  match turn with
  | .event i | .again i => s.holdStream stream i
  | .issue core =>
    match s.startIssue core with
    | some v => s.updCore core fun k => { k with issued := v.issGroup.uid }
    | none => s
  | .cycle _ | .islandCycle _ | .pass _ =>
    { u with trust := { u.trust with ide := tblMap (fun _ x => { x with met := false }) u.trust.ide } }

/-- What follows a turn: its end; or, where it wrote to a page that is being swept, its wait for the sweep, whose other writes come
first (R46); or its wait for a stalled stream that it met. -/
def State.endTurn (s : State) (turn : Turn) (t : State) : State :=
  match s.cutSweep turn t with
  | some p => { s with agenda := .event (.sweepComplete p) :: turn :: s.agenda }
  | none =>
    let u := t.endIssue.settle.stampSends
    match u.metStall with
    | some i => s.meet turn u i
    | none => u

/-- One step of the machine. -/
def step (s : State) : Host.Outcome State Fault Refusal :=
  match takeTurn (nextTurn s).1 (nextTurn s).2 with
  | .next t => .next ((nextTurn s).2.endTurn (nextTurn s).1 t)
  | r => r

/-- The state with an instruction of the opcode table stored where the next step fetches. -/
def State.withFetchWord (s : State) (nbits w : Nat) : State := s.load (tableParcels nbits w)

end Sys2Proof.Machine
end

