-- ==== Sys2Proof/Safety.lean ====
section
/-! DEFINITION. What a safe run is, and the words that claims are stated in: every memory in canonical form, an issue that
stands on a resident group, and what an instruction leaves unchanged. -/

namespace Sys2Proof.Machine

/-! ## Invariants -/

/-- The memories of a core are in canonical form: its scratchpad and its stationary buffers. -/
def Core.memWf (k : Core) : Prop := k.spad.wf = true ∧ ∀ b ∈ k.engine.bufs, b.2.wf = true

/-- Every memory of the machine is in canonical form: device memory, host memory, the peers' windows, scratchpads and
buffers. -/
def State.MemWf (s : State) : Prop :=
  s.mem.cells.wf = true ∧ s.mem.host.wf = true ∧ (∀ p ∈ s.mem.peers, p.2.wf = true) ∧ ∀ k ∈ s.cores, k.2.memWf

/-- Between steps no instruction is half done: an issue runs whole in its step. -/
def State.Between (s : State) : Prop := s.issue = Issue.idle

/-- A run of n steps that meets no fault and no refusal. -/
def State.Runs (s : State) (n : Nat) : Prop := ∃ t, Host.Core.run Sys2Proof.core n s = .next t

/-! ## An issue in progress -/

/-- The issue in progress stands on a resident group that lists its 32 lanes. -/
structure State.Issuing (s : State) : Prop where
  team  : (tblFind s.issCore.teams s.issue.slot).isSome
  group : (tblFind s.issTeam.groups s.issue.group).isSome
  lanes : ∀ l, l < 32 → (tblFind s.issGroup.lanes l).isSome

/-- A lane of the group that issues in s, as it is in t. -/
def State.laneIn (s t : State) (l : Nat) : Lane := (t.group s.issue.core s.issue.slot s.issue.group).lane l

/-- Every part of the machine outside the issuing core is as before: all of memory, the L1s, every special register. -/
structure State.OutsideCore (s t : State) : Prop where
  rest  : { t with cores := s.cores } = s
  cores : ∀ c, c ≠ s.issue.core → t.core c = s.core c

/-- Every part of the machine outside the issuing group is as before. -/
structure State.OnlyGroup (s t : State) : Prop where
  out    : s.OutsideCore t
  core   : { t.core s.issue.core with teams := s.issCore.teams } = s.issCore
  teams  : ∀ k, k ≠ s.issue.slot → t.team s.issue.core k = s.team s.issue.core k
  team   : { t.team s.issue.core s.issue.slot with groups := s.issTeam.groups } = s.issTeam
  groups : ∀ g, g ≠ s.issue.group → t.group s.issue.core s.issue.slot g = s.group s.issue.core s.issue.slot g

/-- The frame of an instruction that writes registers, guards or program counters of its own lanes and nothing else: every
part of the machine outside the issuing lanes is as before, all of memory, every special register and the fault registers
with it. -/
structure State.OnlyLanes (s t : State) : Prop where
  only   : s.OnlyGroup t
  group  : { t.group s.issue.core s.issue.slot s.issue.group with lanes := s.issGroup.lanes } = s.issGroup
  lanes  : ∀ l, l ∉ s.issLanes → s.laneIn t l = s.issLane l

/-- Every issuing lane changes as f gives, and nothing else changes. -/
structure State.Changes (s t : State) (f : Nat → Lane → Lane) : Prop where
  only : s.OnlyLanes t
  done : ∀ l ∈ s.issLanes, s.laneIn t l = f l (s.issLane l)

/-- What an instruction with no result pending afterwards does: its frame; a lane whose flag is full parks (R212); every other
issuing lane makes its own change and advances. -/
structure State.Performs (s t : State) (flag : FlagSel) (f : Nat → Lane → Lane) : Prop where
  only : s.OnlyLanes t
  full : ∀ l ∈ s.issLanes, (s.issLane l).flagFull flag = true → s.laneIn t l = (s.issLane l).parkFlag flag
  done : ∀ l ∈ s.issLanes, (s.issLane l).flagFull flag = false → s.laneIn t l = (f l (s.issLane l)).goto s.nextPc

/-- A lane with a 32-bit result in a register. -/
def Lane.put32 (x : Lane) (dst : BitVec 10) (v : Word) : Lane := x.setReg dst.toNat v

/-- A lane with a 64-bit result in a register pair, the even register low (R3). -/
def Lane.put64 (x : Lane) (dst : BitVec 10) (v : DWord) : Lane :=
  (x.setReg dst.toNat (v.extractLsb' 0 32)).setReg (dst.toNat + 1) (v.extractLsb' 32 32)

/-- A lane with a result of width W. -/
def Lane.putW (x : Lane) (w64 : Bool) (dst : BitVec 10) (v : Nat) : Lane :=
  if w64 then x.put64 dst (BitVec.ofNat 64 v) else x.put32 dst (BitVec.ofNat 32 v)

/-- A lane with one more result pending under a flag (R212). -/
def Lane.pend (x : Lane) (flag : FlagSel) : Lane :=
  match flag with
  | some f => { x with flags := flagInc x.flags f.val }
  | none => x

/-- A lane that passes a wait it has completed (R162, R202, R212): a wait on copy batches takes the finished ones (R119, R284), and
its flag falls. -/
def Lane.passed (x : Lane) (w : WaitOn) : Lane :=
  Lane.wake (match w with
    | .batches _ ge => x.acquireBatches ge
    | _ => x) w.len

/-- The frame of an instruction that issues something which ends later: it changes lanes of its group, its core's operations
and queue, and the names given; the rest of the machine is as before. -/
structure State.OnlyIssue (s t : State) : Prop where
  rest   : { t with cores := s.cores, fresh := s.fresh } = s
  cores  : ∀ c, c ≠ s.issue.core → t.core c = s.core c
  core   : { t.core s.issue.core with teams := s.issCore.teams, ops := s.issCore.ops, queue := s.issCore.queue } = s.issCore
  teams  : ∀ k, k ≠ s.issue.slot → t.team s.issue.core k = s.team s.issue.core k
  team   : { t.team s.issue.core s.issue.slot with groups := s.issTeam.groups } = s.issTeam
  groups : ∀ g, g ≠ s.issue.group → t.group s.issue.core s.issue.slot g = s.group s.issue.core s.issue.slot g
  group  : { t.group s.issue.core s.issue.slot s.issue.group with lanes := s.issGroup.lanes } = s.issGroup
  lanes  : ∀ l, l ∉ s.issLanes → s.laneIn t l = s.issLane l
  ops    : ∀ n, n ≠ s.fresh → tblFind (t.core s.issue.core).ops n = tblFind s.issCore.ops n

/-- One operation of the lanes of a list is pending in t under the name that s gives next (R212). -/
def State.Pending (s t : State) (ls : List Nat) (flag : FlagSel) (kind : OpKind) : Prop :=
  ∃ o, tblFind (t.core s.issue.core).ops s.fresh = some o ∧ o.kind = kind ∧ o.flag = flag ∧ o.uid = s.issGroup.uid ∧
    o.lanes = maskOf ls

/-- What a special function does at issue (R212, R259): a lane whose flag is full parks, every other issuing lane advances
with its flag raised and its result pending. -/
structure State.Starts (s t : State) (flag : FlagSel) (kind : OpKind) (values : Nat → List Word) : Prop where
  only  : s.OnlyIssue t
  queue : (t.core s.issue.core).queue = s.issCore.queue
  full  : ∀ l ∈ s.issLanes, (s.issLane l).flagFull flag = true → s.laneIn t l = (s.issLane l).parkFlag flag
  done  : ∀ l ∈ s.issLanes, (s.issLane l).flagFull flag = false → s.laneIn t l = ((s.issLane l).pend flag).goto s.nextPc
  op    : ∀ l ∈ s.issLanes, (s.issLane l).flagFull flag = false →
    s.Pending t (s.issLanes.filter fun m => !(s.issLane m).flagFull flag) flag kind ∧
      ∃ o, tblFind (t.core s.issue.core).ops s.fresh = some o ∧ tblFind o.values l = some (values l)

/-- The lanes of a memory instruction that act: their guard is true and their flag is not full (R210, R212). -/
def State.acting (s : State) (guard : Pred) (flag : FlagSel) : List Nat :=
  (s.issLanes.filter fun l => (s.issLane l).pred guard).filter fun l => !(s.issLane l).flagFull flag

/-- The machine once the exchange die has walked its tables for the lanes of an access that name the module's own window (R22, R23,
R55); any other access leaves it as it is. -/
def State.walked (s : State) (guard : Pred) (flag : FlagSel) (addr : Nat → DWord) : State :=
  (s.acting guard flag).foldl (fun s l => s.selfWalk (s.whoIs l) (addr l) 1) s

/-- What a memory instruction whose lanes all reach their bytes does at issue (R90, R212, R270): each acting lane queues one
access at its place, in lane order, and advances with its flag raised; a lane whose guard is false only advances, and one whose
flag is full parks. No byte of memory changes at issue. -/
structure State.Sends (s t : State) (guard : Pred) (flag : FlagSel) (kind : OpKind) (accesses : List (LaneMask × Act × Place)) :
    Prop where
  only  : s.OnlyIssue t
  queue : ∃ new, (t.core s.issue.core).queue = s.issCore.queue ++ new ∧
    ((new.filter fun i => !i.act.isPoint).map fun i => (i.lanes, i.act, i.place)) = accesses
  off   : ∀ l ∈ s.issLanes, (s.issLane l).pred guard = false → s.laneIn t l = (s.issLane l).goto s.nextPc
  full  : ∀ l ∈ s.issLanes, (s.issLane l).pred guard = true → (s.issLane l).flagFull flag = true →
    s.laneIn t l = (s.issLane l).parkFlag flag
  done  : ∀ l ∈ s.acting guard flag, s.laneIn t l = ((s.issLane l).pend flag).goto s.nextPc
  op    : s.acting guard flag ≠ [] → s.Pending t (s.acting guard flag) flag kind

/-- What an access of an action leaves at its place, where `old` stood: the store's bytes; the sum of a faa (R277); the new value of
a cas whose compare value stood there (R279); the value of Table 12.2 for an atom (R278). A load leaves what stood. -/
def Act.Leaves (a : Act) (old new : List Byte) : Prop :=
  let w := 8 * a.size
  let o := leNat old
  (∀ n, a = .load n → new = old) ∧ (∀ d, a = .store d → new = d) ∧
  (∀ v b, a = .faa v b → leNat new = (o + b.toNat) % 2 ^ w) ∧
  (∀ v c x, a = .cas v c x → leNat new = if o = c.toNat % 2 ^ w then x.toNat % 2 ^ w else o) ∧
  ∀ op ty x, a = .atom op ty x →
    let b := x.toNat % 2 ^ w
    let u := ty == .n32 || ty == .n64
    leNat new = (match op, ty with
      | .xchg, _ => b
      | .min, .f32 => fminBits .f32 false o b
      | .max, .f32 => fmaxBits .f32 false o b
      | .min, _ => intMin w u o b
      | .max, _ => intMax w u o b
      | .and, _ => o &&& b
      | .or, _ => o ||| b
      | .xor, _ => o ^^^ b
      | .fadd, _ => faddBits .f32 .rn false o b) % 2 ^ w

/-- What the lanes of an access's operation take where `old` stood: a load's registers; of an atomic the old value, and of a faa
each lane the old value with the addends of the lanes below it (R104, R277). -/
def Op.Takes (o o' : Op) (i : Item) (old : List Byte) : Prop :=
  ∀ l ∈ lanesOf i.lanes,
    (∀ ty d, o.kind = .load ty d → ty ≠ .b128 → i.act = .load (memSize ty) → tblFind o'.values l = some (loadWords ty old)) ∧
    (∀ d, o.kind = .load .b128 d → i.act = .load 8 →
      tblFind o'.values l = some (putHalf (tblGet [] o.values l) (i.place.off % 16 / 8) (wordsOf old))) ∧
    ∀ d w gd, o.kind = .atomic d w gd → i.act.size = (if w then 8 else 4) →
      let below := ((lanesOf i.lanes).filter (· < l)).map fun m => wordsVal (tblGet [] o.values (addendKey m))
      (∀ v b, i.act = .faa v b →
        tblFind o'.values l = some (valueWords w ((leNat old + below.sum) % 2 ^ (8 * i.act.size)))) ∧
      ((∃ op ty b, i.act = .atom op ty b) ∨ (∃ v c x, i.act = .cas v c x) →
        tblFind o'.values l = some (valueWords w (leNat old)))

/-- An access has been performed where `old` stood: it has left its core's queue, and its lanes have what they read, unless they had
ended before (R152). -/
def State.Settles (s t : State) (core : Nat) (i : Item) (old : List Byte) : Prop :=
  ((t.core core).item i.id).isNone ∧
    ∀ o, tblFind (s.core core).ops i.op = some o → o.kind ≠ .store → (o.ended &&& i.lanes) = 0 →
      ∃ o', tblFind (t.core core).ops i.op = some o' ∧ o.Takes o' i old

/-- Memory at the homes has no error waiting to be found, nothing stands in it under a clean sector of the L2, and the expansion
link's stream has not failed: reading it changes no byte. -/
def State.HSound (s : State) : Prop :=
  s.mem.latent = [] ∧ (∀ x ∈ s.mem.l2, x.2.bad = none ∧ (x.2.dirty = false → x.2.under = none)) ∧
    (s.stream expStream).fail = false

/-- A core has stopped on a fault: the registers of Table 15.2 report it. -/
def State.StoppedOn (s : State) (core : Nat) (code : Nat) (lanes : LaneMask) (pc : PAddr) : Prop :=
  (s.core core).flt.stopped = true ∧
    ∃ r, (s.core core).flt.cur = some r ∧ r.code = code ∧ r.lanes = lanes ∧ r.pc = pc

end Sys2Proof.Machine
end

