-- ==== Sys2Proof/Certificates/Slice0/Obligations.lean ====
section
/-! DEFINITION. The statements for the provers, from the numbered rules of spec/. A statement of an instruction's result is
also its completion: it says that exec answers a next state, for every state and operands that meet its hypotheses. Where an
issue stands on a resident group, `Performs` gives the whole frame: every part of the machine outside the issuing lanes is as
before, and an issuing lane makes exactly the change given and advances. -/

open Sys2Proof Sys2Proof.Machine

/-! ## Integer and bit operations (10 R226 to R242) -/

/-- R236 to R239 (Table 10.2): the two-source operations at width W. Instructions: add, sub, mul, mulhi, min, max, div, rem,
and, or, xor.

R236, R238 (Table 10.2): the shifts, whose count is a 32-bit source, and mulw, whose sources are 32 bits wide and whose
result is the exact 64-bit product. Instructions: shl, shr, sar, rotl, mulw. -/
def Obligations.IntegerTwoSourceResults : Prop :=
  (∀ (s : State) (f : VBin), s.Issuing → s.regsOk (wRegs f.t.w) f.h.dst.toNat = true →
      s.srcOk (wRegs f.t.w) f.a = true → s.srcOk (wRegs f.t.w) f.b = true →
      ∀ c ∈ [(Instr.add f, intAdd (ITy.bits f.t) f.t.u f.m), (.sub f, intSub (ITy.bits f.t) f.t.u f.m),
          (.mul f, intMul (ITy.bits f.t)), (.mulhi f, intMulhi (ITy.bits f.t) f.t.u), (.min f, intMin (ITy.bits f.t) f.t.u),
          (.max f, intMax (ITy.bits f.t) f.t.u), (.div f, intDiv (ITy.bits f.t) f.t.u), (.rem f, intRem (ITy.bits f.t) f.t.u),
          (.and f, fun a b => a &&& b), (.or f, fun a b => a ||| b), (.xor f, fun a b => a ^^^ b)],
        ∃ t, exec c.1 s = .next t ∧ s.Performs t f.h.flag fun l x =>
          x.putW f.t.w f.h.dst (c.2 (s.srcW f.t.w 0 l f.a) (s.srcW f.t.w 1 l f.b))) ∧
  (∀ (s : State) (f : VBin), s.Issuing → s.srcOk 1 f.b = true →
      (s.regsOk (wRegs f.t.w) f.h.dst.toNat = true → s.srcOk (wRegs f.t.w) f.a = true →
        ∀ c ∈ [(Instr.shl f, intShl (ITy.bits f.t)), (.shr f, intShr (ITy.bits f.t)), (.sar f, intSar (ITy.bits f.t)),
            (.rotl f, intRotl (ITy.bits f.t))],
          ∃ t, exec c.1 s = .next t ∧ s.Performs t f.h.flag fun l x =>
            x.putW f.t.w f.h.dst (c.2 (s.srcW f.t.w 0 l f.a) (s.src32 1 l f.b).toNat)) ∧
      (s.regsOk 2 f.h.dst.toNat = true → s.srcOk 1 f.a = true →
        ∃ t, exec (.mulw f) s = .next t ∧ s.Performs t f.h.flag fun l x =>
          x.putW true f.h.dst ((valOf 32 f.t.u (s.src32 0 l f.a).toNat * valOf 32 f.t.u (s.src32 1 l f.b).toNat) % 2 ^ 64).toNat))

/-- R236, R241 (Table 10.2): the one-source operations; popc and clz give 32-bit results at any width. Instructions: abs, neg,
not, brev, mov, popc, clz.

R236, R238, R239 (Table 10.2): the three-source operations, each with the widths of its sources. Instructions: mad, sad,
lop3, bfe, perm, bfi, fsh, lea. -/
def Obligations.IntegerOneAndThreeSourceResults : Prop :=
  (∀ (s : State) (f : VUn), s.Issuing → s.srcOk (wRegs f.t.w) f.a = true →
      (s.regsOk (wRegs f.t.w) f.h.dst.toNat = true →
        ∀ c ∈ [(Instr.abs f, intAbs (ITy.bits f.t) f.m), (.neg f, intNeg (ITy.bits f.t) f.t.u f.m), (.not f, intNot (ITy.bits f.t)),
            (.brev f, intBrev (ITy.bits f.t)), (.mov f, id)],
          ∃ t, exec c.1 s = .next t ∧ s.Performs t f.h.flag fun l x => x.putW f.t.w f.h.dst (c.2 (s.srcW f.t.w 0 l f.a))) ∧
      (s.regsOk 1 f.h.dst.toNat = true →
        ∀ c ∈ [(Instr.popc f, intPopc (ITy.bits f.t)), (.clz f, intClz (ITy.bits f.t))],
          ∃ t, exec c.1 s = .next t ∧ s.Performs t f.h.flag fun l x =>
            x.put32 f.h.dst (BitVec.ofNat 32 (c.2 (s.srcW f.t.w 0 l f.a))))) ∧
  (∀ (s : State) (f : TInt) (tt : BitVec 8) (k : BitVec 3), s.Issuing →
      (s.regsOk (wRegs f.t.w) f.h.dst.toNat = true → s.srcOk (wRegs f.t.w) f.a = true →
        ∀ c ∈ [(Instr.mad f, f.t.w, f.t.w, fun a b c => (a * b + c) % 2 ^ ITy.bits f.t),
            (.sad f, f.t.w, f.t.w, intSad (ITy.bits f.t) f.t.u), (.lop3 f tt, f.t.w, f.t.w, intLop3 (ITy.bits f.t) tt.toNat),
            (.bfe f, false, false, intBfe (ITy.bits f.t) f.t.u), (.perm f, false, false, intPerm),
            (.bfi f, false, f.t.w, intBfi (ITy.bits f.t)), (.fsh f, f.t.w, false, intFsh (ITy.bits f.t) f.m)],
          s.srcOk (wRegs c.2.1) f.b = true → s.srcOk (wRegs c.2.2.1) f.c = true →
          ∃ t, exec c.1 s = .next t ∧ s.Performs t f.h.flag fun l x =>
            x.putW f.t.w f.h.dst (c.2.2.2 (s.srcW f.t.w 0 l f.a) (s.srcW c.2.1 1 l f.b) (s.srcW c.2.2.1 2 l f.c))) ∧
      (s.regsOk 2 f.h.dst.toNat = true → s.srcOk 2 f.a = true → s.srcOk 1 f.b = true → s.srcOk 2 f.c = true →
        ∃ t, exec (.lea f k) s = .next t ∧ s.Performs t f.h.flag fun l x =>
          x.put64 f.h.dst (s.src64 0 l f.a +
            BitVec.ofInt 64 (valOf 32 f.t.u (s.src32 1 l f.b).toNat * 2 ^ k.toNat) + s.src64 2 l f.c)))

/-- R240 to R242 (Tables 10.3, 10.4): the immediate forms; the immediate is IMM20, or IMM20 with the 28 bits of px.lit above
it, extended by its sign (R215). Instructions: addi, muli, andi, ori, xori, shli, shri, sari, movi, gtag. -/
def Obligations.ImmediateResults : Prop :=
  ∀ (s : State) (f : IForm) (a : Src) (tag : BitVec 20), s.Issuing →
    (s.regsOk (wRegs f.t.w) f.dst.toNat = true → s.srcOk (wRegs f.t.w) f.a = true →
      (∀ c ∈ [(Instr.addi f, intAdd (ITy.bits f.t) f.t.u f.m), (.muli f, intMul (ITy.bits f.t)), (.andi f, fun a b => a &&& b),
          (.ori f, fun a b => a ||| b), (.xori f, fun a b => a ^^^ b)],
        ∃ t, exec c.1 s = .next t ∧ s.Performs t none fun l x =>
          x.putW f.t.w f.dst (c.2 (s.srcW f.t.w 0 l f.a) (s.immW f.t.w f.imm))) ∧
      ((s.imm48 f.imm).toNat < ITy.bits f.t →
        ∀ c ∈ [(Instr.shli f, intShl (ITy.bits f.t)), (.shri f, intShr (ITy.bits f.t)), (.sari f, intSar (ITy.bits f.t))],
          ∃ t, exec c.1 s = .next t ∧ s.Performs t none fun l x =>
            x.putW f.t.w f.dst (c.2 (s.srcW f.t.w 0 l f.a) (s.immW f.t.w f.imm)))) ∧
    (s.regsOk (wRegs f.t.w) f.dst.toNat = true →
      ∃ t, exec (.movi f) s = .next t ∧ s.Performs t none fun _ x => x.putW f.t.w f.dst (s.immW f.t.w f.imm)) ∧
    (s.regsOk 2 f.dst.toNat = true → s.srcOk 2 a = true → (s.imm48 tag).toNat < 16 →
      ∃ t, exec (.gtag f.dst a tag) s = .next t ∧ s.Performs t none fun l x =>
        x.put64 f.dst (((s.imm48 tag).extractLsb' 0 4) ++ (s.src64 0 l a).extractLsb' 0 60))


/-! ## Compare, guard and select (10 R243 to R248) -/

/-- R243 to R246, R248 (Table 10.5): the instructions that write a guard of each lane; the source guards are those of the lane
itself. Instructions: icmp, icmpi, fcmp, fclass, gop, gmov to a guard.

R246, R247 (Table 10.5): gmov to a register gives 1 or 0; sel takes its first source where its guard GS is true and its
second where it is false, and a lane whose predicate is false only advances. -/
def Obligations.GuardAndSelectResults : Prop :=
  (∀ (s : State) (h : VHead) (c : Cond) (it : ITy) (ft : FTy) (op : Comb) (gop : GOp) (ga gb : Pred) (a b : Src)
      (m : BitVec 9) (imm : BitVec 20), s.Issuing → h.dst.toNat < 7 →
      (s.srcOk (wRegs it.w) a = true → s.srcOk (wRegs it.w) b = true →
        ∃ t, exec (.icmp h c it op ga a b) s = .next t ∧ s.Performs t h.flag fun l x =>
          x.setGuard h.dst.toNat (combine op (relInt c (valOf (ITy.bits it) it.u (s.srcW it.w 0 l a))
            (valOf (ITy.bits it) it.u (s.srcW it.w 1 l b))) (x.pred ga))) ∧
      (s.srcOk (wRegs it.w) a = true →
        ∃ t, exec (.icmpi h.dst c it a imm) s = .next t ∧ s.Performs t none fun l x =>
          x.setGuard h.dst.toNat (relInt c (valOf (ITy.bits it) it.u (s.srcW it.w 0 l a))
            (valOf (ITy.bits it) it.u (s.immW it.w imm)))) ∧
      (s.srcOk 1 a = true → s.srcOk 1 b = true →
        ∃ t, exec (.fcmp h c ft op ga a b) s = .next t ∧ s.Performs t h.flag fun l x =>
          x.setGuard h.dst.toNat (combine op (relFloat c ((ftyFmt ft).read s.ftz (s.fsrc ft 0 l a))
            ((ftyFmt ft).read s.ftz (s.fsrc ft 1 l b))) (x.pred ga))) ∧
      (s.srcOk 1 a = true →
        ∃ t, exec (.fclass h ft a m) s = .next t ∧ s.Performs t h.flag fun l x =>
          x.setGuard h.dst.toNat (m.getLsbD (classBit (ftyFmt ft) ((ftyFmt ft).read s.ftz (s.fsrc ft 0 l a))))) ∧
      (∃ t, exec (.gop h gop ga gb) s = .next t ∧ s.Performs t h.flag fun _ x =>
          x.setGuard h.dst.toNat (guardOp gop (x.pred ga) (x.pred gb))) ∧
      (s.srcOk 1 a = true →
        ∃ t, exec (.gmov h (.toGuard a)) s = .next t ∧ s.Performs t h.flag fun l x =>
          x.setGuard h.dst.toNat (s.src32 0 l a != 0))) ∧
  (∀ (s : State) (h : VHead) (g : Pred) (f : SForm), s.Issuing →
      (s.regsOk 1 h.dst.toNat = true →
        ∃ t, exec (.gmov h (.toReg g)) s = .next t ∧ s.Performs t h.flag fun _ x =>
          x.put32 h.dst (if x.pred g then 1 else 0)) ∧
      (s.regsOk (wRegs f.w) f.dst.toNat = true → s.srcOk (wRegs f.w) f.a = true → s.srcOk (wRegs f.w) f.b = true →
        ∃ t, exec (.sel f) s = .next t ∧ s.Performs t none fun l x =>
          if x.pred f.guard then x.putW f.w f.dst (if x.pred f.gs then s.srcW f.w 0 l f.a else s.srcW f.w 1 l f.b) else x))

/-! ## Lane operations (11 R262 to R268) -/

/-- R262, R264 to R266: operations across the lanes of a tile that issue together. A lane's participants are the lanes of its
tile that perform the instruction. Instructions: shfl, vote in its four modes, match.

R263: twset writes TW of the group and every issuing lane advances; the rest of the machine is as before. -/
def Obligations.LaneOperationResults : Prop :=
  (∀ (s : State) (h : VHead) (mode : ShflMode) (w : Bool) (gv : BitVec 3) (ga : Pred) (a b : Src), s.Issuing →
      (s.regsOk (wRegs w) h.dst.toNat = true → s.srcOk (wRegs w) a = true → s.srcOk 1 b = true →
        ∃ t, exec (.shfl h mode w gv a b) s = .next t ∧ s.Performs t h.flag fun l x =>
          let (m, valid) := s.shflLane h.flag mode l (s.src32 1 l b).toNat
          let y := x.putW w h.dst (s.srcW w (16 + l) m a)
          if gv = 7 then y else y.setGuard gv.toNat valid) ∧
      (h.dst.toNat < 7 →
        ∀ c ∈ [(VoteMode.all, fun l => (s.participants h.flag l).all fun m => (s.issLane m).pred ga),
            (.any, fun l => (s.participants h.flag l).any fun m => (s.issLane m).pred ga),
            (.uni, fun l => (s.participants h.flag l).all (fun m => (s.issLane m).pred ga) ||
              !(s.participants h.flag l).any fun m => (s.issLane m).pred ga)],
          ∃ t, exec (.vote h c.1 ga) s = .next t ∧ s.Performs t h.flag fun l x => x.setGuard h.dst.toNat (c.2 l)) ∧
      (s.regsOk 1 h.dst.toNat = true →
        ∃ t, exec (.vote h .ballot ga) s = .next t ∧ s.Performs t h.flag fun l x =>
          x.put32 h.dst (maskOf ((s.participants h.flag l).filter fun m => (s.issLane m).pred ga))) ∧
      (s.regsOk 1 h.dst.toNat = true → s.srcOk (wRegs w) a = true →
        ∃ t, exec (.matchLanes h w a) s = .next t ∧ s.Performs t h.flag fun l x =>
          x.put32 h.dst (maskOf ((s.participants h.flag l).filter fun m =>
            s.srcW w (16 + l) m a == s.srcW w (16 + l) l a)))) ∧
  (∀ (s : State) (tw : BitVec 20), s.Issuing → (s.imm48 tw).toNat ∈ [2, 4, 8, 16, 32] → s.issue.lanes ≠ 0 →
      ∃ t, exec (.twset tw) s = .next t ∧ s.OnlyGroup t ∧
        { t.group s.issue.core s.issue.slot s.issue.group with lanes := s.issGroup.lanes } =
          { s.issGroup with tw := (s.imm48 tw).toNat } ∧
        (∀ l ∈ s.issLanes, s.laneIn t l = (s.issLane l).goto s.nextPc) ∧ ∀ l, l ∉ s.issLanes → s.laneIn t l = s.issLane l)

/-- R267, R268: red gives every lane of a tile the tree over the tile's performing lanes; scan gives a lane the left fold over
those below it, or up to it, and the identity where there are none. Instructions: red, scan. -/
def Obligations.ReductionResults : Prop :=
  ∀ (s : State) (h : VHead) (op : RedOp) (ty : RedTy) (rnd : Rnd) (excl : Bool) (a : Src), s.Issuing →
    s.regsOk (wRegs (redWide ty)) h.dst.toNat = true → s.srcOk (wRegs (redWide ty)) a = true →
    (∃ t, exec (.red h op ty rnd a) s = .next t ∧ s.Performs t h.flag fun l x =>
      x.putW (redWide ty) h.dst ((redTree (redOp op ty rnd s.ftz) (s.redVal h.flag ty a l) (Nat.log2 s.tileWidth)
        (s.tileBase l)).getD 0)) ∧
    (∃ t, exec (.scan h op ty rnd excl a) s = .next t ∧ s.Performs t h.flag fun l x =>
      x.putW (redWide ty) h.dst ((scanFold (redOp op ty rnd s.ftz) (s.redVal h.flag ty a l)
        ((List.range (l - s.tileBase l + if excl then 0 else 1)).map (· + s.tileBase l))).getD (redIdentity op ty)))

/-- R267: over a tile of 2^k lanes the tree of an integer add is the sum of the values of the lanes that perform the
instruction, modulo 2^32; lanes that do not are left out, and a tile with none has no result. -/
def Obligations.ReductionAddIsTheTileSum : Prop :=
  ∀ (v : Nat → Option Nat) (mode : Rnd) (ftz : Bool) (k lo : Nat), (∀ i x, v i = some x → x < 2 ^ 32) →
    let present := (List.range (2 ^ k)).filterMap fun i => v (lo + i)
    redTree (redOp .add .n32 mode ftz) v k lo = if present.isEmpty then none else some (present.sum % 2 ^ 32)

/-! ## Vector float and conversion (08, 11 R255 to R261, 10 R249 to R254) -/

/-- R255 to R258 (Tables 11.1, 11.2): float operations on the codes of their type, with the team's FTZ16 (Table 8.6).
Instructions: fadd, fsub, fmul, fmin, fmax, fcpsgn, fadd2, fmul2, fmin2, fmax2, fma, fma2, fdot2. -/
def Obligations.FloatResults : Prop :=
  ∀ (s : State) (f : FBin) (g : FTri), s.Issuing →
    (s.regsOk 1 f.h.dst.toNat = true → s.srcOk 1 f.a = true → s.srcOk 1 f.b = true →
      ∀ c ∈ [(Instr.fadd f, faddBits f.ty f.rnd s.ftz), (.fsub f, fsubBits f.ty f.rnd s.ftz),
          (.fmul f, fmulBits f.ty f.rnd s.ftz), (.fmin f, fminBits f.ty s.ftz), (.fmax f, fmaxBits f.ty s.ftz),
          (.fcpsgn f, fcpsgnBits f.ty s.ftz), (.fadd2 f, both2 (faddBits f.ty f.rnd s.ftz)),
          (.fmul2 f, both2 (fmulBits f.ty f.rnd s.ftz)), (.fmin2 f, both2 (fminBits f.ty s.ftz)),
          (.fmax2 f, both2 (fmaxBits f.ty s.ftz))],
        ∃ t, exec c.1 s = .next t ∧ s.Performs t f.h.flag fun l x =>
          x.put32 f.h.dst (BitVec.ofNat 32 (c.2 (s.src32 0 l f.a).toNat (s.src32 1 l f.b).toNat))) ∧
    (s.regsOk 1 g.h.dst.toNat = true → s.srcOk 1 g.a = true → s.srcOk 1 g.b = true → s.srcOk 1 g.c = true →
      ∀ c ∈ [(Instr.fma g, fmaBits g.ty g.rnd s.ftz), (.fma2 g, both3 (fmaBits g.ty g.rnd s.ftz)),
          (.fdot2 g, fdot2Bits g.ty g.rnd s.ftz)],
        ∃ t, exec c.1 s = .next t ∧ s.Performs t g.h.flag fun l x =>
          x.put32 g.h.dst (BitVec.ofNat 32 (c.2 (s.src32 0 l g.a).toNat (s.src32 1 l g.b).toNat (s.src32 2 l g.c).toNat)))

/-- R250 to R254, R256 (Tables 8.7, 11.1): one-source float operations and conversions. A LUT4 source of cvt is looked up in
the code table that the group's lut reads. Instructions: fabs, fneg, frnd, unpk, lut, cvt.

R251, R261: cvtpk writes two elements of the destination and rq writes one; the other bits of the register keep their
values. Instructions: cvtpk, rq. -/
def Obligations.ConversionResults : Prop :=
  (∀ (s : State) (f : FUn) (d t : CTy) (e : BitVec 4) (n p ct : BitVec 2) (f16 : Bool), s.Issuing →
      (s.regsOk 1 f.h.dst.toNat = true → s.srcOk 1 f.a = true →
        ∀ c ∈ [(Instr.fabs f, fabsBits f.ty s.ftz), (.fneg f, fnegBits f.ty s.ftz),
            (.frnd f.h f.ty f.rnd f.a, frndBits f.ty f.rnd s.ftz),
            (.unpk f.h d t e f.a, fun x => convertBits d t .rn s.ftz (x >>> (CTy.bits t * e.toNat))),
            (.lut f.h n p f16 f.a, fun x =>
              let one := fun k => (if f16 then fmtF16 else fmtBf16).round .rn s.ftz (s.lutVal n.toNat (x >>> (4 * k) % 16))
              one (2 * p.toNat) + 65536 * one (2 * p.toNat + 1))],
          ∃ u, exec c.1 s = .next u ∧ s.Performs u f.h.flag fun l x =>
            x.put32 f.h.dst (BitVec.ofNat 32 (c.2 (s.src32 0 l f.a).toNat))) ∧
      (s.regsOk (wRegs (CTy.bits d == 64)) f.h.dst.toNat = true → s.srcOk (wRegs (CTy.bits t == 64)) f.a = true →
        ∃ u, exec (.cvt f.h d t f.rnd ct f.a) s = .next u ∧ s.Performs u f.h.flag fun l x =>
          x.putW (CTy.bits d == 64) f.h.dst
            (if t = .lut4 then convertFrom d f.rnd s.ftz (s.lutVal ct.toNat ((s.src32 0 l f.a).toNat % 16))
             else convertBits d t f.rnd s.ftz (s.srcW (CTy.bits t == 64) 0 l f.a)))) ∧
  (∀ (s : State) (h : VHead) (d t : CTy) (rnd : Rnd) (p : BitVec 2) (ty : RqTy) (sh e : BitVec 5) (a b c : Src), s.Issuing →
      s.regsOk 1 h.dst.toNat = true → s.srcOk 1 a = true → s.srcOk 1 b = true →
      (∃ u, exec (.cvtpk h d t rnd p a b) s = .next u ∧ s.Performs u h.flag fun l x =>
        x.put32 h.dst (BitVec.ofNat 32
          (setElem (CTy.bits d) (2 * p.toNat + 1)
            (setElem (CTy.bits d) (2 * p.toNat) (s.readReg 3 l h.dst.toNat).toNat (convertBits d t rnd s.ftz (s.src32 0 l a).toNat))
            (convertBits d t rnd s.ftz (s.src32 1 l b).toNat)))) ∧
      (s.srcOk 1 c = true →
        ∃ u, exec (.rq h ty rnd sh e a b c) s = .next u ∧ s.Performs u h.flag fun l x =>
          x.put32 h.dst (BitVec.ofNat 32 (setElem (rqBits ty) e.toNat (s.readReg 3 l h.dst.toNat).toNat
            (narrow (rqBits ty)
              (rqVal ty rnd sh.toNat (s.src32 0 l a).toNat (s.src32 1 l b).toNat (s.src32 2 l c).toNat))))))

/-- R212, R259 (Table 11.3): a special function is computed at issue and its result is pending; the .f32 forms within a bound
take the value of log entry 5. Instructions: rcp, rsqrt, sqrt, exp2, log2, sin, cos, tanh. -/
def Obligations.SpecialFunctionsIssue : Prop :=
  ∀ (s : State) (f : FUn), s.Issuing → s.issue.lanes ≠ 0 → s.regsOk 1 f.h.dst.toNat = true → s.srcOk 1 f.a = true →
    ∀ c ∈ [(Instr.rcp f, rcpBits f.ty f.rnd s.ftz), (.rsqrt f, SfuFn.rsqrt.apply f.ty s.ftz),
        (.sqrt f, sqrtBits f.ty f.rnd s.ftz), (.exp2 f, SfuFn.exp2.apply f.ty s.ftz), (.log2 f, SfuFn.log2.apply f.ty s.ftz),
        (.sin f, SfuFn.sin.apply f.ty s.ftz), (.cos f, SfuFn.cos.apply f.ty s.ftz), (.tanh f, SfuFn.tanh.apply f.ty s.ftz)],
      ∃ t, exec c.1 s = .next t ∧
        s.Starts t f.h.flag (.sfu f.h.dst.toNat) fun l => [BitVec.ofNat 32 (c.2 (s.fsrc f.ty 0 l f.a))]

/-! ## Control flow (10 R230 to R235), prefixes (09 R214 to R216), waits -/

/-- R230 to R232: nop and yield advance, yield with YLD set; bra takes the lanes whose guard is true to the parcel its offset
counts to from its own, and the others to the next; brr takes each lane to the address it gives. Targets that are marked.

R203, R232: a transfer to a parcel that is not marked, or with bits above 56, is an illegal-branch-target fault: the core
stops with code 0x06, and no lane moves.

R233: a return with an empty return stack is a return-stack-underflow fault (code 0x08), and no lane moves. -/
def Obligations.BranchResultsAndTransferFaults : Prop :=
  (∀ (s : State) (g : Pred) (off : BitVec 18) (a : Src), s.Issuing →
     (∃ t, exec .nop s = .next t ∧ s.Changes t fun _ x => x.goto s.nextPc) ∧
     (∃ t, exec .yield s = .next t ∧ s.Changes t fun _ x => { x with yld := true }.goto s.nextPc) ∧
     ((∀ l ∈ s.guarded g, s.marked s.issue.core s.issTeam.grid (s.issue.p + (s.off46 off).setWidth 57) = true) →
       ∃ t, exec (.bra g off) s = .next t ∧ s.Changes t fun _ x =>
         x.goto (if x.pred g then s.issue.p + (s.off46 off).setWidth 57 else s.nextPc)) ∧
     (s.srcOk 2 a = true → (∀ l ∈ s.issLanes, (s.src64 0 l a).toNat < 2 ^ 57 ∧
         s.marked s.issue.core s.issTeam.grid ((s.src64 0 l a).setWidth 57) = true) →
       ∃ t, exec (.brr a) s = .next t ∧ s.Changes t fun l x => x.goto ((s.src64 0 l a).setWidth 57))) ∧
  ((∀ (s : State) (g : Pred) (off : BitVec 18) (a : Src), s.Issuing → (s.core s.issue.core).flt.stopped = false →
       (∀ l ∈ s.issLanes, (s.issLane l).tl = false) →
       ((s.guarded g ≠ [] ∧ s.marked s.issue.core s.issTeam.grid (s.issue.p + (s.off46 off).setWidth 57) = false) →
         ∃ t, exec (.bra g off) s = .next t ∧ t.StoppedOn s.issue.core 0x06 (maskOf (s.guarded g)) s.issue.p ∧
           ∀ l, s.laneIn t l = s.issLane l) ∧
       (s.srcOk 2 a = true → s.issue.lanes ≠ 0 → (∀ l ∈ s.issLanes, 2 ^ 57 ≤ (s.src64 0 l a).toNat) →
         ∃ t, exec (.brr a) s = .next t ∧ t.StoppedOn s.issue.core 0x06 s.issue.lanes s.issue.p ∧
           ∀ l, s.laneIn t l = s.issLane l)) ∧
   (∀ (s : State), s.Issuing → (s.core s.issue.core).flt.stopped = false → s.issue.lanes ≠ 0 →
       (∀ l ∈ s.issLanes, (s.issLane l).depth = 0 ∧ (s.issLane l).tl = false) →
       ∃ t, exec .ret s = .next t ∧ t.StoppedOn s.issue.core 0x08 s.issue.lanes s.issue.p ∧ ∀ l, s.laneIn t l = s.issLane l))


/-- R231 to R234: call and callr push the address of the next parcel in slot (depth + 1) mod 8 and transfer; ret takes the
address from slot depth mod 8. While the depth stays at most 8 nothing is spilled or refilled, and memory is unchanged.

R234, R235: past depth 8 a call first stores the entry that slot (depth + 1) mod 8 holds, at S − 8 × (depth + 1 − 8) of
the lane's private space, and a return refills the slot it frees from there. One lane that may make its access at once. -/
def Obligations.CallReturnAndSpillResults : Prop :=
  (∀ (s : State) (g : Pred) (off : BitVec 18) (a : Src), s.Issuing →
     ((∀ l ∈ s.guarded g, (s.issLane l).depth < 8 ∧
         s.marked s.issue.core s.issTeam.grid (s.issue.p + (s.off46 off).setWidth 57) = true) →
       ∃ t, exec (.call g off) s = .next t ∧ s.Changes t fun _ x =>
         if x.pred g then
           ({ x with slots := tblSet x.slots ((x.depth + 1) % 8) s.nextPc, depth := x.depth + 1 } : Lane).goto
             (s.issue.p + (s.off46 off).setWidth 57)
         else x.goto s.nextPc) ∧
     (s.srcOk 2 a = true → (∀ l ∈ s.issLanes, (s.issLane l).depth < 8 ∧ (s.src64 0 l a).toNat < 2 ^ 57 ∧
         s.marked s.issue.core s.issTeam.grid ((s.src64 0 l a).setWidth 57) = true) →
       ∃ t, exec (.callr a) s = .next t ∧ s.Changes t fun l x =>
         ({ x with slots := tblSet x.slots ((x.depth + 1) % 8) s.nextPc, depth := x.depth + 1 } : Lane).goto
           ((s.src64 0 l a).setWidth 57)) ∧
     ((∀ l ∈ s.issLanes, 0 < (s.issLane l).depth ∧ (s.issLane l).depth ≤ 8 ∧
         s.marked s.issue.core s.issTeam.grid (tblGet 0 (s.issLane l).slots ((s.issLane l).depth % 8)) = true) →
       ∃ t, exec .ret s = .next t ∧ s.Changes t fun _ x =>
         ({ x with depth := x.depth - 1 } : Lane).goto (tblGet 0 x.slots (x.depth % 8)))) ∧
  (∀ (s : State) (off : BitVec 18) (l : Nat) (p : Place) (ch vpn : Nat), s.Issuing → s.issLanes = [l] →
     (s.issLane l).tl = false →
     (8 ≤ (s.issLane l).depth → s.marked s.issue.core s.issTeam.grid (s.issue.p + (s.off46 off).setWidth 57) = true → (s.issLane l).depth < 65535 →
       s.ownReach l (s.spillAt ((s.issLane l).depth + 1)) 8 8 .store = .ok p ch vpn → s.ownBlockers l p 8 true = [] →
       s.ownHolds p ch 8 = none →
       ∃ t u, exec (.call ⟨7, false⟩ off) s = .next t ∧
         u = s.ownStore s.issue.core s.issGroup.uid s.issGrid.ctx p ch
           (natLe (tblGet 0 (s.issLane l).slots (((s.issLane l).depth + 1) % 8)).toNat 8) ∧
         t.mem = u.mem ∧ t.l1 = u.l1 ∧ (s.laneIn t l).depth = (s.issLane l).depth + 1 ∧
         tblGet 0 (s.laneIn t l).slots (((s.issLane l).depth + 1) % 8) = s.nextPc ∧
         (s.laneIn t l).pc = s.issue.p + (s.off46 off).setWidth 57) ∧
     (8 < (s.issLane l).depth →
       s.marked s.issue.core s.issTeam.grid (tblGet 0 (s.issLane l).slots ((s.issLane l).depth % 8)) = true →
       s.ownReach l (s.spillAt (s.issLane l).depth) 8 8 .load = .ok p ch vpn → s.ownBlockers l p 8 false = [] →
       s.ownHolds p ch 8 = none →
       ∃ t, exec .ret s = .next t ∧ (s.laneIn t l).depth = (s.issLane l).depth - 1 ∧
         (s.laneIn t l).pc = tblGet 0 (s.issLane l).slots ((s.issLane l).depth % 8) ∧
         tblGet 0 (s.laneIn t l).slots ((s.issLane l).depth % 8) =
           BitVec.ofNat 57 (leNat (s.ownLoad s.issue.core s.issGroup.uid s.issGrid.ctx p ch 8).2)))


/-- R171, R175, R230: the lanes that exit are EXITED and the others keep their status; with the group's last lane, and at a
detach whatever its lanes, the group is no longer resident. -/
def Obligations.ExitAndDetachResults : Prop :=
  ∀ (s : State), s.Issuing →
    ((∃ l, l < 32 ∧ l ∉ s.issLanes ∧ (s.issLane l).live = true) →
      ∃ t, exec .exit s = .next t ∧ (∀ l ∈ s.issLanes, (s.laneIn t l).status = .exited) ∧
        ∀ l, l ∉ s.issLanes → (s.laneIn t l).status = (s.issLane l).status) ∧
    (s.issue.lanes ≠ 0 → (∀ l, l < 32 → (s.issLane l).live = true → l ∈ s.issLanes) →
      ∃ t, exec .exit s = .next t ∧ tblFind (t.team s.issue.core s.issue.slot).groups s.issue.group = none) ∧
    (s.issue.lanes ≠ 0 →
      ∃ t, exec .detach s = .next t ∧ tblFind (t.team s.issue.core s.issue.slot).groups s.issue.group = none)

/-- R214 to R216 (Table 9.6): a prefix that may stand where it stands is recorded for the instruction after it, which is decoded
from the next parcel; nothing else changes. -/
def Obligations.PrefixResults : Prop :=
  ∀ (s : State) (lit : BitVec 28) (o : MemOrd) (sc : Scope) (twc : BitVec 3), s.issue.lanes ≠ 0 →
    let next := fun (i : Issue) => { s with issue := { i with p := s.issue.p + 1, line := s.issue.line.drop 1 } }
    (pxAccepted 0 (fun w => pxFormat w != .other) s.issue.line = true →
      exec (.pxLit lit) s = .next (next { s.issue with lit := some lit })) ∧
    (pxAccepted 1 (fun w => ordTaken w o) s.issue.line = true →
      exec (.pxScope o sc) s = .next (next { s.issue with scope := some (o, sc, s.issue.p) })) ∧
    (pxAccepted 2 takesTile s.issue.line = true → exec (.pxTile twc) s = .next (next { s.issue with tile := some twc }))

/-- R213, R284, R287, R289: a lane whose wait is over passes it in the same step, and any other lane waits, with the flag of its
instruction set (R212). Instructions: flwait, cpy.wait, ring.wait, tlwait.

R296, R297: a lane waits ceil(d × f / 1000) cycles of the clock that drives it, f in MHz; a count of 0 is over at once.
WAIT_EXPIRE takes a lane whose count has run out past its instruction, and its flag falls. Instructions and events: sleep.ns, wait.ns,
WAIT_EXPIRE. -/
def Obligations.WaitResults : Prop :=
  (∀ (s : State) (h : VHead) (m : BitVec 12) (n : BitVec 4) (ge : BitVec 3) (ring : BitVec 3) (empty v : Bool) (st : Src)
      (sel : BitVec 7) (sc : Scope) (x : Src), s.Issuing → s.issue.lanes ≠ 0 → s.srcOk 1 st = true → s.srcOk 2 x = true →
      (∀ l ∈ s.issLanes, s.issTeam.stageOk ring.toNat (s.src32 0 l st).toNat = true) → timelineSel sel.toNat = true →
      ∀ c ∈ [(Instr.flwait m, none, fun _ => WaitOn.flags m), (.cpyWait n ge, none, fun _ => .batches n.toNat ge),
          (.ringWait h ring empty v st, h.flag, fun l => .ring ring.toNat (s.src32 0 l st).toNat empty v),
          (.tlwait h sel sc x, h.flag, fun l => .timeline sel.toNat (s.src64 0 l x).toNat sc)],
        ∃ t, exec c.1 s = .next t ∧ ∀ l ∈ s.issLanes, s.laneIn t l =
          let y := (s.issLane l).await c.2.1 (c.2.2 l)
          if (s.issLane l).flagFull c.2.1 then (s.issLane l).parkFlag c.2.1
          else if s.over s.issue.core s.issTeam y y.flags (c.2.2 l) then y.passed (c.2.2 l) else y) ∧
  (∀ (s : State) (h : VHead) (d : Src) (core uid slot g l : Nat), s.Issuing → s.srcOk 2 d = true → s.issue.lanes ≠ 0 →
      (∀ c ∈ [(Instr.sleepNs h d, true), (.waitNs h d, false)],
        ∃ t, exec c.1 s = .next t ∧ s.Changes t fun l x =>
          let n := ((s.src64 0 l d).toNat * s.laneMhz s.issue.core l + 999) / 1000
          if x.flagFull h.flag then x.parkFlag h.flag
          else if n = 0 then x.goto s.nextPc else x.await h.flag (.time n c.2)) ∧
      ((s.core core).findGroup uid = some (slot, g) → (tblFind (s.group core slot g).lanes l).isSome →
        ((s.group core slot g).lane l).status = .waiting → (∃ b, ((s.group core slot g).lane l).waitOn = .time 0 b) →
        ((s.group core slot g).lane l).shadow = none →
        ∃ t, exec (.waitExpire core uid l) s = .next t ∧ (t.group core slot g).lane l = ((s.group core slot g).lane l).wake 2))

/-! ## Memory instructions (12 R270 to R281) and the abstract machine (04 R90 to R96) -/

/-- R270 to R274: EA = the source pair plus the offset times the access size; a load or store whose acting lanes pass the checks
of R270 and reach their bytes queues one access per acting lane, or the two halves of one of 16 bytes (R85). Nothing of it is
performed yet: past the walks of the exchange die, which an access of the module's own window asks for (R23), no byte of memory
changes. Instructions: ld, st.

R275 to R279: atom and cas queue one atomic per acting lane; faa queues one per distinct address, whose addend is the sum of
its lanes'. Instructions: atom, cas, faa. -/
def Obligations.MemoryInstructionsIssue : Prop :=
  (∀ (s : State) (f : MForm) (p : Nat → Place) (ch vpn : Nat → Nat), s.Issuing → s.srcOk 2 f.addr = true →
      let n := memSize f.ty
      let ea := fun l => s.src64 0 l f.addr + s.off33 f.off * BitVec.ofNat 64 n
      (∀ l ∈ s.acting f.guard f.flag, s.preCheck (s.whoIs l) f.sp n n (ea l) = none) →
      (s.regsOk (memRegs f.ty) f.dst.toNat = true →
        (∀ l ∈ s.acting f.guard f.flag, s.reach (s.whoIs l) (ea l) n .load = .ok (p l) (ch l) (vpn l)) →
        ∃ t, exec (.ld f) s = .next t ∧ (s.walked f.guard f.flag ea).Sends t f.guard f.flag (.load f.ty f.dst.toNat)
          ((s.acting f.guard f.flag).flatMap fun l => (halves n (.load n) (p l)).map fun c => ((1 : BitVec 32) <<< l, c.1, c.2))) ∧
      (s.dataOk f.ty f.srcd = true →
        (∀ l ∈ s.acting f.guard f.flag, s.reach (s.whoIs l) (ea l) n .store = .ok (p l) (ch l) (vpn l)) →
        ∃ t, exec (.st f) s = .next t ∧ (s.walked f.guard f.flag ea).Sends t f.guard f.flag .store
          ((s.acting f.guard f.flag).flatMap fun l => (halves n (.store (s.storeData f.ty f.srcd l)) (p l)).map fun c =>
            ((1 : BitVec 32) <<< l, c.1, c.2)))) ∧
  (∀ (s : State) (f : AForm) (op : AtomOp) (aty : AtomTy) (ty : AtTy) (p : Nat → Place) (ch vpn : Nat → Nat), s.Issuing →
      s.srcOk 2 f.addr = true →
      let w := atWide ty
      let n := fun (w : Bool) => if w then 8 else 4
      let ea := fun w l => s.src64 0 l f.addr + s.off46 f.off * BitVec.ofNat 64 (n w)
      let ok := fun w hostOk => (∀ l ∈ s.acting f.guard f.flag, s.atomicPre (n w) hostOk (ea w) l = none ∧
        s.reach (s.whoIs l) (ea w l) (n w) .atomic = .ok (p l) (ch l) (vpn l))
      (s.regsOk (wRegs (atomWide aty)) f.dst.toNat = true → s.srcOk (wRegs (atomWide aty)) f.srcd = true →
        ok (atomWide aty) (op == .xchg) →
        ∃ t, exec (.atom f op aty) s = .next t ∧ (s.walked f.guard f.flag (ea (atomWide aty))).Sends t f.guard f.flag (.atomic f.dst.toNat (atomWide aty) f.gd)
          ((s.acting f.guard f.flag).map fun l =>
            ((1 : BitVec 32) <<< l, .atom op aty (s.atomSrc (atomWide aty) 1 l f.srcd), p l))) ∧
      (s.regsOk (wRegs w) f.dst.toNat = true → s.srcOk (wRegs w) f.srcd = true → s.srcOk (wRegs w) f.srce = true → ok w true →
        ∃ t, exec (.cas f ty) s = .next t ∧ (s.walked f.guard f.flag (ea w)).Sends t f.guard f.flag (.atomic f.dst.toNat w f.gd)
          ((s.acting f.guard f.flag).map fun l =>
            ((1 : BitVec 32) <<< l, .cas w (s.atomSrc w 1 l f.srcd) (s.atomSrc w 2 l f.srce), p l))) ∧
      (s.regsOk (wRegs w) f.dst.toNat = true → s.srcOk (wRegs w) f.srcd = true → ok w true →
        ∃ t, exec (.faa f ty) s = .next t ∧ (s.walked f.guard f.flag (ea w)).Sends t f.guard f.flag (.atomic f.dst.toNat w f.gd)
          ((byAddress (ea w) ((s.acting f.guard f.flag).map fun l => (l, p l, ch l, vpn l))).map fun g =>
            (maskOf (g.map (·.1)), .faa w ((g.map fun c => s.atomSrc w 1 c.1 f.srcd).sum),
              (g.head?.map (·.2.1)).getD (.dev 0)))))

/-- R270, R271 (Table 15.1): where every acting lane's address is misaligned the access raises an alignment fault (code 0x07);
where translation refuses every acting lane with one code it raises that code. The lanes stay, and nothing is queued.
Instructions: ld, st.

R209: a register outside the group's budget, or not aligned to its pair, is an illegal-operand fault (code 0x05) of every
issuing lane; no lane moves. Stated of the two-source integer forms. -/
def Obligations.OperandAndAddressFaults : Prop :=
  (∀ (s : State) (f : MForm) (code : Nat) (aux : Nat → Nat), s.Issuing → (s.core s.issue.core).flt.stopped = false →
      s.srcOk 2 f.addr = true → s.acting f.guard f.flag ≠ [] →
      (∀ l ∈ s.issLanes, (s.issLane l).tl = false) →
      let n := memSize f.ty
      let ea := fun l => s.src64 0 l f.addr + s.off33 f.off * BitVec.ofNat 64 n
      let stops := fun t code => t.StoppedOn s.issue.core code (maskOf (s.acting f.guard f.flag)) s.issue.p ∧
        (t.core s.issue.core).queue = s.issCore.queue ∧ ∀ l ∈ s.acting f.guard f.flag, s.laneIn t l = s.issLane l
      ∀ c ∈ [(Instr.ld f, Need.load, s.regsOk (memRegs f.ty) f.dst.toNat), (.st f, .store, s.dataOk f.ty f.srcd)],
        c.2.2 = true →
        ((∀ l ∈ s.acting f.guard f.flag, tagOk f.sp (ea l) = true ∧ mbzOk (ea l) = true ∧ (ea l).toNat % n ≠ 0) →
          ∃ t, exec c.1 s = .next t ∧ stops t 0x07) ∧
        ((∀ l ∈ s.acting f.guard f.flag, s.preCheck (s.whoIs l) f.sp n n (ea l) = none ∧
            s.reach (s.whoIs l) (ea l) n c.2.1 = .bad code (aux l)) → code ≠ 0x0B ∧ code ≠ 0x0D ∧ code ≠ 0x0F ∧ code ≠ 0x10 →
          ∃ t, exec c.1 s = .next t ∧ stops t code)) ∧
  (∀ (s : State) (f : VBin), s.Issuing → (s.core s.issue.core).flt.stopped = false → s.issue.lanes ≠ 0 →
      (∀ l ∈ s.issLanes, (s.issLane l).tl = false) →
      (f.h.dst.toNat % wRegs f.t.w ≠ 0 ∨ s.issGroup.units * 64 < f.h.dst.toNat + wRegs f.t.w) →
      ∀ i ∈ [Instr.add f, .sub f, .mul f, .mulhi f, .min f, .max f, .div f, .rem f, .and f, .or f, .xor f, .shl f, .shr f, .sar f,
          .rotl f],
        ∃ t, exec i s = .next t ∧ t.StoppedOn s.issue.core 0x05 s.issue.lanes s.issue.p ∧ ∀ l, s.laneIn t l = s.issLane l)

/-- R91, R272, R273, R277 to R279 (Tables 4.3, 12.2): an access that nothing holds back is performed in one step, and leaves the
queue with its lanes' values taken. To the core's own scratchpad it acts on the bytes there and on no others. A relaxed load of
cacheable memory returns the bytes of the core's L1, of which those that are absent are filled from H; a relaxed store makes its
bytes dirty in the L1 and leaves H as it is. An ordered access at a wide scope and an atomic take SFLUSH of the sector and act on
the bytes at H; one that would write a page whose scrub-pending bit is set waits for the sweep it starts, and a cas that would
not write there reads zeros (R46, R279). Event: ACCESS_PERFORM. -/
def Obligations.AccessesPerform : Prop :=
  ∀ (s : State) (core id : Nat) (i : Item), (s.core core).item id = some i → i.id = id → i.act.isPoint = false →
    (s.fabric.reqs.find? fun q => q.id == id && q.sw.isNone) = none → i.inFab = false → s.blocked core i = false →
    let n := i.act.size
    (∀ x, i.place = .spad x → (s.core core).latent = [] → s.linesPresent core x n = true →
      (s.core core).staleSpad i = false →
      ∃ t, exec (.accessPerform core id) s = .next t ∧ s.Settles t core i (memRead (s.core core).spad x n) ∧
        i.act.Leaves (memRead (s.core core).spad x n) (memRead (t.core core).spad x n) ∧ t.mem = s.mem ∧ t.l1 = s.l1 ∧
        ∀ a, a < x ∨ x + n ≤ a → memGet (t.core core).spad a = memGet (s.core core).spad a) ∧
    ∀ pa, i.place = .dev pa → s.mem.isMem pa = true → 0 < n → pa % 64 + n ≤ 64 →
      let l1 := s.l1Of core
      let k := pa / 64
      let o := pa % 64
      let x := s.sector l1 k
      let held := (((s.l1At l1).set l1 (k / 4)).wayOf (k / 4)).any fun w => tblFind ((s.l1At l1).set l1 (k / 4)).ways w == some (k / 4)
      (s.atHome core i = false → tblFind (s.l1At l1).latent k = none →
        (∀ m, i.act = .load m → x.present o n = true →
          ∃ t, exec (.accessPerform core id) s = .next t ∧
            s.Settles t core i ((List.range n).map fun j => x.byte (o + j)) ∧ (held = true → t.mem = s.mem)) ∧
        (∀ m, i.act = .load m → x.present o n = false → held = true → s.HSound →
          ∃ t, exec (.accessPerform core id) s = .next t ∧
            (s.Settles t core i ((List.range n).map fun j =>
              if x.dm.getLsbD (o + j) then x.byte (o + j) else (s.peek pa n).getD j 0)) ∧
            (t.sector l1 k).v = true ∧ (t.sector l1 k).dm = x.dm ∧ t.mem.cells = s.mem.cells) ∧
        ∀ d, i.act = .store d →
          ∃ t, exec (.accessPerform core id) s = .next t ∧ s.Settles t core i [] ∧
            (t.sector l1 k).dm = x.dm ||| byteMask o n ∧
            (∀ j, j < 64 → (t.sector l1 k).byte j = if o ≤ j ∧ j < o + n then d.getD (j - o) 0 else x.byte j) ∧
            (held = true → t.mem = s.mem)) ∧
      (s.atHome core i = true → s.viaSwitch i = false → s.heldAtSwitch core i = false → s.linkHolds (.mem pa) = false →
        let u := s.sflush l1 k
        let acts := fun old => ∃ t, exec (.accessPerform core id) s = .next t ∧ s.Settles t core i old ∧ t.l1 = u.l1 ∧
          i.act.Leaves old (memRead t.mem.cells pa n) ∧
          ∀ a, a < pa ∨ pa + n ≤ a → memGet t.mem.cells a = memGet u.mem.cells a
        u.HSound →
        (u.scrubPending pa = false → acts (memRead u.mem.cells pa n)) ∧
        (u.scrubPending pa = true →
          ((∃ m, i.act = .load m) ∨ (∃ w c y, i.act = .cas w c y ∧ c.toNat % 2 ^ (8 * n) ≠ 0) →
            ∃ t, exec (.accessPerform core id) s = .next t ∧ s.Settles t core i (List.replicate n 0) ∧ t.l1 = u.l1 ∧
              t.mem.cells = u.mem.cells) ∧
          ((∃ d, i.act = .store d) ∨ (∃ op ty b, i.act = .atom op ty b) ∨ (∃ w c y, i.act = .cas w c y ∧ c.toNat % 2 ^ (8 * n) = 0) →
            ∃ t, exec (.accessPerform core id) s = .next t ∧ (t.core core).item id = some i ∧ t.mem.cells = u.mem.cells ∧
              pageOf pa ∈ t.mem.sweeping ∧ (pageOf pa, .accessPerform core id) ∈ t.mem.waiters)))

/-- R212, R259, R272, R275: a completing operation writes its results in its lanes, its flag falls by one, and it is forgotten.
Events: SFU_COMPLETE, LOAD_COMPLETE, ATOMIC_REPLY. -/
def Obligations.OperationsComplete : Prop :=
  ∀ (s : State) (core id slot g : Nat) (o : Op), (s.core core).readyOp id = some o → o.id = id →
    (s.core core).findGroup o.uid = some (slot, g) →
    ∀ i, (i = .sfuComplete core id ∧ ∃ d, o.kind = .sfu d) ∨ (i = .loadComplete core id ∧ ∃ ty d, o.kind = .load ty d) ∨
        (i = .atomicReply core id ∧ ∃ d w gd, o.kind = .atomic d w gd) →
      ∃ t, exec i s = .next t ∧ tblFind (t.core core).ops id = none ∧ t.mem = s.mem ∧
        (t.core core).spad = (s.core core).spad ∧
        ∀ l, (tblFind (s.group core slot g).lanes l).isSome → (t.group core slot g).lane l =
          if o.lanes.getLsbD l then o.finishLane l ((s.group core slot g).lane l) else (s.group core slot g).lane l

/-- R95, R280 (Table 4.4): a fence queues, for each issuing lane in order, a release point, an acquire point, both, or the point
of a fence.sc, and the lanes advance.

R71, R88, R91, R95 (Table 3.2): a point that nothing holds back writes back, at a wide scope, the dirty sectors of the core's L1
one by one: a step writes one of those it still has to write, whose bytes are clean then. With none left a release point leaves the
queue and changes nothing else, and so does an acquire point, which at a wide scope leaves nothing in that L1. Events:
RELEASE_POINT, ACQUIRE_POINT. -/
def Obligations.FencesAndTheirPoints : Prop :=
  (∀ (s : State) (o : MemOrd) (sc : Scope), s.Issuing → o ≠ .relaxed →
      ∃ t, exec (.fence o sc) s = .next t ∧
        (∃ new, (t.core s.issue.core).queue = s.issCore.queue ++ new ∧
          new.map (fun i => (i.lanes, i.act)) = s.issLanes.flatMap fun l => (match o with
            | .rel => [Act.release sc]
            | .acq => [.acquire sc]
            | .ar => [.release sc, .acquire sc]
            | _ => [.sc sc]).map fun a => ((1 : BitVec 32) <<< l, a)) ∧
        (∀ l ∈ s.issLanes, s.laneIn t l = (s.issLane l).goto s.nextPc) ∧ t.mem = s.mem ∧ t.l1 = s.l1) ∧
  (∀ (s : State) (core id : Nat) (i : Item) (sc : Scope), (s.core core).item id = some i → s.blocked core i = false →
      let left := if s.wide core sc then i.wb.getD (s.l1At (s.l1Of core)).dirty else []
      (∀ c ∈ [(Instr.releasePoint core id, i.act = .release sc), (.acquirePoint core id, i.act = .acquire sc ∨ i.act = .sc sc)],
        c.2 → ∀ k rest, left = k :: rest →
          ∃ t, exec c.1 s = .next t ∧ (t.core core).item id = some { i with wb := some rest } ∧
            t.l1 = (s.wbSector (s.l1Of core) k).l1 ∧ t.mem = (s.wbSector (s.l1Of core) k).mem ∧
            (t.sector (s.l1Of core) k).dm = 0) ∧
      (left = [] →
        (i.act = .release sc →
          ∃ t, exec (.releasePoint core id) s = .next t ∧ ((t.core core).item id).isNone ∧ t.l1 = s.l1 ∧ t.mem = s.mem) ∧
        (i.act = .acquire sc ∨ i.act = .sc sc →
          ∃ t, exec (.acquirePoint core id) s = .next t ∧ ((t.core core).item id).isNone ∧
            (s.wide core sc = true → (t.l1At (s.l1Of core)).sectors = []) ∧
            (s.wide core sc = false → t.l1 = s.l1 ∧ t.mem = s.mem))))

/-- R80 to R82 (Table 3.8): the status that a lane of cache.pin or cache.unpin takes, in the step that issues it (log entry 12); a
pin asks its page for R, and an unpin does not. For one issuing lane, where the line of its address is found or refused. -/
def Obligations.PinResults : Prop :=
  ∀ (s u : State) (h : VHead) (a : Src) (l : Nat) (r : Except Nat (Nat × Nat)) (reads : Bool), s.Issuing → s.issLanes = [l] →
    s.regsOk 1 h.dst.toNat = true → s.srcOk 2 a = true → (s.issLane l).flagFull h.flag = false →
    s.pinLine reads l (s.src64 0 l a) = (u, r) →
    let id := u.l1Of s.issue.core
    let ctx := s.issGrid.ctx
    let pins := (u.l1At id).pins
    let result := fun t (c : Nat) => (s.laneIn t l).reg h.dst.toNat = BitVec.ofNat 32 c ∧ (s.laneIn t l).pc = s.nextPc
    (reads = true → ∃ t, exec (.cachePin h a) s = .next t ∧
      (∀ c, r = .error c → result t c) ∧
      ∀ line ch, r = .ok (line, ch) →
        (⟨line, ctx⟩ ∈ pins → result t 1) ∧
        (⟨line, ctx⟩ ∉ pins → (∃ p ∈ pins, p.line = line) → result t 2) ∧
        ((∀ p ∈ pins, p.line ≠ line) → 6 ≤ (pins.filter fun p => p.line % l1Sets id == line % l1Sets id).length →
          result t 3) ∧
        ((∀ p ∈ pins, p.line ≠ line) → (pins.filter fun p => p.line % l1Sets id == line % l1Sets id).length < 6 →
          s.issGrid.desc.pinQuota ≤ (pins.filter fun p => p.ctx == ctx).length → result t 4) ∧
        ((∀ p ∈ pins, p.line ≠ line) → (pins.filter fun p => p.line % l1Sets id == line % l1Sets id).length < 6 →
          (pins.filter fun p => p.ctx == ctx).length < s.issGrid.desc.pinQuota →
          result t 0 ∧ ⟨line, ctx⟩ ∈ (t.l1At id).pins)) ∧
    (reads = false → ∃ t, exec (.cacheUnpin h a) s = .next t ∧
      (∀ c, r = .error c → result t 7) ∧
      ∀ line ch, r = .ok (line, ch) →
        (⟨line, ctx⟩ ∉ pins → result t 7) ∧
        (⟨line, ctx⟩ ∈ pins → result t 0 ∧ ⟨line, ctx⟩ ∉ (t.l1At id).pins))

/-! ## Copies (05 R111 to R124, 12 R282 to R286, 15 R362, R363) -/

/-- R112, R116, R282: a lane of cpy whose transfer may issue records one copy, of the parts of its region, which counts in OUT of
each destination line; the lane advances with its flag raised, and the copy joins its open batch. R121 to R123, R285, R286: a
lane of tcpy takes the next number of its team's copy timeline in its destination pair, and records one copy of its tile. For
one issuing lane. -/
def Obligations.CopiesIssue : Prop :=
  ∀ (s u : State) (flag : FlagSel) (sz : BitVec 2) (d a : Src) (l : Nat) (c : CpyLane) (f : TcpyForm), s.Issuing →
    s.issLanes = [l] →
    (sz.toNat < 3 → s.srcOk 2 d = true → s.srcOk 2 a = true → (s.issLane l).flagFull flag = false →
      s.preCheck (s.whoIs l) .any (cpySize sz) (cpySize sz) (s.src64 0 l d) = none →
      s.preCheck (s.whoIs l) .any (cpySize sz) (cpySize sz) (s.src64 1 l a) = none →
      s.name.2.cpyLanes (cpySize sz) (fun l => s.src64 0 l d) (fun l => s.src64 1 l a) [l] = (u, [c], []) →
      let tos := s.issLanes.filterMap fun l => (s.cpyTo (cpySize sz) l (s.src64 0 l d)).map fun a => (l, a)
      u.transferHeld [c] (cpySize sz) = none →
      ∃ t k, exec (.cpy flag sz d a) s = .next t ∧ tblFind (t.core s.issue.core).copies u.fresh = some k ∧
        k.plan = .parts (u.cpyParts tos (cpySize sz) c) ∧ k.lanes = maskOf [c.lane] ∧ k.op = s.fresh ∧ k.stopped = 0 ∧
        k.outs = ((u.refLines s.issue.core c.dstR (cpySize sz)).getD []).eraseDups ∧
        (s.laneIn t l).pc = s.nextPc ∧ u.fresh ∈ (s.laneIn t l).openB.copies ∧
        (s.laneIn t l).flags = ((s.issLane l).pend flag).flags ∧ (t.core s.issue.core).spad = s.issCore.spad) ∧
    (∀ (p : Place) (ch vpn : Nat) (tile : Tile) (v w : State) (bs : List Byte) (mems : List (Option Place)),
      s.issGroup.role = .copy → s.regsOk 2 f.dst.toNat = true → s.srcOk 2 f.mb = true → s.srcOk 2 f.sb = true →
      s.srcOk 2 f.lay = true → s.srcOk 2 f.q = true → (s.issLane l).flagFull f.flag = false → s.tcpyEarly f l = none →
      s.ownReach l (s.tcpyLane f l).rp 32 32 .load = .ok p ch vpn → s.ownBlockers l p 32 false = [] → s.ownHolds p ch 32 = none →
      (s.selfWalks [(l, (s.tcpyLane f l).rp)]).ownLoad s.issue.core s.issGroup.uid s.issGrid.ctx p ch 32 = (v, bs) → s.tcpyLate f l bs = .ok tile →
      v.tileHeld l tile = (w, none, mems) → 0 < tile.bytes →
      ∃ t k n, exec (.tcpy f) s = .next t ∧ n = s.issTeam.tlCopy.next ∧
        (s.laneIn t l).reg f.dst.toNat = BitVec.ofNat 32 n ∧
        (s.laneIn t l).reg (f.dst.toNat + 1) = BitVec.ofNat 32 (n / 2 ^ 32) ∧ (s.laneIn t l).pc = s.nextPc ∧
        (t.team s.issue.core s.issue.slot).tlCopy.next = n + 1 ∧
        tblFind (t.core s.issue.core).copies w.fresh = some k ∧ k.plan = .tile tile ∧ k.tile = some n)

/-- R111: CREAD reads a unit's source bytes at H; CWRITE writes them at its destination, in the scratchpad or in device memory, exactly
those bytes; a line of the scratchpad that is still to be zeroed is waited for (log entry 59). No combining window and no stalled
stream stands before the unit (R136, R407). When the request of a unit counts as sent is log entry 46. Events: CREAD, CWRITE.

R118, R283: cpy.seal seals a lane's open batch and opens an empty one, and the lane advances; a lane with 16 unfinished sealed
batches parks.

R362, R363: CE_RETRY takes the head of the copy-fault queue and its lane's copy goes on; CE_ABORT takes it and that copy ends; an
entry not answered within 100 ms ends its copy, whatever its place. The reads of a copy count as sent anew at a retry, the model's
reading of R152 (log entry 46). Events: CE_RETRY, CE_ABORT, CE_ANSWER_TIMEOUT. -/
def Obligations.CopyUnitsBatchesAndAnswers : Prop :=
  (∀ (s : State) (core id k x : Nat) (c : Copy) (p : CopyPart), s.copyUnit core id k = some (c, p) → c.id = id →
      ((c.state k).data = none →
        let took := fun (t : State) bs => ∃ c', tblFind (t.core core).copies id = some c' ∧ c'.plan = c.plan ∧
          c'.state k = { c.state k with data := some bs, sent := some s.ns }
        (∀ u q ch via, s.copyAt core c p.src .load = (u, .spot q ch via) → s.copyHeld core ch q via = false →
          ∃ t, exec (.cread core id k) s = .next t ∧ took t (u.readSpot (.ctx c.ctx) ch p.len q).2) ∧
        (p.src = .at_ (.spad x) → (s.core core).latent = [] →
          ∃ t, exec (.cread core id k) s = .next t ∧ took t (memRead (s.core core).spad x p.len) ∧ t.mem = s.mem)) ∧
      (∀ bs, (c.state k).data = some bs → (c.state k).done = false → p.skip = 0 →
        let written := fun (t : State) =>
          tblFind (t.core core).copies id = none ∨ ∃ c', tblFind (t.core core).copies id = some c' ∧ (c'.state k).done = true
        (p.dst = .at_ (.spad x) → (s.core core).latent = [] → (s.core core).zeroing.contains (x / 256) = false →
          ∃ t, exec (.cwrite core id k) s = .next t ∧ t.mem = s.mem ∧ written t ∧
            ∀ a, memGet (t.core core).spad a =
              if x ≤ a ∧ a < x + bs.length then bs.getD (a - x) 0 else memGet (s.core core).spad a) ∧
        (p.dst = .at_ (.spad x) → (s.core core).zeroing.contains (x / 256) = true → exec (.cwrite core id k) s = .next s) ∧
        ∀ u pa ch via, s.copyAt core c p.dst .store = (u, .spot (.mem pa) ch via) → s.copyHeld core ch (.mem pa) via = false →
          u.mem.isMem pa = true →
          (u.scrubPending pa = false → u.HSound →
            ∃ t, exec (.cwrite core id k) s = .next t ∧ written t ∧
              ∀ a, memGet t.mem.cells a = if pa ≤ a ∧ a < pa + bs.length then bs.getD (a - pa) 0 else memGet u.mem.cells a) ∧
          (u.scrubPending pa = true →
            ∃ t, exec (.cwrite core id k) s = .next t ∧ t.mem.cells = u.mem.cells ∧ pageOf pa ∈ t.mem.sweeping ∧
              (pageOf pa, .cwrite core id k) ∈ t.mem.waiters))) ∧
  (∀ (s : State), s.Issuing →
      ∃ t, exec .cpySeal s = .next t ∧ s.Changes t fun _ x =>
        if 16 ≤ unfinished x.sealedB then { x with status := .parked, waitOn := .batchSlot }
        else ({ x with sealedB := x.sealedB ++ [x.openB], openB := ⟨[], false, false⟩ } : Lane).goto s.nextPc) ∧
  (∀ (s : State) (core : Nat) (e : CopyFault) (rest : List CopyFault) (c : Copy), (s.core core).copyFaults = e :: rest →
      tblFind (s.core core).copies e.copy = some c → c.id = e.copy →
      e.lane < 32 →
      let popped := fun (t : State) => (t.core core).copyFaults = (e :: rest).filter fun x => !(x.copy == e.copy && x.lane == e.lane)
      let gone := fun (t : State) => ∀ c', tblFind (t.core core).copies e.copy = some c' → c'.ended.getLsbD e.lane = true
      (∃ t, exec (.ceRetry core) s = .next t ∧ popped t ∧ tblFind (t.core core).copies e.copy =
        some { c with stopped := c.stopped &&& ~~~(maskOf [e.lane]), since := s.ns }) ∧
      (∃ t, exec (.ceAbort core) s = .next t ∧ popped t ∧ gone t) ∧
      (e.at_ + 100000000 ≤ s.ns →
        ∃ t, exec (.ceAnswerTimeout core e.copy) s = .next t ∧ e ∉ (t.core core).copyFaults ∧ gone t))

/-! ## Barriers, rings, team shape and launch (07 R169 to R176, 12 R287 to R295) -/

/-- R170, R290: an arrival counts in ARR and sets the lane's bit; with ARR at EXP the phase completes: PHASE turns, ARR is 0, EXP
takes JOIN. A lane of sync waits for its phase, also where its own arrival completes it: it is released with the others once the
release points of the phase's arrivals are reached (log entry 49); a lane of arrive goes on, and wait waits only where the lane has
arrived. For one issuing lane that is no new member, at a barrier that
covers its role.

R128, R288: each lane of ring.arrive counts one arrival on a side of the stage it names, with a release point that the flip
waits for, and advances. For one issuing lane. -/
def Obligations.BarrierAndRingArrivals : Prop :=
  (∀ (s : State) (b : BitVec 4) (mode : BarMode) (l : Nat), s.Issuing → s.issLanes = [l] →
      let x := s.issTeam.bar b.toNat
      let bar := fun t => (t.team s.issue.core s.issue.slot).bar b.toNat
      x.en = true → x.roles.getLsbD (roleNum s.issGroup.role) = true → (tblFind s.issTeam.bars b.toNat).isSome →
      (s.issLane l).new.getLsbD b.toNat = false → (s.issLane l).held.getLsbD b.toNat = false → s.issTeam.heldAt b.toNat = [] →
      (mode ≠ .wait → (s.issLane l).arr.getLsbD b.toNat = false → x.arr + 1 ≠ x.exp →
        ∃ t, exec (.bar b mode) s = .next t ∧ (bar t).arr = x.arr + 1 ∧ (bar t).phase = x.phase ∧ (bar t).exp = x.exp ∧
          (s.laneIn t l).arr.getLsbD b.toNat = true ∧
          (mode = .arrive → (s.laneIn t l).pc = s.nextPc) ∧
          (mode = .sync → (s.laneIn t l).status = .waiting ∧ (s.laneIn t l).waitOn = .bar b.toNat x.phases)) ∧
      (mode ≠ .wait → (s.issLane l).arr.getLsbD b.toNat = false → x.arr + 1 = x.exp →
        ∃ t, exec (.bar b mode) s = .next t ∧ (bar t).arr = 0 ∧ (bar t).phase = !x.phase ∧ (bar t).exp = x.exp + x.join ∧
          (bar t).join = 0 ∧ (s.laneIn t l).arr.getLsbD b.toNat = false ∧ (bar t).phases = x.phases + 1 ∧
          (mode = .arrive → (s.laneIn t l).pc = s.nextPc) ∧
          (mode = .sync → (s.laneIn t l).status = .waiting ∧ (s.laneIn t l).waitOn = .bar b.toNat x.phases)) ∧
      (mode = .wait →
        ∃ t, exec (.bar b mode) s = .next t ∧ bar t = x ∧
          ((s.issLane l).arr.getLsbD b.toNat = true → (s.laneIn t l).status = .waiting ∧
            (s.laneIn t l).waitOn = .bar b.toNat x.phases) ∧
          ((s.issLane l).arr.getLsbD b.toNat = false → (s.laneIn t l).pc = s.nextPc))) ∧
  (∀ (s : State) (h : VHead) (ring : BitVec 3) (empty : Bool) (st : Src) (l : Nat), s.Issuing → s.issLanes = [l] →
      s.srcOk 1 st = true → s.issTeam.stageOk ring.toNat (s.src32 0 l st).toNat = true → (s.issLane l).flagFull h.flag = false →
      let n := (s.src32 0 l st).toNat
      let x := s.issTeam.stage ring.toNat n
      let cfg := s.issTeam.ring ring.toNat
      ∃ t, exec (.ringArrive h ring empty st) s = .next t ∧ s.laneIn t l = (s.issLane l).goto s.nextPc ∧
        (∃ i, (t.core s.issue.core).queue = s.issCore.queue ++ [i] ∧ i.id = s.fresh ∧ i.act = .release .team ∧
          i.lanes = (1 : BitVec 32) <<< l) ∧
        (t.team s.issue.core s.issue.slot).stage ring.toNat n =
          if empty then
            (if x.emptyArr + 1 = cfg.emptyExp then
              { x with emptyArr := 0, emptyRel := [], flips := x.flips ++ [⟨true, x.emptyRel ++ [s.fresh]⟩] }
            else { x with emptyArr := x.emptyArr + 1, emptyRel := x.emptyRel ++ [s.fresh] })
          else
            (if x.fullArr + 1 = cfg.fullExp then
              { x with fullArr := 0, fullRel := [], flips := x.flips ++ [⟨false, x.fullRel ++ [s.fresh]⟩] }
            else { x with fullArr := x.fullArr + 1, fullRel := x.fullRel ++ [s.fresh] }))

/-- R174, R292, R294: attach answers 1 where the role is off or takes no joins, 2 at GMAX, the group index in bits 15:8 where the
join is accepted, and 3 otherwise; shrinkq answers SHRINK of the group's role.

R295, R336, R337: a lane of launch reads its record; a queue outside 0 to 63 answers code 3, a queue that is off, takes no
device launches or belongs to another context code 2, a full queue code 1, each with bit 63 set, in that order (log entry
31); otherwise the record joins the queue and the answer is its grid id. For one issuing lane that nothing holds back. -/
def Obligations.TeamShapeAndLaunchResults : Prop :=
  (∀ (s : State) (h : VHead) (role : Role), s.Issuing → s.regsOk 1 h.dst.toNat = true →
      (∃ l ∈ s.issLanes, (s.issLane l).flagFull h.flag = false) →
      let c := s.issTeam.role role
      let joinable := c.en = true ∧ (s.issTeam.entry role).joinEn = true
      let coming := (s.issTeam.joins.filter fun j => j.1 == role).length
      let answers := fun t (v : Nat) => ∀ l ∈ s.issLanes, (s.issLane l).flagFull h.flag = false →
        s.laneIn t l = ((s.issLane l).put32 h.dst (BitVec.ofNat 32 v)).goto s.nextPc
      (∃ t, exec (.shrinkq h) s = .next t ∧ s.Performs t h.flag fun _ x =>
        x.put32 h.dst (BitVec.ofNat 32 (s.issTeam.role s.issGroup.role).shrink)) ∧
      ∃ t, exec (.attach h role) s = .next t ∧
        (¬joinable → answers t 1) ∧
        (joinable → c.gmax ≤ c.live + coming → answers t 2) ∧
        (joinable → c.live + coming < c.gmax → s.canJoin s.issue.core s.issue.slot role = false → answers t 3) ∧
        (joinable → s.canJoin s.issue.core s.issue.slot role = true →
          ∃ g p, s.issTeam.freeIndex = some g ∧ s.issGrid.freeSlot = some p ∧ answers t (g * 256) ∧
            (t.team s.issue.core s.issue.slot).joins = s.issTeam.joins ++ [(role, g, p)])) ∧
  (∀ (s : State) (dst : BitVec 10) (rec queue : Src) (l : Nat) (p : Place) (ch vpn : Nat), s.Issuing → s.issLanes = [l] →
      s.regsOk 2 dst.toNat = true → s.srcOk 2 rec = true → s.srcOk 1 queue = true → s.releaseBlockers l = [] →
      s.ownReach l (s.src64 0 l rec) 256 256 .load = .ok p ch vpn → s.ownBlockers l p 256 false = [] → s.ownHolds p ch 256 = none →
      let q := (s.src32 1 l queue).toNat
      let x := s.queue q
      let mine := x.en = true ∧ x.src = true ∧ x.ctx = s.issGrid.ctx
      let answers := fun t (v : Nat) => (s.laneIn t l).reg dst.toNat = BitVec.ofNat 32 v ∧
        (s.laneIn t l).reg (dst.toNat + 1) = BitVec.ofNat 32 (v / 2 ^ 32) ∧ (s.laneIn t l).pc = s.nextPc
      ∃ t, exec (.launch dst rec queue) s = .next t ∧
        (63 < q → answers t (2 ^ 63 + 3)) ∧
        (q ≤ 63 → ¬mine → answers t (2 ^ 63 + 2)) ∧
        (q ≤ 63 → mine → x.used = x.slots → answers t (2 ^ 63 + 1)) ∧
        (q ≤ 63 → mine → x.used ≠ x.slots → s.sched.gridCtr < 2 ^ 63 →
          answers t s.sched.gridCtr ∧ (t.queue q).tail = (x.tail + 1) % 2 ^ 31 ∧
            ∃ r, (t.queue q).pend = x.pend ++ [r] ∧ r.id = s.sched.gridCtr))

/-! ## The matrix engine (13 R305 to R333) -/

/-- R311, R322 to R324, R328: gang.set writes GANG and empties the reuse latch; scl.push appends the lanes' micro-scales and scales
to the queue of the group's list position; ct.set is accepted with the table that the lowest lane's eight registers hold; epi.ld
writes the program store with the words it reads. For an issue of matrix lanes whose flag is not full. -/
def Obligations.EngineSetupResults : Prop :=
  ∀ (s : State) (h : VHead) (n : BitVec 2) (a sc : Src), s.Issuing → s.issGroup.role = .matrix → s.issue.lanes ≠ 0 →
    s.goLanes h.flag = s.issLanes →
    let e := s.issCore.engine
    let eng := fun t => (State.core t s.issue.core).engine
    let low := lowLane s.issue.lanes
    let passed := fun t => ∀ l ∈ s.issLanes, s.laneIn t l = (s.issLane l).goto s.nextPc
    (s.srcOk 2 a = true → gangOk s.issTeam (s.src64 0 low a) = true → e.latch = none → (∀ p, p < 6 → tblGet [] e.scales p = []) →
      ∃ t, exec (.gangSet h a) s = .next t ∧ eng t = { e with gang := s.src64 0 low a, reuse := none } ∧ passed t) ∧
    (∀ r p, a = .reg r → s.regsOk 4 r.toNat = true → s.srcOk 1 sc = true → gangPos e.gang s.issue.group = some p →
      (tblGet [] e.scales p).length < 8 → (∀ l, l < 32 → (s.issLane l).live = true → l ∈ s.issLanes) →
      ∃ t x, exec (.sclPush h a sc) s = .next t ∧ passed t ∧ tblGet [] (eng t).scales p = tblGet [] e.scales p ++ [x] ∧
        ∀ l ∈ s.issLanes, tblGet 0 x.ua l = packScales (s.srcRegs 0 l r.toNat 4) ∧
          tblGet 0 x.sa l = (s.src32 1 l sc).extractLsb' 0 16) ∧
    (∀ r, a = .reg r → s.regsOk 8 r.toNat = true → e.held = [] →
      ∃ t o, exec (.ctSet h n a) s = .next t ∧ (eng t).ops = e.ops ++ [o] ∧ o.flag = h.flag ∧
        o.act = .ctSet n.toNat (BitVec.ofNat 256 (leNat (bytesOfWords (s.srcRegs 0 low r.toNat 8)))) ∧
        ∀ l ∈ s.issLanes, s.laneIn t l = ((s.issLane l).pend h.flag).goto s.nextPc) ∧
    (∀ u w bs ws, s.srcOk 2 a = true → e.held = [] → s.loadOnce s.issLanes (s.src64 0 low a) 4 4 = .ok (u, bs) →
      leNat bs ≤ 64 → u.loadWords s.issLanes (s.src64 0 low a + 4) (leNat bs) = .ok (w, ws) → ws.all epiWordOk = true →
      ∃ t, exec (.epiLd h.flag a) s = .next t ∧ (eng t).epiProg = ws ∧
        ∀ l ∈ s.issLanes, (s.laneIn t l).pc = s.nextPc)

/-- R309, R313, R317, R318, R331: a member of the gang joins the latched operation with its lanes' rows of A; the last member
releases it, an mma with a power token, and the engine accepts it where it holds nothing back. The lanes of the issue go on
together, and a token that is free is taken in the step (log entries 28 and 30). Instructions: mma, and epi.run of a member
at another list position than 0.

R317, R327: a power token that is free goes to a core where a lane stands at the mma that would release the latch; the oldest
operation that the engine holds is accepted once its destination lines allow it. Events: TOKEN_GRANT, ENGINE_HELD_ACCEPT. -/
def Obligations.JointOperationsIssue : Prop :=
  (∀ (s : State) (f : MmaForm) (g : EpiForm) (p : Nat), s.Issuing → s.issGroup.role = .matrix → s.issue.lanes ≠ 0 →
      let e := s.issCore.engine
      gangPos e.gang s.issue.group = some p → (∀ l, l < 32 → (s.issLane l).live = true → l ∈ s.issLanes) →
      ∀ i op flag regs, (i = .mma f ∧ op = mmaKey f ∧ flag = f.flag ∧ regs = 4 * mxBits f.afmt ∧
            blockOk s.issGroup.units e.gang f = true ∧ e.scalesFit p f = true ∧ e.reuseFits f = true) ∨
          (i = .epiRun g ∧ op = epiKey g ∧ flag = g.flag ∧ regs = 0 ∧ p ≠ 0 ∧ s.srcOk 2 g.sb = true ∧ s.srcOk 1 g.c = true ∧
            s.srcOk 1 g.p = true ∧ (5 ≤ gangCount e.gang → g.t.toNat % 2 = 0)) →
        s.goLanes flag = s.issLanes →
        let before := (e.latch.map (·.members)).getD []
        (∀ la, e.latch = some la → la.op = op ∧ la.joined s.issue.group = false) →
        ∃ t m, exec i s = .next t ∧ m.pos = p ∧ m.group = s.issue.group ∧ m.lanes = s.issue.lanes ∧
          (∀ r, f.a = .reg r → i = .mma f → ∀ l ∈ s.issLanes, tblGet [] m.rows l = s.srcRegs 0 l r.toNat regs) ∧
          (∀ l ∈ s.issLanes, (s.laneIn t l).pc = s.nextPc ∧
            (i = .mma f → s.laneIn t l = ((s.issLane l).pend flag).goto s.nextPc)) ∧
          (before.length + 1 < gangCount e.gang →
            (t.core s.issue.core).engine = { e with latch := some ⟨op, s.issTeam.uid, s.issTeam.grid, before ++ [m]⟩ } ∧
              t.power = s.power) ∧
          (gangCount e.gang ≤ before.length + 1 → (t.core s.issue.core).engine.latch = none ∧
            (i = .mma f → t.power.tokOut = s.power.tokOut + 1 ∧
              (e.held = [] → ∃ o, (t.core s.issue.core).engine.ops = e.ops ++ [o] ∧ o.members = before ++ [m])))) ∧
  (∀ (s : State) (core : Nat) (la : Latch) (rest : List Latch) (f : MmaForm),
      let e := (s.core core).engine
      let eng := fun t => (State.core t core).engine
      ((∃ c ∈ (s.core core).teams, ∃ g ∈ c.2.groups, ∃ l, l < 32 ∧ (g.2.lane l).live = true ∧
          s.needsToken core c.1 g.1 l = true) → e.token = false → 0 < s.tokensFree →
        ∃ t, exec (.tokenGrant core) s = .next t ∧ eng t = { e with token := true }) ∧
      (e.held = la :: rest → la.op = .mma f →
        ∃ t o, exec (.engineHeldAccept core) s = .next t ∧ (eng t).held = rest ∧ (eng t).ops = e.ops ++ [o] ∧
          o.members = la.members ∧ o.team = la.team))

/-- R319, R320, R326, R327: mma.ldb takes the next number of its team's matrix timeline and is accepted with its image's place;
acc is accepted with its tile, rows and place. The lanes advance with their flag raised, all together (log entry 28). Nothing
is held back, no line is absent, and no lane's flag is full; an mma.ldb without .ct. -/
def Obligations.EngineTransfersIssue : Prop :=
  ∀ (s : State) (f : LdbForm) (g : AccForm), s.Issuing → s.issGroup.role = .matrix → s.issue.lanes ≠ 0 →
    let e := s.issCore.engine
    let low := lowLane s.issue.lanes
    let eng := fun t => (State.core t s.issue.core).engine
    let passed := fun t flag => ∀ l ∈ s.issLanes, s.laneIn t l = ((s.issLane l).pend flag).goto s.nextPc
    e.held = [] →
    (s.goLanes f.flag = s.issLanes → f.ct = false → s.regsOk 2 f.dst.toNat = true → s.srcOk 2 f.a = true →
      (∀ r st, f.ring = some (r, st) → s.issTeam.stageOk r.toNat st.toNat = true) →
      s.spadFault 256 (squareTag f.fmt + 16) (s.src64 0 low f.a) = none →
      s.absentLines (s.spadPlace (s.src64 0 low f.a) (squareTag f.fmt + 16)) (squareTag f.fmt + 16) = [] →
      ∃ t o key rel, exec (.mmaLdb f) s = .next t ∧ passed t f.flag ∧ (eng t).ops = e.ops ++ [o] ∧
        o.act = .ldb f (s.spadPlace (s.src64 0 low f.a) (squareTag f.fmt + 16)) key 0 0 s.issTeam.tlMatrix.next rel ∧
        (t.team s.issue.core s.issue.slot).tlMatrix.next = s.issTeam.tlMatrix.next + 1) ∧
    (s.goLanes g.flag = s.issLanes → s.srcOk 1 g.row0 = true → s.srcOk 1 g.count = true →
      let row0 := (s.src32 1 low g.row0).toNat
      let count := (s.src32 2 low g.count).toNat
      let a := s.src64 0 low g.a
      let p := s.spadPlace a (512 * count)
      1 ≤ count → row0 + count ≤ 128 →
      (g.op = .zero →
        ∃ t o, exec (.acc g) s = .next t ∧ passed t g.flag ∧ (eng t).ops = e.ops ++ [o] ∧
          o.act = .accZero g.t.toNat row0 count) ∧
      (g.op = .ld → s.srcOk 2 g.a = true → s.spadFault 256 (512 * count) a = none → s.absentLines p (512 * count) = [] →
        ∃ t o, exec (.acc g) s = .next t ∧ passed t g.flag ∧ (eng t).ops = e.ops ++ [o] ∧
          o.act = .accLd g.t.toNat p row0 count) ∧
      (∀ ls, g.op = .st → s.srcOk 2 g.a = true → s.spadFault 256 (512 * count) a = none →
        s.refLines s.issue.core (.at_ p) (512 * count) = some ls → (∀ x ∈ ls, tblGet 0 (s.core x.1).outs x.2 ≠ 63) →
        ∃ t o, exec (.acc g) s = .next t ∧ passed t g.flag ∧ (eng t).ops = e.ops ++ [o] ∧
          o.act = .accSt g.t.toNat p row0 count ∧ o.outs = ls))

/-- R192 to R196, R315, R318: an mma writes every element of the rows it is given, each from its own old value, and no element of
another row of its tiles; the stationary buffers stay. -/
def Obligations.MmaWritesEveryElement : Prop :=
  ∀ (e : Engine) (f : MmaForm) (rows : Tbl (List Word)) (scales : Tbl (BitVec 128 × BitVec 16)) (ca cb : BitVec 256),
    (rows.map (·.1)).Nodup →
    (∀ r ∈ rows, ∀ n, n < 128 → (e.mmaRun f rows scales ca cb).elem f.t.toNat r.1 n =
      BitVec.ofNat 32 (mmaElem f (tblGet [] e.bufs (if f.s then 1 else 0)) r.2 (tblGet (0, 0) scales r.1) ca cb n
        (e.elem f.t.toNat r.1 n).toNat)) ∧
    (∀ i n, i ∉ rows.map (·.1) → n < 128 →
      (e.mmaRun f rows scales ca cb).elem f.t.toNat i n = e.elem f.t.toNat i n) ∧
    (e.mmaRun f rows scales ca cb).bufs = e.bufs

/-- R307, R318, R319, R324, R326: an accepted operation that nothing earlier holds back takes effect and leaves the engine, with
the operands that it captured at its acceptance (log entry 29). An mma returns its power token. An acc.st whose target is gone
writes nothing (R156); the lines that one writes have been zeroed (log entry 59). Events: MMA_COMPLETE, CT_SET_COMPLETE, ACC_COMPLETE, MMA_LDB_COMPLETE of a plain square. -/
def Obligations.EngineOperationsComplete : Prop :=
  ∀ (s : State) (core id x : Nat) (o : EngOp), (s.core core).engine.opReady id = some o → o.id = id →
    let e := (s.core core).engine
    let eng := fun t => (State.core t core).engine
    let gone := fun t => (eng t).ops = e.ops.filter fun q => q.id != id
    let spad := (s.core core).spad
    (∀ tile p row0 count, o.gone = true → o.act = .accSt tile p row0 count →
      ∃ t, exec (.accComplete core id) s = .next t ∧ gone t ∧ (t.core core).spad = spad) ∧
    (∀ f k rows sc ca cb, o.act = .mma f k rows sc ca cb →
      ∃ t, exec (.mmaComplete core id) s = .next t ∧ gone t ∧ (eng t).tiles = (e.mmaRun f rows sc ca cb).tiles ∧
        t.power.tokOut = s.power.tokOut - 1) ∧
    (∀ n v, o.act = .ctSet n v →
      ∃ t, exec (.ctSetComplete core id) s = .next t ∧ gone t ∧ tblGet 0 (eng t).ct n = v ∧
        ∀ m, m ≠ n → tblGet 0 (eng t).ct m = tblGet 0 e.ct m) ∧
    (∀ tile row0 count, o.act = .accZero tile row0 count → row0 + count ≤ 128 →
      ∃ t, exec (.accComplete core id) s = .next t ∧ gone t ∧ ∀ i n, i < 128 → n < 128 →
        (eng t).elem tile i n = if row0 ≤ i ∧ i < row0 + count then 0 else e.elem tile i n) ∧
    ((s.core core).latent = [] → o.gone = false →
      (∀ tile row0 count, o.act = .accLd tile (.spad x) row0 count →
        ∃ t, exec (.accComplete core id) s = .next t ∧ gone t ∧ ∀ i n, i < count → n < 128 →
          (eng t).elem tile (row0 + i) n = BitVec.ofNat 32 (leNat (memRead spad (x + 512 * i + 4 * n) 4))) ∧
      (∀ tile row0 count, o.act = .accSt tile (.spad x) row0 count →
        (∀ l ∈ linesOf x (512 * count), (s.core core).zeroing.contains l = false) →
        ∃ t, exec (.accComplete core id) s = .next t ∧ gone t ∧
          (∀ i n, i < count → n < 128 →
            leNat (memRead (t.core core).spad (x + 512 * i + 4 * n) 4) = (e.elem tile (row0 + i) n).toNat) ∧
          ∀ a, (a < x ∨ x + 512 * count ≤ a) → memGet (t.core core).spad a = memGet spad a) ∧
      (∀ f key tensor sq num rel, o.act = .ldb f (.spad x) key tensor sq num rel → f.ct = false →
        ∃ t, exec (.mmaLdbComplete core id) s = .next t ∧ gone t ∧
          ∀ a, a < squareTag f.fmt → memGet (tblGet [] (eng t).bufs (if f.s then 1 else 0)) a = memGet spad (x + a)))

/-- R329, R330 (Table 13.6): an epilogue of the two words e.lda.f e0 and e.st.s.b32 e0, p0, which moves the accumulator to e0 and
stores e0 as 32 bits, writes each element of its columns to P_0 + row × 512 + 4 × column, and no other byte of the scratchpad. The
lines it writes have been zeroed (log entry 59). Event: EPI_RUN_COMPLETE. -/
def Obligations.EpilogueStores : Prop :=
  ∀ (s : State) (core id x tile k : Nat) (a : EpiArgs) (o : EngOp), (s.core core).engine.opReady id = some o → o.id = id →
    o.act = .epi tile k a [0x00000000#32, 0xB000E000#32] → a.place = .spad x → a.nc ≤ 128 → (s.core core).latent = [] → o.gone = false →
    let p := x + a.pks.getD 0 0
    (∀ l ∈ (s.core core).zeroing, (l + 1) * 256 ≤ p ∨ p + 512 * (32 * k) ≤ l * 256) →
    ∃ t, exec (.epiRunComplete core id) s = .next t ∧
      ((t.core core).engine.ops = (s.core core).engine.ops.filter fun q => q.id != id) ∧
      (∀ i j, i < 32 * k → j < a.nc →
        leNat (memRead (t.core core).spad (p + 512 * i + 4 * j) 4) = ((s.core core).engine.elem tile i (a.c0 + j)).toNat) ∧
      ∀ b, (∀ i j, i < 32 * k → j < a.nc → b < p + 512 * i + 4 * j ∨ p + 512 * i + 4 * j + 4 ≤ b) →
        memGet (t.core core).spad b = memGet (s.core core).spad b

/-! ## System instructions and traps (12 R296 to R304, 15 R354 to R361) -/

/-- R298, R378, R379: nt.hint moves the islands of the issuing lanes to the near-threshold point, or back, and the lanes advance; a
region at a boost point does not enter, and a lane in wait.ns keeps its island where it is (R296). R300: wear.rd gives the value its selector names.

R299, R395: boost queues one request of the lowest issuing lane, for the point and time its sources name, and its answer is
pending in every issuing lane. R301, R409: seal.put takes the next chunk number of its grid's stream, and submits its region.

R301, R409: the bytes of a chunk's region are read, some of those left at each event (log entry 1). With all of them read the chunk is
complete: one read without loss keeps the digest of its bytes, a lost one keeps none. Event: SEAL_CHUNK_COMPLETE. -/
def Obligations.SystemSubmissions : Prop :=
  (∀ (s : State) (h : VHead) (sel : Src), s.Issuing → s.issue.lanes ≠ 0 →
      let k := fun (t : State) => t.core s.issue.core
      let passed := fun t => ∀ l ∈ s.issLanes, s.laneIn t l = (s.issLane l).goto s.nextPc
      (∃ t, exec .ntHintEnter s = .next t ∧ passed t ∧
        (s.boosted s.issue.core = true → (k t).ntSettle = (k s).ntSettle) ∧
        (s.boosted s.issue.core = false → ∀ l ∈ s.issLanes, (k t).islandNear (l / 8) =
          (!(k s).keepsIsland (l / 8) || (k s).islandNear (l / 8)))) ∧
      (∃ t, exec .ntHintLeave s = .next t ∧ passed t ∧
        ∀ l ∈ s.issLanes, (k s).islandNear (l / 8) = true →
          (k t).islandNear (l / 8) = (k s).keepsIsland (l / 8) ∧ tblGet 0 (k t).ntKeep (l / 8) = 2) ∧
      (s.regsOk 2 h.dst.toNat = true → s.srcOk 1 sel = true → (∀ l ∈ s.issLanes, wearSelOk (s.src32 0 l sel) = true) →
        ∃ t, exec (.wearRd h sel) s = .next t ∧ s.Performs t h.flag fun l x =>
          x.put64 h.dst (BitVec.ofNat 64 (s.wearValue (s.src32 0 l sel))))) ∧
  (∀ (s : State) (h : VHead) (a b : Src) (l : Nat) (p : Place) (ch vpn : Nat) (q : Seal), s.Issuing →
      (s.issue.lanes ≠ 0 → s.goLanes h.flag = s.issLanes → s.regsOk 2 h.dst.toNat = true → s.srcOk 1 a = true →
        s.srcOk 1 b = true → (s.src32 0 (lowLane s.issue.lanes) a).toNat < 256 →
        ∃ t r, exec (.boost h a b) s = .next t ∧ t.power.requests = s.power.requests ++ [r] ∧
          r.point = (s.src32 0 (lowLane s.issue.lanes) a).toNat ∧ r.us = (s.src32 1 (lowLane s.issue.lanes) b).toNat ∧
          r.core = s.issue.core ∧ r.ctx = s.issGrid.ctx ∧ r.op = s.fresh ∧
          s.Pending t s.issLanes h.flag (.sfu h.dst.toNat) ∧
          ∀ l ∈ s.issLanes, s.laneIn t l = ((s.issLane l).pend h.flag).goto s.nextPc) ∧
      (s.issLanes = [l] → (s.issLane l).flagFull h.flag = false → s.regsOk 2 h.dst.toNat = true → s.srcOk 2 a = true →
        s.srcOk 1 b = true → s.issGrid.stream = some q → (tblFind s.sched.grids s.issTeam.grid).isSome →
        let n := (s.src32 1 l b).toNat
        let ea := s.src64 0 l a
        0 < n → n ≤ 2 ^ 20 → tagOf ea ∈ [0x0, 0x8, 0xA] → s.preCheck (s.whoIs l) .any 1 n ea = none →
        s.sealReach l n ea = .ok p ch vpn →
        s.sealBlockers l n ea = [] →
        ∃ t q' c, exec (.sealPut h a b) s = .next t ∧
          (s.laneIn t l).reg h.dst.toNat = BitVec.ofNat 32 q.tl.next ∧
          (s.laneIn t l).reg (h.dst.toNat + 1) = BitVec.ofNat 32 (q.tl.next / 2 ^ 32) ∧ (s.laneIn t l).pc = s.nextPc ∧
          (t.grid s.issTeam.grid).stream = some q' ∧ q'.tl.next = q.tl.next + 1 ∧ q'.issued = q.issued + 1 ∧
          q'.chunks = q.chunks ++ [c] ∧ c.num = q.tl.next ∧ c.bytes = List.replicate n none ∧ c.done = false)) ∧
  (∀ (s u : State) (grid num : Nat) (q : Seal) (c : Chunk) (bs : List (Option Byte)) (bad : Bool),
      (s.grid grid).stream = some q → (q.chunks.find? fun c => c.num == num && !c.done) = some c →
      (tblFind s.sched.grids grid).isSome →
      s.chunkRead c.core (s.grid grid).ctx (s.grid grid).desc.ptRoot c.region (c.reads s.stamp) 0
        (sectorParts (c.bytes.length / 64 + 2) c.region.off c.bytes.length) c.bytes = (u, bs, bad) →
      ∃ t q', exec (.sealChunkComplete grid num) s = .next t ∧ (t.grid grid).stream = some q' ∧
        let lost := c.lost || bad
        (bs.all (·.isSome) = true →
          (q'.chunks.find? fun c => c.num == num && !c.done) = none ∧
          { c with bytes := bs, done := true, lost := lost,
                   digest := if lost then none
                     else some (BitVec.ofNat 384 (leNat (sha384 (bs.map (·.getD 0))))) } ∈ q'.chunks) ∧
        (bs.all (·.isSome) = false →
          { c with bytes := bs, done := false, lost := lost, digest := none } ∈ q'.chunks ∧ q'.tl.next = q.tl.next))

/-- R302, R359: trap passes its issuing lanes on and enters the handler with every lane of the group that has not exited: it
saves pc, that of the next instruction for the issuing lanes (log entry 34), depth, status, wait, YLD, guards, flags and
return stack in its shadow, and stands at the handler's entry at trap level with depth, guards and flags 0. R303, R361: rtrap
gives the handler's lanes their shadows back. R304: brk passes its lanes and stops the core with code 0x10. -/
def Obligations.TrapResults : Prop :=
  ∀ (s : State) (code : BitVec 16), s.Issuing → s.issue.lanes ≠ 0 →
    let entry := s.issGrid.desc.entry
    (entry ≠ 0 → s.marked s.issue.core s.issTeam.grid entry = true → (∀ l ∈ s.issLanes, (s.issLane l).tl = false) →
      ∃ t, exec (.trap code) s = .next t ∧ (s.issGrid.desc.frame = 0 → t.mem = s.mem) ∧
        ∀ l, l < 32 → (s.issLane l).live = true →
          let x := if l ∈ s.issLanes then (s.issLane l).goto s.nextPc else s.issLane l
          let y := s.laneIn t l
          y.shadow = some ⟨x.pc, x.depth, x.status, x.waitOn, x.yld, x.guards, x.flags, x.slots, x.waitFlag⟩ ∧ y.pc = entry ∧
            y.tl = true ∧ y.depth = 0 ∧ y.status = .ready ∧ y.guards = 0 ∧ y.flags = [] ∧ y.regs = x.regs) ∧
    ((∀ l, l < 32 → (s.issLane l).live = true → ((s.issLane l).tl = true ↔ l ∈ s.issLanes)) →
      (∀ l ∈ s.issLanes, (s.issLane l).live = true) →
      ∃ t, exec .rtrap s = .next t ∧ ∀ l ∈ s.issLanes, ∀ h, (s.issLane l).shadow = some h →
        let y := s.laneIn t l
        y.pc = h.pc ∧ y.depth = h.depth ∧ y.tl = false ∧ y.status = h.status ∧ y.waitOn = h.waitOn ∧ y.yld = h.yld ∧
          y.guards = h.guards ∧ y.flags = h.flags ∧ y.slots = h.slots ∧ y.waitFlag = h.waitFlag ∧ y.shadow = none ∧ y.regs = (s.issLane l).regs) ∧
    ((s.core s.issue.core).flt.stopped = false → s.issTeam.stopping = false →
      ∃ t, exec (.brk code) s = .next t ∧ t.StoppedOn s.issue.core 0x10 s.issue.lanes s.issue.p ∧
        ∀ l ∈ s.issLanes, s.laneIn t l = (s.issLane l).goto s.nextPc)

/-- R218, R354, R355: an encoding that no instruction has is an illegal-instruction fault (code 0x04) whose FLT_AUX is the parcel;
a fetch that faults raises its code for every issuing lane. R358: a trap with no handler is a double trap (code 0x0F). The core
stops, and no lane moves. -/
def Obligations.FetchAndDecodeFaults : Prop :=
  ∀ (s : State) (parcel : Word) (code : BitVec 8) (addr aux : DWord) (c : BitVec 16), s.Issuing → s.issue.lanes ≠ 0 →
    (s.core s.issue.core).flt.stopped = false → (∀ l ∈ s.issLanes, (s.issLane l).tl = false) →
    let stays := fun t => ∀ l, s.laneIn t l = s.issLane l
    (∃ t r, exec (.unassignedEncoding parcel) s = .next t ∧ t.StoppedOn s.issue.core 0x04 s.issue.lanes s.issue.p ∧
      (t.core s.issue.core).flt.cur = some r ∧ r.aux = parcel.setWidth 64 ∧ stays t) ∧
    (code ∈ [1, 2, 3, 6, 0x0E] →
      ∃ t r, exec (.instructionFetchFault code addr aux) s = .next t ∧
        t.StoppedOn s.issue.core code.toNat s.issue.lanes s.issue.p ∧ (t.core s.issue.core).flt.cur = some r ∧
        r.addr = addr ∧ r.aux = aux ∧ stays t) ∧
    (s.issGrid.desc.entry = 0 →
      ∃ t, exec (.trap c) s = .next t ∧ t.StoppedOn s.issue.core 0x0F s.issue.lanes s.issue.p ∧ stays t)


/-! ## The actions of FLT_CTL (15 R355 to R358, Table 15.3) -/

/-- R357 (Table 15.3): the actions on a stopped core that has drained. RETRY of a precise fault that is no double trap, and
CONTINUE of an imprecise fault or breakpoint, resume the core with no other change of its teams or of memory; an action that
Table 15.3 does not allow only sets ERR. R358, R359: DELIVER puts every lane of the faulting group that has not exited in the
handler. Events: FLT_RETRY, FLT_CONTINUE, DELIVER.

R357: KILL_GROUP ends the faulting group, counts it and its code in CTX_ERR and marks its grid; KILL_GRID ends every resident
group of its grid on every core but those of teams that are being pre-empted (log entry 35), takes its teams off the waiting
list, and stops its dispatch. Events: KILL_GROUP, KILL_GRID. -/
def Obligations.FaultActionsAndKills : Prop :=
  (∀ (s : State) (core slot g : Nat) (r : Report), (s.core core).flt.stopped = true → (s.core core).flt.cur = some r →
     let u := (s.core core).flt
     let k := fun t => State.core t core
     (s.drained core = true → u.heldQ = [] →
       let resumed : FltUnit := { u with stopped := false, overflow := [], act := none }
       (r.imprecise = false → r.code ≠ 0x0F →
         ∃ t, exec (.fltRetry core) s = .next t ∧ k t = { s.core core with flt := resumed } ∧ t.mem = s.mem) ∧
       (r.imprecise = true → r.code ≠ 0x0F →
         ∃ t, exec (.fltContinue core) s = .next t ∧ k t = { s.core core with flt := resumed } ∧ t.mem = s.mem) ∧
       (r.code ≠ 0x0F → (s.core core).findGroup r.uid = some (slot, g) → (s.group core slot g).inTrap = false →
         let entry := (s.grid (s.team core slot).grid).desc.entry
         entry ≠ 0 → s.marked core (s.team core slot).grid entry = true →
         ∃ t, exec (.deliver core) s = .next t ∧ (k t).flt = resumed ∧
           ∀ l, l < 32 → (tblFind (s.group core slot g).lanes l).isSome →
             (t.group core slot g).lane l = ((s.group core slot g).lane l).enterTrap entry)) ∧
     (∀ i, (i = .fltRetry core ∧ (r.imprecise = true ∨ r.code = 0x0F)) ∨
         (i = .fltContinue core ∧ (r.imprecise = false ∨ r.code = 0x0F)) ∨
         (i = .deliver core ∧ r.code = 0x0F) →
       ∃ t, exec i s = .next t ∧ k t = { s.core core with flt := { u with err := true } } ∧ t.mem = s.mem)) ∧
  (∀ (s : State) (core slot g : Nat) (r : Report), (s.core core).flt.stopped = true → (s.core core).flt.cur = some r →
     s.drained core = true → (s.core core).findGroup r.uid = some (slot, g) →
     let gid := (s.team core slot).grid
     (∃ t, exec (.killGroup core) s = .next t ∧ tblFind (t.team core slot).groups g = none ∧
       ((tblFind s.sched.grids gid).isSome → (t.grid gid).groupKilled = true ∧ (t.grid gid).lastFault = r.code) ∧
       ∀ x, tblFind s.ctxs.live (s.grid gid).ctx = some x →
         ∃ y, tblFind t.ctxs.live (s.grid gid).ctx = some y ∧ y.kills = min 65535 (x.kills + 1) ∧ y.last = r.code) ∧
     (∃ t, exec (.killGrid core) s = .next t ∧
       (∀ x ∈ s.gridGroups gid, tblFind (t.team x.1 x.2.1).groups x.2.2.1 = none) ∧
       (∀ w ∈ t.sched.waiting, w.team.grid ≠ gid) ∧
       ((tblFind s.sched.grids gid).isSome →
         (t.grid gid).killed = true ∧ (t.grid gid).dispatching = false ∧ (t.grid gid).lastFault = r.code)))


/-! ## The L1 structures, page sweeps, zeroing and walks (02, 03) -/

/-- R67, R91: FILL makes every byte of a sector present: a dirty byte keeps its value, any other takes its value at H. R68, R91:
EVICT writes exactly the dirty bytes of a sector to H, after the sweep of a pending page, and no byte of it stays. With no latent
error in the way, no failed stream, nothing of the memory's own under a clean L2 sector, and a way held for the line. Events: FILL,
EVICT.

R46, R48: SWEEP_COMPLETE clears a page's bit and its bytes, counts in SWEEPS of the die, and lets the writes that wait come next
in their order; every other byte stays; a far page counts on the die of its first granule, the model's choice (log entry 53). R57:
SCRATCH_LINE_ZEROED zeroes the lowest line of the list, one in a cycle, and no other byte; that it zeroes the line whole, whatever
has been written to it, is the model's choice (log entry 59). R53, R54: PATROL_READ of a sector with an uncorrectable error counts
in UE_UNOWNED and makes the memory's 64 bytes zeros: what the L2 holds of the sector is still read. R33: EXPANSION_HOT_REMOVE takes a device out of the map, and no byte of memory changes. -/
def Obligations.FillsSweepsAndRemovals : Prop :=
  (∀ (s : State) (id k w : Nat), s.l1InUse id = true → tblFind (s.l1At id).latent k = none → tblFind s.mem.latent k = none →
     (∀ x ∈ s.mem.l2, x.2.bad = none ∧ (x.2.dirty = false → x.2.under = none)) → (s.stream expStream).fail = false →
     let x := s.sector id k
     let home := fun (t : State) i => if t.scrubPending (k * 64 + i) then (0 : Byte) else memGet t.mem.cells (k * 64 + i)
     (∀ i, i < 64 → s.mem.isMem (k * 64 + i) = s.mem.isMem (k * 64)) →
     (s.mem.isMem (k * 64) = true → ((s.l1At id).set id (k / 4)).wayOf (k / 4) = some w →
         tblFind ((s.l1At id).set id (k / 4)).ways w = some (k / 4) →
       ∃ t, exec (.fill id k) s = .next t ∧ (t.sector id k).v = true ∧ (t.sector id k).dm = x.dm ∧
         t.mem.cells = s.mem.cells ∧
         ∀ i, i < 64 → (t.sector id k).byte i = if x.dm.getLsbD i then x.byte i else home s i) ∧
     ((tblFind (s.l1At id).sectors k).isSome →
       ∃ t, exec (.evict id k) s = .next t ∧ tblFind (t.l1At id).sectors k = none ∧
         ∀ i, i < 64 → home t i = if x.dm.getLsbD i then x.byte i else home s i)) ∧
  (∀ (s : State) (page core line sector device : Nat),
     (s.mem.sweeping.contains page = true →
       ∃ t, exec (.sweepComplete page) s = .next t ∧ t.mem.swept.contains page = true ∧ t.mem.sweeping.contains page = false ∧
         (∀ a, memGet t.mem.cells a = if page * 65536 ≤ a ∧ a < page * 65536 + 65536 then 0 else memGet s.mem.cells a) ∧
         tblGet 0 t.mgmt.sweeps (dieOf (page * 65536)) = (tblGet 0 s.mgmt.sweeps (dieOf (page * 65536)) + 1) % 2 ^ 48 ∧
         t.agenda = ((s.mem.waiters.filter fun w => w.1 == page).map fun w => Turn.again w.2) ++ s.agenda) ∧
     ((s.core core).zeroed = true → exec (.scratchLineZeroed core line) s = .next s) ∧
     ((s.core core).zeroing.head? = some line → (s.core core).zeroed = false →
       ∃ t, exec (.scratchLineZeroed core line) s = .next t ∧ (t.core core).zeroing = (s.core core).zeroing.drop 1 ∧
         (∀ a, memGet (t.core core).spad a =
           if line * 256 ≤ a ∧ a < line * 256 + 256 then 0 else memGet (s.core core).spad a) ∧ t.mem = s.mem) ∧
     (s.mem.isMem (sector * 64) = true → s.scrubPending (sector * 64) = false →
       tblFind s.mem.latent sector = some .uncorrectable →
       ∃ t, exec (.patrolRead sector) s = .next t ∧ tblFind t.mem.latent sector = none ∧
         (∀ a, memGet t.mem.cells a =
           if sector * 64 ≤ a ∧ a < sector * 64 + 64 ∧ (tblFind s.mem.l2 sector).isNone then 0 else memGet s.mem.cells a) ∧
         (∀ x, tblFind s.mem.l2 sector = some x → ∃ y, tblFind t.mem.l2 sector = some y ∧ y.dirty = x.dirty ∧
           (x.dirty = false → y.under = some (List.replicate 64 0))) ∧
         tblGet 0 t.mgmt.ueUnowned (dieOf (sector * 64)) = satInc 32 (tblGet 0 s.mgmt.ueUnowned (dieOf (sector * 64)))) ∧
     (device < s.mem.expDevs.length → s.mem.removed.contains device = false →
       ∃ t, exec (.expansionHotRemove device) s = .next t ∧ t.mem.removed = device :: s.mem.removed ∧
         t.mem.cells = s.mem.cells ∧ ∀ d pa, s.mem.expDevs[device]? = some d → d.1 ≤ pa → pa < d.1 + d.2 →
           expFirst ≤ pa → pa < hostFirst → t.mem.kind pa = .hole))


/-- R36, R40, R41: WALK_COMPLETE ends a walk of a core, and those of its cluster for the same page and context, where it is one of
the 128 that the cluster's walker has in flight; a walk behind them waits. A leaf of the shared TLB, or else of the tables, joins
the core's TLB, whose set keeps its newest entries (log entry 10); a walk that finds no leaf leaves its fault for the parked
lanes; the walk of a context with no grid left has no one to serve. R61, R155: a remote request to a rank that moves joins the hold
buffer, and one that meets an absent line joins the requests that wait at its target; a fetch-and-add goes there by its switch. That
a request counts as sent from then on is the model's reading of R152 (log entry 46). Events: WALK_COMPLETE, REMOTE_SCRATCH_REQUEST. -/
def Obligations.WalksAndRemoteRequests : Prop :=
  (∀ (s u : State) (core ctx vpn code level root : Nat) (e : Tlb), (s.core core).walks.contains (ctx, vpn) = true →
      let cl := clusterOf core
      let tlb := fun (t : State) => (t.core core).tlb
      let ended := fun (t : State) => (∀ c, clusterOf c = cl → (t.core c).walks.contains (ctx, vpn) = false) ∧
        (t.cluster cl).walks.contains (ctx, vpn) = false
      let flight := ((s.cluster cl).walks.take 128).contains (ctx, vpn)
      let walk := s.clusterWalk cl ctx root (vpn * 65536)
      (flight = false → exec (.walkComplete core ctx vpn) s = .next s) ∧
      (flight = true → s.rootFor core ctx = none →
        ∃ t, exec (.walkComplete core ctx vpn) s = .next t ∧ ended t ∧ tlb t = tlb s) ∧
      (flight = true → s.rootFor core ctx = some root → tlbFind (s.cluster cl).tlb ctx (vpn * 65536) = some e →
        ∃ t, exec (.walkComplete core ctx vpn) s = .next t ∧ ended t ∧ tlb t = tlbAdd 8 32 (tlb s) e) ∧
      (flight = true → s.rootFor core ctx = some root → tlbFind (s.cluster cl).tlb ctx (vpn * 65536) = none →
        (walk = (u, .leaf e) →
          ∃ t, exec (.walkComplete core ctx vpn) s = .next t ∧ ended t ∧ tlb t = tlbAdd 8 32 (tlb u) e ∧
            (t.cluster cl).tlb = tlbAdd 16 2048 (u.cluster cl).tlb e) ∧
        (walk = (u, .hole e level) →
          ∃ t, exec (.walkComplete core ctx vpn) s = .next t ∧ ended t ∧
            (t.core core).walkFaults = ⟨ctx, vpn, 3, level, some e⟩ :: (u.core core).walkFaults) ∧
        (walk = (u, .bad code level) →
          ∃ t, exec (.walkComplete core ctx vpn) s = .next t ∧ ended t ∧
            (t.core core).walkFaults = ⟨ctx, vpn, code, level, none⟩ :: (u.core core).walkFaults))) ∧
  (∀ (s : State) (core id c r g co off tgt slot : Nat) (i : Item), (s.core core).item id = some i →
      i.place = .rank c r g co off → i.act.isPoint = false → i.inFab = false → s.blocked core i = false →
      ((s.cluster c).rankEntry g co r).isSome →
      let me : RemoteReq := ⟨some core, id⟩
      let sent := fun (t : State) => (t.core core).item id = some { i with sent := some (i.sent.getD (s.ns, s.stamp)) } ∧
        ∀ k, (t.core k).spad = (s.core k).spad
      (s.rankAt c r g co = none → (s.cluster c).hold.any (·.item == id) = false → (s.cluster c).hold.length < 256 →
        ∃ t, exec (.remoteScratchRequest core id) s = .next t ∧ (t.cluster c).hold = (s.cluster c).hold ++ [me] ∧ sent t) ∧
      (s.rankAt c r g co = some (tgt, slot) → s.linesPresent tgt ((s.team tgt slot).base * 256 + off) i.act.size = false →
        (s.viaSwitch i = true → exec (.remoteScratchRequest core id) s = .next s) ∧
        (s.viaSwitch i = false → (s.core tgt).remote.any (·.item == id) = false → (s.core tgt).remote.length < 64 →
          ∃ t, exec (.remoteScratchRequest core id) s = .next t ∧ (t.core tgt).remote = (s.core tgt).remote ++ [me] ∧
            (t.cluster c).hold.contains me = false ∧ sent t)))


/-! ## The fabric (06 R132 to R156) -/

/-- R136, R145, R146, R150: a fetch-and-add that arrives at a switch goes on where the switch does not combine it, opens a window
where a record is free and passes where none is, joins the open window of its key in merge order, or is held behind a window of
its port and block; the windows whose time is over have closed before. What stands in the switches is what log entry 15 says.
R146, R147: a window that closes, once its time is over, with one request sends it on unchanged; with more it sends one request of the sum of their addends, and its record waits for the reply. Events:
SWITCH_REQUEST_ARRIVAL, COMBINE_WINDOW_CLOSE.

R148: a reply of old value f gives each requester of its record f plus the addends of the requesters before it; here two
fetch-and-adds of one lane each, of different cores. R151, R153: a record that is lost, or that no reply reaches within
TMO_US + 50 µs, is forgotten and counted. Events: CONTRAIL_REPLY_SPLIT, RECORD_EXPIRE. -/
def Obligations.SwitchesCombineAndRepliesSplit : Prop :=
  ((∀ (s : State) (sw id : Nat) (r : FabReq) (c : Contrail), s.arriving sw id = some r →
       let u := (s.markSent r).closeOver sw
       let b := u.fabric
       let rest := b.reqs.filter fun q => q.id != r.id
       let room := (b.recs.filter fun c => c.sw == sw && c.out == u.outPort sw r).length < recordCap sw
       let window := b.recs.find? fun c => c.sw == sw && c.isOpen && c.out == u.outPort sw r && r.sameKey c
       (b.heldBehind sw r = some c →
         ∃ t, exec (.switchRequestArrival sw id) s = .next t ∧ t.fabric.reqs = rest ++ [{ r with heldBy := some c.id }] ∧
           t.fabric.recs = b.recs) ∧
       (b.heldBehind sw r = none →
         (window = some c → c.reqs.length + 1 < 64 →
           ∃ t, exec (.switchRequestArrival sw id) s = .next t ∧ t.fabric.reqs = rest ∧
             { c with reqs := insertReq r c.reqs } ∈ t.fabric.recs) ∧
         (window = none → b.combines sw r = false →
           ∃ t, exec (.switchRequestArrival sw id) s = .next t ∧ t.fabric.reqs = rest ++ [r.forward] ∧ t.fabric.recs = b.recs) ∧
         (window = none → b.combines sw r = true → ¬room →
           ∃ t, exec (.switchRequestArrival sw id) s = .next t ∧ t.fabric.reqs = rest ++ [r.forward] ∧ t.fabric.recs = b.recs ∧
             (tblGet ⟨0, 0, 0, 0⟩ t.fabric.comb sw).pass = ((tblGet ⟨0, 0, 0, 0⟩ b.comb sw).pass + 1) % 2 ^ 20) ∧
         (window = none → b.combines sw r = true → room →
           ∃ t n, exec (.switchRequestArrival sw id) s = .next t ∧ t.fabric.reqs = rest ∧ t.fabric.recs = b.recs ++ [n] ∧
             n.sw = sw ∧ n.place = r.place ∧ n.w64 = r.w64 ∧ n.isOpen = true ∧ n.reqs = [r]))) ∧
   (∀ (s : State) (sw rid : Nat) (c : Contrail) (r q : FabReq) (l : List FabReq),
       (s.fabric.recs.find? fun c => c.id == rid && c.sw == sw && c.isOpen) = some c →
       (s.windowOver c = false → exec (.combineWindowClose sw rid) s = .next s) ∧
       (s.windowOver c = true → (∀ x ∈ s.fabric.reqs, x.heldBy ≠ some c.id) →
       (c.reqs = [r] →
         ∃ t, exec (.combineWindowClose sw rid) s = .next t ∧
           t.fabric.reqs = (s.fabric.reqs.filter fun x => x.id != r.id) ++ [r.forward] ∧ ∀ x ∈ t.fabric.recs, x.id ≠ rid) ∧
       (c.reqs = r :: q :: l →
         ∃ (t : State) (m : FabReq), exec (.combineWindowClose sw rid) s = .next t ∧ m.forward ∈ t.fabric.reqs ∧ m.record = some (sw, rid) ∧
           m.place = c.place ∧ m.w64 = c.w64 ∧ m.addend = (c.reqs.map (·.addend)).foldl (· + ·) 0 ∧
           { c with isOpen := false, sentAt := s.ns } ∈ t.fabric.recs ∧
           (tblGet ⟨0, 0, 0, 0⟩ t.fabric.comb sw).merged = ((tblGet ⟨0, 0, 0, 0⟩ s.fabric.comb sw).merged + 1) % 2 ^ 20)))) ∧
  (∀ (s : State) (sw rid : Nat) (c : Contrail), (s.fabric.recs.find? fun c => c.id == rid && c.sw == sw) = some c →
     let stat := fun (t : State) => tblGet ⟨0, 0, 0, 0⟩ t.fabric.comb sw
     let gone := fun (t : State) => ∀ x ∈ t.fabric.recs, x.id ≠ rid
     (∀ f, c.reply = some f →
       (∃ t, exec (.contrailReplySplit sw rid true) s = .next t ∧ gone t ∧ (stat t).lost = satInc 12 (stat s).lost ∧
         t.cores = s.cores) ∧
       ∀ (a b : FabReq) (ca cb la lb pa pb da db : Nat) (w : Bool) (ga gb : BitVec 3) (x y : Item) (oa ob : Op),
         c.reqs = [a, b] → a.origin = some (ca, x.id) → b.origin = some (cb, y.id) → ca ≠ cb → a.w64 = w → b.w64 = w →
         (s.core ca).item x.id = some x → (s.core cb).item y.id = some y → x.place = .dev pa → y.place = .dev pb →
         x.act = .faa w a.addend → y.act = .faa w b.addend → la < 32 → lb < 32 →
         x.lanes = (1 : BitVec 32) <<< la → y.lanes = (1 : BitVec 32) <<< lb →
         tblFind (s.core ca).ops x.op = some oa → tblFind (s.core cb).ops y.op = some ob →
         oa.kind = .atomic da w ga → ob.kind = .atomic db w gb → oa.ended &&& x.lanes = 0 → ob.ended &&& y.lanes = 0 →
         let m := 2 ^ (if w then 64 else 32)
         ∃ t pa' pb', exec (.contrailReplySplit sw rid false) s = .next t ∧ gone t ∧
           ((t.core ca).item x.id).isNone ∧ ((t.core cb).item y.id).isNone ∧
           tblFind (t.core ca).ops x.op = some pa' ∧ tblGet [] pa'.values la = valueWords w (f.toNat % m) ∧
           tblFind (t.core cb).ops y.op = some pb' ∧ tblGet [] pb'.values lb = valueWords w ((f.toNat + a.addend.toNat) % m)) ∧
     (c.isOpen = false → c.reply = none → c.sentAt + s.fabric.tmo + 50000 ≤ s.ns →
       ∃ t, exec (.recordExpire sw rid) s = .next t ∧ gone t ∧ (stat t).expired = satInc 12 (stat s).expired))


/-- R152: a fabric atomic or peer request that has waited TMO_US since it was sent (log entry 46) ends: its lanes take zero with
the outcome unknown, DATA_LOSS counts it, and a write that is on its way is still to be applied. R413: a host request that has
waited so long, in the host window or in the part of the module's own window that is host memory, ends in the same way, and HL_ERR
counts it. R156: 100 µs after a rank was marked moving, a held request ends
with a scratchpad-target-gone fault (code 0x0D) at its requester. Events: FABRIC_TIMEOUT, HOST_COMPLETION_TIMEOUT,
HOLD_TIMEOUT.

R138, R139 (Tables 6.3, 6.4): replays and retrains of a port are counted, three failed retrains or a loss of signal bring it
down, and vector 81 says so; R141: its parking handshake, an acknowledgement of which comes too late after 1 ms. R142, R144 (Table 6.5): a write of a connected-group entry. Events:
FLIT_REPLAY, PORT_RETRAIN, PORT_DOWN, PORT_UP, PARK_REQ_WRITE, PARK_ACK, PARK_TIMEOUT, FAR_END_PARK_REQUEST, CGT_ENTRY_WRITE. -/
def Obligations.TimeoutsPortsAndParking : Prop :=
  ((∀ (s : State) (core id dst : Nat) (w : Bool) (gd : BitVec 3) (i : Item) (o : Op) (x : Ctx),
       (s.core core).item id = some i → (∃ at_, i.sent = some at_ ∧ at_.1 + s.fabric.tmo ≤ s.ns) →
       tblFind (s.core core).ops i.op = some o → o.kind = .atomic dst w gd → tblFind s.ctxs.live i.ctx = some x →
       let ends := fun t => (∃ o', tblFind (State.core t core).ops i.op = some o' ∧ o'.ended = o.ended ||| i.lanes ∧
           ∀ l ∈ lanesOf i.lanes, tblFind o'.values l = some (valueWords w 0)) ∧
         ∃ y, tblFind (State.ctxs t).live i.ctx = some y ∧ y.dataLoss = satInc 32 x.dataLoss
       (i.timed = true → s.mem.inHost i.place = false → i.ended = false → i.act.writes = true →
         (i.inFab = false ∨ s.fabric.carries core i.id = true) →
         ∃ t, exec (.fabricTimeout core id) s = .next t ∧ ends t ∧
           (t.core core).item id = some { i with op := 0, after := [], ended := true }) ∧
       (s.mem.inHost i.place = true → i.act.isPoint = false →
         ∃ t, exec (.hostCompletionTimeout core id) s = .next t ∧ ends t ∧ ((t.core core).item id).isNone ∧
           t.mgmt.hlErr = satInc 32 s.mgmt.hlErr)) ∧
   (∀ (s : State) (cluster core slot g : Nat) (e : RankEntry) (r : RemoteReq) (i : Item) (o : Op),
       ((s.cluster cluster).ranks.filter fun x => x.rank == e.rank && x.moving.any fun t => t + 100000 ≤ s.ns) = [e] →
       s.heldFor cluster e = [r] → s.copiesFor cluster e = [] → (∀ k ∈ s.cores, ∀ o ∈ k.2.engine.ops, o.waitsFor cluster e = false) →
       (∀ k ∈ s.cores, ∀ x ∈ k.2.teams, ∀ y ∈ x.2.groups, ∀ l, l < 32 → (y.2.lane l).parkedFor cluster e = none) →
       r.core = some core → (s.core core).item r.item = some i → i.ended = false →
       (s.core core).findGroup i.uid = some (slot, g) → (s.core core).flt.stopped = false → (s.team core slot).stopping = false →
       (s.core core).trapLanes i.uid i.lanes = false → tblFind (s.core core).ops i.op = some o → o.tl = false →
       ∃ t, exec (.holdTimeout cluster e.rank) s = .next t ∧ t.StoppedOn core 0x0D i.lanes o.pc ∧
         ((t.core core).item r.item).isNone ∧ r ∉ (t.cluster cluster).hold ∧ (t.core core).spad = (s.core core).spad)) ∧
  (∀ (s : State) (n peer t0 : Nat) (ok : Bool) (q : BitVec 2) (v : DWord),
     let p := s.port n
     let becomes := fun (t : State) x => t.port n = x ∧ (∀ m, m ≠ n → t.port m = s.port m) ∧ t.mem = s.mem ∧ t.cores = s.cores
     (p.up = true → p.badReplay < 16 →
       ∃ t, exec (.flitReplay n ok) s = .next t ∧
         becomes t { p with replays := (p.replays + 1) % 2 ^ 32, badReplay := if ok then 0 else p.badReplay + 1 }) ∧
     (p.up = true → p.badReplay = 16 → (ok = true ∨ p.badTrain + 1 < 3) →
       ∃ t, exec (.portRetrain n ok) s = .next t ∧ becomes t { p with
         retrains := satInc 16 p.retrains, badReplay := if ok then 0 else 16, badTrain := if ok then 0 else p.badTrain + 1 }) ∧
     (p.up = true → ∀ i, i = .portDown n ∨ (i = .portRetrain n false ∧ p.badReplay = 16 ∧ p.badTrain = 2) →
       ∃ t, exec i s = .next t ∧ (t.port n).up = false ∧
         (i = .portDown n → (t.port n).lost = min 0xFFFF (p.lost + (s.lostItems n).length + (s.lostUnits n).length)) ∧
         (s.link.masked 81 = false → t.link.sent = .msi 81 :: s.link.sent)) ∧
     (p.en = true → ∃ t, exec (.portUp n) s = .next t ∧ becomes t { p with up := true, badReplay := 0, badTrain := 0 }) ∧
     (∃ t, exec (.parkReqWrite n q) s = .next t ∧ becomes t { p with parkReq := q, parking := some (q, s.ns) }) ∧
     (p.parking = some (q, t0) →
       (p.up = true → ∃ t, exec (.parkAck n) s = .next t ∧ becomes t
         (if t0 + 1000000 < s.ns then { p with parkErr := true, parking := none } else { p with parkCur := q, parking := none })) ∧
       (t0 + 1000000 ≤ s.ns →
         ∃ t, exec (.parkTimeout n) s = .next t ∧ becomes t { p with parkErr := true, parking := none })) ∧
     (p.up = true → ∃ t, exec (.farEndParkRequest n q) s = .next t ∧ becomes t { p with parkCur := q }) ∧
     (∃ t, exec (.cgtEntryWrite peer v) s = .next t ∧
       t.cgt peer = ⟨v.getLsbD 63, v.extractLsb' 32 12, (v.extractLsb' 0 32).toNat⟩ ∧
       (∀ m, m ≠ peer → t.cgt m = s.cgt m) ∧ t.mem = s.mem ∧ t.cores = s.cores))


/-! ## Requests of the host and of peers (18 R411 to R413, 17 R407, 01 R22, R23) -/

/-- R29, R30, R46, R110, R411: an access of the host inside the module, or of a firmware (log entry 67), to memory that it may
reach is answered with the bytes at H, or writes exactly its bytes; a write to a pending page waits for its sweep. One that comes
over the link without IDE, within its window (log entry 51), is that access at the device physical address it names then. R419:
before READY a read from the link is zero and a write is dropped, and a request to Message Control, which is a configuration
request (log entry 52), gets Request Retry Status. R412: an aligned register access of 4 or 8 bytes reads the
register's word (log entry 66); any other is an unsupported request. R407: a new key, in a secure session (R400), lets the held
requests of a stream proceed, and none within 1 s of the stall fails it: what it held goes on next, and ends as lost; a key that
comes later stands behind that. Events: HOST_ACCESS, HOST_REGISTER_ACCESS,
IDE_KEY_PROGRAM, IDE_STALL_TIMEOUT.

R22, R23: a peer's load or store inside the export window that its translation permits reads the bytes at H, or writes
exactly its bytes; a fetch-and-add stands before the switch of the exchange die it entered (R133). R24: one that was accepted
goes on with what its acceptance found. One past EXP_SIZE, or a write without WR_EN, is refused with code 0x02, the model's
reading (log entry 42), and counted in PEER_REFUSE. Event: PEER_REQUEST. -/
def Obligations.HostAndPeerRequests : Prop :=
  ((∀ (s : State) (r : HostReq),
       let pa := r.offset
       let n := hostLen r
       let inside := Instr.hostAccess { r with inside := true }
       let way := fun port => s.fabric.windowHolds (s.x0Path port pa) (.dev pa) = false
       let put := fun t bs => ∀ a, memGet (State.mem t).cells a = if pa ≤ a ∧ a < pa + n then bs.getD (a - pa) 0 else memGet s.mem.cells a
       ((r.window ≠ .service ∧ r.window ≠ .root ∧ r.inside = true ∧ s.joinHost inside = none ∧ s.hostAllowed pa n = true ∧ way 20) ∨
           (r.window = .service ∧ s.hostAllowed pa n = true ∧ way 21) ∨ (r.window = .root ∧ way 21) →
         s.mgmt.l2Busy = false → n ≠ 0 → s.mem.isMem pa = true → s.mem.isMem (pa + n - 1) = true → s.HSound →
         (s.stream expStream).stall = none →
         (r.write = none →
           ∃ t, exec (.hostAccess r) s = .next t ∧ t.link.sent.head? = some (.data (s.peek pa n)) ∧ t.mem.cells = s.mem.cells) ∧
         (∀ bs, r.write = some bs → s.pendingPage pa n = none →
           ∃ t, exec (.hostAccess r) s = .next t ∧ put t bs ∧ t.cores = s.cores ∧ t.l1 = s.l1) ∧
         (∀ bs page, r.write = some bs → s.pendingPage pa n = some page →
           ∃ t, exec (.hostAccess r) s = .next t ∧ t.mem.cells = s.mem.cells ∧ t.mem.sweeping.contains page = true ∧
             (page, inside) ∈ t.mem.waiters)) ∧
       (r.window ≠ .service → r.window ≠ .root → r.inside = false →
         (s.mgmt.ready = true → s.inWindow r = true → r.stream = 0 → s.trust.mode = false →
           exec (.hostAccess r) s = exec (.hostAccess { s.arrived r with inside := true }) s) ∧
         (s.mgmt.ready = false →
           ∃ t, exec (.hostAccess r) s = .next t ∧ t.mem = s.mem ∧
             (r.write = none → t.link.sent = .data (List.replicate r.count 0) :: s.link.sent)))) ∧
   (∀ (s : State) (size off : Nat) (reg : RegName) (i : Nat) (w : Option DWord),
       ((size = 4 ∨ size = 8) → off % size = 0 →
         (s.mgmt.ready = true → reg ≠ .energyLo → reg ≠ .energyHi → i < regCount reg →
           ∃ t, exec (.hostRegisterAccess size off reg i none) s = .next t ∧ t.mem = s.mem ∧ t.cores = s.cores ∧
             t.link.sent = .reg (BitVec.ofNat 64 (if size = 8 then s.regWord reg i
               else if off % 8 = 4 then s.regWord reg i / 2 ^ 32 % 2 ^ 32 else s.regWord reg i % 2 ^ 32)) :: s.link.sent) ∧
         (s.mgmt.ready = false → reg ≠ .msixCtl →
           exec (.hostRegisterAccess size off reg i w) s = .next (if w.isSome then s else s.send (.reg 0)))) ∧
       (s.mgmt.ready = false → exec (.hostRegisterAccess size off .msixCtl i w) s = .next (s.send .retry)) ∧
       ((size ≠ 4 ∧ size ≠ 8) ∨ off % size ≠ 0 → (s.mgmt.ready = true ∨ reg ≠ .msixCtl) →
         ∃ t, exec (.hostRegisterAccess size off reg i w) s = .next t ∧ t.link.sent = .unsupported :: s.link.sent ∧
           t.mgmt = s.mgmt ∧ t.mem = s.mem)) ∧
   (∀ (s : State) (n session t0 : Nat),
       (s.inSession session = true →
         (∀ x, (s.stream n).stall = some x → (s.stream n).fail = true ∨ s.ns < x + 1000000000) →
         ∃ t, exec (.ideKeyProgram ⟨n, session⟩) s = .next t ∧ t.stream n = ⟨0, false, none, false, true, [], false⟩ ∧
         t.agenda = (s.stream n).held.map Turn.again ++ s.agenda ∧ t.mem = s.mem) ∧
       (s.inSession session = false → exec (.ideKeyProgram ⟨n, session⟩) s = .next s) ∧
       ((s.stream n).stall = some t0 → (s.stream n).fail = false → t0 + 1000000000 ≤ s.ns →
         let fails := fun (t : State) (later : List Turn) => (t.stream n).fail = true ∧ (t.stream n).held = [] ∧
           t.agenda = ((s.stream n).held ++ s.heldByLink).map Turn.again ++ later ∧
           (s.link.masked 82 = false → Out.msi 82 ∈ t.link.sent) ∧ t.mem = s.mem
         (∃ t, exec (.ideStallTimeout n) s = .next t ∧ fails t s.agenda) ∧
         (s.inSession session = true →
           ∃ t, exec (.ideKeyProgram ⟨n, session⟩) s = .next t ∧ fails t (.again (.ideKeyProgram ⟨n, session⟩) :: s.agenda))))) ∧
  (∀ (s u : State) (r : PeerReq) (h : PeerHome),
     let n := (peerAct r.kind).size
     let x := portDie r.port
     ((r.home = some h ∧ u = s) ∨
         (r.home = none ∧ r.woff + n ≤ s.fabric.expSize * 65536 ∧ (s.fabric.wrEn = true ∨ peerNeed r.kind = .load) ∧
           ∃ pa ch, s.exportAt .unowned r.woff (peerNeed r.kind) = (u, .ok (pa, ch)) ∧
             h = ⟨pa, ch, u.fabric.expCtx, (u.fabric.expBase + r.woff) / 65536⟩) →
       u.peerWaits r = none → u.mgmt.l2Busy = false → u.fabric.holdsBlock h.pa = false → u.mem.isMem h.pa = true →
       u.HSound → (u.stream expStream).stall = none →
       (∀ k, r.kind = .load k → u.behindPeer { r with home := some h } h = false →
         ∃ t, exec (.peerRequest r) s = .next t ∧ t.link.sent.head? = some (.data (natLe (leNat (u.peek h.pa k)) k)) ∧
           t.mem.cells = u.mem.cells) ∧
       (∀ d, r.kind = .store d → u.behindPeer { r with home := some h } h = false → u.scrubPending h.pa = false →
         ∃ t, exec (.peerRequest r) s = .next t ∧ ∀ a, memGet t.mem.cells a =
           if h.pa ≤ a ∧ a < h.pa + d.length then d.getD (a - h.pa) 0 else memGet u.mem.cells a) ∧
       (∀ w a, r.kind = .faa w a →
         ∃ t q, exec (.peerRequest r) s = .next t ∧ t.fabric.reqs = u.fabric.reqs ++ [q] ∧ q.place = .dev h.pa ∧ q.addend = a ∧
           q.w64 = w ∧ q.sw = some (8 + x) ∧ q.peer = some (r.peer, r.core) ∧ t.mem.cells = u.mem.cells)) ∧
     (r.home = none → s.fabric.expSize * 65536 < r.woff + n ∨ (s.fabric.wrEn = false ∧ peerNeed r.kind ≠ .load) →
       ∃ t, exec (.peerRequest r) s = .next t ∧ t.link.sent = .refused 0x02 :: s.link.sent ∧ t.mem = s.mem ∧
         tblGet 0 t.mgmt.peerRefuse x = (tblGet 0 s.mgmt.peerRefuse x + 1) % 2 ^ 32))


/-! ## Service registers and the commands they start (00 R6, 02 R42, R47, 03 R74, R78, 15 R372, 14 R334, R335) -/

/-- R6: a write of a service register stores its RW fields and nothing else; a register that is RO as a whole ignores it. R398,
R412: a write of CONF_SHR is ignored, and ROOT_DENY counts the service firmware's. R414: the host's clear of the mask bit of a
vector whose pending bit is set sends its message, and so does the unmasking of the whole function (log entry 52). R419: before
READY a write of the host is dropped, and one of Message Control, a configuration request (log entry 52), gets Request Retry Status. That the
host's writes of the firmware's registers take effect is the model's choice (log entry 40). Stated of APER_BASE, SCHED_CTL, DUSK_CTL, EXP_BASE, EXP_SIZE, EXP_CTL, FAB_CTL, NT_CTL,
the mask bits, Message Control and the registers that are RO. Event: REGISTER_WRITE. -/
def Obligations.RegisterWrites : Prop :=
  ∀ (s : State) (w : Writer) (i : Nat) (v : DWord),
   (s.mgmt.ready = false → exec (.registerWrite .host .msixCtl i v) s = .next (s.send .retry) ∧
     ∀ r, r ≠ .msixCtl → exec (.registerWrite .host r i v) s = .next s) ∧
   ((w = .host → s.mgmt.ready = true ∧ ∀ j, s.joinHost j = none) →
    let f := fun hi lo => v.toNat / 2 ^ lo % 2 ^ (hi + 1 - lo)
    let writes := fun (r : RegName) (t : State) => exec (.registerWrite w r i v) s = .next t
    (i = 0 →
      writes .aperBase { s with mgmt := { s.mgmt with aper := f 17 0 } } ∧
      writes .schedCtl { s with sched := { s.sched with
        growEn := v.getLsbD 48, quantumUs := max 100 (f 47 32), shrinkWait := max 1 (f 31 24), llsThr := f 7 0 } } ∧
      writes .duskCtl { s with power := { s.power with
        duskEn := v.getLsbD 63, duskMax := f 42 40, duskLen := max 1 (f 39 32), duskMin := f 31 0 } } ∧
      writes .expBase { s with fabric := { s.fabric with expBase := f 56 16 * 65536 } } ∧
      writes .expSize { s with fabric := { s.fabric with expSize := f 47 16 } } ∧
      writes .expCtl { s with fabric := { s.fabric with selfId := f 31 20, wrEn := v.getLsbD 16, expCtx := f 15 0 } } ∧
      writes .fabCtl { s with fabric := { s.fabric with combEn := BitVec.ofNat 10 (f 41 32), tmoUs := max 10 (f 15 0) } }) ∧
    (i < 2048 → writes .ntCtl (s.updCore i fun k =>
      { k with ntEnter := f 31 24, ntExit := f 23 16, ntAuto := v.getLsbD 4 })) ∧
    (∀ r ∈ [RegName.clL1Stat, .optPortCnt, .fabStat, .combStat, .fltPc, .fltAddr, .fltAux, .ceFltVa, .energyLo, .wkeyStat,
        .ceNear, .ceFar, .ceExp, .ceCore, .ceL2, .ueUnowned, .peerRefuse, .hlErr, .sweeps, .rootDeny, .msixPba],
      writes r s) ∧
    (i < 8 → writes .confShr (if w = .service then
      { s with mgmt := { s.mgmt with rootDeny := (s.mgmt.rootDeny + 1) % 2 ^ 32 } } else s)) ∧
    (i < 128 → w = .host → v.getLsbD 0 = false → s.link.mask.contains i = true → s.link.pending.contains i = true →
      s.link.enable = true → s.link.allMask = false →
      ∃ t, writes .msixMask t ∧ t.link.mask = s.link.mask.filter (· != i) ∧ t.link.pending.contains i = false ∧
        Out.msi i ∈ t.link.sent ∧ t.mem = s.mem ∧ t.cores = s.cores) ∧
    (i = 0 → w = .host → ∃ t, writes .msixCtl t ∧ t.link.enable = v.getLsbD 15 ∧ t.link.allMask = v.getLsbD 14 ∧
      t.link.mask = s.link.mask ∧ (v.getLsbD 15 = false ∨ v.getLsbD 14 = true → t.link.sent = s.link.sent) ∧
      (v.getLsbD 15 = true → v.getLsbD 14 = false → ∀ n, n < 128 → s.link.pending.contains n = true →
        s.link.mask.contains n = false → t.link.pending.contains n = false ∧ Out.msi n ∈ t.link.sent)))

/-- R42 (Tables 2.7, 2.8): a command that no other holds back sets BUSY, and no TLB of a core or cluster keeps an entry that it
covers, and no core keeps an instruction line of what it covers (for a page, of the 512 MiB a larger leaf may have mapped); the
entries it does not cover stay. SCOPE 3, and a GO while BUSY, set ERR. BUSY clears once no access, dirty sector,
engine operation or peer's request that the command waits for is left (log entry 41). Events: TLB_INV_PAGE, TLB_INV_CTX, TLB_INV_ALL, TLB_INV_NONE,
TLB_INV_COMPLETE.

R47 (Tables 2.10, 2.11): a scrub command makes every byte of its range read zero, drops the range's lines of the L2, and
leaves the bits of every other page; one while BUSY sets ERR. R78 (Table 3.5): at a boundary GO sets BUSY, elsewhere ERR; at
the end CUR is REQ, the L2 is empty and the held accesses come next. R74: an empty cluster takes the mode that the next grid
asks, with its L1s empty and unpinned. Events: SCRUB_SET, SCRUB_SET_COMPLETE, L2_MODE_CHANGE, L2_MODE_CHANGE_COMPLETE,
L1_MODE_SWITCH. -/
def Obligations.InvalidationScrubAndCacheModes : Prop :=
  (∀ (s : State) (ctx : BitVec 16),
     let cuts := fun (t : State) (hit : Tlb → Bool) (code : Nat → Bool) => t.mgmt.invBusy = true ∧ t.mgmt.invErr = s.mgmt.invErr ∧
       (∀ c, (t.core c).icache = (s.core c).icache.filter fun x => !code x.1) ∧
       (∀ c, (t.core c).tlb = (s.core c).tlb.filter fun e => !hit e) ∧
       (∀ c, (t.cluster c).tlb = (s.cluster c).tlb.filter fun e => !hit e) ∧ t.mem = s.mem
     (s.mgmt.invBusy = false →
       (∃ t, exec (.tlbInvPage ctx) s = .next t ∧ cuts t (fun e => e.ctx == ctx.toNat && decide (e.va ≤ s.mgmt.invVa) &&
         decide (s.mgmt.invVa < e.va + (if e.big then 2 ^ 29 else 65536))) fun k =>
           k / 2 ^ 51 == ctx.toNat && k % 2 ^ 51 / 1024 / 8192 == s.mgmt.invVa / 2 ^ 29) ∧
       (∃ t, exec (.tlbInvCtx ctx) s = .next t ∧ cuts t (fun e => e.ctx == ctx.toNat) fun k => k / 2 ^ 51 == ctx.toNat) ∧
       (∃ t, exec .tlbInvAll s = .next t ∧ cuts t (fun _ => true) fun _ => true)) ∧
     (∀ i, i = Instr.tlbInvNone ∨ (s.mgmt.invBusy = true ∧ (i = .tlbInvPage ctx ∨ i = .tlbInvCtx ctx ∨ i = .tlbInvAll)) →
       ∃ t, exec i s = .next t ∧ t.mgmt.invErr = true ∧ t.mgmt.invBusy = s.mgmt.invBusy ∧ t.cores = s.cores ∧
         t.clusters = s.clusters) ∧
     (s.mgmt.invBusy = true → s.mgmt.invItems.any s.itemLeft = false → s.mgmt.invOps.any s.engineLeft = false →
       s.mgmt.invDirty.any s.dirtyLeft = false → s.mgmt.invReqs.any s.reqLeft = false →
       (∀ r ∈ s.mgmt.invPeers, s.heldPeers.contains r = false) →
       ∃ t, exec .tlbInvComplete s = .next t ∧ t.mgmt.invBusy = false ∧ t.cores = s.cores ∧ t.mem = s.mem)) ∧
  (∀ (s : State) (count : BitVec 31) (req : Bool) (cluster : Nat) (e : Entry),
     let pa := s.mgmt.scrubPa
     let n := count.toNat
     (s.mgmt.scrubBusy = false → 0 < n → pa % 65536 = 0 → s.mem.rangeOk pa n = true →
       ∃ t, exec (.scrubSet count) s = .next t ∧ t.mgmt.scrubBusy = true ∧ t.mgmt.scrubErr = s.mgmt.scrubErr ∧
         (∀ a, pa ≤ a → a < pa + n * 65536 → t.peek a 1 = [0]) ∧
         (∀ p, p < pa / 65536 ∨ pa / 65536 + n ≤ p → t.mem.swept.contains p = s.mem.swept.contains p) ∧
         (∀ k, pa / 64 ≤ k → k < pa / 64 + n * 1024 → tblFind t.mem.l2 k = none) ∧ t.l1 = s.l1) ∧
     (s.mgmt.scrubBusy = true →
       ∃ t, exec (.scrubSet count) s = .next t ∧ t.mgmt.scrubErr = true ∧ t.mem = s.mem) ∧
     (∃ t, exec .scrubSetComplete s = .next t ∧ t.mgmt = { s.mgmt with scrubBusy := false } ∧ t.mem = s.mem) ∧
     (s.mgmt.l2Busy = false → s.atBoundary = true →
       ∃ t, exec (.l2ModeChange req) s = .next t ∧ t.mgmt = { s.mgmt with l2Busy := true, l2Req := req }) ∧
     (s.mgmt.l2Busy = true ∨ s.atBoundary = false →
       ∃ t, exec (.l2ModeChange req) s = .next t ∧ t.mgmt = { s.mgmt with l2Err := true }) ∧
     (s.mgmt.l2Busy = true → (∀ x ∈ s.mem.l2, x.2.bad = none ∧ (x.2.dirty = false → x.2.under = none)) →
       (s.stream expStream).fail = false →
       ∃ t, exec .l2ModeChangeComplete s = .next t ∧ t.mgmt.l2Busy = false ∧ t.mgmt.l2Cur = s.mgmt.l2Req ∧ t.mem.l2 = [] ∧
         t.agenda = s.mgmt.l2Held.map Turn.again ++ s.agenda ∧ t.mem.cells = s.mem.cells) ∧
     (s.firstEntry = some e → s.clusterEmpty cluster = true → cluster < 8 →
       let mode := (s.grid e.gid).launch.l1mode
       (mode = 1 → (s.cluster cluster).fused = true →
         ∃ t, exec (.l1ModeSwitch cluster) s = .next t ∧ (t.cluster cluster).fused = false ∧
           (t.l1At (2048 + cluster)).sectors = [] ∧ (t.l1At (2048 + cluster)).pins = []) ∧
       (mode = 2 → (s.cluster cluster).fused = false →
         ∃ t, exec (.l1ModeSwitch cluster) s = .next t ∧ (t.cluster cluster).fused = true ∧
           ∀ c, c / 256 = cluster → (t.l1At c).sectors = [] ∧ (t.l1At c).pins = [])))


/-- R372 (Table 15.11): GO of CTX_CMD by the service firmware sets BUSY, and one while BUSY only sets ERR. CREATE makes a context live with no key, no count and its counts at H zero, and drops its translations; it
is refused where the context is live or not below COUNT. DESTROY ends a live context that nothing uses, and its boost grants.
R334, R335 (Tables 14.1, 14.2): LQ_CFG takes its fields where the queue is empty and its grid is past dispatching; a doorbell makes
records up to TAIL pending, each with the next grid id. R419: before READY both are dropped. That a CREATE or DESTROY step with no
command running does the GO and the run at once, and that the two queue events are the host's writes, is the model's choice (log
entry 40); BUSY is clear at the end of either. Events: CTX_CREATE, CTX_DESTROY, LQ_CFG_WRITE, LQ_DOORBELL. -/
def Obligations.ContextAndQueueCommands : Prop :=
  ∀ (s : State) (ctx : BitVec 16) (q : Nat) (v : DWord),
    let c := ctx.toNat
    let live := fun (t : State) => tblFind t.ctxs.live
    let f := fun hi lo => v.toNat / 2 ^ lo % 2 ^ (hi + 1 - lo)
    let x := s.queue q
    let free := fun op => s.ctxs.running = none ∨ s.ctxs.running = some (op, c)
    let go := fun (t : State) => exec (.registerWrite .service .ctxCmd 0 v) s = .next t
    (v.getLsbD 0 = true → v.getLsbD 62 = false → s.ctxs.running = none → s.ctxRefused (f 3 1) (f 47 32) = false →
      ∃ t, go t ∧ t.ctxs.running = some (f 3 1, f 47 32) ∧ t.ctxs.live = s.ctxs.live ∧ t.ctxs.cmdErr = s.ctxs.cmdErr ∧
        t.mem = s.mem) ∧
    (v.getLsbD 0 = true → s.ctxs.running.isSome →
      ∃ t, go t ∧ t.ctxs.running = s.ctxs.running ∧ t.ctxs.live = s.ctxs.live ∧ t.ctxs.cmdErr = true ∧ t.mem = s.mem) ∧
    (live s c = none → c < s.ctxs.count → free 1 →
      ∃ t k, exec (.ctxCreate ctx) s = .next t ∧ live t c = some k ∧ k.keys = [] ∧ k.tls = [] ∧ k.dataLoss = 0 ∧ k.kills = 0 ∧
        k.saveN = 0 ∧ t.ctxs.running = none ∧ memRead t.mem.cells (s.descAt c + 256) 16 = List.replicate 16 0 ∧ (∀ d, d ≠ c → live t d = live s d) ∧
        (∀ n, ∀ e ∈ (t.core n).tlb, e.ctx ≠ c) ∧ ∀ n, ∀ e ∈ (t.cluster n).tlb, e.ctx ≠ c) ∧
    ((live s c).isSome ∨ s.ctxs.count ≤ c →
      ∃ t, exec (.ctxCreate ctx) s = .next t ∧ t.ctxs.cmdErr = true ∧ t.ctxs.live = s.ctxs.live ∧ t.mem = s.mem) ∧
    ((live s c).isSome → s.ctxInUse c = false → free 2 →
      ∃ t, exec (.ctxDestroy ctx) s = .next t ∧ live t c = none ∧ (∀ d, d ≠ c → live t d = live s d) ∧
        (∀ g ∈ t.power.grants, g.ctx ≠ c) ∧ t.ctxs.running = none ∧ t.ctxs.cmdErr = s.ctxs.cmdErr) ∧
    (live s c = none ∨ s.ctxInUse c = true →
      ∃ t, exec (.ctxDestroy ctx) s = .next t ∧ t.ctxs.cmdErr = true ∧ t.ctxs.live = s.ctxs.live) ∧
    (s.mgmt.ready = false → exec (.lqCfgWrite q v) s = .next s ∧ exec (.lqDoorbell q v) s = .next s) ∧
    (s.mgmt.ready = true → s.joinHost (.lqCfgWrite q v) = none → q < 64 → x.head = x.tail → (∀ g ∈ s.sched.grids, g.2.queue = q → g.2.started = true → g.2.dispatching = false) →
      ∃ t, exec (.lqCfgWrite q v) s = .next t ∧ t.queue q = { x with
        en := v.getLsbD 63, src := v.getLsbD 62, prio := f 61 59, log2 := f 58 55, ctx := f 51 36, base := f 35 0 } ∧
        ∀ p, p ≠ q → t.queue p = s.queue p) ∧
    (s.mgmt.ready = true → s.joinHost (.lqDoorbell q v) = none → q < 64 → v.getLsbD 63 = false → x.src = false → x.tail < 2 ^ 31 →
      let more := (f 30 0 + 2 ^ 31 - x.tail) % 2 ^ 31
      0 < more → more ≤ (f 30 0 + 2 ^ 31 - x.head) % 2 ^ 31 → (f 30 0 + 2 ^ 31 - x.head) % 2 ^ 31 ≤ x.slots →
      s.sched.gridCtr + more < 2 ^ 63 →
      ∃ t, exec (.lqDoorbell q v) s = .next t ∧ (t.queue q).tail = f 30 0 ∧ (t.queue q).head = x.head ∧
        (t.queue q).pend.map (·.id) = x.pend.map (·.id) ++ (List.range more).map (· + s.sched.gridCtr) ∧
        t.sched.gridCtr = s.sched.gridCtr + more)


/-! ## Scheduling (14, 04 R107) -/

/-- R342, R416: the head record of an enabled queue with no dispatching grid is taken; one that is accepted becomes a grid that has
not started, and a rejected one is reported with its queue's vector. R107, R341, R373: a grid whose dependences hold starts, with
its descriptor, and joins the waiting list; every L1, and every instruction cache, is empty then. R107, R415: a grid of which
nothing is left ends: its signal is counted, its ranks go, and its queue's vector is sent. Events: DISPATCH_TAKE_RECORD,
GRID_START, GRID_END. -/
def Obligations.GridsTakenStartedEnded : Prop :=
  (∀ (s u w : State) (q code : Nat) (p : Pend) (rest : List Pend) (bs : List Byte) (cts : Tbl (BitVec 256)),
      let x := s.queue q
      x.pend = p :: rest → x.en = true → (∀ g ∈ s.sched.grids, g.2.inQueue q = false) →
      s.hRead (.ctx x.ctx) 0 (x.slotAt x.head) 256 = (u, bs) →
      let v := u.updQueue q fun x => { x with head := (x.head + 1) % 2 ^ 31, pend := rest }
      let taken := fun (t : State) => (t.queue q).head = (x.head + 1) % 2 ^ 31 ∧ (t.queue q).pend = rest
      (v.checkRecord q p bs = (w, .ok cts) →
        ∃ t, exec (.dispatchTakeRecord q) s = .next t ∧ taken t ∧
          tblFind t.sched.grids p.id = some { Grid.absent with
            id := p.id, queue := q, ctx := (launchOf bs).ctx, launch := { launchOf bs with sigSel := p.sel }, cts := cts,
            sig := p.num }) ∧
      (v.checkRecord q p bs = (w, .error code) →
        ∃ t, exec (.dispatchTakeRecord q) s = .next t ∧ taken t ∧ (t.sched.grids.map (·.1)) = s.sched.grids.map (·.1) ∧
          (s.link.masked q = false → Out.msi q ∈ t.link.sent))) ∧
  (∀ (s : State) (gid : Nat) (g : Grid), tblFind s.sched.grids gid = some g →
      let cold := fun (t : State) => ∀ id, (t.l1At id).sectors = []
      (g.started = false → s.depHolds g.ctx g.launch.dep0Sel g.launch.dep0 = true →
        s.depHolds g.ctx g.launch.dep1Sel g.launch.dep1 = true → (s.sched.grids.filter fun c => c.2.started).length < 1024 →
        ∃ t, exec (.gridStart gid) s = .next t ∧ (t.grid gid).started = true ∧ (t.grid gid).dispatching = true ∧
          (t.grid gid).desc = descOf ((s.boundary g.ctx).readDesc g.ctx).2 ∧ (t.grid gid).startNs = s.ns ∧
          (t.grid gid).joined = s.sched.joins ∧ cold t ∧ ∀ c, (t.core c).icache = []) ∧
      (s.gridDone g = true →
        ∃ t, exec (.gridEnd gid) s = .next t ∧ tblFind t.sched.grids gid = none ∧ cold t ∧
          (∀ c, ∀ r ∈ (t.cluster c).ranks, r.grid ≠ gid) ∧
          (s.link.masked g.queue = false → Out.msi g.queue ∈ t.link.sent) ∧
          ∀ x, g.sig ≠ 0 → tblFind s.ctxs.live g.ctx = some x →
            ∃ y, tblFind t.ctxs.live g.ctx = some y ∧ tblGet Timeline.start y.tls (g.launch.sigSel - 64) =
              (tblGet Timeline.start x.tls (g.launch.sigSel - 64)).complete g.sig))

/-- R57, R157, R344: TEAM_ADMIT puts the next team of the first entry in the lowest free team slot of the core chosen for it,
with its coordinates, and every line of its reservation absent. R347: GROUP_GROW adds one group to a team with room on its
core. R348: SHRINK_REQUEST asks groups above GMIN of the core to leave, once for an entry, and SHRINK goes back to 0 at
SHRINK_WAIT. Where the rules leave a choice of core, slot or group, log entry 38 names the model's. Events: TEAM_ADMIT,
GROUP_GROW, SHRINK_REQUEST, SHRINK_WAIT_EXPIRE. -/
def Obligations.AdmissionGrowthAndShrinking : Prop :=
  (∀ (s : State) (e : Entry) (core base slot : Nat),
      let g := s.grid e.gid
      s.firstEntry = some e → e.back = false → s.mgmt.l2Busy = false → s.beforeTick = false → g.launch.share = false →
      s.placement e = some [core] → (s.core core).lineBase g.launch.scr = some base →
      lowestFree 32 (tblKeys (s.core core).teams) = some slot → (tblFind s.sched.grids e.gid).isSome →
      ∃ t, exec .teamAdmit s = .next t ∧
        (let x := t.team core slot
         x.grid = g.id ∧ x.t = g.nextT ∧ x.x = g.nextT % g.launch.gx ∧ x.y = g.nextT / g.launch.gx % g.launch.gy ∧
           x.z = g.nextT / (g.launch.gx * g.launch.gy) ∧ x.base = base ∧ x.scr = g.launch.scr) ∧
        (∀ l, base ≤ l → l < base + g.launch.scr → (t.core core).present l = false) ∧
        (t.grid e.gid).nextT = g.nextT + 1 ∧ (t.grid e.gid).liveTeams = g.liveTeams + 1) ∧
  (∀ (s : State) (core slot : Nat) (r : Role), s.sched.growEn = true → (s.core core).issued = 0 → (s.core core).grown = false →
      (s.core core).gated = false → s.someFits core = false → s.grows core = some (slot, r) →
      (∀ x ∈ (s.core core).teams, x.2.joins = []) →
      ∃ t g, exec (.groupGrow core) s = .next t ∧ (t.core core).grown = true ∧ (s.team core slot).freeIndex = some g ∧
        (tblFind (t.team core slot).groups g).isSome ∧ ((t.team core slot).role r).live = ((s.team core slot).role r).live + 1) ∧
  (∀ (s : State) (e : Entry) (n c : Nat) (d : Demand) (set : List (Nat × Nat × Nat)),
      let tag := s.entryTag e
      s.firstEntry = some e → s.entryTeams e = [(n, d)] → s.placement e = none →
      s.sched.shrunk.contains tag = false → s.leastCore ((tblKeys s.cores).filter fun c => (s.shrinkSet e d c).isSome) = some c →
      s.shrinkSet e d c = some set →
      ∃ t rs, exec .shrinkRequest s = .next t ∧ t.sched.shrunk = tag :: s.sched.shrunk ∧
        t.sched.shrinks = s.sched.shrinks ++ rs ∧
        (∀ r ∈ rs, r.entry = tag ∧ r.due = (s.ns + s.sched.shrinkWait * 100000) % 2 ^ 64) ∧
        ∀ x ∈ set, (tblFind (s.team c x.1).roles x.2.1).isSome →
          (tblGet RoleCfg.reset (t.team c x.1).roles x.2.1).shrink =
            (set.filter fun y => (y.1, y.2.1) == (x.1, x.2.1)).length) ∧
  (∀ (s : State),
      ∃ t, exec .shrinkWaitExpire s = .next t ∧ t.sched.shrinks = (s.sched.shrinks.filter fun r => !s.reached r.due) ∧
        ∀ r ∈ s.sched.shrinks, s.reached r.due = true → ∀ core slot x, tblFind (s.core core).teams slot = some x →
          x.uid = r.team → (tblFind x.roles r.role).isSome →
          (tblGet RoleCfg.reset (t.team core slot).roles r.role).shrink = 0)

/-- R349: with nothing waiting, a team whose quantum has run out starts another; with an entry waiting, it yields. R155,
R178, R367: a team chosen to make room stops issuing, and its rank is marked moving; its cohort, once all of it has drained, is
saved into its areas, and is no longer resident; without a place the whole of it stays. R357: that of a killed grid is discarded.
R368: the first entry's team comes back to the core chosen for it, at its new reservation; log entries 22 and 38 name
what the model chooses of the area and the place. R370, R391: a quiesced core without teams is gated; that the same event gates an
idle core, and powers a core again, is the model's reading (log entry 43). Events: QUANTUM_EXPIRE,
PREEMPT_TEAM, TEAM_RESTORE, CORE_QUIESCE. -/
def Obligations.PreemptionAndRestore : Prop :=
  (∀ (s : State) (core slot : Nat),
      let ms := s.mates core slot
      ms ≠ [] → (s.team core slot).stopping = false → (∀ m ∈ ms, (s.team m.1 m.2).quantum = 0) →
      (∀ m ∈ ms, (tblFind (s.core m.1).teams m.2).isSome ∧ (s.core m.1).flt.stopped = false) →
      (s.core core).quiescing = false →
      (s.entries = [] →
        ∃ t, exec (.quantumExpire core slot) s = .next t ∧
          ∀ m ∈ ms, (t.team m.1 m.2).quantum = s.sched.quantumUs * 1000 ∧ (t.team m.1 m.2).yielding = false) ∧
      (s.entries ≠ [] → s.canLeave core slot = true →
        ∃ t, exec (.quantumExpire core slot) s = .next t ∧ ∀ m ∈ ms, (t.team m.1 m.2).yielding = true)) ∧
  (∀ (s : State) (core slot : Nat) (x : Team), tblFind (s.core core).teams slot = some x →
      let ms := s.mates core slot
      let g := s.grid x.grid
      (x.stopping = false → s.chosen.contains (core, slot) = true →
        ∃ t, exec (.preemptTeam core slot) s = .next t ∧ (t.team core slot).stopping = true) ∧
      (x.stopping = true → s.unmarked core slot = true →
        ∃ t, exec (.preemptTeam core slot) s = .next t ∧ (t.core core).teams = (s.core core).teams ∧
          ∀ e ∈ (t.cluster (clusterOf core)).ranks, e.isOf x = true → e.moving = some s.ns) ∧
      (ms.Nodup → s.unmarked core slot = false → (∀ m ∈ ms, (s.team m.1 m.2).stopping = true ∧ s.unmarked m.1 m.2 = false ∧
          (s.core m.1).flt.stopped = false ∧ s.teamDrained m.1 m.2 = true) →
        (∀ as, s.areasFor s.areas ms = some as →
          ∃ t, exec (.preemptTeam core slot) s = .next t ∧ ∀ m a, (m, a) ∈ ms.zip as →
            tblFind (t.core m.1).teams m.2 = none ∧
            (g.killed = false → ∃ w ∈ t.sched.waiting, w.team.uid = (s.team m.1 m.2).uid ∧ w.area = a ∧ w.ctx = g.ctx) ∧
            (g.killed = true → ∀ w ∈ t.sched.waiting, w.team.uid ≠ (s.team m.1 m.2).uid)) ∧
        (s.areasFor s.areas ms = none → g.killed = false →
          ∃ t, exec (.preemptTeam core slot) s = .next t ∧ ∀ m ∈ ms, (t.team m.1 m.2).stopping = false ∧
            (t.team m.1 m.2).quantum = s.sched.quantumUs * 1000))) ∧
  (∀ (s : State) (e : Entry) (n core base slot : Nat) (d : Demand) (w : Waiting), s.firstEntry = some e → e.back = true →
      s.mgmt.l2Busy = false → s.beforeTick = false → s.placement e = some [core] → s.entryTeams e = [(n, d)] →
      (s.sched.waiting.find? fun w => w.joined == e.joined && w.team.t == n) = some w →
      (s.core core).lineBase w.team.scr = some base → lowestFree 32 (tblKeys (s.core core).teams) = some slot →
      ∃ t, exec .teamRestore s = .next t ∧ (t.team core slot).uid = w.team.uid ∧ (t.team core slot).base = base ∧
        (t.team core slot).stopping = false ∧ tblKeys (t.team core slot).groups = tblKeys w.team.groups ∧
        ∀ y ∈ t.sched.waiting, y.team.uid ≠ w.team.uid) ∧
  (∀ (s : State) (core : Nat), (s.core core).gated = false →
      let k := s.core core
      let rests := fun (t : State) => (t.core core).gated = true ∧ (t.core core).rest = some (k.rest.getD (s.power.h, 0))
      (∃ t, exec (.coreQuiesce ⟨core, .quiesce⟩) s = .next t ∧ (t.core core).quiescing = true ∧
        (k.teams = [] → rests t) ∧ (k.teams ≠ [] → (t.core core).gated = false)) ∧
      (k.teams = [] → ∃ t, exec (.coreQuiesce ⟨core, .idle⟩) s = .next t ∧ rests t ∧ (t.core core).quiescing = k.quiescing)) ∧
  (∀ (s : State) (core : Nat), (∀ r, (s.core core).rest = some r → r.2 = 0) →
      ∃ t, exec (.coreQuiesce ⟨core, .wake⟩) s = .next t ∧ (t.core core).gated = false ∧ (t.core core).quiescing = false ∧
        (t.core core).rest = (s.core core).rest)

/-- R352: at the end of a window the cap of groups falls by 2 where evictions reached 32 and rises by 1 where they are at most 8,
between 2 and 64; the scores halve, and a group that was held counts one window more. R2, R370, R390: a gated core that holds no team, and under which nothing is left under way, is replaced by a cold spare, which takes
its logical index, and its units are retired; that the event waits for what is under way, and that the index has the scratchpad and
the registers of a reset then, is the model's reading (log entry 43). Events: THROTTLE_WINDOW_END, CORE_RETIRE. -/
def Obligations.ThrottleWindowsAndRetirement : Prop :=
  (∀ (s : State) (core : Nat), (s.core core).window = 0 →
      let k := s.core core
      ∃ t, exec (.throttleWindowEnd core) s = .next t ∧ (t.core core).evE = 0 ∧ (t.core core).window = 1024 ∧
        (t.core core).capC = (if 32 ≤ k.evE then max 2 (k.capC - 2) else if k.evE ≤ 8 then min 64 (k.capC + 1) else k.capC) ∧
        ∀ slot g, (t.group core slot g).lls = (s.group core slot g).lls / 2 ∧ (t.group core slot g).throttled = false ∧
          (t.group core slot g).heldW = if (s.group core slot g).throttled then (s.group core slot g).heldW + 1 else 0) ∧
  (∀ (s : State) (core spare : Nat),
      let k := s.core core
      let c := core / 256
      k.quiescing = true → k.gated = true → k.teams = [] → (s.cluster c).spares.contains spare = true → k.phys < 272 →
      spare < 272 → k.phys ≠ spare →
      (k.settled = false → exec (.coreRetire core spare) s = .next s) ∧ (k.settled = true →
      ∃ t, exec (.coreRetire core spare) s = .next t ∧ t.core core = Core.reset spare ∧
        (t.cluster c).spares.contains spare = false ∧
        (∀ u ∈ [coreUnit c k.phys, engineUnit c k.phys], (t.wearAt u).st = 2 ∧ (t.wearAt u).logical = none) ∧
        ∀ u ∈ [coreUnit c spare, engineUnit c spare], (t.wearAt u).st = 0 ∧ (t.wearAt u).logical = some (core % 256)))

/-! ## Clocks, power and wear (16) -/

/-- R374 to R377 (Table 16.2): a region takes the ratio it moves to at a cycle boundary; the loss of the reference is recorded,
and its return does not clear that; a droop counts a stretch. R378, R379: at the end of a window, automatic islands enter the
near-threshold point or leave it by their stall ratio, but where a lane in wait.ns keeps them (R296); an island that settles has the state it was changing to. R381: a
throttle cause sets its bit. Events: RATIO_CHANGE, REF_LOSS, REF_RETURN, SUPPLY_DROOP, NT_WINDOW_END, ISLAND_POINT_SETTLED,
THROTTLE_CAUSE.

R380 (Table 16.4): a write of SIZE sets the pool, at most 2,048, and leaves the tokens that are out; one that lowers it sets
CAP in every cluster, the model's reading (log entry 18). R382 (Table 16.6): the energy counter of a die wraps at 2^48 and
sets WRAP. Events: PWR_TOK_SIZE_WRITE, ENERGY_WRAP. -/
def Obligations.ClocksIslandsTokensAndEnergy : Prop :=
  (∀ (s : State) (r core island : Nat) (near : Bool) (cause : ThrCause),
     let x := s.region r
     let k := s.core core
     let becomes := fun (t : State) y => t.region r = y ∧ ∀ q, q ≠ r → t.region q = s.region q
     let bitOf := fun (c : ThrCause) => match c with
       | .thermal => 0
       | .current => 1
       | .slew => 2
       | .cap => 3
       | .reliab => 4
     (x.nCur ≠ x.nTgt → (∀ c ∈ s.coresIn r, (s.core c).issued = 0) →
       ∃ t, exec (.ratioChange r) s = .next t ∧ becomes t { x with nCur := x.nTgt } ∧ t.mem = s.mem) ∧
     (∃ t, exec (.refLoss r) s = .next t ∧ becomes t { x with refLost := true } ∧
       (x.refLost = false → s.link.masked 85 = false → t.link.sent = .msi 85 :: s.link.sent)) ∧
     (∃ t, exec (.refReturn r) s = .next t ∧ t.region r = x ∧ t.ns = s.ns) ∧
     (∃ t, exec (.supplyDroop r) s = .next t ∧ becomes t { x with stretch := (x.stretch + 1) % 2 ^ 16 } ∧ t.cores = s.cores) ∧
     (s.ns % 10000 = 0 → k.ntCycles ≠ 0 → k.ntAuto = true →
       (k.ntEnter * k.ntCycles ≤ 256 * k.ntStall → s.boosted core = false →
         ∃ t, exec (.ntWindowEnd core) s = .next t ∧ (t.core core).ntCycles = 0 ∧ (t.core core).ntStall = 0 ∧
           ∀ i, i < 4 → (tblGet 0 k.ntKeep i = 0 → k.keepsIsland i = false → (t.core core).islandNear i = true) ∧
             (k.keepsIsland i = true → (t.core core).islandNear i = k.islandNear i)) ∧
       (256 * k.ntStall < min k.ntExit k.ntEnter * k.ntCycles →
         ∃ t, exec (.ntWindowEnd core) s = .next t ∧ (t.core core).ntCycles = 0 ∧ (t.core core).ntStall = 0 ∧
           ∀ i, i < 4 → (k.keepsIsland i = false → k.sleeps i = false → (t.core core).islandNear i = false) ∧
             (k.keepsIsland i = true → (t.core core).islandNear i = k.islandNear i))) ∧
     (island < 4 → tblFind k.ntSettle island = some near →
       ∃ t, exec (.islandPointSettled core island) s = .next t ∧ tblFind (t.core core).ntSettle island = none ∧
         (t.core core).ntCur.getLsbD island = near ∧
         ∀ i, i < 4 → i ≠ island → (t.core core).ntCur.getLsbD i = k.ntCur.getLsbD i) ∧
     (∃ t, exec (.throttleCause r cause) s = .next t ∧
       let c := if r < 136 then r / 17 else 0
       (t.cluster c).thr.getLsbD (bitOf cause) = true ∧ (t.region r).causes.getLsbD (bitOf cause) = true ∧
       ((s.cluster c).thr.getLsbD (bitOf cause) = false → s.link.masked 84 = false →
         t.link.sent = .msi 84 :: s.link.sent) ∧ t.power = s.power)) ∧
  (∀ (s : State) (v : DWord) (die : Nat) (units : BitVec 48),
     let e := tblGet 0 s.power.energy die
     (∃ t, exec (.pwrTokSizeWrite v) s = .next t ∧ t.power = { s.power with size := min 2048 (v.toNat % 4096) } ∧
       (min 2048 (v.toNat % 4096) < s.power.size → ∀ c, c < 8 → (t.cluster c).thr.getLsbD 3 = true)) ∧
     (∃ t, exec (.energyWrap die units) s = .next t ∧ tblGet 0 t.power.energy die = (e + units.toNat) % 2 ^ 48 ∧
       (tblGet false t.power.wrap die = true ↔ tblGet false s.power.wrap die = true ∨ 2 ^ 48 ≤ e + units.toNat) ∧
       ∀ d, d ≠ die → tblGet 0 t.power.energy d = tblGet 0 s.power.energy d ∧
         tblGet false t.power.wrap d = tblGet false s.power.wrap d))


/-- R385, R387, R393, R394: a wear tick adds its increments to the record of an active unit that does not rest, counts a service
tick, and lets a requested target take effect; a matrix engine's supply is its region's (log entry 50). R387, R388: every
second the live records go to MRAM as 96 bytes each, one unit a step in the order of the model's numbers with the summary last, the
model's reading (log entry 70), and a loss of power takes them back to there. R389: new calibration factors within their limits
wait in the record for the next tick. Events: WEAR_TICK, WEAR_COMMIT, POWER_LOSS, CALIBRATION_FACTOR_SET.

R299, R395 to R397: the next boost request in order, once its cycle is over (which is next, and when its cycle is over, are the
model's reading, log entry 64), is answered: ended, refused with a code, or granted a point, a duration and a
charge; a request of a tick instant waits for the tick, and the charge is that of log entry 36. Its pair of registers takes
DUR and 256 × POINT + CODE in every lane of the request. A grant takes its tokens, and gives them back at its end. Events:
BOOST_EVALUATE, BOOST_GRANT_EXPIRE. -/
def Obligations.WearAndBoostRecords : Prop :=
  (∀ (s : State) (u : WearSample) (unit : Nat) (cB cH cE : BitVec 16),
     (s.ns % 1000000 = 0 → s.ns ≠ s.power.tickAt → s.firstEntry = none → (∀ c, (s.core c).rest = none) →
       s.unitRests u.unit = false →
       ∃ t, exec (.wearTick [] [u]) s = .next t ∧ t.wearAt u.unit =
           (s.wearAt u.unit).calibrated.tick ⟨s.unitV [] u, u.t8, u.d, u.act, u.cur⟩ ∧
         (∀ n, n ≠ u.unit → t.wearAt n = (s.wearAt n).calibrated) ∧ t.power.h = s.power.h + 1 ∧ t.power.tickAt = s.ns ∧
         t.power.targetH = s.power.targetReq.getD s.power.targetH ∧ t.power.reserve = s.power.reserveReq.getD s.power.reserve) ∧
     (∀ n, (s.wear.commit = none ∧ n = 0 ∧ s.ns % 1000000000 = 0 ∧ s.wear.began ≠ some s.ns) ∨ s.wear.commit = some n →
       ∃ t, exec .wearCommit s = .next t ∧ t.wearAt n = (s.wearAt n).commit ∧
         tblFind t.wear.mram n = some ((s.wearAt n).commit.image n) ∧
         (∀ m, m ≠ n → t.wearAt m = s.wearAt m ∧ tblFind t.wear.mram m = tblFind s.wear.mram m) ∧
         (n + 1 < wearUnits → t.wear.commit = some (n + 1) ∧ t.wear.seq = s.wear.seq) ∧
         (wearUnits ≤ n + 1 → t.wear.commit = none ∧ t.wear.seq = s.wear.seq + 1 ∧ t.wear.summary = t.summaryNow)) ∧
     (∃ t, exec .powerLoss s = .next t ∧ t.wear.lost = true ∧ t.wear.mram = s.wear.mram ∧ t.wear.commit = none ∧
       ∀ n, tblFind t.wear.live n = (tblFind s.wear.mram n).map Wear.ofImage) ∧
     ((∀ c ∈ [cB, cH, cE], 2048 ≤ c.toNat ∧ c.toNat ≤ 8192) →
       ∃ t, exec (.calibrationFactorSet unit cB cH cE) s = .next t ∧
         t.wearAt unit = { s.wearAt unit with cal := some (cB.toNat, cH.toNat, cE.toNat) } ∧
         ∀ n, n ≠ unit → t.wearAt n = s.wearAt n)) ∧
  ((∀ (s : State) (r : BoostReq) (o : Op) (slot g : Nat), s.nextBoost = some r → s.boostReady r = true →
       tblFind (s.core r.core).ops r.op = some o → o.id = r.op → (s.core r.core).findGroup o.uid = some (slot, g) →
       let u : State := { s with power := { s.power with requests := s.power.requests.erase r } }
       let region := s.regionOf r.core
       let freed := (u.grantsOf r.ctx region).foldl (fun s g => s.endGrant g.id) u
       let replies := fun (t : State) (point dur code : Nat) => tblFind (t.core r.core).ops r.op = none ∧
         t.power.requests = s.power.requests.erase r ∧
         ∀ l, l < 32 → (tblFind (s.group r.core slot g).lanes l).isSome → o.lanes.getLsbD l = true →
           (t.group r.core slot g).lane l = Op.finishLane
             { o with values := [(l, [BitVec.ofNat 32 (point * 256 + code), BitVec.ofNat 32 dur])] } l
             ((s.group r.core slot g).lane l)
       (freed.boostAnswer region r.point r.us = .ended →
         ∃ t, exec .boostEvaluate s = .next t ∧ replies t 0 0 0 ∧ t.grantsOf r.ctx region = []) ∧
       (∀ code, freed.boostAnswer region r.point r.us = .refused code →
         ∃ t, exec .boostEvaluate s = .next t ∧ replies t 0 0 code ∧ t.power.grants = s.power.grants) ∧
       (∀ point dur charge, freed.boostAnswer region r.point r.us = .granted point dur charge →
         ∃ t x, exec .boostEvaluate s = .next t ∧ replies t point dur 0 ∧ t.power.grants = freed.power.grants ++ [x] ∧
           x.ctx = r.ctx ∧ x.region = region ∧ x.point = point ∧ x.dur = dur ∧ x.held = charge ∧ x.at_ = s.ns ∧
           t.power.tokOut = freed.power.tokOut + x.tok ∧ x.tok = (tblGet ⟨false, 0, 0, 0⟩ s.power.pts point).tok)) ∧
   (∀ (s : State) (g : Grant), (s.power.grants.find? fun x => x.id == g.id) = some g →
       s.reached ((g.at_ + g.dur * 1000) % 2 ^ 64) = true →
       ∃ t, exec (.boostGrantExpire g.id) s = .next t ∧ t.power.tokOut = s.power.tokOut - g.tok ∧
         t.power.grants = s.power.grants.filter fun x => x.id != g.id))

/-! ## The SPDM responder and full resets (17 R400 to R406, 18 R418, R419) -/

/-- R400 to R402: a request that arrives when READY is set gets its response in the mailbox and vector 86. GET_DIGESTS and
GET_CERTIFICATE report the chains in effect. A signed request is pending from its arrival; it completes with the chain that is in
effect then, and only after that may a chain staged for its slot take effect; that it completes at its second turn, each of two of
one content at its own, is the model's reading (log entry 43). R419: before READY every request gets Request Retry
Status. The bytes of a response are those of log entry 17. Events: GET_VERSION, GET_CAPABILITIES, NEGOTIATE_ALGORITHMS,
GET_DIGESTS, GET_CERTIFICATE, GET_MEASUREMENTS, CHALLENGE. -/
def Obligations.SpdmRequests : Prop :=
  ∀ (s : State) (slot index nonce : Nat) (raw : Bool), s.link.masked 86 = false →
    let reply := fun (code : Byte) (p : List Byte) =>
      { s with link := { s.link with sent := Out.msi 86 :: Out.spdm ([0x13, code] ++ p) :: s.link.sent } }
    (s.mgmt.ready = false →
      ∀ i ∈ [Instr.getVersion, .getCapabilities, .negotiateAlgorithms, .getDigests, .getCertificate slot, .challenge slot nonce,
          .getMeasurements index raw none, .getMeasurements index raw (some slot)],
        exec i s = .next (s.send .retry)) ∧
    (s.mgmt.ready = true →
      exec .getVersion s = .next (reply 0x04 [0x00, 0x13]) ∧
      exec .getCapabilities s = .next (reply 0x61 []) ∧
      exec .negotiateAlgorithms s = .next (reply 0x63 [0x80, 0, 0, 0, 2, 0, 0, 0, 2, 0]) ∧
      exec .getDigests s = .next (reply 0x01 ((List.range 8).flatMap fun i => ((s.chain i).map sha384).getD [])) ∧
      exec (.getCertificate slot) s = .next (match s.chain slot with | some c => reply 0x02 c | none => reply 0x7F []) ∧
      (1 ≤ index → index ≤ 6 →
        exec (.getMeasurements index raw none) s = .next (reply 0x60
          (BitVec.ofNat 8 index :: if raw then s.measurement index else sha384 (s.measurement index)))) ∧
      (¬(1 ≤ index ∧ index ≤ 6) → ∀ signed, exec (.getMeasurements index raw signed) s = .next (reply 0x7F [])) ∧
      ∀ c ∈ [(Instr.challenge slot nonce, SpdmReq.challenge slot nonce, (0x03 : Byte), natLe nonce 32),
          (.getMeasurements index raw (some slot), .measurements index raw slot, 0x60, s.measured index raw)],
        1 ≤ index → index ≤ 6 →
        (s.chain slot = none → exec c.1 s = .next (reply 0x7F [])) ∧
        ∀ chain, s.chain slot = some chain →
          (s.trust.pending.count c.2.1 ≤ s.agenda.count (.again c.1) →
            exec c.1 s = .next { s with trust := { s.trust with pending := s.trust.pending ++ [c.2.1] },
                                        agenda := s.agenda ++ [.again c.1] }) ∧
          (s.agenda.count (.again c.1) < s.trust.pending.count c.2.1 →
            let body := sha384 chain ++ Config.nonce s.stamp ++ c.2.2.2
            let left := s.trust.pending.erase c.2.1
            ∃ t, exec c.1 s = .next t ∧ t.link = (reply c.2.2.1 (body ++ Config.signature (s.dice true) slot body)).link ∧
              t.trust.pending = left ∧ t.mem = s.mem ∧ t.cores = s.cores ∧ t.agenda = s.agenda ∧
              ((∃ r ∈ left, r.slot = slot) → t.trust.chains = s.trust.chains ∧ t.trust.staged = s.trust.staged) ∧
              ((∀ r ∈ left, r.slot ≠ slot) → ∀ new, slot ≠ 0 → tblFind s.trust.staged slot = some new →
                t.chain slot = some new ∧ tblFind t.trust.staged slot = none)))

/-- R400: a session begins with KEY_EXCHANGE, is open once FINISH has closed its handshake, and ends with END_SESSION. R400, R402:
slots 1 to 7 are written with SET_CERTIFICATE in a session alone; while a request that names the slot is pending the chain is
staged, and the chain in effect stays. R404, R405: weight keys and shared ranges are written at a request in a session alone.
The bytes of a response are those of log entry 17. Events: KEY_EXCHANGE, FINISH, END_SESSION, SET_CERTIFICATE, WEIGHT_KEY_INSTALL,
SHARED_RANGE_WRITE. -/
def Obligations.SecureSessions : Prop :=
  ∀ (s : State) (slot session : Nat) (chain : List Byte) (ctx : BitVec 16) (ks : BitVec 4) (key : KeyMaterial) (k : Ctx)
      (i : Nat) (v : DWord), s.mgmt.ready = true → s.link.masked 86 = false →
    let sent := fun (code : Byte) (p : List Byte) => Out.msi 86 :: Out.spdm ([0x13, code] ++ p) :: s.link.sent
    (∃ t, exec (.keyExchange session) s = .next t ∧ t.link.sent = sent 0x64 (Config.nonce s.stamp) ∧
      (session, false) ∈ t.trust.sessions ∧ t.inSession session = false ∧ t.mem = s.mem ∧ t.cores = s.cores) ∧
    ((session, false) ∈ s.trust.sessions →
      ∃ t, exec (.finish session) s = .next t ∧ t.link.sent = sent 0x65 [] ∧ t.inSession session = true ∧ t.mem = s.mem ∧
        t.cores = s.cores) ∧
    ((session, false) ∉ s.trust.sessions →
      ∃ t, exec (.finish session) s = .next t ∧ t.link.sent = sent 0x7F [] ∧ t.trust = s.trust) ∧
    (s.inSession session = true →
      (∃ t, exec (.endSession session) s = .next t ∧ t.link.sent = sent 0x6C [] ∧ t.inSession session = false ∧ t.mem = s.mem) ∧
      (1 ≤ slot → slot ≤ 7 →
        ∃ t, exec (.setCertificate slot chain session) s = .next t ∧ t.link.sent = sent 0x6E [] ∧ t.mem = s.mem ∧
          ((∃ r ∈ s.trust.pending, r.slot = slot) →
            t.chain slot = s.chain slot ∧ tblFind t.trust.staged slot = some chain) ∧
          ((∀ r ∈ s.trust.pending, r.slot ≠ slot) → t.chain slot = some chain)) ∧
      (tblFind s.ctxs.live ctx.toNat = some k →
        (∃ t k', exec (.weightKeyInstall ctx ks (some key) session) s = .next t ∧ tblFind t.ctxs.live ctx.toNat = some k' ∧
          tblFind k'.keys ks.toNat = some ⟨key.keyId, key.key, key.digest⟩ ∧ t.cores = s.cores) ∧
        ∃ t k', exec (.weightKeyInstall ctx ks none session) s = .next t ∧ tblFind t.ctxs.live ctx.toNat = some k' ∧
          tblFind k'.keys ks.toNat = none ∧ t.cores = s.cores) ∧
      (i < 8 →
        ∃ t, exec (.sharedRangeWrite i v session) s = .next t ∧ tblFind t.trust.shr i = some (v.toNat % 2 ^ 36, v.toNat / 2 ^ 36) ∧
          ∀ j, j ≠ i → tblFind t.trust.shr j = tblFind s.trust.shr j)) ∧
    (s.inSession session = false →
      (∃ t, exec (.setCertificate slot chain session) s = .next t ∧ t.link.sent = sent 0x7F [] ∧ t.trust = s.trust) ∧
      (∀ o, exec (.weightKeyInstall ctx ks o session) s = .next s) ∧ exec (.sharedRangeWrite i v session) s = .next s)

/-- R418, R403, R48: a full reset, by its own event or by bit 0 of DEV_CTL, discards every grid, team and outstanding request;
the scrub-pending bits are set, so device memory reads zero, and every core, L1 and L2 is as at reset, but for a rest that a
core has begun (log entry 50); MODE takes REQ, shared ranges and sessions are gone, the tier keys are destroyed, and new ones
are drawn when MODE is 1; the components are measured again (R399); certificate chains, the seal sequence and host memory stay (log entry 3). R419: READY is then clear until the service firmware sets it. A
write of DEV_CTL without bit 0 does nothing. Events: FULL_RESET, DEV_CTL_RESET, BRINGUP_READY. -/
def Obligations.FullResets : Prop :=
  (∀ (s : State) (cause : ResetCause) (v : DWord), v.getLsbD 0 = true →
    ∀ i ∈ [Instr.fullReset cause, .devCtlReset v], ∃ t, exec i s = .next t ∧
      t.sched = State.reset.sched ∧ t.fabric.reqs = [] ∧ t.fabric.recs = [] ∧ t.ctxs.live = [] ∧
      t.mem.cells = [] ∧ t.mem.swept = [] ∧ t.mem.l2 = [] ∧ t.l1 = [] ∧ t.mem.host = s.mem.host ∧ t.mem.peers = s.mem.peers ∧
      (∀ c k, tblFind s.cores c = some k → tblFind t.cores c = some { Core.reset k.phys with rest := k.rest }) ∧
      t.trust.mode = s.trust.req ∧ t.trust.req = s.trust.req ∧ t.trust.shr = [] ∧ t.trust.sessions = [] ∧ t.trust.ide = [] ∧
      t.trust.tierKeys = (if s.trust.req then some (s.trust.drawn + 1) else none) ∧ s.trust.drawn ≤ t.trust.drawn ∧
      t.trust.measured = s.trust.images ∧ (∀ j, Turn.again j ∉ t.agenda) ∧ t.trust.sealSeq = s.trust.sealSeq ∧
      (∀ n c, tblFind s.trust.staged n = none → tblFind s.trust.chains n = some c → tblFind t.trust.chains n = some c) ∧
      t.mgmt.ready = false ∧ t.link.sent = s.link.sent) ∧
  (∀ (s : State) (v : DWord), v.getLsbD 0 = false → exec (.devCtlReset v) s = .next s) ∧
  ∀ s : State, exec .bringupReady s = .next { s with mgmt := { s.mgmt with ready := true } }

/-! ## The step, reset, memory and the encoding (07 R163, R200, 09 R209 to R225, 00 R3, 02 R48, 18 R418) -/

/-- R200, R209, R214, R218: what a step runs. An event at the head of the agenda, or the model's default turn where the agenda is
empty (log entry 2), runs as exec of it. An issue turn selects lanes, fetches the line of their position and runs exec of the
instruction that the line's parcels decode to from the position's slot on; a fetch that faults, with the line's byte address as
FLT_ADDR (the model's reading, log entry 72), an entry that fails its check and an unassigned encoding run the event of that fault; a prefix that is accepted is followed by what stands after it. Around exec the
step adds the end of the issue and what the turn has released; a turn that would end a sweep before its time waits for it (R46). -/
def Obligations.StepRunsTheDecodedInstruction : Prop :=
  ∀ (s s0 : State) (turn : Turn) (rest : List Turn),
    (s.agenda = turn :: rest ∧ s0 = { s with agenda := rest }) ∨ (s.agenda = [] ∧ turn = s.defaultTurn ∧ s0 = s) →
    let ends := fun (o : Result) => match o with
      | .next t => Host.Outcome.next (s0.endTurn turn t)
      | r => r
    (∀ i, turn = .event i ∨ turn = .again i → step s = ends (exec i s0)) ∧
    ∀ core, turn = .issue core →
      (s0.startIssue core = none → step s = ends (.next s0)) ∧
      ∀ u w r, s0.startIssue core = some u →
        u.fetchLine u.issue.core u.issTeam.grid (lineOf u.issue.p) = (w, r) →
        (∀ code aux, r = .error (code, aux) → step s = ends (exec (.instructionFetchFault (BitVec.ofNat 8 code)
          (BitVec.ofNat 64 (64 * lineOf w.issue.p)) (BitVec.ofNat 64 aux)) w)) ∧
        ∀ ws, r = .ok ws →
          (w.entryFault ws = true →
            step s = ends (exec (.instructionFetchFault 6 0 (BitVec.ofNat 64 w.issue.p.toNat)) w)) ∧
          (w.entryFault ws = false →
            let line := (ws.take 15).drop (slotOf w.issue.p)
            let x := State.updIssGroup { w with issue := { w.issue with line := line } } fun g => { g with entryCheck := false }
            let at_ := fun (y : State) (n : Nat) => { y with issue := { y.issue with len := n } }
            (∀ i n, decode line = .ok (i, n) → isPrefix i = false → step s = ends (exec i (at_ x n))) ∧
            (∀ e, decode line = .error e → step s = ends (exec (.unassignedEncoding (line.headD 0)) x)) ∧
            ∀ i n t, decode line = .ok (i, n) → isPrefix i = true → exec i (at_ x n) = .next t →
              (t.issue.p = x.issue.p → step s = ends (.next t)) ∧
              ∀ j m, t.issue.p ≠ x.issue.p → decode t.issue.line = .ok (j, m) → isPrefix j = false →
                step s = ends (exec j (at_ t m)))

/-- R383: a read of ENERGY_LO gives bits 31:0 and latches bits 47:32 for its reader; that reader's next read of ENERGY_HI gives
the latched bits, with WRAP in bit 31 (Table 16.6), and releases the latch; with no latch it gives the live bits. The latches of
other readers, and of other dies, stay. R419: before READY the host reads zero and latches nothing. Events: ENERGY_LO_READ, ENERGY_HI_READ. -/
def Obligations.EnergyReadsLatch : Prop :=
  ∀ (s : State) (die : Nat) (r : Reader),
    (s.early r = true → exec (.energyLoRead die r) s = .next (s.send (.reg 0)) ∧
      exec (.energyHiRead die r) s = .next (s.send (.reg 0))) ∧
    (s.early r = false →
    let e := tblGet 0 s.power.energy die
    let wrap := if tblGet false s.power.wrap die then 2 ^ 31 else 0
    let sends := fun (t : State) (v : Nat) => t.link.sent = .reg (BitVec.ofNat 64 v) :: s.link.sent ∧
      t.power.energy = s.power.energy ∧ t.mem = s.mem ∧
      ∀ d q, (d ≠ die ∨ q ≠ r) → t.power.latch d q = s.power.latch d q
    (∃ t, exec (.energyLoRead die r) s = .next t ∧ sends t (e % 2 ^ 32) ∧ t.power.latch die r = some (e / 2 ^ 32)) ∧
    (∀ v, s.power.latch die r = some v →
      ∃ t, exec (.energyHiRead die r) s = .next t ∧ sends t (wrap + v) ∧ t.power.latch die r = none) ∧
    (s.power.latch die r = none →
      ∃ t, exec (.energyHiRead die r) s = .next t ∧ sends t (wrap + e / 2 ^ 32) ∧ t.power.latch die r = none))

/-- R237 (Table 10.3): div and rem advance every issuing lane whatever the operands. A zero divisor gives the code with every bit
set and the dividend; the least signed number divided by minus one gives itself and 0; every other case is truncating division,
and a remainder has the sign of the dividend. Instructions: div, rem. -/
def Obligations.DivisionCornersAndTruncation : Prop :=
  ∀ (s : State) (f : VBin), s.Issuing → s.regsOk (wRegs f.t.w) f.h.dst.toNat = true →
    s.srcOk (wRegs f.t.w) f.a = true → s.srcOk (wRegs f.t.w) f.b = true →
    let W := ITy.bits f.t
    let val := fun x => valOf W f.t.u x
    ∃ (t u : State) (q r : Nat → Nat), exec (.div f) s = .next t ∧ (s.Performs t f.h.flag fun l x => x.putW f.t.w f.h.dst (q l)) ∧
      exec (.rem f) s = .next u ∧ (s.Performs u f.h.flag fun l x => x.putW f.t.w f.h.dst (r l)) ∧
      ∀ l, let a := s.srcW f.t.w 0 l f.a
        let b := s.srcW f.t.w 1 l f.b
        q l < 2 ^ W ∧ r l < 2 ^ W ∧
        (b = 0 → val (q l) = (if f.t.u then 2 ^ W - 1 else -1) ∧ r l = a) ∧
        (f.t.u = false → val a = -2 ^ (W - 1) → val b = -1 → val (q l) = -2 ^ (W - 1) ∧ r l = 0) ∧
        (b ≠ 0 → ¬(f.t.u = false ∧ val a = -2 ^ (W - 1) ∧ val b = -1) →
          val (q l) = (val a).tdiv (val b) ∧ val (r l) = (val a).tmod (val b)) ∧
        (0 ≤ val a → 0 ≤ val (r l)) ∧ (val a ≤ 0 → val (r l) ≤ 0)

/-- What reset leaves: every page's scrub-pending bit is set, so device memory reads zero (R48); no context is live (R372) and
no queue is enabled; the grid counter is 1 (R337); MODE, REQ and READY are 0; and the registers hold the reset column of their
tables (6.6, 14.6, 16.2 to 16.4, 16.8, 16.11, 16.12, 17.4). A_TOTAL is a fuse, for which the model takes 0, and what the tables do
not give of the cores at reset is the model's too (log entry 3). The invariants of the machine hold there. -/
def Obligations.ResetLeavesTheTablesValues : Prop :=
  let s := State.reset
  s.MemWf ∧ s.Between ∧ s.mem.swept = [] ∧ (∀ a, memGet s.mem.cells a = 0) ∧ s.ctxs.live = [] ∧ s.sched.grids = [] ∧
  (∀ q, (s.queue q).en = false) ∧ s.sched.gridCtr = 1 ∧ s.trust.mode = false ∧ s.trust.req = false ∧ s.mgmt.ready = false ∧
  s.regWord .fabCtl 0 = 0x3FF * 2 ^ 32 + 200 ∧
  s.regWord .schedCtl 0 = 2 ^ 48 + 2000 * 2 ^ 32 + 10 * 2 ^ 24 + 8 ∧
  (∀ r, s.regWord .clkStat r = 750 * 2 ^ 32 + 44 * 256 + 44) ∧
  (∀ c, s.regWord .ntCtl c = 0xC0 * 2 ^ 24 + 0x80 * 2 ^ 16 + 2 ^ 4) ∧
  s.regWord .pwrTok 0 = 2048 * 2 ^ 32 + 2048 ∧
  s.regWord .duskCtl 0 = 2 ^ 63 + 2 ^ 40 + 40 * 2 ^ 32 + 0x100000 ∧
  s.regWord .lifeCfg 0 = 2 ^ 63 + 61320 ∧ s.regWord .lifeRsv 0 = 0x100000 ∧
  s.regWord .boostPt 1 = 2 ^ 63 + 800 * 2 ^ 32 + 52 * 2 ^ 16 + 32 ∧
  s.regWord .boostPt 2 = 2 ^ 63 + 850 * 2 ^ 32 + 60 * 2 ^ 16 + 64 ∧ s.regWord .confCtl 0 = 0 ∧
  ∀ c, s.core c = Core.reset (c % 256)

/-- Words that the spec writes out, most of them the worked examples of chapters 9 to 13 and 22, decode to their instructions
(R205 to R216, Table 9.3, Table 9.8): one or more of each format, and words that R205, R207, R212, R216 and R218 refuse. -/
def Obligations.WrittenWordsDecode : Prop :=
  (∀ c ∈ [([0x00000004#32], Instr.nop), ([0x0000001C#32], .exit), ([0x00000018#32], .ret),
      ([0xFFFB4408#32], .bra ⟨1, false⟩ (BitVec.ofInt 18 (-19))),
      ([0x7F000003#32], .pxLit 0x7F00000), ([0x00000217#32], .pxScope .acq .dev),
      ([0x000002D1#32, 0x00000008#32], .twset 8), ([0x00008720#32], .fence .acq .dev), ([0x0000B320#32], .fence .sc .sys),
      ([0x0000032C#32], .cpySeal), ([0x00000394#32], .detach), ([0x000003E4#32], .rtrap), ([0x000003F0#32], .ntHintEnter),
      ([0x000007F0#32], .ntHintLeave), ([0x00200D01#32, 0x00000005#32], .addi ⟨3, ⟨false, false⟩, false, .reg 2, 5⟩),
      ([0xF0800541#32, 0x00002005#32], .icmp ⟨none, 0, 1⟩ .lt ⟨false, false⟩ .none ⟨0, false⟩ (.reg 5) (.reg 4)),
      ([0x01019D4D#32, 0x00002005#32], .sel ⟨0, ⟨1, false⟩, 6, ⟨7, false⟩, false, .reg 5, .reg 4⟩),
      ([0xF000220E#32, 0x00001001#32, 0x00000003#32], .fma ⟨⟨none, 0, 8⟩, .f32, .rn, .reg 1, .reg 2, .reg 3⟩),
      ([0xF0B00AC1#32, 0x00200801#32], .shfl ⟨none, 0, 2⟩ .xor false 1 (.reg 1) (.lit .one)),
      ([0x00105F01#32, 0x02801000#32], .ld ⟨.reg 0, .dev, some 1, ⟨7, false⟩, 0, .g, .n32, 2, .reg 0⟩),
      ([0x0073DF05#32, 0x0A800000#32], .st ⟨.reg 3, .dev, none, ⟨7, false⟩, 1, .g, .n32, 0, .reg 0⟩),
      ([0x01509F12#32, 0x00003004#32, 0x00001000#32],
        .faa ⟨10, .dev, some 2, ⟨7, false⟩, .reg 6, .reg 4, 0, 2, .reg 0⟩ .i32),
      ([0x004003C2#32, 0x0F000040#32, 0#32], .mma ⟨some 4, .e2m1, .e2m1, false, 3, true, true, 0, .reg 64, 0, 0⟩),
      ([0xF01003ED#32, 0x00000008#32], .waitNs ⟨none, 0, 0⟩ (.reg 8))],
    decode c.1 = .ok (c.2, c.1.length)) ∧
  ∀ c ∈ [([0x00000404#32], DecodeError.reservedBits), ([0x00000028#32], .unassignedMajor), ([0x00000005#32], .unassignedMajor),
      ([0x00200D01#32], .pastLineEnd), ([0xC0800541#32, 0x00002005#32], .badFlag), ([0x0000C720#32], .badScope),
      ([0x0000000F#32], .prefixKind)],
    decode c.1 = .error c.2

/-- R205 to R217: for every well-formed instruction that a program can encode, the decoder reads the encoder's parcels, whatever
follows them in the line, as that instruction and its length: no operand, flag, guard or immediate bit is dropped. -/
def Obligations.DecodeOfEncode : Prop :=
  ∀ (i : Instr) (tail : List Word), i.wf = true → i.toRaw.isSome → decode (encode i ++ tail) = .ok (i, (encode i).length)

/-- R207, R218: what the decoder accepts is well formed, and it is the encoder's word: every other word is refused, a reserved bit
or an unused field that is set among them, and no two words give one instruction. -/
def Obligations.EncodeOfDecode : Prop :=
  ∀ (ps : List Word) (i : Instr) (n : Nat), decode ps = .ok (i, n) → i.wf = true ∧ encode i = ps.take n ∧ n ≤ ps.length

/-- 00 R3, 02 R45 and 07 R163 as the model keeps them: a step keeps every memory of the machine, device memory, host memory, peer
windows, scratchpads and stationary buffers, in canonical form, so that equal memories are equal data; and it leaves no
instruction half done. From every state in which they hold, however it was reached. -/
def Obligations.StepKeepsTheInvariants : Prop :=
  ∀ s t : State, s.MemWf → s.Between → step s = .next t → t.MemWf ∧ t.Between
end

