-- ==== Sys2Proof/Laws/Decode.lean ====
section
/-! SUPPORT. Fields of packed parcels, the code tables read back, and what the decoder makes of raw fields that the encoder
packed (09 R205 to R218). -/

namespace Sys2Proof

/-- A field of the upper part of an append. -/
theorem fld_high {n m l k : Nat} (a : BitVec n) (b : BitVec m) (h : m ≤ l) : fld (a ++ b) l k = fld a (l - m) k := by
  unfold fld; ext i hi
  simp [BitVec.getLsbD_append, show ¬ (l + i < m) by omega]
  congr 1; omega
/-- A field of the lower part of an append. -/
theorem fld_low {n m l k : Nat} (a : BitVec n) (b : BitVec m) (h : l + k ≤ m) : fld (a ++ b) l k = fld b l k := by
  unfold fld; ext i hi
  simp [BitVec.getLsbD_append, show (l + i < m) by omega]
theorem fld_all {n : Nat} (a : BitVec n) : fld a 0 n = a := by
  unfold fld; ext i hi; simp

theorem formatOfParcel_of {p : Word} {f : Format} (hc : (fld p 0 2).toNat = f.cls) (hf : formatOf (fld p 2 8).toNat = some f) :
    formatOfParcel p = .ok f := by
  unfold formatOfParcel
  split
  · rename_i h; rw [h] at hc; cases f <;> simp [Format.cls] at hc; rfl
  · simp [hf, hc]

theorem decode_of {p : Word} {rest : List Word} {f : Format} (hf : formatOfParcel p = .ok f)
    (hl : clsParcels f.cls ≤ rest.length + 1) :
    decode (p :: rest) = (Raw.unpack f p (rest.getD 0 0) (rest.getD 1 0)).toInstr.map fun i => (i, clsParcels f.cls) := by
  unfold decode
  simp [hf, Except.bind, Nat.not_lt.mpr hl]

/-- The format of raw fields. -/
def Raw.fmt : Raw → Format
  | .z .. => .z | .b .. => .b | .u .. => .u | .v .. => .v | .i .. => .i | .s .. => .s | .m _ _ _ _ _ _ _ _ _ _ => .m | .t .. => .t
  | .a .. => .a | .x .. => .x | .p .. => .p

/-- The major of raw fields; a prefix has none. -/
def Raw.mj : Raw → BitVec 8
  | .z _ q => q | .b _ _ q => q | .u _ _ _ q => q | .v _ _ _ _ q .. => q | .i _ _ _ q .. => q | .s _ _ _ _ _ q .. => q
  | .m _ _ _ _ q _ _ _ _ _ => q | .t _ _ _ _ q .. => q | .a _ _ _ _ _ q .. => q | .x _ _ _ q .. => q | .p .. => 0

/-- Raw fields whose major belongs to their format come back from their parcels, whatever follows them. -/
theorem decode_pack (r : Raw) (h : r.fmt ≠ .p → formatOf r.mj.toNat = some r.fmt) (tail : List Word) :
    decode (r.pack ++ tail) = r.toInstr.map fun i => (i, r.pack.length) := by
  cases r 
  case p pl k =>
    simp only [Raw.pack, List.cons_append, List.nil_append]
    rw [decode_of (f := .p) (by simp (disch := decide) only [formatOfParcel, fld_low, fld_all]; rfl) (by simp [Format.cls, clsParcels])]
    simp (disch := decide) only [Raw.unpack, fld_high, fld_low, fld_all, Nat.reduceSub]
    rfl
  all_goals
    simp only [Raw.fmt, Raw.mj, ne_eq, reduceCtorEq, not_false_eq_true, true_imp_iff] at h
    simp only [Raw.pack, List.cons_append, List.nil_append]
    refine (decode_of (formatOfParcel_of (hf := by
      simp (disch := decide) only [fld_high, fld_low, fld_all, Nat.reduceSub]; exact h) ?_) ?_).trans ?_
    · simp (disch := decide) only [fld_low, fld_all]; rfl
    · simp [Format.cls, clsParcels]
    simp (disch := decide) only [Raw.unpack, fld_high, fld_low, fld_all, Nat.reduceSub, List.getD_cons_zero, List.getD_cons_succ]
    rfl

theorem Src.ofCode_code (s : Src) (h : s.wf = true) : Src.ofCode s.code = s := by
  cases s with
  | reg r => 
    have := r.isLt
    simp [Src.code, Src.ofCode]
    omega
  | lit k => cases k <;> rfl
  | special k => cases k <;> rfl
  | bad c => 
    simp [Src.wf] at h
    show Src.ofCode c = .bad c
    unfold Src.ofCode
    rw [if_neg (by omega), if_neg (by omega), if_neg (by omega)]
theorem flagOf_flagCode (f : FlagSel) : flagOf (flagCode f) = .ok f := by
  rcases f with _ | ⟨k, hk⟩
  · rfl
  · interval_cases k <;> rfl
theorem Pred.ofCode_code (p : Pred) : Pred.ofCode p.code = p := by
  rcases p with ⟨i, n⟩
  revert i n; decide
theorem Scope.ofCode_code (x : Scope) : Scope.ofCode (BitVec.ofNat 3 x.code).toNat = some x := by cases x <;> rfl
theorem MemOrd.ofCode_code (x : MemOrd) : MemOrd.ofCode (BitVec.ofNat 3 x.code).toNat = some x := by cases x <;> rfl
theorem Cond.ofCode_code (x : Cond) : Cond.ofCode (BitVec.ofNat 4 x.code).toNat = some x := by cases x <;> rfl
theorem Comb.ofCode_code (x : Comb) : Comb.ofCode (BitVec.ofNat 2 x.code).toNat = some x := by cases x <;> rfl
theorem GOp.ofCode_code (x : GOp) : GOp.ofCode (BitVec.ofNat 2 x.code).toNat = some x := by cases x <;> rfl
theorem Rnd.ofCode_code (x : Rnd) : Rnd.ofCode (BitVec.ofNat 2 x.code).toNat = some x := by cases x <;> rfl
theorem FTy.ofCode_code (x : FTy) : FTy.ofCode (BitVec.ofNat 2 x.code).toNat = some x := by cases x <;> rfl
theorem CTy.ofCode_code (x : CTy) : CTy.ofCode (BitVec.ofNat 5 x.code).toNat = some x := by cases x <;> rfl
theorem RqTy.ofCode_code (x : RqTy) : RqTy.ofCode (BitVec.ofNat 2 x.code).toNat = some x := by cases x <;> rfl
theorem MemTy.ofCode_code (x : MemTy) : MemTy.ofCode (BitVec.ofNat 4 x.code).toNat = some x := by cases x <;> rfl
theorem Space.ofCode_code (x : Space) : Space.ofCode (BitVec.ofNat 2 x.code).toNat = some x := by cases x <;> rfl
theorem AtTy.ofCode_code (x : AtTy) : AtTy.ofCode (BitVec.ofNat 2 x.code).toNat = some x := by cases x <;> rfl
theorem AtomTy.ofCode_code (x : AtomTy) : AtomTy.ofCode (BitVec.ofNat 3 x.code).toNat = some x := by cases x <;> rfl
theorem AtomOp.ofCode_code (x : AtomOp) : AtomOp.ofCode (BitVec.ofNat 4 x.code).toNat = some x := by cases x <;> rfl
theorem ShflMode.ofCode_code (x : ShflMode) : ShflMode.ofCode (BitVec.ofNat 2 x.code).toNat = some x := by cases x <;> rfl
theorem VoteMode.ofCode_code (x : VoteMode) : VoteMode.ofCode (BitVec.ofNat 2 x.code).toNat = some x := by cases x <;> rfl
theorem RedOp.ofCode_code (x : RedOp) : RedOp.ofCode (BitVec.ofNat 3 x.code).toNat = some x := by cases x <;> rfl
theorem RedTy.ofCode_code (x : RedTy) : RedTy.ofCode (BitVec.ofNat 3 x.code).toNat = some x := by cases x <;> rfl
theorem BarMode.ofCode_code (x : BarMode) : BarMode.ofCode (BitVec.ofNat 2 x.code).toNat = some x := by cases x <;> rfl
theorem Role.ofCode_code (x : Role) : Role.ofCode (BitVec.ofNat 2 x.code).toNat = some x := by cases x <;> rfl
theorem MxFmt.ofCode_code (x : MxFmt) : MxFmt.ofCode (BitVec.ofNat 4 x.code).toNat = some x := by cases x <;> rfl
theorem AccOp.ofCode_code (x : AccOp) : AccOp.ofCode (BitVec.ofNat 2 x.code).toNat = some x := by cases x <;> rfl

theorem scopeOf_code (x : Scope) : scopeOf (BitVec.ofNat 3 x.code) = .ok x := by cases x <;> rfl
theorem getLsbD_high {n m l : Nat} (a : BitVec n) (b : BitVec m) (h : m ≤ l) : (a ++ b).getLsbD l = a.getLsbD (l - m) := by
  simp [BitVec.getLsbD_append, show ¬ (l < m) by omega]
theorem getLsbD_low {n m l : Nat} (a : BitVec n) (b : BitVec m) (h : l < m) : (a ++ b).getLsbD l = b.getLsbD l := by
  simp [BitVec.getLsbD_append, h]
theorem fld_zero {n l k : Nat} : fld (0 : BitVec n) l k = 0 := by unfold fld; simp
theorem fld_zero' {n l k : Nat} : fld (0#n) l k = 0 := by unfold fld; simp

theorem Src.unused_eq {a : Src} (h : a.unused = true) : a = .reg 0 := by simpa [Src.unused] using h
theorem ofBool_bit (b : Bool) : (BitVec.ofBool b).getLsbD 0 = b := by cases b <;> rfl
theorem wf_unused {a : Src} (h : a.unused = true) : a.wf = true := by rw [Src.unused_eq h]; rfl
theorem code_unused {a : Src} (h : a.unused = true) : a.code = 0 := by rw [Src.unused_eq h]; rfl
theorem checkWf_of_wf {i : Instr} (h : i.wf = true) : checkWf i = .ok i := by simp [checkWf, h]
/-- What passes checkWf is well formed. -/
theorem wf_of_checkWf {i j : Instr} (h : checkWf i = .ok j) : j = i ∧ i.wf = true := by
  unfold checkWf at h; split at h <;> simp_all

end Sys2Proof
end

