-- ==== Sys2Proof/Laws/Tbl.lean ====
section
/-! SUPPORT. Reading a table after a write: of the same number, and of another. -/

namespace Sys2Proof.Machine

variable {β : Type}

@[simp] theorem tblFind_tblSet_same (t : Tbl β) (n : Nat) (v : β) : tblFind (tblSet t n v) n = some v := by
  induction t with
  | nil => simp [tblSet, tblFind]
  | cons c t ih =>
    obtain ⟨k, w⟩ := c
    simp only [tblSet]
    split
    · simp [tblFind]
    · split
      · simp [tblFind]
      · rename_i h; simp [tblFind, h, ih]

theorem tblFind_tblSet_ne (t : Tbl β) {n m : Nat} (v : β) (h : m ≠ n) : tblFind (tblSet t n v) m = tblFind t m := by
  induction t with
  | nil => simp [tblSet, tblFind, h]
  | cons c t ih =>
    obtain ⟨k, w⟩ := c
    simp only [tblSet]
    split
    · simp [tblFind, h]
    · split
      · rename_i e; subst e; simp [tblFind, h]
      · simp only [tblFind, ih]

theorem tblGet_eq_find (d : β) (t : Tbl β) (n : Nat) : tblGet d t n = (tblFind t n).getD d := by
  induction t with
  | nil => rfl
  | cons c t ih => obtain ⟨k, w⟩ := c; simp only [tblGet, tblFind, ih]; split <;> rfl

@[simp] theorem tblGet_tblSet_same (d : β) (t : Tbl β) (n : Nat) (v : β) : tblGet d (tblSet t n v) n = v := by
  simp [tblGet_eq_find]

theorem tblGet_tblSet_ne (d : β) (t : Tbl β) {n m : Nat} (v : β) (h : m ≠ n) :
    tblGet d (tblSet t n v) m = tblGet d t m := by simp [tblGet_eq_find, tblFind_tblSet_ne t v h]

theorem tblGet_tblSet (d : β) (t : Tbl β) (n m : Nat) (v : β) :
    tblGet d (tblSet t n v) m = if m = n then v else tblGet d t m := by
  split
  · subst m; simp
  · rename_i h; exact tblGet_tblSet_ne d t v h

theorem tblGet_of_find {d : β} {t : Tbl β} {n : Nat} {v : β} (h : tblFind t n = some v) : tblGet d t n = v := by
  simp [tblGet_eq_find, h]

@[simp] theorem tblFind_tblDel_same (t : Tbl β) (n : Nat) : tblFind (tblDel t n) n = none := by
  induction t with
  | nil => rfl
  | cons c t ih =>
    obtain ⟨k, w⟩ := c
    simp only [tblDel]
    split
    · exact ih
    · rename_i h; simp [tblFind, h, ih]

theorem tblFind_tblDel_ne (t : Tbl β) {n m : Nat} (h : m ≠ n) : tblFind (tblDel t n) m = tblFind t m := by
  induction t with
  | nil => rfl
  | cons c t ih =>
    obtain ⟨k, w⟩ := c
    simp only [tblDel]
    split
    · rename_i e; subst e; simp [tblFind, h, ih]
    · simp only [tblFind, ih]

/-- Changing a listed record. -/
theorem tblFind_tblAdj_same (t : Tbl β) (n : Nat) (f : β → β) : tblFind (tblAdj t n f) n = (tblFind t n).map f := by
  unfold tblAdj
  cases h : tblFind t n <;> simp [h]

theorem tblFind_tblAdj_ne (t : Tbl β) {n m : Nat} (f : β → β) (h : m ≠ n) : tblFind (tblAdj t n f) m = tblFind t m := by
  unfold tblAdj
  cases tblFind t n with
  | none => rfl
  | some v => exact tblFind_tblSet_ne t (f v) h

theorem tblGet_tblAdj_ne (d : β) (t : Tbl β) {n m : Nat} (f : β → β) (h : m ≠ n) :
    tblGet d (tblAdj t n f) m = tblGet d t m := by simp [tblGet_eq_find, tblFind_tblAdj_ne t f h]

theorem tblGet_tblAdj_same (d : β) (t : Tbl β) (n : Nat) (f : β → β) (h : (tblFind t n).isSome) :
    tblGet d (tblAdj t n f) n = f (tblGet d t n) := by
  obtain ⟨v, hv⟩ := Option.isSome_iff_exists.mp h
  simp [tblGet_eq_find, tblFind_tblAdj_same, hv]

@[simp] theorem tblFind_tblMap (f : Nat → β → β) (t : Tbl β) (n : Nat) :
    tblFind (tblMap f t) n = (tblFind t n).map (f n) := by
  induction t with
  | nil => rfl
  | cons c t ih =>
    obtain ⟨k, w⟩ := c
    simp only [tblMap, tblFind]
    split
    · rename_i h; subst h; rfl
    · exact ih

theorem tblGet_tblMap (d : β) (f : Nat → β → β) (t : Tbl β) (n : Nat) (h : (tblFind t n).isSome) :
    tblGet d (tblMap f t) n = f n (tblGet d t n) := by
  obtain ⟨v, hv⟩ := Option.isSome_iff_exists.mp h
  simp [tblGet_eq_find, hv]

/-- A change that leaves a listed record as it is leaves what is read of it as it is. -/
theorem tblGet_tblMap_id (d : β) (f : Nat → β → β) (t : Tbl β) (n : Nat) (h : ∀ x, f n x = x) :
    tblGet d (tblMap f t) n = tblGet d t n := by
  simp only [tblGet_eq_find, tblFind_tblMap]
  cases tblFind t n <;> simp [h]

theorem tblGet_tblUpd_same (d : β) (t : Tbl β) (n : Nat) (f : β → β) : tblGet d (tblUpd d t n f) n = f (tblGet d t n) := by
  simp [tblUpd]

theorem tblGet_tblUpd_ne (d : β) (t : Tbl β) {n m : Nat} (f : β → β) (h : m ≠ n) :
    tblGet d (tblUpd d t n f) m = tblGet d t m := by simp [tblUpd, tblGet_tblSet_ne d t _ h]

/-- A record written and read back is the one that is listed with that number. -/
theorem mem_tblSet {t : Tbl β} {n : Nat} {v : β} {c : Nat × β} (h : c ∈ tblSet t n v) : c = (n, v) ∨ c ∈ t := by
  induction t with
  | nil => simpa [tblSet] using h
  | cons d t ih =>
    obtain ⟨k, w⟩ := d
    simp only [tblSet] at h
    split at h
    · simpa using h
    · split at h
      · rcases List.mem_cons.mp h with h | h
        · exact .inl h
        · exact .inr (List.mem_cons_of_mem _ h)
      · rcases List.mem_cons.mp h with h | h
        · exact .inr (h ▸ List.mem_cons_self)
        · exact (ih h).imp id (List.mem_cons_of_mem _)

theorem mem_of_tblFind {t : Tbl β} {n : Nat} {v : β} (h : tblFind t n = some v) : (n, v) ∈ t := by
  induction t with
  | nil => simp [tblFind] at h
  | cons d t ih =>
    obtain ⟨k, w⟩ := d
    simp only [tblFind] at h
    split at h
    · rename_i e; subst e; cases h; simp
    · exact List.mem_cons_of_mem _ (ih h)

end Sys2Proof.Machine
end

