-- ==== Sys2Proof/Laws/State.lean ====
section
/-! SUPPORT. Each update of State, field by field: what it leaves as it was; and the cores, teams and groups that are read
after one of them is changed. -/

namespace Sys2Proof.Machine

@[simp] theorem State.setCore_ns (s : State) (c : Nat) (k : Core) : (s.setCore c k).ns = s.ns := rfl
@[simp] theorem State.setCore_regions (s : State) (c : Nat) (k : Core) : (s.setCore c k).regions = s.regions := rfl
@[simp] theorem State.setCore_mem (s : State) (c : Nat) (k : Core) : (s.setCore c k).mem = s.mem := rfl
@[simp] theorem State.setCore_l1 (s : State) (c : Nat) (k : Core) : (s.setCore c k).l1 = s.l1 := rfl
@[simp] theorem State.setCore_clusters (s : State) (c : Nat) (k : Core) : (s.setCore c k).clusters = s.clusters := rfl
@[simp] theorem State.setCore_fabric (s : State) (c : Nat) (k : Core) : (s.setCore c k).fabric = s.fabric := rfl
@[simp] theorem State.setCore_sched (s : State) (c : Nat) (k : Core) : (s.setCore c k).sched = s.sched := rfl
@[simp] theorem State.setCore_ctxs (s : State) (c : Nat) (k : Core) : (s.setCore c k).ctxs = s.ctxs := rfl
@[simp] theorem State.setCore_mgmt (s : State) (c : Nat) (k : Core) : (s.setCore c k).mgmt = s.mgmt := rfl
@[simp] theorem State.setCore_power (s : State) (c : Nat) (k : Core) : (s.setCore c k).power = s.power := rfl
@[simp] theorem State.setCore_wear (s : State) (c : Nat) (k : Core) : (s.setCore c k).wear = s.wear := rfl
@[simp] theorem State.setCore_trust (s : State) (c : Nat) (k : Core) : (s.setCore c k).trust = s.trust := rfl
@[simp] theorem State.setCore_link (s : State) (c : Nat) (k : Core) : (s.setCore c k).link = s.link := rfl
@[simp] theorem State.setCore_issue (s : State) (c : Nat) (k : Core) : (s.setCore c k).issue = s.issue := rfl
@[simp] theorem State.setCore_agenda (s : State) (c : Nat) (k : Core) : (s.setCore c k).agenda = s.agenda := rfl
@[simp] theorem State.setCore_fresh (s : State) (c : Nat) (k : Core) : (s.setCore c k).fresh = s.fresh := rfl
@[simp] theorem State.setCore_stamp (s : State) (c : Nat) (k : Core) : (s.setCore c k).stamp = s.stamp := rfl

@[simp] theorem State.updCore_ns (s : State) (c : Nat) (f : Core → Core) : (s.updCore c f).ns = s.ns := rfl
@[simp] theorem State.updCore_regions (s : State) (c : Nat) (f : Core → Core) : (s.updCore c f).regions = s.regions := rfl
@[simp] theorem State.updCore_mem (s : State) (c : Nat) (f : Core → Core) : (s.updCore c f).mem = s.mem := rfl
@[simp] theorem State.updCore_l1 (s : State) (c : Nat) (f : Core → Core) : (s.updCore c f).l1 = s.l1 := rfl
@[simp] theorem State.updCore_clusters (s : State) (c : Nat) (f : Core → Core) : (s.updCore c f).clusters = s.clusters := rfl
@[simp] theorem State.updCore_fabric (s : State) (c : Nat) (f : Core → Core) : (s.updCore c f).fabric = s.fabric := rfl
@[simp] theorem State.updCore_sched (s : State) (c : Nat) (f : Core → Core) : (s.updCore c f).sched = s.sched := rfl
@[simp] theorem State.updCore_ctxs (s : State) (c : Nat) (f : Core → Core) : (s.updCore c f).ctxs = s.ctxs := rfl
@[simp] theorem State.updCore_mgmt (s : State) (c : Nat) (f : Core → Core) : (s.updCore c f).mgmt = s.mgmt := rfl
@[simp] theorem State.updCore_power (s : State) (c : Nat) (f : Core → Core) : (s.updCore c f).power = s.power := rfl
@[simp] theorem State.updCore_wear (s : State) (c : Nat) (f : Core → Core) : (s.updCore c f).wear = s.wear := rfl
@[simp] theorem State.updCore_trust (s : State) (c : Nat) (f : Core → Core) : (s.updCore c f).trust = s.trust := rfl
@[simp] theorem State.updCore_link (s : State) (c : Nat) (f : Core → Core) : (s.updCore c f).link = s.link := rfl
@[simp] theorem State.updCore_issue (s : State) (c : Nat) (f : Core → Core) : (s.updCore c f).issue = s.issue := rfl
@[simp] theorem State.updCore_agenda (s : State) (c : Nat) (f : Core → Core) : (s.updCore c f).agenda = s.agenda := rfl
@[simp] theorem State.updCore_fresh (s : State) (c : Nat) (f : Core → Core) : (s.updCore c f).fresh = s.fresh := rfl
@[simp] theorem State.updCore_stamp (s : State) (c : Nat) (f : Core → Core) : (s.updCore c f).stamp = s.stamp := rfl

@[simp] theorem State.updTeam_ns (s : State) (c n : Nat) (f : Team → Team) : (s.updTeam c n f).ns = s.ns := rfl
@[simp] theorem State.updTeam_regions (s : State) (c n : Nat) (f : Team → Team) : (s.updTeam c n f).regions = s.regions := rfl
@[simp] theorem State.updTeam_mem (s : State) (c n : Nat) (f : Team → Team) : (s.updTeam c n f).mem = s.mem := rfl
@[simp] theorem State.updTeam_l1 (s : State) (c n : Nat) (f : Team → Team) : (s.updTeam c n f).l1 = s.l1 := rfl
@[simp] theorem State.updTeam_clusters (s : State) (c n : Nat) (f : Team → Team) : (s.updTeam c n f).clusters = s.clusters := rfl
@[simp] theorem State.updTeam_fabric (s : State) (c n : Nat) (f : Team → Team) : (s.updTeam c n f).fabric = s.fabric := rfl
@[simp] theorem State.updTeam_sched (s : State) (c n : Nat) (f : Team → Team) : (s.updTeam c n f).sched = s.sched := rfl
@[simp] theorem State.updTeam_ctxs (s : State) (c n : Nat) (f : Team → Team) : (s.updTeam c n f).ctxs = s.ctxs := rfl
@[simp] theorem State.updTeam_mgmt (s : State) (c n : Nat) (f : Team → Team) : (s.updTeam c n f).mgmt = s.mgmt := rfl
@[simp] theorem State.updTeam_power (s : State) (c n : Nat) (f : Team → Team) : (s.updTeam c n f).power = s.power := rfl
@[simp] theorem State.updTeam_wear (s : State) (c n : Nat) (f : Team → Team) : (s.updTeam c n f).wear = s.wear := rfl
@[simp] theorem State.updTeam_trust (s : State) (c n : Nat) (f : Team → Team) : (s.updTeam c n f).trust = s.trust := rfl
@[simp] theorem State.updTeam_link (s : State) (c n : Nat) (f : Team → Team) : (s.updTeam c n f).link = s.link := rfl
@[simp] theorem State.updTeam_issue (s : State) (c n : Nat) (f : Team → Team) : (s.updTeam c n f).issue = s.issue := rfl
@[simp] theorem State.updTeam_agenda (s : State) (c n : Nat) (f : Team → Team) : (s.updTeam c n f).agenda = s.agenda := rfl
@[simp] theorem State.updTeam_fresh (s : State) (c n : Nat) (f : Team → Team) : (s.updTeam c n f).fresh = s.fresh := rfl
@[simp] theorem State.updTeam_stamp (s : State) (c n : Nat) (f : Team → Team) : (s.updTeam c n f).stamp = s.stamp := rfl

@[simp] theorem State.updGroup_ns (s : State) (c n g : Nat) (f : Group → Group) : (s.updGroup c n g f).ns = s.ns := rfl
@[simp] theorem State.updGroup_regions (s : State) (c n g : Nat) (f : Group → Group) : (s.updGroup c n g f).regions = s.regions := rfl
@[simp] theorem State.updGroup_mem (s : State) (c n g : Nat) (f : Group → Group) : (s.updGroup c n g f).mem = s.mem := rfl
@[simp] theorem State.updGroup_l1 (s : State) (c n g : Nat) (f : Group → Group) : (s.updGroup c n g f).l1 = s.l1 := rfl
@[simp] theorem State.updGroup_clusters (s : State) (c n g : Nat) (f : Group → Group) : (s.updGroup c n g f).clusters = s.clusters := rfl
@[simp] theorem State.updGroup_fabric (s : State) (c n g : Nat) (f : Group → Group) : (s.updGroup c n g f).fabric = s.fabric := rfl
@[simp] theorem State.updGroup_sched (s : State) (c n g : Nat) (f : Group → Group) : (s.updGroup c n g f).sched = s.sched := rfl
@[simp] theorem State.updGroup_ctxs (s : State) (c n g : Nat) (f : Group → Group) : (s.updGroup c n g f).ctxs = s.ctxs := rfl
@[simp] theorem State.updGroup_mgmt (s : State) (c n g : Nat) (f : Group → Group) : (s.updGroup c n g f).mgmt = s.mgmt := rfl
@[simp] theorem State.updGroup_power (s : State) (c n g : Nat) (f : Group → Group) : (s.updGroup c n g f).power = s.power := rfl
@[simp] theorem State.updGroup_wear (s : State) (c n g : Nat) (f : Group → Group) : (s.updGroup c n g f).wear = s.wear := rfl
@[simp] theorem State.updGroup_trust (s : State) (c n g : Nat) (f : Group → Group) : (s.updGroup c n g f).trust = s.trust := rfl
@[simp] theorem State.updGroup_link (s : State) (c n g : Nat) (f : Group → Group) : (s.updGroup c n g f).link = s.link := rfl
@[simp] theorem State.updGroup_issue (s : State) (c n g : Nat) (f : Group → Group) : (s.updGroup c n g f).issue = s.issue := rfl
@[simp] theorem State.updGroup_agenda (s : State) (c n g : Nat) (f : Group → Group) : (s.updGroup c n g f).agenda = s.agenda := rfl
@[simp] theorem State.updGroup_fresh (s : State) (c n g : Nat) (f : Group → Group) : (s.updGroup c n g f).fresh = s.fresh := rfl
@[simp] theorem State.updGroup_stamp (s : State) (c n g : Nat) (f : Group → Group) : (s.updGroup c n g f).stamp = s.stamp := rfl

@[simp] theorem State.updIssCore_ns (s : State) (f : Core → Core) : (s.updIssCore f).ns = s.ns := rfl
@[simp] theorem State.updIssCore_regions (s : State) (f : Core → Core) : (s.updIssCore f).regions = s.regions := rfl
@[simp] theorem State.updIssCore_mem (s : State) (f : Core → Core) : (s.updIssCore f).mem = s.mem := rfl
@[simp] theorem State.updIssCore_l1 (s : State) (f : Core → Core) : (s.updIssCore f).l1 = s.l1 := rfl
@[simp] theorem State.updIssCore_clusters (s : State) (f : Core → Core) : (s.updIssCore f).clusters = s.clusters := rfl
@[simp] theorem State.updIssCore_fabric (s : State) (f : Core → Core) : (s.updIssCore f).fabric = s.fabric := rfl
@[simp] theorem State.updIssCore_sched (s : State) (f : Core → Core) : (s.updIssCore f).sched = s.sched := rfl
@[simp] theorem State.updIssCore_ctxs (s : State) (f : Core → Core) : (s.updIssCore f).ctxs = s.ctxs := rfl
@[simp] theorem State.updIssCore_mgmt (s : State) (f : Core → Core) : (s.updIssCore f).mgmt = s.mgmt := rfl
@[simp] theorem State.updIssCore_power (s : State) (f : Core → Core) : (s.updIssCore f).power = s.power := rfl
@[simp] theorem State.updIssCore_wear (s : State) (f : Core → Core) : (s.updIssCore f).wear = s.wear := rfl
@[simp] theorem State.updIssCore_trust (s : State) (f : Core → Core) : (s.updIssCore f).trust = s.trust := rfl
@[simp] theorem State.updIssCore_link (s : State) (f : Core → Core) : (s.updIssCore f).link = s.link := rfl
@[simp] theorem State.updIssCore_issue (s : State) (f : Core → Core) : (s.updIssCore f).issue = s.issue := rfl
@[simp] theorem State.updIssCore_agenda (s : State) (f : Core → Core) : (s.updIssCore f).agenda = s.agenda := rfl
@[simp] theorem State.updIssCore_fresh (s : State) (f : Core → Core) : (s.updIssCore f).fresh = s.fresh := rfl
@[simp] theorem State.updIssCore_stamp (s : State) (f : Core → Core) : (s.updIssCore f).stamp = s.stamp := rfl

@[simp] theorem State.updIssTeam_ns (s : State) (f : Team → Team) : (s.updIssTeam f).ns = s.ns := rfl
@[simp] theorem State.updIssTeam_regions (s : State) (f : Team → Team) : (s.updIssTeam f).regions = s.regions := rfl
@[simp] theorem State.updIssTeam_mem (s : State) (f : Team → Team) : (s.updIssTeam f).mem = s.mem := rfl
@[simp] theorem State.updIssTeam_l1 (s : State) (f : Team → Team) : (s.updIssTeam f).l1 = s.l1 := rfl
@[simp] theorem State.updIssTeam_clusters (s : State) (f : Team → Team) : (s.updIssTeam f).clusters = s.clusters := rfl
@[simp] theorem State.updIssTeam_fabric (s : State) (f : Team → Team) : (s.updIssTeam f).fabric = s.fabric := rfl
@[simp] theorem State.updIssTeam_sched (s : State) (f : Team → Team) : (s.updIssTeam f).sched = s.sched := rfl
@[simp] theorem State.updIssTeam_ctxs (s : State) (f : Team → Team) : (s.updIssTeam f).ctxs = s.ctxs := rfl
@[simp] theorem State.updIssTeam_mgmt (s : State) (f : Team → Team) : (s.updIssTeam f).mgmt = s.mgmt := rfl
@[simp] theorem State.updIssTeam_power (s : State) (f : Team → Team) : (s.updIssTeam f).power = s.power := rfl
@[simp] theorem State.updIssTeam_wear (s : State) (f : Team → Team) : (s.updIssTeam f).wear = s.wear := rfl
@[simp] theorem State.updIssTeam_trust (s : State) (f : Team → Team) : (s.updIssTeam f).trust = s.trust := rfl
@[simp] theorem State.updIssTeam_link (s : State) (f : Team → Team) : (s.updIssTeam f).link = s.link := rfl
@[simp] theorem State.updIssTeam_issue (s : State) (f : Team → Team) : (s.updIssTeam f).issue = s.issue := rfl
@[simp] theorem State.updIssTeam_agenda (s : State) (f : Team → Team) : (s.updIssTeam f).agenda = s.agenda := rfl
@[simp] theorem State.updIssTeam_fresh (s : State) (f : Team → Team) : (s.updIssTeam f).fresh = s.fresh := rfl
@[simp] theorem State.updIssTeam_stamp (s : State) (f : Team → Team) : (s.updIssTeam f).stamp = s.stamp := rfl

@[simp] theorem State.updIssGroup_ns (s : State) (f : Group → Group) : (s.updIssGroup f).ns = s.ns := rfl
@[simp] theorem State.updIssGroup_regions (s : State) (f : Group → Group) : (s.updIssGroup f).regions = s.regions := rfl
@[simp] theorem State.updIssGroup_mem (s : State) (f : Group → Group) : (s.updIssGroup f).mem = s.mem := rfl
@[simp] theorem State.updIssGroup_l1 (s : State) (f : Group → Group) : (s.updIssGroup f).l1 = s.l1 := rfl
@[simp] theorem State.updIssGroup_clusters (s : State) (f : Group → Group) : (s.updIssGroup f).clusters = s.clusters := rfl
@[simp] theorem State.updIssGroup_fabric (s : State) (f : Group → Group) : (s.updIssGroup f).fabric = s.fabric := rfl
@[simp] theorem State.updIssGroup_sched (s : State) (f : Group → Group) : (s.updIssGroup f).sched = s.sched := rfl
@[simp] theorem State.updIssGroup_ctxs (s : State) (f : Group → Group) : (s.updIssGroup f).ctxs = s.ctxs := rfl
@[simp] theorem State.updIssGroup_mgmt (s : State) (f : Group → Group) : (s.updIssGroup f).mgmt = s.mgmt := rfl
@[simp] theorem State.updIssGroup_power (s : State) (f : Group → Group) : (s.updIssGroup f).power = s.power := rfl
@[simp] theorem State.updIssGroup_wear (s : State) (f : Group → Group) : (s.updIssGroup f).wear = s.wear := rfl
@[simp] theorem State.updIssGroup_trust (s : State) (f : Group → Group) : (s.updIssGroup f).trust = s.trust := rfl
@[simp] theorem State.updIssGroup_link (s : State) (f : Group → Group) : (s.updIssGroup f).link = s.link := rfl
@[simp] theorem State.updIssGroup_issue (s : State) (f : Group → Group) : (s.updIssGroup f).issue = s.issue := rfl
@[simp] theorem State.updIssGroup_agenda (s : State) (f : Group → Group) : (s.updIssGroup f).agenda = s.agenda := rfl
@[simp] theorem State.updIssGroup_fresh (s : State) (f : Group → Group) : (s.updIssGroup f).fresh = s.fresh := rfl
@[simp] theorem State.updIssGroup_stamp (s : State) (f : Group → Group) : (s.updIssGroup f).stamp = s.stamp := rfl

@[simp] theorem State.runLanes_ns (s : State) (g : FlagSel) (f : Nat → Lane → Lane) : (s.runLanes g f).ns = s.ns := rfl
@[simp] theorem State.runLanes_regions (s : State) (g : FlagSel) (f : Nat → Lane → Lane) : (s.runLanes g f).regions = s.regions := rfl
@[simp] theorem State.runLanes_mem (s : State) (g : FlagSel) (f : Nat → Lane → Lane) : (s.runLanes g f).mem = s.mem := rfl
@[simp] theorem State.runLanes_l1 (s : State) (g : FlagSel) (f : Nat → Lane → Lane) : (s.runLanes g f).l1 = s.l1 := rfl
@[simp] theorem State.runLanes_clusters (s : State) (g : FlagSel) (f : Nat → Lane → Lane) : (s.runLanes g f).clusters = s.clusters := rfl
@[simp] theorem State.runLanes_fabric (s : State) (g : FlagSel) (f : Nat → Lane → Lane) : (s.runLanes g f).fabric = s.fabric := rfl
@[simp] theorem State.runLanes_sched (s : State) (g : FlagSel) (f : Nat → Lane → Lane) : (s.runLanes g f).sched = s.sched := rfl
@[simp] theorem State.runLanes_ctxs (s : State) (g : FlagSel) (f : Nat → Lane → Lane) : (s.runLanes g f).ctxs = s.ctxs := rfl
@[simp] theorem State.runLanes_mgmt (s : State) (g : FlagSel) (f : Nat → Lane → Lane) : (s.runLanes g f).mgmt = s.mgmt := rfl
@[simp] theorem State.runLanes_power (s : State) (g : FlagSel) (f : Nat → Lane → Lane) : (s.runLanes g f).power = s.power := rfl
@[simp] theorem State.runLanes_wear (s : State) (g : FlagSel) (f : Nat → Lane → Lane) : (s.runLanes g f).wear = s.wear := rfl
@[simp] theorem State.runLanes_trust (s : State) (g : FlagSel) (f : Nat → Lane → Lane) : (s.runLanes g f).trust = s.trust := rfl
@[simp] theorem State.runLanes_link (s : State) (g : FlagSel) (f : Nat → Lane → Lane) : (s.runLanes g f).link = s.link := rfl
@[simp] theorem State.runLanes_issue (s : State) (g : FlagSel) (f : Nat → Lane → Lane) : (s.runLanes g f).issue = s.issue := rfl
@[simp] theorem State.runLanes_agenda (s : State) (g : FlagSel) (f : Nat → Lane → Lane) : (s.runLanes g f).agenda = s.agenda := rfl
@[simp] theorem State.runLanes_fresh (s : State) (g : FlagSel) (f : Nat → Lane → Lane) : (s.runLanes g f).fresh = s.fresh := rfl
@[simp] theorem State.runLanes_stamp (s : State) (g : FlagSel) (f : Nat → Lane → Lane) : (s.runLanes g f).stamp = s.stamp := rfl

@[simp] theorem State.parkLanes_ns (s : State) (w : List (Nat × WaitOn)) : (s.parkLanes w).ns = s.ns := rfl
@[simp] theorem State.parkLanes_regions (s : State) (w : List (Nat × WaitOn)) : (s.parkLanes w).regions = s.regions := rfl
@[simp] theorem State.parkLanes_mem (s : State) (w : List (Nat × WaitOn)) : (s.parkLanes w).mem = s.mem := rfl
@[simp] theorem State.parkLanes_l1 (s : State) (w : List (Nat × WaitOn)) : (s.parkLanes w).l1 = s.l1 := rfl
@[simp] theorem State.parkLanes_clusters (s : State) (w : List (Nat × WaitOn)) : (s.parkLanes w).clusters = s.clusters := rfl
@[simp] theorem State.parkLanes_fabric (s : State) (w : List (Nat × WaitOn)) : (s.parkLanes w).fabric = s.fabric := rfl
@[simp] theorem State.parkLanes_sched (s : State) (w : List (Nat × WaitOn)) : (s.parkLanes w).sched = s.sched := rfl
@[simp] theorem State.parkLanes_ctxs (s : State) (w : List (Nat × WaitOn)) : (s.parkLanes w).ctxs = s.ctxs := rfl
@[simp] theorem State.parkLanes_mgmt (s : State) (w : List (Nat × WaitOn)) : (s.parkLanes w).mgmt = s.mgmt := rfl
@[simp] theorem State.parkLanes_power (s : State) (w : List (Nat × WaitOn)) : (s.parkLanes w).power = s.power := rfl
@[simp] theorem State.parkLanes_wear (s : State) (w : List (Nat × WaitOn)) : (s.parkLanes w).wear = s.wear := rfl
@[simp] theorem State.parkLanes_trust (s : State) (w : List (Nat × WaitOn)) : (s.parkLanes w).trust = s.trust := rfl
@[simp] theorem State.parkLanes_link (s : State) (w : List (Nat × WaitOn)) : (s.parkLanes w).link = s.link := rfl
@[simp] theorem State.parkLanes_issue (s : State) (w : List (Nat × WaitOn)) : (s.parkLanes w).issue = s.issue := rfl
@[simp] theorem State.parkLanes_agenda (s : State) (w : List (Nat × WaitOn)) : (s.parkLanes w).agenda = s.agenda := rfl
@[simp] theorem State.parkLanes_fresh (s : State) (w : List (Nat × WaitOn)) : (s.parkLanes w).fresh = s.fresh := rfl
@[simp] theorem State.parkLanes_stamp (s : State) (w : List (Nat × WaitOn)) : (s.parkLanes w).stamp = s.stamp := rfl

@[simp] theorem State.enqueue_ns (s : State) (q : List Item) : (s.enqueue q).ns = s.ns := rfl
@[simp] theorem State.enqueue_regions (s : State) (q : List Item) : (s.enqueue q).regions = s.regions := rfl
@[simp] theorem State.enqueue_mem (s : State) (q : List Item) : (s.enqueue q).mem = s.mem := rfl
@[simp] theorem State.enqueue_l1 (s : State) (q : List Item) : (s.enqueue q).l1 = s.l1 := rfl
@[simp] theorem State.enqueue_clusters (s : State) (q : List Item) : (s.enqueue q).clusters = s.clusters := rfl
@[simp] theorem State.enqueue_fabric (s : State) (q : List Item) : (s.enqueue q).fabric = s.fabric := rfl
@[simp] theorem State.enqueue_sched (s : State) (q : List Item) : (s.enqueue q).sched = s.sched := rfl
@[simp] theorem State.enqueue_ctxs (s : State) (q : List Item) : (s.enqueue q).ctxs = s.ctxs := rfl
@[simp] theorem State.enqueue_mgmt (s : State) (q : List Item) : (s.enqueue q).mgmt = s.mgmt := rfl
@[simp] theorem State.enqueue_power (s : State) (q : List Item) : (s.enqueue q).power = s.power := rfl
@[simp] theorem State.enqueue_wear (s : State) (q : List Item) : (s.enqueue q).wear = s.wear := rfl
@[simp] theorem State.enqueue_trust (s : State) (q : List Item) : (s.enqueue q).trust = s.trust := rfl
@[simp] theorem State.enqueue_link (s : State) (q : List Item) : (s.enqueue q).link = s.link := rfl
@[simp] theorem State.enqueue_issue (s : State) (q : List Item) : (s.enqueue q).issue = s.issue := rfl
@[simp] theorem State.enqueue_agenda (s : State) (q : List Item) : (s.enqueue q).agenda = s.agenda := rfl
@[simp] theorem State.enqueue_fresh (s : State) (q : List Item) : (s.enqueue q).fresh = s.fresh := rfl
@[simp] theorem State.enqueue_stamp (s : State) (q : List Item) : (s.enqueue q).stamp = s.stamp := rfl

@[simp] theorem State.updCluster_ns (s : State) (c : Nat) (f : Cluster → Cluster) : (s.updCluster c f).ns = s.ns := rfl
@[simp] theorem State.updCluster_regions (s : State) (c : Nat) (f : Cluster → Cluster) : (s.updCluster c f).regions = s.regions := rfl
@[simp] theorem State.updCluster_mem (s : State) (c : Nat) (f : Cluster → Cluster) : (s.updCluster c f).mem = s.mem := rfl
@[simp] theorem State.updCluster_l1 (s : State) (c : Nat) (f : Cluster → Cluster) : (s.updCluster c f).l1 = s.l1 := rfl
@[simp] theorem State.updCluster_cores (s : State) (c : Nat) (f : Cluster → Cluster) : (s.updCluster c f).cores = s.cores := rfl
@[simp] theorem State.updCluster_fabric (s : State) (c : Nat) (f : Cluster → Cluster) : (s.updCluster c f).fabric = s.fabric := rfl
@[simp] theorem State.updCluster_sched (s : State) (c : Nat) (f : Cluster → Cluster) : (s.updCluster c f).sched = s.sched := rfl
@[simp] theorem State.updCluster_ctxs (s : State) (c : Nat) (f : Cluster → Cluster) : (s.updCluster c f).ctxs = s.ctxs := rfl
@[simp] theorem State.updCluster_mgmt (s : State) (c : Nat) (f : Cluster → Cluster) : (s.updCluster c f).mgmt = s.mgmt := rfl
@[simp] theorem State.updCluster_power (s : State) (c : Nat) (f : Cluster → Cluster) : (s.updCluster c f).power = s.power := rfl
@[simp] theorem State.updCluster_wear (s : State) (c : Nat) (f : Cluster → Cluster) : (s.updCluster c f).wear = s.wear := rfl
@[simp] theorem State.updCluster_trust (s : State) (c : Nat) (f : Cluster → Cluster) : (s.updCluster c f).trust = s.trust := rfl
@[simp] theorem State.updCluster_link (s : State) (c : Nat) (f : Cluster → Cluster) : (s.updCluster c f).link = s.link := rfl
@[simp] theorem State.updCluster_issue (s : State) (c : Nat) (f : Cluster → Cluster) : (s.updCluster c f).issue = s.issue := rfl
@[simp] theorem State.updCluster_agenda (s : State) (c : Nat) (f : Cluster → Cluster) : (s.updCluster c f).agenda = s.agenda := rfl
@[simp] theorem State.updCluster_fresh (s : State) (c : Nat) (f : Cluster → Cluster) : (s.updCluster c f).fresh = s.fresh := rfl
@[simp] theorem State.updCluster_stamp (s : State) (c : Nat) (f : Cluster → Cluster) : (s.updCluster c f).stamp = s.stamp := rfl

@[simp] theorem State.updRegion_ns (s : State) (c : Nat) (f : Region → Region) : (s.updRegion c f).ns = s.ns := rfl
@[simp] theorem State.updRegion_mem (s : State) (c : Nat) (f : Region → Region) : (s.updRegion c f).mem = s.mem := rfl
@[simp] theorem State.updRegion_l1 (s : State) (c : Nat) (f : Region → Region) : (s.updRegion c f).l1 = s.l1 := rfl
@[simp] theorem State.updRegion_cores (s : State) (c : Nat) (f : Region → Region) : (s.updRegion c f).cores = s.cores := rfl
@[simp] theorem State.updRegion_clusters (s : State) (c : Nat) (f : Region → Region) : (s.updRegion c f).clusters = s.clusters := rfl
@[simp] theorem State.updRegion_fabric (s : State) (c : Nat) (f : Region → Region) : (s.updRegion c f).fabric = s.fabric := rfl
@[simp] theorem State.updRegion_sched (s : State) (c : Nat) (f : Region → Region) : (s.updRegion c f).sched = s.sched := rfl
@[simp] theorem State.updRegion_ctxs (s : State) (c : Nat) (f : Region → Region) : (s.updRegion c f).ctxs = s.ctxs := rfl
@[simp] theorem State.updRegion_mgmt (s : State) (c : Nat) (f : Region → Region) : (s.updRegion c f).mgmt = s.mgmt := rfl
@[simp] theorem State.updRegion_power (s : State) (c : Nat) (f : Region → Region) : (s.updRegion c f).power = s.power := rfl
@[simp] theorem State.updRegion_wear (s : State) (c : Nat) (f : Region → Region) : (s.updRegion c f).wear = s.wear := rfl
@[simp] theorem State.updRegion_trust (s : State) (c : Nat) (f : Region → Region) : (s.updRegion c f).trust = s.trust := rfl
@[simp] theorem State.updRegion_link (s : State) (c : Nat) (f : Region → Region) : (s.updRegion c f).link = s.link := rfl
@[simp] theorem State.updRegion_issue (s : State) (c : Nat) (f : Region → Region) : (s.updRegion c f).issue = s.issue := rfl
@[simp] theorem State.updRegion_agenda (s : State) (c : Nat) (f : Region → Region) : (s.updRegion c f).agenda = s.agenda := rfl
@[simp] theorem State.updRegion_fresh (s : State) (c : Nat) (f : Region → Region) : (s.updRegion c f).fresh = s.fresh := rfl
@[simp] theorem State.updRegion_stamp (s : State) (c : Nat) (f : Region → Region) : (s.updRegion c f).stamp = s.stamp := rfl

@[simp] theorem State.updGrid_ns (s : State) (c : Nat) (f : Grid → Grid) : (s.updGrid c f).ns = s.ns := rfl
@[simp] theorem State.updGrid_regions (s : State) (c : Nat) (f : Grid → Grid) : (s.updGrid c f).regions = s.regions := rfl
@[simp] theorem State.updGrid_mem (s : State) (c : Nat) (f : Grid → Grid) : (s.updGrid c f).mem = s.mem := rfl
@[simp] theorem State.updGrid_l1 (s : State) (c : Nat) (f : Grid → Grid) : (s.updGrid c f).l1 = s.l1 := rfl
@[simp] theorem State.updGrid_cores (s : State) (c : Nat) (f : Grid → Grid) : (s.updGrid c f).cores = s.cores := rfl
@[simp] theorem State.updGrid_clusters (s : State) (c : Nat) (f : Grid → Grid) : (s.updGrid c f).clusters = s.clusters := rfl
@[simp] theorem State.updGrid_fabric (s : State) (c : Nat) (f : Grid → Grid) : (s.updGrid c f).fabric = s.fabric := rfl
@[simp] theorem State.updGrid_ctxs (s : State) (c : Nat) (f : Grid → Grid) : (s.updGrid c f).ctxs = s.ctxs := rfl
@[simp] theorem State.updGrid_mgmt (s : State) (c : Nat) (f : Grid → Grid) : (s.updGrid c f).mgmt = s.mgmt := rfl
@[simp] theorem State.updGrid_power (s : State) (c : Nat) (f : Grid → Grid) : (s.updGrid c f).power = s.power := rfl
@[simp] theorem State.updGrid_wear (s : State) (c : Nat) (f : Grid → Grid) : (s.updGrid c f).wear = s.wear := rfl
@[simp] theorem State.updGrid_trust (s : State) (c : Nat) (f : Grid → Grid) : (s.updGrid c f).trust = s.trust := rfl
@[simp] theorem State.updGrid_link (s : State) (c : Nat) (f : Grid → Grid) : (s.updGrid c f).link = s.link := rfl
@[simp] theorem State.updGrid_issue (s : State) (c : Nat) (f : Grid → Grid) : (s.updGrid c f).issue = s.issue := rfl
@[simp] theorem State.updGrid_agenda (s : State) (c : Nat) (f : Grid → Grid) : (s.updGrid c f).agenda = s.agenda := rfl
@[simp] theorem State.updGrid_fresh (s : State) (c : Nat) (f : Grid → Grid) : (s.updGrid c f).fresh = s.fresh := rfl
@[simp] theorem State.updGrid_stamp (s : State) (c : Nat) (f : Grid → Grid) : (s.updGrid c f).stamp = s.stamp := rfl

@[simp] theorem State.updL1_ns (s : State) (c : Nat) (f : L1 → L1) : (s.updL1 c f).ns = s.ns := rfl
@[simp] theorem State.updL1_regions (s : State) (c : Nat) (f : L1 → L1) : (s.updL1 c f).regions = s.regions := rfl
@[simp] theorem State.updL1_mem (s : State) (c : Nat) (f : L1 → L1) : (s.updL1 c f).mem = s.mem := rfl
@[simp] theorem State.updL1_cores (s : State) (c : Nat) (f : L1 → L1) : (s.updL1 c f).cores = s.cores := rfl
@[simp] theorem State.updL1_clusters (s : State) (c : Nat) (f : L1 → L1) : (s.updL1 c f).clusters = s.clusters := rfl
@[simp] theorem State.updL1_fabric (s : State) (c : Nat) (f : L1 → L1) : (s.updL1 c f).fabric = s.fabric := rfl
@[simp] theorem State.updL1_sched (s : State) (c : Nat) (f : L1 → L1) : (s.updL1 c f).sched = s.sched := rfl
@[simp] theorem State.updL1_ctxs (s : State) (c : Nat) (f : L1 → L1) : (s.updL1 c f).ctxs = s.ctxs := rfl
@[simp] theorem State.updL1_mgmt (s : State) (c : Nat) (f : L1 → L1) : (s.updL1 c f).mgmt = s.mgmt := rfl
@[simp] theorem State.updL1_power (s : State) (c : Nat) (f : L1 → L1) : (s.updL1 c f).power = s.power := rfl
@[simp] theorem State.updL1_wear (s : State) (c : Nat) (f : L1 → L1) : (s.updL1 c f).wear = s.wear := rfl
@[simp] theorem State.updL1_trust (s : State) (c : Nat) (f : L1 → L1) : (s.updL1 c f).trust = s.trust := rfl
@[simp] theorem State.updL1_link (s : State) (c : Nat) (f : L1 → L1) : (s.updL1 c f).link = s.link := rfl
@[simp] theorem State.updL1_issue (s : State) (c : Nat) (f : L1 → L1) : (s.updL1 c f).issue = s.issue := rfl
@[simp] theorem State.updL1_agenda (s : State) (c : Nat) (f : L1 → L1) : (s.updL1 c f).agenda = s.agenda := rfl
@[simp] theorem State.updL1_fresh (s : State) (c : Nat) (f : L1 → L1) : (s.updL1 c f).fresh = s.fresh := rfl
@[simp] theorem State.updL1_stamp (s : State) (c : Nat) (f : L1 → L1) : (s.updL1 c f).stamp = s.stamp := rfl

@[simp] theorem State.send_ns (s : State) (o : Out) : (s.send o).ns = s.ns := rfl
@[simp] theorem State.send_regions (s : State) (o : Out) : (s.send o).regions = s.regions := rfl
@[simp] theorem State.send_mem (s : State) (o : Out) : (s.send o).mem = s.mem := rfl
@[simp] theorem State.send_l1 (s : State) (o : Out) : (s.send o).l1 = s.l1 := rfl
@[simp] theorem State.send_cores (s : State) (o : Out) : (s.send o).cores = s.cores := rfl
@[simp] theorem State.send_clusters (s : State) (o : Out) : (s.send o).clusters = s.clusters := rfl
@[simp] theorem State.send_fabric (s : State) (o : Out) : (s.send o).fabric = s.fabric := rfl
@[simp] theorem State.send_sched (s : State) (o : Out) : (s.send o).sched = s.sched := rfl
@[simp] theorem State.send_ctxs (s : State) (o : Out) : (s.send o).ctxs = s.ctxs := rfl
@[simp] theorem State.send_mgmt (s : State) (o : Out) : (s.send o).mgmt = s.mgmt := rfl
@[simp] theorem State.send_power (s : State) (o : Out) : (s.send o).power = s.power := rfl
@[simp] theorem State.send_wear (s : State) (o : Out) : (s.send o).wear = s.wear := rfl
@[simp] theorem State.send_trust (s : State) (o : Out) : (s.send o).trust = s.trust := rfl
@[simp] theorem State.send_issue (s : State) (o : Out) : (s.send o).issue = s.issue := rfl
@[simp] theorem State.send_agenda (s : State) (o : Out) : (s.send o).agenda = s.agenda := rfl
@[simp] theorem State.send_fresh (s : State) (o : Out) : (s.send o).fresh = s.fresh := rfl
@[simp] theorem State.send_stamp (s : State) (o : Out) : (s.send o).stamp = s.stamp := rfl

/-! ## An interrupt message changes the link alone -/

@[simp] theorem State.msi_ns (s : State) (v : Nat) : (s.msi v).ns = s.ns := by
  unfold State.msi; split
  · split <;> rfl
  · rfl
@[simp] theorem State.msi_regions (s : State) (v : Nat) : (s.msi v).regions = s.regions := by
  unfold State.msi; split
  · split <;> rfl
  · rfl
@[simp] theorem State.msi_mem (s : State) (v : Nat) : (s.msi v).mem = s.mem := by
  unfold State.msi; split
  · split <;> rfl
  · rfl
@[simp] theorem State.msi_l1 (s : State) (v : Nat) : (s.msi v).l1 = s.l1 := by
  unfold State.msi; split
  · split <;> rfl
  · rfl
@[simp] theorem State.msi_cores (s : State) (v : Nat) : (s.msi v).cores = s.cores := by
  unfold State.msi; split
  · split <;> rfl
  · rfl
@[simp] theorem State.msi_clusters (s : State) (v : Nat) : (s.msi v).clusters = s.clusters := by
  unfold State.msi; split
  · split <;> rfl
  · rfl
@[simp] theorem State.msi_fabric (s : State) (v : Nat) : (s.msi v).fabric = s.fabric := by
  unfold State.msi; split
  · split <;> rfl
  · rfl
@[simp] theorem State.msi_sched (s : State) (v : Nat) : (s.msi v).sched = s.sched := by
  unfold State.msi; split
  · split <;> rfl
  · rfl
@[simp] theorem State.msi_ctxs (s : State) (v : Nat) : (s.msi v).ctxs = s.ctxs := by
  unfold State.msi; split
  · split <;> rfl
  · rfl
@[simp] theorem State.msi_mgmt (s : State) (v : Nat) : (s.msi v).mgmt = s.mgmt := by
  unfold State.msi; split
  · split <;> rfl
  · rfl
@[simp] theorem State.msi_power (s : State) (v : Nat) : (s.msi v).power = s.power := by
  unfold State.msi; split
  · split <;> rfl
  · rfl
@[simp] theorem State.msi_wear (s : State) (v : Nat) : (s.msi v).wear = s.wear := by
  unfold State.msi; split
  · split <;> rfl
  · rfl
@[simp] theorem State.msi_trust (s : State) (v : Nat) : (s.msi v).trust = s.trust := by
  unfold State.msi; split
  · split <;> rfl
  · rfl
@[simp] theorem State.msi_issue (s : State) (v : Nat) : (s.msi v).issue = s.issue := by
  unfold State.msi; split
  · split <;> rfl
  · rfl
@[simp] theorem State.msi_agenda (s : State) (v : Nat) : (s.msi v).agenda = s.agenda := by
  unfold State.msi; split
  · split <;> rfl
  · rfl
@[simp] theorem State.msi_fresh (s : State) (v : Nat) : (s.msi v).fresh = s.fresh := by
  unfold State.msi; split
  · split <;> rfl
  · rfl
@[simp] theorem State.msi_stamp (s : State) (v : Nat) : (s.msi v).stamp = s.stamp := by
  unfold State.msi; split
  · split <;> rfl
  · rfl

/-! ## Reading a core, a team and a group after a change -/

variable (s : State)

@[simp] theorem State.core_setCore_same (c : Nat) (k : Core) : (s.setCore c k).core c = k := by simp [State.core, State.setCore]

theorem State.core_setCore_ne {c d : Nat} (k : Core) (h : d ≠ c) : (s.setCore c k).core d = s.core d := by
  simp [State.core, State.setCore, tblGet_tblSet_ne _ _ _ h]

@[simp] theorem State.core_updCore_same (c : Nat) (f : Core → Core) : (s.updCore c f).core c = f (s.core c) := by
  simp [State.updCore]

theorem State.core_updCore_ne {c d : Nat} (f : Core → Core) (h : d ≠ c) : (s.updCore c f).core d = s.core d := by
  simp [State.updCore, State.core_setCore_ne s _ h]

theorem Core.team_updTeam_same (k : Core) (n : Nat) (f : Team → Team) (h : (tblFind k.teams n).isSome) :
    (k.updTeam n f).team n = f (k.team n) := tblGet_tblAdj_same _ _ _ _ h

theorem Core.team_updTeam_ne (k : Core) {n m : Nat} (f : Team → Team) (h : m ≠ n) : (k.updTeam n f).team m = k.team m :=
  tblGet_tblAdj_ne _ _ _ h

theorem Team.group_updGroup_same (t : Team) (g : Nat) (f : Group → Group) (h : (tblFind t.groups g).isSome) :
    (t.updGroup g f).group g = f (t.group g) := tblGet_tblAdj_same _ _ _ _ h

theorem Team.group_updGroup_ne (t : Team) {g x : Nat} (f : Group → Group) (h : x ≠ g) :
    (t.updGroup g f).group x = t.group x := tblGet_tblAdj_ne _ _ _ h

theorem Group.lane_setLane_same (g : Group) (l : Nat) (x : Lane) : (g.setLane l x).lane l = x := by
  simp [Group.setLane, Group.lane]

theorem Group.lane_setLane_ne (g : Group) {l m : Nat} (x : Lane) (h : m ≠ l) : (g.setLane l x).lane m = g.lane m := by
  simp [Group.setLane, Group.lane, tblGet_tblSet_ne _ _ _ h]

theorem Group.lane_mapLanes (g : Group) (ls : List Nat) (f : Nat → Lane → Lane) (l : Nat) (h : (tblFind g.lanes l).isSome) :
    (g.mapLanes ls f).lane l = if ls.contains l then f l (g.lane l) else g.lane l := by
  simp only [Group.mapLanes, Group.lane, tblGet_tblMap _ _ _ _ h]

theorem Group.lane_mapLanes_out (g : Group) (ls : List Nat) (f : Nat → Lane → Lane) (l : Nat) (h : l ∉ ls) :
    (g.mapLanes ls f).lane l = g.lane l := by
  have : ls.contains l = false := by simpa using h
  simp only [Group.mapLanes, Group.lane]
  exact tblGet_tblMap_id _ _ _ _ (fun x => by simp only [this, Bool.false_eq_true, if_false])

/-! ## A lane after a write -/

@[simp] theorem Lane.reg_setReg_same (x : Lane) (r : Nat) (v : Word) : (x.setReg r v).reg r = v := by simp [Lane.reg, Lane.setReg]

theorem Lane.reg_setReg_ne (x : Lane) {r q : Nat} (v : Word) (h : q ≠ r) : (x.setReg r v).reg q = x.reg q := by
  simp [Lane.reg, Lane.setReg, tblGet_tblSet_ne _ _ _ h]

@[simp] theorem Lane.setReg_pc (x : Lane) (r : Nat) (v : Word) : (x.setReg r v).pc = x.pc := rfl
@[simp] theorem Lane.setReg_guards (x : Lane) (r : Nat) (v : Word) : (x.setReg r v).guards = x.guards := rfl
@[simp] theorem Lane.setReg_flags (x : Lane) (r : Nat) (v : Word) : (x.setReg r v).flags = x.flags := rfl
@[simp] theorem Lane.setGuard_regs (x : Lane) (g : Nat) (b : Bool) : (x.setGuard g b).regs = x.regs := rfl
@[simp] theorem Lane.setGuard_pc (x : Lane) (g : Nat) (b : Bool) : (x.setGuard g b).pc = x.pc := rfl
@[simp] theorem Lane.goto_pc (x : Lane) (p : PAddr) : (x.goto p).pc = p := rfl
@[simp] theorem Lane.goto_regs (x : Lane) (p : PAddr) : (x.goto p).regs = x.regs := rfl
@[simp] theorem Lane.goto_reg (x : Lane) (p : PAddr) (r : Nat) : (x.goto p).reg r = x.reg r := rfl
@[simp] theorem Lane.goto_guards (x : Lane) (p : PAddr) : (x.goto p).guards = x.guards := rfl
@[simp] theorem Lane.goto_flags (x : Lane) (p : PAddr) : (x.goto p).flags = x.flags := rfl

end Sys2Proof.Machine
end

