-- ==== Sys2Proof/Laws/Lanes.lean ====
section
/-! SUPPORT. What the shared operations on issuing lanes do: a change of the issuing group's lanes touches nothing else; every
issuing lane makes its change and advances, or parks on a full flag; an instruction whose checks pass goes on. -/

namespace Sys2Proof.Machine

/-! ## Lane masks -/

theorem mem_lanesOf {m : LaneMask} {l : Nat} : l ∈ lanesOf m ↔ l < 32 ∧ m.getLsbD l = true := by
  simp [lanesOf]

theorem State.mem_issLanes {s : State} {l : Nat} : l ∈ s.issLanes ↔ l < 32 ∧ s.issue.lanes.getLsbD l = true := mem_lanesOf

theorem State.issLanes_lt {s : State} {l : Nat} (h : l ∈ s.issLanes) : l < 32 := (State.mem_issLanes.mp h).1

/-- With no lane of the mask set there is none to list. -/
@[simp] theorem lanesOf_zero : lanesOf 0#32 = [] := by simp [lanesOf]

theorem State.lanes_ne_zero {s : State} {l : Nat} (h : l ∈ s.issLanes) : s.issue.lanes ≠ 0 := by
  intro e
  have := (State.mem_issLanes.mp h).2
  simp [e] at this

/-! ## A change of the issuing group -/

/-- The group that issues, after a change of it. -/
theorem State.group_updIssGroup {s : State} (h : s.Issuing) (f : Group → Group) :
    (s.updIssGroup f).group s.issue.core s.issue.slot s.issue.group = f s.issGroup := by
  have ht : (tblFind (s.core s.issue.core).teams s.issue.slot).isSome := h.team
  have hg : (tblFind ((s.core s.issue.core).team s.issue.slot).groups s.issue.group).isSome := h.group
  simp only [State.updIssGroup, State.updGroup, State.updTeam, State.group, State.team, State.core_updCore_same,
    Core.team_updTeam_same _ _ _ ht, Team.group_updGroup_same _ _ _ hg]
  rfl

theorem State.team_updIssGroup {s : State} (h : s.Issuing) (f : Group → Group) :
    (s.updIssGroup f).team s.issue.core s.issue.slot = s.issTeam.updGroup s.issue.group f := by
  have ht : (tblFind (s.core s.issue.core).teams s.issue.slot).isSome := h.team
  simp only [State.updIssGroup, State.updGroup, State.updTeam, State.team, State.core_updCore_same,
    Core.team_updTeam_same _ _ _ ht]
  rfl

/-- A change of the issuing group leaves every part of the machine outside it as it is. -/
theorem State.onlyGroup_updIssGroup {s : State} (h : s.Issuing) (f : Group → Group) : s.OnlyGroup (s.updIssGroup f) where
  out := ⟨rfl, fun c hc => State.core_updCore_ne s _ hc⟩
  core := by
    simp only [State.updIssGroup, State.updGroup, State.updTeam, State.core_updCore_same]; rfl
  teams := fun k hk => by
    simp only [State.updIssGroup, State.updGroup, State.updTeam, State.team, State.core_updCore_same]
    exact Core.team_updTeam_ne _ _ hk
  team := by rw [State.team_updIssGroup h]; rfl
  groups := fun g hg => by
    rw [State.group, State.team_updIssGroup h]; exact Team.group_updGroup_ne _ _ hg

/-- A change of lanes of the issuing group leaves every other part of the machine as it is. -/
theorem State.onlyLanes_mapLanes {s : State} (h : s.Issuing) (ls : List Nat) (f : Nat → Lane → Lane)
    (hl : ∀ l, l ∈ ls → l ∈ s.issLanes) : s.OnlyLanes (s.updIssGroup fun g => g.mapLanes ls f) where
  only := State.onlyGroup_updIssGroup h _
  group := by rw [State.group_updIssGroup h]; rfl
  lanes := fun l hl' => by
    rw [State.laneIn, State.group_updIssGroup h]
    exact Group.lane_mapLanes_out _ _ _ _ fun hm => hl' (hl l hm)

/-- Every issuing lane makes its change; nothing else changes. -/
theorem State.mapLanes_changes {s : State} (h : s.Issuing) (f : Nat → Lane → Lane) :
    s.Changes (s.updIssGroup fun g => g.mapLanes s.issLanes f) f where
  only := State.onlyLanes_mapLanes h _ _ fun _ hl => hl
  done := fun l hl => by
    have hc : s.issLanes.contains l = true := by simpa using hl
    rw [State.laneIn, State.group_updIssGroup h, Group.lane_mapLanes _ _ _ _ (h.lanes l (State.issLanes_lt hl)), hc]
    rfl

/-- Every issuing lane performs its change and advances; nothing else changes. -/
theorem State.runLanes_performs {s : State} (h : s.Issuing) (flag : FlagSel) (f : Nat → Lane → Lane) :
    s.Performs (s.runLanes flag f) flag f where
  only := State.onlyLanes_mapLanes h _ _ fun _ hl => hl
  full := fun l hl hf => by
    have hc : s.issLanes.contains l = true := by simpa using hl
    rw [State.laneIn, State.runLanes, State.group_updIssGroup h,
      Group.lane_mapLanes _ _ _ _ (h.lanes l (State.issLanes_lt hl)), hc]
    simp only [if_true]
    show (s.issLane l).perform flag s.nextPc (f l) = _
    simp [Lane.perform, hf]
  done := fun l hl hf => by
    have hc : s.issLanes.contains l = true := by simpa using hl
    rw [State.laneIn, State.runLanes, State.group_updIssGroup h,
      Group.lane_mapLanes _ _ _ _ (h.lanes l (State.issLanes_lt hl)), hc]
    simp only [if_true]
    show (s.issLane l).perform flag s.nextPc (f l) = _
    simp [Lane.perform, hf]

/-- With no lane issuing, an instruction changes nothing, and performs that. -/
theorem State.performs_of_no_lanes {s : State} (h : s.issue.lanes = 0) (flag : FlagSel) (f : Nat → Lane → Lane) :
    s.Performs s flag f := by
  have e : s.issLanes = [] := by simp [State.issLanes, h]
  exact ⟨⟨⟨⟨rfl, fun _ _ => rfl⟩, rfl, fun _ _ => rfl, rfl, fun _ _ => rfl⟩, rfl, fun _ _ => rfl⟩, by simp [e], by simp [e]⟩

/-! ## Checks -/

@[simp] theorem firstFault_nil : firstFault [] = none := rfl
@[simp] theorem firstFault_none (t : List (Option FaultInfo)) : firstFault (none :: t) = firstFault t := rfl
@[simp] theorem firstFault_some (f : FaultInfo) (t : List (Option FaultInfo)) : firstFault (some f :: t) = some f := rfl
@[simp] theorem State.demand_true (s : State) (c a : Nat) : s.demand true c a = none := rfl

/-- An instruction whose checks pass goes on to its own effect. -/
theorem State.orFault_pass {s : State} {cs : List (Option FaultInfo)} {k : State} (h : s.issue.lanes ≠ 0)
    (hc : firstFault cs = none) : s.orFault cs k = k := by rw [State.orFault, if_neg h, hc]

/-- An instruction that fails a check raises the first fault of its checks and does nothing else. -/
theorem State.orFault_fail {s : State} {cs : List (Option FaultInfo)} {k : State} {f : FaultInfo} (h : s.issue.lanes ≠ 0)
    (hc : firstFault cs = some f) : s.orFault cs k = s.raise f := by rw [State.orFault, if_neg h, hc]

/-- An instruction of lane results performs them when its checks pass. -/
theorem State.orFault_performs {s : State} (h : s.Issuing) {cs : List (Option FaultInfo)} (hc : firstFault cs = none)
    (flag : FlagSel) (f : Nat → Lane → Lane) : s.Performs (s.orFault cs (s.runLanes flag f)) flag f := by
  by_cases hz : s.issue.lanes = 0
  · simpa [State.orFault, hz] using State.performs_of_no_lanes hz flag f
  · rw [State.orFault_pass hz hc]; exact State.runLanes_performs h flag f

/-- The register checks pass when each of them does. -/
theorem State.regForm_pass {s : State} {n : Nat} {dst : BitVec 10} {srcs : List (Nat × Src)}
    (hd : s.regsOk n dst.toNat = true) (hs : ∀ c ∈ srcs, s.srcOk c.1 c.2 = true) : s.regForm n dst srcs = none := by
  have : (s.regsOk n dst.toNat :: srcs.map fun c => s.srcOk c.1 c.2).all id = true := by
    simp only [List.all_cons, id, hd, Bool.true_and, List.all_map, List.all_eq_true]
    exact hs
  simp [State.regForm, State.operands, State.demand, this]

/-- The same for a guard destination. -/
theorem State.guardForm_pass {s : State} {dst : BitVec 10} {srcs : List (Nat × Src)} (hd : dst.toNat < 7)
    (hs : ∀ c ∈ srcs, s.srcOk c.1 c.2 = true) : s.guardForm dst srcs = none := by
  have : (decide (dst.toNat < 7) :: srcs.map fun c => s.srcOk c.1 c.2).all id = true := by
    simp only [List.all_cons, id, hd, decide_true, Bool.true_and, List.all_map, List.all_eq_true]
    exact hs
  simp [State.guardForm, State.operands, State.demand, this]

/-- A register result of width W is written by `putW` in each lane. -/
theorem State.putW_eq (s : State) (flag : FlagSel) (w64 : Bool) (dst : BitVec 10) (v : Nat → Nat) :
    s.putW flag w64 dst v = s.runLanes flag fun l x => x.putW w64 dst (v l) := by
  cases w64 <;> rfl

end Sys2Proof.Machine
end

