-- ==== Sys2Proof/Laws/Memory.lean ====
section
/-! SUPPORT. Memories: every operation keeps the canonical form, a byte written is read back, and every other byte is
as before. -/

namespace Sys2Proof.Machine

theorem memAbove_mono {n m : Nat} {t : Memory} (h : memAbove m t = true) (hn : n ≤ m) : memAbove n t = true := by
  cases t with
  | nil => rfl
  | cons c t =>
    obtain ⟨k, b⟩ := c
    simp only [memAbove, Bool.and_eq_true, decide_eq_true_eq] at h ⊢
    exact ⟨⟨by omega, h.1.2⟩, h.2⟩

/-- Nothing at or below the bound is listed. -/
theorem memGet_of_above {n : Nat} {t : Memory} (h : memAbove n t = true) {a : Nat} (ha : a ≤ n) : memGet t a = 0 := by
  induction t generalizing n with
  | nil => rfl
  | cons c t ih =>
    obtain ⟨k, b⟩ := c
    simp only [memAbove, Bool.and_eq_true, decide_eq_true_eq] at h
    have hk : a ≠ k := by omega
    simpa [memGet, tblGet, hk] using ih (n := k) h.2 (by omega)

theorem memAbove_tblDel {n : Nat} {t : Memory} (a : Nat) (h : memAbove n t = true) : memAbove n (tblDel t a) = true := by
  induction t generalizing n with
  | nil => rfl
  | cons c t ih =>
    obtain ⟨k, d⟩ := c
    simp only [memAbove, Bool.and_eq_true, decide_eq_true_eq] at h
    simp only [tblDel]
    split
    · exact memAbove_mono (ih h.2) (by omega)
    · simp only [memAbove, Bool.and_eq_true, decide_eq_true_eq]
      exact ⟨h.1, ih h.2⟩

theorem memAbove_tblSet {n : Nat} {t : Memory} {a : Nat} {b : Byte} (h : memAbove n t = true) (ha : n < a) (hb : b ≠ 0) :
    memAbove n (tblSet t a b) = true := by
  induction t generalizing n with
  | nil => simp_all [tblSet, memAbove]
  | cons c t ih =>
    obtain ⟨k, d⟩ := c
    simp only [memAbove, Bool.and_eq_true, decide_eq_true_eq, bne_iff_ne, ne_eq] at h
    simp only [tblSet]
    split
    · simp_all [memAbove]
    · split
      · rename_i e; subst e; simp_all [memAbove]
      · have := ih (n := k) h.2 (by omega)
        simp_all [memAbove]

/-- Writing a byte keeps the canonical form. -/
theorem wf_memSet {m : Memory} (h : m.wf = true) (a : Nat) (b : Byte) : (memSet m a b).wf = true := by
  unfold memSet
  cases m with
  | nil => split <;> simp_all [Memory.wf, memAbove, tblDel, tblSet]
  | cons c t =>
    obtain ⟨k, d⟩ := c
    simp only [Memory.wf, Bool.and_eq_true, bne_iff_ne, ne_eq] at h
    split
    · have := memAbove_tblDel a h.2
      simp only [tblDel]
      split
      · revert this
        generalize tblDel t a = u
        intro hu
        cases u with
        | nil => rfl
        | cons e u => obtain ⟨x, y⟩ := e; simp_all [Memory.wf, memAbove]
      · simp_all [Memory.wf]
    · simp only [tblSet]
      split
      · simp_all [Memory.wf, memAbove]
      · split
        · rename_i e; subst e; simp_all [Memory.wf]
        · have : memAbove k (tblSet t a b) = true := memAbove_tblSet h.2 (by omega) (by simpa)
          simp_all [Memory.wf]

/-- Writing bytes keeps the canonical form. -/
theorem wf_memWrite {m : Memory} (h : m.wf = true) (a : Nat) (bs : List Byte) : (memWrite m a bs).wf = true := by
  induction bs generalizing m a with
  | nil => exact h
  | cons b t ih => exact ih (wf_memSet h a b) (a + 1)

theorem memAbove_filter {n : Nat} {t : Memory} (p : Host.Cell → Bool) (h : memAbove n t = true) :
    memAbove n (t.filter p) = true := by
  induction t generalizing n with
  | nil => rfl
  | cons c t ih =>
    obtain ⟨k, d⟩ := c
    simp only [memAbove, Bool.and_eq_true, decide_eq_true_eq] at h
    rw [List.filter_cons]
    split
    · simp only [memAbove, Bool.and_eq_true, decide_eq_true_eq]
      exact ⟨h.1, ih h.2⟩
    · exact memAbove_mono (ih h.2) (by omega)

/-- Forgetting bytes keeps the canonical form. -/
theorem wf_memErase {m : Memory} (h : m.wf = true) (a n : Nat) : (memErase m a n).wf = true := by
  unfold memErase
  cases m with
  | nil => rfl
  | cons c t =>
    obtain ⟨k, d⟩ := c
    simp only [Memory.wf, Bool.and_eq_true] at h
    have ht := fun p => memAbove_filter p h.2
    rw [List.filter_cons]
    split
    · simp only [Memory.wf, Bool.and_eq_true]
      exact ⟨h.1, ht _⟩
    · have := ht fun c => !(decide (a ≤ c.1) && decide (c.1 < a + n))
      revert this
      generalize List.filter _ t = u
      intro hu
      cases u with
      | nil => rfl
      | cons e u => obtain ⟨x, y⟩ := e; simp_all [Memory.wf, memAbove]

/-- A byte reads back as written, and every other byte as before. -/
theorem memGet_memSet (m : Memory) (a : Nat) (b : Byte) (x : Nat) :
    memGet (memSet m a b) x = if x = a then b else memGet m x := by
  unfold memSet memGet
  by_cases hb : b = 0
  · simp only [hb, if_true, tblGet_eq_find]
    by_cases hx : x = a
    · subst hx; simp
    · simp [tblFind_tblDel_ne m hx, hx]
  · simp only [hb, if_false, tblGet_tblSet]

/-- Bytes read back as written, and every byte outside them as before. -/
theorem memGet_memWrite (m : Memory) (a : Nat) (bs : List Byte) (x : Nat) :
    memGet (memWrite m a bs) x = if a ≤ x ∧ x < a + bs.length then bs.getD (x - a) 0 else memGet m x := by
  induction bs generalizing m a with
  | nil =>
    have : ¬(a ≤ x ∧ x < a + ([] : List Byte).length) := by simp
    rw [if_neg this]; rfl
  | cons b t ih =>
    simp only [memWrite, ih, memGet_memSet, List.length_cons]
    by_cases h1 : x = a
    · subst h1
      have h2 : ¬(x + 1 ≤ x ∧ x < x + 1 + t.length) := by omega
      have h3 : x ≤ x ∧ x < x + (t.length + 1) := by omega
      rw [if_neg h2, if_pos rfl, if_pos h3]; simp
    · by_cases h2 : a + 1 ≤ x ∧ x < a + 1 + t.length
      · have h3 : a ≤ x ∧ x < a + (t.length + 1) := by omega
        have e : x - a = (x - (a + 1)) + 1 := by omega
        simp [h2, h3, e]
      · have h3 : ¬(a ≤ x ∧ x < a + (t.length + 1)) := by omega
        rw [if_neg h2, if_neg h3, if_neg h1]

/-- Bytes forgotten read 0, every other byte as before. -/
theorem memGet_memErase (m : Memory) (a n x : Nat) :
    memGet (memErase m a n) x = if a ≤ x ∧ x < a + n then 0 else memGet m x := by
  unfold memErase memGet
  induction m with
  | nil => simp [tblGet]
  | cons c t ih =>
    obtain ⟨k, d⟩ := c
    rw [List.filter_cons]
    by_cases hk : a ≤ k ∧ k < a + n
    · have : (!(decide (a ≤ k) && decide (k < a + n))) = false := by simp [hk]
      simp only [this, Bool.false_eq_true, if_false, ih, tblGet]
      by_cases hx : x = k
      · subst hx; simp [hk]
      · simp [hx]
    · have : (!(decide (a ≤ k) && decide (k < a + n))) = true := by
        simp only [Bool.not_eq_true', Bool.and_eq_false_iff, decide_eq_false_iff_not]; omega
      simp only [this, if_true, tblGet, ih]
      by_cases hx : x = k
      · subst hx; simp [hk]
      · simp [hx]

theorem memRead_length (m : Memory) (a n : Nat) : (memRead m a n).length = n := by
  induction n generalizing a with
  | zero => rfl
  | succ n ih => simp [memRead, ih]

theorem memRead_getD (m : Memory) (a n i : Nat) (h : i < n) : (memRead m a n).getD i 0 = memGet m (a + i) := by
  induction n generalizing a i with
  | zero => omega
  | succ n ih =>
    cases i with
    | zero => simp [memRead]
    | succ i =>
      have := ih (a + 1) i (by omega)
      simp only [memRead, List.getD_cons_succ, this]
      congr 1; omega

/-- What is written is read back. -/
theorem memRead_memWrite (m : Memory) (a : Nat) (bs : List Byte) :
    memRead (memWrite m a bs) a bs.length = bs := by
  apply List.ext_getElem (by simp [memRead_length])
  intro i h1 h2
  have e := memRead_getD (memWrite m a bs) a bs.length i h2
  rw [memGet_memWrite, if_pos (by omega), show a + i - a = i by omega] at e
  simpa [List.getD, h1, h2] using e

/-- The little-endian bytes of a number are read back as the number. -/
theorem leNat_natLe (n x : Nat) : leNat (natLe x n) = x % 256 ^ n := by
  induction n generalizing x with
  | zero => simp [natLe, leNat, Nat.mod_one]
  | succ n ih =>
    have e : (BitVec.ofNat 8 (x % 256)).toNat = x % 256 := by
      rw [BitVec.toNat_ofNat]; exact Nat.mod_eq_of_lt (by omega)
    rw [natLe, leNat, ih, e, Nat.pow_succ', Nat.mod_mul]

@[simp] theorem natLe_length (x n : Nat) : (natLe x n).length = n := by
  induction n generalizing x with
  | zero => rfl
  | succ n ih => simp [natLe, ih]

end Sys2Proof.Machine
end

