-- ==== Sys2Proof/Laws/PerInstr.lean ====
section
/-! SUPPORT. The family Majors: what the encoder writes for an instruction is of the format that the opcode map gives its major
(Table 9.8). An event has no encoding. -/

namespace Sys2Proof.Laws.Majors

/-- The encoder's raw fields, other than a prefix's, are of the format of their major. -/
def Statement (i : Instr) : Prop :=
  ∀ r, i.toRaw = some r → r.fmt ≠ .p → formatOf r.mj.toNat = some r.fmt

theorem of_format {i : Instr} {q : Raw} (h : i.toRaw = some q) (hf : formatOf q.mj.toNat = some q.fmt) : Statement i := by
  intro r hr _; rw [h] at hr; cases hr; exact hf

theorem of_event {i : Instr} (h : i.toRaw = none) : Statement i := by
  intro r hr; simp [h] at hr

theorem of_prefix {i : Instr} {q : Raw} (h : i.toRaw = some q) (hf : q.fmt = .p) : Statement i := by
  intro r hr hn; rw [h] at hr; cases hr; exact absurd hf hn

theorem nop : Statement .nop := of_format rfl rfl
theorem bra (g : Pred) (off : BitVec 18) : Statement (.bra g off) := of_format rfl rfl
theorem brr (a : Src) : Statement (.brr a) := of_format rfl rfl
theorem call (g : Pred) (off : BitVec 18) : Statement (.call g off) := of_format rfl rfl
theorem callr (a : Src) : Statement (.callr a) := of_format rfl rfl
theorem ret : Statement .ret := of_format rfl rfl
theorem exit : Statement .exit := of_format rfl rfl
theorem yield : Statement .yield := of_format rfl rfl
theorem flwait (mask : BitVec 12) : Statement (.flwait mask) := of_format rfl rfl
theorem pxLit (lit : BitVec 28) : Statement (.pxLit lit) := of_prefix rfl rfl
theorem pxScope (o : MemOrd) (s : Scope) : Statement (.pxScope o s) := of_prefix rfl rfl
theorem pxTile (twc : BitVec 3) : Statement (.pxTile twc) := of_prefix rfl rfl
theorem add (f : VBin) : Statement (.add f) := of_format rfl rfl
theorem sub (f : VBin) : Statement (.sub f) := of_format rfl rfl
theorem mul (f : VBin) : Statement (.mul f) := of_format rfl rfl
theorem mulhi (f : VBin) : Statement (.mulhi f) := of_format rfl rfl
theorem mad (f : TInt) : Statement (.mad f) := of_format rfl rfl
theorem min (f : VBin) : Statement (.min f) := of_format rfl rfl
theorem max (f : VBin) : Statement (.max f) := of_format rfl rfl
theorem abs (f : VUn) : Statement (.abs f) := of_format rfl rfl
theorem neg (f : VUn) : Statement (.neg f) := of_format rfl rfl
theorem div (f : VBin) : Statement (.div f) := of_format rfl rfl
theorem rem (f : VBin) : Statement (.rem f) := of_format rfl rfl
theorem sad (f : TInt) : Statement (.sad f) := of_format rfl rfl
theorem mulw (f : VBin) : Statement (.mulw f) := of_format rfl rfl
theorem and (f : VBin) : Statement (.and f) := of_format rfl rfl
theorem or (f : VBin) : Statement (.or f) := of_format rfl rfl
theorem xor (f : VBin) : Statement (.xor f) := of_format rfl rfl
theorem not (f : VUn) : Statement (.not f) := of_format rfl rfl
theorem shl (f : VBin) : Statement (.shl f) := of_format rfl rfl
theorem shr (f : VBin) : Statement (.shr f) := of_format rfl rfl
theorem sar (f : VBin) : Statement (.sar f) := of_format rfl rfl
theorem rotl (f : VBin) : Statement (.rotl f) := of_format rfl rfl
theorem popc (f : VUn) : Statement (.popc f) := of_format rfl rfl
theorem clz (f : VUn) : Statement (.clz f) := of_format rfl rfl
theorem brev (f : VUn) : Statement (.brev f) := of_format rfl rfl
theorem bfe (f : TInt) : Statement (.bfe f) := of_format rfl rfl
theorem bfi (f : TInt) : Statement (.bfi f) := of_format rfl rfl
theorem lea (f : TInt) (k : BitVec 3) : Statement (.lea f k) := of_format rfl rfl
theorem fsh (f : TInt) : Statement (.fsh f) := of_format rfl rfl
theorem perm (f : TInt) : Statement (.perm f) := of_format rfl rfl
theorem lop3 (f : TInt) (tt : BitVec 8) : Statement (.lop3 f tt) := of_format rfl rfl
theorem addi (f : IForm) : Statement (.addi f) := of_format rfl rfl
theorem muli (f : IForm) : Statement (.muli f) := of_format rfl rfl
theorem andi (f : IForm) : Statement (.andi f) := of_format rfl rfl
theorem ori (f : IForm) : Statement (.ori f) := of_format rfl rfl
theorem xori (f : IForm) : Statement (.xori f) := of_format rfl rfl
theorem shli (f : IForm) : Statement (.shli f) := of_format rfl rfl
theorem shri (f : IForm) : Statement (.shri f) := of_format rfl rfl
theorem sari (f : IForm) : Statement (.sari f) := of_format rfl rfl
theorem movi (f : IForm) : Statement (.movi f) := of_format rfl rfl
theorem mov (f : VUn) : Statement (.mov f) := of_format rfl rfl
theorem gtag (dst : BitVec 10) (a : Src) (tag : BitVec 20) : Statement (.gtag dst a tag) := of_format rfl rfl
theorem icmp (h : VHead) (cond : Cond) (t : ITy) (op : Comb) (gc : Pred) (a b : Src) : Statement (.icmp h cond t op gc a b) := of_format rfl rfl
theorem fcmp (h : VHead) (cond : Cond) (ty : FTy) (op : Comb) (gc : Pred) (a b : Src) : Statement (.fcmp h cond ty op gc a b) := of_format rfl rfl
theorem icmpi (dst : BitVec 10) (cond : Cond) (t : ITy) (a : Src) (imm : BitVec 20) : Statement (.icmpi dst cond t a imm) := of_format rfl rfl
theorem gop (h : VHead) (op : GOp) (ga gb : Pred) : Statement (.gop h op ga gb) := of_format rfl rfl
theorem gmov (h : VHead) (m : GMov) : Statement (.gmov h m) := by cases m <;> exact of_format rfl rfl
theorem sel (f : SForm) : Statement (.sel f) := of_format rfl rfl
theorem fclass (h : VHead) (ty : FTy) (a : Src) (mask : BitVec 9) : Statement (.fclass h ty a mask) := of_format rfl rfl
theorem cvt (h : VHead) (d s : CTy) (rnd : Rnd) (ct : BitVec 2) (a : Src) : Statement (.cvt h d s rnd ct a) := of_format rfl rfl
theorem cvtpk (h : VHead) (d s : CTy) (rnd : Rnd) (p : BitVec 2) (a b : Src) : Statement (.cvtpk h d s rnd p a b) := of_format rfl rfl
theorem unpk (h : VHead) (d s : CTy) (e : BitVec 4) (a : Src) : Statement (.unpk h d s e a) := of_format rfl rfl
theorem lut (h : VHead) (n : BitVec 2) (p : BitVec 2) (f16 : Bool) (a : Src) : Statement (.lut h n p f16 a) := of_format rfl rfl
theorem frnd (h : VHead) (ty : FTy) (rnd : Rnd) (a : Src) : Statement (.frnd h ty rnd a) := of_format rfl rfl
theorem rq (h : VHead) (ty : RqTy) (rnd : Rnd) (sh e : BitVec 5) (a b c : Src) : Statement (.rq h ty rnd sh e a b c) := of_format rfl rfl
theorem fadd (f : FBin) : Statement (.fadd f) := of_format rfl rfl
theorem fsub (f : FBin) : Statement (.fsub f) := of_format rfl rfl
theorem fmul (f : FBin) : Statement (.fmul f) := of_format rfl rfl
theorem fma (f : FTri) : Statement (.fma f) := of_format rfl rfl
theorem fmin (f : FBin) : Statement (.fmin f) := of_format rfl rfl
theorem fmax (f : FBin) : Statement (.fmax f) := of_format rfl rfl
theorem fabs (f : FUn) : Statement (.fabs f) := of_format rfl rfl
theorem fneg (f : FUn) : Statement (.fneg f) := of_format rfl rfl
theorem fcpsgn (f : FBin) : Statement (.fcpsgn f) := of_format rfl rfl
theorem fadd2 (f : FBin) : Statement (.fadd2 f) := of_format rfl rfl
theorem fmul2 (f : FBin) : Statement (.fmul2 f) := of_format rfl rfl
theorem fma2 (f : FTri) : Statement (.fma2 f) := of_format rfl rfl
theorem fmin2 (f : FBin) : Statement (.fmin2 f) := of_format rfl rfl
theorem fmax2 (f : FBin) : Statement (.fmax2 f) := of_format rfl rfl
theorem fdot2 (f : FTri) : Statement (.fdot2 f) := of_format rfl rfl
theorem rcp (f : FUn) : Statement (.rcp f) := of_format rfl rfl
theorem rsqrt (f : FUn) : Statement (.rsqrt f) := of_format rfl rfl
theorem sqrt (f : FUn) : Statement (.sqrt f) := of_format rfl rfl
theorem exp2 (f : FUn) : Statement (.exp2 f) := of_format rfl rfl
theorem log2 (f : FUn) : Statement (.log2 f) := of_format rfl rfl
theorem sin (f : FUn) : Statement (.sin f) := of_format rfl rfl
theorem cos (f : FUn) : Statement (.cos f) := of_format rfl rfl
theorem tanh (f : FUn) : Statement (.tanh f) := of_format rfl rfl
theorem sfuComplete (core op : Nat) : Statement (.sfuComplete core op) := of_event rfl
theorem shfl (h : VHead) (mode : ShflMode) (w64 : Bool) (gv : BitVec 3) (a b : Src) : Statement (.shfl h mode w64 gv a b) := of_format rfl rfl
theorem vote (h : VHead) (mode : VoteMode) (ga : Pred) : Statement (.vote h mode ga) := of_format rfl rfl
theorem red (h : VHead) (op : RedOp) (ty : RedTy) (rnd : Rnd) (a : Src) : Statement (.red h op ty rnd a) := of_format rfl rfl
theorem scan (h : VHead) (op : RedOp) (ty : RedTy) (rnd : Rnd) (excl : Bool) (a : Src) : Statement (.scan h op ty rnd excl a) := of_format rfl rfl
theorem twset (tw : BitVec 20) : Statement (.twset tw) := of_format rfl rfl
theorem matchLanes (h : VHead) (w64 : Bool) (a : Src) : Statement (.matchLanes h w64 a) := of_format rfl rfl
theorem ld (f : MForm) : Statement (.ld f) := of_format rfl rfl
theorem st (f : MForm) : Statement (.st f) := of_format rfl rfl
theorem faa (f : AForm) (ty : AtTy) : Statement (.faa f ty) := of_format rfl rfl
theorem atom (f : AForm) (op : AtomOp) (ty : AtomTy) : Statement (.atom f op ty) := of_format rfl rfl
theorem cas (f : AForm) (ty : AtTy) : Statement (.cas f ty) := of_format rfl rfl
theorem fence (o : MemOrd) (s : Scope) : Statement (.fence o s) := of_format rfl rfl
theorem cachePin (h : VHead) (a : Src) : Statement (.cachePin h a) := of_format rfl rfl
theorem cacheUnpin (h : VHead) (a : Src) : Statement (.cacheUnpin h a) := of_format rfl rfl
theorem cpy (flag : FlagSel) (sz : BitVec 2) (dst src : Src) : Statement (.cpy flag sz dst src) := of_format rfl rfl
theorem cpySeal : Statement .cpySeal := of_format rfl rfl
theorem cpyWait (n : BitVec 4) (ge : BitVec 3) : Statement (.cpyWait n ge) := of_format rfl rfl
theorem tcpy (f : TcpyForm) : Statement (.tcpy f) := of_format rfl rfl
theorem bar (b : BitVec 4) (mode : BarMode) : Statement (.bar b mode) := of_format rfl rfl
theorem ringWait (h : VHead) (ring : BitVec 3) (empty v : Bool) (stage : Src) : Statement (.ringWait h ring empty v stage) := of_format rfl rfl
theorem ringArrive (h : VHead) (ring : BitVec 3) (empty : Bool) (stage : Src) : Statement (.ringArrive h ring empty stage) := of_format rfl rfl
theorem tlwait (h : VHead) (sel : BitVec 7) (s : Scope) (n : Src) : Statement (.tlwait h sel s n) := of_format rfl rfl
theorem attach (h : VHead) (role : Role) : Statement (.attach h role) := of_format rfl rfl
theorem detach : Statement .detach := of_format rfl rfl
theorem shrinkq (h : VHead) : Statement (.shrinkq h) := of_format rfl rfl
theorem launch (dst : BitVec 10) (rec queue : Src) : Statement (.launch dst rec queue) := of_format rfl rfl
theorem mma (f : MmaForm) : Statement (.mma f) := of_format rfl rfl
theorem mmaLdb (f : LdbForm) : Statement (.mmaLdb f) := of_format rfl rfl
theorem sclPush (h : VHead) (m s : Src) : Statement (.sclPush h m s) := of_format rfl rfl
theorem ctSet (h : VHead) (n : BitVec 2) (a : Src) : Statement (.ctSet h n a) := of_format rfl rfl
theorem gangSet (h : VHead) (a : Src) : Statement (.gangSet h a) := of_format rfl rfl
theorem acc (f : AccForm) : Statement (.acc f) := of_format rfl rfl
theorem epiLd (flag : FlagSel) (a : Src) : Statement (.epiLd flag a) := of_format rfl rfl
theorem epiRun (f : EpiForm) : Statement (.epiRun f) := of_format rfl rfl
theorem trap (code : BitVec 16) : Statement (.trap code) := of_format rfl rfl
theorem rtrap : Statement .rtrap := of_format rfl rfl
theorem brk (code : BitVec 16) : Statement (.brk code) := of_format rfl rfl
theorem sleepNs (h : VHead) (d : Src) : Statement (.sleepNs h d) := of_format rfl rfl
theorem waitNs (h : VHead) (d : Src) : Statement (.waitNs h d) := of_format rfl rfl
theorem ntHintEnter : Statement .ntHintEnter := of_format rfl rfl
theorem ntHintLeave : Statement .ntHintLeave := of_format rfl rfl
theorem boost (h : VHead) (p t : Src) : Statement (.boost h p t) := of_format rfl rfl
theorem wearRd (h : VHead) (s : Src) : Statement (.wearRd h s) := of_format rfl rfl
theorem sealPut (h : VHead) (a n : Src) : Statement (.sealPut h a n) := of_format rfl rfl
theorem accessPerform (core id : Nat) : Statement (.accessPerform core id) := of_event rfl
theorem releasePoint (core id : Nat) : Statement (.releasePoint core id) := of_event rfl
theorem acquirePoint (core id : Nat) : Statement (.acquirePoint core id) := of_event rfl
theorem fill (l1 sector : Nat) : Statement (.fill l1 sector) := of_event rfl
theorem evict (l1 sector : Nat) : Statement (.evict l1 sector) := of_event rfl
theorem loadComplete (core op : Nat) : Statement (.loadComplete core op) := of_event rfl
theorem atomicReply (core op : Nat) : Statement (.atomicReply core op) := of_event rfl
theorem walkComplete (core ctx vpn : Nat) : Statement (.walkComplete core ctx vpn) := of_event rfl
theorem sweepComplete (page : Nat) : Statement (.sweepComplete page) := of_event rfl
theorem scratchLineZeroed (core line : Nat) : Statement (.scratchLineZeroed core line) := of_event rfl
theorem remoteScratchRequest (core id : Nat) : Statement (.remoteScratchRequest core id) := of_event rfl
theorem cread (core copy unit : Nat) : Statement (.cread core copy unit) := of_event rfl
theorem cwrite (core copy unit : Nat) : Statement (.cwrite core copy unit) := of_event rfl
theorem ceRetry (core : Nat) : Statement (.ceRetry core) := of_event rfl
theorem ceAbort (core : Nat) : Statement (.ceAbort core) := of_event rfl
theorem ceAnswerTimeout (core copy : Nat) : Statement (.ceAnswerTimeout core copy) := of_event rfl
theorem mmaLdbComplete (core op : Nat) : Statement (.mmaLdbComplete core op) := of_event rfl
theorem tokenGrant (core : Nat) : Statement (.tokenGrant core) := of_event rfl
theorem engineHeldAccept (core : Nat) : Statement (.engineHeldAccept core) := of_event rfl
theorem mmaComplete (core op : Nat) : Statement (.mmaComplete core op) := of_event rfl
theorem ctSetComplete (core op : Nat) : Statement (.ctSetComplete core op) := of_event rfl
theorem epiRunComplete (core op : Nat) : Statement (.epiRunComplete core op) := of_event rfl
theorem sealChunkComplete (grid chunk : Nat) : Statement (.sealChunkComplete grid chunk) := of_event rfl
theorem waitExpire (core guid lane : Nat) : Statement (.waitExpire core guid lane) := of_event rfl
theorem fltRetry (core : Nat) : Statement (.fltRetry core) := of_event rfl
theorem deliver (core : Nat) : Statement (.deliver core) := of_event rfl
theorem fltContinue (core : Nat) : Statement (.fltContinue core) := of_event rfl
theorem killGroup (core : Nat) : Statement (.killGroup core) := of_event rfl
theorem killGrid (core : Nat) : Statement (.killGrid core) := of_event rfl
theorem switchRequestArrival (sw req : Nat) : Statement (.switchRequestArrival sw req) := of_event rfl
theorem combineWindowClose (sw rec : Nat) : Statement (.combineWindowClose sw rec) := of_event rfl
theorem contrailReplySplit (sw rec : Nat) (lost : Bool) : Statement (.contrailReplySplit sw rec lost) := of_event rfl
theorem fabricTimeout (core id : Nat) : Statement (.fabricTimeout core id) := of_event rfl
theorem recordExpire (sw rec : Nat) : Statement (.recordExpire sw rec) := of_event rfl
theorem hostAccess (r : HostReq) : Statement (.hostAccess r) := of_event rfl
theorem hostRegisterAccess (size offset : Nat) (reg : RegName) (index : Nat) (write : Option DWord) : Statement (.hostRegisterAccess size offset reg index write) := of_event rfl
theorem peerRequest (r : PeerReq) : Statement (.peerRequest r) := of_event rfl
theorem flitReplay (port : Nat) (ok : Bool) : Statement (.flitReplay port ok) := of_event rfl
theorem portRetrain (port : Nat) (ok : Bool) : Statement (.portRetrain port ok) := of_event rfl
theorem portDown (port : Nat) : Statement (.portDown port) := of_event rfl
theorem parkReqWrite (port : Nat) (q : BitVec 2) : Statement (.parkReqWrite port q) := of_event rfl
theorem parkAck (port : Nat) : Statement (.parkAck port) := of_event rfl
theorem parkTimeout (port : Nat) : Statement (.parkTimeout port) := of_event rfl
theorem cgtEntryWrite (peer : Nat) (v : DWord) : Statement (.cgtEntryWrite peer v) := of_event rfl
theorem holdTimeout (cluster rank : Nat) : Statement (.holdTimeout cluster rank) := of_event rfl
theorem expansionHotRemove (device : Nat) : Statement (.expansionHotRemove device) := of_event rfl
theorem patrolRead (sector : Nat) : Statement (.patrolRead sector) := of_event rfl
theorem tlbInvPage (ctx : BitVec 16) : Statement (.tlbInvPage ctx) := of_event rfl
theorem tlbInvCtx (ctx : BitVec 16) : Statement (.tlbInvCtx ctx) := of_event rfl
theorem tlbInvAll : Statement .tlbInvAll := of_event rfl
theorem tlbInvNone : Statement .tlbInvNone := of_event rfl
theorem tlbInvComplete : Statement .tlbInvComplete := of_event rfl
theorem scrubSet (count : BitVec 31) : Statement (.scrubSet count) := of_event rfl
theorem l2ModeChange (req : Bool) : Statement (.l2ModeChange req) := of_event rfl
theorem l1ModeSwitch (cluster : Nat) : Statement (.l1ModeSwitch cluster) := of_event rfl
theorem ctxCreate (ctx : BitVec 16) : Statement (.ctxCreate ctx) := of_event rfl
theorem ctxDestroy (ctx : BitVec 16) : Statement (.ctxDestroy ctx) := of_event rfl
theorem lqCfgWrite (q : Nat) (v : DWord) : Statement (.lqCfgWrite q v) := of_event rfl
theorem lqDoorbell (q : Nat) (v : DWord) : Statement (.lqDoorbell q v) := of_event rfl
theorem dispatchTakeRecord (q : Nat) : Statement (.dispatchTakeRecord q) := of_event rfl
theorem gridStart (grid : Nat) : Statement (.gridStart grid) := of_event rfl
theorem teamAdmit : Statement .teamAdmit := of_event rfl
theorem groupGrow (core : Nat) : Statement (.groupGrow core) := of_event rfl
theorem shrinkRequest : Statement .shrinkRequest := of_event rfl
theorem shrinkWaitExpire : Statement .shrinkWaitExpire := of_event rfl
theorem quantumExpire (core slot : Nat) : Statement (.quantumExpire core slot) := of_event rfl
theorem preemptTeam (core slot : Nat) : Statement (.preemptTeam core slot) := of_event rfl
theorem teamRestore : Statement .teamRestore := of_event rfl
theorem coreQuiesce (o : CoreOrder) : Statement (.coreQuiesce o) := of_event rfl
theorem gridEnd (grid : Nat) : Statement (.gridEnd grid) := of_event rfl
theorem throttleWindowEnd (core : Nat) : Statement (.throttleWindowEnd core) := of_event rfl
theorem ntWindowEnd (core : Nat) : Statement (.ntWindowEnd core) := of_event rfl
theorem ratioChange (region : Nat) : Statement (.ratioChange region) := of_event rfl
theorem refLoss (region : Nat) : Statement (.refLoss region) := of_event rfl
theorem refReturn (region : Nat) : Statement (.refReturn region) := of_event rfl
theorem supplyDroop (region : Nat) : Statement (.supplyDroop region) := of_event rfl
theorem throttleCause (region : Nat) (cause : ThrCause) : Statement (.throttleCause region cause) := of_event rfl
theorem pwrTokSizeWrite (v : DWord) : Statement (.pwrTokSizeWrite v) := of_event rfl
theorem wearTick (regions : List RegionSample) (units : List WearSample) : Statement (.wearTick regions units) := of_event rfl
theorem wearCommit : Statement .wearCommit := of_event rfl
theorem powerLoss : Statement .powerLoss := of_event rfl
theorem coreRetire (core spare : Nat) : Statement (.coreRetire core spare) := of_event rfl
theorem boostEvaluate : Statement .boostEvaluate := of_event rfl
theorem boostGrantExpire (grant : Nat) : Statement (.boostGrantExpire grant) := of_event rfl
theorem energyLoRead (die : Nat) (r : Reader) : Statement (.energyLoRead die r) := of_event rfl
theorem energyHiRead (die : Nat) (r : Reader) : Statement (.energyHiRead die r) := of_event rfl
theorem registerWrite (w : Writer) (reg : RegName) (index : Nat) (v : DWord) : Statement (.registerWrite w reg index v) := of_event rfl
theorem getCertificate (slot : Nat) : Statement (.getCertificate slot) := of_event rfl
theorem challenge (slot : Nat) (nonce : Nat) : Statement (.challenge slot nonce) := of_event rfl
theorem getMeasurements (index : Nat) (raw : Bool) (signed : Option Nat) : Statement (.getMeasurements index raw signed) := of_event rfl
theorem keyExchange (session : Nat) : Statement (.keyExchange session) := of_event rfl
theorem finish (session : Nat) : Statement (.finish session) := of_event rfl
theorem setCertificate (slot : Nat) (chain : List Byte) (session : Nat) : Statement (.setCertificate slot chain session) := of_event rfl
theorem endSession (session : Nat) : Statement (.endSession session) := of_event rfl
theorem ideKeyProgram (m : IdeKeyMsg) : Statement (.ideKeyProgram m) := of_event rfl
theorem ideStallTimeout (stream : Nat) : Statement (.ideStallTimeout stream) := of_event rfl
theorem weightKeyInstall (ctx : BitVec 16) (slot : BitVec 4) (key : Option KeyMaterial) (session : Nat) : Statement (.weightKeyInstall ctx slot key session) := of_event rfl
theorem sharedRangeWrite (i : Nat) (v : DWord) (session : Nat) : Statement (.sharedRangeWrite i v session) := of_event rfl
theorem fullReset (cause : ResetCause) : Statement (.fullReset cause) := of_event rfl
theorem devCtlReset (v : DWord) : Statement (.devCtlReset v) := of_event rfl
theorem unassignedEncoding (parcel : Word) : Statement (.unassignedEncoding parcel) := of_event rfl
theorem instructionFetchFault (code : BitVec 8) (addr : DWord) (aux : DWord) : Statement (.instructionFetchFault code addr aux) := of_event rfl
theorem accComplete (core op : Nat) : Statement (.accComplete core op) := of_event rfl
theorem portUp (port : Nat) : Statement (.portUp port) := of_event rfl
theorem farEndParkRequest (port : Nat) (q : BitVec 2) : Statement (.farEndParkRequest port q) := of_event rfl
theorem hostCompletionTimeout (core id : Nat) : Statement (.hostCompletionTimeout core id) := of_event rfl
theorem energyWrap (die : Nat) (units : BitVec 48) : Statement (.energyWrap die units) := of_event rfl
theorem islandPointSettled (core island : Nat) : Statement (.islandPointSettled core island) := of_event rfl
theorem calibrationFactorSet (unit : Nat) (cB cH cE : BitVec 16) : Statement (.calibrationFactorSet unit cB cH cE) := of_event rfl
theorem getVersion : Statement .getVersion := of_event rfl
theorem getCapabilities : Statement .getCapabilities := of_event rfl
theorem negotiateAlgorithms : Statement .negotiateAlgorithms := of_event rfl
theorem getDigests : Statement .getDigests := of_event rfl
theorem bringupReady : Statement .bringupReady := of_event rfl
theorem l2ModeChangeComplete : Statement .l2ModeChangeComplete := of_event rfl
theorem scrubSetComplete : Statement .scrubSetComplete := of_event rfl

end Sys2Proof.Laws.Majors
end

