-- ==== Sys2Proof/Tests/Slice0.lean ====
section
/-! SUPPORT. Tests: what each check of WellFormed refuses; words written out from the encoding tables of spec/ 09 to 13 and what
they decode to; single steps with results worked out from the spec; and, for each statement with hypotheses, a state and operands
that meet them. -/

namespace Sys2Proof.Tests

open Sys2Proof Sys2Proof.Machine

set_option Elab.async false

/-! ## Well-formedness: an ill-formed term for each check -/

/-- Heads that the tests use: FLAG 15 and a destination. -/
def h0 : VHead := ⟨none, 0, 0⟩
def h6 : VHead := ⟨none, 0, 6⟩
def h8 : VHead := ⟨none, 0, 8⟩

theorem test_illFormed_integer :
    ([.add ⟨h6, ⟨false, false⟩, false, .bad 0x41F, .reg 1⟩, .mul ⟨h6, ⟨false, false⟩, true, .reg 0, .reg 1⟩,
      .mulw ⟨h6, ⟨true, false⟩, false, .reg 0, .reg 2⟩, .perm ⟨h6, ⟨true, false⟩, false, .reg 0, .reg 2, .reg 4⟩,
      .lea ⟨h6, ⟨true, false⟩, false, .reg 0, .reg 2, .reg 4⟩ 1, .abs ⟨h6, ⟨false, true⟩, false, .reg 0⟩,
      .popc ⟨h6, ⟨false, false⟩, true, .reg 0⟩, .mad ⟨h6, ⟨false, false⟩, true, .reg 0, .reg 1, .reg 2⟩,
      .movi ⟨6, ⟨false, false⟩, false, .reg 1, 0⟩, .muli ⟨6, ⟨false, false⟩, true, .reg 1, 0⟩] : List Instr).all
      (fun i => !i.wf) = true := by decide

theorem test_illFormed_compareAndConvert :
    ([.icmp h8 .eq ⟨false, false⟩ .none ⟨0, false⟩ (.reg 0) (.reg 1), .icmp h6 .num ⟨false, false⟩ .none ⟨0, false⟩ (.reg 0) (.reg 1),
      .icmp h6 .eq ⟨false, false⟩ .none ⟨1, false⟩ (.reg 0) (.reg 1), .icmpi 6 .geu ⟨false, false⟩ (.reg 0) 1, .gop h8 .and ⟨0, false⟩ ⟨0, false⟩,
      .gmov h8 (.toGuard (.reg 0)), .fclass h8 .f32 (.reg 0) 1, .cvt h6 .f32 .f32 .rn 0 (.reg 0), .cvt h6 .n8 .i32 .rz 0 (.reg 0),
      .cvt h6 .f32 .f16 .rn 1 (.reg 0), .cvtpk h6 .f16 .f32 .rn 1 (.reg 0) (.reg 1), .unpk h6 .f32 .f16 2 (.reg 0),
      .rq h6 .i8 .rn 0 4 (.reg 0) (.reg 1) (.reg 2), .vote h8 .all ⟨0, false⟩] : List Instr).all (fun i => !i.wf) = true := by decide

theorem test_illFormed_float :
    ([.fmin ⟨h6, .f32, .rz, .reg 0, .reg 1⟩, .fadd2 ⟨h6, .f32, .rn, .reg 0, .reg 1⟩, .fdot2 ⟨h6, .f32, .rn, .reg 0, .reg 1, .reg 2⟩,
      .rsqrt ⟨h6, .f32, .rp, .reg 0⟩, .red h6 .add .i32 .rz (.reg 0), .red h6 .and .f32 .rn (.reg 0),
      .scan h6 .max .f32 .rz false (.reg 0)] : List Instr).all (fun i => !i.wf) = true := by decide

theorem test_illFormed_memoryAndSystem :
    ([.ld ⟨.reg 1, .dev, none, ⟨7, false⟩, 0, .g, .n32, 2, .reg 0⟩, .st ⟨.reg 1, .dev, none, ⟨7, false⟩, 0, .g, .n32, 2, .reg 0⟩,
      .faa ⟨2, .dev, none, ⟨7, false⟩, .reg 4, .reg 0, 0, 7, .reg 6⟩ .i32,
      .atom ⟨2, .dev, none, ⟨7, false⟩, .reg 4, .reg 0, 0, 7, .reg 0⟩ .and .f32,
      .atom ⟨2, .dev, none, ⟨7, false⟩, .reg 4, .reg 0, 0, 7, .reg 0⟩ .fadd .i32, .fence .relaxed .dev,
      .cpy none 3 (.reg 0) (.reg 2), .ringArrive h6 0 false (.reg 0), .tlwait h6 0 .dev (.reg 0), .shrinkq ⟨none, 1, 6⟩,
      .pxTile 0, .pxTile 6, .sleepNs h6 (.reg 0), .mma ⟨none, .e2m1, .bf16, false, 0, false, false, 0, .reg 0, 0, 0⟩,
      .mma ⟨none, .bf16, .bf16, false, 0, false, false, 0, .reg 0, 0, 1⟩,
      .mmaLdb ⟨none, 0, none, false, .e2m1, false, 1, .reg 0, .reg 0, .reg 0⟩, .acc ⟨none, .zero, 0, .reg 2, .reg 0, .reg 1⟩,
      .sclPush h6 (.reg 0) (.reg 4), .ctSet h6 0 (.reg 0), .gangSet h6 (.reg 0)] : List Instr).all (fun i => !i.wf) = true := by decide

theorem test_illFormed_events :
    ([.sfuComplete 2048 1, .scratchLineZeroed 0 1024, .fill 2056 0, .waitExpire 0 1 32, .switchRequestArrival 10 1, .portUp 12,
      .cgtEntryWrite 4096 0, .l1ModeSwitch 8, .expansionHotRemove 8, .lqDoorbell 64 0, .quantumExpire 0 32, .ratioChange 144,
      .energyWrap 10 1, .challenge 8 1, .getMeasurements 1 true (some 8), .sharedRangeWrite 8 0 0, .islandPointSettled 0 4,
      .hostAccess ⟨.aperture, 0, 4, some [1], 0, false⟩, .peerRequest ⟨4096, 0, 0, 0, .load 4, none⟩] : List Instr).all (fun i => !i.wf) = true := by
  decide

/-! ## Decoding: words written out from Table 9.3, Table 9.8 and the field tables of chapters 10 to 13 -/

/-- Each word, with another instruction after it in its line, decodes to its instruction and its length. -/
def reads (l : List (List Word × Instr)) : Bool :=
  l.all fun c => match decode (c.1 ++ [0x00000004]) with
    | .ok (i, n) => i == c.2 && n == c.1.length
    | .error _ => false

/-- Parcels that the spec prints (09, 10 R233, 11 R263, 12 R283 to R304). -/
theorem test_decode_printed_parcels : reads [
    ([0x00000004], .nop), ([0x00000018], .ret), ([0x0000001C], .exit), ([0xFFFB4408], .bra ⟨1, false⟩ 0x3FFED),
    ([0x7F000003], .pxLit 0x7F00000), ([0x00008720], .fence .acq .dev), ([0x0000032C], .cpySeal), ([0x00000394], .detach),
    ([0x000003E4], .rtrap), ([0x000003F0], .ntHintEnter), ([0x000007F0], .ntHintLeave),
    ([0xF01003ED, 0x00000008], .waitNs h0 (.reg 8)),
    ([0x01509F12, 0x00003004, 0x00001000], .faa ⟨10, .dev, some 2, ⟨7, false⟩, .reg 6, .reg 4, 0, 2, .reg 0⟩ .i32)] = true := by
  decide

theorem test_decode_integer : reads [
    ([0xF0301885, 0x00005008], .sub ⟨h6, ⟨true, true⟩, false, .reg 8, .reg 10⟩),
    ([0xF0301889, 0x00005008], .mul ⟨h6, ⟨true, true⟩, false, .reg 8, .reg 10⟩),
    ([0xF030188D, 0x00005008], .mulhi ⟨h6, ⟨true, true⟩, false, .reg 8, .reg 10⟩),
    ([0xF0301895, 0x00005008], .min ⟨h6, ⟨true, true⟩, false, .reg 8, .reg 10⟩),
    ([0xF0301899, 0x00005008], .max ⟨h6, ⟨true, true⟩, false, .reg 8, .reg 10⟩),
    ([0xF03018A5, 0x00005008], .div ⟨h6, ⟨true, true⟩, false, .reg 8, .reg 10⟩),
    ([0xF03018A9, 0x00005008], .rem ⟨h6, ⟨true, true⟩, false, .reg 8, .reg 10⟩),
    ([0xF03018C1, 0x00005008], .and ⟨h6, ⟨true, true⟩, false, .reg 8, .reg 10⟩),
    ([0xF03018C5, 0x00005008], .or ⟨h6, ⟨true, true⟩, false, .reg 8, .reg 10⟩),
    ([0xF03018C9, 0x00005008], .xor ⟨h6, ⟨true, true⟩, false, .reg 8, .reg 10⟩),
    ([0xF03018D1, 0x00005008], .shl ⟨h6, ⟨true, true⟩, false, .reg 8, .reg 10⟩),
    ([0xF03018D5, 0x00005008], .shr ⟨h6, ⟨true, true⟩, false, .reg 8, .reg 10⟩),
    ([0xF03018D9, 0x00005008], .sar ⟨h6, ⟨true, true⟩, false, .reg 8, .reg 10⟩),
    ([0xF03018DD, 0x00005008], .rotl ⟨h6, ⟨true, true⟩, false, .reg 8, .reg 10⟩),
    ([0x34401881, 0x00207C10], .add ⟨⟨some 3, 1, 6⟩, ⟨false, false⟩, true, .special .lane, .lit .fInf⟩),
    ([0xF02018B1, 0x00005008], .mulw ⟨h6, ⟨false, true⟩, false, .reg 8, .reg 10⟩)] = true := by decide

theorem test_decode_one_and_three_source : reads [
    ([0xF010189D, 0x00000008], .abs ⟨h6, ⟨true, false⟩, false, .reg 8⟩),
    ([0xF03018A1, 0x00000008], .neg ⟨h6, ⟨true, true⟩, false, .reg 8⟩),
    ([0xF03018CD, 0x00000008], .not ⟨h6, ⟨true, true⟩, false, .reg 8⟩),
    ([0xF03018E1, 0x00000008], .popc ⟨h6, ⟨true, true⟩, false, .reg 8⟩),
    ([0xF03018E5, 0x00000008], .clz ⟨h6, ⟨true, true⟩, false, .reg 8⟩),
    ([0xF03018E9, 0x00000008], .brev ⟨h6, ⟨true, true⟩, false, .reg 8⟩),
    ([0xF0301925, 0x00000008], .mov ⟨h6, ⟨true, true⟩, false, .reg 8⟩),
    ([0xF0101892, 0x00005008, 0x0000000C], .mad ⟨h6, ⟨true, false⟩, false, .reg 8, .reg 10, .reg 12⟩),
    ([0xF01018AE, 0x00005008, 0x0000000C], .sad ⟨h6, ⟨true, false⟩, false, .reg 8, .reg 10, .reg 12⟩),
    ([0xF01018EE, 0x00005008, 0x0000000C], .bfe ⟨h6, ⟨true, false⟩, false, .reg 8, .reg 10, .reg 12⟩),
    ([0xF01018F2, 0x00005008, 0x0000000C], .bfi ⟨h6, ⟨true, false⟩, false, .reg 8, .reg 10, .reg 12⟩),
    ([0xF04018FA, 0x00005008, 0x0000000C], .fsh ⟨h6, ⟨false, false⟩, true, .reg 8, .reg 10, .reg 12⟩),
    ([0xF00018FE, 0x00005008, 0x0000000C], .perm ⟨h6, ⟨false, false⟩, false, .reg 8, .reg 10, .reg 12⟩),
    ([0xF02018F6, 0x00005008, 0x0000280C], .lea ⟨h6, ⟨false, true⟩, false, .reg 8, .reg 10, .reg 12⟩ 5),
    ([0xF000192E, 0x00005008, 0x0007400C], .lop3 ⟨h6, ⟨false, false⟩, false, .reg 8, .reg 10, .reg 12⟩ 0xE8)] = true := by decide

theorem test_decode_immediate : reads [
    ([0x00801905, 0x00200007], .muli ⟨6, ⟨false, true⟩, false, .reg 8, 7⟩),
    ([0x00801909, 0x00200007], .andi ⟨6, ⟨false, true⟩, false, .reg 8, 7⟩),
    ([0x0080190D, 0x00200007], .ori ⟨6, ⟨false, true⟩, false, .reg 8, 7⟩),
    ([0x00801911, 0x00200007], .xori ⟨6, ⟨false, true⟩, false, .reg 8, 7⟩),
    ([0x00801915, 0x00200007], .shli ⟨6, ⟨false, true⟩, false, .reg 8, 7⟩),
    ([0x00801919, 0x00200007], .shri ⟨6, ⟨false, true⟩, false, .reg 8, 7⟩),
    ([0x0080191D, 0x00200007], .sari ⟨6, ⟨false, true⟩, false, .reg 8, 7⟩),
    ([0x00801901, 0x004FFFFE], .addi ⟨6, ⟨false, false⟩, true, .reg 8, 0xFFFFE⟩),
    ([0x00001921, 0x00100009], .movi ⟨6, ⟨true, false⟩, false, .reg 0, 9⟩),
    ([0x00801929, 0x0000000B], .gtag 6 (.reg 8) 11), ([0x00800955, 0x00E00005], .icmpi 2 .le ⟨false, true⟩ (.reg 8) 5),
    ([0x000002D1, 0x00000010], .twset 16)] = true := by decide

theorem test_decode_compare_and_convert : reads [
    ([0xF0900941, 0x82C05008], .icmp ⟨none, 0, 2⟩ .lt ⟨true, false⟩ .or ⟨3, true⟩ (.reg 8) (.reg 10)),
    ([0xF3600945, 0x41005008], .fcmp ⟨none, 0, 2⟩ .geu .bf16 .and ⟨4, false⟩ (.reg 8) (.reg 10)),
    ([0xF0200949, 0x00006005], .gop ⟨none, 0, 2⟩ .xor ⟨5, false⟩ ⟨4, true⟩),
    ([0xF0001951, 0x0000000D], .gmov h6 (.toReg ⟨5, true⟩)),
    ([0xF0100951, 0x00000008], .gmov ⟨none, 0, 2⟩ (.toGuard (.reg 8))),
    ([0x1A018D4D, 0x00405008], .sel ⟨1, ⟨2, true⟩, 6, ⟨3, false⟩, true, .reg 8, .reg 10⟩),
    ([0xF0100959, 0x40400008], .fclass ⟨none, 0, 2⟩ .f16 (.reg 8) 0x101),
    ([0xF0801981, 0x11C00008], .cvt h6 .bf16 .lut4 .rn 2 (.reg 8)),
    ([0xF2101985, 0x28005008], .cvtpk h6 .e2m1 .f32 .rz 2 (.reg 8) (.reg 10)),
    ([0xF0C01989, 0x62000008], .unpk h6 .i32 .i8 3 (.reg 8)),
    ([0xF0D01991, 0x00400008], .lut h6 1 3 true (.reg 8)),
    ([0xF0301995, 0x00800008], .frnd h6 .bf16 .rp (.reg 8)),
    ([0xF070198E, 0x21C05008, 0x0000000C], .rq h6 .n4 .rz 4 7 (.reg 8) (.reg 10) (.reg 12))] = true := by decide

theorem test_decode_float : reads [
    ([0xF0901A01, 0x00005008], .fadd ⟨h6, .f16, .rm, .reg 8, .reg 10⟩),
    ([0xF0901A05, 0x00005008], .fsub ⟨h6, .f16, .rm, .reg 8, .reg 10⟩),
    ([0xF0901A09, 0x00005008], .fmul ⟨h6, .f16, .rm, .reg 8, .reg 10⟩),
    ([0xF0901A41, 0x00005008], .fadd2 ⟨h6, .f16, .rm, .reg 8, .reg 10⟩),
    ([0xF0901A45, 0x00005008], .fmul2 ⟨h6, .f16, .rm, .reg 8, .reg 10⟩),
    ([0xF0201A11, 0x00005008], .fmin ⟨h6, .bf16, .rn, .reg 8, .reg 10⟩),
    ([0xF0201A15, 0x00005008], .fmax ⟨h6, .bf16, .rn, .reg 8, .reg 10⟩),
    ([0xF0201A21, 0x00005008], .fcpsgn ⟨h6, .bf16, .rn, .reg 8, .reg 10⟩),
    ([0xF0201A4D, 0x00005008], .fmin2 ⟨h6, .bf16, .rn, .reg 8, .reg 10⟩),
    ([0xF0201A51, 0x00005008], .fmax2 ⟨h6, .bf16, .rn, .reg 8, .reg 10⟩),
    ([0xF0101A19, 0x00000008], .fabs ⟨h6, .f16, .rn, .reg 8⟩),
    ([0xF0101A1D, 0x00000008], .fneg ⟨h6, .f16, .rn, .reg 8⟩),
    ([0xF0E01A0E, 0x00005008, 0x0000000C], .fma ⟨h6, .bf16, .rp, .reg 8, .reg 10, .reg 12⟩),
    ([0xF0E01A4A, 0x00005008, 0x0000000C], .fma2 ⟨h6, .bf16, .rp, .reg 8, .reg 10, .reg 12⟩),
    ([0xF0E01A56, 0x00005008, 0x0000000C], .fdot2 ⟨h6, .bf16, .rp, .reg 8, .reg 10, .reg 12⟩)] = true := by decide

theorem test_decode_special_function_and_lane : reads [
    ([0x34501A81, 0x00000008], .rcp ⟨⟨some 3, 1, 6⟩, .f16, .rz, .reg 8⟩),
    ([0x34101A85, 0x00000008], .rsqrt ⟨⟨some 3, 1, 6⟩, .f16, .rn, .reg 8⟩),
    ([0x34901A89, 0x00000008], .sqrt ⟨⟨some 3, 1, 6⟩, .f16, .rm, .reg 8⟩),
    ([0x34101A8D, 0x00000008], .exp2 ⟨⟨some 3, 1, 6⟩, .f16, .rn, .reg 8⟩),
    ([0x34101A91, 0x00000008], .log2 ⟨⟨some 3, 1, 6⟩, .f16, .rn, .reg 8⟩),
    ([0x34101A95, 0x00000008], .sin ⟨⟨some 3, 1, 6⟩, .f16, .rn, .reg 8⟩),
    ([0x34101A99, 0x00000008], .cos ⟨⟨some 3, 1, 6⟩, .f16, .rn, .reg 8⟩),
    ([0x34101A9D, 0x00000008], .tanh ⟨⟨some 3, 1, 6⟩, .f16, .rn, .reg 8⟩),
    ([0xF1601AC1, 0x00005008], .shfl h6 .down true 2 (.reg 8) (.reg 10)),
    ([0xF0301AC5, 0x00000009], .vote h6 .ballot ⟨1, true⟩),
    ([0xF2001AC9, 0x00C00008], .red h6 .add .f32 .rp (.reg 8)),
    ([0xF1501ACD, 0x01000008], .scan h6 .xor .i64 .rn true (.reg 8)),
    ([0xF0101AD5, 0x00000008], .matchLanes h6 true (.reg 8))] = true := by decide

theorem test_decode_control_and_prefix : reads [
    ([0x00000020], .yield), ([0x00201424], .flwait 0x805), ([0xFFFF6810], .call ⟨2, true⟩ 0x3FFFD),
    ([0x0080000C], .brr (.reg 8)), ([0x40100014], .callr (.lit .one)), ([0x0000004B], .pxTile 4),
    ([0x000002B7], .pxScope .ar .sys)] = true := by decide

theorem test_decode_memory_and_copy : reads [
    ([0x00096F01, 0xFD008008], .ld ⟨.reg 0, .team, some 5, ⟨3, true⟩, 31, .s, .b128, 16, .reg 8⟩),
    ([0x014FDF05, 0x1EC00008], .st ⟨.reg 10, .cl, none, ⟨7, false⟩, 3, .p, .n64, 0, .reg 8⟩),
    ([0x00D51F16, 0x11805008, 0xFFFF0800], .atom ⟨6, .sys, some 4, ⟨7, false⟩, .reg 10, .reg 8, 0x3FFFC, 1, .reg 0⟩ .fadd .f32),
    ([0x00C51F1A, 0x00C05008, 0x0000B80C], .cas ⟨6, .grp, some 4, ⟨7, false⟩, .reg 10, .reg 8, 2, 7, .reg 12⟩ .n64),
    ([0xF0001B25, 0x00000008], .cachePin h6 (.reg 8)),
    ([0xF0101B25, 0x00000008], .cacheUnpin h6 (.reg 8)),
    ([0x0230032A, 0x00005008, 0x00000000], .cpy (some 3) 2 (.reg 8) (.reg 10)), ([0x00009730], .cpyWait 5 2),
    ([0x03301B36, 0x01405008, 0x0000700C], .tcpy ⟨some 3, true, some 5, 6, .reg 8, .reg 10, .reg 12, .reg 14⟩)] = true := by decide

theorem test_decode_synchronisation_and_launch : reads [
    ([0x0000A780], .bar 9 .wait), ([0xF1D00385, 0x00000008], .ringWait h0 5 true true (.reg 8)),
    ([0xF0D00389, 0x00000008], .ringArrive h0 5 true (.reg 8)),
    ([0xF000038D, 0x90400008], .tlwait h0 65 .dev (.reg 8)),
    ([0xF0201B91, 0x00000000], .attach h6 .vector), ([0xF0001B99, 0x00000000], .shrinkq h6),
    ([0x00F01B9E, 0x00005008, 0x00000000], .launch 6 (.reg 8) (.reg 10))] = true := by decide

theorem test_decode_matrix_engine : reads [
    ([0x354003C2, 0x65800040, 0x00400000], .mma ⟨some 4, .bf16, .lut4, true, 9, false, true, 2, .reg 64, 0, 1⟩),
    ([0x63401BC6, 0x16406008, 0x02C0000E], .mmaLdb ⟨some 4, 6, some (5, 11), true, .e4m3, true, 9, .reg 12, .reg 8, .reg 14⟩),
    ([0xF80003C9, 0x00005008], .sclPush ⟨none, 2, 0⟩ (.reg 8) (.reg 10)),
    ([0x403003CD, 0x00000008], .ctSet ⟨some 4, 0, 0⟩ 3 (.reg 8)),
    ([0xF00003D1, 0x00000008], .gangSet h0 (.reg 8)),
    ([0x0E4003D6, 0x00005008, 0x0000000C], .acc ⟨some 4, .st, 3, .reg 8, .reg 10, .reg 12⟩),
    ([0x004003DA, 0x00000008, 0x00000000], .epiLd (some 4) (.reg 8)),
    ([0x994003DA, 0x00005008, 0x0000000C], .epiRun ⟨some 4, 2, 9, .reg 8, .reg 10, .reg 12⟩)] = true := by decide

theorem test_decode_system : reads [
    ([0x02AF37E0], .trap 0xABCD), ([0x00004BE8], .brk 0x12), ([0xF00003ED, 0x00000008], .sleepNs h0 (.reg 8)),
    ([0xF0001BF5, 0x00005008], .boost h6 (.reg 8) (.reg 10)),
    ([0xF0001BF9, 0x00000008], .wearRd h6 (.reg 8)),
    ([0xF0001BFD, 0x00005008], .sealPut h6 (.reg 8) (.reg 10))] = true := by decide

/-! ## Witnesses: a state and operands that meet the hypotheses of each statement -/

/-- The issue of an instruction that the loader places (log entry 8): 32 lanes of one group at slot 0. -/
def issuing (ps : List Word) : State := ((State.reset.load ps).startIssue 0).getD State.reset

/-- The same issue with lane 0 alone selected. -/
def one (s : State) : State := { s with issue := { s.issue with lanes := 1 } }

/-- The issue with its lanes changed. -/
def lanes (s : State) (f : Lane → Lane) : State := s.updIssGroup fun g => { g with lanes := tblMap (fun _ x => f x) g.lanes }

/-- The issue with a translation of the first page at hand, and lane memory of 1 MiB slots. -/
def mapped (s : State) : State := s.updCore 0 fun k => { k with tlb := [⟨0, false, 0, 0, true, true, true, 0⟩] }

/-- A vector, a matrix and a copy group that issue. -/
def sv : State := issuing [0x00000004]
def sm : State := issuing [0x004003C2, 0x0F000040, 0]
def sc : State := issuing [0x00301B36, 0x01405008, 0x0000700C]

/-- The issue stands on a resident group that lists its 32 lanes, as a computation. -/
def issOk (s : State) : Bool :=
  (tblFind s.issCore.teams s.issue.slot).isSome && (tblFind s.issTeam.groups s.issue.group).isSome &&
    (List.range 32).all fun l => (tblFind s.issGroup.lanes l).isSome
theorem issuing_of {s : State} (h : issOk s = true) : s.Issuing := by
  simp only [issOk, Bool.and_eq_true, List.all_eq_true, List.mem_range] at h
  exact ⟨h.1.1, h.1.2, h.2⟩

theorem sv_issuing : sv.Issuing := issuing_of (by decide +kernel)
theorem sm_issuing : sm.Issuing := issuing_of (by decide +kernel)
theorem sc_issuing : sc.Issuing := issuing_of (by decide +kernel)
theorem one_issuing {s : State} (h : s.Issuing) : (one s).Issuing := ⟨h.team, h.group, h.lanes⟩

theorem test_roles : sv.issGroup.role = .vector ∧ sm.issGroup.role = .matrix ∧ sc.issGroup.role = .copy := by decide +kernel

/-- Registers of 32 and 64 bits, four and eight in a row, and sources that an operand check admits; the lanes' selection. -/
theorem w_operands : sv.Issuing ∧ sv.regsOk 1 1023 = true ∧ sv.regsOk 2 6 = true ∧ sv.regsOk 4 8 = true ∧ sv.regsOk 8 8 = true ∧
    sv.srcOk 1 (.reg 1023) = true ∧ sv.srcOk 2 (.reg 8) = true ∧ sv.srcOk 2 (.lit .fInf) = true ∧ sv.srcOk 2 (.special .ns) = true ∧
    sv.issue.lanes ≠ 0 := ⟨sv_issuing, by decide +kernel⟩

theorem w_IntegerTwoSourceResults : sv.Issuing ∧ sv.regsOk (wRegs true) (6 : BitVec 10).toNat = true ∧ sv.srcOk (wRegs true) (.reg 8) = true ∧
    sv.srcOk (wRegs true) (.lit .one) = true ∧ sv.srcOk 1 (.reg 3) = true := ⟨sv_issuing, by decide +kernel⟩
theorem w_IntegerOneAndThreeSourceResults : sv.Issuing ∧ sv.srcOk (wRegs true) (.reg 2) = true ∧
    sv.regsOk (wRegs true) (4 : BitVec 10).toNat = true ∧ sv.regsOk 1 (4 : BitVec 10).toNat = true ∧ sv.srcOk (wRegs true) (.reg 6) = true ∧
    sv.srcOk (wRegs false) (.reg 7) = true ∧ sv.regsOk 2 (4 : BitVec 10).toNat = true ∧ sv.srcOk 2 (.reg 2) = true :=
  ⟨sv_issuing, by decide +kernel⟩
theorem w_ImmediateResults : sv.Issuing ∧ sv.regsOk (wRegs false) (3 : BitVec 10).toNat = true ∧ sv.srcOk (wRegs false) (.reg 2) = true ∧
    (sv.imm48 31).toNat < ITy.bits ⟨false, false⟩ ∧ sv.regsOk 2 (4 : BitVec 10).toNat = true ∧ sv.srcOk 2 (.reg 2) = true ∧
    (sv.imm48 15).toNat < 16 := ⟨sv_issuing, by decide +kernel⟩
theorem w_GuardAndSelectResults : sv.Issuing ∧ (6 : BitVec 10).toNat < 7 ∧ sv.srcOk (wRegs true) (.reg 2) = true ∧
    sv.srcOk (wRegs true) (.reg 4) = true ∧ sv.srcOk 1 (.reg 5) = true ∧ sv.regsOk 1 (3 : BitVec 10).toNat = true ∧
    sv.regsOk (wRegs true) (8 : BitVec 10).toNat = true := ⟨sv_issuing, by decide +kernel⟩
theorem w_LaneOperationResults : sv.Issuing ∧ sv.regsOk (wRegs true) (6 : BitVec 10).toNat = true ∧ sv.srcOk (wRegs true) (.reg 2) = true ∧
    sv.srcOk 1 (.lit .one) = true ∧ (6 : BitVec 10).toNat < 7 ∧ (sv.imm48 32).toNat ∈ [2, 4, 8, 16, 32] ∧ sv.issue.lanes ≠ 0 :=
  ⟨sv_issuing, by decide +kernel⟩
theorem w_ReductionResults : sv.Issuing ∧ sv.regsOk (wRegs (redWide .i64)) (6 : BitVec 10).toNat = true ∧
    sv.srcOk (wRegs (redWide .i64)) (.reg 2) = true := ⟨sv_issuing, by decide +kernel⟩
theorem w_ReductionAddIsTheTileSum : ∀ i x, (fun i : Nat => if i = 1 then none else some (0xFFFFFFFF : Nat)) i = some x → x < 2 ^ 32 := by
  intro i x h; dsimp only at h; split at h <;> simp_all; omega
theorem w_FloatResults : sv.Issuing ∧ sv.regsOk 1 (8 : BitVec 10).toNat = true ∧ sv.srcOk 1 (.reg 1) = true ∧ sv.srcOk 1 (.reg 2) = true ∧
    sv.srcOk 1 (.lit .fOne) = true := ⟨sv_issuing, by decide +kernel⟩
theorem w_ConversionResults : sv.Issuing ∧ sv.regsOk (wRegs (CTy.bits .i64 == 64)) (6 : BitVec 10).toNat = true ∧
    sv.srcOk (wRegs (CTy.bits .f32 == 64)) (.reg 3) = true ∧ sv.regsOk 1 (5 : BitVec 10).toNat = true ∧ sv.srcOk 1 (.reg 3) = true :=
  ⟨sv_issuing, by decide +kernel⟩
theorem w_SpecialFunctionsIssue : sv.Issuing ∧ sv.issue.lanes ≠ 0 ∧ sv.regsOk 1 (5 : BitVec 10).toNat = true ∧ sv.srcOk 1 (.reg 3) = true :=
  ⟨sv_issuing, by decide +kernel⟩

theorem w_BranchResultsAndTransferFaults : sv.Issuing ∧
    (∀ l ∈ sv.guarded ⟨7, false⟩, sv.marked sv.issue.core sv.issTeam.grid (sv.issue.p + (sv.off46 0).setWidth 57) = true) ∧
    sv.srcOk 2 (.reg 2) = true ∧ (∀ l ∈ sv.issLanes, (sv.src64 0 l (.reg 2)).toNat < 2 ^ 57 ∧
      sv.marked sv.issue.core sv.issTeam.grid ((sv.src64 0 l (.reg 2)).setWidth 57) = true) ∧
    (sv.core sv.issue.core).flt.stopped = false ∧ (∀ l ∈ sv.issLanes, (sv.issLane l).tl = false ∧ (sv.issLane l).depth = 0) ∧
    sv.guarded ⟨7, false⟩ ≠ [] ∧ sv.marked sv.issue.core sv.issTeam.grid (sv.issue.p + (sv.off46 1).setWidth 57) = false ∧
    sv.srcOk 2 (.lit .minusOne) = true ∧ ∀ l ∈ sv.issLanes, 2 ^ 57 ≤ (sv.src64 0 l (.lit .minusOne)).toNat :=
  ⟨sv_issuing, by decide +kernel⟩

/-- Lanes with a full return stack on the core, one entry more in memory, and private memory in the first page. -/
def deep (n : Nat) : State := mapped (one (lanes sv fun x => { x with depth := n }))

theorem deep_issuing : (deep 8).Issuing ∧ (deep 9).Issuing :=
  ⟨issuing_of (by decide +kernel), issuing_of (by decide +kernel)⟩

theorem w_CallReturnAndSpillResults : (∀ l ∈ sv.guarded ⟨7, false⟩, (sv.issLane l).depth < 8) ∧ (deep 8).Issuing ∧ (deep 9).Issuing ∧
    (∀ l ∈ (deep 8).issLanes, 0 < ((deep 8).issLane l).depth ∧ ((deep 8).issLane l).depth ≤ 8 ∧
      (deep 8).marked 0 (deep 8).issTeam.grid (tblGet 0 ((deep 8).issLane l).slots (((deep 8).issLane l).depth % 8)) = true) ∧
    (deep 8).issLanes = [0] ∧ (deep 8).ownReach 0 ((deep 8).spillAt 9) 8 8 .store = .ok (.dev 0x3F8) 0 0 ∧
    (deep 8).ownBlockers 0 (.dev 0x3F8) 8 true = [] ∧ (deep 8).ownHolds (.dev 0x3F8) 0 8 = none ∧ (deep 9).issLanes = [0] ∧ ((deep 9).issLane 0).tl = false ∧
    (deep 9).ownReach 0 ((deep 9).spillAt 9) 8 8 .load = .ok (.dev 0x3F8) 0 0 ∧ (deep 9).ownBlockers 0 (.dev 0x3F8) 8 false = [] ∧
    (deep 9).ownHolds (.dev 0x3F8) 0 8 = none ∧
    (deep 9).marked 0 (deep 9).issTeam.grid (tblGet 0 ((deep 9).issLane 0).slots 1) = true :=
  ⟨by decide +kernel, deep_issuing.1, deep_issuing.2, by decide +kernel⟩

theorem w_ExitAndDetachResults : (one sv).Issuing ∧ (∃ l, l < 32 ∧ l ∉ (one sv).issLanes ∧ ((one sv).issLane l).live = true) ∧
    sv.Issuing ∧ sv.issue.lanes ≠ 0 ∧ ∀ l, l < 32 → (sv.issLane l).live = true → l ∈ sv.issLanes :=
  ⟨one_issuing sv_issuing, ⟨1, by decide +kernel⟩, sv_issuing, by decide +kernel⟩

theorem w_PrefixResults : sv.issue.lanes ≠ 0 ∧ pxAccepted 0 (fun w => pxFormat w != .other) [0x7F000003, 0x00200D01, 5] = true ∧
    pxAccepted 1 (fun w => ordTaken w .acq) [0x00000217, 0x00105F01, 0x02801000] = true ∧
    pxAccepted 2 takesTile [0x0000003B, 0xF0B00AC1, 0x00200801] = true := by decide +kernel


/-- One lane issues, its team with a ring of two stages and a barrier of the vector role, and with translations at hand. -/
def ringed : State := mapped (one (sv.updIssTeam fun t =>
  { t with rings := [(0, ⟨true, 1, 2, 2⟩)], bars := [(15, ⟨true, false, 4, 0, 0, 32, 0, [], []⟩)] }))
theorem ringed_issuing : ringed.Issuing := issuing_of (by decide +kernel)

/-- Lane 31 waits on a count that has run out. -/
def expiring : State := sv.updGroup 0 0 0 fun g => g.updLane 31 fun x => { x with status := .waiting, waitOn := .time 0 true }

theorem w_WaitResults : ringed.Issuing ∧ ringed.issue.lanes ≠ 0 ∧ ringed.srcOk 1 (.lit .one) = true ∧ ringed.srcOk 2 (.reg 8) = true ∧
    (∀ l ∈ ringed.issLanes, ringed.issTeam.stageOk (0 : BitVec 3).toNat (ringed.src32 0 l (.lit .one)).toNat = true) ∧
    timelineSel (64 : BitVec 7).toNat = true ∧ ringed.srcOk 2 (.lit .minusOne) = true ∧
    (expiring.core 0).findGroup 1 = some (0, 0) ∧ (tblFind (expiring.group 0 0 0).lanes 31).isSome ∧
    ((expiring.group 0 0 0).lane 31).status = .waiting ∧ ((expiring.group 0 0 0).lane 31).waitOn = .time 0 true ∧
    ((expiring.group 0 0 0).lane 31).shadow = none := ⟨ringed_issuing, by decide +kernel⟩

/-! ### Memory -/

/-- All lanes issue, their address pair r0 at an address, with a translation of page 0 at hand. -/
def at_ (a : DWord) : State :=
  mapped (lanes sv fun x => { x with regs := [(0, a.extractLsb' 0 32), (1, a.extractLsb' 32 32)] })

def mform (a : Src) (sp : Space) (ty : MemTy) : MForm := ⟨.reg 4, .lane, none, ⟨7, false⟩, 0, sp, ty, 4, a⟩
def aform : AForm := ⟨4, .dev, none, ⟨7, false⟩, .reg 6, .reg 0, 0, 7, .reg 8⟩

/-- A load and a store of the last four bytes of the page, and of the last eight of the team's scratchpad; atomics. -/
theorem w_MemoryInstructionsIssue : (at_ 0xFFFC).Issuing ∧ (at_ 0x800000000003FFF8).Issuing ∧ (at_ 0xFFF8).Issuing ∧
    (let s := at_ 0xFFFC
     s.srcOk 2 (.reg 0) = true ∧ s.regsOk (memRegs .n32) (4 : BitVec 10).toNat = true ∧ s.dataOk .n32 (.reg 4) = true ∧
     (s.acting ⟨7, false⟩ none) ≠ [] ∧ ∀ l ∈ s.acting ⟨7, false⟩ none,
      s.preCheck (s.whoIs l) .g 4 4 (s.src64 0 l (.reg 0) + s.off33 0 * BitVec.ofNat 64 4) = none ∧
      s.reach (s.whoIs l) (s.src64 0 l (.reg 0) + s.off33 0 * BitVec.ofNat 64 4) 4 .load = .ok (.dev 0xFFFC) 0 0 ∧
      s.reach (s.whoIs l) (s.src64 0 l (.reg 0) + s.off33 0 * BitVec.ofNat 64 4) 4 .store = .ok (.dev 0xFFFC) 0 0 ∧
      s.atomicPre 4 true (fun l => s.src64 0 l (.reg 0) + s.off46 0 * BitVec.ofNat 64 4) l = none ∧
      s.atomicPre 4 false (fun l => s.src64 0 l (.reg 0) + s.off46 0 * BitVec.ofNat 64 4) l = none ∧
      s.reach (s.whoIs l) (s.src64 0 l (.reg 0) + s.off46 0 * BitVec.ofNat 64 4) 4 .atomic = .ok (.dev 0xFFFC) 0 0) ∧
    (let s := at_ 0x800000000003FFF8
     ∀ l ∈ s.acting ⟨7, false⟩ none,
      s.preCheck (s.whoIs l) .s 8 8 (s.src64 0 l (.reg 0) + s.off33 0 * BitVec.ofNat 64 8) = none ∧
      s.reach (s.whoIs l) (s.src64 0 l (.reg 0) + s.off33 0 * BitVec.ofNat 64 8) 8 .load = .ok (.spad 0x3FFF8) 0 0 ∧
      s.atomicPre 8 true (fun l => s.src64 0 l (.reg 0) + s.off46 0 * BitVec.ofNat 64 8) l = none ∧
      s.reach (s.whoIs l) (s.src64 0 l (.reg 0) + s.off46 0 * BitVec.ofNat 64 8) 8 .atomic = .ok (.spad 0x3FFF8) 0 0) ∧
    (let s := at_ 0xFFF8
     s.regsOk (wRegs (atomWide .i64)) (4 : BitVec 10).toNat = true ∧ s.srcOk (wRegs (atomWide .i64)) (.reg 6) = true ∧
     s.srcOk (wRegs (atWide .i64)) (.reg 8) = true ∧ ∀ l ∈ s.acting ⟨7, false⟩ none,
      s.atomicPre 8 true (fun l => s.src64 0 l (.reg 0) + s.off46 0 * BitVec.ofNat 64 8) l = none ∧
      s.reach (s.whoIs l) (s.src64 0 l (.reg 0) + s.off46 0 * BitVec.ofNat 64 8) 8 .atomic = .ok (.dev 0xFFF8) 0 0) :=
  ⟨issuing_of (by decide +kernel), issuing_of (by decide +kernel), issuing_of (by decide +kernel), by decide +kernel⟩

/-- Every lane at a misaligned address; at an address whose page may not be read or written. -/
def unreadable : State := (at_ 0x100).updCore 0 fun k => { k with tlb := [⟨0, false, 0, 0, false, false, true, 0⟩] }
theorem unreadable_issuing : unreadable.Issuing := issuing_of (by decide +kernel)

theorem w_OperandAndAddressFaults : (at_ 2).Issuing ∧ unreadable.Issuing ∧ sv.Issuing ∧
    (let s := at_ 2
     (s.core s.issue.core).flt.stopped = false ∧ s.srcOk 2 (.reg 0) = true ∧ s.acting ⟨7, false⟩ none ≠ [] ∧
     (∀ l ∈ s.issLanes, (s.issLane l).tl = false) ∧ s.regsOk (memRegs .n32) (4 : BitVec 10).toNat = true ∧
     s.dataOk .n32 (.reg 4) = true ∧ ∀ l ∈ s.acting ⟨7, false⟩ none,
      let ea := s.src64 0 l (.reg 0) + s.off33 0 * BitVec.ofNat 64 4
      tagOk .g ea = true ∧ mbzOk ea = true ∧ ea.toNat % 4 ≠ 0) ∧
    (let s := unreadable
     s.acting ⟨7, false⟩ none ≠ [] ∧ ∀ l ∈ s.acting ⟨7, false⟩ none,
      let ea := s.src64 0 l (.reg 0) + s.off33 0 * BitVec.ofNat 64 4
      s.preCheck (s.whoIs l) .g 4 4 ea = none ∧ s.reach (s.whoIs l) ea 4 .load = .bad 0x02 (0x100 + Need.load.code * 2 ^ 61) ∧
      s.reach (s.whoIs l) ea 4 .store = .bad 0x02 (0x100 + Need.store.code * 2 ^ 61)) ∧
    (sv.core sv.issue.core).flt.stopped = false ∧ sv.issue.lanes ≠ 0 ∧ (∀ l ∈ sv.issLanes, (sv.issLane l).tl = false) ∧
    ((1023 : BitVec 10).toNat % wRegs true ≠ 0) ∧
    (lanes sv id |>.updIssGroup fun g => { g with units := 1 }).issGroup.units * 64 < (64 : BitVec 10).toNat + wRegs false :=
  ⟨issuing_of (by decide +kernel), unreadable_issuing, sv_issuing, by decide +kernel⟩

/-- An access of lane 3 of the group, as an item of the queue. -/
def item (act : Act) (p : Place) : Item :=
  { id := 9, op := 8, uid := 1, team := 2, grid := 1, ctx := 0, lanes := 8, act := act, place := p, ch := 0, ord := .relaxed,
    scope := .lane, after := [], vpn := 0, inFab := false, ended := false, addr := 0, sent := none, wb := none }
def oper (kind : OpKind) (left : List Nat) : Op :=
  { id := 8, uid := 1, kind := kind, flag := some 2, tl := false, lanes := 8, left := left, values := [], ended := 0, pc := 0 }
def queued (i : Item) (o : Op) : State := sv.updCore 0 fun k => { k with queue := [i], ops := [(8, o)] }

/-- Sector 1023 of line 255 is in core 0's L1, which holds the line in way 3 of its set; one whose byte 0 is dirty. -/
def dirtySector : Sector := ⟨false, 1, 0xFF, 0, 0, [0]⟩
def l1With (x : Sector) : State := { sv with l1 := [(0, ⟨[(1023, x)], [(255 % l1Sets 0, ⟨[(3, 255)], 0⟩)], [], []⟩)] }

/-- What an access needs before it may be performed: it is the item 9 of core 0, and nothing holds it. -/
def stands (s : State) (i : Item) : Bool :=
  (s.core 0).item 9 == some i && i.id == 9 && !i.act.isPoint && (s.fabric.reqs.find? fun q => q.id == 9 && q.sw.isNone).isNone &&
    !i.inFab && !s.blocked 0 i

theorem w_AccessesPerform :
    (∀ c ∈ [(item (.store [1, 2]) (.spad 0x3FFFE), oper .store [9]), (item (.load 4) (.spad 0x3FFFC), oper (.load .n32 4) [9]),
        (item (.load 8) (.spad 0x3FFF8), oper (.load .b128 4) [9]), (item (.faa true 5) (.spad 0x3FFF8), oper (.atomic 4 true 7) [9]),
        (item (.atom .xor .n32 5) (.spad 0x3FFFC), oper (.atomic 4 false 7) [9]),
        (item (.cas false 0 5) (.spad 0x3FFFC), oper (.atomic 4 false 7) [9])],
      let s := queued c.1 c.2
      stands s c.1 = true ∧ (s.core 0).latent = [] ∧ (s.core 0).staleSpad c.1 = false ∧
        tblFind (s.core 0).ops c.1.op = some c.2 ∧ (c.2.ended &&& c.1.lanes) = 0 ∧
        (match c.1.place with
         | .spad x => s.linesPresent 0 x c.1.act.size
         | _ => false) = true) ∧
    (∀ x ∈ [⟨true, 0, 0, 0, 0, [0]⟩, dirtySector], ∀ act ∈ [Act.load 4, .store [1, 2, 3, 4]],
      let i := item act (.dev 0xFFC0)
      let s := (l1With x).updCore 0 fun k => { k with queue := [i], ops := [(8, oper (.load .n32 4) [9])] }
      stands s i = true ∧ s.mem.isMem 0xFFC0 = true ∧ s.atHome 0 i = false ∧ tblFind (s.l1At (s.l1Of 0)).latent 1023 = none ∧
        s.sector (s.l1Of 0) 1023 = x ∧ x.present 0 4 = x.v ∧
        (((s.l1At (s.l1Of 0)).set (s.l1Of 0) 255).wayOf 255).any (fun w =>
          tblFind ((s.l1At (s.l1Of 0)).set (s.l1Of 0) 255).ways w == some 255) = true ∧
        s.mem.latent = [] ∧ s.mem.l2 = [] ∧ (s.stream expStream).fail = false) ∧
    (∀ pa ∈ [0xFFC0, 0x2FFC0], ∀ i ∈ [{ item (.load 4) (.dev pa) with ord := .acq, scope := .dev },
        { item (.store [1, 2, 3, 4]) (.dev pa) with ord := .rel, scope := .dev }, item (.atom .max .i32 5) (.dev pa),
        item (.cas false 0 5) (.dev pa), item (.cas false 1 5) (.dev pa)],
      let s := (l1With dirtySector).updCore 0 fun k => { k with queue := [i], ops := [(8, oper (.atomic 4 false 7) [9])] }
      let u := s.sflush (s.l1Of 0) (pa / 64)
      stands s i = true ∧ s.mem.isMem pa = true ∧ s.atHome 0 i = true ∧ s.viaSwitch i = false ∧ s.heldAtSwitch 0 i = false ∧
        s.linkHolds (.mem pa) = false ∧ u.mem.latent = [] ∧ u.mem.l2.all (fun x => x.2.bad == none && (x.2.dirty || x.2.under == none)) = true ∧
        (u.stream expStream).fail = false ∧ u.scrubPending pa = decide (pa = 0x2FFC0)) := by decide +kernel

theorem w_OperationsComplete :
    ∀ o ∈ [{ oper (.sfu 4) [] with values := [(3, [7])] }, { oper (.load .n32 4) [] with values := [(3, [7])] },
        { oper (.atomic 4 false 7) [] with values := [(3, [7])] }],
      let s := queued (item (.load 4) (.dev 0)) o
      (s.core 0).readyOp 8 = some o ∧ o.id = 8 ∧ (s.core 0).findGroup o.uid = some (0, 0) := by decide +kernel

theorem w_FencesAndTheirPoints : sv.Issuing ∧ (∀ o ∈ [MemOrd.rel, .acq, .ar, .sc], o ≠ .relaxed) ∧
    (∀ c ∈ [(Act.release .dev, true), (.release .team, false), (.acquire .sys, true), (.acquire .lane, false), (.sc .dev, true)],
      let s := queued (item c.1 (.dev 0)) (oper .store [])
      (s.core 0).item 9 = some (item c.1 (.dev 0)) ∧ s.blocked 0 (item c.1 (.dev 0)) = false) ∧
    sv.wide 0 .dev = true ∧ sv.wide 0 .team = false ∧ sv.wide 0 .sys = true ∧ sv.wide 0 .lane = false :=
  ⟨sv_issuing, by decide +kernel⟩

/-- One lane issues with the first page at hand and a quota; with pins of its L1 as given. -/
def pinned (quota : Nat) (ps : List Pin) : State :=
  { (mapped (one sv)).updGrid 1 fun g => { g with desc := { g.desc with pinQuota := quota } } with l1 := [(0, ⟨[], [], ps, []⟩)] }
theorem pinned_issuing (q : Nat) (ps : List Pin) : (pinned q ps).Issuing :=
  have h : (mapped (one sv)).Issuing := issuing_of (by decide +kernel)
  ⟨h.team, h.group, h.lanes⟩

/-- Each status: refused, held already, held by another context, six ways held, past the quota, and pinned. -/
theorem w_PinResults : (pinned 0 []).Issuing ∧ (pinned 1 []).issLanes = [0] ∧ (pinned 1 []).regsOk 1 4 = true ∧
    (pinned 1 []).srcOk 2 (.reg 0) = true ∧ ((pinned 1 []).issLane 0).flagFull none = false ∧ (pinned 1 []).l1Of 0 = 0 ∧
    ((pinned 1 []).pinLine true 0 0x8000000000000000).2.toOption = none ∧
    ((pinned 1 []).pinLine false 0 0x8000000000000000).2.toOption = none ∧
    (∀ c ∈ ([(0, [⟨0xFF, 0⟩]), (1, [⟨0xFF, 7⟩]), (1, [⟨0x3F, 1⟩, ⟨0x7F, 1⟩, ⟨0xBF, 1⟩, ⟨0x13F, 1⟩, ⟨0x17F, 1⟩, ⟨0x1BF, 1⟩]), (1, [⟨1, 0⟩]), (1, [])] : List (Nat × List Pin)),
      ∀ reads ∈ [true, false], ((pinned c.1 c.2).pinLine reads 0 0xFF00).2.toOption = some (0xFF, 0) ∧
        (((pinned c.1 c.2).pinLine reads 0 0xFF00).1.l1At 0).pins = c.2) ∧
    (let id := 0
     let full : List Pin := [⟨0x3F, 1⟩, ⟨0x7F, 1⟩, ⟨0xBF, 1⟩, ⟨0x13F, 1⟩, ⟨0x17F, 1⟩, ⟨0x1BF, 1⟩]
     (∀ p ∈ full, p.line ≠ 0xFF) ∧ 6 ≤ (full.filter fun p => p.line % l1Sets id == 0xFF % l1Sets id).length ∧
     (pinned 1 []).issGrid.ctx = 0 ∧ (pinned 1 []).issGrid.desc.pinQuota = 1) :=
  ⟨pinned_issuing _ _, by decide +kernel⟩

/-! ### Copies -/

/-- Registers as listed in the issuing lanes; bytes of near memory. -/
def regs (s : State) (rs : Tbl Word) : State := lanes s fun x => { x with regs := rs }
def near (s : State) (a : Nat) (bs : List Byte) : State := { s with mem := { s.mem with cells := memWrite s.mem.cells a bs } }

/-- A copy of 4 bytes from 0x200 to the start of the scratchpad; a tile of one chunk, its record at 0x100. -/
def copying : State := regs (mapped (one sv)) [(1, 0x80000000), (2, 0x200)]
def tiling : State :=
  near (regs (mapped (one sc)) [(0, 0x200), (3, 0x80000000), (4, 0x100), (7, 1)]) 0x100 [0, 0, 0, 0, 0, 0, 0, 0, 1]
def tform : TcpyForm := ⟨none, false, none, 8, .reg 0, .reg 2, .reg 4, .reg 6⟩
theorem copying_issuing : copying.Issuing := issuing_of (by decide +kernel)
theorem tiling_issuing : tiling.Issuing := issuing_of (by decide +kernel)

theorem w_CopiesIssue : copying.Issuing ∧ tiling.Issuing ∧
    (let s := copying
     s.issLanes = [0] ∧ s.srcOk 2 (.reg 0) = true ∧ s.srcOk 2 (.reg 2) = true ∧ (s.issLane 0).flagFull none = false ∧
     s.preCheck (s.whoIs 0) .any (cpySize 0) (cpySize 0) (s.src64 0 0 (.reg 0)) = none ∧
     s.preCheck (s.whoIs 0) .any (cpySize 0) (cpySize 0) (s.src64 1 0 (.reg 2)) = none ∧
     let r := s.name.2.cpyLanes (cpySize 0) (fun l => s.src64 0 l (.reg 0)) (fun l => s.src64 1 l (.reg 2)) [0]
     r.2.1.length = 1 ∧ r.2.2 = [] ∧ r.1.transferHeld r.2.1 (cpySize 0) = none) ∧
    (let s := tiling
     s.issLanes = [0] ∧ s.issGroup.role = .copy ∧ s.regsOk 2 (8 : BitVec 10).toNat = true ∧ s.srcOk 2 (.reg 0) = true ∧
     s.srcOk 2 (.reg 2) = true ∧ s.srcOk 2 (.reg 4) = true ∧ s.srcOk 2 (.reg 6) = true ∧ (s.issLane 0).flagFull none = false ∧
     s.tcpyEarly tform 0 = none ∧ s.ownReach 0 (s.tcpyLane tform 0).rp 32 32 .load = .ok (.dev 0x100) 0 0 ∧
     s.ownBlockers 0 (.dev 0x100) 32 false = [] ∧ s.ownHolds (.dev 0x100) 0 32 = none ∧
     let v := (s.selfWalks [(0, (s.tcpyLane tform 0).rp)]).ownLoad 0 s.issGroup.uid s.issGrid.ctx (.dev 0x100) 0 32
     (match s.tcpyLate tform 0 v.2 with
      | .ok t => decide ((v.1.tileHeld 0 t).2.1 = none ∧ 0 < t.bytes)
      | .error _ => false) = true) :=
  ⟨copying_issuing, tiling_issuing, by decide +kernel⟩

/-- A copy of lane 3 with one part, as an outstanding copy of core 0. -/
def copyOf (src dst : Ref) (data : Option (List Byte)) : Copy :=
  { id := 7, op := 8, team := 2, uid := 1, group := 0, ctx := 0, grid := 1, lanes := 8, plan := .parts [⟨3, src, dst, 4, 0⟩],
    units := [(0, ⟨data, false, false, false, none⟩)], outs := [], tile := none, ring := none, stopped := 0, failed := [],
    ended := 0, home := none, since := 0, pc := 0 }
def moving (c : Copy) : State := (mapped sv).updCore 0 fun k => { k with copies := [(7, c)], ops := [(8, oper .copy [7])] }
/-- Its entry in the copy-fault queue, 100 ms old. -/
def suspended : State :=
  { (moving { copyOf (.virt 0x200) (.at_ (.spad 0)) none with stopped := 8 }).updCore 0 fun k =>
      { k with copyFaults := [⟨7, 2, 0, 0, 3, false, 0x200, 0⟩] } with ns := 100000000 }

theorem w_CopyUnitsBatchesAndAnswers : sv.Issuing ∧
    (let c := copyOf (.virt 0x200) (.at_ (.spad 0)) none
     (moving c).copyUnit 0 7 0 = some (c, ⟨3, .virt 0x200, .at_ (.spad 0), 4, 0⟩) ∧ (c.state 0).data = none ∧
     ((moving c).copyAt 0 c (.virt 0x200) .load).2 = .spot (.mem 0x200) 0 (.dev 0x200) ∧
     (moving c).copyHeld 0 0 (.mem 0x200) (.dev 0x200) = false) ∧
    (let c := copyOf (.at_ (.spad 0x3FFFC)) (.virt 0x200) none
     ((moving c).copyUnit 0 7 0).isSome ∧ ((moving c).core 0).latent = []) ∧
    (let c := copyOf (.virt 0x200) (.at_ (.spad 0x3FFFC)) (some [1, 2, 3, 4])
     (moving c).copyUnit 0 7 0 = some (c, ⟨3, .virt 0x200, .at_ (.spad 0x3FFFC), 4, 0⟩) ∧ c.state 0 = ⟨some [1, 2, 3, 4], false, false, false, none⟩ ∧
     ((moving c).core 0).latent = [] ∧ ((moving c).core 0).zeroing.contains 0x3FF = false ∧
     (((moving c).updCore 0 fun k => { k with zeroing := [0x3FF] }).core 0).zeroing.contains 0x3FF = true ∧
     (((moving c).updCore 0 fun k => { k with zeroing := [0x3FF] }).copyUnit 0 7 0).isSome) ∧
    (∀ mem ∈ [fun m : Mem => m, fun m => { m with swept := [] }],
      let c := copyOf (.at_ (.spad 0x3FFFC)) (.virt 0x200) (some [1, 2, 3, 4])
      let s := { moving c with mem := mem (moving c).mem }
      let u := s.copyAt 0 c (.virt 0x200) .store
      s.copyUnit 0 7 0 = some (c, ⟨3, .at_ (.spad 0x3FFFC), .virt 0x200, 4, 0⟩) ∧ u.2 = .spot (.mem 0x200) 0 (.dev 0x200) ∧
        s.copyHeld 0 0 (.mem 0x200) (.dev 0x200) = false ∧ u.1.mem.isMem 0x200 = true ∧ u.1.mem.latent = [] ∧ u.1.mem.l2 = [] ∧
        (u.1.stream expStream).fail = false ∧ u.1.scrubPending 0x200 = s.mem.swept.isEmpty) ∧
    (suspended.core 0).copyFaults = [⟨7, 2, 0, 0, 3, false, 0x200, 0⟩] ∧
    (tblFind (suspended.core 0).copies 7).map (·.id) = some 7 ∧ 0 + 100000000 ≤ suspended.ns :=
  ⟨sv_issuing, by decide +kernel⟩

/-! ### Barriers, rings, team shape and launch -/

/-- The barrier of `ringed` with another count of arrivals and expectation; its lane has arrived or not. -/
def barred (arr exp : Nat) (arrived : BitVec 16) : State :=
  (ringed.updIssTeam fun t => { t with bars := [(15, ⟨true, false, 4, 0, arr, exp, 0, [], []⟩)] }).updIssGroup fun g =>
    g.updLane 0 fun x => { x with arr := arrived }
theorem barred_issuing : (barred 0 32 0).Issuing ∧ (barred 31 32 0).Issuing ∧ (barred 1 32 0x8000).Issuing :=
  ⟨issuing_of (by decide +kernel), issuing_of (by decide +kernel),
    issuing_of (by decide +kernel)⟩

theorem w_BarrierAndRingArrivals : (barred 0 32 0).Issuing ∧ (barred 31 32 0).Issuing ∧ (barred 1 32 0x8000).Issuing ∧ ringed.Issuing ∧
    (∀ s ∈ [barred 0 32 0, barred 31 32 0, barred 1 32 0x8000],
      s.issLanes = [0] ∧ (s.issTeam.bar (15 : BitVec 4).toNat).en = true ∧
      (s.issTeam.bar (15 : BitVec 4).toNat).roles.getLsbD (roleNum s.issGroup.role) = true ∧
      (tblFind s.issTeam.bars (15 : BitVec 4).toNat).isSome ∧ (s.issLane 0).new.getLsbD 15 = false ∧
      (s.issLane 0).held.getLsbD 15 = false ∧ s.issTeam.heldAt 15 = []) ∧
    ((barred 0 32 0).issLane 0).arr.getLsbD 15 = false ∧ ((barred 31 32 0).issLane 0).arr.getLsbD 15 = false ∧
    ((barred 1 32 0x8000).issLane 0).arr.getLsbD 15 = true ∧ ((barred 0 32 0).issTeam.bar 15).arr + 1 ≠ 32 ∧
    ((barred 31 32 0).issTeam.bar 15).arr + 1 = 32 ∧
    ringed.issLanes = [0] ∧ ringed.srcOk 1 (.lit .one) = true ∧ ringed.issTeam.stageOk (0 : BitVec 3).toNat (ringed.src32 0 0 (.lit .one)).toNat = true ∧
    (ringed.issLane 0).flagFull none = false :=
  ⟨barred_issuing.1, barred_issuing.2.1, barred_issuing.2.2, ringed_issuing, by decide +kernel⟩

/-- A role with or without joins, with places left or none, and the grid with private slots. -/
def shaped (join : Bool) (gmax slots : Nat) : State :=
  (sv.updIssTeam fun t => { t with roles := [(2, ⟨true, 0, 1, gmax, 1, 1⟩)], entries := [(2, ⟨join, 0, 0⟩)] }).updGrid 1 fun g =>
    { g with launch := { g.launch with slots := slots } }
/-- One lane launches a record at 0x100 on a queue: its register 2 holds the queue's number. -/
def launching (q : Word) (x : Queue) : State :=
  let s := regs (mapped (one sv)) [(0, 0x100), (2, q)]
  { s with sched := { s.sched with queues := [(63, x)] } }

theorem w_TeamShapeAndLaunchResults : sv.Issuing ∧ sv.regsOk 1 (4 : BitVec 10).toNat = true ∧
    (∃ l ∈ sv.issLanes, (sv.issLane l).flagFull none = false) ∧
    (let ok := fun (s : State) => issOk s = true
     let can := fun (s : State) => s.canJoin s.issue.core s.issue.slot .vector
     let role := fun (s : State) => s.issTeam.role .vector
     let joinable := fun (s : State) => (role s).en && (s.issTeam.entry .vector).joinEn
     joinable (shaped false 32 1) = false ∧ ok (shaped false 32 1) ∧
     joinable (shaped true 1 1) = true ∧ (role (shaped true 1 1)).gmax ≤ (role (shaped true 1 1)).live ∧
     joinable (shaped true 32 1) = true ∧ can (shaped true 32 1) = false ∧ (role (shaped true 32 1)).live < (role (shaped true 32 1)).gmax ∧
     joinable (shaped true 2 2) = true ∧ can (shaped true 2 2) = true ∧ ok (shaped true 2 2)) ∧
    (∀ c ∈ [(launching 64 Queue.reset, 3), (launching 63 ⟨true, false, 0, 0, 0, 0, false, 0, 0, []⟩, 2),
        (launching 63 ⟨true, true, 0, 0, 0, 0, false, 0, 1, []⟩, 1), (launching 63 ⟨true, true, 0, 0, 0, 0, false, 1, 1, []⟩, 0)],
      let s := c.1
      let q := (s.src32 1 0 (.reg 2)).toNat
      let x := s.queue q
      let mine := x.en = true ∧ x.src = true ∧ x.ctx = s.issGrid.ctx
      issOk s = true ∧
      s.issLanes = [0] ∧ s.regsOk 2 (4 : BitVec 10).toNat = true ∧ s.srcOk 2 (.reg 0) = true ∧ s.srcOk 1 (.reg 2) = true ∧
      s.releaseBlockers 0 = [] ∧ s.ownReach 0 (s.src64 0 0 (.reg 0)) 256 256 .load = .ok (.dev 0x100) 0 0 ∧
      s.ownBlockers 0 (.dev 0x100) 256 false = [] ∧ s.ownHolds (.dev 0x100) 0 256 = none ∧
      (c.2 = 3 ∧ 63 < q ∨ c.2 = 2 ∧ q ≤ 63 ∧ ¬mine ∨ c.2 = 1 ∧ q ≤ 63 ∧ mine ∧ x.used = x.slots ∨
        c.2 = 0 ∧ q ≤ 63 ∧ mine ∧ x.used ≠ x.slots ∧ s.sched.gridCtr < 2 ^ 63)) :=
  ⟨sv_issuing, by decide +kernel⟩

/-! ### The engine -/

/-- A matrix group that issues, its team with a ring, translations at hand, and the engine changed. -/
def engined (f : Engine → Engine) : State :=
  (mapped (sm.updIssTeam fun t => { t with rings := [(0, ⟨true, 1, 2, 2⟩)] })).updCore 0 fun k => { k with engine := f k.engine }
/-- GANG with two groups: 0 and 1, or 1 and 0. -/
def gang01 : DWord := 0x200000020
def gang10 : DWord := 0x200000001
/-- A member, of group 1. -/
def member1 (p : Nat) : Member := ⟨p, 99, 1, 0xFFFFFFFF, false, 0, [], false, none, none⟩
def mmaBf : MmaForm := ⟨some 4, .bf16, .bf16, false, 3, false, true, 0, .reg 64, 0, 0⟩
def mmaNf : MmaForm := ⟨some 4, .e2m1, .e2m1, false, 3, true, true, 0, .reg 64, 0, 0⟩
def epiF : EpiForm := ⟨none, 0, 0, .reg 0, .reg 2, .reg 3⟩

theorem engined_issuing (f : Engine → Engine) : issOk (engined f) = issOk (engined id) := rfl

/-- The epilogue program at 0x100: one word. -/
def programmed : State := near (regs (engined id) [(0, 0x100)]) 0x100 [1, 0, 0, 0, 0, 0, 0, 0]

theorem w_EngineSetupResults : (engined id).Issuing ∧ programmed.Issuing ∧
    (let s := engined id
     s.issGroup.role = .matrix ∧ s.issue.lanes ≠ 0 ∧ s.goLanes none = s.issLanes ∧ s.goLanes (some 4) = s.issLanes ∧
     s.srcOk 2 (.reg 0) = true ∧ gangOk s.issTeam (s.src64 0 (lowLane s.issue.lanes) (.reg 0)) = true ∧
     s.issCore.engine.latch = none ∧ (∀ p, p < 6 → tblGet [] s.issCore.engine.scales p = []) ∧
     s.regsOk 8 (8 : BitVec 10).toNat = true ∧ s.issCore.engine.held = []) ∧
    (let s := engined fun e => { e with gang := gang01, scales := [(0, [⟨[], []⟩, ⟨[], []⟩, ⟨[], []⟩, ⟨[], []⟩, ⟨[], []⟩, ⟨[], []⟩, ⟨[], []⟩])] }
     issOk s = true ∧ s.regsOk 4 (1020 : BitVec 10).toNat = true ∧ s.srcOk 1 (.reg 1) = true ∧ gangPos s.issCore.engine.gang s.issue.group = some 0 ∧
     (tblGet [] s.issCore.engine.scales 0).length < 8 ∧ ∀ l, l < 32 → (s.issLane l).live = true → l ∈ s.issLanes) ∧
    (let s := programmed
     s.issGroup.role = .matrix ∧ s.issCore.engine.held = [] ∧ s.goLanes none = s.issLanes ∧
     (match s.loadOnce s.issLanes (s.src64 0 0 (.reg 0)) 4 4 with
      | .error _ => false
      | .ok (u, bs) =>
        leNat bs == 1 && (match u.loadWords s.issLanes (s.src64 0 0 (.reg 0) + 4) (leNat bs) with
          | .error _ => false
          | .ok (_, ws) => ws.all epiWordOk)) = true) :=
  ⟨issuing_of (by decide +kernel), issuing_of (by decide +kernel), by decide +kernel⟩

/-- The first member of a gang of two, the last one, with a format that takes scales and one that does not; an epi.run of
position 1; a lane that needs a token; a held operation. -/
theorem w_JointOperationsIssue :
    (∀ c ∈ [(engined fun e => { e with gang := gang01 }, mmaBf, 0),
        (engined fun e => { e with gang := gang10, latch := some ⟨mmaKey mmaBf, 1, 5, [member1 0]⟩ }, mmaBf, 1),
        (engined fun e => { e with gang := gang01, latch := some ⟨mmaKey mmaNf, 1, 5, [member1 1]⟩, scales := [(0, [⟨[], []⟩])] }, mmaNf, 0)],
      let s := c.1
      let e := s.issCore.engine
      issOk s = true ∧ s.issGroup.role = .matrix ∧ s.issue.lanes ≠ 0 ∧ gangPos e.gang s.issue.group = some c.2.2 ∧
      (∀ l, l < 32 → (s.issLane l).live = true → l ∈ s.issLanes) ∧ blockOk s.issGroup.units e.gang c.2.1 = true ∧
      e.scalesFit c.2.2 c.2.1 = true ∧ e.reuseFits c.2.1 = true ∧ s.goLanes c.2.1.flag = s.issLanes ∧
      (e.latch.toList.all fun la => la.op == mmaKey c.2.1 && !la.joined s.issue.group) = true ∧ e.held = []) ∧
    (let s := engined fun e => { e with gang := gang10, latch := some ⟨epiKey epiF, 1, 5, [member1 0]⟩ }
     let e := s.issCore.engine
     issOk s = true ∧ gangPos e.gang s.issue.group = some 1 ∧ s.srcOk 2 epiF.sb = true ∧ s.srcOk 1 epiF.c = true ∧
     s.srcOk 1 epiF.p = true ∧ gangCount e.gang = 2 ∧ s.goLanes epiF.flag = s.issLanes ∧
     (e.latch.toList.all fun la => la.op == epiKey epiF && !la.joined s.issue.group) = true) ∧
    (let s := engined fun e => { e with gang := gang01, latch := some ⟨mmaKey mmaNf, 1, 5, [member1 1]⟩, scales := [(0, [⟨[], []⟩])] }
     (∃ c ∈ (s.core 0).teams, ∃ g ∈ c.2.groups, ∃ l, l < 32 ∧ (g.2.lane l).live = true ∧ s.needsToken 0 c.1 g.1 l = true) ∧
     (s.core 0).engine.token = false ∧ 0 < s.tokensFree) ∧
    ((engined fun e => { e with held := [⟨mmaKey mmaBf, 1, 5, [member1 0]⟩] }).core 0).engine.held = [⟨mmaKey mmaBf, 1, 5, [member1 0]⟩] ∧
    mmaKey mmaBf = .mma { mmaBf with a := .lit .zero } := by decide +kernel

/-- The pair r0 at the end of the scratchpad's room for an image, or for a row; the counts of an acc in r2 and r3. -/
def transferring (a : DWord) (row0 count : Word) : State :=
  regs (engined id) [(0, a.extractLsb' 0 32), (1, a.extractLsb' 32 32), (2, row0), (3, count)]
def ldbF : LdbForm := ⟨none, 8, some (0, 1), false, .e2m1, false, 0, .lit .zero, .reg 0, .lit .zero⟩
def accF (op : AccOp) : AccForm := ⟨none, op, 0, .reg 0, .reg 2, .reg 3⟩

theorem w_EngineTransfersIssue : (transferring 0x8000000000000000 127 1).Issuing ∧
    (let s := transferring 0x8000000000000000 127 1
     let low := lowLane s.issue.lanes
     let a := s.src64 0 low (.reg 0)
     s.issGroup.role = .matrix ∧ s.issue.lanes ≠ 0 ∧ s.issCore.engine.held = [] ∧ s.goLanes none = s.issLanes ∧
     s.regsOk 2 (8 : BitVec 10).toNat = true ∧ s.srcOk 2 (.reg 0) = true ∧
     s.issTeam.stageOk (0 : BitVec 3).toNat (1 : BitVec 4).toNat = true ∧ s.spadFault 256 (squareTag .e2m1 + 16) a = none ∧
     s.absentLines (s.spadPlace a (squareTag .e2m1 + 16)) (squareTag .e2m1 + 16) = [] ∧ s.srcOk 1 (.reg 2) = true ∧
     s.srcOk 1 (.reg 3) = true ∧ (s.src32 1 low (.reg 2)).toNat = 127 ∧ (s.src32 2 low (.reg 3)).toNat = 1 ∧
     s.spadFault 256 (512 * 1) a = none ∧ s.absentLines (s.spadPlace a (512 * 1)) (512 * 1) = [] ∧
     s.refLines s.issue.core (.at_ (s.spadPlace a (512 * 1))) (512 * 1) = some [(0, 0), (0, 1)] ∧
     ∀ x ∈ [(0, 0), (0, 1)], tblGet 0 (s.core x.1).outs x.2 ≠ 63) :=
  ⟨issuing_of (by decide +kernel), by decide +kernel⟩

theorem w_MmaWritesEveryElement : (([(0, []), (191, [])] : Tbl (List Word)).map (·.1)).Nodup ∧
    (5 : Nat) ∉ ([(0, []), (191, [])] : Tbl (List Word)).map (·.1) := by decide

def engOp (a : EngAct) (gone : Bool) : EngOp :=
  { id := 5, act := a, early := none, gone := gone, flag := some 4, team := 2, grid := 1, members := [member1 0], outs := [] }

theorem w_EngineOperationsComplete :
    (∀ a ∈ [EngAct.mma mmaBf 2 [] [] 0 0, .ctSet 3 1, .accZero 0 127 1, .accLd 0 (.spad 0) 0 1, .accSt 0 (.spad 0x3FE00) 127 1,
        .ldb ldbF (.spad 0) none 0 0 1 0],
      ∀ gone ∈ [false, true],
        let o := engOp a gone
        let s := engined fun e => { e with ops := [o] }
        (s.core 0).engine.opReady 5 = some o ∧ o.id = 5 ∧ o.gone = gone ∧ (s.core 0).latent = [] ∧ (s.core 0).zeroing = []) ∧
    ldbF.ct = false := by decide +kernel

theorem w_EpilogueStores :
    let a : EpiArgs := ⟨.spad 0, [0x10000], 0, 128⟩
    let o := engOp (.epi 0 4 a [0x00000000#32, 0xB000E000#32]) false
    let s := engined fun e => { e with ops := [o] }
    (s.core 0).engine.opReady 5 = some o ∧ a.place = .spad 0 ∧ a.nc ≤ 128 ∧ o.gone = false ∧ (s.core 0).latent = [] ∧ (s.core 0).zeroing = [] := by decide +kernel

/-! ### System instructions, traps and faults -/

/-- The context descriptor's grid seals; one lane submits 256 bytes at 0x100. -/
def sealing : State :=
  (regs (mapped (one sv)) [(0, 0x100), (2, 256)]).updGrid 1 fun g =>
    { g with stream := some ⟨0, 0, 0, [], Timeline.start, 0, 0⟩ }
def sealed : State :=
  sv.updGrid 1 fun g => { g with stream := some ⟨0, 0, 1, [⟨1, 0, 2, .at_ (.spad 0), List.replicate 256 none, none, false, false⟩], Timeline.start, 0, 0⟩ }

theorem w_SystemSubmissions : sv.Issuing ∧ sealing.Issuing ∧
    (sv.issue.lanes ≠ 0 ∧ sv.goLanes none = sv.issLanes ∧ sv.regsOk 2 (4 : BitVec 10).toNat = true ∧ sv.srcOk 1 (.reg 0) = true ∧
      (∀ l ∈ sv.issLanes, wearSelOk (sv.src32 0 l (.reg 0)) = true) ∧ sv.srcOk 1 (.reg 2) = true ∧
      (sv.src32 0 (lowLane sv.issue.lanes) (.reg 0)).toNat < 256 ∧ sv.boosted 0 = false ∧ sv.issLanes ≠ []) ∧
    (let s := sealing
     let ea := s.src64 0 0 (.reg 0)
     s.issLanes = [0] ∧ (s.issLane 0).flagFull none = false ∧ s.regsOk 2 (4 : BitVec 10).toNat = true ∧ s.srcOk 2 (.reg 0) = true ∧
     s.srcOk 1 (.reg 2) = true ∧ s.issGrid.stream = some ⟨0, 0, 0, [], Timeline.start, 0, 0⟩ ∧
     (tblFind s.sched.grids s.issTeam.grid).isSome ∧ (s.src32 1 0 (.reg 2)).toNat = 256 ∧ tagOf ea ∈ [0x0, 0x8, 0xA] ∧
     s.preCheck (s.whoIs 0) .any 1 256 ea = none ∧ s.sealReach 0 256 ea = .ok (.dev 0x100) 0 0 ∧
     s.sealBlockers 0 256 ea = []) ∧
    (∃ q, (sealed.grid 1).stream = some q ∧
      (q.chunks.find? fun c => c.num == 1 && !c.done) = some ⟨1, 0, 2, .at_ (.spad 0), List.replicate 256 none, none, false, false⟩) ∧
    (tblFind sealed.sched.grids 1).isSome :=
  ⟨sv_issuing, issuing_of (by decide +kernel), by decide +kernel, by decide +kernel, ⟨_, rfl, by decide +kernel⟩, by decide +kernel⟩

/-- A handler at the line after the code, with its mark. -/
def handled (s : State) : State := (near s 64 (bytesOfWords (loadLine []))).updGrid 1 fun g => { g with desc := { g.desc with entry := 15 } }
/-- Every live lane is in the handler, with its shadow. -/
def inHandler : State :=
  lanes (handled sv) fun x => { x with tl := true, shadow := some ⟨0, 0, .ready, .nothing, false, 0, [], [], none⟩ }

theorem w_TrapResults : (handled sv).Issuing ∧ inHandler.Issuing ∧ sv.Issuing ∧
    (let s := handled sv
     s.issue.lanes ≠ 0 ∧ s.issGrid.desc.entry ≠ 0 ∧ s.marked s.issue.core s.issTeam.grid s.issGrid.desc.entry = true ∧
     (∀ l ∈ s.issLanes, (s.issLane l).tl = false) ∧ s.issGrid.desc.frame = 0 ∧ (s.issLane 31).live = true) ∧
    (let s := inHandler
     (∀ l, l < 32 → (s.issLane l).live = true → ((s.issLane l).tl = true ↔ l ∈ s.issLanes)) ∧
     (∀ l ∈ s.issLanes, (s.issLane l).live = true) ∧ (∀ l ∈ s.issLanes, (s.issLane l).shadow.isSome)) ∧
    (sv.core sv.issue.core).flt.stopped = false ∧ sv.issTeam.stopping = false :=
  ⟨issuing_of (by decide +kernel), issuing_of (by decide +kernel), sv_issuing, by decide +kernel⟩

theorem w_FetchAndDecodeFaults : sv.Issuing ∧ sv.issue.lanes ≠ 0 ∧ (sv.core sv.issue.core).flt.stopped = false ∧
    (∀ l ∈ sv.issLanes, (sv.issLane l).tl = false) ∧ (0x0E : BitVec 8) ∈ ([1, 2, 3, 6, 0x0E] : List (BitVec 8)) ∧
    sv.issGrid.desc.entry = 0 := ⟨sv_issuing, by decide +kernel⟩

/-- Core 0 stopped and drained on a fault of the group. -/
def report (code : Nat) : Report := ⟨code, 1, 0, 0, 8, 0, 0, 0, false, false, 0, false⟩
def stoppedOn (code : Nat) : State :=
  (handled sv).updCore 0 fun k => { k with flt := ⟨true, false, some (report code), [], [], none⟩ }

theorem w_FaultActionsAndKills :
    (∀ code ∈ [0x07, 0x10, 0x0F],
      let s := stoppedOn code
      (s.core 0).flt.stopped = true ∧ (s.core 0).flt.cur = some (report code) ∧ s.drained 0 = true ∧ (s.core 0).flt.heldQ = [] ∧
      (s.core 0).findGroup (report code).uid = some (0, 0) ∧ (s.group 0 0 0).inTrap = false ∧
      (s.grid (s.team 0 0).grid).desc.entry ≠ 0 ∧ s.marked 0 (s.team 0 0).grid (s.grid (s.team 0 0).grid).desc.entry = true ∧
      (tblFind s.sched.grids (s.team 0 0).grid).isSome ∧ (tblFind s.ctxs.live (s.grid (s.team 0 0).grid).ctx).isSome) ∧
    (report 0x07).imprecise = false ∧ (report 0x10).imprecise = true ∧ (report 0x0F).imprecise = false := by decide +kernel

/-! ### The L1s, sweeps, walks and the fabric -/

def memWith (f : Mem → Mem) : State := { sv with mem := f sv.mem }

/-- A release point of core 0, with a dirty sector still to write back. -/
theorem w_pointsWithDirtySectors :
    let i := item (.release .dev) (.dev 0)
    let s := (l1With dirtySector).updCore 0 fun k => { k with queue := [i] }
    (s.core 0).item 9 = some i ∧ s.blocked 0 i = false ∧ s.wide 0 .dev = true ∧
      i.wb.getD (s.l1At (s.l1Of 0)).dirty = [1023] := by decide +kernel

theorem w_FillsSweepsAndRemovals :
    (let s := l1With dirtySector
     s.l1InUse 0 = true ∧ tblFind (s.l1At 0).latent 1023 = none ∧ tblFind s.mem.latent 1023 = none ∧
     (∀ i, i < 64 → s.mem.isMem (1023 * 64 + i) = s.mem.isMem (1023 * 64)) ∧ s.mem.isMem (1023 * 64) = true ∧
     ((s.l1At 0).set 0 (1023 / 4)).wayOf (1023 / 4) = some 3 ∧ tblFind ((s.l1At 0).set 0 (1023 / 4)).ways 3 = some (1023 / 4) ∧
     s.mem.l2 = [] ∧ (s.stream expStream).fail = false ∧ (tblFind (s.l1At 0).sectors 1023).isSome) ∧
    (memWith fun m => { m with sweeping := [9] }).mem.sweeping.contains 9 = true ∧
    ((sv.updCore 0 fun k => { k with zeroing := [1023] }).core 0).zeroing.head? = some 1023 ∧
    ((sv.updCore 0 fun k => { k with zeroing := [1023] }).core 0).zeroed = false ∧
    ((sv.updCore 0 fun k => { k with zeroed := true }).core 0).zeroed = true ∧
    (let s := memWith fun m => { m with latent := [(1023, .uncorrectable)] }
     s.mem.isMem (1023 * 64) = true ∧ s.scrubPending (1023 * 64) = false ∧ tblFind s.mem.latent 1023 = some .uncorrectable) ∧
    (let s := memWith fun m => { m with expSize := 65536, expDevs := [(expFirst, 65536)] }
     0 < s.mem.expDevs.length ∧ s.mem.removed.contains 0 = false ∧ s.mem.expDevs[0]? = some (expFirst, 65536) ∧
     expFirst ≤ expFirst + 65535 ∧ expFirst + 65535 < expFirst + 65536 ∧ expFirst + 65535 < hostFirst) := by decide +kernel

/-- A walk in progress, behind others; the shared TLB holds a leaf, or does not. -/
def walking (vpn before : Nat) (tlb : List Tlb) : State :=
  (sv.updCore 0 fun k => { k with walks := [(0, vpn)] }).updCluster 0 fun c =>
    { c with tlb := tlb, walks := (List.range before).map (fun i => (1, i)) ++ [(0, vpn)] }
/-- A request of core 0 to rank 3 of its grid: the rank's team is on core 1, or is moving. -/
def remote (moving : Option Nat) (zeroing : List Nat) (act : Act) : State :=
  let s := queued (item act (.rank 0 3 1 0 0)) (oper (.load .n32 4) [9])
  (s.updCore 1 fun k => { k with teams := [(0, { Team.absent with uid := 50, grid := 1, scr := 1024 })], zeroing := zeroing }).updCluster 0
    fun c => { c with ranks := [⟨1, 0, 3, 1, 0, moving⟩] }

theorem w_WalksAndRemoteRequests :
    (((walking 5 128 []).cluster (clusterOf 0)).walks.take 128).contains (0, 5) = false ∧
    (let s := walking 0 127 [⟨0, false, 0, 0, true, true, true, 0⟩]
     (s.core 0).walks.contains (0, 0) = true ∧ ((s.cluster (clusterOf 0)).walks.take 128).contains (0, 0) = true ∧
     tlbFind (s.cluster (clusterOf 0)).tlb 0 (0 * 65536) = some ⟨0, false, 0, 0, true, true, true, 0⟩) ∧
    (∀ c ∈ [(0, true), (1, false)],
      let s := walking c.1 127 []
      (s.core 0).walks.contains (0, c.1) = true ∧ ((s.cluster (clusterOf 0)).walks.take 128).contains (0, c.1) = true ∧
      tlbFind (s.cluster (clusterOf 0)).tlb 0 (c.1 * 65536) = none ∧
      (s.rootFor 0 0).map (fun root => match (s.clusterWalk 0 0 root (c.1 * 65536)).2 with
        | .leaf _ => true
        | .hole _ _ | .bad _ _ => false) = some c.2) ∧
    (((walking 0 0 []).updCore 0 fun k => { k with walks := [(9, 0)] }).rootFor 0 9).isNone = true ∧
    (∀ c ∈ [(some 0, [], Act.load 4), (none, [0], .load 4), (none, [0], .faa false 1)],
      let s := remote c.1 c.2.1 c.2.2
      let i := item c.2.2 (.rank 0 3 1 0 0)
      (s.core 0).item 9 = some i ∧ i.act.isPoint = false ∧ i.inFab = false ∧ s.blocked 0 i = false ∧
      ((s.cluster 0).rankEntry 1 0 3).isSome ∧
      (s.rankAt 0 3 1 0 = none ∧ (s.cluster 0).hold.any (·.item == 9) = false ∧ (s.cluster 0).hold.length < 256 ∨
       s.rankAt 0 3 1 0 = some (1, 0) ∧ s.linesPresent 1 ((s.team 1 0).base * 256 + 0) i.act.size = false ∧
         (s.viaSwitch i = true ∨
           s.viaSwitch i = false ∧ (s.core 1).remote.any (·.item == 9) = false ∧ (s.core 1).remote.length < 64))) := by
  decide +kernel

/-- A fetch-and-add of a core and lane 3 of it, before the switch of its cluster; a record of a key. -/
def request (core pa : Nat) : FabReq :=
  { id := 9, origin := some (core, 9), peer := none, record := none, ctx := some 0, page := none, leaves := [(core, 9)], ch := 0,
    sw := some 0, port := core, path := [], place := .dev pa, w64 := false, addend := 1, heldBy := none }
def record (pa : Nat) (isOpen : Bool) (reqs : List FabReq) (reply : Option DWord) : Contrail :=
  { id := 7, sw := 0, place := .dev pa, w64 := false, isOpen := isOpen, opened := 0, reqs := reqs, out := 258, path := [],
    reply := reply, sentAt := 0 }
def fabric (comb : BitVec 10) (reqs : List FabReq) (recs : List Contrail) : State :=
  { sv with fabric := { sv.fabric with combEn := comb, reqs := reqs, recs := recs } }
/-- The time of the open windows is over. -/
def later (s : State) : State := s.updRegion (switchRegion 0) fun x => { x with cyc := windowLen 0 }

/-- Two fetch-and-adds of lanes 3 of cores 0 and 1, met in a record whose reply has come. -/
def replied : State :=
  let k : Core → Core := fun k =>
    { k with queue := [{ item (.faa false 1) (.dev 0x200) with inFab := true }], ops := [(8, oper (.atomic 4 false 7) [9])] }
  ((fabric 0x3FF [] [record 0x200 false [request 0 0x200, request 1 0x200] (some 5)]).updCore 0 k).updCore 1 k

theorem w_SwitchesCombineAndRepliesSplit :
    (let r := request 0 0x200
     (let s := fabric 0x3FF [r] [record 0x204 true [request 0 0x204] none]
      s.arriving 0 9 = some r ∧ ((s.markSent r).closeOver 0).fabric.heldBehind 0 r = some (record 0x204 true [request 0 0x204] none)) ∧
     (∀ c ∈ ([(0x3FF, [record 0x200 true [request 1 0x200] none]), (0, []), (0x3FF, [])] : List (BitVec 10 × List Contrail)),
       let s := fabric c.1 [r] c.2
       let u := (s.markSent r).closeOver 0
       let b := u.fabric
       let window := b.recs.find? fun c => c.sw == 0 && c.isOpen && c.out == u.outPort 0 r && r.sameKey c
       s.arriving 0 9 = some r ∧ b.heldBehind 0 r = none ∧
       (c.1 = 0x3FF ∧ window = c.2.head? ∧ (∀ d ∈ (c.2 : List Contrail), d.reqs.length + 1 < 64) ∨
         c.1 = 0 ∧ window = none ∧ b.combines 0 r = false) ∧
       (c.1 = 0x3FF → c.2 = [] → b.combines 0 r = true ∧
         (b.recs.filter fun c => c.sw == 0 && c.out == u.outPort 0 r).length < recordCap 0))) ∧
    (∀ l ∈ [[request 0 0x200], [request 0 0x200, request 1 0x200]],
      let s := later (fabric 0x3FF [] [record 0x200 true l none])
      (fabric 0x3FF [] [record 0x200 true l none]).windowOver (record 0x200 true l none) = false ∧
      s.windowOver (record 0x200 true l none) = true ∧
      (s.fabric.recs.find? fun c => c.id == 7 && c.sw == 0 && c.isOpen) = some (record 0x200 true l none) ∧
      ∀ x ∈ s.fabric.reqs, x.heldBy ≠ some 7) ∧
    (let s := replied
     (s.fabric.recs.find? fun c => c.id == 7 && c.sw == 0) =
       some (record 0x200 false [request 0 0x200, request 1 0x200] (some 5)) ∧
     (∀ c ∈ [0, 1], (s.core c).item 9 = some { item (.faa false 1) (.dev 0x200) with inFab := true } ∧
       tblFind (s.core c).ops 8 = some (oper (.atomic 4 false 7) [9])) ∧
     (8 : BitVec 32) = (1 : BitVec 32) <<< 3) ∧
    (let s := { fabric 0x3FF [] [record 0x200 false [request 0 0x200] none] with ns := 250000 }
     (s.fabric.recs.find? fun c => c.id == 7 && c.sw == 0) = some (record 0x200 false [request 0 0x200] none) ∧
     0 + s.fabric.tmo + 50000 ≤ s.ns) := by decide +kernel

/-- After reset, with every vector unmasked. -/
def unmasked : State := { State.reset with link := ⟨true, false, [], [], []⟩ }
/-- An access that has waited TMO_US; a held request of core 0 for a rank that has moved for 100 µs. -/
def waited (i : Item) : State := { queued { i with sent := some (0, 1) } (oper (.atomic 4 false 7) [9]) with ns := 200000 }
def holding : State :=
  { (remote (some 100000) [] (.load 4)).updCluster 0 fun c => { c with hold := [⟨some 0, 9⟩] } with ns := 200000 }
def porting (p : Port) : State := { sv with fabric := { sv.fabric with ports := [(11, p)] }, ns := 1000000 }

theorem w_TimeoutsPortsAndParking :
    (∀ i ∈ [item (.atom .xchg .i32 1) (.dev 0x200), item (.atom .xchg .i32 1) (.host 0)],
      let s := waited i
      (s.core 0).item 9 = some { i with sent := some (0, 1) } ∧ i.inFab = false ∧ 0 + s.fabric.tmo ≤ s.ns ∧
      tblFind (s.core 0).ops i.op = some (oper (.atomic 4 false 7) [9]) ∧ (tblFind s.ctxs.live i.ctx).isSome ∧
      (i.timed = true ∧ s.mem.inHost i.place = false ∧ i.ended = false ∧ i.act.writes = true ∨
        s.mem.inHost i.place = true ∧ i.act.isPoint = false)) ∧
    (let s := holding
     let e : RankEntry := ⟨1, 0, 3, 1, 0, some 100000⟩
     ((s.cluster 0).ranks.filter fun x => x.rank == e.rank && x.moving.any fun t => t + 100000 ≤ s.ns) = [e] ∧
     s.heldFor 0 e = [⟨some 0, 9⟩] ∧ s.copiesFor 0 e = [] ∧ (∀ k ∈ s.cores, ∀ o ∈ k.2.engine.ops, o.waitsFor 0 e = false) ∧
     (∀ k ∈ s.cores, ∀ x ∈ k.2.teams, ∀ y ∈ x.2.groups, ∀ l, l < 32 → (y.2.lane l).parkedFor 0 e = none) ∧
     (s.core 0).item 9 = some (item (.load 4) (.rank 0 3 1 0 0)) ∧
     (s.core 0).findGroup 1 = some (0, 0) ∧ (s.core 0).flt.stopped = false ∧ (s.team 0 0).stopping = false ∧
     (s.core 0).trapLanes 1 (item (.load 4) (.rank 0 3 1 0 0)).lanes = false ∧
     ((s.core 0).ops.find? fun x => x.1 == 8) = some (8, oper (.load .n32 4) [9])) ∧
    (∀ bad ∈ [15, 16], ((porting { Port.reset with up := true, badReplay := bad }).port 11).up = true ∧
      ((porting { Port.reset with up := true, badReplay := bad }).port 11).badReplay = bad) ∧
    ((porting { Port.reset with up := true, badReplay := 16, badTrain := 2 }).port 11).badTrain = 2 ∧
    ((porting { Port.reset with en := true }).port 11).en = true ∧
    ((porting { Port.reset with parking := some (2, 0) }).port 11).parking = some (2, 0) ∧
    0 + 1000000 ≤ (porting Port.reset).ns ∧ ¬0 + 1000000 < (porting Port.reset).ns ∧ unmasked.link.masked 81 = false := by
  decide +kernel

/-- The module is ready; a context's tables stand at the export window's descriptor. -/
def ready : State := { sv with mgmt := { sv.mgmt with ready := true } }
def hostReading (win : HostWindow) (w : Option (List Byte)) (a : Nat) : HostReq := ⟨win, a, 4, w, 0, true⟩
def exporting (wr : Bool) : State :=
  near { sv with fabric := { sv.fabric with expSize := 1, wrEn := wr } } 0 (natLe farFirst 8)

theorem w_HostAndPeerRequests :
    (∀ win ∈ [HostWindow.arrived, .service, .root],
      ∀ c ∈ [(none, 0xFFFC, true), (some [1, 2, 3, 4], 0xFFFC, true), (some [1, 2, 3, 4], 0x10000, false)],
        let s := ready
        let r := hostReading win c.1 c.2.1
        let pa := r.offset
        let n := hostLen r
        r.inside = true ∧ s.joinHost (.hostAccess r) = none ∧ s.hostAllowed pa n = true ∧
        s.fabric.windowHolds (s.x0Path 20 pa) (.dev pa) = false ∧ s.fabric.windowHolds (s.x0Path 21 pa) (.dev pa) = false ∧
        s.mgmt.l2Busy = false ∧ n ≠ 0 ∧ s.mem.isMem pa = true ∧ s.mem.isMem (pa + n - 1) = true ∧ s.mem.latent = [] ∧
        s.mem.l2 = [] ∧ (s.stream expStream).fail = false ∧ (s.stream expStream).stall = none ∧
        s.pendingPage pa n = if c.2.2 then none else some 1) ∧
    (let r : HostReq := ⟨.cxlNear, 0xFFFC, 4, none, 0, false⟩
     ready.inWindow r = true ∧ r.inside = false ∧ r.stream = 0 ∧ ready.trust.mode = false) ∧
    sv.mgmt.ready = false ∧ ready.mgmt.ready = true ∧ 8 % 4 = 0 ∧ 3 < regCount .lqPtr ∧ 3 % 4 ≠ 0 ∧ RegName.lqPtr ≠ .msixCtl ∧
    (let held : Instr := .hostAccess ⟨.arrived, 0xFFFC, 4, none, 1, false⟩
     let s : State := { sv with trust := { sv.trust with ide := [(1, ⟨0, true, some 0, false, true, [held], false⟩)], sessions := [(5, true)] },
                                ns := 1000000000 }
     (s.stream 1).stall = some 0 ∧ (s.stream 1).fail = false ∧ 0 + 1000000000 ≤ s.ns ∧ (s.stream 2).stall = none ∧
     (s.stream 1).held = [held] ∧ s.inSession 5 = true ∧ s.inSession 6 = false) ∧
    (∀ k ∈ [PeerKind.load 4, .store [1, 2, 3, 4], .faa false 5],
      let s := exporting true
      let r : PeerReq := ⟨5, 0, 11, 0xFFFC, k, none⟩
      r.woff + (peerAct r.kind).size ≤ s.fabric.expSize * 65536 ∧ s.fabric.wrEn = true ∧
      (match s.exportAt .unowned r.woff (peerNeed r.kind) with
       | (u, .ok (pa, ch)) =>
         let h : PeerHome := ⟨pa, ch, u.fabric.expCtx, (u.fabric.expBase + r.woff) / 65536⟩
         (u.peerWaits r).isNone && !u.mgmt.l2Busy && !u.fabric.holdsBlock h.pa && u.mem.isMem h.pa && u.mem.latent == [] &&
           u.mem.l2.all (fun x => x.2.bad == none) && !(u.stream expStream).fail && (u.stream expStream).stall == none &&
           !u.behindPeer { r with home := some h } h && !u.scrubPending h.pa
       | _ => false) = true) ∧
    (exporting false).fabric.wrEn = false ∧ peerNeed (.store [1]) ≠ .load ∧
    (exporting false).fabric.expSize * 65536 < 0xFFFD + (peerAct (.load 4)).size := by decide +kernel

/-! ### Service registers and commands -/

theorem w_RegisterWrites : (0 : Nat) = 0 ∧ 2047 < 2048 ∧ RegName.rootDeny ∈ [RegName.wkeyStat, .rootDeny] ∧ 7 < 8 ∧
    (let s : State := { ready with link := ⟨true, false, [127], [127], []⟩ }
     127 < 128 ∧ (2 : DWord).getLsbD 0 = false ∧ s.link.mask.contains 127 = true ∧ s.link.pending.contains 127 = true ∧
     s.link.enable = true ∧ s.link.allMask = false) ∧
    ready.mgmt.ready = true ∧ sv.mgmt.ready = false ∧
    (let s : State := { ready with link := ⟨false, true, [], [127], []⟩ }
     s.link.pending.contains 127 = true ∧ s.link.mask.contains 127 = false ∧ (0x8000 : DWord).getLsbD 15 = true ∧
     (0x8000 : DWord).getLsbD 14 = false) ∧ ∀ j, ready.joinHost j = none := by
  refine ⟨rfl, by decide, by decide, by decide, by decide +kernel, by decide +kernel, by decide +kernel, by decide +kernel, fun _ => rfl⟩

def mgmtWith (f : Mgmt → Mgmt) : State := { unmasked with mgmt := f State.reset.mgmt }
/-- A grid that dispatches one team of one group, on a machine. -/
def grid5 (f : Launch → Launch) : Grid :=
  { Grid.absent with
    id := 5, joined := 1, started := true, dispatching := true,
    launch := f { Launch.absent with gx := 1, gy := 1, gz := 1, slots := 2, roles := [(2, ⟨true, 0, 0, 2, 1, 1⟩)] } }
/-- In each cluster but the first a core holds a team, so that none of them can change its L1 mode. -/
def busyElsewhere (s : State) : State :=
  [256, 512, 768, 1024, 1280, 1536, 1792].foldl (fun s c => s.updCore c fun k =>
    { k with teams := [(0, { Team.absent with uid := 70, grid := 6 })] }) s
def dispatching (s : State) (g : Grid) : State := { s with sched := { s.sched with grids := tblSet s.sched.grids 5 g } }

theorem w_InvalidationScrubAndCacheModes :
    State.reset.mgmt.invBusy = false ∧
    (let s := mgmtWith fun m => { m with invBusy := true, scrubBusy := true, l2Busy := true }
     s.mgmt.invBusy = true ∧ s.mgmt.invItems.any s.itemLeft = false ∧ s.mgmt.invOps.any s.engineLeft = false ∧
     s.mgmt.invDirty.any s.dirtyLeft = false ∧ s.mgmt.invReqs.any s.reqLeft = false ∧ s.mgmt.invPeers = [] ∧ s.mem.l2 = [] ∧
     s.mgmt.scrubBusy = true ∧ s.mgmt.l2Busy = true) ∧
    (let s := mgmtWith fun m => { m with scrubPa := 0x10000 }
     s.mgmt.scrubBusy = false ∧ 0 < (3 : BitVec 31).toNat ∧ s.mgmt.scrubPa % 65536 = 0 ∧ s.mem.rangeOk s.mgmt.scrubPa (3 : BitVec 31).toNat = true) ∧
    State.reset.mgmt.l2Busy = false ∧ State.reset.atBoundary = true ∧ sv.atBoundary = false ∧
    (∀ c ∈ [(1, true), (2, false)],
      let s := (dispatching State.reset (grid5 fun l => { l with l1mode := c.1 })).updCluster 7 fun x => { x with fused := c.2 }
      s.firstEntry = some ⟨0, 1, 5, false⟩ ∧ s.clusterEmpty 7 = true ∧ (s.grid 5).launch.l1mode = c.1 ∧ (s.cluster 7).fused = c.2) := by
  decide +kernel

def contexts (live : List Nat) : State :=
  { State.reset with ctxs := { State.reset.ctxs with count := 8, live := live.map fun c => (c, Ctx.fresh 0) } }
def queues (x : Queue) : State :=
  { State.reset with sched := { State.reset.sched with queues := [(63, x)] }, mgmt := { State.reset.mgmt with ready := true } }

theorem w_ContextAndQueueCommands :
    (let s := contexts [3]
     tblFind s.ctxs.live (7 : BitVec 16).toNat = none ∧ (7 : BitVec 16).toNat < s.ctxs.count ∧
     (tblFind s.ctxs.live (3 : BitVec 16).toNat).isSome ∧ s.ctxs.count ≤ (8 : BitVec 16).toNat ∧ s.ctxInUse 3 = false ∧
     s.ctxs.running = none ∧ s.ctxRefused 1 7 = false ∧
     ({ s with ctxs := { s.ctxs with running := some (1, 7) } } : State).ctxs.running.isSome) ∧
    (sv.ctxInUse 0 = true) ∧
    (let s := queues Queue.reset
     s.mgmt.ready = true ∧ s.joinHost (.lqCfgWrite 63 0) = none ∧ (s.queue 63).head = (s.queue 63).tail ∧ ∀ g ∈ s.sched.grids, g.2.queue = 63 → g.2.started = true → g.2.dispatching = false) ∧
    (let s := queues ⟨true, false, 0, 2, 0, 0, false, 2 ^ 31 - 1, 1, []⟩
     let x := s.queue 63
     let v : DWord := 3
     let tail := v.toNat / 2 ^ 0 % 2 ^ 31
     s.mgmt.ready = true ∧ s.joinHost (.lqDoorbell 63 v) = none ∧ v.getLsbD 63 = false ∧ x.src = false ∧ x.tail < 2 ^ 31 ∧ 0 < (tail + 2 ^ 31 - x.tail) % 2 ^ 31 ∧
     (tail + 2 ^ 31 - x.tail) % 2 ^ 31 ≤ (tail + 2 ^ 31 - x.head) % 2 ^ 31 ∧ (tail + 2 ^ 31 - x.head) % 2 ^ 31 ≤ x.slots ∧
     s.sched.gridCtr + (tail + 2 ^ 31 - x.tail) % 2 ^ 31 < 2 ^ 63) := by decide +kernel

/-! ### Scheduling -/

/-- A record of a launch of one team of one vector group, and one with a GX of 0, at the base of queue 63. -/
def recordBytes (gx : Byte) : List Byte :=
  let m := memWrite [] 4 [gx, 0, 0, 0, 1, 0, 1, 0]
  let m := memWrite m 40 (natLe (2 ^ 32 + 10) 8)
  memRead (memWrite m 64 (natLe (2 ^ 63 + 2 ^ 30 + 2 ^ 24 + 1) 8)) 0 256
def taking (gx : Byte) : State :=
  let s := contexts [0]
  let s : State := { s with mem := { s.mem with swept := [0, 1], cells := memWrite [] 0x10000 (recordBytes gx) } }
  { s with sched := { s.sched with queues := [(63, ⟨true, false, 0, 0, 0, 1, false, 0, 1, [⟨1, 0, 0, false⟩]⟩)] } }

theorem w_GridsTakenStartedEnded :
    (∀ c ∈ [((1 : Byte), true), (0, false)],
      let s := taking c.1
      let x := s.queue 63
      x.pend = [⟨1, 0, 0, false⟩] ∧ x.en = true ∧ (∀ g ∈ s.sched.grids, g.2.inQueue 63 = false) ∧
      (let r := s.hRead (.ctx x.ctx) 0 (x.slotAt x.head) 256
       let v := r.1.updQueue 63 fun x => { x with head := (x.head + 1) % 2 ^ 31, pend := [] }
       match (v.checkRecord 63 ⟨1, 0, 0, false⟩ r.2).2 with
       | .ok _ => true
       | .error _ => false) = c.2) ∧
    (let g := { grid5 id with started := false, dispatching := false }
     let s := dispatching (contexts [0]) g
     tblFind s.sched.grids 5 = some g ∧ g.started = false ∧ s.depHolds g.ctx g.launch.dep0Sel g.launch.dep0 = true ∧
     s.depHolds g.ctx g.launch.dep1Sel g.launch.dep1 = true ∧ (s.sched.grids.filter fun c => c.2.started).length < 1024) ∧
    (let g := { grid5 id with dispatching := false, sig := 1 }
     let s := dispatching (contexts [0]) g
     tblFind s.sched.grids 5 = some g ∧ s.gridDone g = true ∧ (tblFind s.ctxs.live g.ctx).isSome) := by decide +kernel

/-- Two groups above the least of the team of core 0, in a grid that has no private slot left. -/
def crowded : State :=
  let t : Team :=
    { Team.absent with uid := 2, grid := 5, scr := 1, roles := [(2, ⟨true, 0, 2, 2, 1, 1⟩)],
                       groups := [(0, { Group.absent with uid := 1, role := .vector, units := 1 }),
                                  (1, { Group.absent with uid := 3, role := .vector, units := 1, pslot := 1 })] }
  let g := { grid5 (fun l => { l with gx := 2, scr := 1 }) with nextT := 1, liveTeams := 1, slotsHeld := [0, 1] }
  (dispatching State.reset g).updCore 0 fun k => { k with teams := [(0, t)] }
/-- A team that joins may make larger. -/
def growing : State :=
  (shaped true 2 2).updCore 0 fun k => { k with issued := 0 }

theorem w_AdmissionGrowthAndShrinking :
    (let s := busyElsewhere (dispatching State.reset (grid5 fun l => { l with scr := 1024, l1mode := 2 }))
     s.firstEntry = some ⟨0, 1, 5, false⟩ ∧ s.mgmt.l2Busy = false ∧ s.beforeTick = false ∧ (s.grid 5).launch.share = false ∧
     s.placement ⟨0, 1, 5, false⟩ = some [0] ∧ (s.core 0).lineBase (s.grid 5).launch.scr = some 0 ∧
     lowestFree 32 (tblKeys (s.core 0).teams) = some 0 ∧ (tblFind s.sched.grids 5).isSome) ∧
    (let s := growing
     s.sched.growEn = true ∧ (s.core 0).issued = 0 ∧ (s.core 0).grown = false ∧ (s.core 0).gated = false ∧
     s.someFits 0 = false ∧ s.grows 0 = some (0, .vector) ∧ ∀ x ∈ (s.core 0).teams, x.2.joins = []) ∧
    (let s := crowded
     let e : Entry := ⟨0, 1, 5, false⟩
     let d : Demand := ⟨1, 1, 1, 0, 0, false⟩
     s.firstEntry = some e ∧ s.entryTeams e = [(1, d)] ∧ s.placement e = none ∧ s.sched.shrunk.contains (s.entryTag e) = false ∧
     s.leastCore ((tblKeys s.cores).filter fun c => (s.shrinkSet e d c).isSome) = some 0 ∧
     s.shrinkSet e d 0 = some [(0, 2, 1)] ∧ (tblFind (s.team 0 0).roles 2).isSome) ∧
    (let s : State := { crowded with sched := { crowded.sched with shrinks := [⟨(1, 1), 2, 2, 1000⟩] }, ns := 1000 }
     (s.sched.shrinks.any fun r => s.reached r.due) = true ∧ (tblFind (s.core 0).teams 0).map (·.uid) = some 2 ∧
     (tblFind (s.team 0 0).roles 2).isSome) := by decide +kernel

/-- The team of core 0 has used its quantum; an entry that wants fused L1s waits, or none does. -/
def expired (entry : Bool) : State :=
  let s := (sv.updIssTeam fun t => { t with quantum := 0, yielding := entry }).updGrid 1 fun g =>
    { g with desc := { g.desc with saveBase := 0x10000000, saveUnits := 64 } }
  busyElsewhere (if entry then dispatching s (grid5 fun l => { l with l1mode := 2, scr := 1024 }) else s)
def leaving (units : Nat) (killed : Bool) : State :=
  (sv.updIssTeam fun t => { t with stopping := true }).updGrid 1 fun g =>
    { g with desc := { g.desc with saveBase := 0x10000000, saveUnits := units }, killed := killed }
/-- Its rank, marked moving or not. -/
def ranked (m : Option Nat) : State :=
  ((leaving 64 false).updIssTeam fun t => { t with rank := some 3 }).updCluster 0 fun c => { c with ranks := [⟨1, 0, 3, 0, 0, m⟩] }
/-- A team that was saved waits to come back. -/
def returning : State :=
  let w : Waiting :=
    { team := { Team.absent with uid := 2, grid := 1, scr := 1024 }, ctx := 0, prio := 0, joined := 3, area := 0x10000000, size := 65536, engine := none,
      suspended := [], ops := [], fallen := [], cluster := 0 }
  busyElsewhere { contexts [0] with sched := { State.reset.sched with
    grids := [(1, { loadGrid with launch := { loadGrid.launch with l1mode := 2 } })], waiting := [w] } }

theorem w_PreemptionAndRestore :
    (∀ b ∈ [true, false],
      let s := expired b
      s.mates 0 0 = [(0, 0)] ∧ (s.team 0 0).stopping = false ∧ (s.team 0 0).quantum = 0 ∧ (tblFind (s.core 0).teams 0).isSome ∧
      (s.core 0).flt.stopped = false ∧ (s.core 0).quiescing = false ∧
      (b = false ∧ s.entries = [] ∨ b = true ∧ s.entries ≠ [] ∧ s.canLeave 0 0 = true)) ∧
    (expired true).chosen.contains (0, 0) = true := by decide +kernel

theorem w_teamsLeave :
    ((ranked none).team 0 0).stopping = true ∧ (ranked none).unmarked 0 0 = true ∧ (ranked (some 0)).unmarked 0 0 = false ∧
    (∀ c ∈ [(64, false, true), (64, true, true), (0, false, false)],
      let s := leaving c.1 c.2.1
      (tblFind (s.core 0).teams 0).isSome ∧ s.mates 0 0 = [(0, 0)] ∧ (s.team 0 0).stopping = true ∧ s.unmarked 0 0 = false ∧
      (s.core 0).flt.stopped = false ∧ s.teamDrained 0 0 = true ∧ (s.grid (s.team 0 0).grid).killed = c.2.1 ∧
      (s.areasFor s.areas (s.mates 0 0)).isSome = c.2.2) := by decide +kernel

theorem w_teamsReturn :
    (let s := returning
     let e : Entry := ⟨0, 3, 1, true⟩
     s.firstEntry = some e ∧ e.back = true ∧ s.mgmt.l2Busy = false ∧ s.beforeTick = false ∧ s.placement e = some [0] ∧ (s.entryTeams e).length = 1 ∧
     ((s.sched.waiting.find? fun w => w.joined == e.joined && w.team.t == 0).map (·.team.uid)) = some 2 ∧
     (s.core 0).lineBase 1024 = some 0 ∧ lowestFree 32 (tblKeys (s.core 0).teams) = some 0) ∧
    (sv.core 0).gated = false ∧ (sv.core 0).teams ≠ [] ∧ (State.reset.core 2047).teams = [] ∧ (State.reset.core 2047).rest = none := by decide +kernel

theorem w_ThrottleWindowsAndRetirement :
    (∀ e ∈ [8, 9, 31, 32], ((sv.updCore 0 fun k => { k with window := 0, evE := e }).core 0).window = 0) ∧
    (let s := State.reset.updCore 2047 fun k => { k with quiescing := true, gated := true }
     let k := s.core 2047
     k.quiescing = true ∧ k.gated = true ∧ k.teams = [] ∧ (s.cluster (2047 / 256)).spares.contains 271 = true ∧ k.phys < 272 ∧ 271 < 272 ∧
     k.phys ≠ 271 ∧ k.settled = true ∧ ({ k with ops := [(8, oper .store [])] } : Core).settled = false) := by decide +kernel

/-! ### Clocks, power and wear -/

def powerWith (f : Power → Power) : State := { sv with power := f sv.power }
def nearing (stall : Nat) (f : Core → Core) : State :=
  sv.updCore 0 fun k => f { k with ntCycles := 2500, ntStall := stall }

theorem w_ClocksIslandsTokensAndEnergy :
    (let s := State.reset.updRegion 143 fun x => { x with nTgt := 40 }
     (s.region 143).nCur ≠ (s.region 143).nTgt ∧ ∀ c ∈ s.coresIn 143, (s.core c).issued = 0) ∧
    (unmasked.region 143).refLost = false ∧ unmasked.link.masked 85 = false ∧
    (∀ c ∈ [(1875, true), (1249, false)],
      let s := nearing c.1 id
      let k := s.core 0
      s.ns % 10000 = 0 ∧ k.ntCycles ≠ 0 ∧ k.ntAuto = true ∧
      (c.2 = true ∧ k.ntEnter * k.ntCycles ≤ 256 * k.ntStall ∧ s.boosted 0 = false ∧ tblGet 0 k.ntKeep 0 = 0 ∧ k.keepsIsland 0 = false ∨
       c.2 = false ∧ 256 * k.ntStall < min k.ntExit k.ntEnter * k.ntCycles ∧ k.keepsIsland 0 = false ∧ k.sleeps 0 = false)) ∧
    ((lanes sv fun x => { x with status := .waiting, waitOn := .time 5 false }).core 0).keepsIsland 0 = true ∧
    tblFind ((nearing 0 fun k => { k with ntSettle := [(3, true)] }).core 0).ntSettle 3 = some true ∧
    (unmasked.cluster 0).thr.getLsbD 4 = false ∧ unmasked.link.masked 84 = false ∧
    min 2048 ((2047 : DWord).toNat % 4096) < State.reset.power.size ∧
    2 ^ 48 ≤ tblGet 0 (powerWith fun p => { p with energy := [(3, 2 ^ 48 - 1)] }).power.energy 3 + (1 : BitVec 48).toNat := by
  decide +kernel

/-- A request that waits: its lanes hold the operation of `oper`. -/
def boosting (point us : Nat) (f : Power → Power) : State :=
  let s := queued (item (.load 4) (.dev 0)) { oper (.sfu 4) [] with values := [] }
  { s with power := f { s.power with requests := [⟨0, 8, 0, point, us, 0, 1, 0⟩] } }
/-- The cores of the first region are retired: a request there has no charge. -/
def resting (s : State) : State :=
  { s with wear := { s.wear with live := (List.range 17).map fun u => (u, { Wear.reset with st := 2 }) } }
def grant9 : Grant := ⟨9, 0, 0, 1, 32, 0, 0, 1000, 0⟩

theorem granted_of {s : State} (h0 : s.power.boostEn = true) (h1 : tblGet ⟨false, 0, 0, 0⟩ s.power.pts 1 = ⟨true, 800, 52, 32⟩)
    (h2 : (s.activeIn 0).length = 0) (h3 : (decide (800 ≤ (s.region 0).hot) || (s.region 0).nearLimit || s.overCeiling 0 800) = false)
    (h4 : ¬s.tokensFree < 32) : ∃ c, s.boostAnswer 0 1 1000 = .granted 1 1000 c := by
  refine ⟨boostCharge 0 (boostExtra 800 (s.region 0).t8) 1000, ?_⟩
  simp only [State.boostAnswer, State.boostPoints, h0, h1, h2, h3, h4, boostMax]
  simp

theorem w_boostGranted :
    ∃ c, (resting (powerWith id)).boostAnswer 0 1 1000 = .granted 1 1000 c :=
  granted_of (by decide +kernel) (by decide +kernel) (by decide +kernel) (by decide +kernel) (by decide +kernel)

theorem w_boostsAnswered :
    (boosting 1 0 id).boostAnswer 0 1 0 = .ended ∧ (boosting 5 10 id).boostAnswer 0 5 10 = .refused 5 := by decide +kernel

theorem w_boostsWaiting : ∀ c ∈ [(1, 0), (5, 10), (1, 1000)],
    let s := boosting c.1 c.2 id
    s.nextBoost = some ⟨0, 8, 0, c.1, c.2, 0, 1, 0⟩ ∧ s.boostReady ⟨0, 8, 0, c.1, c.2, 0, 1, 0⟩ = true ∧ (tblFind (s.core 0).ops 8).map (·.id) = some 8 ∧
      (s.core 0).findGroup 1 = some (0, 0) := by decide +kernel

theorem w_WearAndBoostRecords :
    (let s : State := { State.reset with ns := 1000000 }
     s.ns % 1000000 = 0 ∧ s.ns ≠ s.power.tickAt ∧ s.firstEntry = none ∧ s.cores = [] ∧ s.unitRests 4351 = false) ∧
    (let s : State := { State.reset with ns := 1000000000 }
     s.wear.commit = none ∧ s.ns % 1000000000 = 0 ∧ s.wear.began ≠ some s.ns) ∧ 0 + 1 < wearUnits ∧ wearUnits ≤ 4371 + 1 ∧
    2048 ≤ (2048 : BitVec 16).toNat ∧ (8192 : BitVec 16).toNat ≤ 8192 := by decide +kernel

theorem w_grantExpires :
    (let s : State := { powerWith fun p => { p with grants := [grant9] } with ns := 1000000 }
     (s.power.grants.find? fun x => x.id == grant9.id) = some grant9 ∧
     s.reached ((grant9.at_ + grant9.dur * 1000) % 2 ^ 64) = true) := by decide +kernel

/-! ### Trust, resets, the step and the encoding -/

def trusting (f : Trust → Trust) : State := { mgmtWith fun m => { m with ready := true } with trust := f State.reset.trust }

theorem w_SpdmRequests :
    unmasked.link.masked 86 = false ∧ unmasked.mgmt.ready = false ∧
    (let s := trusting fun t => { t with chains := [(7, [1])], pending := [.challenge 7 0] }
     s.link.masked 86 = false ∧ s.mgmt.ready = true ∧ s.chain 7 = some [1] ∧ s.chain 6 = none ∧ s.agenda.count (.again (.challenge 7 0)) < s.trust.pending.count (.challenge 7 0) ∧
     s.trust.pending.count (.measurements 6 true 7) ≤ s.agenda.count (.again (.getMeasurements 6 true (some 7))) ∧ 1 ≤ 6 ∧ 6 ≤ 6 ∧ ¬(1 ≤ 7 ∧ 7 ≤ 6) ∧ ¬(1 ≤ 0 ∧ 0 ≤ 6)) := by decide +kernel

theorem w_SecureSessions :
    (let s := { trusting (fun t => { t with sessions := [(1, true), (2, false)], pending := [.challenge 7 0] }) with ctxs := (contexts [0]).ctxs }
     s.mgmt.ready = true ∧ s.link.masked 86 = false ∧ (2, false) ∈ s.trust.sessions ∧ (3, false) ∉ s.trust.sessions ∧
     s.inSession 1 = true ∧ s.inSession 2 = false ∧ (∃ r ∈ s.trust.pending, r.slot = 7) ∧ (∀ r ∈ s.trust.pending, r.slot ≠ 1) ∧
     (tblFind s.ctxs.live (0 : BitVec 16).toNat).isSome) := by decide +kernel

theorem w_FullResets : (1 : DWord).getLsbD 0 = true ∧ (2 : DWord).getLsbD 0 = false := by decide

/-- A loaded instruction with the lanes at another place. -/
def loadedAt (ps : List Word) (pc : PAddr) : State :=
  (State.reset.load ps).updGroup 0 0 0 fun g => { g with lanes := tblMap (fun _ x => { x with pc := pc }) g.lanes }
/-- What the fetch of its issue gives: the code of a fault, or the line's parcels. -/
def fetched (s : State) : Nat × List Word :=
  match ({ s with agenda := [] } : State).startIssue 0 with
  | none => (99, [])
  | some u =>
    match u.fetchLine u.issue.core u.issTeam.grid (lineOf u.issue.p) with
    | (_, .error (c, _)) => (c, [])
    | (w, .ok ws) => if w.entryFault ws then (6, []) else (0, (ws.take 15).drop (slotOf w.issue.p))
def reading (ps : List Word) : List Word := (fetched (loadedAt ps 0)).2

/-- A fetch that faults, an entry that fails, an instruction, an unassigned encoding, a prefix that may stand, one that may not. -/
theorem w_StepRunsTheDecodedInstruction :
    (State.reset.load [0x00000004]).agenda = [.issue 0] ∧ State.reset.agenda = [] ∧ (State.reset.startIssue 0).isNone = true ∧
    (fetched (loadedAt [0x00000004] 0x1000000)).1 = 1 ∧ (fetched (loadedAt [0x00000004] 3)).1 = 6 ∧
    (fetched (loadedAt [0x00000004] 0)).1 = 0 ∧ (decode (reading [0x00000004])).toOption = some (.nop, 1) ∧
    (decode (reading [0x00000404])).toOption = none ∧
    (decode (reading [0x7F000003, 0x00200D01, 5])).toOption = some (.pxLit 0x7F00000, 1) ∧
    pxAccepted 0 (fun w => pxFormat w != .other) (reading [0x7F000003, 0x00200D01, 5]) = true ∧
    (decode ((reading [0x7F000003, 0x00200D01, 5]).drop 1)).toOption = some (.addi ⟨3, ⟨false, false⟩, false, .reg 2, 5⟩, 2) ∧
    pxAccepted 0 (fun w => pxFormat w != .other) (reading [0x7F000003, 0x00000004]) = false := by decide +kernel

theorem w_EnergyReadsLatch :
    (powerWith fun p => { p with latches := [(7, .root, 5)] }).power.latch 7 .root = some 5 ∧ sv.power.latch 7 .root = none ∧
    sv.early .root = false ∧ sv.early .host = true := by
  decide +kernel

/-- Operands at each corner: a zero divisor, the least number by minus one, and others. -/
theorem w_DivisionCornersAndTruncation : sv.Issuing ∧ sv.regsOk (wRegs true) (6 : BitVec 10).toNat = true ∧
    sv.srcOk (wRegs true) (.reg 2) = true ∧ sv.srcOk (wRegs false) (.lit .minusOne) = true ∧
    (regs sv []).srcW false 1 0 (.reg 3) = 0 ∧
    (let s := regs sv [(2, 0x80000000)]
     valOf 32 false (s.srcW false 0 0 (.reg 2)) = -2 ^ 31 ∧ valOf 32 false (s.srcW false 1 0 (.lit .minusOne)) = -1) ∧
    (let s := regs sv [(2, 7), (3, 0xFFFFFFFE)]
     s.srcW false 1 0 (.reg 3) ≠ 0 ∧ valOf 32 false (s.srcW false 1 0 (.reg 3)) = -2) := ⟨sv_issuing, by decide +kernel⟩

theorem w_DecodeOfEncode :
    ([.nop, .bra ⟨6, true⟩ 0x20000, .fma ⟨⟨some 11, 7, 1023⟩, .f32, .rm, .lit .fInf, .special .ns, .reg 1023⟩, .pxLit 0xFFFFFFF,
      .mma ⟨some 4, .lut4, .lut4, true, 15, true, true, 3, .reg 64, 3, 3⟩] : List Instr).all (fun i => i.wf && i.toRaw.isSome) = true := by
  decide

theorem w_EncodeOfDecode : (decode [0xF000220E#32, 0x00001001#32, 0x00000003#32, 0x00000004#32]).toOption.isSome = true := by decide

theorem w_StepKeepsTheInvariants : (State.reset.load [0x00000004]).MemWf ∧ (State.reset.load [0x00000004]).Between ∧
    (match step (State.reset.load [0x00000004]) with
     | .next _ => true
     | _ => false) = true := by
  refine ⟨⟨?_, ?_, ?_, ?_⟩, rfl, ?_⟩ <;> (try unfold Core.memWf) <;> decide +kernel

/-! ## Results: single instructions on values worked out in the spec's tables and examples -/

/-- The state after an instruction, and a register of one of its lanes. -/
def after (i : Instr) (s : State) : State :=
  match exec i s with
  | .next t => t
  | _ => s
def reg (s : State) (l r : Nat) : Word := (s.issLane l).reg r
/-- Lane l has its value of a list in r1; the others have 0. -/
def spread (vs : List Word) : State :=
  sv.updIssGroup fun g => { g with lanes := tblMap (fun l x => { x with regs := [(1, vs.getD l 0)] }) g.lanes }

/-- Table 10.3: a zero divisor, the least number by −1, and truncation, signed and unsigned. -/
theorem test_division :
    let run := fun (u : Bool) (a b : Word) =>
      let f : VBin := ⟨h8, ⟨false, u⟩, false, .reg 1, .reg 2⟩
      let s := regs sv [(1, a), (2, b)]
      (reg (after (.div f) s) 3 8, reg (after (.rem f) s) 3 8)
    run false 5 0 = (0xFFFFFFFF, 5) ∧ run true 5 0 = (0xFFFFFFFF, 5) ∧ run false 0x80000000 0xFFFFFFFF = (0x80000000, 0) ∧
      run false 0xFFFFFFF9 2 = (0xFFFFFFFD, 0xFFFFFFFF) ∧ run true 0xFFFFFFF9 2 = (0x7FFFFFFC, 1) := by decide +kernel

/-- R236: a minimum whose operands differ only in U. -/
theorem test_minimum :
    let f := fun u => Instr.min ⟨h8, ⟨false, u⟩, false, .reg 1, .reg 2⟩
    let s := regs sv [(1, 0xFFFFFFFF), (2, 1)]
    reg (after (f false) s) 0 8 = 0xFFFFFFFF ∧ reg (after (f true) s) 0 8 = 1 := by decide +kernel

/-- Table 10.6, lanes 0 to 3: each pair in order after icmp.lt, sel and sel. -/
theorem test_orderedPairs :
    let s := sv.updIssGroup fun g => { g with lanes := tblMap (fun l x =>
      { x with regs := [(4, [3, 9, 0xFFFFFFFF, 7].getD l 0), (5, [9, 3, 5, 7].getD l 0)] }) g.lanes }
    let s := after (.icmp ⟨none, 0, 1⟩ .lt ⟨false, false⟩ .none ⟨0, false⟩ (.reg 5) (.reg 4)) s
    let s := after (.sel ⟨0, ⟨1, false⟩, 6, ⟨7, false⟩, false, .reg 5, .reg 4⟩) s
    let s := after (.sel ⟨0, ⟨1, false⟩, 7, ⟨7, false⟩, false, .reg 4, .reg 5⟩) s
    (List.range 4).map (fun l => (reg s l 6, reg s l 7)) = [(3, 9), (3, 9), (0xFFFFFFFF, 5), (7, 7)] := by decide +kernel

/-- 08's worked example: fma rounds once, fmul and fadd round twice. -/
theorem test_fusedMultiplyAdd :
    let s := regs sv [(1, 0x3F800800), (4, 0xBF800000)]
    let s := after (.fma ⟨h8, .f32, .rn, .reg 1, .reg 1, .reg 4⟩) s
    let s := after (.fmul ⟨⟨none, 0, 9⟩, .f32, .rn, .reg 1, .reg 1⟩) s
    let s := after (.fadd ⟨⟨none, 0, 9⟩, .f32, .rn, .reg 9, .reg 4⟩) s
    reg s 0 8 = 0x3A000400 ∧ reg s 0 9 = 0x3A000000 := by decide +kernel

/-- Table 10.8: conversions of 5.0, 470.0, −0, 200.5, NaN and −3. -/
theorem test_conversions :
    let run := fun (d t : CTy) (r : Rnd) (a : Word) => reg (after (.cvt h8 d t r 0 (.reg 1)) (regs sv [(1, a)])) 0 8
    run .e2m1 .f32 .rn 0x40A00000 = 6 ∧ run .e2m1 .f32 .rp 0x40A00000 = 7 ∧ run .e4m3 .f32 .rn 0x43EB0000 = 0x7E ∧
      run .e3m5 .f32 .rn 0x80000000 = 0 ∧ run .i8 .f32 .rn 0x43488000 = 0x7F ∧ run .i32 .f32 .rz 0x7FC00000 = 0 ∧
      run .n8 .i32 .rn 0xFFFFFFFD = 0 := by decide +kernel

/-- Table 11.4: rq.i8 keeps bytes 1 to 3 and rounds the exact quotient once. -/
theorem test_requantisation :
    let run := fun (r : Rnd) (a : Word) =>
      reg (after (.rq ⟨none, 0, 5⟩ .i8 r 2 0 (.reg 1) (.reg 2) (.reg 3)) (regs sv [(1, a), (2, 0x40000000), (3, 0xFFFFFFFD), (5, 0xAABBCCDD)])) 0 5
    run .rn 1000 = 0xAABBCC7A ∧ run .rn 1004 = 0xAABBCC7B ∧ run .rn 1012 = 0xAABBCC7B ∧ run .rn 0xFFFFFC14 = 0xAABBCC80 ∧
      run .rn 2000 = 0xAABBCC7F ∧ run .rz 1004 = 0xAABBCC7A := by decide +kernel

/-- Table 11.5: lanes 2 and 5 do not issue; the exchange by xor, the sum and the running sum of tile 0. -/
theorem test_tileOperations :
    let s := spread [3, 1, 0, 4, 1, 0, 5, 9]
    let s := after (.twset 8) { s with issue := { s.issue with lanes := 0xFFFFFFDB } }
    let s := after (.shfl ⟨none, 0, 2⟩ .xor false 1 (.reg 1) (.lit .one)) s
    let s := after (.red ⟨none, 0, 3⟩ .add .i32 .rn (.reg 1)) s
    let s := after (.scan ⟨none, 0, 4⟩ .add .i32 .rn false (.reg 1)) s
    [0, 1, 3, 4].map (fun l => (reg s l 2, (s.issLane l).pred ⟨1, false⟩, reg s l 3, reg s l 4)) =
      [(1, true, 23, 3), (3, true, 23, 4), (4, false, 23, 8), (1, false, 23, 9)] := by decide +kernel

/-- 08's worked example of R197: 2^24, 1, 1 and 1 in a tile of four. -/
theorem test_reductionTree :
    let s := after (.twset 4) (spread [0x4B800000, 0x3F800000, 0x3F800000, 0x3F800000])
    reg (after (.red ⟨none, 0, 3⟩ .add .f32 .rn (.reg 1)) s) 2 3 = 0x4B800001 := by decide +kernel

/-- R237, R236, Table 10.2 at the edges: a saturating sum, a shift by the width, and the high half of a product. -/
theorem test_edges :
    let s := regs sv [(1, 0x7FFFFFFF), (2, 32)]
    reg (after (.add ⟨h8, ⟨false, false⟩, true, .reg 1, .lit .one⟩) s) 0 8 = 0x7FFFFFFF ∧
      reg (after (.add ⟨h8, ⟨false, false⟩, false, .reg 1, .lit .one⟩) s) 0 8 = 0x80000000 ∧
      reg (after (.shl ⟨h8, ⟨false, false⟩, false, .reg 1, .reg 2⟩) s) 0 8 = 0 ∧
      reg (after (.mulhi ⟨h8, ⟨false, true⟩, false, .reg 1, .reg 1⟩) s) 0 8 = 0x3FFFFFFF := by decide +kernel

/-- Table 1.8: the first and last bytes of the regions of device physical addresses. -/
theorem test_memoryMap :
    ([(0, .near), (0x0BFFFFFFFF, .near), (0x0C00000000, .hole), (0xF000000000, .regs), (0x010000000000, .far), (0x01FFFFFFFFFF, .far),
      (0x080000000000, .hole), (0x100000000000, .host), (0xFFFFFFFFFFFFF, .host)] : List (Nat × PaKind)).all
      (fun c => State.reset.mem.kind c.1 == c.2) = true := by decide +kernel

/-- Table 16.7: the bytes of a wear record at their offsets. -/
theorem test_wearImage :
    let w : Wear := { Wear.reset with bti := 7 * 2 ^ 32 + 9, cB := 4100, st := 1, seq := 3 }
    let m := w.image 2177
    m.length = 96 ∧ sub m 0 8 = 7 ∧ sub m 8 4 = 9 ∧ sub m 48 2 = 4100 ∧ sub m 54 1 = 1 ∧ sub m 55 1 = 1 ∧ sub m 56 2 = 1 ∧
      sub m 58 2 = 0xFFFF ∧ sub m 72 8 = 3 ∧ Wear.ofImage m = w := by decide +kernel

/-- A loaded instruction runs as the first one after reset: addi of 5, and the lanes stand after it. -/
theorem test_firstStep :
    (match step (State.reset.load [0x00200D01, 5]) with
     | .next t => some (((t.group 0 0 0).lane 31).reg 3, ((t.group 0 0 0).lane 31).pc)
     | _ => none) = some (5, 2) := by decide +kernel

end Sys2Proof.Tests
end

section
/-! SUPPORT. Numbers of W bits (R226): the values that W bits hold, and narrowing to W bits as the inverse of reading a value.
Quotients and remainders of such values (R237, Table 10.3), and what a two-source integer instruction does. -/

namespace Sys2Proof.Machine

/-! ## Values of W bits -/

/-- A value that w bits hold, signed or unsigned (R226). -/
def Representable (w : Nat) (u : Bool) (v : Int) : Prop :=
  if u then 0 ≤ v ∧ v < 2 ^ w else -2 ^ (w - 1) ≤ v ∧ v < 2 ^ (w - 1)

theorem representable_unsigned {w : Nat} {v : Int} : Representable w true v ↔ 0 ≤ v ∧ v < 2 ^ w := Iff.rfl

theorem representable_signed {w : Nat} {v : Int} :
    Representable w false v ↔ -2 ^ (w - 1) ≤ v ∧ v < 2 ^ (w - 1) := by simp [Representable]

theorem ITy.bits_pos (t : ITy) : 0 < ITy.bits t := by
  unfold ITy.bits; split <;> decide

/-- The numbers of w bits split in two halves; the upper one reads as negative where the type is signed. -/
theorem two_pow_eq_double {w : Nat} (hw : 0 < w) : (2 : Int) ^ w = 2 * 2 ^ (w - 1) := by
  obtain ⟨n, rfl⟩ := Nat.exists_eq_add_of_lt hw
  simp [pow_succ, mul_comm]

theorem valOf_unsigned (w x : Nat) : valOf w true x = x := rfl

theorem valOf_signed (w x : Nat) :
    valOf w false x = if (x : Int) < 2 ^ (w - 1) then (x : Int) else (x : Int) - 2 ^ w := by
  have : x < 2 ^ (w - 1) ↔ (x : Int) < 2 ^ (w - 1) := by exact_mod_cast Iff.rfl
  simp [valOf, this]

theorem representable_valOf {w x : Nat} (hw : 0 < w) (u : Bool) (hx : x < 2 ^ w) : Representable w u (valOf w u x) := by
  have hx' : (x : Int) < 2 ^ w := by exact_mod_cast hx
  have hd := two_pow_eq_double hw
  cases u with
  | true => exact ⟨by simp [valOf_unsigned], hx'⟩
  | false =>
    rw [representable_signed, valOf_signed]
    split <;> omega

theorem valOf_eq_zero_iff {w x : Nat} (u : Bool) (hx : x < 2 ^ w) : valOf w u x = 0 ↔ x = 0 := by
  have hx' : (x : Int) < 2 ^ w := by exact_mod_cast hx
  have hp : (0 : Int) < 2 ^ (w - 1) := by positivity
  cases u with
  | true => simp [valOf_unsigned]
  | false => rw [valOf_signed]; split <;> omega

theorem narrow_lt (w : Nat) (v : Int) : narrow w v < 2 ^ w := by
  have hp : (0 : Int) < 2 ^ w := by positivity
  rw [narrow, Int.toNat_lt (Int.emod_nonneg _ hp.ne')]
  exact_mod_cast Int.emod_lt_of_pos v hp

theorem natCast_narrow (w : Nat) (v : Int) : (narrow w v : Int) = v % 2 ^ w :=
  Int.toNat_of_nonneg (Int.emod_nonneg _ (by positivity))

/-- A value that w bits hold is read back from its w bits. -/
theorem valOf_narrow {w : Nat} {u : Bool} {v : Int} (hw : 0 < w) (hv : Representable w u v) : valOf w u (narrow w v) = v := by
  have hd := two_pow_eq_double hw
  cases u with
  | true =>
    obtain ⟨h0, h1⟩ := hv
    rw [valOf_unsigned, natCast_narrow, Int.emod_eq_of_lt h0 h1]
  | false =>
    rw [representable_signed] at hv
    rw [valOf_signed, natCast_narrow]
    rcases lt_or_ge v 0 with hneg | hpos
    · have : v % 2 ^ w = v + 2 ^ w := by
        rw [← Int.add_emod_right, Int.emod_eq_of_lt] <;> omega
      rw [this, if_neg] <;> omega
    · rw [Int.emod_eq_of_lt hpos (by omega), if_pos hv.2]

/-- One past the greatest signed number wraps to the least. -/
theorem valOf_narrow_signed_wrap {w : Nat} (hw : 0 < w) : valOf w false (narrow w (2 ^ (w - 1))) = -2 ^ (w - 1) := by
  have hd := two_pow_eq_double hw
  have hp : (0 : Int) < 2 ^ (w - 1) := by positivity
  rw [valOf_signed, natCast_narrow, Int.emod_eq_of_lt hp.le (by omega), if_neg (by omega)]
  omega

/-- The code with every bit set is the greatest unsigned number and the signed −1. -/
theorem valOf_all_ones {w : Nat} (hw : 0 < w) (u : Bool) : valOf w u (2 ^ w - 1) = if u then 2 ^ w - 1 else -1 := by
  have hd := two_pow_eq_double hw
  have hp : (0 : Int) < 2 ^ (w - 1) := by positivity
  have hc : ((2 ^ w - 1 : Nat) : Int) = 2 ^ w - 1 := by simp [Nat.cast_sub Nat.one_le_two_pow]
  cases u with
  | true => rw [valOf_unsigned, hc]; rfl
  | false => rw [valOf_signed, hc, if_neg (by omega)]; simp

/-- The values that w bits hold reach from 0 without a gap. -/
theorem Representable.of_between {w : Nat} {u : Bool} {a v : Int} (ha : Representable w u a)
    (hpos : 0 ≤ a → 0 ≤ v ∧ v ≤ a) (hneg : a ≤ 0 → a ≤ v ∧ v ≤ 0) : Representable w u v := by
  have hp : (0 : Int) < 2 ^ (w - 1) := by positivity
  have hv : 0 ≤ v ∧ v ≤ a ∨ a ≤ v ∧ v ≤ 0 := (le_total 0 a).imp hpos hneg
  cases u with
  | true => rw [representable_unsigned] at ha ⊢; omega
  | false => rw [representable_signed] at ha ⊢; omega

/-! ## Quotients and remainders -/

/-- The one quotient of w-bit values that w bits cannot hold: the least signed number by −1 (Table 10.3). -/
def DivOverflows (w : Nat) (u : Bool) (a b : Int) : Prop := u = false ∧ a = -2 ^ (w - 1) ∧ b = -1

theorem tmod_nonpos_of_nonpos {a : Int} (b : Int) (h : a ≤ 0) : a.tmod b ≤ 0 := by
  have := Int.tmod_nonneg b (neg_nonneg.mpr h)
  rw [Int.neg_tmod] at this
  omega

theorem representable_tmod {w : Nat} {u : Bool} {a : Int} (b : Int) (ha : Representable w u a) :
    Representable w u (a.tmod b) := by
  have hle : (a.tmod b).natAbs ≤ a.natAbs := by rw [Int.natAbs_tmod]; exact Nat.mod_le _ _
  refine ha.of_between (fun h => ?_) fun h => ?_
  · have := Int.tmod_nonneg b h; omega
  · have := tmod_nonpos_of_nonpos b h; omega

/-- A quotient is as great as its dividend in absolute value only where the divisor is 1 or −1. -/
theorem divisor_eq_of_natAbs_tdiv_eq {a b : Int} (ha : a ≠ 0) (h : (a.tdiv b).natAbs = a.natAbs) : b = 1 ∨ b = -1 := by
  rw [Int.natAbs_tdiv] at h
  rcases Nat.div_eq_self.mp h with h0 | h1 <;> omega

theorem representable_tdiv {w : Nat} {u : Bool} {a b : Int} (ha : Representable w u a) (hb : Representable w u b)
    (hc : ¬DivOverflows w u a b) : Representable w u (a.tdiv b) := by
  have hle := Int.natAbs_tdiv_le_natAbs a b
  cases u with
  | true =>
    have hq : 0 ≤ a.tdiv b := Int.tdiv_nonneg ha.1 hb.1
    have h0 : 0 ≤ a := ha.1
    exact ha.of_between (fun _ => by omega) fun _ => by omega
  | false =>
    rw [representable_signed] at ha ⊢
    have hp : (0 : Int) < 2 ^ (w - 1) := by positivity
    have hne : a.tdiv b ≠ 2 ^ (w - 1) := by
      intro hq
      have hmin : a = -2 ^ (w - 1) := by omega
      have hunit : b = 1 ∨ b = -1 := divisor_eq_of_natAbs_tdiv_eq (a := a) (by omega) (by omega)
      rcases hunit with rfl | rfl
      · rw [Int.tdiv_one] at hq; omega
      · exact hc ⟨rfl, hmin, rfl⟩
    omega

/-! ## div and rem (R237, Table 10.3) -/

theorem intDiv_lt (w : Nat) (u : Bool) (a b : Nat) : intDiv w u a b < 2 ^ w := by
  unfold intDiv
  split
  · exact Nat.sub_lt (Nat.two_pow_pos w) Nat.one_pos
  · exact narrow_lt _ _

theorem intRem_lt {w a : Nat} (u : Bool) (b : Nat) (ha : a < 2 ^ w) : intRem w u a b < 2 ^ w := by
  unfold intRem
  split
  · exact ha
  · exact narrow_lt _ _

@[simp] theorem intDiv_zero (w : Nat) (u : Bool) (a : Nat) : intDiv w u a 0 = 2 ^ w - 1 := rfl

@[simp] theorem intRem_zero (w : Nat) (u : Bool) (a : Nat) : intRem w u a 0 = a := rfl

theorem intDiv_of_ne_zero {b : Nat} (w : Nat) (u : Bool) (a : Nat) (hb : b ≠ 0) :
    intDiv w u a b = narrow w ((valOf w u a).tdiv (valOf w u b)) := if_neg hb

theorem intRem_of_ne_zero {b : Nat} (w : Nat) (u : Bool) (a : Nat) (hb : b ≠ 0) :
    intRem w u a b = narrow w ((valOf w u a).tmod (valOf w u b)) := if_neg hb

section
variable {w a b : Nat} {u : Bool} (hw : 0 < w) (ha : a < 2 ^ w) (hb : b < 2 ^ w)
include hw

include hb in
theorem valOf_intDiv_of_overflows (hc : DivOverflows w u (valOf w u a) (valOf w u b)) :
    valOf w u (intDiv w u a b) = -2 ^ (w - 1) := by
  obtain ⟨rfl, hmin, hone⟩ := hc
  have hb0 : b ≠ 0 := fun h => by simp [(valOf_eq_zero_iff false hb).mpr h] at hone
  rw [intDiv_of_ne_zero w false a hb0, hmin, hone, Int.tdiv_neg, Int.tdiv_one, neg_neg, valOf_narrow_signed_wrap hw]

include ha hb in
theorem valOf_intDiv (hb0 : b ≠ 0) (hc : ¬DivOverflows w u (valOf w u a) (valOf w u b)) :
    valOf w u (intDiv w u a b) = (valOf w u a).tdiv (valOf w u b) := by
  rw [intDiv_of_ne_zero w u a hb0]
  exact valOf_narrow hw (representable_tdiv (representable_valOf hw u ha) (representable_valOf hw u hb) hc)

include ha in
/-- The remainder is exact for every divisor other than zero, where the quotient overflows too. -/
theorem valOf_intRem (hb0 : b ≠ 0) : valOf w u (intRem w u a b) = (valOf w u a).tmod (valOf w u b) := by
  rw [intRem_of_ne_zero w u a hb0]
  exact valOf_narrow hw (representable_tmod _ (representable_valOf hw u ha))

include ha hb in
theorem intRem_eq_zero_of_overflows (hc : DivOverflows w u (valOf w u a) (valOf w u b)) : intRem w u a b = 0 := by
  obtain ⟨-, -, hone⟩ := hc
  have hb0 : b ≠ 0 := fun h => by simp [(valOf_eq_zero_iff u hb).mpr h] at hone
  rw [← valOf_eq_zero_iff u (intRem_lt u b ha), valOf_intRem hw ha hb0, hone, Int.tmod_neg, Int.tmod_one]

include ha in
theorem valOf_intRem_sign (b : Nat) :
    (0 ≤ valOf w u a → 0 ≤ valOf w u (intRem w u a b)) ∧ (valOf w u a ≤ 0 → valOf w u (intRem w u a b) ≤ 0) := by
  by_cases hb0 : b = 0
  · subst hb0; exact ⟨id, id⟩
  · rw [valOf_intRem hw ha hb0]
    exact ⟨Int.tmod_nonneg _, tmod_nonpos_of_nonpos _⟩

end

/-! ## Two-source integer instructions -/

theorem State.srcW_lt (s : State) (t : ITy) (k l : Nat) (x : Src) : s.srcW t.w k l x < 2 ^ ITy.bits t := by
  unfold State.srcW ITy.bits
  split <;> exact BitVec.isLt _

/-- A two-source operation at width W whose operands pass performs its function in every issuing lane. -/
theorem State.intBin_performs {s : State} (h : s.Issuing) {f : VBin} (op : Nat → Nat → Nat)
    (hd : s.regsOk (wRegs f.t.w) f.h.dst.toNat = true) (ha : s.srcOk (wRegs f.t.w) f.a = true)
    (hb : s.srcOk (wRegs f.t.w) f.b = true) :
    s.Performs (s.intBin f op) f.h.flag fun l x =>
      x.putW f.t.w f.h.dst (op (s.srcW f.t.w 0 l f.a) (s.srcW f.t.w 1 l f.b)) := by
  have hpass : s.regForm (wRegs f.t.w) f.h.dst [(wRegs f.t.w, f.a), (wRegs f.t.w, f.b)] = none :=
    State.regForm_pass hd (by simp [ha, hb])
  rw [State.intBin, State.putW_eq]
  exact State.orFault_performs h (by rw [hpass]; rfl) _ _

theorem exec_div (f : VBin) (s : State) : exec (.div f) s = .next (s.intBin f (intDiv (ITy.bits f.t) f.t.u)) := rfl

theorem exec_rem (f : VBin) (s : State) : exec (.rem f) s = .next (s.intBin f (intRem (ITy.bits f.t) f.t.u)) := rfl

/-- Settles O55: each lane's results are `intDiv` and `intRem` of its operands; the clauses are the laws of those two. -/
theorem divisionCornersAndTruncation : Obligations.DivisionCornersAndTruncation := by
  unfold Obligations.DivisionCornersAndTruncation
  intro s f hs hd ha hb W val
  refine ⟨_, _, fun l => intDiv W f.t.u (s.srcW f.t.w 0 l f.a) (s.srcW f.t.w 1 l f.b),
    fun l => intRem W f.t.u (s.srcW f.t.w 0 l f.a) (s.srcW f.t.w 1 l f.b),
    exec_div f s, s.intBin_performs hs _ hd ha hb, exec_rem f s, s.intBin_performs hs _ hd ha hb, fun l => ?_⟩
  intro a b
  have hW : 0 < W := ITy.bits_pos f.t
  have hla : a < 2 ^ W := s.srcW_lt f.t 0 l f.a
  have hlb : b < 2 ^ W := s.srcW_lt f.t 1 l f.b
  refine ⟨intDiv_lt W f.t.u a b, intRem_lt f.t.u b hla, fun hzero => ?zeroDivisor, fun hu hmin hone => ?overflow,
    fun hne hc => ?truncation, valOf_intRem_sign hW hla b⟩
  case zeroDivisor =>
    show val (intDiv W f.t.u a b) = _ ∧ intRem W f.t.u a b = a
    rw [hzero]
    exact ⟨valOf_all_ones hW f.t.u, rfl⟩
  case overflow =>
    have hc : DivOverflows W f.t.u (val a) (val b) := ⟨hu, hmin, hone⟩
    exact ⟨valOf_intDiv_of_overflows hW hlb hc, intRem_eq_zero_of_overflows hW hla hlb hc⟩
  case truncation => exact ⟨valOf_intDiv hW hla hlb hne hc, valOf_intRem hW hla hne⟩

end Sys2Proof.Machine
end

section
/-! SUPPORT. The latches of the energy counters (R383): what a latch reads after it is set or released, and what a read of
ENERGY_LO or ENERGY_HI sends and leaves unchanged. -/

namespace Sys2Proof.Machine

/-! ## Latches -/

theorem Power.latch_unlatch_same (p : Power) (die : Nat) (r : Reader) : (p.unlatch die r).latch die r = none := by
  simp +contextual [Power.latch, Power.unlatch, imp_iff_not_or]

theorem Power.latch_unlatch_other {die d : Nat} {r q : Reader} (p : Power) (h : d ≠ die ∨ q ≠ r) :
    (p.unlatch die r).latch d q = p.latch d q := by
  have hkept : ∀ l : Nat × Reader × Nat,
      decide ((!(l.1 == die && l.2.1 == r)) = true ∧ (l.1 == d && l.2.1 == q) = true) = (l.1 == d && l.2.1 == q) := by
    grind
  simp only [Power.latch, Power.unlatch, List.find?_filter, hkept]

theorem Power.latch_cons_same (p : Power) (die v : Nat) (r : Reader) (ls : List (Nat × Reader × Nat)) :
    Power.latch { p with latches := (die, r, v) :: ls } die r = some v := by
  simp [Power.latch]

theorem Power.latch_cons_other {die d : Nat} {r q : Reader} (p : Power) (v : Nat) (h : d ≠ die ∨ q ≠ r) :
    Power.latch { p with latches := (die, r, v) :: p.latches } d q = p.latch d q := by
  have hmiss : (die == d && r == q) = false := by grind
  simp only [Power.latch, List.find?_cons, hmiss]

/-! ## Reads of the counters -/

/-- The state t after a reader was sent v for an energy counter: the counters, device memory and the latches of every other
reader and die are those of s. -/
def State.EnergyRead (s t : State) (die : Nat) (r : Reader) (v : Nat) : Prop :=
  t.link.sent = .reg (BitVec.ofNat 64 v) :: s.link.sent ∧ t.power.energy = s.power.energy ∧ t.mem = s.mem ∧
    ∀ d q, (d ≠ die ∨ q ≠ r) → t.power.latch d q = s.power.latch d q

theorem State.readEnergyLo_energyRead (s : State) (die : Nat) (r : Reader) :
    s.EnergyRead ((s.readEnergyLo die r).1.send (.reg (BitVec.ofNat 64 (s.readEnergyLo die r).2))) die r
      (tblGet 0 s.power.energy die % 2 ^ 32) :=
  ⟨rfl, rfl, rfl, fun _ _ h => (Power.latch_cons_other _ _ h).trans (Power.latch_unlatch_other _ h)⟩

theorem State.readEnergyHi_energyRead (s : State) (die : Nat) (r : Reader) :
    s.EnergyRead ((s.readEnergyHi die r).1.send (.reg (BitVec.ofNat 64 (s.readEnergyHi die r).2))) die r
      ((if tblGet false s.power.wrap die then 2 ^ 31 else 0) +
        (s.power.latch die r).getD (tblGet 0 s.power.energy die / 2 ^ 32)) :=
  ⟨rfl, rfl, rfl, fun _ _ => Power.latch_unlatch_other _⟩

theorem exec_energyLoRead (die : Nat) (r : Reader) (s : State) :
    exec (.energyLoRead die r) s = .next (if s.early r then s.send (.reg 0) else
      (s.readEnergyLo die r).1.send (.reg (BitVec.ofNat 64 (s.readEnergyLo die r).2))) := rfl

theorem exec_energyHiRead (die : Nat) (r : Reader) (s : State) :
    exec (.energyHiRead die r) s = .next (if s.early r then s.send (.reg 0) else
      (s.readEnergyHi die r).1.send (.reg (BitVec.ofNat 64 (s.readEnergyHi die r).2))) := rfl

/-- An answered read of ENERGY_LO leaves its reader's latch holding bits 47:32. -/
theorem exec_energyLoRead_latches {s : State} {r : Reader} (die : Nat) (h : s.early r = false) :
    ∃ t, exec (.energyLoRead die r) s = .next t ∧ s.EnergyRead t die r (tblGet 0 s.power.energy die % 2 ^ 32) ∧
      t.power.latch die r = some (tblGet 0 s.power.energy die / 2 ^ 32) := by
  simp only [exec_energyLoRead, h]
  exact ⟨_, rfl, s.readEnergyLo_energyRead die r, Power.latch_cons_same _ _ _ _ _⟩

/-- An answered read of ENERGY_HI gives what its reader's latch holds, else the live bits, and leaves no latch. -/
theorem exec_energyHiRead_releases {s : State} {r : Reader} (die : Nat) {hi : Nat} (h : s.early r = false)
    (hhi : (s.power.latch die r).getD (tblGet 0 s.power.energy die / 2 ^ 32) = hi) :
    ∃ t, exec (.energyHiRead die r) s = .next t ∧
      s.EnergyRead t die r ((if tblGet false s.power.wrap die then 2 ^ 31 else 0) + hi) ∧
      t.power.latch die r = none := by
  subst hhi
  simp only [exec_energyHiRead, h]
  exact ⟨_, rfl, s.readEnergyHi_energyRead die r, Power.latch_unlatch_same _ _ _⟩

/-- Settles O54: ENERGY_LO replaces its reader's latch, and ENERGY_HI releases it whether one was held or not. -/
theorem energyReadsLatch : Obligations.EnergyReadsLatch := by
  unfold Obligations.EnergyReadsLatch
  intro s die r
  refine ⟨fun hearly => ?early, fun h => ⟨exec_energyLoRead_latches die h, fun v hheld => ?held, fun hnone => ?live⟩⟩
  case early => exact ⟨by rw [exec_energyLoRead, if_pos hearly], by rw [exec_energyHiRead, if_pos hearly]⟩
  case held => exact exec_energyHiRead_releases die h (by rw [hheld, Option.getD_some])
  case live => exact exec_energyHiRead_releases die h (by rw [hnone, Option.getD_none])

end Sys2Proof.Machine
end

section
/-! SUPPORT. What the decoder makes of the raw fields that the encoder writes: the fields of each form come back as that form.
    -/

namespace Sys2Proof
set_option Elab.async false


theorem headOf_head (h : VHead) : headOf (flagCode h.flag) h.reuse h.dst = .ok h := by
  simp [headOf, flagOf_flagCode, Except.map]

theorem toInstr_rawV (h : VHead) (ma : BitVec 6) (mj : BitVec 8) (mb : BitVec 10) (sb sa : BitVec 11) :
    (rawV h ma mj mb sb sa).toInstr = decodeV h ma mj.toNat mb sb sa := by
  simp [rawV, Raw.toInstr, headOf_head, Except.bind]

theorem toInstr_rawT (h : VHead) (ma : BitVec 6) (mj : BitVec 8) (mb : BitVec 10) (mc : BitVec 21) (a b c : Src) :
    (rawT h ma mj mb mc a b c).toInstr = decodeT h ma mj.toNat mb b.code a.code mc c.code := by
  simp [rawT, Raw.toInstr, headOf_head, Except.bind]

/-! ## The modifier fields of the integer and float forms -/

theorem fld_ityCode (t : ITy) (m : Bool) : fld (ityCode t m) 3 3 = 0 := by
  obtain ⟨w, u⟩ := t; revert w u m; decide

theorem ityOf_ityCode (t : ITy) (m : Bool) : ityOf (ityCode t m) = t := by
  obtain ⟨w, u⟩ := t; revert w u m; decide

theorem getLsbD_ityCode (t : ITy) (m : Bool) : (ityCode t m).getLsbD 2 = m := by
  obtain ⟨w, u⟩ := t; revert w u m; decide

theorem fld_ftyCode (ty : FTy) (r : Rnd) : fld (ftyCode ty r) 4 2 = 0 := by cases ty <;> cases r <;> rfl

theorem fty_ftyCode (ty : FTy) (r : Rnd) : FTy.ofCode (fld (ftyCode ty r) 0 2).toNat = some ty := by
  cases ty <;> cases r <;> rfl

theorem rnd_ftyCode (ty : FTy) (r : Rnd) : Rnd.ofCode (fld (ftyCode ty r) 2 2).toNat = some r := by
  cases ty <;> cases r <;> rfl

/-! ## The forms with a major of their own -/

theorem toInstr_rawVBin {mk : VBin → Instr} {mj : BitVec 8} {f : VBin}
    (hd : ∀ h ma mb sb sa, decodeV h ma mj.toNat mb sb sa = vbin mk h ma mb sb sa) (hw : (mk f).wf = true)
    (hs : f.a.wf = true ∧ f.b.wf = true) : (rawVBin mj f).toInstr = .ok (mk f) := by
  obtain ⟨ha, hb⟩ := hs
  rw [rawVBin, toInstr_rawV, hd, vbin, if_pos ⟨rfl, fld_ityCode _ _⟩, ityOf_ityCode, getLsbD_ityCode,
    Src.ofCode_code _ ha, Src.ofCode_code _ hb, checkWf_of_wf hw]

theorem toInstr_rawVUn {mk : VUn → Instr} {mj : BitVec 8} {f : VUn}
    (hd : ∀ h ma mb sb sa, decodeV h ma mj.toNat mb sb sa = vun mk h ma mb sb sa) (hw : (mk f).wf = true)
    (hs : f.a.wf = true) : (rawVUn mj f).toInstr = .ok (mk f) := by
  rw [rawVUn, toInstr_rawV, hd, vun, if_pos ⟨rfl, rfl, fld_ityCode _ _⟩, ityOf_ityCode, getLsbD_ityCode,
    Src.ofCode_code _ hs, checkWf_of_wf hw]

theorem toInstr_rawFBin {mk : FBin → Instr} {mj : BitVec 8} {f : FBin}
    (hd : ∀ h ma mb sb sa, decodeV h ma mj.toNat mb sb sa = fbin mk h ma mb sb sa) (hw : (mk f).wf = true)
    (hs : f.a.wf = true ∧ f.b.wf = true) : (rawFBin mj f).toInstr = .ok (mk f) := by
  obtain ⟨ha, hb⟩ := hs
  rw [rawFBin, toInstr_rawV, hd, fbin, if_pos ⟨rfl, fld_ftyCode _ _⟩, fty_ftyCode, rnd_ftyCode,
    Src.ofCode_code _ ha, Src.ofCode_code _ hb]
  exact checkWf_of_wf hw

theorem toInstr_rawFUn {mk : FUn → Instr} {mj : BitVec 8} {f : FUn}
    (hd : ∀ h ma mb sb sa, decodeV h ma mj.toNat mb sb sa = fun1 mk h ma mb sb sa) (hw : (mk f).wf = true)
    (hs : f.a.wf = true) : (rawFUn mj f).toInstr = .ok (mk f) := by
  rw [rawFUn, toInstr_rawV, hd, fun1, if_pos ⟨rfl, rfl, fld_ftyCode _ _⟩, fty_ftyCode, rnd_ftyCode, Src.ofCode_code _ hs]
  exact checkWf_of_wf hw

theorem toInstr_rawTInt {mk : TInt → Instr} {mj : BitVec 8} {f : TInt}
    (hd : ∀ h ma mb sb sa mc sc, decodeT h ma mj.toNat mb sb sa mc sc = tint mk h ma mb sb sa mc sc) (hw : (mk f).wf = true)
    (hs : f.a.wf = true ∧ f.b.wf = true ∧ f.c.wf = true) : (rawTInt mj 0 f).toInstr = .ok (mk f) := by
  obtain ⟨ha, hb, hc⟩ := hs
  rw [rawTInt, toInstr_rawT, hd, tint, if_pos ⟨rfl, rfl, fld_ityCode _ _⟩, ityOf_ityCode, getLsbD_ityCode,
    Src.ofCode_code _ ha, Src.ofCode_code _ hb, Src.ofCode_code _ hc, checkWf_of_wf hw]

theorem toInstr_rawFTri {mk : FTri → Instr} {mj : BitVec 8} {f : FTri}
    (hd : ∀ h ma mb sb sa mc sc, decodeT h ma mj.toNat mb sb sa mc sc = ftri mk h ma mb sb sa mc sc) (hw : (mk f).wf = true)
    (hs : f.a.wf = true ∧ f.b.wf = true ∧ f.c.wf = true) : (rawFTri mj f).toInstr = .ok (mk f) := by
  obtain ⟨ha, hb, hc⟩ := hs
  rw [rawFTri, toInstr_rawT, hd, ftri, if_pos ⟨rfl, rfl, fld_ftyCode _ _⟩, fty_ftyCode, rnd_ftyCode,
    Src.ofCode_code _ ha, Src.ofCode_code _ hb, Src.ofCode_code _ hc]
  exact checkWf_of_wf hw

theorem toInstr_rawI {mk : IForm → Instr} {mj : BitVec 8} {f : IForm}
    (hd : ∀ a dst mo im, decodeI 0 a dst mj.toNat mo im = iform mk a dst mo im) (hw : (mk f).wf = true)
    (hs : f.a.wf = true) : (rawI mj f).toInstr = .ok (mk f) := by
  have hm : ∀ k, k < 6 → (0#6 ++ ityCode f.t f.m).getLsbD k = (ityCode f.t f.m).getLsbD k := fun k hk => getLsbD_low _ _ hk
  have h3 : fld (0#6 ++ ityCode f.t f.m) 3 9 = 0 := by
    generalize f.t = t; generalize f.m = m; obtain ⟨w, u⟩ := t; revert w u m; decide
  have ht : (⟨(ityCode f.t f.m).getLsbD 0, (ityCode f.t f.m).getLsbD 1⟩ : ITy) = f.t := ityOf_ityCode f.t f.m
  rw [rawI, Raw.toInstr, hd, iform, if_pos h3, hm 0 (by decide), hm 1 (by decide), hm 2 (by decide), ht, getLsbD_ityCode,
    Src.ofCode_code _ hs, checkWf_of_wf hw]

/-! ## The other instructions -/

/-- The encoder's raw fields of i, where i is well formed, are read as i. -/
def Instr.ReadBack (i : Instr) : Prop := i.wf = true → ∀ r, i.toRaw = some r → r.toInstr = .ok i

theorem readBack_lea (f : TInt) (k : BitVec 3) : (Instr.lea f k).ReadBack := by
  intro hw r hr
  obtain ⟨ha, hb, hc⟩ : f.a.wf = true ∧ f.b.wf = true ∧ f.c.wf = true := by simp_all [Instr.wf, TInt.plain]
  cases hr
  simp (disch := decide) only [BitVec.reduceToNat, toInstr_rawT, decodeT, rawTInt, fld_ityCode, ityOf_ityCode, getLsbD_ityCode,
      fld_high, fld_low, fld_all, Nat.reduceSub, BitVec.ofNat_eq_ofNat, checkWf_of_wf hw, and_self, ↓reduceIte,
      Src.ofCode_code _ ha, Src.ofCode_code _ hb, Src.ofCode_code _ hc]

theorem readBack_lop3 (f : TInt) (tt : BitVec 8) : (Instr.lop3 f tt).ReadBack := by
  intro hw r hr
  obtain ⟨ha, hb, hc⟩ : f.a.wf = true ∧ f.b.wf = true ∧ f.c.wf = true := by simp_all [Instr.wf, TInt.plain]
  cases hr
  simp (disch := decide) only [BitVec.reduceToNat, toInstr_rawT, decodeT, rawTInt, fld_ityCode, ityOf_ityCode, getLsbD_ityCode,
      fld_high, fld_low, fld_all, Nat.reduceSub, BitVec.ofNat_eq_ofNat, checkWf_of_wf hw, and_self, ↓reduceIte,
      Src.ofCode_code _ ha, Src.ofCode_code _ hb, Src.ofCode_code _ hc]

theorem readBack_gtag (dst : BitVec 10) (a : Src) (tag : BitVec 20) : (Instr.gtag dst a tag).ReadBack := by
  intro hw r hr
  have ha : a.wf = true := by simp_all [Instr.wf]
  cases hr
  simp (disch := decide) only [BitVec.reduceToNat, Raw.toInstr, decodeI, BitVec.ofNat_eq_ofNat, checkWf_of_wf hw, ↓reduceIte,
      Src.ofCode_code _ ha]

theorem readBack_icmp (h : VHead) (c : Cond) (t : ITy) (op : Comb) (gc : Pred) (a b : Src) :
    (Instr.icmp h c t op gc a b).ReadBack := by
  intro hw r hr
  obtain ⟨ha, hb⟩ : a.wf = true ∧ b.wf = true := by simp_all [Instr.wf]
  cases hr
  simp (disch := decide) only [BitVec.reduceToNat, toInstr_rawV, decodeV, ityOf, fld_high, fld_low, fld_all, Nat.reduceSub,
      BitVec.ofNat_eq_ofNat, getLsbD_high, getLsbD_low, ofBool_bit, Pred.ofCode_code, Cond.ofCode_code, Comb.ofCode_code,
      defined, Except.bind, checkWf_of_wf hw, ↓reduceIte, Src.ofCode_code _ ha, Src.ofCode_code _ hb]

theorem readBack_fcmp (h : VHead) (c : Cond) (ty : FTy) (op : Comb) (gc : Pred) (a b : Src) :
    (Instr.fcmp h c ty op gc a b).ReadBack := by
  intro hw r hr
  obtain ⟨ha, hb⟩ : a.wf = true ∧ b.wf = true := by simp_all [Instr.wf]
  cases hr
  simp (disch := decide) only [BitVec.reduceToNat, toInstr_rawV, decodeV, fld_high, fld_low, fld_all, Nat.reduceSub,
      BitVec.ofNat_eq_ofNat, Pred.ofCode_code, Cond.ofCode_code, Comb.ofCode_code, FTy.ofCode_code, defined, Except.bind,
      checkWf_of_wf hw, ↓reduceIte, Src.ofCode_code _ ha, Src.ofCode_code _ hb]

theorem readBack_icmpi (dst : BitVec 10) (c : Cond) (t : ITy) (a : Src) (imm : BitVec 20) :
    (Instr.icmpi dst c t a imm).ReadBack := by
  intro hw r hr
  have ha : a.wf = true := by simp_all [Instr.wf]
  cases hr
  simp (disch := decide) only [BitVec.reduceToNat, Raw.toInstr, decodeI, fld_high, fld_low, fld_all, Nat.reduceSub,
      BitVec.ofNat_eq_ofNat, getLsbD_high, getLsbD_low, ofBool_bit, Cond.ofCode_code, defined, Except.bind, checkWf_of_wf hw,
      ↓reduceIte, Src.ofCode_code _ ha]

theorem readBack_gop (h : VHead) (op : GOp) (ga gb : Pred) : (Instr.gop h op ga gb).ReadBack := by
  intro hw r hr
  cases hr
  simp (disch := decide) only [BitVec.reduceToNat, toInstr_rawV, decodeV, fld_high, fld_low, fld_all, Nat.reduceSub,
      BitVec.ofNat_eq_ofNat, Pred.ofCode_code, GOp.ofCode_code, defined, Except.bind, checkWf_of_wf hw, and_self, ↓reduceIte]

theorem readBack_gmov_toReg (h : VHead) (g : Pred) : (Instr.gmov h (.toReg g)).ReadBack := by
  intro hw r hr
  cases hr
  simp (disch := decide) only [BitVec.reduceToNat, toInstr_rawV, decodeV, fld_high, fld_low, fld_all, fld_zero', Nat.reduceSub,
      BitVec.ofNat_eq_ofNat, Pred.ofCode_code, checkWf_of_wf hw, and_self, ↓reduceIte]

theorem readBack_gmov_toGuard (h : VHead) (a : Src) : (Instr.gmov h (.toGuard a)).ReadBack := by
  intro hw r hr
  have ha : a.wf = true := by simp_all [Instr.wf]
  cases hr
  simp (disch := decide) only [BitVec.reduceToNat, toInstr_rawV, decodeV, BitVec.ofNat_eq_ofNat, checkWf_of_wf hw, and_self,
      and_true, Src.ofCode_code _ ha]
  rfl

theorem readBack_sel (f : SForm) : (Instr.sel f).ReadBack := by
  intro hw r hr
  obtain ⟨ha, hb⟩ : f.a.wf = true ∧ f.b.wf = true := by simp_all [Instr.wf]
  cases hr
  simp (disch := decide) only [BitVec.reduceToNat, Raw.toInstr, decodeS, fld_high, fld_all, Nat.reduceSub,
      BitVec.ofNat_eq_ofNat, getLsbD_low, ofBool_bit, Pred.ofCode_code, checkWf_of_wf hw, and_self, ↓reduceIte,
      Src.ofCode_code _ ha, Src.ofCode_code _ hb]

theorem readBack_fclass (h : VHead) (ty : FTy) (a : Src) (mask : BitVec 9) : (Instr.fclass h ty a mask).ReadBack := by
  intro hw r hr
  have ha : a.wf = true := by simp_all [Instr.wf]
  cases hr
  simp (disch := decide) only [BitVec.reduceToNat, toInstr_rawV, decodeV, fld_high, fld_low, fld_all, Nat.reduceSub,
      BitVec.ofNat_eq_ofNat, FTy.ofCode_code, defined, Except.bind, checkWf_of_wf hw, and_self, ↓reduceIte,
      Src.ofCode_code _ ha]

theorem readBack_cvt (h : VHead) (d s : CTy) (rnd : Rnd) (ct : BitVec 2) (a : Src) : (Instr.cvt h d s rnd ct a).ReadBack := by
  intro hw r hr
  have ha : a.wf = true := by simp_all [Instr.wf]
  cases hr
  simp (disch := decide) only [BitVec.reduceToNat, toInstr_rawV, decodeV, fld_high, fld_low, fld_all, Nat.reduceSub,
      BitVec.ofNat_eq_ofNat, Rnd.ofCode_code, CTy.ofCode_code, defined, Except.bind, checkWf_of_wf hw, and_self, ↓reduceIte,
      Src.ofCode_code _ ha]

theorem readBack_cvtpk (h : VHead) (d s : CTy) (rnd : Rnd) (p : BitVec 2) (a b : Src) :
    (Instr.cvtpk h d s rnd p a b).ReadBack := by
  intro hw r hr
  obtain ⟨ha, hb⟩ : a.wf = true ∧ b.wf = true := by simp_all [Instr.wf]
  cases hr
  simp (disch := decide) only [BitVec.reduceToNat, toInstr_rawV, decodeV, fld_high, fld_low, fld_all, Nat.reduceSub,
      BitVec.ofNat_eq_ofNat, Rnd.ofCode_code, CTy.ofCode_code, defined, Except.bind, checkWf_of_wf hw, ↓reduceIte,
      Src.ofCode_code _ ha, Src.ofCode_code _ hb]

theorem readBack_unpk (h : VHead) (d s : CTy) (e : BitVec 4) (a : Src) : (Instr.unpk h d s e a).ReadBack := by
  intro hw r hr
  have ha : a.wf = true := by simp_all [Instr.wf]
  cases hr
  simp (disch := decide) only [BitVec.reduceToNat, toInstr_rawV, decodeV, fld_high, fld_low, fld_all, Nat.reduceSub,
      BitVec.ofNat_eq_ofNat, CTy.ofCode_code, defined, Except.bind, checkWf_of_wf hw, and_self, ↓reduceIte,
      Src.ofCode_code _ ha]

theorem readBack_lut (h : VHead) (n p : BitVec 2) (f16 : Bool) (a : Src) : (Instr.lut h n p f16 a).ReadBack := by
  intro hw r hr
  have ha : a.wf = true := by simp_all [Instr.wf]
  cases hr
  simp (disch := decide) only [BitVec.reduceToNat, toInstr_rawV, decodeV, fld_high, fld_low, fld_all, fld_zero', Nat.reduceSub,
      BitVec.ofNat_eq_ofNat, and_self, ↓reduceIte, Src.ofCode_code _ ha]
  cases f16 <;> exact checkWf_of_wf hw

theorem readBack_frnd (h : VHead) (ty : FTy) (rnd : Rnd) (a : Src) : (Instr.frnd h ty rnd a).ReadBack := by
  intro hw r hr
  have ha : a.wf = true := by simp_all [Instr.wf]
  cases hr
  simp (disch := decide) only [BitVec.reduceToNat, toInstr_rawV, decodeV, fld_high, fld_low, fld_all, Nat.reduceSub,
      BitVec.ofNat_eq_ofNat, Rnd.ofCode_code, FTy.ofCode_code, defined, Except.bind, checkWf_of_wf hw, and_self, ↓reduceIte,
      Src.ofCode_code _ ha]

theorem readBack_rq (h : VHead) (ty : RqTy) (rnd : Rnd) (sh e : BitVec 5) (a b c : Src) :
    (Instr.rq h ty rnd sh e a b c).ReadBack := by
  intro hw r hr
  obtain ⟨ha, hb, hc⟩ : a.wf = true ∧ b.wf = true ∧ c.wf = true := by simp_all [Instr.wf]
  cases hr
  simp (disch := decide) only [BitVec.reduceToNat, toInstr_rawT, decodeT, fld_high, fld_low, fld_all, Nat.reduceSub,
      BitVec.ofNat_eq_ofNat, Rnd.ofCode_code, RqTy.ofCode_code, defined, Except.bind, checkWf_of_wf hw, and_self, ↓reduceIte,
      Src.ofCode_code _ ha, Src.ofCode_code _ hb, Src.ofCode_code _ hc]

theorem readBack_shfl (h : VHead) (mode : ShflMode) (w : Bool) (gv : BitVec 3) (a b : Src) :
    (Instr.shfl h mode w gv a b).ReadBack := by
  intro hw r hr
  obtain ⟨ha, hb⟩ : a.wf = true ∧ b.wf = true := by simp_all [Instr.wf]
  cases hr
  simp (disch := decide) only [BitVec.reduceToNat, toInstr_rawV, decodeV, fld_high, fld_low, fld_all, Nat.reduceSub,
      BitVec.ofNat_eq_ofNat, getLsbD_high, getLsbD_low, ofBool_bit, ShflMode.ofCode_code, defined, Except.bind,
      checkWf_of_wf hw, ↓reduceIte, Src.ofCode_code _ ha, Src.ofCode_code _ hb]

theorem readBack_vote (h : VHead) (mode : VoteMode) (ga : Pred) : (Instr.vote h mode ga).ReadBack := by
  intro hw r hr
  cases hr
  simp (disch := decide) only [BitVec.reduceToNat, toInstr_rawV, decodeV, fld_high, fld_low, fld_all, Nat.reduceSub,
      BitVec.ofNat_eq_ofNat, Pred.ofCode_code, VoteMode.ofCode_code, defined, Except.bind, checkWf_of_wf hw, and_self,
      ↓reduceIte]

theorem readBack_red (h : VHead) (op : RedOp) (ty : RedTy) (rnd : Rnd) (a : Src) : (Instr.red h op ty rnd a).ReadBack := by
  intro hw r hr
  have ha : a.wf = true := by simp_all [Instr.wf]
  cases hr
  simp (disch := decide) only [BitVec.reduceToNat, toInstr_rawV, decodeV, fld_high, fld_low, fld_all, Nat.reduceSub,
      BitVec.ofNat_eq_ofNat, Rnd.ofCode_code, RedOp.ofCode_code, RedTy.ofCode_code, defined, Except.bind, checkWf_of_wf hw,
      and_self, ↓reduceIte, Src.ofCode_code _ ha]

theorem readBack_scan (h : VHead) (op : RedOp) (ty : RedTy) (rnd : Rnd) (excl : Bool) (a : Src) :
    (Instr.scan h op ty rnd excl a).ReadBack := by
  intro hw r hr
  have ha : a.wf = true := by simp_all [Instr.wf]
  cases hr
  simp (disch := decide) only [BitVec.reduceToNat, toInstr_rawV, decodeV, fld_high, fld_low, fld_all, Nat.reduceSub,
      BitVec.ofNat_eq_ofNat, getLsbD_high, getLsbD_low, ofBool_bit, Rnd.ofCode_code, RedOp.ofCode_code, RedTy.ofCode_code,
      defined, Except.bind, checkWf_of_wf hw, and_self, ↓reduceIte, Src.ofCode_code _ ha]

theorem readBack_twset (tw : BitVec 20) : (Instr.twset tw).ReadBack := by
  intro hw r hr
  cases hr
  simp (disch := decide) only [BitVec.reduceToNat, Raw.toInstr, decodeI, BitVec.ofNat_eq_ofNat, and_self, ↓reduceIte]

theorem readBack_matchLanes (h : VHead) (w : Bool) (a : Src) : (Instr.matchLanes h w a).ReadBack := by
  intro hw r hr
  have ha : a.wf = true := by simp_all [Instr.wf]
  cases hr
  simp (disch := decide) only [BitVec.reduceToNat, toInstr_rawV, decodeV, fld_high, fld_all, Nat.reduceSub,
      BitVec.ofNat_eq_ofNat, getLsbD_low, ofBool_bit, checkWf_of_wf hw, and_self, ↓reduceIte, Src.ofCode_code _ ha]

theorem readBack_ld (f : MForm) : (Instr.ld f).ReadBack := by
  intro hw r hr
  obtain ⟨hsrcd, haddr⟩ : f.srcd.wf = true ∧ f.addr.wf = true := by simp_all [Instr.wf, wf_unused]
  cases hr
  simp (disch := decide) only [BitVec.reduceToNat, Raw.toInstr, rawM, decodeM, BitVec.ofNat_eq_ofNat, flagOf_flagCode,
      Pred.ofCode_code, scopeOf_code, MemTy.ofCode_code, Space.ofCode_code, defined, Except.bind, checkWf_of_wf hw,
      Src.ofCode_code _ hsrcd, Src.ofCode_code _ haddr]

theorem readBack_st (f : MForm) : (Instr.st f).ReadBack := by
  intro hw r hr
  obtain ⟨hsrcd, haddr⟩ : f.srcd.wf = true ∧ f.addr.wf = true := by simp_all [Instr.wf]
  cases hr
  simp (disch := decide) only [BitVec.reduceToNat, Raw.toInstr, rawM, decodeM, BitVec.ofNat_eq_ofNat, flagOf_flagCode,
      Pred.ofCode_code, scopeOf_code, MemTy.ofCode_code, Space.ofCode_code, defined, Except.bind, checkWf_of_wf hw,
      Src.ofCode_code _ hsrcd, Src.ofCode_code _ haddr]

theorem readBack_faa (f : AForm) (ty : AtTy) : (Instr.faa f ty).ReadBack := by
  intro hw r hr
  obtain ⟨hsrcd, haddr, hsrce⟩ : f.srcd.wf = true ∧ f.addr.wf = true ∧ f.srce.wf = true := by simp_all [Instr.wf, wf_unused]
  cases hr
  simp (disch := decide) only [BitVec.reduceToNat, Raw.toInstr, rawA, decodeA, fld_high, fld_low, fld_all, Nat.reduceSub,
      BitVec.ofNat_eq_ofNat, flagOf_flagCode, Pred.ofCode_code, scopeOf_code, AtTy.ofCode_code, defined, Except.bind,
      checkWf_of_wf hw, ↓reduceIte, Src.ofCode_code _ hsrcd, Src.ofCode_code _ haddr, Src.ofCode_code _ hsrce]

theorem readBack_atom (f : AForm) (op : AtomOp) (ty : AtomTy) : (Instr.atom f op ty).ReadBack := by
  intro hw r hr
  obtain ⟨hsrcd, haddr, hsrce⟩ : f.srcd.wf = true ∧ f.addr.wf = true ∧ f.srce.wf = true := by simp_all [Instr.wf, wf_unused]
  cases hr
  simp (disch := decide) only [BitVec.reduceToNat, Raw.toInstr, rawA, decodeA, fld_high, fld_low, fld_all, Nat.reduceSub,
      BitVec.ofNat_eq_ofNat, flagOf_flagCode, Pred.ofCode_code, scopeOf_code, AtomTy.ofCode_code, AtomOp.ofCode_code, defined,
      Except.bind, checkWf_of_wf hw, ↓reduceIte, Src.ofCode_code _ hsrcd, Src.ofCode_code _ haddr, Src.ofCode_code _ hsrce]

theorem readBack_cas (f : AForm) (ty : AtTy) : (Instr.cas f ty).ReadBack := by
  intro hw r hr
  obtain ⟨hsrcd, haddr, hsrce⟩ : f.srcd.wf = true ∧ f.addr.wf = true ∧ f.srce.wf = true := by simp_all [Instr.wf]
  cases hr
  simp (disch := decide) only [BitVec.reduceToNat, Raw.toInstr, rawA, decodeA, fld_high, fld_low, fld_all, Nat.reduceSub,
      BitVec.ofNat_eq_ofNat, flagOf_flagCode, Pred.ofCode_code, scopeOf_code, AtTy.ofCode_code, defined, Except.bind,
      checkWf_of_wf hw, ↓reduceIte, Src.ofCode_code _ hsrcd, Src.ofCode_code _ haddr, Src.ofCode_code _ hsrce]

theorem readBack_fence (o : MemOrd) (sc : Scope) : (Instr.fence o sc).ReadBack := by
  intro hw r hr
  cases hr
  simp (disch := decide) only [BitVec.reduceToNat, Raw.toInstr, decodeZ, fld_high, fld_low, fld_all, Nat.reduceSub,
      BitVec.ofNat_eq_ofNat, scopeOf_code, MemOrd.ofCode_code, defined, Except.bind, checkWf_of_wf hw, ↓reduceIte]

theorem readBack_cachePin (h : VHead) (a : Src) : (Instr.cachePin h a).ReadBack := by
  intro hw r hr
  have ha : a.wf = true := by simp_all [Instr.wf]
  cases hr
  simp (disch := decide) only [BitVec.reduceToNat, toInstr_rawV, decodeV, fld_zero', BitVec.ofNat_eq_ofNat, checkWf_of_wf hw,
      and_self, ↓reduceIte, Src.ofCode_code _ ha]
  rfl

theorem readBack_cacheUnpin (h : VHead) (a : Src) : (Instr.cacheUnpin h a).ReadBack := by
  intro hw r hr
  have ha : a.wf = true := by simp_all [Instr.wf]
  cases hr
  simp (disch := decide) only [BitVec.reduceToNat, toInstr_rawV, decodeV, BitVec.ofNat_eq_ofNat, checkWf_of_wf hw, and_self,
      and_true, Src.ofCode_code _ ha]
  rfl

theorem readBack_cpy (flag : FlagSel) (sz : BitVec 2) (d a : Src) : (Instr.cpy flag sz d a).ReadBack := by
  intro hw r hr
  obtain ⟨hd, ha⟩ : d.wf = true ∧ a.wf = true := by simp_all [Instr.wf]
  cases hr
  simp (disch := decide) only [BitVec.reduceToNat, Raw.toInstr, decodeX, fld_high, fld_low, fld_all, Nat.reduceSub,
      BitVec.ofNat_eq_ofNat, flagOf_flagCode, Except.bind, checkWf_of_wf hw, and_self, ↓reduceIte, Src.ofCode_code _ hd,
      Src.ofCode_code _ ha]

theorem readBack_cpyWait (n : BitVec 4) (ge : BitVec 3) : (Instr.cpyWait n ge).ReadBack := by
  intro hw r hr
  cases hr
  simp (disch := decide) only [BitVec.reduceToNat, Raw.toInstr, decodeZ, fld_high, fld_low, fld_all, Nat.reduceSub,
      BitVec.ofNat_eq_ofNat, ↓reduceIte]

theorem readBack_tcpy (f : TcpyForm) : (Instr.tcpy f).ReadBack := by
  intro hw r hr
  obtain ⟨hmb, hsb, hlay, hq⟩ : f.mb.wf = true ∧ f.sb.wf = true ∧ f.lay.wf = true ∧ f.q.wf = true := by simp_all [Instr.wf]
  cases hr
  simp (disch := decide) only [BitVec.reduceToNat, Raw.toInstr, decodeX, fld_high, fld_low, fld_all, Nat.reduceSub,
      BitVec.ofNat_eq_ofNat, getLsbD_high, getLsbD_low, ofBool_bit, flagOf_flagCode, Except.bind, true_and,
      Src.ofCode_code _ hmb, Src.ofCode_code _ hsb, Src.ofCode_code _ hlay, Src.ofCode_code _ hq]
  rcases f with ⟨flag, st, _ | ring, dst, mb, sb, lay, q⟩ <;> exact checkWf_of_wf hw

theorem readBack_bar (b : BitVec 4) (mode : BarMode) : (Instr.bar b mode).ReadBack := by
  intro hw r hr
  cases hr
  simp (disch := decide) only [BitVec.reduceToNat, Raw.toInstr, decodeZ, fld_high, fld_low, fld_all, Nat.reduceSub,
      BitVec.ofNat_eq_ofNat, BarMode.ofCode_code, defined, Except.map, ↓reduceIte]

theorem readBack_ringWait (h : VHead) (ring : BitVec 3) (empty v : Bool) (st : Src) :
    (Instr.ringWait h ring empty v st).ReadBack := by
  intro hw r hr
  have hst : st.wf = true := by simp_all [Instr.wf]
  cases hr
  simp (disch := decide) only [BitVec.reduceToNat, toInstr_rawV, decodeV, fld_high, fld_low, fld_all, Nat.reduceSub,
      BitVec.ofNat_eq_ofNat, getLsbD_high, getLsbD_low, ofBool_bit, checkWf_of_wf hw, and_self, ↓reduceIte,
      Src.ofCode_code _ hst]

theorem readBack_ringArrive (h : VHead) (ring : BitVec 3) (empty : Bool) (st : Src) :
    (Instr.ringArrive h ring empty st).ReadBack := by
  intro hw r hr
  have hst : st.wf = true := by simp_all [Instr.wf]
  cases hr
  simp (disch := decide) only [BitVec.reduceToNat, toInstr_rawV, decodeV, fld_high, fld_low, fld_all, Nat.reduceSub,
      BitVec.ofNat_eq_ofNat, getLsbD_high, getLsbD_low, ofBool_bit, checkWf_of_wf hw, and_self, ↓reduceIte,
      Src.ofCode_code _ hst]

theorem readBack_tlwait (h : VHead) (sel : BitVec 7) (sc : Scope) (n : Src) : (Instr.tlwait h sel sc n).ReadBack := by
  intro hw r hr
  have hn : n.wf = true := by simp_all [Instr.wf]
  cases hr
  simp (disch := decide) only [BitVec.reduceToNat, toInstr_rawV, decodeV, fld_high, fld_low, fld_all, Nat.reduceSub,
      BitVec.ofNat_eq_ofNat, Scope.ofCode_code, checkWf_of_wf hw, and_self, ↓reduceIte, Src.ofCode_code _ hn]

theorem readBack_attach (h : VHead) (role : Role) : (Instr.attach h role).ReadBack := by
  intro hw r hr
  cases hr
  simp (disch := decide) only [BitVec.reduceToNat, toInstr_rawV, decodeV, fld_high, fld_low, fld_all, Nat.reduceSub,
      BitVec.ofNat_eq_ofNat, Role.ofCode_code, defined, Except.bind, checkWf_of_wf hw, and_self, ↓reduceIte]

theorem readBack_shrinkq (h : VHead) : (Instr.shrinkq h).ReadBack := by
  intro hw r hr
  cases hr
  simp (disch := decide) only [BitVec.reduceToNat, toInstr_rawV, decodeV, BitVec.ofNat_eq_ofNat, checkWf_of_wf hw, and_self,
      ↓reduceIte]

theorem readBack_launch (dst : BitVec 10) (a q : Src) : (Instr.launch dst a q).ReadBack := by
  intro hw r hr
  obtain ⟨ha, hq⟩ : a.wf = true ∧ q.wf = true := by simp_all [Instr.wf]
  cases hr
  simp (disch := decide) only [BitVec.reduceToNat, Raw.toInstr, decodeX, BitVec.ofNat_eq_ofNat, Except.bind, checkWf_of_wf hw,
      true_and, Src.ofCode_code _ ha, Src.ofCode_code _ hq]
  rfl

theorem readBack_mma (f : MmaForm) : (Instr.mma f).ReadBack := by
  intro hw r hr
  have ha : f.a.wf = true := by simp_all [Instr.wf, MmaForm.wf]
  cases hr
  simp (disch := decide) only [BitVec.reduceToNat, Raw.toInstr, decodeX, fld_high, fld_low, fld_all, Nat.reduceSub,
      BitVec.ofNat_eq_ofNat, getLsbD_high, getLsbD_low, ofBool_bit, flagOf_flagCode, MxFmt.ofCode_code, defined, Except.bind,
      checkWf_of_wf hw, and_self, ↓reduceIte, Src.ofCode_code _ ha]

theorem readBack_mmaLdb (f : LdbForm) : (Instr.mmaLdb f).ReadBack := by
  intro hw r hr
  obtain ⟨ha, hlay, hq⟩ : f.a.wf = true ∧ f.lay.wf = true ∧ f.q.wf = true := by simp_all [Instr.wf, LdbForm.wf]
  cases hr
  simp (disch := decide) only [BitVec.reduceToNat, Raw.toInstr, decodeX, fld_high, fld_low, fld_all, Nat.reduceSub,
      BitVec.ofNat_eq_ofNat, getLsbD_high, getLsbD_low, ofBool_bit, flagOf_flagCode, MxFmt.ofCode_code, defined, Except.bind,
      true_and, Src.ofCode_code _ ha, Src.ofCode_code _ hlay, Src.ofCode_code _ hq]
  rcases f with ⟨flag, dst, _ | ring, s, fmt, ct, key, lay, a, q⟩ <;> exact checkWf_of_wf hw

theorem readBack_sclPush (h : VHead) (m a : Src) : (Instr.sclPush h m a).ReadBack := by
  intro hw r hr
  obtain ⟨hm, ha⟩ : m.wf = true ∧ a.wf = true := by simp_all [Instr.wf]
  cases hr
  simp (disch := decide) only [BitVec.reduceToNat, toInstr_rawV, decodeV, BitVec.ofNat_eq_ofNat, checkWf_of_wf hw, and_self,
      ↓reduceIte, Src.ofCode_code _ hm, Src.ofCode_code _ ha]

theorem readBack_ctSet (h : VHead) (n : BitVec 2) (a : Src) : (Instr.ctSet h n a).ReadBack := by
  intro hw r hr
  have ha : a.wf = true := by simp_all [Instr.wf]
  cases hr
  simp (disch := decide) only [BitVec.reduceToNat, toInstr_rawV, decodeV, fld_high, fld_low, fld_all, Nat.reduceSub,
      BitVec.ofNat_eq_ofNat, checkWf_of_wf hw, and_self, ↓reduceIte, Src.ofCode_code _ ha]

theorem readBack_gangSet (h : VHead) (a : Src) : (Instr.gangSet h a).ReadBack := by
  intro hw r hr
  have ha : a.wf = true := by simp_all [Instr.wf]
  cases hr
  simp (disch := decide) only [BitVec.reduceToNat, toInstr_rawV, decodeV, BitVec.ofNat_eq_ofNat, checkWf_of_wf hw, and_self,
      ↓reduceIte, Src.ofCode_code _ ha]

theorem readBack_acc (f : AccForm) : (Instr.acc f).ReadBack := by
  intro hw r hr
  obtain ⟨ha, hrow0, hcount⟩ : f.a.wf = true ∧ f.row0.wf = true ∧ f.count.wf = true := by simp_all [Instr.wf]
  cases hr
  simp (disch := decide) only [BitVec.reduceToNat, Raw.toInstr, decodeX, fld_high, fld_low, fld_all, Nat.reduceSub,
      BitVec.ofNat_eq_ofNat, flagOf_flagCode, AccOp.ofCode_code, defined, Except.bind, checkWf_of_wf hw, and_self, ↓reduceIte,
      Src.ofCode_code _ ha, Src.ofCode_code _ hrow0, Src.ofCode_code _ hcount]

theorem readBack_epiLd (flag : FlagSel) (a : Src) : (Instr.epiLd flag a).ReadBack := by
  intro hw r hr
  have ha : a.wf = true := by simp_all [Instr.wf]
  cases hr
  simp (disch := decide) only [BitVec.reduceToNat, Raw.toInstr, decodeX, fld_zero', BitVec.ofNat_eq_ofNat, flagOf_flagCode,
      Except.bind, checkWf_of_wf hw, and_self, ↓reduceIte, Src.ofCode_code _ ha]

theorem readBack_epiRun (f : EpiForm) : (Instr.epiRun f).ReadBack := by
  intro hw r hr
  obtain ⟨hsb, hc, hp⟩ : f.sb.wf = true ∧ f.c.wf = true ∧ f.p.wf = true := by simp_all [Instr.wf]
  cases hr
  simp (disch := decide) only [BitVec.reduceToNat, Raw.toInstr, decodeX, fld_high, fld_low, fld_all, Nat.reduceSub,
      BitVec.ofNat_eq_ofNat, flagOf_flagCode, Except.bind, checkWf_of_wf hw, and_self, ↓reduceIte, Src.ofCode_code _ hsb,
      Src.ofCode_code _ hc, Src.ofCode_code _ hp]
  rfl

theorem readBack_sleepNs (h : VHead) (d : Src) : (Instr.sleepNs h d).ReadBack := by
  intro hw r hr
  have hd : d.wf = true := by simp_all [Instr.wf]
  cases hr
  simp (disch := decide) only [BitVec.reduceToNat, toInstr_rawV, decodeV, fld_zero', BitVec.ofNat_eq_ofNat, checkWf_of_wf hw,
      and_self, ↓reduceIte, Src.ofCode_code _ hd]
  rfl

theorem readBack_waitNs (h : VHead) (d : Src) : (Instr.waitNs h d).ReadBack := by
  intro hw r hr
  have hd : d.wf = true := by simp_all [Instr.wf]
  cases hr
  simp (disch := decide) only [BitVec.reduceToNat, toInstr_rawV, decodeV, BitVec.ofNat_eq_ofNat, checkWf_of_wf hw, and_self,
      and_true, Src.ofCode_code _ hd]
  rfl

theorem readBack_boost (h : VHead) (p t : Src) : (Instr.boost h p t).ReadBack := by
  intro hw r hr
  obtain ⟨hp, ht⟩ : p.wf = true ∧ t.wf = true := by simp_all [Instr.wf]
  cases hr
  simp (disch := decide) only [BitVec.reduceToNat, toInstr_rawV, decodeV, BitVec.ofNat_eq_ofNat, checkWf_of_wf hw, and_self,
      ↓reduceIte, Src.ofCode_code _ hp, Src.ofCode_code _ ht]

theorem readBack_wearRd (h : VHead) (a : Src) : (Instr.wearRd h a).ReadBack := by
  intro hw r hr
  have ha : a.wf = true := by simp_all [Instr.wf]
  cases hr
  simp (disch := decide) only [BitVec.reduceToNat, toInstr_rawV, decodeV, BitVec.ofNat_eq_ofNat, checkWf_of_wf hw, and_self,
      ↓reduceIte, Src.ofCode_code _ ha]

theorem readBack_sealPut (h : VHead) (a n : Src) : (Instr.sealPut h a n).ReadBack := by
  intro hw r hr
  obtain ⟨ha, hn⟩ : a.wf = true ∧ n.wf = true := by simp_all [Instr.wf]
  cases hr
  simp (disch := decide) only [BitVec.reduceToNat, toInstr_rawV, decodeV, BitVec.ofNat_eq_ofNat, checkWf_of_wf hw, and_self,
      ↓reduceIte, Src.ofCode_code _ ha, Src.ofCode_code _ hn]

theorem readBack_pxScope (o : MemOrd) (sc : Scope) : (Instr.pxScope o sc).ReadBack := by
  intro hw r hr
  cases hr
  simp (disch := decide) only [BitVec.reduceToNat, Raw.toInstr, decodeP, fld_high, fld_low, fld_all, Nat.reduceSub,
      BitVec.ofNat_eq_ofNat, Scope.ofCode_code, MemOrd.ofCode_code, ↓reduceIte]

theorem readBack_pxTile (t : BitVec 3) : (Instr.pxTile t).ReadBack := by
  intro hw r hr
  cases hr
  simp (disch := decide) only [BitVec.reduceToNat, Raw.toInstr, decodeP, fld_high, fld_low, fld_all, Nat.reduceSub,
      BitVec.ofNat_eq_ofNat, true_and]
  exact if_pos (by simpa [Instr.wf] using hw)

theorem readBack_flwait (m : BitVec 12) : (Instr.flwait m).ReadBack := by
  intro hw r hr
  cases hr
  simp (disch := decide) only [BitVec.reduceToNat, Raw.toInstr, decodeZ, fld_high, fld_low, fld_all, Nat.reduceSub,
      BitVec.ofNat_eq_ofNat, ↓reduceIte]

theorem readBack_trap (c : BitVec 16) : (Instr.trap c).ReadBack := by
  intro hw r hr
  cases hr
  simp (disch := decide) only [BitVec.reduceToNat, Raw.toInstr, decodeZ, fld_high, fld_low, fld_all, Nat.reduceSub,
      BitVec.ofNat_eq_ofNat, ↓reduceIte]

theorem readBack_brk (c : BitVec 16) : (Instr.brk c).ReadBack := by
  intro hw r hr
  cases hr
  simp (disch := decide) only [BitVec.reduceToNat, Raw.toInstr, decodeZ, fld_high, fld_low, fld_all, Nat.reduceSub,
      BitVec.ofNat_eq_ofNat, ↓reduceIte]

/-! ## Every instruction -/

/-- The encoder's raw fields of a well-formed instruction are read as that instruction. -/
theorem toInstr_of_toRaw {i : Instr} {r : Raw} (hw : i.wf = true) (hr : i.toRaw = some r) : r.toInstr = .ok i := by
  cases i
  case add f | sub f | mul f | mulhi f | min f | max f | div f | rem f | mulw f | and f | or f | xor f | shl f | shr f | sar f
      | rotl f =>
    cases hr
    exact toInstr_rawVBin (fun _ _ _ _ _ => rfl) hw (by simp_all [Instr.wf, VBin.plain, VBin.withSat])
  case abs f | neg f | not f | popc f | clz f | brev f | mov f =>
    cases hr
    exact toInstr_rawVUn (fun _ _ _ _ _ => rfl) hw (by simp_all [Instr.wf, VUn.plain])
  case fadd f | fsub f | fmul f | fmin f | fmax f | fcpsgn f | fadd2 f | fmul2 f | fmin2 f | fmax2 f =>
    cases hr
    exact toInstr_rawFBin (fun _ _ _ _ _ => rfl) hw (by simp_all [Instr.wf, FBin.rounds, FBin.exact])
  case fabs f | fneg f | rcp f | rsqrt f | sqrt f | exp2 f | log2 f | sin f | cos f | tanh f =>
    cases hr
    exact toInstr_rawFUn (fun _ _ _ _ _ => rfl) hw (by simp_all [Instr.wf, FUn.rounds, FUn.exact])
  case mad f | sad f | bfe f | bfi f | fsh f | perm f =>
    cases hr
    exact toInstr_rawTInt (fun _ _ _ _ _ _ _ => rfl) hw (by simp_all [Instr.wf, TInt.plain, TInt.withM])
  case fma f | fma2 f | fdot2 f =>
    cases hr
    exact toInstr_rawFTri (fun _ _ _ _ _ _ _ => rfl) hw (by simp_all [Instr.wf, FTri.wf])
  case addi f | muli f | andi f | ori f | xori f | shli f | shri f | sari f | movi f =>
    cases hr
    exact toInstr_rawI (fun _ _ _ _ => rfl) hw (by simp_all [Instr.wf, IForm.plain, wf_unused])
  case gmov h m =>
    cases m with
    | toReg g => exact readBack_gmov_toReg h g hw r hr
    | toGuard a => exact readBack_gmov_toGuard h a hw r hr
  case lea f k => exact readBack_lea f k hw r hr
  case lop3 f tt => exact readBack_lop3 f tt hw r hr
  case gtag dst a tag => exact readBack_gtag dst a tag hw r hr
  case icmp h c t op gc a b => exact readBack_icmp h c t op gc a b hw r hr
  case fcmp h c ty op gc a b => exact readBack_fcmp h c ty op gc a b hw r hr
  case icmpi dst c t a imm => exact readBack_icmpi dst c t a imm hw r hr
  case gop h op ga gb => exact readBack_gop h op ga gb hw r hr
  case sel f => exact readBack_sel f hw r hr
  case fclass h ty a mask => exact readBack_fclass h ty a mask hw r hr
  case cvt h d s rnd ct a => exact readBack_cvt h d s rnd ct a hw r hr
  case cvtpk h d s rnd p a b => exact readBack_cvtpk h d s rnd p a b hw r hr
  case unpk h d s e a => exact readBack_unpk h d s e a hw r hr
  case lut h n p f16 a => exact readBack_lut h n p f16 a hw r hr
  case frnd h ty rnd a => exact readBack_frnd h ty rnd a hw r hr
  case rq h ty rnd sh e a b c => exact readBack_rq h ty rnd sh e a b c hw r hr
  case shfl h mode w gv a b => exact readBack_shfl h mode w gv a b hw r hr
  case vote h mode ga => exact readBack_vote h mode ga hw r hr
  case red h op ty rnd a => exact readBack_red h op ty rnd a hw r hr
  case scan h op ty rnd excl a => exact readBack_scan h op ty rnd excl a hw r hr
  case twset tw => exact readBack_twset tw hw r hr
  case matchLanes h w a => exact readBack_matchLanes h w a hw r hr
  case ld f => exact readBack_ld f hw r hr
  case st f => exact readBack_st f hw r hr
  case faa f ty => exact readBack_faa f ty hw r hr
  case atom f op ty => exact readBack_atom f op ty hw r hr
  case cas f ty => exact readBack_cas f ty hw r hr
  case fence o sc => exact readBack_fence o sc hw r hr
  case cachePin h a => exact readBack_cachePin h a hw r hr
  case cacheUnpin h a => exact readBack_cacheUnpin h a hw r hr
  case cpy flag sz d a => exact readBack_cpy flag sz d a hw r hr
  case cpyWait n ge => exact readBack_cpyWait n ge hw r hr
  case tcpy f => exact readBack_tcpy f hw r hr
  case bar b mode => exact readBack_bar b mode hw r hr
  case ringWait h ring empty v st => exact readBack_ringWait h ring empty v st hw r hr
  case ringArrive h ring empty st => exact readBack_ringArrive h ring empty st hw r hr
  case tlwait h sel sc n => exact readBack_tlwait h sel sc n hw r hr
  case attach h role => exact readBack_attach h role hw r hr
  case shrinkq h => exact readBack_shrinkq h hw r hr
  case launch dst a q => exact readBack_launch dst a q hw r hr
  case mma f => exact readBack_mma f hw r hr
  case mmaLdb f => exact readBack_mmaLdb f hw r hr
  case sclPush h m a => exact readBack_sclPush h m a hw r hr
  case ctSet h n a => exact readBack_ctSet h n a hw r hr
  case gangSet h a => exact readBack_gangSet h a hw r hr
  case acc f => exact readBack_acc f hw r hr
  case epiLd flag a => exact readBack_epiLd flag a hw r hr
  case epiRun f => exact readBack_epiRun f hw r hr
  case sleepNs h d => exact readBack_sleepNs h d hw r hr
  case waitNs h d => exact readBack_waitNs h d hw r hr
  case boost h p t => exact readBack_boost h p t hw r hr
  case wearRd h a => exact readBack_wearRd h a hw r hr
  case sealPut h a n => exact readBack_sealPut h a n hw r hr
  case pxScope o sc => exact readBack_pxScope o sc hw r hr
  case pxTile t => exact readBack_pxTile t hw r hr
  case flwait m => exact readBack_flwait m hw r hr
  case trap c => exact readBack_trap c hw r hr
  case brk c => exact readBack_brk c hw r hr
  case nop | ret | exit | yield | cpySeal | detach | rtrap | ntHintEnter | ntHintLeave => cases hr; rfl
  case bra g off | call g off =>
    cases hr
    simp only [BitVec.reduceToNat, Raw.toInstr, decodeB, Pred.ofCode_code]
  case brr a | callr a =>
    cases hr
    simp only [BitVec.reduceToNat, Raw.toInstr, decodeU, and_self, ↓reduceIte, Src.ofCode_code _ hw]
  case pxLit l => cases hr; rfl
  all_goals cases hr

/-- What the encoder writes is of the format of its major, whatever the instruction. -/
theorem formatOf_of_toRaw {i : Instr} {r : Raw} (hr : i.toRaw = some r) : r.fmt ≠ .p → formatOf r.mj.toNat = some r.fmt := by
  intro hp
  cases i
  case gmov h m => cases m <;> (cases hr; rfl)
  case pxLit | pxScope | pxTile => cases hr; exact absurd rfl hp
  all_goals (cases hr <;> rfl)

/-- Settles O58: the encoder's fields are of the format of their major, and every form is read back from its fields. -/
theorem decodeOfEncode : Obligations.DecodeOfEncode := by
  unfold Obligations.DecodeOfEncode
  intro i tail hw hr
  obtain ⟨r, hr⟩ := Option.isSome_iff_exists.mp hr
  have he : encode i = r.pack := by simp [encode, hr]
  rw [he, decode_pack r (formatOf_of_toRaw hr), toInstr_of_toRaw hw hr]
  rfl

end Sys2Proof
end

section
/-! SUPPORT. What the decoder accepts (R207, R218): the fields that it reads, written out again by the encoder, are the raw
fields it read them from, and every reserved bit among them is 0. -/

namespace Sys2Proof

set_option Elab.async false

/-! ## Decoding steps that succeed -/

theorem bind_eq_ok {ε α β : Type} {e : Except ε α} {f : α → Except ε β} {y : β} :
    e.bind f = .ok y ↔ ∃ x, e = .ok x ∧ f x = .ok y := by
  cases e <;> simp [Except.bind]

theorem map_eq_ok {ε α β : Type} {e : Except ε α} {f : α → β} {y : β} : e.map f = .ok y ↔ ∃ x, e = .ok x ∧ f x = y := by
  cases e <;> simp [Except.map]

theorem ite_error_eq_ok {ε α : Type} {c : Prop} [Decidable c] {e : Except ε α} {err : ε} {y : α} :
    (if c then e else .error err) = .ok y ↔ c ∧ e = .ok y := by
  split <;> simp [*]

theorem defined_eq_ok {α : Type} {o : Option α} {x : α} : defined o = .ok x ↔ o = some x := by
  cases o <;> simp [defined]

theorem checkWf_eq_ok {i j : Instr} : checkWf i = .ok j ↔ i.wf = true ∧ i = j := by
  rw [checkWf, ite_error_eq_ok, Except.ok.injEq]

theorem scopeOf_eq_ok {c : BitVec 3} {x : Scope} : scopeOf c = .ok x ↔ Scope.ofCode c.toNat = some x := by
  unfold scopeOf; cases Scope.ofCode c.toNat <;> simp

theorem flagCode_of_flagOf {c : BitVec 4} {f : FlagSel} (h : flagOf c = .ok f) : flagCode f = c := by
  revert f; revert c; decide

theorem headOf_eq_ok {fl : BitVec 4} {re : BitVec 2} {d : BitVec 10} {h : VHead} (hh : headOf fl re d = .ok h) :
    flagCode h.flag = fl ∧ h.reuse = re ∧ h.dst = d := by
  obtain ⟨f, hf, rfl⟩ := map_eq_ok.mp hh
  exact ⟨flagCode_of_flagOf hf, rfl, rfl⟩

/-! ## Codes read back -/

theorem Lit.code_of_ofCode {n : Nat} {x : Lit} (h : Lit.ofCode n = some x) : x.code = n := by
  unfold Lit.ofCode at h; split at h <;> cases h <;> rfl
theorem Special.code_of_ofCode {n : Nat} {x : Special} (h : Special.ofCode n = some x) : x.code = n := by
  unfold Special.ofCode at h; split at h <;> cases h <;> rfl

theorem Lit.ofCode_isSome {n : Nat} (h : n < 16) : ∃ x, Lit.ofCode n = some x := by
  interval_cases n <;> exact ⟨_, rfl⟩
theorem Special.ofCode_isSome {n : Nat} (h : n < 16) : ∃ x, Special.ofCode n = some x := by
  interval_cases n <;> exact ⟨_, rfl⟩

theorem Src.code_ofCode (c : BitVec 11) : (Src.ofCode c).code = c := by
  unfold Src.ofCode
  split
  case isTrue h => simp only [Src.code]; bv_omega
  case isFalse h =>
    split
    · cases hl : Lit.ofCode (c.toNat - 0x400) with
      | none => rfl
      | some k => simp only [Src.code, Lit.code_of_ofCode hl]; bv_omega
    · split
      · cases hl : Special.ofCode (c.toNat - 0x410) with
        | none => rfl
        | some k => simp only [Src.code, Special.code_of_ofCode hl]; bv_omega
      · rfl

theorem Pred.code_ofCode (c : BitVec 4) : (Pred.ofCode c).code = c := by revert c; decide

theorem Scope.code_of_ofCode {c : BitVec 3} {x : Scope} (h : Scope.ofCode c.toNat = some x) : BitVec.ofNat 3 x.code = c := by
  revert x; revert c; decide
theorem MemOrd.code_of_ofCode {c : BitVec 3} {x : MemOrd} (h : MemOrd.ofCode c.toNat = some x) : BitVec.ofNat 3 x.code = c := by
  revert x; revert c; decide
theorem Cond.code_of_ofCode {c : BitVec 4} {x : Cond} (h : Cond.ofCode c.toNat = some x) : BitVec.ofNat 4 x.code = c := by
  revert x; revert c; decide
theorem Comb.code_of_ofCode {c : BitVec 2} {x : Comb} (h : Comb.ofCode c.toNat = some x) : BitVec.ofNat 2 x.code = c := by
  revert x; revert c; decide
theorem GOp.code_of_ofCode {c : BitVec 2} {x : GOp} (h : GOp.ofCode c.toNat = some x) : BitVec.ofNat 2 x.code = c := by
  revert x; revert c; decide
theorem Rnd.code_of_ofCode {c : BitVec 2} {x : Rnd} (h : Rnd.ofCode c.toNat = some x) : BitVec.ofNat 2 x.code = c := by
  revert x; revert c; decide
theorem FTy.code_of_ofCode {c : BitVec 2} {x : FTy} (h : FTy.ofCode c.toNat = some x) : BitVec.ofNat 2 x.code = c := by
  revert x; revert c; decide
theorem CTy.code_of_ofCode {c : BitVec 5} {x : CTy} (h : CTy.ofCode c.toNat = some x) : BitVec.ofNat 5 x.code = c := by
  revert x; revert c; decide
theorem RqTy.code_of_ofCode {c : BitVec 2} {x : RqTy} (h : RqTy.ofCode c.toNat = some x) : BitVec.ofNat 2 x.code = c := by
  revert x; revert c; decide
theorem MemTy.code_of_ofCode {c : BitVec 4} {x : MemTy} (h : MemTy.ofCode c.toNat = some x) : BitVec.ofNat 4 x.code = c := by
  revert x; revert c; decide
theorem Space.code_of_ofCode {c : BitVec 2} {x : Space} (h : Space.ofCode c.toNat = some x) : BitVec.ofNat 2 x.code = c := by
  revert x; revert c; decide
theorem AtTy.code_of_ofCode {c : BitVec 2} {x : AtTy} (h : AtTy.ofCode c.toNat = some x) : BitVec.ofNat 2 x.code = c := by
  revert x; revert c; decide
theorem AtomTy.code_of_ofCode {c : BitVec 3} {x : AtomTy} (h : AtomTy.ofCode c.toNat = some x) : BitVec.ofNat 3 x.code = c := by
  revert x; revert c; decide
theorem AtomOp.code_of_ofCode {c : BitVec 4} {x : AtomOp} (h : AtomOp.ofCode c.toNat = some x) : BitVec.ofNat 4 x.code = c := by
  revert x; revert c; decide
theorem ShflMode.code_of_ofCode {c : BitVec 2} {x : ShflMode} (h : ShflMode.ofCode c.toNat = some x) :
    BitVec.ofNat 2 x.code = c := by
  revert x; revert c; decide
theorem VoteMode.code_of_ofCode {c : BitVec 2} {x : VoteMode} (h : VoteMode.ofCode c.toNat = some x) :
    BitVec.ofNat 2 x.code = c := by
  revert x; revert c; decide
theorem RedOp.code_of_ofCode {c : BitVec 3} {x : RedOp} (h : RedOp.ofCode c.toNat = some x) : BitVec.ofNat 3 x.code = c := by
  revert x; revert c; decide
theorem RedTy.code_of_ofCode {c : BitVec 3} {x : RedTy} (h : RedTy.ofCode c.toNat = some x) : BitVec.ofNat 3 x.code = c := by
  revert x; revert c; decide
theorem BarMode.code_of_ofCode {c : BitVec 2} {x : BarMode} (h : BarMode.ofCode c.toNat = some x) :
    BitVec.ofNat 2 x.code = c := by
  revert x; revert c; decide
theorem Role.code_of_ofCode {c : BitVec 2} {x : Role} (h : Role.ofCode c.toNat = some x) : BitVec.ofNat 2 x.code = c := by
  revert x; revert c; decide
theorem MxFmt.code_of_ofCode {c : BitVec 4} {x : MxFmt} (h : MxFmt.ofCode c.toNat = some x) : BitVec.ofNat 4 x.code = c := by
  revert x; revert c; decide
theorem AccOp.code_of_ofCode {c : BitVec 2} {x : AccOp} (h : AccOp.ofCode c.toNat = some x) : BitVec.ofNat 2 x.code = c := by
  revert x; revert c; decide

/-! ## Fields put together again -/

theorem ofBool_getLsbD {n : Nat} (x : BitVec n) (l : Nat) : BitVec.ofBool (x.getLsbD l) = fld x l 1 := by
  ext i hi
  obtain rfl : i = 0 := by omega
  simp [fld]

/-- Two neighbouring fields are one. -/
theorem fld_append_fld {n : Nat} (x : BitVec n) {a l m k : Nat} (h : a = l + k) : fld x a m ++ fld x l k = fld x l (m + k) := by
  subst h
  ext i hi
  simp only [fld, BitVec.getElem_append, BitVec.getElem_extractLsb']
  split
  · rfl
  · congr 1; omega

/-- A field of zeros above a field. -/
theorem zero_append_fld {n : Nat} (x : BitVec n) {a l m k : Nat} (h : fld x a m = 0) (ha : a = l + k) :
    0#m ++ fld x l k = fld x l (m + k) := by
  rw [← fld_append_fld x ha, h]; rfl

/-- A field of zeros under a field. -/
theorem fld_append_zero {n : Nat} (x : BitVec n) {a l m k : Nat} (h : fld x l k = 0) (ha : a = l + k) :
    fld x a m ++ 0#k = fld x l (m + k) := by
  rw [← fld_append_fld x ha, h]; rfl

/-! ## One decoding step -/

/-- What a decoding step accepts is well formed, and r are the raw fields that the encoder writes for it. -/
def ReadsExactly (e : Except DecodeError Instr) (r : Raw) : Prop :=
  ∀ i, e = .ok i → i.wf = true ∧ i.toRaw = some r

theorem ityCode_ityOf {ma : BitVec 6} (h : fld ma 3 3 = 0) : ityCode (ityOf ma) (ma.getLsbD 2) = ma := by
  revert ma; decide

/-! ### Fields with a zero or an option among them -/

theorem fld_fld {n : Nat} (x : BitVec n) (l : Nat) {m a k : Nat} (h : a + k ≤ m) : fld (fld x l m) a k = fld x (l + a) k := by
  ext i hi
  simp [fld, show a + i < m by omega, Nat.add_assoc]

theorem ityCode_mod {mo : BitVec 12} (h : fld mo 3 9 = 0) :
    0#6 ++ ityCode ⟨mo.getLsbD 0, mo.getLsbD 1⟩ (mo.getLsbD 2) = mo := by
  have hlo : fld mo 3 3 = 0 := by rw [← fld_fld mo 3 (m := 9) (a := 0) (by decide), h]; rfl
  have hhi : fld mo 6 6 = 0 := by rw [← fld_fld mo 3 (m := 9) (a := 3) (by decide), h]; rfl
  simp (disch := decide) only [ityCode, ofBool_getLsbD, zero_append_fld mo hlo, zero_append_fld mo hhi, fld_append_fld, fld_all]

theorem isSome_ite {α : Type} {b : Bool} {x : α} : (if b = true then some x else none).isSome = b := by cases b <;> rfl

theorem getD_ite {α : Type} [Zero α] {b : Bool} {x : α} (h : b = true ∨ x = 0) :
    (if b = true then some x else none).getD 0 = x := by
  cases b <;> simp_all

theorem getD_map_fst_ite {α β : Type} [Zero α] {b : Bool} {x : α} {y : β} (h : b = true ∨ x = 0) :
    ((if b = true then some (x, y) else none).map Prod.fst).getD 0 = x := by
  cases b <;> simp_all

theorem getD_map_snd_ite {α β : Type} [Zero β] {b : Bool} {x : α} {y : β} (h : b = true ∨ y = 0) :
    ((if b = true then some (x, y) else none).map Prod.snd).getD 0 = y := by
  cases b <;> simp_all

theorem ftyCode_of_ofCode {ma : BitVec 6} {ty : FTy} {r : Rnd} (h : fld ma 4 2 = 0) (ht :
    FTy.ofCode (fld ma 0 2).toNat = some ty)
    (hr : Rnd.ofCode (fld ma 2 2).toNat = some r) : ftyCode ty r = ma := by
  simp (disch := decide) only [ftyCode, FTy.code_of_ofCode ht, Rnd.code_of_ofCode hr, zero_append_fld ma h, fld_append_fld,
      fld_all]

variable {h : VHead} {ma : BitVec 6} {mj : BitVec 8} {mb : BitVec 10} {sb sa : BitVec 11} {mc : BitVec 21} {sc : BitVec 11}

/-! ## The forms of format V, T and I with a major of their own -/

theorem readsExactly_vbin {mk : VBin → Instr} (hk : ∀ f, (mk f).toRaw = some (rawVBin mj f)) :
    ReadsExactly (vbin mk h ma mb sb sa) (rawV h ma mj mb sb sa) := by
  intro i hi
  simp only [vbin, ite_error_eq_ok, checkWf_eq_ok] at hi
  obtain ⟨⟨rfl, hm⟩, hw, rfl⟩ := hi
  exact ⟨hw, by simp only [hk, rawVBin, ityCode_ityOf hm, Src.code_ofCode]⟩

theorem readsExactly_vun {mk : VUn → Instr} (hk : ∀ f, (mk f).toRaw = some (rawVUn mj f)) :
    ReadsExactly (vun mk h ma mb sb sa) (rawV h ma mj mb sb sa) := by
  intro i hi
  simp only [vun, ite_error_eq_ok, checkWf_eq_ok] at hi
  obtain ⟨⟨rfl, rfl, hm⟩, hw, rfl⟩ := hi
  exact ⟨hw, by simp only [hk, rawVUn, ityCode_ityOf hm, Src.code_ofCode]⟩

theorem readsExactly_fbin {mk : FBin → Instr} (hk : ∀ f, (mk f).toRaw = some (rawFBin mj f)) :
    ReadsExactly (fbin mk h ma mb sb sa) (rawV h ma mj mb sb sa) := by
  intro i hi
  simp only [fbin, ite_error_eq_ok, bind_eq_ok, defined_eq_ok, checkWf_eq_ok] at hi
  obtain ⟨⟨rfl, hm⟩, ty, ht, r, hr, hw, rfl⟩ := hi
  exact ⟨hw, by simp only [hk, rawFBin, ftyCode_of_ofCode hm ht hr, Src.code_ofCode]⟩

theorem readsExactly_fun1 {mk : FUn → Instr} (hk : ∀ f, (mk f).toRaw = some (rawFUn mj f)) :
    ReadsExactly (fun1 mk h ma mb sb sa) (rawV h ma mj mb sb sa) := by
  intro i hi
  simp only [fun1, ite_error_eq_ok, bind_eq_ok, defined_eq_ok, checkWf_eq_ok] at hi
  obtain ⟨⟨rfl, rfl, hm⟩, ty, ht, r, hr, hw, rfl⟩ := hi
  exact ⟨hw, by simp only [hk, rawFUn, ftyCode_of_ofCode hm ht hr, Src.code_ofCode]⟩

theorem readsExactly_tint {mk : TInt → Instr} (hk : ∀ f, (mk f).toRaw = some (rawTInt mj 0 f)) :
    ReadsExactly (tint mk h ma mb sb sa mc sc) (.t (flagCode h.flag) h.reuse ma h.dst mj mb sb sa mc sc) := by
  intro i hi
  simp only [tint, ite_error_eq_ok, checkWf_eq_ok] at hi
  obtain ⟨⟨rfl, rfl, hm⟩, hw, rfl⟩ := hi
  exact ⟨hw, by simp only [hk, rawTInt, rawT, ityCode_ityOf hm, Src.code_ofCode]⟩

theorem readsExactly_ftri {mk : FTri → Instr} (hk : ∀ f, (mk f).toRaw = some (rawFTri mj f)) :
    ReadsExactly (ftri mk h ma mb sb sa mc sc) (.t (flagCode h.flag) h.reuse ma h.dst mj mb sb sa mc sc) := by
  intro i hi
  simp only [ftri, ite_error_eq_ok, bind_eq_ok, defined_eq_ok, checkWf_eq_ok] at hi
  obtain ⟨⟨rfl, rfl, hm⟩, ty, ht, r, hr, hw, rfl⟩ := hi
  exact ⟨hw, by simp only [hk, rawFTri, rawT, ftyCode_of_ofCode hm ht hr, Src.code_ofCode]⟩

theorem eq_one_of_fld {x : BitVec 6} (h : fld x 1 5 = 0) (hb : x.getLsbD 0 = true) : x = 1 := by revert x; decide
theorem eq_zero_of_fld {x : BitVec 6} (h : fld x 1 5 = 0) (hb : ¬x.getLsbD 0 = true) : x = 0 := by revert x; decide
theorem eq_of_fld_two {x : BitVec 6} {c : BitVec 2} (h : fld x 2 4 = 0) (hb : fld x 0 2 = c) : x = c.setWidth 6 := by
  revert x; revert c; decide
theorem fld_eq_of_two {x : BitVec 10} {b : Bool} (h : fld x 2 8 = 0) (hb : fld x 0 2 = (BitVec.ofBool b).setWidth 2) :
    x = 0#9 ++ BitVec.ofBool b := by
  rw [← fld_all x, ← fld_append_fld (a := 2) (l := 0) (m := 8) (k := 2) x rfl, h, hb]; cases b <;> rfl

theorem readsExactly_icmp : ReadsExactly (decodeV h ma (0x50#8).toNat mb sb sa) (rawV h ma 0x50 mb sb sa) := by
  intro i hi
  simp only [decodeV, BitVec.reduceToNat, ite_error_eq_ok, bind_eq_ok, defined_eq_ok, checkWf_eq_ok] at hi
  obtain ⟨hz, c, hc, op, ho, hw, rfl⟩ := hi
  refine ⟨hw, (?_ : some _ = some _)⟩
  simp (disch := decide) only [ityOf, Cond.code_of_ofCode hc, Comb.code_of_ofCode ho, fld_append_zero mb hz, Src.code_ofCode,
      Pred.code_ofCode, ofBool_getLsbD, fld_append_fld, fld_all]

theorem readsExactly_fcmp : ReadsExactly (decodeV h ma (0x51#8).toNat mb sb sa) (rawV h ma 0x51 mb sb sa) := by
  intro i hi
  simp only [decodeV, BitVec.reduceToNat, ite_error_eq_ok, bind_eq_ok, defined_eq_ok, checkWf_eq_ok] at hi
  obtain ⟨hz, c, hc, ty, ht, op, ho, hw, rfl⟩ := hi
  refine ⟨hw, (?_ : some _ = some _)⟩
  simp (disch := decide) only [Cond.code_of_ofCode hc, FTy.code_of_ofCode ht, Comb.code_of_ofCode ho, fld_append_zero mb hz,
      Src.code_ofCode, Pred.code_ofCode, fld_append_fld, fld_all]

theorem readsExactly_gop : ReadsExactly (decodeV h ma (0x52#8).toNat mb sb sa) (rawV h ma 0x52 mb sb sa) := by
  intro i hi
  simp only [decodeV, BitVec.reduceToNat, ite_error_eq_ok, bind_eq_ok, defined_eq_ok, checkWf_eq_ok] at hi
  obtain ⟨⟨hm, rfl, ha, hb⟩, op, ho, hw, rfl⟩ := hi
  refine ⟨hw, (?_ : some _ = some _)⟩
  simp (disch := decide) only [GOp.code_of_ofCode ho, zero_append_fld ma hm, zero_append_fld sa ha, zero_append_fld sb hb,
      Pred.code_ofCode, fld_all]

theorem readsExactly_fclass : ReadsExactly (decodeV h ma (0x56#8).toNat mb sb sa) (rawV h ma 0x56 mb sb sa) := by
  intro i hi
  simp only [decodeV, BitVec.reduceToNat, ite_error_eq_ok, bind_eq_ok, defined_eq_ok, checkWf_eq_ok] at hi
  obtain ⟨⟨hm, hb, rfl⟩, ty, ht, hw, rfl⟩ := hi
  refine ⟨hw, (?_ : some _ = some _)⟩
  simp (disch := decide) only [FTy.code_of_ofCode ht, zero_append_fld ma hm, zero_append_fld mb hb, Src.code_ofCode, fld_all]

theorem readsExactly_cvt : ReadsExactly (decodeV h ma (0x60#8).toNat mb sb sa) (rawV h ma 0x60 mb sb sa) := by
  intro i hi
  simp only [decodeV, BitVec.reduceToNat, ite_error_eq_ok, bind_eq_ok, defined_eq_ok, checkWf_eq_ok] at hi
  obtain ⟨⟨hm, rfl⟩, d, hd, s, hs, r, hr, hw, rfl⟩ := hi
  refine ⟨hw, (?_ : some _ = some _)⟩
  simp (disch := decide) only [CTy.code_of_ofCode hd, CTy.code_of_ofCode hs, Rnd.code_of_ofCode hr, zero_append_fld ma hm,
      Src.code_ofCode, fld_append_fld, fld_all]

theorem readsExactly_cvtpk : ReadsExactly (decodeV h ma (0x61#8).toNat mb sb sa) (rawV h ma 0x61 mb sb sa) := by
  intro i hi
  simp only [decodeV, BitVec.reduceToNat, ite_error_eq_ok, bind_eq_ok, defined_eq_ok, checkWf_eq_ok] at hi
  obtain ⟨hm, d, hd, s, hs, r, hr, hw, rfl⟩ := hi
  refine ⟨hw, (?_ : some _ = some _)⟩
  simp (disch := decide) only [CTy.code_of_ofCode hd, CTy.code_of_ofCode hs, Rnd.code_of_ofCode hr, fld_append_zero ma hm,
      Src.code_ofCode, fld_append_fld, fld_all]

theorem readsExactly_unpk : ReadsExactly (decodeV h ma (0x62#8).toNat mb sb sa) (rawV h ma 0x62 mb sb sa) := by
  intro i hi
  simp only [decodeV, BitVec.reduceToNat, ite_error_eq_ok, bind_eq_ok, defined_eq_ok, checkWf_eq_ok] at hi
  obtain ⟨⟨hm, rfl⟩, d, hd, s, hs, hw, rfl⟩ := hi
  refine ⟨hw, (?_ : some _ = some _)⟩
  simp (disch := decide) only [CTy.code_of_ofCode hd, CTy.code_of_ofCode hs, fld_append_zero ma hm, Src.code_ofCode,
      fld_append_fld, fld_all]

theorem readsExactly_frnd : ReadsExactly (decodeV h ma (0x65#8).toNat mb sb sa) (rawV h ma 0x65 mb sb sa) := by
  intro i hi
  simp only [decodeV, BitVec.reduceToNat, ite_error_eq_ok, bind_eq_ok, defined_eq_ok, checkWf_eq_ok] at hi
  obtain ⟨⟨hb, hm, rfl⟩, ty, ht, r, hr, hw, rfl⟩ := hi
  refine ⟨hw, (?_ : some _ = some _)⟩
  simp (disch := decide) only [FTy.code_of_ofCode ht, Rnd.code_of_ofCode hr, zero_append_fld ma hm, zero_append_fld mb hb,
      Src.code_ofCode, fld_all]

theorem readsExactly_shfl : ReadsExactly (decodeV h ma (0xB0#8).toNat mb sb sa) (rawV h ma 0xB0 mb sb sa) := by
  intro i hi
  simp only [decodeV, BitVec.reduceToNat, ite_error_eq_ok, bind_eq_ok, defined_eq_ok, checkWf_eq_ok] at hi
  obtain ⟨rfl, m, hm, hw, rfl⟩ := hi
  refine ⟨hw, (?_ : some _ = some _)⟩
  simp (disch := decide) only [ShflMode.code_of_ofCode hm, Src.code_ofCode, ofBool_getLsbD, fld_append_fld, fld_all]

theorem readsExactly_vote : ReadsExactly (decodeV h ma (0xB1#8).toNat mb sb sa) (rawV h ma 0xB1 mb sb sa) := by
  intro i hi
  simp only [decodeV, BitVec.reduceToNat, ite_error_eq_ok, bind_eq_ok, defined_eq_ok, checkWf_eq_ok] at hi
  obtain ⟨⟨rfl, rfl, hm, ha⟩, m, hv, hw, rfl⟩ := hi
  refine ⟨hw, (?_ : some _ = some _)⟩
  simp (disch := decide) only [VoteMode.code_of_ofCode hv, zero_append_fld ma hm, zero_append_fld sa ha, Pred.code_ofCode,
      fld_all]

theorem readsExactly_red : ReadsExactly (decodeV h ma (0xB2#8).toNat mb sb sa) (rawV h ma 0xB2 mb sb sa) := by
  intro i hi
  simp only [decodeV, BitVec.reduceToNat, ite_error_eq_ok, bind_eq_ok, defined_eq_ok, checkWf_eq_ok] at hi
  obtain ⟨⟨hb, rfl⟩, op, ho, ty, ht, r, hr, hw, rfl⟩ := hi
  refine ⟨hw, (?_ : some _ = some _)⟩
  simp (disch := decide) only [RedOp.code_of_ofCode ho, RedTy.code_of_ofCode ht, Rnd.code_of_ofCode hr, zero_append_fld mb hb,
      Src.code_ofCode, fld_append_fld, fld_all]

theorem readsExactly_scan : ReadsExactly (decodeV h ma (0xB3#8).toNat mb sb sa) (rawV h ma 0xB3 mb sb sa) := by
  intro i hi
  simp only [decodeV, BitVec.reduceToNat, ite_error_eq_ok, bind_eq_ok, defined_eq_ok, checkWf_eq_ok] at hi
  obtain ⟨⟨hb, rfl⟩, op, ho, ty, ht, r, hr, hw, rfl⟩ := hi
  refine ⟨hw, (?_ : some _ = some _)⟩
  simp (disch := decide) only [RedOp.code_of_ofCode ho, RedTy.code_of_ofCode ht, Rnd.code_of_ofCode hr, zero_append_fld mb hb,
      Src.code_ofCode, ofBool_getLsbD, fld_append_fld, fld_all]

theorem readsExactly_matchLanes : ReadsExactly (decodeV h ma (0xB5#8).toNat mb sb sa) (rawV h ma 0xB5 mb sb sa) := by
  intro i hi
  simp only [decodeV, BitVec.reduceToNat, ite_error_eq_ok, checkWf_eq_ok] at hi
  obtain ⟨⟨hm, rfl, rfl⟩, hw, rfl⟩ := hi
  refine ⟨hw, (?_ : some _ = some _)⟩
  simp (disch := decide) only [zero_append_fld ma hm, Src.code_ofCode, ofBool_getLsbD, fld_all]

theorem readsExactly_ringWait : ReadsExactly (decodeV h ma (0xE1#8).toNat mb sb sa) (rawV h ma 0xE1 mb sb sa) := by
  intro i hi
  simp only [decodeV, BitVec.reduceToNat, ite_error_eq_ok, checkWf_eq_ok] at hi
  obtain ⟨⟨hm, rfl, rfl⟩, hw, rfl⟩ := hi
  refine ⟨hw, (?_ : some _ = some _)⟩
  simp (disch := decide) only [zero_append_fld ma hm, Src.code_ofCode, ofBool_getLsbD, fld_append_fld, fld_all]

theorem readsExactly_ringArrive : ReadsExactly (decodeV h ma (0xE2#8).toNat mb sb sa) (rawV h ma 0xE2 mb sb sa) := by
  intro i hi
  simp only [decodeV, BitVec.reduceToNat, ite_error_eq_ok, checkWf_eq_ok] at hi
  obtain ⟨⟨hm, rfl, rfl⟩, hw, rfl⟩ := hi
  refine ⟨hw, (?_ : some _ = some _)⟩
  simp (disch := decide) only [zero_append_fld ma hm, Src.code_ofCode, ofBool_getLsbD, fld_append_fld, fld_all]

theorem readsExactly_attach : ReadsExactly (decodeV h ma (0xE4#8).toNat mb sb sa) (rawV h ma 0xE4 mb sb sa) := by
  intro i hi
  simp only [decodeV, BitVec.reduceToNat, ite_error_eq_ok, bind_eq_ok, defined_eq_ok, checkWf_eq_ok] at hi
  obtain ⟨⟨hm, rfl, rfl, rfl⟩, r, hr, hw, rfl⟩ := hi
  refine ⟨hw, (?_ : some _ = some _)⟩
  simp (disch := decide) only [Role.code_of_ofCode hr, zero_append_fld ma hm, fld_all]

theorem readsExactly_shrinkq : ReadsExactly (decodeV h ma (0xE6#8).toNat mb sb sa) (rawV h ma 0xE6 mb sb sa) := by
  intro i hi
  simp only [decodeV, BitVec.reduceToNat, ite_error_eq_ok, checkWf_eq_ok] at hi
  obtain ⟨⟨rfl, rfl, rfl, rfl⟩, hw, rfl⟩ := hi
  exact ⟨hw, rfl⟩

theorem readsExactly_sclPush : ReadsExactly (decodeV h ma (0xF2#8).toNat mb sb sa) (rawV h ma 0xF2 mb sb sa) := by
  intro i hi
  simp only [decodeV, BitVec.reduceToNat, ite_error_eq_ok, checkWf_eq_ok] at hi
  obtain ⟨⟨rfl, rfl⟩, hw, rfl⟩ := hi
  refine ⟨hw, (?_ : some _ = some _)⟩
  simp (disch := decide) only [Src.code_ofCode]

theorem readsExactly_ctSet : ReadsExactly (decodeV h ma (0xF3#8).toNat mb sb sa) (rawV h ma 0xF3 mb sb sa) := by
  intro i hi
  simp only [decodeV, BitVec.reduceToNat, ite_error_eq_ok, checkWf_eq_ok] at hi
  obtain ⟨⟨hm, rfl, rfl⟩, hw, rfl⟩ := hi
  refine ⟨hw, (?_ : some _ = some _)⟩
  simp (disch := decide) only [zero_append_fld ma hm, Src.code_ofCode, fld_all]

theorem readsExactly_gangSet : ReadsExactly (decodeV h ma (0xF4#8).toNat mb sb sa) (rawV h ma 0xF4 mb sb sa) := by
  intro i hi
  simp only [decodeV, BitVec.reduceToNat, ite_error_eq_ok, checkWf_eq_ok] at hi
  obtain ⟨⟨rfl, rfl, rfl⟩, hw, rfl⟩ := hi
  refine ⟨hw, (?_ : some _ = some _)⟩
  simp (disch := decide) only [Src.code_ofCode]

theorem readsExactly_boost : ReadsExactly (decodeV h ma (0xFD#8).toNat mb sb sa) (rawV h ma 0xFD mb sb sa) := by
  intro i hi
  simp only [decodeV, BitVec.reduceToNat, ite_error_eq_ok, checkWf_eq_ok] at hi
  obtain ⟨⟨rfl, rfl⟩, hw, rfl⟩ := hi
  refine ⟨hw, (?_ : some _ = some _)⟩
  simp (disch := decide) only [Src.code_ofCode]

theorem readsExactly_wearRd : ReadsExactly (decodeV h ma (0xFE#8).toNat mb sb sa) (rawV h ma 0xFE mb sb sa) := by
  intro i hi
  simp only [decodeV, BitVec.reduceToNat, ite_error_eq_ok, checkWf_eq_ok] at hi
  obtain ⟨⟨rfl, rfl, rfl⟩, hw, rfl⟩ := hi
  refine ⟨hw, (?_ : some _ = some _)⟩
  simp (disch := decide) only [Src.code_ofCode]

theorem readsExactly_sealPut : ReadsExactly (decodeV h ma (0xFF#8).toNat mb sb sa) (rawV h ma 0xFF mb sb sa) := by
  intro i hi
  simp only [decodeV, BitVec.reduceToNat, ite_error_eq_ok, checkWf_eq_ok] at hi
  obtain ⟨⟨rfl, rfl⟩, hw, rfl⟩ := hi
  refine ⟨hw, (?_ : some _ = some _)⟩
  simp (disch := decide) only [Src.code_ofCode]

theorem readsExactly_cachePin_cacheUnpin : ReadsExactly (decodeV h ma (0xC9#8).toNat mb sb sa) (rawV h ma 0xC9 mb sb sa) := by
  intro i hi
  simp only [decodeV, BitVec.reduceToNat, ite_error_eq_ok] at hi
  obtain ⟨⟨hm, rfl, rfl⟩, hi⟩ := hi
  split at hi
  case isTrue hb =>
    obtain ⟨hw, rfl⟩ := checkWf_eq_ok.mp hi
    refine ⟨hw, (?_ : some _ = some _)⟩
    rw [Src.code_ofCode, eq_one_of_fld hm hb]
  case isFalse hb =>
    obtain ⟨hw, rfl⟩ := checkWf_eq_ok.mp hi
    refine ⟨hw, (?_ : some _ = some _)⟩
    rw [Src.code_ofCode, eq_zero_of_fld hm hb]

theorem readsExactly_sleepNs_waitNs : ReadsExactly (decodeV h ma (0xFB#8).toNat mb sb sa) (rawV h ma 0xFB mb sb sa) := by
  intro i hi
  simp only [decodeV, BitVec.reduceToNat, ite_error_eq_ok] at hi
  obtain ⟨⟨hm, rfl, rfl⟩, hi⟩ := hi
  split at hi
  case isTrue hb =>
    obtain ⟨hw, rfl⟩ := checkWf_eq_ok.mp hi
    refine ⟨hw, (?_ : some _ = some _)⟩
    rw [Src.code_ofCode, eq_one_of_fld hm hb]
  case isFalse hb =>
    obtain ⟨hw, rfl⟩ := checkWf_eq_ok.mp hi
    refine ⟨hw, (?_ : some _ = some _)⟩
    rw [Src.code_ofCode, eq_zero_of_fld hm hb]

theorem readsExactly_gmov : ReadsExactly (decodeV h ma (0x54#8).toNat mb sb sa) (rawV h ma 0x54 mb sb sa) := by
  intro i hi
  simp only [decodeV, BitVec.reduceToNat, ite_error_eq_ok] at hi
  obtain ⟨⟨hm, rfl, rfl⟩, hi⟩ := hi
  split at hi
  case isTrue hc =>
    obtain ⟨ha, hi⟩ := ite_error_eq_ok.mp hi
    obtain ⟨hw, rfl⟩ := checkWf_eq_ok.mp hi
    refine ⟨hw, (?_ : some _ = some _)⟩
    rw [eq_of_fld_two hm hc, Pred.code_ofCode, zero_append_fld sa ha rfl]
    exact congrArg (fun x => some (rawV h 0 0x54 0 0 x)) (fld_all sa)
  case isFalse =>
    obtain ⟨hc, hi⟩ := ite_error_eq_ok.mp hi
    obtain ⟨hw, rfl⟩ := checkWf_eq_ok.mp hi
    refine ⟨hw, (?_ : some _ = some _)⟩
    rw [eq_of_fld_two hm hc, Src.code_ofCode]; rfl

theorem readsExactly_lut : ReadsExactly (decodeV h ma (0x64#8).toNat mb sb sa) (rawV h ma 0x64 mb sb sa) := by
  intro i hi
  simp only [decodeV, BitVec.reduceToNat, ite_error_eq_ok] at hi
  obtain ⟨⟨hb, rfl, hm⟩, hi⟩ := hi
  have he : 0#2 ++ fld ma 2 2 ++ fld ma 0 2 = ma := by
    simp (disch := decide) only [zero_append_fld ma hm, fld_append_fld, fld_all]
  split at hi
  case isTrue hc =>
    obtain ⟨hw, rfl⟩ := checkWf_eq_ok.mp hi
    refine ⟨hw, (?_ : some _ = some _)⟩
    rw [Src.code_ofCode, he, fld_eq_of_two (b := false) hb hc]
  case isFalse =>
    obtain ⟨hc, hi⟩ := ite_error_eq_ok.mp hi
    obtain ⟨hw, rfl⟩ := checkWf_eq_ok.mp hi
    refine ⟨hw, (?_ : some _ = some _)⟩
    rw [Src.code_ofCode, he, fld_eq_of_two (b := true) hb hc]

theorem readsExactly_tlwait : ReadsExactly (decodeV h ma (0xE3#8).toNat mb sb sa) (rawV h ma 0xE3 mb sb sa) := by
  intro i hi
  simp only [decodeV, BitVec.reduceToNat, ite_error_eq_ok] at hi
  obtain ⟨⟨rfl, rfl⟩, hi⟩ := hi
  split at hi
  case h_1 s hs =>
    obtain ⟨hw, rfl⟩ := checkWf_eq_ok.mp hi
    refine ⟨hw, (?_ : some _ = some _)⟩
    simp (disch := decide) only [Scope.code_of_ofCode hs, Src.code_ofCode, fld_append_fld, fld_all]
  case h_2 => cases hi
theorem readsExactly_lea : ReadsExactly (decodeT h ma (0x3D#8).toNat mb sb sa mc sc) (.t (flagCode h.flag) h.reuse ma h.dst
    0x3D mb sb sa mc sc) := by
  intro i hi
  simp only [decodeT, BitVec.reduceToNat, ite_error_eq_ok, checkWf_eq_ok] at hi
  obtain ⟨⟨rfl, hc, hm⟩, hw, rfl⟩ := hi
  refine ⟨hw, (?_ : some _ = some _)⟩
  simp (disch := decide) only [rawTInt, rawT, ityCode_ityOf hm, zero_append_fld mc hc, Src.code_ofCode, fld_all]

theorem readsExactly_lop3 : ReadsExactly (decodeT h ma (0x4B#8).toNat mb sb sa mc sc) (.t (flagCode h.flag) h.reuse ma h.dst
    0x4B mb sb sa mc sc) := by
  intro i hi
  simp only [decodeT, BitVec.reduceToNat, ite_error_eq_ok, checkWf_eq_ok] at hi
  obtain ⟨⟨rfl, hc, hm⟩, hw, rfl⟩ := hi
  refine ⟨hw, (?_ : some _ = some _)⟩
  simp (disch := decide) only [rawTInt, rawT, ityCode_ityOf hm, zero_append_fld mc hc, Src.code_ofCode, fld_all]

theorem readsExactly_rq : ReadsExactly (decodeT h ma (0x63#8).toNat mb sb sa mc sc) (.t (flagCode h.flag) h.reuse ma h.dst 0x63
    mb sb sa mc sc) := by
  intro i hi
  simp only [decodeT, BitVec.reduceToNat, ite_error_eq_ok, bind_eq_ok, defined_eq_ok, checkWf_eq_ok] at hi
  obtain ⟨⟨hm, rfl⟩, ty, ht, r, hr, hw, rfl⟩ := hi
  refine ⟨hw, (?_ : some _ = some _)⟩
  simp (disch := decide) only [rawT, RqTy.code_of_ofCode ht, Rnd.code_of_ofCode hr, zero_append_fld ma hm, Src.code_ofCode,
      fld_append_fld, fld_all]
section
variable {rsv : BitVec 1} {dst : BitVec 10} {mo : BitVec 12} {im : BitVec 20}

theorem readsExactly_iform {mk : IForm → Instr} (hk : ∀ f, (mk f).toRaw = some (rawI mj f)) :
    ReadsExactly (iform mk sa dst mo im) (.i 0 sa dst mj mo im) := by
  intro i hi
  simp only [iform, ite_error_eq_ok, checkWf_eq_ok] at hi
  obtain ⟨hm, hw, rfl⟩ := hi
  exact ⟨hw, by simp only [hk, rawI, ityCode_mod hm, Src.code_ofCode]⟩

theorem readsExactly_gtag : ReadsExactly (decodeI rsv sa dst (0x4A#8).toNat mo im) (.i rsv sa dst 0x4A mo im) := by
  intro i hi
  simp only [decodeI, BitVec.reduceToNat, ite_error_eq_ok, checkWf_eq_ok] at hi
  obtain ⟨rfl, rfl, hw, rfl⟩ := hi
  refine ⟨hw, (?_ : some _ = some _)⟩
  simp (disch := decide) only [Src.code_ofCode]

theorem readsExactly_icmpi : ReadsExactly (decodeI rsv sa dst (0x55#8).toNat mo im) (.i rsv sa dst 0x55 mo im) := by
  intro i hi
  simp only [decodeI, BitVec.reduceToNat, ite_error_eq_ok, bind_eq_ok, defined_eq_ok, checkWf_eq_ok] at hi
  obtain ⟨rfl, hm, c, hc, hw, rfl⟩ := hi
  refine ⟨hw, (?_ : some _ = some _)⟩
  simp (disch := decide) only [Cond.code_of_ofCode hc, zero_append_fld mo hm, Src.code_ofCode, ofBool_getLsbD, fld_append_fld,
      fld_all]

theorem readsExactly_twset : ReadsExactly (decodeI rsv sa dst (0xB4#8).toNat mo im) (.i rsv sa dst 0xB4 mo im) := by
  intro i hi
  simp only [decodeI, BitVec.reduceToNat, ite_error_eq_ok] at hi
  obtain ⟨rfl, ⟨rfl, rfl, rfl⟩, hi⟩ := hi
  cases hi
  exact ⟨rfl, rfl⟩

end
section
variable {rsv : BitVec 1} {rs re sp : BitVec 2} {mo g fl ty : BitVec 4} {dst : BitVec 10} {sd ad : BitVec 11} {sc : BitVec 3}
    {off : BitVec 5}

theorem readsExactly_sel : ReadsExactly (decodeS rs re mo dst g (0x53#8).toNat mb sb sa) (.s rs re mo dst g 0x53 mb sb sa) := by
  intro i hi
  simp only [decodeS, BitVec.reduceToNat, ite_error_eq_ok, checkWf_eq_ok] at hi
  obtain ⟨⟨rfl, hb⟩, hw, rfl⟩ := hi
  refine ⟨hw, (?_ : some _ = some _)⟩
  simp (disch := decide) only [Src.code_ofCode, Pred.code_ofCode, ofBool_getLsbD, zero_append_fld mb hb, fld_all]

theorem readsExactly_ld : ReadsExactly (decodeM sd sc fl g (0xC0#8).toNat off sp ty dst ad) (.m sd sc fl g 0xC0 off sp ty dst
    ad) := by
  intro i hi
  simp only [decodeM, BitVec.reduceToNat, bind_eq_ok, defined_eq_ok, scopeOf_eq_ok, checkWf_eq_ok] at hi
  obtain ⟨flag, hf, scope, hs, space, hp, t, ht, hw, rfl⟩ := hi
  refine ⟨hw, (?_ : some _ = some _)⟩
  simp (disch := decide) only [rawM, flagCode_of_flagOf hf, Scope.code_of_ofCode hs, Space.code_of_ofCode hp,
      MemTy.code_of_ofCode ht, Src.code_ofCode, Pred.code_ofCode]

theorem readsExactly_st : ReadsExactly (decodeM sd sc fl g (0xC1#8).toNat off sp ty dst ad) (.m sd sc fl g 0xC1 off sp ty dst
    ad) := by
  intro i hi
  simp only [decodeM, BitVec.reduceToNat, bind_eq_ok, defined_eq_ok, scopeOf_eq_ok, checkWf_eq_ok] at hi
  obtain ⟨flag, hf, scope, hs, space, hp, t, ht, hw, rfl⟩ := hi
  refine ⟨hw, (?_ : some _ = some _)⟩
  simp (disch := decide) only [rawM, flagCode_of_flagOf hf, Scope.code_of_ofCode hs, Space.code_of_ofCode hp,
      MemTy.code_of_ofCode ht, Src.code_ofCode, Pred.code_ofCode]

end

section
variable {rsv : BitVec 1} {g fl : BitVec 4} {dst mo : BitVec 10} {sd ad se : BitVec 11} {sc gd : BitVec 3} {off : BitVec 18}

theorem readsExactly_faa : ReadsExactly (decodeA rsv dst sc fl g (0xC4#8).toNat mo sd ad off gd se) (.a rsv dst sc fl g 0xC4 mo
    sd ad off gd se) := by
  intro i hi
  simp only [decodeA, BitVec.reduceToNat, ite_error_eq_ok, bind_eq_ok, defined_eq_ok, scopeOf_eq_ok, checkWf_eq_ok] at hi
  obtain ⟨rfl, flag, hf, scope, hs, hm, t, ht, hw, rfl⟩ := hi
  refine ⟨hw, (?_ : some _ = some _)⟩
  simp (disch := decide) only [rawA, flagCode_of_flagOf hf, Scope.code_of_ofCode hs, Src.code_ofCode, Pred.code_ofCode,
      fld_all, zero_append_fld mo hm, AtTy.code_of_ofCode ht]

theorem readsExactly_atom : ReadsExactly (decodeA rsv dst sc fl g (0xC5#8).toNat mo sd ad off gd se) (.a rsv dst sc fl g 0xC5
    mo sd ad off gd se) := by
  intro i hi
  simp only [decodeA, BitVec.reduceToNat, ite_error_eq_ok, bind_eq_ok, defined_eq_ok, scopeOf_eq_ok, checkWf_eq_ok] at hi
  obtain ⟨rfl, flag, hf, scope, hs, hm, op, ho, t, ht, hw, rfl⟩ := hi
  refine ⟨hw, (?_ : some _ = some _)⟩
  simp (disch := decide) only [rawA, flagCode_of_flagOf hf, Scope.code_of_ofCode hs, Src.code_ofCode, Pred.code_ofCode,
      fld_append_fld, fld_all, zero_append_fld mo hm, AtomOp.code_of_ofCode ho, AtomTy.code_of_ofCode ht]

theorem readsExactly_cas : ReadsExactly (decodeA rsv dst sc fl g (0xC6#8).toNat mo sd ad off gd se) (.a rsv dst sc fl g 0xC6 mo
    sd ad off gd se) := by
  intro i hi
  simp only [decodeA, BitVec.reduceToNat, ite_error_eq_ok, bind_eq_ok, defined_eq_ok, scopeOf_eq_ok, checkWf_eq_ok] at hi
  obtain ⟨rfl, flag, hf, scope, hs, hm, t, ht, hw, rfl⟩ := hi
  refine ⟨hw, (?_ : some _ = some _)⟩
  simp (disch := decide) only [rawA, flagCode_of_flagOf hf, Scope.code_of_ofCode hs, Src.code_ofCode, Pred.code_ofCode,
      fld_all, zero_append_fld mo hm, AtTy.code_of_ofCode ht]

end
section
variable {mx : BitVec 8} {fl : BitVec 4} {dst mcx : BitVec 10} {sd : BitVec 11}

theorem readsExactly_cpy : ReadsExactly (decodeX mx fl dst (0xCA#8).toNat mb sb sa mcx sd sc) (.x mx fl dst 0xCA mb sb sa mcx
    sd sc) := by
  intro i hi
  simp only [decodeX, BitVec.reduceToNat, ite_error_eq_ok, bind_eq_ok, checkWf_eq_ok] at hi
  obtain ⟨flag, hf, ⟨hm, rfl, rfl, rfl, rfl, rfl⟩, hw, rfl⟩ := hi
  refine ⟨hw, (?_ : some _ = some _)⟩
  simp (disch := decide) only [flagCode_of_flagOf hf, Src.code_ofCode, fld_all, zero_append_fld mx hm]

theorem readsExactly_tcpy : ReadsExactly (decodeX mx fl dst (0xCD#8).toNat mb sb sa mcx sd sc) (.x mx fl dst 0xCD mb sb sa mcx
    sd sc) := by
  intro i hi
  simp only [decodeX, BitVec.reduceToNat, ite_error_eq_ok, bind_eq_ok, checkWf_eq_ok] at hi
  obtain ⟨flag, hf, ⟨hm, hb, rfl, hr⟩, hw, rfl⟩ := hi
  refine ⟨hw, (?_ : some _ = some _)⟩
  simp (disch := decide) only [flagCode_of_flagOf hf, Src.code_ofCode, ofBool_getLsbD, fld_append_fld, fld_all,
      zero_append_fld mx hm, zero_append_fld mb hb, isSome_ite, getD_ite hr]

theorem readsExactly_launch : ReadsExactly (decodeX mx fl dst (0xE7#8).toNat mb sb sa mcx sd sc) (.x mx fl dst 0xE7 mb sb sa
    mcx sd sc) := by
  intro i hi
  simp only [decodeX, BitVec.reduceToNat, ite_error_eq_ok, bind_eq_ok, checkWf_eq_ok] at hi
  obtain ⟨flag, hf, ⟨rfl, rfl, rfl, rfl, rfl, rfl⟩, hw, rfl⟩ := hi
  refine ⟨hw, (?_ : some _ = some _)⟩
  simp (disch := decide) only [Src.code_ofCode, show fl = 15 from (flagCode_of_flagOf hf).symm]

theorem readsExactly_mma : ReadsExactly (decodeX mx fl dst (0xF0#8).toNat mb sb sa mcx sd sc) (.x mx fl dst 0xF0 mb sb sa mcx
    sd sc) := by
  intro i hi
  simp only [decodeX, BitVec.reduceToNat, ite_error_eq_ok, bind_eq_ok, defined_eq_ok, checkWf_eq_ok] at hi
  obtain ⟨flag, hf, ⟨rfl, hb, rfl, hc, rfl, rfl⟩, fb, hfb, fa, hfa, hw, rfl⟩ := hi
  refine ⟨hw, (?_ : some _ = some _)⟩
  simp (disch := decide) only [flagCode_of_flagOf hf, Src.code_ofCode, ofBool_getLsbD, fld_append_fld, fld_all,
      MxFmt.code_of_ofCode hfb, MxFmt.code_of_ofCode hfa, zero_append_fld mb hb, zero_append_fld mcx hc]

theorem readsExactly_mmaLdb : ReadsExactly (decodeX mx fl dst (0xF1#8).toNat mb sb sa mcx sd sc) (.x mx fl dst 0xF1 mb sb sa
    mcx sd sc) := by
  intro i hi
  simp only [decodeX, BitVec.reduceToNat, ite_error_eq_ok, bind_eq_ok, defined_eq_ok, checkWf_eq_ok] at hi
  obtain ⟨flag, hf, ⟨hm, hb, hc, rfl, hr⟩, f, hff, hw, rfl⟩ := hi
  refine ⟨hw, (?_ : some _ = some _)⟩
  simp (disch := decide) only [flagCode_of_flagOf hf, Src.code_ofCode, ofBool_getLsbD, fld_append_fld, fld_all,
      MxFmt.code_of_ofCode hff, zero_append_fld mx hm, zero_append_fld mb hb, zero_append_fld mcx hc, isSome_ite,
      getD_map_fst_ite (hr.imp_right And.left), getD_map_snd_ite (hr.imp_right And.right)]

theorem readsExactly_acc : ReadsExactly (decodeX mx fl dst (0xF5#8).toNat mb sb sa mcx sd sc) (.x mx fl dst 0xF5 mb sb sa mcx
    sd sc) := by
  intro i hi
  simp only [decodeX, BitVec.reduceToNat, ite_error_eq_ok, bind_eq_ok, defined_eq_ok, checkWf_eq_ok] at hi
  obtain ⟨flag, hf, ⟨hm, rfl, rfl, rfl, rfl⟩, op, ho, hw, rfl⟩ := hi
  refine ⟨hw, (?_ : some _ = some _)⟩
  simp (disch := decide) only [flagCode_of_flagOf hf, Src.code_ofCode, fld_append_fld, fld_all, AccOp.code_of_ofCode ho,
      zero_append_fld mx hm]

theorem readsExactly_epiLd_epiRun : ReadsExactly (decodeX mx fl dst (0xF6#8).toNat mb sb sa mcx sd sc)
    (.x mx fl dst 0xF6 mb sb sa mcx sd sc) := by
  intro i hi
  simp only [decodeX, BitVec.reduceToNat, ite_error_eq_ok, bind_eq_ok] at hi
  obtain ⟨flag, hf, ⟨rfl, rfl, rfl, rfl⟩, hi⟩ := hi
  split at hi
  case isTrue hc =>
    obtain ⟨⟨hm, rfl, rfl⟩, hc'⟩ := ite_error_eq_ok.mp hi
    obtain ⟨hw, rfl⟩ := checkWf_eq_ok.mp hc'
    have hx : fld mx 2 6 ++ fld mx 0 2 = mx := by simp (disch := decide) only [fld_append_fld, fld_all]
    refine ⟨hw, (?_ : some _ = some _)⟩
    rw [flagCode_of_flagOf hf, Src.code_ofCode, ← hx, hm, hc]
    rfl
  case isFalse =>
    obtain ⟨hc, hi⟩ := ite_error_eq_ok.mp hi
    obtain ⟨hw, rfl⟩ := checkWf_eq_ok.mp hi
    have hx : fld mx 4 4 ++ fld mx 2 2 ++ fld mx 0 2 = mx := by simp (disch := decide) only [fld_append_fld, fld_all]
    rw [hc] at hx
    refine ⟨hw, (?_ : some _ = some _)⟩
    simp only [flagCode_of_flagOf hf, Src.code_ofCode]
    exact congrArg (fun x => some (Raw.x x fl 0 0xF6 0 sb sa 0 0 sc)) hx

end

/-! ## Formats Z, B and U, and prefixes -/

section
variable {arg : BitVec 22}

theorem readsExactly_no_argument {i : Instr} (hw : i.wf = true) (hr : i.toRaw = some (.z 0 mj)) :
    ReadsExactly (if arg = 0 then .ok i else .error .reservedBits) (.z arg mj) := by
  intro j hj
  obtain ⟨rfl, hj⟩ := ite_error_eq_ok.mp hj
  cases hj
  exact ⟨hw, hr⟩

theorem readsExactly_flwait : ReadsExactly (decodeZ arg (0x09#8).toNat) (.z arg 0x09) := by
  intro i hi
  obtain ⟨hz, hi⟩ := ite_error_eq_ok.mp hi
  cases hi
  refine ⟨rfl, (?_ : some _ = some _)⟩
  simp (disch := decide) only [zero_append_fld arg hz, fld_all]

theorem readsExactly_fence : ReadsExactly (decodeZ arg (0xC8#8).toNat) (.z arg 0xC8) := by
  intro i hi
  simp only [decodeZ, BitVec.reduceToNat, ite_error_eq_ok, bind_eq_ok, defined_eq_ok, scopeOf_eq_ok, checkWf_eq_ok] at hi
  obtain ⟨hz, o, ho, sc, hs, hw, rfl⟩ := hi
  refine ⟨hw, (?_ : some _ = some _)⟩
  simp (disch := decide) only [MemOrd.code_of_ofCode ho, Scope.code_of_ofCode hs, zero_append_fld arg hz, fld_append_fld,
      fld_all]

theorem readsExactly_cpyWait : ReadsExactly (decodeZ arg (0xCC#8).toNat) (.z arg 0xCC) := by
  intro i hi
  obtain ⟨hz, hi⟩ := ite_error_eq_ok.mp hi
  cases hi
  refine ⟨rfl, (?_ : some _ = some _)⟩
  simp (disch := decide) only [zero_append_fld arg hz, fld_append_fld, fld_all]

theorem readsExactly_bar : ReadsExactly (decodeZ arg (0xE0#8).toNat) (.z arg 0xE0) := by
  intro i hi
  simp only [decodeZ, BitVec.reduceToNat, ite_error_eq_ok, map_eq_ok, defined_eq_ok] at hi
  obtain ⟨hz, m, hm, rfl⟩ := hi
  refine ⟨rfl, (?_ : some _ = some _)⟩
  simp (disch := decide) only [BarMode.code_of_ofCode hm, zero_append_fld arg hz, fld_append_fld, fld_all]

theorem readsExactly_trap : ReadsExactly (decodeZ arg (0xF8#8).toNat) (.z arg 0xF8) := by
  intro i hi
  obtain ⟨hz, hi⟩ := ite_error_eq_ok.mp hi
  cases hi
  refine ⟨rfl, (?_ : some _ = some _)⟩
  simp (disch := decide) only [zero_append_fld arg hz, fld_all]

theorem readsExactly_brk : ReadsExactly (decodeZ arg (0xFA#8).toNat) (.z arg 0xFA) := by
  intro i hi
  obtain ⟨hz, hi⟩ := ite_error_eq_ok.mp hi
  cases hi
  refine ⟨rfl, (?_ : some _ = some _)⟩
  simp (disch := decide) only [zero_append_fld arg hz, fld_all]

theorem readsExactly_ntHint : ReadsExactly (decodeZ arg (0xFC#8).toNat) (.z arg 0xFC) := by
  intro i hi
  change (if _ then _ else _) = _ at hi
  split at hi
  case isTrue h => subst h; cases hi; exact ⟨rfl, rfl⟩
  case isFalse =>
    obtain ⟨rfl, hi⟩ := ite_error_eq_ok.mp hi
    cases hi; exact ⟨rfl, rfl⟩

end

theorem readsExactly_pxScope {pl : BitVec 28} : ReadsExactly (decodeP pl (1#2).toNat) (.p pl 1) := by
  intro i hi
  obtain ⟨hz, hi⟩ := ite_error_eq_ok.mp hi
  split at hi
  case h_1 o s ho hs =>
    cases hi
    refine ⟨rfl, (?_ : some _ = some _)⟩
    simp (disch := decide) only [MemOrd.code_of_ofCode ho, Scope.code_of_ofCode hs, zero_append_fld pl hz, fld_append_fld,
        fld_all]
  case h_2 => cases hi

theorem readsExactly_pxTile {pl : BitVec 28} : ReadsExactly (decodeP pl (2#2).toNat) (.p pl 2) := by
  intro i hi
  obtain ⟨⟨hz, hlo, hhi⟩, hi⟩ := ite_error_eq_ok.mp hi
  cases hi
  refine ⟨by simp [Instr.wf, hlo, hhi], (?_ : some _ = some _)⟩
  simp (disch := decide) only [zero_append_fld pl hz, fld_all]

/-! ## Every format -/

theorem readsExactly_error {e : DecodeError} {r : Raw} : ReadsExactly (.error e) r := fun _ h => nomatch h

theorem eq_ofNat_of_toNat {n m : Nat} {x : BitVec n} (h : x.toNat = m) : x = BitVec.ofNat n m := by
  rw [← h, BitVec.ofNat_toNat, BitVec.setWidth_eq]

theorem readsExactly_decodeZ {arg : BitVec 22} :
    ReadsExactly (decodeZ arg mj.toNat) (.z arg mj) := by
  unfold decodeZ
  split
  case h_1 e | h_2 e | h_3 e | h_4 e | h_7 e | h_10 e | h_12 e =>
    obtain rfl := eq_ofNat_of_toNat e
    exact readsExactly_no_argument rfl rfl
  case h_5 e =>
    obtain rfl := eq_ofNat_of_toNat e
    exact readsExactly_flwait
  case h_6 e =>
    obtain rfl := eq_ofNat_of_toNat e
    exact readsExactly_fence
  case h_8 e =>
    obtain rfl := eq_ofNat_of_toNat e
    exact readsExactly_cpyWait
  case h_9 e =>
    obtain rfl := eq_ofNat_of_toNat e
    exact readsExactly_bar
  case h_11 e =>
    obtain rfl := eq_ofNat_of_toNat e
    exact readsExactly_trap
  case h_13 e =>
    obtain rfl := eq_ofNat_of_toNat e
    exact readsExactly_brk
  case h_14 e =>
    obtain rfl := eq_ofNat_of_toNat e
    exact readsExactly_ntHint
  case h_15 => exact readsExactly_error

theorem readsExactly_decodeV :
    ReadsExactly (decodeV h ma mj.toNat mb sb sa) (rawV h ma mj mb sb sa) := by
  unfold decodeV
  split
  case h_1 e | h_2 e | h_3 e | h_4 e | h_5 e | h_6 e | h_7 e | h_8 e | h_9 e | h_10 e | h_11 e | h_12 e | h_13 e | h_14 e |
      h_15 e | h_16 e =>
    obtain rfl := eq_ofNat_of_toNat e
    exact readsExactly_vbin fun _ => rfl
  case h_17 e | h_18 e | h_19 e | h_20 e | h_21 e | h_22 e | h_23 e =>
    obtain rfl := eq_ofNat_of_toNat e
    exact readsExactly_vun fun _ => rfl
  case h_24 e | h_25 e | h_26 e | h_27 e | h_28 e | h_29 e | h_30 e | h_31 e | h_32 e | h_33 e =>
    obtain rfl := eq_ofNat_of_toNat e
    exact readsExactly_fbin fun _ => rfl
  case h_34 e | h_35 e | h_36 e | h_37 e | h_38 e | h_39 e | h_40 e | h_41 e | h_42 e | h_43 e =>
    obtain rfl := eq_ofNat_of_toNat e
    exact readsExactly_fun1 fun _ => rfl
  case h_44 e =>
    obtain rfl := eq_ofNat_of_toNat e
    exact readsExactly_icmp
  case h_45 e =>
    obtain rfl := eq_ofNat_of_toNat e
    exact readsExactly_fcmp
  case h_46 e =>
    obtain rfl := eq_ofNat_of_toNat e
    exact readsExactly_gop
  case h_47 e =>
    obtain rfl := eq_ofNat_of_toNat e
    exact readsExactly_gmov
  case h_48 e =>
    obtain rfl := eq_ofNat_of_toNat e
    exact readsExactly_fclass
  case h_49 e =>
    obtain rfl := eq_ofNat_of_toNat e
    exact readsExactly_cvt
  case h_50 e =>
    obtain rfl := eq_ofNat_of_toNat e
    exact readsExactly_cvtpk
  case h_51 e =>
    obtain rfl := eq_ofNat_of_toNat e
    exact readsExactly_unpk
  case h_52 e =>
    obtain rfl := eq_ofNat_of_toNat e
    exact readsExactly_lut
  case h_53 e =>
    obtain rfl := eq_ofNat_of_toNat e
    exact readsExactly_frnd
  case h_54 e =>
    obtain rfl := eq_ofNat_of_toNat e
    exact readsExactly_shfl
  case h_55 e =>
    obtain rfl := eq_ofNat_of_toNat e
    exact readsExactly_vote
  case h_56 e =>
    obtain rfl := eq_ofNat_of_toNat e
    exact readsExactly_red
  case h_57 e =>
    obtain rfl := eq_ofNat_of_toNat e
    exact readsExactly_scan
  case h_58 e =>
    obtain rfl := eq_ofNat_of_toNat e
    exact readsExactly_matchLanes
  case h_59 e =>
    obtain rfl := eq_ofNat_of_toNat e
    exact readsExactly_cachePin_cacheUnpin
  case h_60 e =>
    obtain rfl := eq_ofNat_of_toNat e
    exact readsExactly_ringWait
  case h_61 e =>
    obtain rfl := eq_ofNat_of_toNat e
    exact readsExactly_ringArrive
  case h_62 e =>
    obtain rfl := eq_ofNat_of_toNat e
    exact readsExactly_tlwait
  case h_63 e =>
    obtain rfl := eq_ofNat_of_toNat e
    exact readsExactly_attach
  case h_64 e =>
    obtain rfl := eq_ofNat_of_toNat e
    exact readsExactly_shrinkq
  case h_65 e =>
    obtain rfl := eq_ofNat_of_toNat e
    exact readsExactly_sclPush
  case h_66 e =>
    obtain rfl := eq_ofNat_of_toNat e
    exact readsExactly_ctSet
  case h_67 e =>
    obtain rfl := eq_ofNat_of_toNat e
    exact readsExactly_gangSet
  case h_68 e =>
    obtain rfl := eq_ofNat_of_toNat e
    exact readsExactly_sleepNs_waitNs
  case h_69 e =>
    obtain rfl := eq_ofNat_of_toNat e
    exact readsExactly_boost
  case h_70 e =>
    obtain rfl := eq_ofNat_of_toNat e
    exact readsExactly_wearRd
  case h_71 e =>
    obtain rfl := eq_ofNat_of_toNat e
    exact readsExactly_sealPut
  case h_72 => exact readsExactly_error

theorem readsExactly_decodeT :
    ReadsExactly (decodeT h ma mj.toNat mb sb sa mc sc) (.t (flagCode h.flag) h.reuse ma h.dst mj mb sb sa mc sc) := by
  unfold decodeT
  split
  case h_1 e | h_2 e | h_3 e | h_4 e | h_5 e | h_6 e =>
    obtain rfl := eq_ofNat_of_toNat e
    exact readsExactly_tint fun _ => rfl
  case h_7 e | h_8 e | h_9 e =>
    obtain rfl := eq_ofNat_of_toNat e
    exact readsExactly_ftri fun _ => rfl
  case h_10 e =>
    obtain rfl := eq_ofNat_of_toNat e
    exact readsExactly_lea
  case h_11 e =>
    obtain rfl := eq_ofNat_of_toNat e
    exact readsExactly_lop3
  case h_12 e =>
    obtain rfl := eq_ofNat_of_toNat e
    exact readsExactly_rq
  case h_13 => exact readsExactly_error

theorem readsExactly_decodeB {off : BitVec 18} {g : BitVec 4} : ReadsExactly (decodeB off g mj.toNat) (.b off g mj) := by
  intro i hi
  unfold decodeB at hi
  split at hi
  case h_1 e | h_2 e =>
    obtain rfl := eq_ofNat_of_toNat e
    cases hi
    exact ⟨rfl, congrArg (fun c => some (Raw.b off c _)) (Pred.code_ofCode g)⟩
  case h_3 => cases hi

theorem Src.wf_ofCode (c : BitVec 11) : (Src.ofCode c).wf = true := by
  unfold Src.ofCode
  split
  · rfl
  · split
    · rename_i h0 h1
      rcases Lit.ofCode_isSome (n := c.toNat - 0x400) (by omega) with ⟨k, hk⟩
      rw [hk]; rfl
    · split
      · rename_i h0 h1 h2
        rcases Special.ofCode_isSome (n := c.toNat - 0x410) (by omega) with ⟨k, hk⟩
        rw [hk]; rfl
      · rename_i h; simpa [Src.wf] using h

theorem readsExactly_decodeU {rsv : BitVec 1} {dst : BitVec 10} :
    ReadsExactly (decodeU rsv sa dst mj.toNat) (.u rsv sa dst mj) := by
  intro i hi
  unfold decodeU at hi
  obtain ⟨⟨rfl, rfl⟩, hm⟩ := ite_error_eq_ok.mp hi
  split at hm
  case h_1 e | h_2 e =>
    obtain rfl := eq_ofNat_of_toNat e
    cases hm
    exact ⟨Src.wf_ofCode sa, congrArg (fun c => some (Raw.u 0 c 0 _)) (Src.code_ofCode sa)⟩
  case h_3 => cases hm

theorem readsExactly_decodeI {rsv : BitVec 1} {dst : BitVec 10} {mo : BitVec 12} {im : BitVec 20} :
    ReadsExactly (decodeI rsv sa dst mj.toNat mo im) (.i rsv sa dst mj mo im) := by
  intro i hi
  have hd := hi
  unfold decodeI at hd
  obtain ⟨rfl, hm⟩ := ite_error_eq_ok.mp hd
  split at hm
  case h_1 e | h_2 e | h_3 e | h_4 e | h_5 e | h_6 e | h_7 e | h_8 e | h_9 e =>
    obtain rfl := eq_ofNat_of_toNat e
    exact readsExactly_iform (fun _ => rfl) i hm
  case h_10 e => obtain rfl := eq_ofNat_of_toNat e; exact readsExactly_gtag i hi
  case h_11 e => obtain rfl := eq_ofNat_of_toNat e; exact readsExactly_icmpi i hi
  case h_12 e => obtain rfl := eq_ofNat_of_toNat e; exact readsExactly_twset i hi
  case h_13 => cases hm

theorem readsExactly_decodeS {rs re : BitVec 2} {mo g : BitVec 4} {dst : BitVec 10} :
    ReadsExactly (decodeS rs re mo dst g mj.toNat mb sb sa) (.s rs re mo dst g mj mb sb sa) := by
  intro i hi
  have hm := hi
  unfold decodeS at hm
  obtain ⟨-, hm⟩ := ite_error_eq_ok.mp hm
  split at hm
  case h_1 e => obtain rfl := eq_ofNat_of_toNat e; exact readsExactly_sel i hi
  case h_2 => cases hm

theorem readsExactly_decodeM {sd ad : BitVec 11} {sc : BitVec 3} {fl g ty : BitVec 4} {off : BitVec 5} {sp : BitVec 2}
    {dst : BitVec 10} : ReadsExactly (decodeM sd sc fl g mj.toNat off sp ty dst ad) (.m sd sc fl g mj off sp ty dst ad) := by
  intro i hi
  have hm := hi
  simp only [decodeM, bind_eq_ok] at hm
  obtain ⟨_, -, _, -, _, -, _, -, hm⟩ := hm
  split at hm
  case h_1 e => obtain rfl := eq_ofNat_of_toNat e; exact readsExactly_ld i hi
  case h_2 e => obtain rfl := eq_ofNat_of_toNat e; exact readsExactly_st i hi
  case h_3 => cases hm

theorem readsExactly_decodeA {rsv : BitVec 1} {dst mo : BitVec 10} {sc gd : BitVec 3} {fl g : BitVec 4} {sd ad se : BitVec 11}
    {off : BitVec 18} :
    ReadsExactly (decodeA rsv dst sc fl g mj.toNat mo sd ad off gd se) (.a rsv dst sc fl g mj mo sd ad off gd se) := by
  intro i hi
  have hm := hi
  simp only [decodeA, ite_error_eq_ok, bind_eq_ok] at hm
  obtain ⟨-, _, -, _, -, hm⟩ := hm
  split at hm
  case h_1 e => obtain rfl := eq_ofNat_of_toNat e; exact readsExactly_faa i hi
  case h_2 e => obtain rfl := eq_ofNat_of_toNat e; exact readsExactly_atom i hi
  case h_3 e => obtain rfl := eq_ofNat_of_toNat e; exact readsExactly_cas i hi
  case h_4 => cases hm

theorem readsExactly_decodeX {mx : BitVec 8} {fl : BitVec 4} {dst mcx : BitVec 10} {sd : BitVec 11} :
    ReadsExactly (decodeX mx fl dst mj.toNat mb sb sa mcx sd sc) (.x mx fl dst mj mb sb sa mcx sd sc) := by
  intro i hi
  have hm := hi
  unfold decodeX at hm
  obtain ⟨_, -, hm⟩ := bind_eq_ok.mp hm
  split at hm
  case h_1 e => obtain rfl := eq_ofNat_of_toNat e; exact readsExactly_cpy i hi
  case h_2 e => obtain rfl := eq_ofNat_of_toNat e; exact readsExactly_tcpy i hi
  case h_3 e => obtain rfl := eq_ofNat_of_toNat e; exact readsExactly_launch i hi
  case h_4 e => obtain rfl := eq_ofNat_of_toNat e; exact readsExactly_mma i hi
  case h_5 e => obtain rfl := eq_ofNat_of_toNat e; exact readsExactly_mmaLdb i hi
  case h_6 e => obtain rfl := eq_ofNat_of_toNat e; exact readsExactly_acc i hi
  case h_7 e => obtain rfl := eq_ofNat_of_toNat e; exact readsExactly_epiLd_epiRun i hi
  case h_8 => cases hm

theorem readsExactly_decodeP {pl : BitVec 28} {k : BitVec 2} : ReadsExactly (decodeP pl k.toNat) (.p pl k) := by
  intro i hi
  have hm := hi
  unfold decodeP at hm
  split at hm
  case h_1 e => obtain rfl := eq_ofNat_of_toNat e; cases hm; exact ⟨rfl, rfl⟩
  case h_2 e => obtain rfl := eq_ofNat_of_toNat e; exact readsExactly_pxScope i hi
  case h_3 e => obtain rfl := eq_ofNat_of_toNat e; exact readsExactly_pxTile i hi
  case h_4 => cases hm

/-- What raw fields are read as is well formed, and the encoder writes these fields for it. -/
theorem readsExactly_toInstr (r : Raw) : ReadsExactly r.toInstr r := by
  cases r with
  | z => exact readsExactly_decodeZ
  | b => exact readsExactly_decodeB
  | u => exact readsExactly_decodeU
  | v fl re ma d mj mb sb sa =>
    intro i hi
    obtain ⟨h, hh, hd⟩ := bind_eq_ok.mp hi
    obtain ⟨rfl, rfl, rfl⟩ := headOf_eq_ok hh
    exact readsExactly_decodeV i hd
  | i => exact readsExactly_decodeI
  | s => exact readsExactly_decodeS
  | m => exact readsExactly_decodeM
  | t fl re ma d mj mb sb sa mc sc =>
    intro i hi
    obtain ⟨h, hh, hd⟩ := bind_eq_ok.mp hi
    obtain ⟨rfl, rfl, rfl⟩ := headOf_eq_ok hh
    exact readsExactly_decodeT i hd
  | a => exact readsExactly_decodeA
  | x => exact readsExactly_decodeX
  | p => exact readsExactly_decodeP

/-! ## Parcels -/

/-- The fields of parcels are packed into those parcels, whose class is that of their format. -/
theorem pack_unpack {f : Format} {p0 p1 p2 : Word} (hc : (fld p0 0 2).toNat = f.cls) :
    (Raw.unpack f p0 p1 p2).pack = [p0, p1, p2].take (clsParcels f.cls) := by
  have hk : ∀ k : BitVec 2, k.toNat = f.cls → k = fld p0 0 2 := fun k h => BitVec.eq_of_toNat_eq (h.trans hc.symm)
  cases f
  case z | b | u =>
    rw [Raw.unpack, Raw.pack, hk 0#2 rfl]
    simp (disch := decide) only [fld_append_fld, fld_all]
    rfl
  case v | i | s | m =>
    rw [Raw.unpack, Raw.pack, hk 1#2 rfl]
    simp (disch := decide) only [fld_append_fld, fld_all]
    rfl
  case t | a | x =>
    rw [Raw.unpack, Raw.pack, hk 2#2 rfl]
    simp (disch := decide) only [fld_append_fld, fld_all]
    rfl
  case p =>
    rw [Raw.unpack, Raw.pack, hk 3#2 rfl]
    simp (disch := decide) only [fld_append_fld, fld_all]
    rfl

theorem cls_of_formatOfParcel {p : Word} {f : Format} (h : formatOfParcel p = .ok f) : (fld p 0 2).toNat = f.cls := by
  unfold formatOfParcel at h
  split at h
  case isTrue hp => cases h; exact hp
  case isFalse =>
    split at h
    case h_1 g hg =>
      obtain ⟨hc, h⟩ := ite_error_eq_ok.mp h
      cases h; exact hc.symm
    case h_2 => cases h

theorem clsParcels_cls_le (f : Format) : clsParcels f.cls ≤ 3 := by cases f <;> decide

/-- As many parcels as a format takes are those read with zeros past the line's end. -/
theorem take_eq_take_getD (p : Word) (rest : List Word) {n : Nat} (hn : n ≤ 3) (hl : n ≤ (p :: rest).length) :
    [p, rest.getD 0 0, rest.getD 1 0].take n = (p :: rest).take n := by
  rcases rest with _ | ⟨q, _ | ⟨r, rest⟩⟩ <;> interval_cases n <;> first | rfl | (simp at hl)

/-- Settles O59: each decoding step names the field it took, so the encoder writes the raw fields back, and their parcels. -/
theorem encodeOfDecode : Obligations.EncodeOfDecode := by
  unfold Obligations.EncodeOfDecode
  intro ps i n hd
  cases ps with
  | nil => cases hd
  | cons p rest =>
    unfold decode at hd
    obtain ⟨f, hf, hd⟩ := bind_eq_ok.mp hd
    dsimp only at hd
    split at hd
    case isTrue => cases hd
    case isFalse hl =>
      obtain ⟨j, hj, he⟩ := map_eq_ok.mp hd
      cases he
      have hlen : clsParcels f.cls ≤ (p :: rest).length := Nat.le_of_not_lt hl
      obtain ⟨hw, hr⟩ := readsExactly_toInstr _ i hj
      refine ⟨hw, ?_, hlen⟩
      rw [encode, hr, Option.map_some, Option.getD_some, pack_unpack (cls_of_formatOfParcel hf),
        take_eq_take_getD p rest (clsParcels_cls_le f) hlen]

end Sys2Proof
end

section
/-! SUPPORT. The integer, compare and select instructions (O1 to O4): each shared form with passing operands performs its
function in every issuing lane, and each instruction is a form of its own function. -/

namespace Sys2Proof.Machine

set_option Elab.async false

/-! ## The shared forms -/

/-- A result of width W whose checks pass is written in every issuing lane. -/
theorem State.orFault_putW_performs {s : State} (h : s.Issuing) {cs : List (Option FaultInfo)} (hc : firstFault cs = none)
    (flag : FlagSel) (w64 : Bool) (dst : BitVec 10) (v : Nat → Nat) :
    s.Performs (s.orFault cs (s.putW flag w64 dst v)) flag fun l x => x.putW w64 dst (v l) := by
  rw [State.putW_eq]
  exact State.orFault_performs h hc _ _

/-- The register check as the only check. -/
theorem State.firstFault_regForm {s : State} {n : Nat} {dst : BitVec 10} {srcs : List (Nat × Src)}
    (hd : s.regsOk n dst.toNat = true) (hs : ∀ c ∈ srcs, s.srcOk c.1 c.2 = true) :
    firstFault [s.regForm n dst srcs] = none := by
  rw [State.regForm_pass hd hs]; rfl

/-- The guard check as the only check. -/
theorem State.firstFault_guardForm {s : State} {dst : BitVec 10} {srcs : List (Nat × Src)} (hd : dst.toNat < 7)
    (hs : ∀ c ∈ srcs, s.srcOk c.1 c.2 = true) : firstFault [s.guardForm dst srcs] = none := by
  rw [State.guardForm_pass hd hs]; rfl

/-- A limit on the instruction itself, and then the register check. -/
theorem State.firstFault_illegal_regForm {s : State} {ok : Bool} {n : Nat} {dst : BitVec 10} {srcs : List (Nat × Src)}
    (hok : ok = true) (hd : s.regsOk n dst.toNat = true) (hs : ∀ c ∈ srcs, s.srcOk c.1 c.2 = true) :
    firstFault [s.illegal ok, s.regForm n dst srcs] = none := by
  rw [State.regForm_pass hd hs, hok]; rfl

/-- A shift whose operands pass performs its function in every issuing lane. -/
theorem State.intShift_performs {s : State} (h : s.Issuing) {f : VBin} (op : Nat → Nat → Nat)
    (hd : s.regsOk (wRegs f.t.w) f.h.dst.toNat = true) (ha : s.srcOk (wRegs f.t.w) f.a = true)
    (hb : s.srcOk 1 f.b = true) :
    s.Performs (s.intShift f op) f.h.flag fun l x =>
      x.putW f.t.w f.h.dst (op (s.srcW f.t.w 0 l f.a) (s.src32 1 l f.b).toNat) :=
  State.orFault_putW_performs h (State.firstFault_regForm hd (by simp [ha, hb])) _ _ _ _

/-- A one-source operation whose operands pass performs its function in every issuing lane. -/
theorem State.intUn_performs {s : State} (h : s.Issuing) {f : VUn} (dw : Bool) (op : Nat → Nat)
    (hd : s.regsOk (wRegs dw) f.h.dst.toNat = true) (ha : s.srcOk (wRegs f.t.w) f.a = true) :
    s.Performs (s.intUn f dw op) f.h.flag fun l x => x.putW dw f.h.dst (op (s.srcW f.t.w 0 l f.a)) :=
  State.orFault_putW_performs h (State.firstFault_regForm hd (by simp [ha])) _ _ _ _

/-- A three-source operation whose operands pass performs its function in every issuing lane. -/
theorem State.intTri_performs {s : State} (h : s.Issuing) {f : TInt} (bw cw : Bool) (op : Nat → Nat → Nat → Nat)
    (hd : s.regsOk (wRegs f.t.w) f.h.dst.toNat = true) (ha : s.srcOk (wRegs f.t.w) f.a = true)
    (hb : s.srcOk (wRegs bw) f.b = true) (hc : s.srcOk (wRegs cw) f.c = true) :
    s.Performs (s.intTri f bw cw op) f.h.flag fun l x =>
      x.putW f.t.w f.h.dst (op (s.srcW f.t.w 0 l f.a) (s.srcW bw 1 l f.b) (s.srcW cw 2 l f.c)) :=
  State.orFault_putW_performs h (State.firstFault_regForm hd (by simp [ha, hb, hc])) _ _ _ _

/-- An immediate form within its limits whose operands pass performs its function in every issuing lane. -/
theorem State.intImm_performs {s : State} (h : s.Issuing) {f : IForm} {limits : Bool} (op : Nat → Nat → Nat)
    (hl : limits = true) (hd : s.regsOk (wRegs f.t.w) f.dst.toNat = true) (ha : s.srcOk (wRegs f.t.w) f.a = true) :
    s.Performs (s.intImm f limits op) none fun l x =>
      x.putW f.t.w f.dst (op (s.srcW f.t.w 0 l f.a) (s.immW f.t.w f.imm)) :=
  State.orFault_putW_performs h (State.firstFault_illegal_regForm hl hd (by simp [ha])) _ _ _ _

/-- A guard result whose operands pass is written in every issuing lane. -/
theorem State.guardForm_performs {s : State} (h : s.Issuing) {dst : BitVec 10} {srcs : List (Nat × Src)} (flag : FlagSel)
    (v : Nat → Bool) (hd : dst.toNat < 7) (hs : ∀ c ∈ srcs, s.srcOk c.1 c.2 = true) :
    s.Performs (s.orFault [s.guardForm dst srcs] (s.putGuard flag dst v)) flag fun l x => x.setGuard dst.toNat (v l) :=
  State.orFault_performs h (State.firstFault_guardForm hd hs) flag _

/-- The same with each lane's change given of the lane as it stands: the issuing lanes are those of s. -/
theorem State.Performs.congr {s t : State} {flag : FlagSel} {f g : Nat → Lane → Lane} (hp : s.Performs t flag f)
    (hfg : ∀ l ∈ s.issLanes, f l (s.issLane l) = g l (s.issLane l)) : s.Performs t flag g :=
  ⟨hp.only, hp.full, fun l hl hf => by rw [hp.done l hl hf, hfg l hl]⟩

/-! ## Two sources -/

/-- Settles O1: every instruction is the two-source form, or the shift form, of its function. -/
theorem integerTwoSourceResults : Obligations.IntegerTwoSourceResults := by
  unfold Obligations.IntegerTwoSourceResults
  refine ⟨fun s f h hd ha hb => ?bin, fun s f h hb => ⟨fun hd ha => ?shift, fun hd ha => ?mulw⟩⟩
  case bin =>
    have hbin := fun op => State.intBin_performs h op hd ha hb
    simp only [List.forall_mem_cons]
    exact ⟨⟨_, rfl, hbin _⟩, ⟨_, rfl, hbin _⟩, ⟨_, rfl, hbin _⟩, ⟨_, rfl, hbin _⟩, ⟨_, rfl, hbin _⟩, ⟨_, rfl, hbin _⟩,
      ⟨_, rfl, hbin _⟩, ⟨_, rfl, hbin _⟩, ⟨_, rfl, hbin _⟩, ⟨_, rfl, hbin _⟩, ⟨_, rfl, hbin _⟩, List.forall_mem_nil _⟩
  case shift =>
    have hshift := fun op => State.intShift_performs h op hd ha hb
    simp only [List.forall_mem_cons]
    exact ⟨⟨_, rfl, hshift _⟩, ⟨_, rfl, hshift _⟩, ⟨_, rfl, hshift _⟩, ⟨_, rfl, hshift _⟩, List.forall_mem_nil _⟩
  case mulw =>
    exact ⟨_, rfl, State.orFault_putW_performs h (State.firstFault_regForm hd (by simp [ha, hb])) _ _ _ _⟩

/-! ## One and three sources -/

/-- The sum of lea, narrowed to 64 bits, is the sum of its 64-bit terms. -/
theorem ofNat_intLea (u : Bool) (k : Nat) (a c : DWord) (b : Nat) :
    BitVec.ofNat 64 (intLea u k a.toNat b c.toNat) = a + BitVec.ofInt 64 (valOf 32 u b * 2 ^ k) + c := by
  apply BitVec.eq_of_toNat_eq
  simp only [intLea, narrow, BitVec.toNat_add, BitVec.toNat_ofInt, BitVec.toNat_ofNat, Nat.reducePow, Nat.cast_ofNat,
    Int.reducePow]
  generalize valOf 32 u b * 2 ^ k = z
  omega

/-- Settles O2: every instruction is the one-source or the three-source form of its function; lea's sum is exact in 64 bits. -/
theorem integerOneAndThreeSourceResults : Obligations.IntegerOneAndThreeSourceResults := by
  unfold Obligations.IntegerOneAndThreeSourceResults
  refine ⟨fun s f h ha => ⟨fun hd => ?un, fun hd => ?count⟩,
    fun s f tt k h => ⟨fun hd ha => ?tri, fun hd ha hb hc => ?lea⟩⟩
  case un =>
    have hun := fun op => State.intUn_performs h f.t.w op hd ha
    simp only [List.forall_mem_cons]
    exact ⟨⟨_, rfl, hun _⟩, ⟨_, rfl, hun _⟩, ⟨_, rfl, hun _⟩, ⟨_, rfl, hun _⟩, ⟨_, rfl, hun _⟩, List.forall_mem_nil _⟩
  case count =>
    have hun := fun op => State.intUn_performs h false op hd ha
    simp only [List.forall_mem_cons]
    exact ⟨⟨_, rfl, hun _⟩, ⟨_, rfl, hun _⟩, List.forall_mem_nil _⟩
  case tri =>
    have htri := fun bw cw op => State.intTri_performs h bw cw op hd ha
    simp only [List.forall_mem_cons]
    exact ⟨fun hb hc => ⟨_, rfl, htri _ _ _ hb hc⟩, fun hb hc => ⟨_, rfl, htri _ _ _ hb hc⟩,
      fun hb hc => ⟨_, rfl, htri _ _ _ hb hc⟩, fun hb hc => ⟨_, rfl, htri _ _ _ hb hc⟩,
      fun hb hc => ⟨_, rfl, htri _ _ _ hb hc⟩, fun hb hc => ⟨_, rfl, htri _ _ _ hb hc⟩,
      fun hb hc => ⟨_, rfl, htri _ _ _ hb hc⟩, List.forall_mem_nil _⟩
  case lea =>
    refine ⟨_, rfl, (State.orFault_putW_performs h (State.firstFault_regForm hd (by simp [ha, hb, hc])) _ _ _ _).congr
      fun l _ => ?_⟩
    exact congrArg (Lane.put64 _ _) (ofNat_intLea ..)

/-! ## Immediates -/

/-- gtag's sum is the tag above the low 60 bits of its source. -/
theorem ofNat_gtag (x t : DWord) :
    BitVec.ofNat 64 (x.toNat % 2 ^ 60 + t.toNat * 2 ^ 60) = t.extractLsb' 0 4 ++ x.extractLsb' 0 60 := by
  apply BitVec.eq_of_toNat_eq
  rw [BitVec.toNat_append, ← Nat.shiftLeft_add_eq_or_of_lt (BitVec.isLt _)]
  simp only [BitVec.toNat_ofNat, BitVec.extractLsb'_toNat, Nat.shiftRight_zero, Nat.shiftLeft_eq]
  omega

/-- Settles O3: every instruction is the immediate form of its function; gtag's result is its two fields. -/
theorem immediateResults : Obligations.ImmediateResults := by
  unfold Obligations.ImmediateResults
  refine fun s f a tag h => ⟨fun hd ha => ⟨?plain, fun hshift => ?shift⟩, fun hd => ?movi, fun hd ha ht => ?gtag⟩
  case plain =>
    have himm := fun op => State.intImm_performs h op rfl hd ha
    simp only [List.forall_mem_cons]
    exact ⟨⟨_, rfl, himm _⟩, ⟨_, rfl, himm _⟩, ⟨_, rfl, himm _⟩, ⟨_, rfl, himm _⟩, ⟨_, rfl, himm _⟩, List.forall_mem_nil _⟩
  case shift =>
    have hlimit : s.shiftLimit f = true := decide_eq_true hshift
    have himm := fun op => State.intImm_performs h op hlimit hd ha
    simp only [List.forall_mem_cons]
    exact ⟨⟨_, rfl, himm _⟩, ⟨_, rfl, himm _⟩, ⟨_, rfl, himm _⟩, List.forall_mem_nil _⟩
  case movi =>
    exact ⟨_, rfl, State.orFault_putW_performs h (State.firstFault_regForm hd (List.forall_mem_nil _)) _ _ _ _⟩
  case gtag =>
    refine ⟨_, rfl, (State.orFault_putW_performs h (State.firstFault_illegal_regForm (decide_eq_true ht) hd (by simp [ha]))
      _ _ _ _).congr fun l _ => ?_⟩
    exact congrArg (Lane.put64 _ _) (ofNat_gtag ..)

/-! ## Compares, guards and select -/

/-- Settles O4: a guard result reads the guards of its own lane as they stand at issue; sel's choice is written at width W. -/
theorem guardAndSelectResults : Obligations.GuardAndSelectResults := by
  unfold Obligations.GuardAndSelectResults
  refine ⟨fun s h c it ft op gop ga gb a b m imm hs hd => ⟨fun ha hb => ?icmp, fun ha => ?icmpi, fun ha hb => ?fcmp,
    fun ha => ?fclass, ?gop, fun ha => ?gmov⟩, fun s h g f hs => ⟨fun hd => ?toReg, fun hd ha hb => ?sel⟩⟩
  case icmp => exact ⟨_, rfl, (State.guardForm_performs hs _ _ hd (by simp [ha, hb])).congr fun _ _ => rfl⟩
  case icmpi => exact ⟨_, rfl, State.guardForm_performs hs _ _ hd (by simp [ha])⟩
  case fcmp => exact ⟨_, rfl, (State.guardForm_performs hs _ _ hd (by simp [ha, hb])).congr fun _ _ => rfl⟩
  case fclass => exact ⟨_, rfl, (State.guardForm_performs hs _ _ hd (by simp [ha])).congr fun _ _ => rfl⟩
  case gop => exact ⟨_, rfl, (State.guardForm_performs hs _ _ hd (List.forall_mem_nil _)).congr fun _ _ => rfl⟩
  case gmov => exact ⟨_, rfl, State.guardForm_performs hs _ _ hd (by simp [ha])⟩
  case toReg =>
    exact ⟨_, rfl, (State.orFault_performs hs (State.firstFault_regForm hd (List.forall_mem_nil _)) _ _).congr fun _ _ => rfl⟩
  case sel =>
    refine ⟨_, rfl, (State.orFault_performs hs (State.firstFault_regForm hd (by simp [ha, hb])) _ _).congr fun l _ => ?_⟩
    cases (s.issLane l).pred f.guard with
    | false => rfl
    | true => cases f.w <;> rfl

end Sys2Proof.Machine
end

section
/-! SUPPORT. Changes made one after the other: of a table's record, of a core, of the issuing group and of its lanes. Two of
them are one, so the result of an instruction is one change of its core and one of its group. -/

namespace Sys2Proof.Machine

set_option Elab.async false

/-! ## Two writes of a table -/

section
variable {β : Type}

theorem tblSet_tblSet_same (t : Tbl β) (n : Nat) (v w : β) : tblSet (tblSet t n v) n w = tblSet t n w := by
  induction t with
  | nil => simp [tblSet]
  | cons c t ih =>
    obtain ⟨k, u⟩ := c
    simp only [tblSet]
    split
    · simp [tblSet]
    · split
      · simp [tblSet]
      · rename_i h hne; simp [tblSet, h, hne, ih]

theorem tblAdj_tblAdj_same (t : Tbl β) (n : Nat) (f g : β → β) : tblAdj (tblAdj t n f) n g = tblAdj t n (g ∘ f) := by
  cases h : tblFind t n with
  | none => simp [tblAdj, h]
  | some v => simp [tblAdj, h, tblSet_tblSet_same]

theorem tblMap_tblMap (f g : Nat → β → β) (t : Tbl β) : tblMap g (tblMap f t) = tblMap (fun n x => g n (f n x)) t := by
  induction t with
  | nil => rfl
  | cons c t ih => simp [tblMap, ih]

theorem tblMap_congr {f g : Nat → β → β} (h : ∀ n x, f n x = g n x) (t : Tbl β) : tblMap f t = tblMap g t := by
  rw [show f = g from funext fun n => funext (h n)]

/-- A table made of a list of numbers gives each its value. -/
theorem tblFind_map_of_mem {f : Nat → β} {ls : List Nat} {n : Nat} (h : n ∈ ls) :
    tblFind (ls.map fun l => (l, f l)) n = some (f n) := by
  induction ls with
  | nil => simp at h
  | cons m t ih =>
    simp only [List.map_cons, tblFind]
    split
    · next e => rw [e]
    · next e => exact ih ((List.mem_cons.1 h).resolve_left e)

end

/-! ## Two changes of a core, a team and a group -/

theorem State.setCore_setCore_same (s : State) (c : Nat) (k j : Core) : (s.setCore c k).setCore c j = s.setCore c j := by
  simp [State.setCore, tblSet_tblSet_same]

theorem State.updCore_updCore_same (s : State) (c : Nat) (f g : Core → Core) :
    (s.updCore c f).updCore c g = s.updCore c (g ∘ f) := by
  rw [State.updCore, State.core_updCore_same, State.updCore, State.setCore_setCore_same]; rfl

theorem Team.updGroup_updGroup_same (t : Team) (g : Nat) (f f' : Group → Group) :
    (t.updGroup g f).updGroup g f' = t.updGroup g (f' ∘ f) := by
  simp [Team.updGroup, tblAdj_tblAdj_same]

theorem Core.updTeam_updTeam_same (k : Core) (n : Nat) (f f' : Team → Team) :
    (k.updTeam n f).updTeam n f' = k.updTeam n (f' ∘ f) := by
  simp [Core.updTeam, tblAdj_tblAdj_same]

theorem State.updGroup_updGroup_same (s : State) (c n g : Nat) (f f' : Group → Group) :
    (s.updGroup c n g f).updGroup c n g f' = s.updGroup c n g (f' ∘ f) := by
  simp only [State.updGroup, State.updTeam, State.updCore_updCore_same]
  congr 1
  funext k
  simp only [Function.comp_apply, Core.updTeam_updTeam_same]
  congr 1
  funext t
  exact Team.updGroup_updGroup_same t g f f'

/-- Two changes of the issuing group are one. -/
theorem State.updIssGroup_updIssGroup (s : State) (f f' : Group → Group) :
    (s.updIssGroup f).updIssGroup f' = s.updIssGroup (f' ∘ f) :=
  State.updGroup_updGroup_same s _ _ _ f f'

/-- Two changes of lanes of one list are one. -/
theorem Group.mapLanes_mapLanes (y : Group) (ls : List Nat) (f f' : Nat → Lane → Lane) :
    (y.mapLanes ls f).mapLanes ls f' = y.mapLanes ls fun l x => f' l (f l x) := by
  simp only [Group.mapLanes, tblMap_tblMap]
  congr 1
  apply tblMap_congr
  intro l x
  split <;> rfl

/-- A change of some lanes and then of a list that holds them all is a change of the list. -/
theorem Group.mapLanes_mapLanes_of_subset (y : Group) {ls all : List Nat} (hsub : ∀ l ∈ ls, l ∈ all)
    (f f' : Nat → Lane → Lane) :
    (y.mapLanes ls f).mapLanes all f' = y.mapLanes all fun l x => f' l (if ls.contains l then f l x else x) := by
  simp only [Group.mapLanes, tblMap_tblMap]
  congr 1
  apply tblMap_congr
  intro l x
  by_cases hl : l ∈ ls
  · simp [hl, hsub l hl]
  · simp [hl]

/-! ## Masks of lists of lanes -/

theorem getLsbD_maskOf (ls : List Nat) (l : Nat) : (maskOf ls).getLsbD l = (decide (l < 32) && ls.contains l) := by
  induction ls with
  | nil => simp [maskOf]
  | cons m t ih =>
    simp only [maskOf, BitVec.getLsbD_or, ih, BitVec.getLsbD_shiftLeft, List.contains_cons]
    by_cases h : l = m
    · subst h; by_cases hl : l < 32 <;> simp [hl]
    · have : (l == m) = false := by simpa using h
      by_cases hl : l < 32 <;> by_cases hm : l < m <;> simp [hl, hm, this]; omega

/-- The lanes of the mask of a list are those of the list. -/
theorem mem_lanesOf_maskOf {ls : List Nat} {l : Nat} : l ∈ lanesOf (maskOf ls) ↔ l < 32 ∧ l ∈ ls := by
  simp [mem_lanesOf, getLsbD_maskOf]

theorem lanesOf_maskOf_contains {ls : List Nat} (h : ∀ l ∈ ls, l < 32) (l : Nat) :
    (lanesOf (maskOf ls)).contains l = ls.contains l := by
  rw [Bool.eq_iff_iff]
  simp only [List.contains_iff_mem, mem_lanesOf_maskOf, and_iff_right_iff_imp]
  exact h l

/-! ## An issue in progress, after a change of its group -/

/-- The lanes of the issuing group that act on a flag: their count is not full (R212). -/
theorem State.filter_issLanes_subset (s : State) (p : Nat → Bool) : ∀ l ∈ s.issLanes.filter p, l ∈ s.issLanes :=
  fun _ hl => (List.mem_filter.mp hl).1

/-- The lanes of a group are read of it after a change of the lanes that issue. -/
theorem State.laneIn_updIssGroup_mapLanes {s : State} (h : s.Issuing) (f : Nat → Lane → Lane) {l : Nat}
    (hl : l ∈ s.issLanes) : s.laneIn (s.updIssGroup fun g => g.mapLanes s.issLanes f) l = f l (s.issLane l) :=
  (State.mapLanes_changes h f).done l hl

/-! ## A change of the issuing core that keeps its teams, and then of its group -/

/-- A change of the issuing core's operations and queue, and of the names given. -/
def State.queued (s : State) (n : Nat) (ops : Tbl Op) (queue : List Item) : State :=
  State.updIssCore { s with fresh := n } fun k => { k with ops := ops, queue := queue }

/-- Such a change, and then one of the issuing lanes: what an instruction that ends later does. -/
def State.issued (s : State) (n : Nat) (ops : Tbl Op) (queue : List Item) (f : Nat → Lane → Lane) : State :=
  (s.queued n ops queue).updIssGroup fun y => y.mapLanes s.issLanes f

section
variable {s : State} (n : Nat) (ops : Tbl Op) (queue : List Item)

theorem State.core_queued_same : (s.queued n ops queue).core s.issue.core = { s.issCore with ops := ops, queue := queue } :=
  State.core_updCore_same _ _ _

theorem State.team_queued_same (k : Nat) : (s.queued n ops queue).team s.issue.core k = s.team s.issue.core k := by
  rw [State.team, State.core_queued_same]; rfl

theorem State.issTeam_queued : (s.queued n ops queue).issTeam = s.issTeam := State.team_queued_same n ops queue _

theorem State.issGroup_queued : (s.queued n ops queue).issGroup = s.issGroup := by
  rw [State.issGroup, State.issTeam_queued]; rfl

theorem State.issuing_queued (h : s.Issuing) : (s.queued n ops queue).Issuing :=
  ⟨by rw [State.issCore]; exact (State.core_queued_same n ops queue).symm ▸ h.team,
    by rw [State.issTeam_queued]; exact h.group, fun l hl => by rw [State.issGroup_queued]; exact h.lanes l hl⟩

variable (f : Nat → Lane → Lane)

theorem State.core_issued :
    (s.issued n ops queue f).core s.issue.core =
      { s.issCore with teams := ((s.issued n ops queue f).core s.issue.core).teams, ops := ops, queue := queue } := by
  have hcore : (s.issued n ops queue f).core s.issue.core =
      ((s.queued n ops queue).core s.issue.core).updTeam s.issue.slot fun t =>
        t.updGroup s.issue.group fun y => y.mapLanes s.issLanes f := State.core_updCore_same _ _ _
  rw [hcore, State.core_queued_same]; rfl

@[simp] theorem State.core_issued_ops : ((s.issued n ops queue f).core s.issue.core).ops = ops := by
  rw [State.core_issued]

@[simp] theorem State.core_issued_queue : ((s.issued n ops queue f).core s.issue.core).queue = queue := by
  rw [State.core_issued]

/-- Each issuing lane makes its change. -/
theorem State.laneIn_issued (h : s.Issuing) {l : Nat} (hl : l ∈ s.issLanes) :
    s.laneIn (s.issued n ops queue f) l = f l (s.issLane l) := by
  refine (State.laneIn_updIssGroup_mapLanes (State.issuing_queued n ops queue h) f hl).trans ?_
  rw [State.issLane, State.issGroup_queued]; rfl

/-- What such a change leaves as it is. -/
theorem State.onlyIssue_issued (h : s.Issuing) (hops : ∀ m, m ≠ s.fresh → tblFind ops m = tblFind s.issCore.ops m) :
    s.OnlyIssue (s.issued n ops queue f) := by
  obtain ⟨⟨⟨-, hcores⟩, -, hteams, hteam, hgroups⟩, hgroup, hout⟩ :=
    State.onlyLanes_mapLanes (State.issuing_queued n ops queue h) s.issLanes f fun _ hl => hl
  refine ⟨rfl, fun c hc => (hcores c hc).trans (State.core_updCore_ne _ _ hc), ?core,
    fun k hk => (hteams k hk).trans (State.team_queued_same n ops queue k), ?team, fun g hg => (hgroups g hg).trans ?groups,
    ?group, fun l hl => (hout l hl).trans ?lanes, fun m hm => ?ops⟩
  case core => rw [State.core_issued]
  case team => rw [State.issTeam_queued] at hteam; exact hteam
  case groups => exact congrArg (Team.group · g) (State.issTeam_queued n ops queue)
  case group => rw [State.issGroup_queued] at hgroup; exact hgroup
  case lanes => exact congrArg (Group.lane · l) (State.issGroup_queued n ops queue)
  case ops => rw [State.core_issued_ops]; exact hops m hm

end

end Sys2Proof.Machine
end

section
/-! SUPPORT. Lane operations, float operations and conversions, and the special functions (O5 to O10). -/

namespace Sys2Proof.Machine

set_option Elab.async false

/-! ## Lane operations -/

/-- twset's two changes of the group, as one. -/
theorem State.advance_updIssGroup (s : State) (f : Group → Group) :
    s.advance.updIssGroup f = s.updIssGroup fun g =>
      f (g.mapLanes s.issLanes fun _ x => x.perform none s.nextPc id) :=
  State.updIssGroup_updIssGroup s _ f

/-- A source written back at its width: the register, or the pair. -/
theorem Lane.putW_srcW (x : Lane) (s : State) (w64 : Bool) (k l : Nat) (a : Src) (dst : BitVec 10) :
    x.putW w64 dst (s.srcW w64 k l a) =
      if w64 then (x.setReg dst.toNat (lowWord (s.src64 k l a))).setReg (dst.toNat + 1) (highWord (s.src64 k l a))
      else x.setReg dst.toNat (s.src32 k l a) := by
  cases w64 <;> simp [Lane.putW, Lane.put32, Lane.put64, State.srcW, lowWord, highWord]

/-- Settles O5: a lane operation writes in each lane what it computes over the lanes of its tile that perform. -/
theorem laneOperationResults : Obligations.LaneOperationResults := by
  unfold Obligations.LaneOperationResults
  refine ⟨fun s h mode w gv ga a b hs => ⟨fun hd ha hb => ?shfl, fun hd => ?vote, fun hd => ?ballot, fun hd ha => ?matchLanes⟩,
    fun s tw hs hmem hz => ?twset⟩
  case shfl =>
    refine ⟨_, rfl, (State.orFault_performs hs (State.firstFault_regForm hd (by simp [ha, hb])) _ _).congr fun l _ => ?_⟩
    have hseven : gv.toNat = 7 ↔ gv = 7 := by rw [← BitVec.toNat_inj]; rfl
    simp only [Lane.putW_srcW, hseven]
  case vote =>
    have hvote := fun v => State.guardForm_performs hs h.flag v hd (List.forall_mem_nil _)
    simp only [List.forall_mem_cons]
    exact ⟨⟨_, rfl, hvote _⟩, ⟨_, rfl, hvote _⟩, ⟨_, rfl, hvote _⟩, List.forall_mem_nil _⟩
  case ballot => exact ⟨_, rfl, State.orFault_performs hs (State.firstFault_regForm hd (List.forall_mem_nil _)) _ _⟩
  case matchLanes => exact ⟨_, rfl, State.orFault_performs hs (State.firstFault_regForm hd (by simp [ha])) _ _⟩
  case twset =>
    have hpass : firstFault [s.illegal ([2, 4, 8, 16, 32].contains (s.imm48 tw).toNat)] = none := by
      rw [List.contains_iff_mem.2 hmem]; rfl
    refine ⟨_, rfl, ?_⟩
    rw [State.orFault_pass hz hpass, State.advance_updIssGroup]
    have hlanes := State.onlyLanes_mapLanes hs s.issLanes (fun _ x => x.perform none s.nextPc id) fun _ hl => hl
    refine ⟨State.onlyGroup_updIssGroup hs _, ?_, fun l hl => ?_, fun l hl => ?_⟩
    · rw [State.group_updIssGroup hs]; rfl
    · rw [State.laneIn, State.group_updIssGroup hs]
      exact (congrArg (Group.lane · l) (State.group_updIssGroup hs _)).symm.trans
        (State.laneIn_updIssGroup_mapLanes hs (fun _ x => x.perform none s.nextPc id) hl)
    · rw [State.laneIn, State.group_updIssGroup hs]
      exact Group.lane_mapLanes_out _ _ _ _ hl

/-- Settles O6: red and scan write the tree and the fold that they compute at issue. -/
theorem reductionResults : Obligations.ReductionResults := by
  unfold Obligations.ReductionResults
  intro s h op ty rnd excl a hs hd ha
  have hpass : firstFault [s.regForm (wRegs (redWide ty)) h.dst [(wRegs (redWide ty), a)]] = none :=
    State.firstFault_regForm hd (by simp [ha])
  have hred := State.orFault_putW_performs hs hpass h.flag (redWide ty) h.dst
  exact ⟨⟨_, rfl, hred _⟩, ⟨_, rfl, hred _⟩⟩

/-! ## The sum of a tile -/

/-- The values of the lanes of a tile that perform the instruction. -/
def tileValues (v : Nat → Option Nat) (lo n : Nat) : List Nat := (List.range n).filterMap fun i => v (lo + i)

/-- A tile is its lower half and its upper half. -/
theorem tileValues_add (v : Nat → Option Nat) (lo n m : Nat) :
    tileValues v lo (n + m) = tileValues v lo n ++ tileValues v (lo + n) m := by
  simp [tileValues, List.range_add, List.filterMap_append, List.filterMap_map, Nat.add_assoc]

/-- The sum of the values present, or nothing. -/
def sumPresent (xs : List Nat) : Option Nat := if xs.isEmpty then none else some (xs.sum % 2 ^ 32)

/-- The tree of an integer add is the sum of what is present: the two halves add modulo 2^32, and an absent half is left out. -/
theorem redTree_add (v : Nat → Option Nat) (mode : Rnd) (ftz : Bool) (hv : ∀ i x, v i = some x → x < 2 ^ 32) (k lo : Nat) :
    redTree (redOp .add .n32 mode ftz) v k lo = sumPresent (tileValues v lo (2 ^ k)) := by
  induction k generalizing lo with
  | zero =>
    cases h : v lo with
    | none => simp [redTree, tileValues, sumPresent, h]
    | some x => simpa [redTree, tileValues, sumPresent, h] using (Nat.mod_eq_of_lt (hv lo x h)).symm
  | succ k ih =>
    rw [Nat.pow_succ, Nat.mul_two, tileValues_add]
    simp only [redTree, ih]
    generalize tileValues v lo (2 ^ k) = low
    generalize tileValues v (lo + 2 ^ k) (2 ^ k) = high
    rcases low with _ | ⟨x, low⟩
    · simp [sumPresent]
    rcases high with _ | ⟨y, high⟩
    · simp [sumPresent]
    · simp [sumPresent, redOp, redFloat, redBits, Nat.add_assoc]

/-- Settles O7, by the halves of the tile. -/
theorem reductionAddIsTheTileSum : Obligations.ReductionAddIsTheTileSum := by
  unfold Obligations.ReductionAddIsTheTileSum
  exact fun v mode ftz k lo hv => redTree_add v mode ftz hv k lo

/-! ## Float operations and conversions -/

theorem State.flt1_performs {s : State} (hs : s.Issuing) {h : VHead} {a : Src} (op : Nat → Nat)
    (hd : s.regsOk 1 h.dst.toNat = true) (ha : s.srcOk 1 a = true) :
    s.Performs (s.flt1 h a op) h.flag fun l x => x.put32 h.dst (BitVec.ofNat 32 (op (s.src32 0 l a).toNat)) :=
  State.orFault_performs hs (State.firstFault_regForm hd (by simp [ha])) _ _

theorem State.flt2_performs {s : State} (hs : s.Issuing) {h : VHead} {a b : Src} (op : Nat → Nat → Nat)
    (hd : s.regsOk 1 h.dst.toNat = true) (ha : s.srcOk 1 a = true) (hb : s.srcOk 1 b = true) :
    s.Performs (s.flt2 h a b op) h.flag fun l x =>
      x.put32 h.dst (BitVec.ofNat 32 (op (s.src32 0 l a).toNat (s.src32 1 l b).toNat)) :=
  State.orFault_performs hs (State.firstFault_regForm hd (by simp [ha, hb])) _ _

theorem State.flt3_performs {s : State} (hs : s.Issuing) {h : VHead} {a b c : Src} (op : Nat → Nat → Nat → Nat)
    (hd : s.regsOk 1 h.dst.toNat = true) (ha : s.srcOk 1 a = true) (hb : s.srcOk 1 b = true) (hc : s.srcOk 1 c = true) :
    s.Performs (s.flt3 h a b c op) h.flag fun l x =>
      x.put32 h.dst (BitVec.ofNat 32 (op (s.src32 0 l a).toNat (s.src32 1 l b).toNat (s.src32 2 l c).toNat)) :=
  State.orFault_performs hs (State.firstFault_regForm hd (by simp [ha, hb, hc])) _ _

/-- Settles O8: every instruction is the two-source or the three-source form of its function on codes. -/
theorem floatResults : Obligations.FloatResults := by
  unfold Obligations.FloatResults
  refine fun s f g hs => ⟨fun hd ha hb => ?two, fun hd ha hb hc => ?three⟩
  case two =>
    have hflt := fun op => State.flt2_performs hs op hd ha hb
    simp only [List.forall_mem_cons]
    exact ⟨⟨_, rfl, hflt _⟩, ⟨_, rfl, hflt _⟩, ⟨_, rfl, hflt _⟩, ⟨_, rfl, hflt _⟩, ⟨_, rfl, hflt _⟩, ⟨_, rfl, hflt _⟩,
      ⟨_, rfl, hflt _⟩, ⟨_, rfl, hflt _⟩, ⟨_, rfl, hflt _⟩, ⟨_, rfl, hflt _⟩, List.forall_mem_nil _⟩
  case three =>
    have hflt := fun op => State.flt3_performs hs op hd ha hb hc
    simp only [List.forall_mem_cons]
    exact ⟨⟨_, rfl, hflt _⟩, ⟨_, rfl, hflt _⟩, ⟨_, rfl, hflt _⟩, List.forall_mem_nil _⟩

/-- Settles O9: every instruction is the one-source form of its function, or writes its elements over the register it reads. -/
theorem conversionResults : Obligations.ConversionResults := by
  unfold Obligations.ConversionResults
  refine ⟨fun s f d t e n p ct f16 hs => ⟨fun hd ha => ?one, fun hd ha => ?cvt⟩,
    fun s h d t rnd p ty sh e a b c hs hd ha hb => ⟨?cvtpk, fun hc => ?rq⟩⟩
  case one =>
    have hflt := fun op => State.flt1_performs hs op hd ha
    simp only [List.forall_mem_cons]
    exact ⟨⟨_, rfl, hflt _⟩, ⟨_, rfl, hflt _⟩, ⟨_, rfl, hflt _⟩, ⟨_, rfl, hflt _⟩, ⟨_, rfl, hflt _⟩, List.forall_mem_nil _⟩
  case cvt => exact ⟨_, rfl, State.orFault_putW_performs hs (State.firstFault_regForm hd (by simp [ha])) _ _ _ _⟩
  case cvtpk => exact ⟨_, rfl, State.orFault_performs hs (State.firstFault_regForm hd (by simp [ha, hb])) _ _⟩
  case rq => exact ⟨_, rfl, State.orFault_performs hs (State.firstFault_regForm hd (by simp [ha, hb, hc])) _ _⟩

/-! ## Special functions -/

/-- What leaves everything outside the issuing lanes as it is leaves the operations and the queue as they are. -/
theorem State.OnlyLanes.onlyIssue {s t : State} (h : s.OnlyLanes t) : s.OnlyIssue t := by
  obtain ⟨⟨⟨hrest, hcores⟩, hcore, hteams, hteam, hgroups⟩, hgroup, hout⟩ := h
  refine ⟨congrArg (fun u : State => { u with fresh := s.fresh }) hrest, hcores,
    congrArg (fun k : Core => { k with ops := s.issCore.ops, queue := s.issCore.queue }) hcore, hteams, hteam, hgroups,
    hgroup, hout, fun n _ => ?_⟩
  exact congrArg (tblFind · n) (congrArg Core.ops hcore :)

/-- Recording an operation of issuing lanes, with a change of the issuing lanes after it: its lanes raise their flag first. -/
theorem State.addOp_mapLanes (s : State) (n : Nat) (o : Op) (ho : ∀ l ∈ lanesOf o.lanes, l ∈ s.issLanes)
    (f : Nat → Lane → Lane) :
    (State.addOp { s with fresh := n } o).updIssGroup (fun y => y.mapLanes s.issLanes f) =
      s.issued n (tblSet s.issCore.ops o.id o) s.issCore.queue fun l x =>
        f l (if (lanesOf o.lanes).contains l then x.pend o.flag else x) := by
  cases hflag : o.flag with
  | none => simp only [State.addOp, hflag, Lane.pend, ite_self]; rfl
  | some i =>
    simp only [State.addOp, hflag, State.updIssGroup_updIssGroup]
    exact congrArg (State.updIssGroup _) (funext fun y => Group.mapLanes_mapLanes_of_subset y ho _ f)

/-- The operation that an instruction of the lanes `go` starts. -/
def State.startedOp (s : State) (flag : FlagSel) (kind : OpKind) (values : Nat → List Word) (go : List Nat) : Op :=
  { id := s.fresh, uid := s.issGroup.uid, kind := kind, flag := flag, tl := go.any fun l => (s.issLane l).tl,
    lanes := maskOf go, left := [], values := go.map fun l => (l, values l), ended := 0, pc := s.issue.p }

/-- An issuing lane, when the lanes `go` of its issue start an operation: it has the operation pending and advances, or parks. -/
def State.startLane (s : State) (flag : FlagSel) (go : List Nat) (l : Nat) (x : Lane) : Lane :=
  if go.contains l then (x.pend flag).goto s.nextPc else x.parkFlag flag

/-- An operation that starts and ends later: its acting lanes advance with it pending, the others park on their flag. -/
theorem State.startOp_starts {s : State} (h : s.Issuing) (flag : FlagSel) (kind : OpKind) (values : Nat → List Word) :
    s.Starts (s.startOp flag kind values) flag kind values := by
  cases hgo : s.issLanes.filter fun l => !(s.issLane l).flagFull flag with
  | nil =>
    have hfull : ∀ l ∈ s.issLanes, (s.issLane l).flagFull flag = true := by simpa using hgo
    have hstart : s.startOp flag kind values = s.updIssGroup fun y => y.mapLanes s.issLanes fun _ x => x.parkFlag flag := by
      simp only [State.startOp, hgo]; rfl
    have hlanes := State.mapLanes_changes h fun _ x => x.parkFlag flag
    rw [hstart]
    refine ⟨hlanes.only.onlyIssue, (congrArg Core.queue hlanes.only.only.core :), fun l hl _ => hlanes.done l hl,
      fun l hl hf => ?_, fun l hl hf => ?_⟩
    all_goals simp [hfull l hl] at hf
  | cons l0 rest =>
    have hin : ∀ l, l ∈ l0 :: rest ↔ l ∈ s.issLanes ∧ (s.issLane l).flagFull flag = false := fun l => by
      rw [← hgo]; simp
    have hmask : ∀ l, (lanesOf (maskOf (l0 :: rest))).contains l = (l0 :: rest).contains l :=
      lanesOf_maskOf_contains fun l hl => State.issLanes_lt ((hin l).1 hl).1
    have hstart : s.startOp flag kind values = s.issued (s.fresh + 1)
        (tblSet s.issCore.ops s.fresh (s.startedOp flag kind values (l0 :: rest))) s.issCore.queue
        (s.startLane flag (l0 :: rest)) := by
      simp only [State.startOp, hgo]
      refine (State.addOp_mapLanes s (s.fresh + 1) (s.startedOp flag kind values (l0 :: rest)) (fun l hl => ?_) _).trans ?_
      · exact ((hin l).1 (mem_lanesOf_maskOf.1 hl).2).1
      · refine congrArg (State.issued s _ _ _) (funext fun l => funext fun x => ?_)
        simp only [State.startedOp, State.startLane, hmask]
        split <;> rfl
    rw [hstart]
    refine ⟨State.onlyIssue_issued _ _ _ _ h fun m hm => tblFind_tblSet_ne _ _ hm, State.core_issued_queue ..,
      fun l hl hf => ?full, fun l hl hf => ?done, fun l hl hf => ?op⟩
    case full =>
      rw [State.laneIn_issued _ _ _ _ h hl, State.startLane, if_neg]
      exact fun hc => by simp [((hin l).1 (List.contains_iff_mem.1 hc)).2] at hf
    case done =>
      rw [State.laneIn_issued _ _ _ _ h hl, State.startLane, if_pos (List.contains_iff_mem.2 ((hin l).2 ⟨hl, hf⟩))]
    case op =>
      have hfind := tblFind_tblSet_same s.issCore.ops s.fresh (s.startedOp flag kind values (l0 :: rest))
      simp only [State.Pending, State.core_issued_ops, hgo]
      exact ⟨⟨_, hfind, rfl, rfl, rfl, rfl⟩, _, hfind, tblFind_map_of_mem ((hin l).2 ⟨hl, hf⟩)⟩

/-- Settles O10: every special function starts an operation whose values it computes at issue. -/
theorem specialFunctionsIssue : Obligations.SpecialFunctionsIssue := by
  unfold Obligations.SpecialFunctionsIssue
  intro s f hs hz hd ha
  have hsfu : ∀ op, s.Starts (s.sfu f op) f.h.flag (.sfu f.h.dst.toNat) fun l => [BitVec.ofNat 32 (op (s.fsrc f.ty 0 l f.a))] :=
    fun op => by
      rw [State.sfu, State.orFault_pass hz (State.firstFault_regForm hd (by simp [ha]))]
      exact State.startOp_starts hs _ _ _
  simp only [List.forall_mem_cons]
  exact ⟨⟨_, rfl, hsfu _⟩, ⟨_, rfl, hsfu _⟩, ⟨_, rfl, hsfu _⟩, ⟨_, rfl, hsfu _⟩, ⟨_, rfl, hsfu _⟩, ⟨_, rfl, hsfu _⟩,
    ⟨_, rfl, hsfu _⟩, ⟨_, rfl, hsfu _⟩, List.forall_mem_nil _⟩

end Sys2Proof.Machine
end

section
/-! SUPPORT. The step, reset and written words (O53, O56, O57): what a step runs, field by field what reset leaves, and the
decoding of each word. -/

namespace Sys2Proof.Machine

set_option Elab.async false

/-! ## What a step runs -/

/-- The end of a turn around what the turn has run. -/
def State.ends (s : State) (turn : Turn) (o : Result) : Result :=
  match o with
  | .next t => .next (s.endTurn turn t)
  | r => r

/-- A step takes the turn at the head of the agenda, or the default turn, and ends it. -/
theorem step_eq_ends {s s0 : State} {turn : Turn} {rest : List Turn}
    (h : (s.agenda = turn :: rest ∧ s0 = { s with agenda := rest }) ∨ (s.agenda = [] ∧ turn = s.defaultTurn ∧ s0 = s)) :
    step s = s0.ends turn (takeTurn turn s0) := by
  have hnext : nextTurn s = (turn, s0) := by
    rcases h with ⟨hag, rfl⟩ | ⟨hag, rfl, rfl⟩ <;> simp only [nextTurn, hag]
  simp only [step, hnext]
  rfl

/-- The decoded instruction runs with its length recorded. -/
theorem decodeIssue_of_ok {x : State} {i : Instr} {n : Nat} (h : decode x.issue.line = .ok (i, n)) :
    x.decodeIssue = ({ x with issue := { x.issue with len := n } }, i) := by
  simp only [State.decodeIssue, h]

theorem decodeIssue_of_error {x : State} {e : DecodeError} (h : decode x.issue.line = .error e) :
    x.decodeIssue = (x, .unassignedEncoding (x.issue.line.headD 0)) := by
  simp only [State.decodeIssue, h]

/-- An instruction that is no prefix ends the decoding. -/
theorem runDecoded_of_not_prefix (n : Nat) {x y : State} {i : Instr} (h : x.decodeIssue = (y, i)) (hi : isPrefix i = false) :
    runDecoded (n + 1) x = exec i y := by
  simp only [runDecoded, h, hi, Bool.false_and, Bool.false_eq_true, if_false]
  cases exec i y <;> rfl

/-- A prefix that has moved the cursor is followed by what stands there; one that has not is the end. -/
theorem runDecoded_of_prefix (n : Nat) {x y t : State} {i : Instr} (h : x.decodeIssue = (y, i)) (hi : isPrefix i = true)
    (ht : exec i y = .next t) : runDecoded (n + 1) x = if t.issue.p = x.issue.p then .next t else runDecoded n t := by
  simp only [runDecoded, h, hi, ht, Bool.true_and, bne_iff_ne, ne_eq, ite_not]

/-- Settles O53: a step is its turn between the agenda's and the turn's end; an issue turn is the fetch, then the decoding. -/
theorem stepRunsTheDecodedInstruction : Obligations.StepRunsTheDecodedInstruction := by
  unfold Obligations.StepRunsTheDecodedInstruction
  intro s s0 turn rest hturn ends
  have hstep : step s = ends (takeTurn turn s0) := step_eq_ends hturn
  refine ⟨fun i hi => ?event, fun core hcore => ⟨fun hnone => ?noLanes, fun u w r hu hfetch => ?issue⟩⟩
  case event => rcases hi with rfl | rfl <;> exact hstep
  case noLanes => rw [hstep, hcore]; simp only [takeTurn, hnone]
  case issue =>
    have hrun : step s = ends (runIssue u) := by rw [hstep, hcore]; simp only [takeTurn, hu]
    refine ⟨fun code aux hr => ?fault, fun ws hr => ⟨fun hentry => ?badEntry, fun hentry => ?decoded⟩⟩
    case fault => rw [hrun]; simp only [runIssue, State.fetchIssue, hfetch, hr]
    case badEntry => rw [hrun]; simp only [runIssue, State.fetchIssue, hfetch, hr, hentry, if_true]
    case decoded =>
      intro line x at_
      have hdec : step s = ends (runDecoded 4 x) := by
        rw [hrun]; simp only [runIssue, State.fetchIssue, hfetch, hr, hentry, Bool.false_eq_true, if_false]; rfl
      have hline : x.issue.line = line := rfl
      refine ⟨fun i n hi hp => ?plain, fun e he => ?unassigned, fun i n t hi hp ht => ⟨fun hsame => ?faulted, fun j m hmoved hj hq => ?follows⟩⟩
      case plain => rw [hdec, runDecoded_of_not_prefix 3 (decodeIssue_of_ok hi) hp]
      case unassigned => rw [hdec, runDecoded_of_not_prefix 3 (decodeIssue_of_error he) rfl]; rfl
      case faulted => rw [hdec, runDecoded_of_prefix 3 (decodeIssue_of_ok hi) hp ht, if_pos hsame]
      case follows =>
        rw [hdec, runDecoded_of_prefix 3 (decodeIssue_of_ok hi) hp ht, if_neg hmoved,
          runDecoded_of_not_prefix 2 (decodeIssue_of_ok hj) hq]

/-! ## Reset -/

/-- At reset no memory lists a byte. -/
theorem State.memWf_reset : State.reset.MemWf :=
  ⟨rfl, rfl, List.forall_mem_nil _, List.forall_mem_nil _⟩

/-- At reset every clock region is as its reset column gives. -/
theorem State.regWord_clkStat_reset (r : Nat) : State.reset.regWord .clkStat r = 750 * 2 ^ 32 + 44 * 256 + 44 := by
  simp [State.regWord, State.region, State.reset, tblGet, Region.reset, bit]

/-- At reset every core's islands are as their reset column gives. -/
theorem State.regWord_ntCtl_reset (c : Nat) : State.reset.regWord .ntCtl c = 0xC0 * 2 ^ 24 + 0x80 * 2 ^ 16 + 2 ^ 4 := by
  simp [State.regWord, State.core, State.reset, tblGet, Core.reset, bit]

/-- Settles O56: each value is read off the reset state. -/
theorem resetLeavesTheTablesValues : Obligations.ResetLeavesTheTablesValues := by
  unfold Obligations.ResetLeavesTheTablesValues
  exact ⟨State.memWf_reset, rfl, rfl, fun _ => rfl, rfl, rfl, fun _ => rfl, rfl, rfl, rfl, rfl, by decide, by decide,
    State.regWord_clkStat_reset, State.regWord_ntCtl_reset, by decide, by decide, by decide, by decide, by decide, by decide, by decide, fun _ => rfl⟩

/-! ## Written words -/

/-- Settles O57: each word is decoded. -/
theorem writtenWordsDecode : Obligations.WrittenWordsDecode := by
  unfold Obligations.WrittenWordsDecode
  refine ⟨?_, ?_⟩
  · decide
  · decide

end Sys2Proof.Machine
end

section
/-! SUPPORT. A fault that an instruction raises: the core stops, its registers report it, and no lane moves. -/

namespace Sys2Proof.Machine

set_option Elab.async false

/-! ## What a report leaves as it is -/

@[simp] theorem State.core_msi (s : State) (v c : Nat) : (s.msi v).core c = s.core c := by
  simp [State.core]

@[simp] theorem State.team_msi (s : State) (v c n : Nat) : (s.msi v).team c n = s.team c n := by
  simp [State.team]

@[simp] theorem State.group_msi (s : State) (v c n g : Nat) : (s.msi v).group c n g = s.group c n g := by
  simp [State.group]

/-- A change of a core that keeps its teams keeps every team. -/
theorem State.team_updCore_of_teams (s : State) {c : Nat} {f : Core → Core} (hf : ∀ k, (f k).teams = k.teams) (d n : Nat) :
    (s.updCore c f).team d n = s.team d n := by
  by_cases h : d = c
  · subst h; simp only [State.team, State.core_updCore_same, Core.team, hf]
  · simp only [State.team, State.core_updCore_ne s f h]

theorem State.group_updCore_of_teams (s : State) {c : Nat} {f : Core → Core} (hf : ∀ k, (f k).teams = k.teams) (d n g : Nat) :
    (s.updCore c f).group d n g = s.group d n g := by
  rw [State.group, State.team_updCore_of_teams s hf]; rfl

/-! ## A precise fault of lanes outside the handler -/

/-- A precise fault that is no double trap, of lanes outside the trap handler. -/
structure State.Plain (s : State) (f : FaultInfo) : Prop where
  precise : Machine.imprecise f.code = false
  code : f.code ≠ 0x0F
  lanes : ∀ l ∈ lanesOf f.lanes, (s.issLane l).tl = false

/-- The report of a fault of lanes that are all outside the handler is not of trap level. -/
theorem State.issReport_tl {s : State} {f : FaultInfo} (h : ∀ l ∈ lanesOf f.lanes, (s.issLane l).tl = false) :
    (s.issReport f).tl = false := by
  simpa [State.issReport] using h

/-- A plain fault of a core that runs stops it on that report and sends the vector of its cluster. -/
theorem State.raise_eq {s : State} {f : FaultInfo} (hrun : s.issCore.flt.stopped = false) (h : s.Plain f) :
    s.raise f = (s.updCore s.issue.core fun k => { k with flt := k.flt.arrive (s.issReport f) }).msi
      (64 + clusterOf s.issue.core) := by
  obtain ⟨hprecise, hcode, hlanes⟩ := h
  have himp : (s.issReport f).imprecise = false := by
    have hkind : (s.issReport f).kind = f.code := by
      simp only [Report.kind, State.issReport]; exact if_neg hcode
    simp only [Report.imprecise, hkind, hprecise]; rfl
  have htl := State.issReport_tl hlanes
  have hne : ((s.issReport f).code == 0x0F) = false := by simpa [State.issReport] using hcode
  have hrun' : (s.core s.issue.core).flt.stopped = false := hrun
  simp only [State.raise, State.report, himp, htl, Bool.and_false, Bool.false_and, Bool.or_false, Bool.false_eq_true,
    if_false, hne, hrun']

/-- After a plain fault the core has stopped on it. -/
theorem State.raise_stoppedOn {s : State} {f : FaultInfo} (hrun : s.issCore.flt.stopped = false) (h : s.Plain f) :
    (s.raise f).StoppedOn s.issue.core f.code f.lanes f.pc := by
  have hrun' : (s.core s.issue.core).flt.stopped = false := hrun
  rw [State.raise_eq hrun h, State.StoppedOn]
  simp only [State.core_msi, State.core_updCore_same, FltUnit.arrive, hrun', Bool.not_false, if_true, true_and]
  exact ⟨_, rfl, rfl, rfl, rfl⟩

/-- A plain fault changes no group. -/
theorem State.group_raise {s : State} {f : FaultInfo} (hrun : s.issCore.flt.stopped = false) (h : s.Plain f) (c n g : Nat) :
    (s.raise f).group c n g = s.group c n g := by
  rw [State.raise_eq hrun h, State.group_msi]
  exact State.group_updCore_of_teams s (by exact fun _ => rfl) c n g

/-- An instruction whose first failing check is a plain fault stops its core on it, and no lane moves. -/
theorem State.orFault_stops {s : State} (hrun : s.issCore.flt.stopped = false) (hz : s.issue.lanes ≠ 0)
    {cs : List (Option FaultInfo)} {f : FaultInfo} (hc : firstFault cs = some f) (h : s.Plain f) (k : State) :
    (s.orFault cs k).StoppedOn s.issue.core f.code f.lanes f.pc ∧ ∀ l, s.laneIn (s.orFault cs k) l = s.issLane l := by
  rw [State.orFault_fail hz hc]
  refine ⟨State.raise_stoppedOn hrun h, fun l => ?_⟩
  rw [State.laneIn, State.group_raise hrun h]; rfl

/-! ## The lanes of a fault -/

/-- The mask of the lanes of a mask is the mask. -/
theorem maskOf_lanesOf (m : LaneMask) : maskOf (lanesOf m) = m := by
  refine BitVec.eq_of_getLsbD_eq fun i hi => ?_
  have hmem : (lanesOf m).contains i = m.getLsbD i := by
    rw [Bool.eq_iff_iff]; simp [mem_lanesOf, hi]
  rw [getLsbD_maskOf, hmem, decide_eq_true hi, Bool.true_and]

theorem badLanes_map_const (ls : List Nat) (c : Nat) (x : Nat → Nat) :
    badLanes (ls.map fun l => (l, c, x l)) = maskOf ls := by
  cases ls with
  | nil => rfl
  | cons l t =>
    have hall : ((l :: t).map fun l => (l, c, x l)).filter (fun f => f.2.1 == c) = (l :: t).map fun l => (l, c, x l) := by
      simp
    have hlanes : ((l :: t).map fun l => (l, c, x l)).map (·.1) = l :: t := by simp [List.map_map, Function.comp_def]
    exact congrArg maskOf ((congrArg (List.map (·.1)) hall).trans hlanes)

/-- Lanes that all fail with one code raise one fault of them all. -/
theorem State.laneFault_map_const (s : State) {ls : List Nat} (hne : ls ≠ []) (c : Nat) (x : Nat → Nat) (addr : Nat → DWord) :
    ∃ f, s.laneFault (ls.map fun l => (l, c, x l)) addr = some f ∧ f.code = c ∧ f.lanes = maskOf ls ∧ f.pc = s.issue.p := by
  obtain ⟨l, t, rfl⟩ := List.exists_cons_of_ne_nil hne
  exact ⟨_, rfl, rfl, badLanes_map_const (l :: t) c x, rfl⟩

@[simp] theorem State.laneFault_nil (s : State) (addr : Nat → DWord) : s.laneFault [] addr = none := rfl

theorem State.maskOf_issLanes (s : State) : maskOf s.issLanes = s.issue.lanes := maskOf_lanesOf _

theorem State.issLanes_ne_nil {s : State} (h : s.issue.lanes ≠ 0) : s.issLanes ≠ [] := by
  intro he
  apply h
  rw [← s.maskOf_issLanes, he]; rfl

/-- A plain fault of issuing lanes, where no issuing lane is in the handler. -/
theorem State.plain_of_issLanes {s : State} {f : FaultInfo} (hp : Machine.imprecise f.code = false) (hc : f.code ≠ 0x0F)
    {ls : List Nat} (hl : f.lanes = maskOf ls) (hsub : ∀ l ∈ ls, l ∈ s.issLanes) (htl : ∀ l ∈ s.issLanes, (s.issLane l).tl = false) :
    s.Plain f :=
  ⟨hp, hc, fun l hm => htl l (hsub l (mem_lanesOf_maskOf.1 (hl ▸ hm)).2)⟩

end Sys2Proof.Machine
end

section
/-! SUPPORT. Control flow (O11, O13, O14): branches and the faults of a transfer, exit and detach, and the prefixes. -/

namespace Sys2Proof.Machine

set_option Elab.async false

/-! ## Changes of every issuing lane -/

/-- The same with each lane's change given of the lane as it stands. -/
theorem State.Changes.congr {s t : State} {f g : Nat → Lane → Lane} (hp : s.Changes t f)
    (hfg : ∀ l ∈ s.issLanes, f l (s.issLane l) = g l (s.issLane l)) : s.Changes t g :=
  ⟨hp.only, fun l hl => by rw [hp.done l hl, hfg l hl]⟩

/-- With no lane issuing, an instruction changes nothing. -/
theorem State.changes_of_no_lanes {s : State} (h : s.issue.lanes = 0) (f : Nat → Lane → Lane) : s.Changes s f :=
  ⟨(State.performs_of_no_lanes h none f).only, by simp [State.issLanes, h]⟩

/-- An instruction whose checks pass makes its change of every issuing lane. -/
theorem State.orFault_changes {s : State} (h : s.Issuing) {cs : List (Option FaultInfo)} (hc : firstFault cs = none)
    (f : Nat → Lane → Lane) : s.Changes (s.orFault cs (s.updIssGroup fun g => g.mapLanes s.issLanes f)) f := by
  by_cases hz : s.issue.lanes = 0
  · simpa [State.orFault, hz] using State.changes_of_no_lanes hz f
  · rw [State.orFault_pass hz hc]; exact State.mapLanes_changes h f

/-- A transfer whose checks pass takes the lanes of a list to their targets and the others on. -/
theorem State.transfer_changes {s : State} (h : s.Issuing) {cs : List (Option FaultInfo)} (hc : firstFault cs = none)
    (ls : List Nat) (target : Nat → PAddr) :
    s.Changes (s.orFault cs (s.transfer ls target)) fun l x => x.goto (if ls.contains l then target l else s.nextPc) :=
  State.orFault_changes h hc _

/-! ## The checks of a transfer -/

/-- Targets that are marked pass. -/
theorem State.badTargets_of_marked {s : State} {ls : List Nat} {target : Nat → PAddr}
    (h : ∀ l ∈ ls, s.marked s.issue.core s.issTeam.grid (target l) = true) : s.badTargets ls target = none := by
  have hnone : (ls.filter fun l => !s.marked s.issue.core s.issTeam.grid (target l)) = [] := by
    simpa using h
  simp [State.badTargets, hnone]

/-- Targets of which none is marked fault, with every lane of the list. -/
theorem State.badTargets_of_unmarked {s : State} {ls : List Nat} (hne : ls ≠ []) {target : Nat → PAddr}
    (h : ∀ l ∈ ls, s.marked s.issue.core s.issTeam.grid (target l) = false) :
    ∃ f, s.badTargets ls target = some f ∧ f.code = 0x06 ∧ f.lanes = maskOf ls ∧ f.pc = s.issue.p := by
  have hall : (ls.filter fun l => !s.marked s.issue.core s.issTeam.grid (target l)) = ls := by
    simpa using h
  rw [State.badTargets, hall]
  exact s.laneFault_map_const hne _ _ _

/-- Values below 2^57 pass. -/
theorem State.badHigh_of_low {s : State} {v : Nat → DWord} (h : ∀ l ∈ s.issLanes, (v l).toNat < 2 ^ 57) :
    s.badHigh v = none := by
  have hnone : (s.issLanes.filter fun l => decide (2 ^ 57 ≤ (v l).toNat)) = [] := by simpa using h
  rw [State.badHigh, hnone]; rfl

/-- Values that all have bits above 56 fault, with every issuing lane. -/
theorem State.badHigh_of_high {s : State} (hz : s.issue.lanes ≠ 0) {v : Nat → DWord}
    (h : ∀ l ∈ s.issLanes, 2 ^ 57 ≤ (v l).toNat) :
    ∃ f, s.badHigh v = some f ∧ f.code = 0x06 ∧ f.lanes = maskOf s.issLanes ∧ f.pc = s.issue.p := by
  have hall : (s.issLanes.filter fun l => decide (2 ^ 57 ≤ (v l).toNat)) = s.issLanes := by simpa using h
  rw [State.badHigh, hall]
  exact s.laneFault_map_const (State.issLanes_ne_nil hz) _ _ _

/-- A source that may be read passes the operand check. -/
theorem State.operands_srcOk {s : State} {n : Nat} {a : Src} (h : s.srcOk n a = true) : s.operands [s.srcOk n a] = none := by
  rw [h]; rfl

theorem State.mem_guarded {s : State} {g : Pred} {l : Nat} : l ∈ s.guarded g ↔ l ∈ s.issLanes ∧ (s.issLane l).pred g = true := by
  simp [State.guarded]

/-! ## Faults of an instruction's own accesses -/

/-- Raising a fault of own accesses stops the core on it, and no lane moves. -/
theorem State.raiseOwn_stops {s : State} (hrun : s.issCore.flt.stopped = false) {f : FaultInfo} (h : s.Plain f)
    (addrs : List (Nat × DWord)) (bads : List (Nat × Nat × Nat)) :
    (s.raiseOwn addrs bads f).StoppedOn s.issue.core f.code f.lanes f.pc ∧
      ∀ l, s.laneIn (s.raiseOwn addrs bads f) l = s.issLane l := by
  obtain ⟨n, vs, hraise⟩ : ∃ n vs, s.raiseOwn addrs bads f = ((s.countRefused 0 n).dropWalkFaults s.issue.core vs).raise f :=
    ⟨_, _, rfl⟩
  generalize hu : (s.countRefused 0 n).dropWalkFaults s.issue.core vs = u at hraise
  have hissue : u.issue = s.issue := by subst hu; rfl
  have hgroup : ∀ c n g, u.group c n g = s.group c n g := fun c n g => by
    subst hu; exact State.group_updCore_of_teams _ (by exact fun _ => rfl) c n g
  have hflt : u.issCore.flt.stopped = false := by
    subst hu
    exact (congrArg (·.flt.stopped) (State.core_updCore_same (s.countRefused 0 n) s.issue.core _) :).trans hrun
  have hlane : ∀ l, u.issLane l = s.issLane l := fun l =>
    congrArg (Group.lane · l) ((congrArg (fun i : Issue => u.group i.core i.slot i.group) hissue).trans (hgroup _ _ _))
  have hplain : u.Plain f := ⟨h.precise, h.code, fun l hl => by rw [hlane]; exact h.lanes l hl⟩
  rw [hraise]
  refine ⟨hissue ▸ State.raise_stoppedOn hflt hplain, fun l => ?_⟩
  rw [State.laneIn, State.group_raise hflt hplain, hgroup]; rfl

/-- Lanes that each have a fault of their own merge to those faults. -/
theorem mergeBads_of_all {ls : List Nat} {own : Nat → Option (Nat × Nat)} {c x : Nat} (h : ∀ l ∈ ls, own l = some (c, x))
    (bads : List (Nat × Nat × Nat)) : mergeBads ls own bads = ls.map fun l => (l, c, x) := by
  induction ls with
  | nil => rfl
  | cons l t ih =>
    have ht := ih fun m hm => h m (List.mem_cons_of_mem l hm)
    simp only [mergeBads] at ht
    simp [mergeBads, h l List.mem_cons_self, ht]

/-- Settles O11. -/
theorem branchResultsAndTransferFaults : Obligations.BranchResultsAndTransferFaults := by
  unfold Obligations.BranchResultsAndTransferFaults
  refine ⟨fun s g off a hs => ⟨?nop, ?yield, fun hm => ?bra, fun ha hm => ?brr⟩,
    fun s g off a hs hrun htl => ⟨fun hbad => ?braFault, fun ha hz hbad => ?brrFault⟩, fun s hs hrun hz hdepth => ?ret⟩
  case nop => exact ⟨_, rfl, (State.orFault_changes hs rfl _).congr fun _ _ => rfl⟩
  case yield => exact ⟨_, rfl, (State.orFault_changes hs rfl _).congr fun _ _ => rfl⟩
  case bra =>
    have hpass : firstFault [s.badTargets (s.guarded g) fun _ => s.branchTarget off] = none := by
      rw [State.badTargets_of_marked (by exact hm)]; rfl
    refine ⟨_, rfl, (State.transfer_changes hs hpass _ _).congr fun l hl => ?_⟩
    have hin : (s.guarded g).contains l = (s.issLane l).pred g := by
      rw [Bool.eq_iff_iff]; simp [State.mem_guarded, hl]
    rw [hin]; rfl
  case brr =>
    have hpass : firstFault [s.operands [s.srcOk 2 a], s.badHigh fun l => s.src64 0 l a,
        s.badTargets s.issLanes fun l => (s.src64 0 l a).setWidth 57] = none := by
      rw [State.operands_srcOk ha, State.badHigh_of_low fun l hl => (hm l hl).1,
        State.badTargets_of_marked fun l hl => (hm l hl).2]; rfl
    refine ⟨_, rfl, (State.transfer_changes hs hpass _ _).congr fun l hl => ?_⟩
    rw [if_pos (List.contains_iff_mem.2 hl)]
  case braFault =>
    obtain ⟨hne, hunmarked⟩ := hbad
    obtain ⟨f, hf, hcode, hlanes, hpc⟩ := State.badTargets_of_unmarked (target := fun _ => s.branchTarget off) hne fun _ _ => hunmarked
    have hz : s.issue.lanes ≠ 0 := by
      obtain ⟨l, hl⟩ := List.exists_mem_of_ne_nil _ hne
      exact State.lanes_ne_zero (State.mem_guarded.1 hl).1
    have hplain : s.Plain f := State.plain_of_issLanes (by rw [hcode]; rfl) (by rw [hcode]; decide) hlanes
      (fun l hl => (State.mem_guarded.1 hl).1) htl
    have hstops := State.orFault_stops hrun hz (congrArg (fun c => firstFault [c]) hf) hplain
    rw [hcode, hlanes, hpc] at hstops
    exact ⟨_, rfl, hstops _⟩
  case brrFault =>
    obtain ⟨f, hf, hcode, hlanes, hpc⟩ := State.badHigh_of_high hz hbad
    have hplain : s.Plain f := State.plain_of_issLanes (by rw [hcode]; rfl) (by rw [hcode]; decide) hlanes
      (fun _ hl => hl) htl
    have hfirst : firstFault [s.operands [s.srcOk 2 a], s.badHigh fun l => s.src64 0 l a,
        s.badTargets s.issLanes fun l => (s.src64 0 l a).setWidth 57] = some f := by
      rw [State.operands_srcOk ha, hf]; rfl
    have hstops := State.orFault_stops hrun hz hfirst hplain
    rw [hcode, hlanes, hpc, s.maskOf_issLanes] at hstops
    exact ⟨_, rfl, hstops _⟩
  case ret =>
    obtain ⟨f, hf, hcode, hlanes, hpc⟩ := s.laneFault_map_const (State.issLanes_ne_nil hz) 0x08 (fun _ => 0)
      fun l => if (s.issLane l).depth = 0 then 0 else s.spillAt (s.issLane l).depth
    have hplain : s.Plain f := State.plain_of_issLanes (by rw [hcode]; rfl) (by rw [hcode]; decide) hlanes
      (fun _ hl => hl) fun l hl => (hdepth l hl).2
    have hunder : ∀ l ∈ s.issLanes, (if (s.issLane l).depth = 0 then some (0x08, 0) else none) = some (0x08, 0) :=
      fun l hl => if_pos (hdepth l hl).1
    refine ⟨_, rfl, ?_⟩
    rw [if_neg hz, mergeBads_of_all hunder, hf]
    have hstops := State.raiseOwn_stops hrun hplain
    rw [hcode, hlanes, hpc, s.maskOf_issLanes] at hstops
    exact hstops _ _

/-! ## Barriers leave the status of every lane as it is -/

/-- The status of a lane of a group of a team. -/
def Team.statusAt (t : Team) (g m : Nat) : LaneStatus := ((t.group g).lane m).status

/-- The groups of a team are those of another, and their lanes have the same status. -/
structure Team.SameStatus (t u : Team) : Prop where
  groups : ∀ g, (tblFind u.groups g).isSome = (tblFind t.groups g).isSome
  status : ∀ g m, u.statusAt g m = t.statusAt g m

theorem Team.SameStatus.refl (t : Team) : t.SameStatus t := ⟨fun _ => rfl, fun _ _ => rfl⟩

theorem Team.SameStatus.trans {t u v : Team} (h : t.SameStatus u) (h' : u.SameStatus v) : t.SameStatus v :=
  ⟨fun g => (h'.groups g).trans (h.groups g), fun g m => (h'.status g m).trans (h.status g m)⟩

/-- A change of one group changes no other group. -/
theorem Team.group_updGroup (t : Team) (g : Nat) (f : Group → Group) (x : Nat) :
    (t.updGroup g f).group x = if x = g ∧ (tblFind t.groups g).isSome then f (t.group g) else t.group x := by
  by_cases hx : x = g
  · subst hx
    cases hfind : tblFind t.groups x with
    | none => simp [Team.updGroup, tblAdj, hfind]
    | some v => rw [if_pos ⟨rfl, rfl⟩]; exact Team.group_updGroup_same t x f (by simp [hfind])
  · simpa [hx] using Team.group_updGroup_ne t f hx

theorem Team.isSome_updGroup (t : Team) (g : Nat) (f : Group → Group) (x : Nat) :
    (tblFind (t.updGroup g f).groups x).isSome = (tblFind t.groups x).isSome := by
  by_cases hx : x = g
  · subst hx; simp [Team.updGroup, tblFind_tblAdj_same]
  · simp [Team.updGroup, tblFind_tblAdj_ne _ _ hx]

theorem Group.lane_updLane (y : Group) (l : Nat) (f : Lane → Lane) (m : Nat) :
    (y.updLane l f).lane m = if m = l then f (y.lane l) else y.lane m := by
  by_cases hm : m = l
  · subst hm; simp [Group.updLane, Group.lane_setLane_same]
  · simp [Group.updLane, Group.lane_setLane_ne y _ hm, hm]

/-- A change of one lane that keeps its status. -/
theorem Team.sameStatus_updLane (t : Team) (g l : Nat) {f : Lane → Lane} (hf : ∀ x, (f x).status = x.status) :
    t.SameStatus (t.updGroup g fun y => y.updLane l f) := by
  refine ⟨Team.isSome_updGroup t g _, fun x m => ?_⟩
  simp only [Team.statusAt, Team.group_updGroup]
  split
  · next h => rw [Group.lane_updLane, h.1]; split
              · next e => rw [hf, e]
              · rfl
  · rfl

/-- A change of every lane that keeps its status. -/
theorem Team.sameStatus_mapAll (t : Team) {f : Nat → Nat → Lane → Lane} (hf : ∀ g l x, (f g l x).status = x.status) :
    t.SameStatus (t.mapAll f) := by
  refine ⟨fun g => by simp [Team.mapAll], fun g m => ?_⟩
  have hlane : ∀ (g : Nat) (y : Group) (ls : Tbl Lane), (tblGet Lane.absent (tblMap (fun l y => f g l y) ls) m).status =
      (tblGet Lane.absent ls m).status := fun g y ls => by
    rw [tblGet_eq_find, tblGet_eq_find, tblFind_tblMap]
    cases tblFind ls m with
    | none => rfl
    | some x => exact hf g m x
  simp only [Team.statusAt, Team.group, Team.mapAll, tblGet_eq_find, tblFind_tblMap]
  cases tblFind t.groups g with
  | none => rfl
  | some y => exact hlane g y y.lanes

/-- The relation is one of the groups. -/
theorem Team.SameStatus.of_groups {t u v : Team} (hv : v.groups = u.groups) (h : t.SameStatus u) : t.SameStatus v :=
  ⟨fun g => hv ▸ h.groups g, fun g m => (congrArg (fun gs => ((tblGet Group.absent gs g).lane m).status) hv).trans (h.status g m)⟩

/-- A lane at the completion of a phase: an arrival that it held counts in the next one. -/
def Lane.nextPhase (b phase : Nat) (x : Lane) : Lane :=
  { x with arr := bitSet x.arr b (x.new.getLsbD b && x.held.getLsbD b), new := bitSet x.new b false,
           held := bitSet x.held b false, waitOn := x.waitOn.unhold b phase,
           shadow := x.shadow.map fun w => { w with waitOn := w.waitOn.unhold b phase } }

/-- A team at the completion of a phase. -/
def Team.nextPhase (t : Team) (b : Nat) : Team :=
  let x := t.bar b
  { t.mapAll fun _ _ l => l.nextPhase b (x.phases + 1) with
    bars := tblSet t.bars b { x with phase := !x.phase, exp := x.exp + x.join, join := 0, arr := (t.heldAt b).length,
                                     phases := x.phases + 1, rel := t.heldAt b, done := tblSet x.done x.phases x.rel } }

theorem Team.sameStatus_nextPhase (t : Team) (b : Nat) : t.SameStatus (t.nextPhase b) :=
  .of_groups (u := t.mapAll fun _ _ l => l.nextPhase b ((t.bar b).phases + 1)) rfl (Team.sameStatus_mapAll t fun _ _ _ => rfl)

theorem Team.check_succ (t : Team) (b n : Nat) :
    t.check b (n + 1) = if (t.bar b).arr = (t.bar b).exp then
      if (t.heldAt b).isEmpty then t.nextPhase b else (t.nextPhase b).check b n else t := rfl

/-- A completed phase changes no status. -/
theorem Team.sameStatus_check (b n : Nat) (t : Team) : t.SameStatus (t.check b n) := by
  induction n generalizing t with
  | zero => exact .refl t
  | succ n ih =>
    rw [Team.check_succ]
    split
    · split
      · exact t.sameStatus_nextPhase b
      · exact (t.sameStatus_nextPhase b).trans (ih _)
    · exact .refl t

/-- A deduction changes no status. -/
theorem Team.sameStatus_deduct (t : Team) (g l b : Nat) : t.SameStatus (t.deduct g l b) := by
  rw [Team.deduct]
  dsimp only
  split
  · refine Team.SameStatus.of_groups (u := t.updGroup g _) rfl (Team.sameStatus_updLane t g l ?_)
    exact fun _ => rfl
  · refine Team.SameStatus.trans ?_ (Team.sameStatus_check b 64 _)
    refine Team.SameStatus.of_groups (u := t.updGroup g _) rfl (Team.sameStatus_updLane t g l ?_)
    exact fun _ => rfl

theorem Team.sameStatus_foldl {α : Type} {f : Team → α → Team} (hf : ∀ (t : Team) x, t.SameStatus (f t x)) (ls : List α) (t : Team) :
    t.SameStatus (ls.foldl f t) := by
  induction ls generalizing t with
  | nil => exact .refl t
  | cons x ls ih => exact (hf t x).trans (ih _)

theorem Team.sameStatus_deductAll (t : Team) (g l : Nat) : t.SameStatus (t.deductAll g l) :=
  Team.sameStatus_foldl (fun t b => Team.sameStatus_deduct t g l b) _ t

/-! ## Lanes that exit -/

/-- A lane that exits is EXITED, and no other lane's status changes. -/
theorem Team.statusAt_exitLane (t : Team) {g : Nat} (hg : (tblFind t.groups g).isSome) (l m : Nat) :
    (t.exitLane g l).statusAt g m = if m = l then .exited else t.statusAt g m := by
  rw [Team.exitLane, (Team.sameStatus_deductAll _ g l).status, Team.statusAt, Team.group_updGroup, if_pos ⟨rfl, hg⟩,
    Group.lane_updLane]
  split <;> rfl

theorem Team.isSome_exitLane (t : Team) (g l : Nat) :
    (tblFind (t.exitLane g l).groups g).isSome = (tblFind t.groups g).isSome := by
  rw [Team.exitLane, (Team.sameStatus_deductAll _ g l).groups, Team.isSome_updGroup]

/-- The lanes of a list that exit are EXITED, and no other lane's status changes. -/
theorem Team.statusAt_exitLanes (g m : Nat) (ls : List Nat) (t : Team) (hg : (tblFind t.groups g).isSome) :
    (ls.foldl (fun t l => t.exitLane g l) t).statusAt g m = if m ∈ ls then .exited else t.statusAt g m := by
  induction ls generalizing t with
  | nil => simp
  | cons l ls ih =>
    rw [List.foldl_cons, ih _ ((Team.isSome_exitLane t g l).trans hg), Team.statusAt_exitLane t hg]
    by_cases hm : m ∈ ls <;> by_cases hl : m = l <;> simp [hm, hl]

/-- The issuing team, after a change of it. -/
theorem State.team_updIssTeam {s : State} (h : s.Issuing) (f : Team → Team) :
    (s.updIssTeam f).team s.issue.core s.issue.slot = f s.issTeam := by
  have ht : (tblFind (s.core s.issue.core).teams s.issue.slot).isSome := h.team
  simp only [State.updIssTeam, State.updTeam, State.team, State.core_updCore_same, Core.team_updTeam_same _ _ _ ht]
  rfl

/-- A group that has ended is no longer resident. -/
theorem State.endGroup_gone (s : State) (core slot g : Nat) :
    tblFind ((s.endGroup core slot g).team core slot).groups g = none := by
  have hgone : ∀ (u : State) (f : Team → Team), (∀ t, (f t).groups = tblDel t.groups g) →
      tblFind ((u.updTeam core slot f).team core slot).groups g = none := fun u f hf => by
    rw [State.updTeam, State.team, State.core_updCore_same, Core.team, Core.updTeam, tblGet_eq_find, tblFind_tblAdj_same]
    cases tblFind (u.core core).teams slot with
    | none => rfl
    | some t => exact (congrArg (tblFind · g) (hf t)).trans (tblFind_tblDel_same _ _)
  have hend : ∀ u : State, tblFind ((u.endTeam core slot).team core slot).groups g = none := fun u => by
    have hteams : tblFind ((u.endTeam core slot).core core).teams slot = none := by
      simp only [State.endTeam]
      split
      · simp [State.core, State.updCluster, State.updGrid, State.updCore, State.setCore]
      · simp [State.core, State.updCluster, State.updGrid, State.updCore, State.setCore, State.dropPins, State.updL1]
    simp [State.team, Core.team, tblGet_eq_find, hteams, Team.absent, tblFind]
  simp only [State.endGroup]
  split
  · exact hend _
  · exact hgone _ _ fun _ => rfl

/-- The machine once every issuing lane has exited. -/
def State.exited (s : State) : State := s.updIssTeam fun t => s.issLanes.foldl (fun t l => t.exitLane s.issue.group l) t

theorem exec_exit (s : State) : exec .exit s = .next (s.orFault [] (
    if s.exited.issGroup.liveLanes.isEmpty then s.exited.endGroup s.issue.core s.issue.slot s.issue.group else s.exited)) := rfl

theorem State.status_issLane_exited {s : State} (hs : s.Issuing) (m : Nat) :
    (s.exited.issLane m).status = if m ∈ s.issLanes then .exited else (s.issLane m).status := by
  have hstatus := Team.statusAt_exitLanes s.issue.group m s.issLanes s.issTeam hs.group
  exact (congrArg (Team.statusAt · s.issue.group m) (State.team_updIssTeam hs _)).trans hstatus

theorem State.mem_liveLanes_exited {s : State} (hs : s.Issuing) (m : Nat) :
    m ∈ s.exited.issGroup.liveLanes ↔ m < 32 ∧ m ∉ s.issLanes ∧ (s.issLane m).live = true := by
  have hlive : (s.exited.issGroup.lane m).live = true ↔ m ∉ s.issLanes ∧ (s.issLane m).live = true := by
    change ((s.exited.issLane m).status != .exited) = true ↔ _
    rw [State.status_issLane_exited hs]
    by_cases hm : m ∈ s.issLanes <;> simp [hm, Lane.live]
  simp [Group.liveLanes, hlive]

/-- Settles O13: a deduction at a barrier changes no lane's status, so the lanes that exit are EXITED and the others stand. -/
theorem exitAndDetachResults : Obligations.ExitAndDetachResults := by
  unfold Obligations.ExitAndDetachResults
  intro s hs
  refine ⟨fun hother => ?some, fun hz hall => ?last, fun hz => ?detach⟩
  case some =>
    obtain ⟨l, hl, hout, hlv⟩ := hother
    refine ⟨_, exec_exit s, ?_⟩
    by_cases hz : s.issue.lanes = 0
    · have hnone : s.issLanes = [] := by simp [State.issLanes, hz]
      simp [State.orFault, hz, hnone, State.laneIn, State.issLane, State.issGroup, State.issTeam, State.issCore, State.group, State.team]
    · have hne : s.exited.issGroup.liveLanes.isEmpty = false := by
        rw [List.isEmpty_eq_false_iff_exists_mem]
        exact ⟨l, (State.mem_liveLanes_exited hs l).2 ⟨hl, hout, hlv⟩⟩
      rw [State.orFault_pass hz rfl, hne]
      have hstatus := State.status_issLane_exited hs
      exact ⟨fun m hm => (hstatus m).trans (if_pos hm), fun m hm => (hstatus m).trans (if_neg hm)⟩
  case last =>
    have hempty : s.exited.issGroup.liveLanes.isEmpty = true := by
      rw [List.isEmpty_iff, List.eq_nil_iff_forall_not_mem]
      intro m hm
      obtain ⟨hm32, hout, hlv⟩ := (State.mem_liveLanes_exited hs m).1 hm
      exact hout (hall m hm32 hlv)
    refine ⟨_, exec_exit s, ?_⟩
    rw [State.orFault_pass hz rfl, hempty]
    exact State.endGroup_gone _ _ _ _
  case detach =>
    refine ⟨_, rfl, ?_⟩
    rw [State.orFault_pass hz rfl]
    exact State.endGroup_gone _ _ _ _

/-! ## Prefixes -/

/-- A prefix that is accepted is recorded, and the cursor moves on. -/
theorem State.prefixed_of_accepted {s : State} (hz : s.issue.lanes ≠ 0) {kind : Nat} {takes : Word → Bool}
    (h : pxAccepted kind takes s.issue.line = true) (f : Issue → Issue) :
    s.prefixed kind takes f = { s with issue := f { s.issue with p := s.issue.p + 1, line := s.issue.line.drop 1 } } := by
  rw [State.prefixed, State.orFault_pass hz (by rw [h]; rfl)]

/-- Settles O14. -/
theorem prefixResults : Obligations.PrefixResults := by
  unfold Obligations.PrefixResults
  intro s lit o sc twc hz next
  exact ⟨fun h => congrArg Host.Outcome.next (State.prefixed_of_accepted hz h _),
    fun h => congrArg Host.Outcome.next (State.prefixed_of_accepted hz h _),
    fun h => congrArg Host.Outcome.next (State.prefixed_of_accepted hz h _)⟩

end Sys2Proof.Machine
end

section
/-! SUPPORT. What the homes, the page walk and the L1 structures change (Home): device and host memory, the L2 and the L1s,
counts, streams, messages and the agenda. Cores, teams, names, the issue and the fabric stay, and the memories stay canonical. -/

namespace Sys2Proof.Machine

set_option Elab.async false

/-! ## Canonical memories -/

/-- With the memories as they were, canonical memories stay so. -/
theorem State.MemWf.of_same {s t : State} (h : s.MemWf) (hcells : t.mem.cells = s.mem.cells) (hhost : t.mem.host = s.mem.host)
    (hpeers : t.mem.peers = s.mem.peers) (hcores : t.cores = s.cores) : t.MemWf := by
  obtain ⟨hc, hh, hp, hk⟩ := h
  exact ⟨hcells ▸ hc, hhost ▸ hh, hpeers ▸ hp, hcores ▸ hk⟩

/-- A write of device memory alone. -/
theorem State.MemWf.of_cells {s t : State} (h : s.MemWf) (hcells : t.mem.cells.wf = true) (hhost : t.mem.host = s.mem.host)
    (hpeers : t.mem.peers = s.mem.peers) (hcores : t.cores = s.cores) : t.MemWf := by
  obtain ⟨-, hh, hp, hk⟩ := h
  exact ⟨hcells, hhost ▸ hh, hpeers ▸ hp, hcores ▸ hk⟩

/-- Bytes set one after the other keep the canonical form. -/
theorem wf_foldl_memSet {α : Type} {f : Memory → α → Memory} (hf : ∀ m x, m.wf = true → (f m x).wf = true) (ls : List α) {m : Memory}
    (h : m.wf = true) : (ls.foldl f m).wf = true := by
  induction ls generalizing m with
  | nil => exact h
  | cons x ls ih => exact ih (hf m x h)

/-- A fold keeps what each of its steps keeps. -/
theorem foldl_keeps {α β γ : Type} {p : β → γ} {f : β → α → β} (hf : ∀ s x, p (f s x) = p s) (ls : List α) (s : β) :
    p (ls.foldl f s) = p s := by
  induction ls generalizing s with
  | nil => rfl
  | cons x ls ih => exact (ih _).trans (hf s x)

/-! ## The frame -/

/-- The counts of memory errors, of sweeps and of the host link's errors. -/
def Mgmt.withCounts (m n : Mgmt) : Mgmt :=
  { m with ceNear := n.ceNear, ceFar := n.ceFar, ceExp := n.ceExp, ceCore := n.ceCore, ceL2 := n.ceL2,
           ueUnowned := n.ueUnowned, hlErr := n.hlErr, sweeps := n.sweeps }

/-- A cluster without what its walker and its shared TLB keep. -/
def Cluster.walkless (k : Cluster) : Cluster := { k with tlb := [], ptrs := [] }

/-- A grid without its counts of lost data. -/
def Grid.lossless (g : Grid) : Grid :=
  { g with loss := 0, stream := g.stream.map fun q => { q with dataLoss := 0, tagFail := 0 } }

/-- A context without the counts of its errors. -/
def Ctx.uncounted (k : Ctx) : Ctx :=
  { k with dataLoss := 0, ptFormat := 0, last := 0, frameLost := 0, complLost := 0, kills := 0, dtraps := 0, tagFails := 0 }

/-- t with what the homes change as it is in s, but for clusters, grids and live contexts. -/
def State.withHome (t s : State) : State :=
  { t with mem := s.mem, l1 := s.l1, agenda := s.agenda
           mgmt := t.mgmt.withCounts s.mgmt
           trust := { t.trust with ide := s.trust.ide }
           link := { t.link with pending := s.link.pending, sent := s.link.sent } }

/-- t differs from s in what the homes change, and its memories are canonical where those of s are. -/
structure State.AtHome (s t : State) : Prop where
  rest    : { t.withHome s with clusters := s.clusters, sched := { t.sched with grids := s.sched.grids },
                                ctxs := { t.ctxs with live := s.ctxs.live } } = s
  cluster : ∀ c, (t.cluster c).walkless = (s.cluster c).walkless
  grids   : tblMap (fun _ => Grid.lossless) t.sched.grids = tblMap (fun _ => Grid.lossless) s.sched.grids
  live    : ∀ c, (tblFind t.ctxs.live c).map Ctx.uncounted = (tblFind s.ctxs.live c).map Ctx.uncounted
  wf      : s.MemWf → t.MemWf

namespace State.AtHome
variable {s t u : State}

theorem refl (s : State) : s.AtHome s := ⟨rfl, fun _ => rfl, rfl, fun _ => rfl, id⟩

theorem cores (h : s.AtHome t) : t.cores = s.cores := (congrArg State.cores h.rest :)
theorem issue (h : s.AtHome t) : t.issue = s.issue := (congrArg State.issue h.rest :)
theorem fresh (h : s.AtHome t) : t.fresh = s.fresh := (congrArg State.fresh h.rest :)
theorem stamp (h : s.AtHome t) : t.stamp = s.stamp := (congrArg State.stamp h.rest :)
theorem ns (h : s.AtHome t) : t.ns = s.ns := (congrArg State.ns h.rest :)
theorem regions (h : s.AtHome t) : t.regions = s.regions := (congrArg State.regions h.rest :)
theorem fabric (h : s.AtHome t) : t.fabric = s.fabric := (congrArg State.fabric h.rest :)
theorem power (h : s.AtHome t) : t.power = s.power := (congrArg State.power h.rest :)
theorem wear (h : s.AtHome t) : t.wear = s.wear := (congrArg State.wear h.rest :)
theorem sched (h : s.AtHome t) : { t.sched with grids := s.sched.grids } = s.sched := (congrArg State.sched h.rest :)
theorem ctxs (h : s.AtHome t) : { t.ctxs with live := s.ctxs.live } = s.ctxs := (congrArg State.ctxs h.rest :)
theorem mgmt (h : s.AtHome t) : t.mgmt.withCounts s.mgmt = s.mgmt := (congrArg State.mgmt h.rest :)
theorem trust (h : s.AtHome t) : { t.trust with ide := s.trust.ide } = s.trust := (congrArg State.trust h.rest :)
theorem link (h : s.AtHome t) : { t.link with pending := s.link.pending, sent := s.link.sent } = s.link :=
  (congrArg State.link h.rest :)

theorem core (h : s.AtHome t) (c : Nat) : t.core c = s.core c := by rw [State.core, h.cores]; rfl

theorem trans (h : s.AtHome t) (h' : t.AtHome u) : s.AtHome u := by
  have hsched : { u.sched with grids := s.sched.grids } = s.sched :=
    (congrArg (fun x : Sched => { x with grids := s.sched.grids }) h'.sched :).trans h.sched
  have hctxs : { u.ctxs with live := s.ctxs.live } = s.ctxs :=
    (congrArg (fun x : Ctxs => { x with live := s.ctxs.live }) h'.ctxs :).trans h.ctxs
  have hmgmt : u.mgmt.withCounts s.mgmt = s.mgmt := (congrArg (fun x : Mgmt => x.withCounts s.mgmt) h'.mgmt :).trans h.mgmt
  have htrust : { u.trust with ide := s.trust.ide } = s.trust :=
    (congrArg (fun x : Trust => { x with ide := s.trust.ide }) h'.trust :).trans h.trust
  have hlink : { u.link with pending := s.link.pending, sent := s.link.sent } = s.link :=
    (congrArg (fun x : Link => { x with pending := s.link.pending, sent := s.link.sent }) h'.link :).trans h.link
  refine ⟨?_, fun c => (h'.cluster c).trans (h.cluster c), h'.grids.trans h.grids,
    fun c => (h'.live c).trans (h.live c), h'.wf ∘ h.wf⟩
  rw [State.withHome, hsched, hctxs, hmgmt, htrust, hlink, h'.cores, h.cores, h'.issue, h.issue, h'.fresh, h.fresh, h'.stamp,
    h.stamp, h'.ns, h.ns, h'.regions, h.regions, h'.fabric, h.fabric, h'.power, h.power, h'.wear, h.wear]

theorem after (h' : t.AtHome u) (h : s.AtHome t) : s.AtHome u := h.trans h'

/-- Clusters, grids and live contexts are as they were. -/
theorem of_withHome (hrest : t.withHome s = s) (hwf : s.MemWf → t.MemWf) : s.AtHome t := by
  have hclusters : t.clusters = s.clusters := (congrArg State.clusters hrest :)
  have hsched : t.sched = s.sched := (congrArg State.sched hrest :)
  have hctxs : t.ctxs = s.ctxs := (congrArg State.ctxs hrest :)
  exact ⟨by rw [hrest, hsched, hctxs], fun c => by rw [State.cluster, hclusters]; rfl, by rw [hsched], fun c => by rw [hctxs], hwf⟩

/-- A change of counts, streams, caches or messages alone. -/
theorem of_counts (hrest : t.withHome s = s) (hcells : t.mem.cells = s.mem.cells)
    (hhost : t.mem.host = s.mem.host) (hpeers : t.mem.peers = s.mem.peers) : s.AtHome t :=
  of_withHome hrest fun h => h.of_same hcells hhost hpeers (congrArg State.cores hrest :)

/-- A change of device memory among others. -/
theorem of_cells (hrest : t.withHome s = s)
    (hcells : s.mem.cells.wf = true → t.mem.cells.wf = true)
    (hhost : t.mem.host = s.mem.host) (hpeers : t.mem.peers = s.mem.peers) : s.AtHome t :=
  of_withHome hrest fun h => h.of_cells (hcells h.1) hhost hpeers (congrArg State.cores hrest :)

theorem foldl {α : Type} {f : State → α → State} (hf : ∀ (s : State) x, s.AtHome (f s x)) (ls : List α) (s : State) :
    s.AtHome (ls.foldl f s) := by
  induction ls generalizing s with
  | nil => exact refl s
  | cons x ls ih => exact (hf s x).trans (ih _)

theorem ite {p : Prop} [Decidable p] (ht : s.AtHome t) (hu : s.AtHome u) : s.AtHome (if p then t else u) := by
  split <;> assumption

end State.AtHome

/-- A change of the memory devices and the caches before them, which keeps host memory and the peers' windows. -/
theorem State.atHome_mem (s : State) (m : Mem) (hcells : s.mem.cells.wf = true → m.cells.wf = true)
    (hhost : m.host = s.mem.host) (hpeers : m.peers = s.mem.peers) : s.AtHome { s with mem := m } :=
  .of_cells rfl hcells hhost hpeers

/-! ## Messages, sweeps and counts -/

theorem State.atHome_send (s : State) (o : Out) : s.AtHome (s.send o) := .of_counts rfl rfl rfl rfl

theorem State.atHome_msi (s : State) (v : Nat) : s.AtHome (s.msi v) := by
  unfold State.msi
  exact .ite (.ite (.refl s) (.of_counts rfl rfl rfl rfl)) (s.atHome_send _)

theorem State.atHome_updL1 (s : State) (id : Nat) (f : L1 → L1) : s.AtHome (s.updL1 id f) := .of_counts rfl rfl rfl rfl

/-- A change of what a cluster's walker and its shared TLB keep. -/
theorem State.atHome_updCluster (s : State) (c : Nat) {f : Cluster → Cluster} (hf : ∀ k, (f k).walkless = k.walkless) :
    s.AtHome (s.updCluster c f) where
  rest := rfl
  cluster d := by
    by_cases hd : d = c
    · subst hd
      exact (congrArg Cluster.walkless (tblGet_tblUpd_same _ _ _ _)).trans (hf _)
    · exact congrArg Cluster.walkless (tblGet_tblUpd_ne _ _ _ hd)
  grids := rfl
  live _ := rfl
  wf := id

theorem State.atHome_updStream (s : State) (i : Nat) (f : Ide → Ide) : s.AtHome (s.updStream i f) := .of_counts rfl rfl rfl rfl

/-- A change of the counts of a context alone. -/
theorem State.atHome_updCtx (s : State) (c : Nat) {f : Ctx → Ctx} (hf : ∀ k, (f k).uncounted = k.uncounted) :
    s.AtHome (s.updCtx c f) := by
  unfold State.updCtx
  split
  · next k hk =>
    refine ⟨rfl, fun _ => rfl, rfl, fun d => ?_, id⟩
    by_cases hd : d = c
    · subst hd
      exact (congrArg (Option.map _) (tblFind_tblSet_same _ _ _)).trans ((congrArg some (hf k)).trans (congrArg (Option.map _) hk.symm))
    · exact congrArg (Option.map _) (tblFind_tblSet_ne _ _ hd)
  · exact .refl s

theorem State.atHome_sweepPage (s : State) (page : Nat) : s.AtHome (s.sweepPage page) :=
  .of_cells rfl (fun h => wf_memErase h _ _) rfl rfl

theorem State.atHome_sweepAt (s : State) (pa : Nat) : s.AtHome (s.sweepAt pa) := .ite (s.atHome_sweepPage _) (.refl s)

theorem State.atHome_rawWrite (s : State) (pa : Nat) (bs : List Byte) : s.AtHome (s.rawWrite pa bs) :=
  (s.atHome_sweepAt pa).trans (State.atHome_mem _ _ (fun h => wf_memWrite h _ _) rfl rfl)

theorem State.atHome_countCtx (s : State) (c : Nat) {f : Ctx → Ctx} (hf : ∀ k, (f k).uncounted = k.uncounted) :
    s.AtHome (s.countCtx c f) := by
  unfold State.countCtx
  split
  · exact (s.atHome_updCtx c hf).trans (State.atHome_rawWrite _ _ _)
  · exact .refl s

theorem Grid.lossless_markLoss (g : Grid) : g.markLoss.lossless = g.lossless := by
  rw [Grid.lossless, Grid.lossless, Grid.markLoss]
  cases g.stream <;> rfl

/-- The grids of a context count a loss. -/
theorem State.atHome_markLoss (s : State) (c : Nat) :
    s.AtHome { s with sched := { s.sched with grids := tblMap (fun _ g => if g.ctx = c then g.markLoss else g) s.sched.grids } } where
  rest := rfl
  cluster _ := rfl
  grids := (tblMap_tblMap _ _ _).trans (tblMap_congr (fun _ g => by
    split
    · exact g.lossless_markLoss
    · rfl) _)
  live _ := rfl
  wf := id

theorem State.atHome_chargeLoss (s : State) (who : Charge) (die : Nat) : s.AtHome (s.chargeLoss who die) := by
  cases who with
  | ctx c => exact (s.atHome_countCtx c (by exact fun _ => rfl)).trans (State.atHome_markLoss _ c)
  | unowned => exact .ite (.refl s) (.after (State.atHome_msi _ _) (.of_counts rfl rfl rfl rfl))

/-! ## Streams -/

theorem State.atHome_useVector (s : State) (i : Nat) : s.AtHome (s.useVector i) := by
  have hwarn : ∀ (s : State) (b : Bool), s.AtHome (if b then s.msi 82 else s) := fun s b => .ite (s.atHome_msi _) (.refl s)
  have hstall : ∀ (s : State) (n : Nat), s.AtHome (if n = 2 ^ 32 - 1 then s.msi 82 else s) := fun s n =>
    .ite (s.atHome_msi _) (.refl s)
  exact ((s.atHome_updStream i _).trans (hwarn _ _)).trans (hstall _ _)

theorem State.atHome_ideSend (s : State) (i : Option Nat) : s.AtHome (s.ideSend i) := by
  cases i with
  | none => exact .refl s
  | some i => exact .ite (.refl s) (.ite (s.atHome_updStream _ _) (s.atHome_useVector i))

/-! ## Errors and the L2 -/

theorem State.atHome_countCorrectable (s : State) (pa : Nat) : s.AtHome (s.countCorrectable pa) := by
  unfold State.countCorrectable
  split
  · exact .of_counts rfl rfl rfl rfl
  · exact .of_counts rfl rfl rfl rfl
  · exact .of_counts rfl rfl rfl rfl
  · exact .refl s

theorem State.atHome_zeroSector (s : State) (m : Mem) (k : Nat) (hm : m.host = s.mem.host) (hp : m.peers = s.mem.peers)
    (hc : m.cells = s.mem.cells) : s.AtHome { s with mem := m.zeroSector k } := by
  unfold Mem.zeroSector
  split
  · exact .of_cells rfl (fun h => wf_memErase (hc ▸ h) _ _) hm hp
  · exact .of_counts rfl hc hm hp

theorem State.atHome_findError (s : State) (who : Charge) (k : Nat) : s.AtHome (s.findError who k) := by
  unfold State.findError
  split
  · exact .refl s
  · split
    · exact .refl s
    · exact .after (State.atHome_countCorrectable _ _) (.of_counts rfl rfl rfl rfl)
    · exact (s.atHome_zeroSector { s.mem with latent := tblDel s.mem.latent k } k rfl rfl rfl).trans
        (State.atHome_chargeLoss _ _ _)

theorem State.atHome_countL2 (s : State) (pa : Nat) : s.AtHome (s.countL2 pa) := .of_counts rfl rfl rfl rfl

theorem State.atHome_findL2 (s : State) (who : Charge) (k : Nat) : s.AtHome (s.findL2 who k) := by
  unfold State.findL2
  split
  · exact .refl s
  · dsimp only
    split
    · exact .refl s
    · exact .after (State.atHome_countL2 _ _) (.of_counts rfl rfl rfl rfl)
    · exact .after (State.atHome_chargeLoss _ _ _) (.of_cells rfl (fun h => wf_memErase h _ _) rfl rfl)

theorem State.atHome_uncover (s : State) (k : Nat) (under : Option (List Byte)) : s.AtHome (s.uncover k under) := by
  cases under with
  | none => exact .refl s
  | some bs => exact .of_cells rfl (fun h => wf_memWrite h _ _) rfl rfl

theorem State.atHome_l2Back (s : State) (k : Nat) (x : L2Sector) : s.AtHome (s.l2Back k x) :=
  (s.atHome_findL2 x.owner k).trans (.ite ((State.atHome_uncover _ _ _).trans (State.atHome_chargeLoss _ _ _))
    ((State.atHome_ideSend _ _).trans (State.atHome_mem _ _ id rfl rfl)))

theorem State.atHome_l2Drop (s : State) (k : Nat) : s.AtHome (s.l2Drop k) := by
  unfold State.l2Drop
  split
  · exact .refl s
  · exact .trans (.ite (s.atHome_l2Back _ _) (s.atHome_uncover _ _)) (State.atHome_mem _ _ id rfl rfl)

theorem State.atHome_l2Evict (s : State) (line : Nat) : s.AtHome (s.l2Evict line) :=
  (State.AtHome.foldl (fun s i => s.atHome_l2Drop (4 * line + i)) _ s).trans (State.atHome_mem _ _ id rfl rfl)

theorem State.atHome_l2Alloc (s : State) (low : Bool) (k : Nat) : s.AtHome (s.l2Alloc low k) := by
  have hevict : ∀ (old : Option Nat) (fresh : Bool), s.AtHome (match old with
      | some old => if fresh then s.l2Evict old else s
      | none => s) := fun old fresh => by
    cases old with
    | none => exact .refl s
    | some old => exact .ite (s.atHome_l2Evict old) (.refl s)
  exact (hevict _ _).trans (State.atHome_mem _ _ id rfl rfl)

theorem State.atHome_l2Read (s : State) (who : Charge) (ch k : Nat) : s.AtHome (s.l2Read who ch k) := by
  unfold State.l2Read
  split
  · exact (s.atHome_findL2 who k).trans (State.atHome_l2Alloc _ _ _)
  · exact ((s.atHome_ideSend _).trans (State.atHome_findError _ who k)).trans
      (.ite (.refl _) ((State.atHome_l2Alloc _ (ch == 1) k).trans (State.atHome_mem _ _ id rfl rfl)))

theorem State.atHome_l2Ready (s : State) (who : Charge) (ch : Nat) (whole : Bool) (k : Nat) :
    s.AtHome (s.l2Ready who ch whole k) :=
  State.AtHome.trans (.ite (.refl s) (.ite (s.atHome_findL2 who k) ((s.atHome_ideSend _).trans (State.atHome_findError _ who k))))
    (State.atHome_l2Alloc _ _ _)

theorem State.atHome_l2Write (s : State) (who : Charge) (ch : Nat) (whole : Bool) (k : Nat) :
    s.AtHome (s.l2Write who ch whole k) :=
  (s.atHome_l2Ready who ch whole k).trans (State.atHome_mem _ _ id rfl rfl)

theorem State.atHome_l2Clear (s : State) : s.AtHome s.l2Clear :=
  (State.AtHome.foldl (fun s k => s.atHome_l2Drop k) _ s).trans (State.atHome_mem _ _ id rfl rfl)

/-! ## What reaches H keeps the L1 structures -/

theorem State.l1_msi (s : State) (v : Nat) : (s.msi v).l1 = s.l1 := by
  unfold State.msi
  split
  · split <;> rfl
  · rfl

theorem State.l1_sweepAt (s : State) (pa : Nat) : (s.sweepAt pa).l1 = s.l1 := by
  unfold State.sweepAt
  split <;> rfl

theorem State.l1_updCtx (s : State) (c : Nat) (f : Ctx → Ctx) : (s.updCtx c f).l1 = s.l1 := by
  unfold State.updCtx
  split <;> rfl

theorem State.l1_countCtx (s : State) (c : Nat) (f : Ctx → Ctx) : (s.countCtx c f).l1 = s.l1 := by
  unfold State.countCtx
  split
  · exact (State.l1_sweepAt _ _).trans (s.l1_updCtx c f)
  · rfl

theorem State.l1_chargeLoss (s : State) (who : Charge) (die : Nat) : (s.chargeLoss who die).l1 = s.l1 := by
  cases who with
  | ctx c => exact s.l1_countCtx c _
  | unowned =>
    unfold State.chargeLoss
    dsimp only
    split
    · rfl
    · exact State.l1_msi _ _

theorem State.l1_useVector (s : State) (i : Nat) : (s.useVector i).l1 = s.l1 := by
  have hmsi : ∀ (s : State) (p : Prop) [Decidable p], (if p then s.msi 82 else s).l1 = s.l1 := fun s p _ => by
    split
    · exact s.l1_msi _
    · rfl
  exact (hmsi _ _).trans (hmsi _ _)

theorem State.l1_ideSend (s : State) (i : Option Nat) : (s.ideSend i).l1 = s.l1 := by
  cases i with
  | none => rfl
  | some i =>
    unfold State.ideSend
    dsimp only
    split
    · rfl
    · split
      · rfl
      · exact s.l1_useVector i

theorem State.l1_countCorrectable (s : State) (pa : Nat) : (s.countCorrectable pa).l1 = s.l1 := by
  unfold State.countCorrectable
  split <;> rfl

theorem State.l1_findError (s : State) (who : Charge) (k : Nat) : (s.findError who k).l1 = s.l1 := by
  unfold State.findError
  split
  · rfl
  · split
    · rfl
    · exact State.l1_countCorrectable _ _
    · exact State.l1_chargeLoss _ _ _

theorem State.l1_findL2 (s : State) (who : Charge) (k : Nat) : (s.findL2 who k).l1 = s.l1 := by
  unfold State.findL2
  split
  · rfl
  · dsimp only
    split
    · rfl
    · rfl
    · exact State.l1_chargeLoss _ _ _

theorem State.l1_uncover (s : State) (k : Nat) (under : Option (List Byte)) : (s.uncover k under).l1 = s.l1 := by
  cases under <;> rfl

theorem State.l1_l2Back (s : State) (k : Nat) (x : L2Sector) : (s.l2Back k x).l1 = s.l1 := by
  unfold State.l2Back
  dsimp only
  split
  · exact (State.l1_chargeLoss _ _ _).trans ((State.l1_uncover _ _ _).trans (s.l1_findL2 _ _))
  · exact (State.l1_ideSend _ _).trans (s.l1_findL2 _ _)

theorem State.l1_l2Drop (s : State) (k : Nat) : (s.l2Drop k).l1 = s.l1 := by
  unfold State.l2Drop
  split
  · rfl
  · dsimp only
    split
    · exact s.l1_l2Back _ _
    · exact s.l1_uncover _ _

theorem State.l1_l2Evict (s : State) (line : Nat) : (s.l2Evict line).l1 = s.l1 :=
  foldl_keeps (p := State.l1) (by exact fun s i => s.l1_l2Drop (4 * line + i)) _ s

theorem State.l1_l2Alloc (s : State) (low : Bool) (k : Nat) : (s.l2Alloc low k).l1 = s.l1 := by
  have hevict : ∀ (old : Option Nat) (fresh : Bool), (match old with
      | some old => if fresh then s.l2Evict old else s
      | none => s).l1 = s.l1 := fun old fresh => by
    cases old with
    | none => rfl
    | some old =>
      dsimp only
      split
      · exact s.l1_l2Evict old
      · rfl
  exact hevict _ _

theorem State.l1_l2Read (s : State) (who : Charge) (ch k : Nat) : (s.l2Read who ch k).l1 = s.l1 := by
  unfold State.l2Read
  split
  · exact (State.l1_l2Alloc _ _ _).trans (s.l1_findL2 who k)
  · have hfind := (State.l1_findError (s.ideSend (s.expIde (k * 64))) who k).trans (s.l1_ideSend _)
    dsimp only
    split
    · exact hfind
    · exact (State.l1_l2Alloc _ (ch == 1) k).trans hfind

theorem State.l1_l2Ready (s : State) (who : Charge) (ch : Nat) (whole : Bool) (k : Nat) :
    (s.l2Ready who ch whole k).l1 = s.l1 := by
  refine (State.l1_l2Alloc _ _ _).trans ?_
  split
  · rfl
  · split
    · exact s.l1_findL2 who k
    · exact (State.l1_findError _ _ _).trans (s.l1_ideSend _)

theorem State.l1_l2Write (s : State) (who : Charge) (ch : Nat) (whole : Bool) (k : Nat) :
    (s.l2Write who ch whole k).l1 = s.l1 := s.l1_l2Ready who ch whole k

/-- t differs from s in what the homes change, and the L1 structures are as they were. -/
structure State.AtH (s t : State) : Prop where
  home : s.AtHome t
  l1   : t.l1 = s.l1

namespace State.AtH
variable {s t u : State}

theorem refl (s : State) : s.AtH s := ⟨.refl s, rfl⟩
theorem trans (h : s.AtH t) (h' : t.AtH u) : s.AtH u := ⟨h.home.trans h'.home, h'.l1.trans h.l1⟩
theorem after (h' : t.AtH u) (h : s.AtH t) : s.AtH u := h.trans h'

theorem ite {p : Prop} [Decidable p] (ht : s.AtH t) (hu : s.AtH u) : s.AtH (if p then t else u) := by
  split <;> assumption

theorem foldl {α : Type} {f : State → α → State} (hf : ∀ (s : State) x, s.AtH (f s x)) (ls : List α) (s : State) :
    s.AtH (ls.foldl f s) := by
  induction ls generalizing s with
  | nil => exact refl s
  | cons x ls ih => exact (hf s x).trans (ih _)

end State.AtH

theorem State.atH_mem (s : State) (m : Mem) (hcells : s.mem.cells.wf = true → m.cells.wf = true)
    (hhost : m.host = s.mem.host) (hpeers : m.peers = s.mem.peers) : s.AtH { s with mem := m } :=
  ⟨s.atHome_mem m hcells hhost hpeers, rfl⟩

theorem State.atH_countCtx (s : State) (c : Nat) {f : Ctx → Ctx} (hf : ∀ k, (f k).uncounted = k.uncounted) :
    s.AtH (s.countCtx c f) := ⟨s.atHome_countCtx c hf, s.l1_countCtx c f⟩

theorem State.atH_chargeLoss (s : State) (who : Charge) (die : Nat) : s.AtH (s.chargeLoss who die) :=
  ⟨s.atHome_chargeLoss who die, s.l1_chargeLoss who die⟩

theorem State.atH_sweepAt (s : State) (pa : Nat) : s.AtH (s.sweepAt pa) := ⟨s.atHome_sweepAt pa, s.l1_sweepAt pa⟩

theorem State.atH_ideSend (s : State) (i : Option Nat) : s.AtH (s.ideSend i) := ⟨s.atHome_ideSend i, s.l1_ideSend i⟩

theorem State.atH_l2Read (s : State) (who : Charge) (ch k : Nat) : s.AtH (s.l2Read who ch k) :=
  ⟨s.atHome_l2Read who ch k, s.l1_l2Read who ch k⟩

theorem State.atH_l2Write (s : State) (who : Charge) (ch : Nat) (whole : Bool) (k : Nat) : s.AtH (s.l2Write who ch whole k) :=
  ⟨s.atHome_l2Write who ch whole k, s.l1_l2Write who ch whole k⟩

theorem State.atH_updCluster (s : State) (c : Nat) {f : Cluster → Cluster} (hf : ∀ k, (f k).walkless = k.walkless) :
    s.AtH (s.updCluster c f) := ⟨s.atHome_updCluster c hf, rfl⟩

/-! ## Reads and writes at H and at the host -/

theorem State.atH_hRead (s : State) (who : Charge) (ch pa n : Nat) : s.AtH (s.hRead who ch pa n).1 := by
  have hfold := State.AtH.foldl (f := fun t k => if ((sectorsOf pa n).filter s.expLost).contains k then t else t.l2Read who ch k)
    (fun t k => .ite (.refl t) (t.atH_l2Read who ch k)) (sectorsOf pa n) s
  unfold State.hRead
  dsimp only
  split
  · exact hfold
  · exact hfold.trans (State.atH_chargeLoss _ _ _)

/-- Bytes put at H, but for those of the sectors that a failed stream loses. -/
theorem State.atH_putBytes (s : State) (who : Charge) (pa : Nat) (bs : List Byte) (lost : List Nat) :
    s.AtH (if lost.isEmpty then { s with mem := { s.mem with cells := memWrite s.mem.cells pa bs } }
      else
        let put := fun (m : Memory) (b : Byte × Nat) => if lost.contains ((pa + b.2) / 64) then m else memSet m (pa + b.2) b.1
        ({ s with mem := { s.mem with cells := bs.zipIdx.foldl put s.mem.cells } }).chargeLoss who (dieOf pa)) := by
  refine .ite (s.atH_mem _ (fun h => wf_memWrite h _ _) rfl rfl)
    (.after (State.atH_chargeLoss _ _ _) (s.atH_mem _ (fun h => wf_foldl_memSet (fun m b hm => ?_) _ h) rfl rfl))
  split
  · exact hm
  · exact wf_memSet hm _ _

theorem State.atH_hWrite (s : State) (who : Charge) (ch pa : Nat) (bs : List Byte) : s.AtH (s.hWrite who ch pa bs) := by
  have hfold := fun lost : List Nat => State.AtH.foldl
    (f := fun t k => if lost.contains k then t else t.l2Write who ch (wholeSector pa bs.length k) k)
    (fun t k => .ite (.refl t) (t.atH_l2Write who ch _ k)) (sectorsOf pa bs.length) s
  exact (hfold ((sectorsOf pa bs.length).filter fun k => !wholeSector pa bs.length k && s.expLost k)).trans
    (State.atH_putBytes _ who pa bs _)

theorem State.atH_hWriteSweep (s : State) (who : Charge) (pa : Nat) (bs : List Byte) : s.AtH (s.hWriteSweep who pa bs) :=
  ((s.atH_sweepAt pa).trans (State.atH_sweepAt _ _)).trans (State.atH_hWrite _ who 0 pa bs)

theorem State.atH_hostError (s : State) (who : Charge) : s.AtH (s.hostError who) :=
  .after (State.atH_chargeLoss _ _ _) (⟨.of_counts rfl rfl rfl rfl, rfl⟩)

theorem State.atH_hostRead (s : State) (who : Charge) (a n : Nat) : s.AtH (s.hostRead who a n).1 := by
  unfold State.hostRead
  split
  · exact s.atH_chargeLoss who 0
  · dsimp only
    split
    · exact s.atH_ideSend _
    · exact (s.atH_ideSend _).trans (State.atH_hostError _ _)

/-- A write of host memory. -/
theorem State.AtHome.of_host {s t : State} (hrest : t.withHome s = s) (hcells : t.mem.cells = s.mem.cells)
    (hhost : s.mem.host.wf = true → t.mem.host.wf = true) (hpeers : t.mem.peers = s.mem.peers) : s.AtHome t := by
  refine .of_withHome hrest (fun ⟨hc, hh, hp, hk⟩ => ⟨hcells ▸ hc, hhost hh, hpeers ▸ hp, ?_⟩)
  have hcores : t.cores = s.cores := (congrArg State.cores hrest :)
  rwa [hcores]

theorem State.atH_hostBytes (s : State) (a : Nat) (bs : List Byte) :
    s.AtH { s with mem := { s.mem with host := memWrite s.mem.host a bs } } :=
  ⟨.of_host rfl rfl (fun h => wf_memWrite h _ _) rfl, rfl⟩

theorem State.atH_hostWrite (s : State) (who : Charge) (a : Nat) (bs : List Byte) : s.AtH (s.hostWrite who a bs) :=
  .ite (s.atH_chargeLoss who 0) ((s.atH_ideSend _).trans
    (.ite (State.atH_hostBytes _ a bs) (State.atH_hostError _ _)))

theorem State.atH_hostAsk (s : State) (who : Charge) (a n : Nat) : s.AtH (s.hostAsk who a n).1 := by
  unfold State.hostAsk
  split
  · exact s.atH_hostError who
  · exact s.atH_hostRead who a n

theorem State.atH_hostPut (s : State) (who : Charge) (a : Nat) (bs : List Byte) : s.AtH (s.hostPut who a bs) :=
  .ite (s.atH_hostError who) (s.atH_hostWrite who a bs)

/-! ## The page walk -/

theorem State.atH_readPte (s : State) (who : Charge) (a : Nat) : s.AtH (s.readPte who a).1 := by
  unfold State.readPte
  split
  · exact s.atH_hRead who 0 a 8
  · exact .refl s

theorem State.atH_malformed (s : State) (ctx : Nat) : s.AtH (s.malformed ctx) :=
  s.atH_countCtx ctx fun _ => rfl

theorem State.leafAt_state (s : State) (ctx va e : Nat) (big : Bool) (level : Nat) : (s.leafAt ctx va e big level).1 = s := by
  unfold State.leafAt
  dsimp only
  split <;> rfl

theorem State.atH_walkC (s : State) (who : Charge) (ctx table va : Nat) : s.AtH (s.walkC who ctx table va).1 := by
  have hread := s.atH_readPte who (table + 8 * (va / 65536 % 2 ^ 13))
  unfold State.walkC
  split
  · next h => rw [h] at hread; exact hread
  · next h =>
    rw [h] at hread
    split
    · exact hread
    · split
      · exact hread.trans (State.atH_malformed _ _)
      · rw [State.leafAt_state]; exact hread

/-- What the walker does with a pointer entry keeps the frame. -/
theorem State.atH_walkB {keep : State → Ptr → State} (hkeep : ∀ (s : State) p, s.AtH (keep s p)) (s : State) (who : Charge)
    (ctx table va : Nat) : s.AtH (State.walkB keep s who ctx table va).1 := by
  have hread := s.atH_readPte who (table + 8 * (va / 2 ^ 29 % 2 ^ 13))
  unfold State.walkB
  split
  · next h => rw [h] at hread; exact hread
  · next h =>
    rw [h] at hread
    split
    · exact hread
    · split
      · rw [State.leafAt_state]; exact hread
      · exact (hread.trans (hkeep _ _)).trans (State.atH_walkC _ _ _ _ _)

theorem State.atH_walkA {keep : State → Ptr → State} (hkeep : ∀ (s : State) p, s.AtH (keep s p)) (s : State) (who : Charge)
    (ctx root va : Nat) : s.AtH (State.walkA keep s who ctx root va).1 := by
  have hread := s.atH_readPte who (root + 8 * (va / 2 ^ 42 % 2 ^ 15))
  unfold State.walkA
  split
  · next h => rw [h] at hread; exact hread
  · next h =>
    rw [h] at hread
    split
    · exact hread
    · split
      · exact hread.trans (State.atH_malformed _ _)
      · exact (hread.trans (hkeep _ _)).trans (State.atH_walkB hkeep _ _ _ _ _)

theorem State.atH_walk (s : State) (who : Charge) (ctx root va : Nat) : s.AtH (s.walk who ctx root va).1 :=
  State.atH_walkA (fun s _ => .refl s) s who ctx root va

theorem State.atH_keepPtr (cl : Nat) (s : State) (p : Ptr) : s.AtH (State.keepPtr cl s p) :=
  s.atH_updCluster _ fun _ => rfl

theorem State.atH_clusterWalk (s : State) (cl ctx root va : Nat) : s.AtH (s.clusterWalk cl ctx root va).1 := by
  unfold State.clusterWalk
  dsimp only
  split
  · exact s.atH_walkC _ _ _ _
  · split
    · exact State.atH_walkB (State.atH_keepPtr cl) s _ _ _ _
    · exact State.atH_walkA (State.atH_keepPtr cl) s _ _ _ _

theorem State.atH_translate (s : State) (who : Charge) (ctx root va : Nat) (need : Need) :
    s.AtH (s.translate who ctx root va need).1 := by
  have hwalk := s.atH_walk who ctx root va
  unfold State.translate
  split
  · next h => rw [h] at hwalk; exact hwalk
  · next h => rw [h] at hwalk; exact hwalk

theorem State.atH_lookup (s : State) (cl ctx root va : Nat) : s.AtH (s.lookup cl ctx root va).1 := by
  have hwalk := s.atH_clusterWalk cl ctx root va
  unfold State.lookup
  split
  · exact .refl s
  · split
    · next h => rw [h] at hwalk; exact hwalk.trans (State.atH_updCluster _ _ (by exact fun _ => rfl))
    · exact hwalk

/-! ## L1 structures -/

/-- The dirty bytes of a sector put at H. -/
theorem wf_putDirty (x : Sector) (k : Nat) {m : Memory} (h : m.wf = true) :
    ((List.range 64).foldl (fun m i => if x.dm.getLsbD i then memSet m (k * 64 + i) (x.byte i) else m) m).wf = true := by
  refine wf_foldl_memSet (fun m i hm => ?_) _ h
  split
  · exact wf_memSet hm _ _
  · exact hm

theorem State.atH_writeDirty (s : State) (k : Nat) (x : Sector) : s.AtH (s.writeDirty k x) :=
  .ite (.refl s) (.ite (s.atH_chargeLoss _ _)
    (((s.atH_sweepAt _).trans (State.atH_l2Write _ _ _ _ _)).trans (State.atH_mem _ _ (wf_putDirty x k) rfl rfl)))

theorem State.atHome_l1Error (s : State) (id k : Nat) (who : Option Charge) : s.AtHome (s.l1Error id k who) := by
  unfold State.l1Error
  split
  · exact .refl s
  · dsimp only
    split
    · exact .of_counts rfl rfl rfl rfl
    · exact .ite (.of_counts rfl rfl rfl rfl) (.after (State.atHome_chargeLoss _ _ _) (.of_counts rfl rfl rfl rfl))

theorem State.atHome_sflush (s : State) (id k : Nat) : s.AtHome (s.sflush id k) :=
  ((s.atHome_l1Error id k none).trans (State.atH_writeDirty _ _ _).home).trans (State.atHome_updL1 _ _ _)

theorem State.atHome_wbSector (s : State) (id k : Nat) : s.AtHome (s.wbSector id k) :=
  ((s.atHome_l1Error id k none).trans (State.atH_writeDirty _ _ _).home).trans (State.atHome_updL1 _ _ _)

theorem State.atHome_l1WB (s : State) (id : Nat) : s.AtHome (s.l1WB id) :=
  State.AtHome.foldl (fun s k => s.atHome_wbSector id k) _ s

theorem State.atHome_l1INV (s : State) (id : Nat) : s.AtHome (s.l1INV id) := s.atHome_updL1 _ _

theorem State.atHome_l1WBINV (s : State) (id : Nat) : s.AtHome (s.l1WBINV id) := (s.atHome_l1WB id).trans (State.atHome_l1INV _ _)

theorem State.atHome_l1Fill (s : State) (id k : Nat) (who : Charge) (ch : Nat) : s.AtHome (s.l1Fill id k who ch) :=
  (s.atH_hRead who ch (k * 64) 64).home.trans (State.atHome_updL1 _ _ _)

theorem State.atHome_allWBINV (s : State) : s.AtHome s.allWBINV := State.AtHome.foldl (fun s id => s.atHome_l1WBINV id) _ s

theorem State.atHome_evictLine (s : State) (id line : Nat) : s.AtHome (s.evictLine id line) :=
  State.AtHome.foldl (fun s _ => .ite (s.atHome_sflush _ _) (.refl s)) _ s

end Sys2Proof.Machine
end

section
/-! SUPPORT. Waits (O15): a lane that starts to wait, the release of a wait that is over, and the waits on time. -/

namespace Sys2Proof.Machine

set_option Elab.async false

/-! ## Changes of a part of the issuing lanes -/

/-- A change of some of the lanes of a list is a change of the list. -/
theorem Group.mapLanes_eq_of_subset (y : Group) {ls all : List Nat} (hsub : ∀ l ∈ ls, l ∈ all) (f : Nat → Lane → Lane) :
    y.mapLanes ls f = y.mapLanes all fun l x => if ls.contains l then f l x else x := by
  simp only [Group.mapLanes]
  congr 1
  apply tblMap_congr
  intro l x
  by_cases hl : l ∈ ls
  · simp [hl, hsub l hl]
  · simp [hl]

/-- Two changes of the issuing group that are changes of issuing lanes are one. -/
theorem State.updIssGroup_mapLanes_mapLanes (s : State) {a b : List Nat} (ha : ∀ l ∈ a, l ∈ s.issLanes)
    (hb : ∀ l ∈ b, l ∈ s.issLanes) (f f' : Nat → Lane → Lane) :
    (s.updIssGroup fun y => y.mapLanes a f).updIssGroup (fun y => y.mapLanes b f') =
      s.updIssGroup fun y => y.mapLanes s.issLanes fun l x =>
        if b.contains l then f' l (if a.contains l then f l x else x) else if a.contains l then f l x else x := by
  rw [State.updIssGroup_updIssGroup]
  refine congrArg (State.updIssGroup s) (funext fun y => ?_)
  rw [Function.comp_apply, Group.mapLanes_eq_of_subset y ha f, Group.mapLanes_eq_of_subset _ hb f', Group.mapLanes_mapLanes]

theorem State.mem_goLanes {s : State} {flag : FlagSel} {l : Nat} :
    l ∈ s.goLanes flag ↔ l ∈ s.issLanes ∧ (s.issLane l).flagFull flag = false := by simp [State.goLanes]

/-- Among the issuing lanes, those that act on a flag are those whose count is not full. -/
theorem State.goLanes_contains {s : State} {flag : FlagSel} {l : Nat} (hl : l ∈ s.issLanes) :
    (s.goLanes flag).contains l = !(s.issLane l).flagFull flag := by
  rw [Bool.eq_iff_iff]
  simp [State.mem_goLanes, hl]

/-- The lanes that act change as given, and the lanes whose flag is full park. -/
theorem State.parkFull_changes {s : State} (h : s.Issuing) (flag : FlagSel) (f : Nat → Lane → Lane) :
    s.Changes ((s.updIssGroup fun y => y.mapLanes (s.goLanes flag) f).parkFull s flag) fun l x =>
      if x.flagFull flag then x.parkFlag flag else f l x := by
  have hgo : ∀ l ∈ s.goLanes flag, l ∈ s.issLanes := fun l hl => (State.mem_goLanes.1 hl).1
  have hfull : ∀ l ∈ s.issLanes.filter fun l => (s.issLane l).flagFull flag, l ∈ s.issLanes := s.filter_issLanes_subset _
  have hin : ∀ l ∈ s.issLanes, (s.issLanes.filter fun l => (s.issLane l).flagFull flag).contains l = (s.issLane l).flagFull flag :=
    fun l hl => by rw [Bool.eq_iff_iff]; simp [hl]
  have hone : (s.updIssGroup fun y => y.mapLanes (s.goLanes flag) f).parkFull s flag = _ :=
    State.updIssGroup_mapLanes_mapLanes s hgo hfull f _
  rw [hone]
  refine (State.mapLanes_changes h _).congr fun l hl => ?_
  rw [hin l hl, State.goLanes_contains hl]
  cases (s.issLane l).flagFull flag <;> rfl

/-! ## A wait that is settled -/

/-- A group that issues, after a change of its core that keeps the teams. -/
theorem State.Issuing.of_core {s t : State} (h : s.Issuing) (hissue : t.issue = s.issue)
    (hteams : (t.core s.issue.core).teams = s.issCore.teams) : t.Issuing ∧ t.issTeam = s.issTeam := by
  have hteam : t.issTeam = s.issTeam := by
    simp only [State.issTeam, State.issCore, Core.team, hissue, hteams]
  have hgroup : t.issGroup = s.issGroup := by rw [State.issGroup, hteam, hissue]; rfl
  refine ⟨⟨?_, by rw [hteam, hissue]; exact h.group, fun l hl => by rw [hgroup]; exact h.lanes l hl⟩, hteam⟩
  simp only [State.issCore, hissue, hteams]
  exact h.team

/-- The same issue, of a team that differs in its groups at most, which list their lanes. What the waits on batches write back is not
said: `cached` tells whether there are such. -/
structure State.SameWaits (cached : Bool) (s u : State) : Prop where
  issuing : u.Issuing
  issue : u.issue = s.issue
  team  : { u.issTeam with groups := s.issTeam.groups } = s.issTeam
  sched : cached = false → u.sched = s.sched ∧ u.ctxs = s.ctxs

/-- A change of the issuing group that keeps its lanes listed keeps the group issuing. -/
theorem State.issuing_updIssGroup {s : State} (h : s.Issuing) {f : Group → Group}
    (hf : ∀ (y : Group) (l : Nat), (tblFind y.lanes l).isSome → (tblFind (f y).lanes l).isSome) : (s.updIssGroup f).Issuing := by
  have hteam : (s.updIssGroup f).issTeam = s.issTeam.updGroup s.issue.group f := State.team_updIssGroup h _
  have hgroup : (s.updIssGroup f).issGroup = f s.issGroup := State.group_updIssGroup h _
  refine ⟨?_, ?_, fun m hm => by rw [hgroup]; exact hf _ m (h.lanes m hm)⟩
  · have hcore : (s.updIssGroup f).issCore = s.issCore.updTeam s.issue.slot fun t => t.updGroup s.issue.group f :=
      State.core_updCore_same _ _ _
    rw [hcore]
    simpa [Core.updTeam, tblFind_tblAdj_same] using h.team
  · rw [hteam, State.updIssGroup_issue, Team.isSome_updGroup]; exact h.group

theorem State.issuing_updLane {s : State} (h : s.Issuing) (l : Nat) (f : Lane → Lane) :
    (s.updIssGroup fun y => y.updLane l f).Issuing := by
  refine State.issuing_updIssGroup h fun y m hm => ?_
  rw [Group.updLane, Group.setLane]
  by_cases e : m = l
  · subst e; simp
  · simpa [tblFind_tblSet_ne _ _ e] using hm

theorem State.issuing_mapLanes {s : State} (h : s.Issuing) (ls : List Nat) (f : Nat → Lane → Lane) :
    (s.updIssGroup fun y => y.mapLanes ls f).Issuing :=
  State.issuing_updIssGroup h fun y m hm => by simpa [Group.mapLanes] using hm

/-- What a release of a wait of a lane does: its wait is passed where it is over, and every other lane stands. -/
structure State.Released (cached : Bool) (u v : State) (l : Nat) (y : Lane) : Prop where
  same  : u.SameWaits cached v
  lane  : v.issLane l = y
  other : ∀ m, m ≠ l → v.issLane m = u.issLane m

/-- A wait on batches. -/
def WaitOn.isBatches : WaitOn → Bool
  | .batches _ _ => true
  | _ => false

theorem State.SameWaits.refl {u : State} (h : u.Issuing) (cached : Bool) : u.SameWaits cached u :=
  ⟨h, rfl, rfl, fun _ => ⟨rfl, rfl⟩⟩

/-- What is done with the L1 as a wait is passed. -/
def State.flushFor (u : State) (x : Lane) : State :=
  match x.waitOn with
  | .batches _ _ => if x.acquiresCached then u.l1WBINV (u.l1Of u.issue.core) else u
  | _ => u

theorem State.atHome_flushFor (u : State) (x : Lane) : u.AtHome (u.flushFor x) := by
  unfold State.flushFor
  split
  · exact .ite (u.atHome_l1WBINV _) (.refl u)
  · exact .refl u

/-- The lane that passes a wait. -/
def Lane.passing (len : Nat) (z : Lane) : Lane :=
  Lane.wake (match z.waitOn with
    | .batches _ ge => z.acquireBatches ge
    | _ => z) len

theorem Lane.passing_eq (x : Lane) : x.passing x.waitOn.len = x.passed x.waitOn := rfl

/-- The acquire point of a wait that is passed (R125, R129). -/
def State.acquireFor (u : State) (core l : Nat) (t : Team) (uid : Nat) (w : WaitOn) : State :=
  match w.acquire with
  | some sc => u.pushPoint core t.uid (u.grid t.grid).ctx uid l (.acquire sc)
  | none => u

theorem State.settleLive_of_waiting {u : State} {l : Nat} (hw : (u.issLane l).status = .waiting) :
    u.settleLive u.issue.core u.issue.slot u.issue.group l =
      if u.over u.issue.core u.issTeam (u.issLane l) (u.issLane l).flags (u.issLane l).waitOn then
        ((u.flushFor (u.issLane l)).updGroup u.issue.core u.issue.slot u.issue.group fun q =>
          q.updLane l (Lane.passing (u.issLane l).waitOn.len)).acquireFor u.issue.core l u.issTeam
            u.issGroup.uid (u.issLane l).waitOn
      else u := by
  have hw' : (((u.team u.issue.core u.issue.slot).group u.issue.group).lane l).status = .waiting := hw
  unfold State.settleLive
  simp only [hw']
  rfl

/-- A point that joins the queue of a core changes no team. -/
theorem State.teams_pushPoint (s : State) (core team ctx uid lane : Nat) (a : Act) (c : Nat) :
    ((s.pushPoint core team ctx uid lane a).core c).teams = (s.core c).teams := by
  by_cases hc : c = core
  · subst hc
    exact (congrArg Core.teams (State.core_updCore_same { s with fresh := s.fresh + 1 } c _) :)
  · exact (congrArg Core.teams (State.core_updCore_ne { s with fresh := s.fresh + 1 } _ hc) :)

theorem State.acquireFor_keeps (u : State) (core l : Nat) (t : Team) (uid : Nat) (w : WaitOn) :
    (u.acquireFor core l t uid w).issue = u.issue ∧ (∀ c, ((u.acquireFor core l t uid w).core c).teams = (u.core c).teams) ∧
      (u.acquireFor core l t uid w).sched = u.sched ∧ (u.acquireFor core l t uid w).ctxs = u.ctxs := by
  unfold State.acquireFor
  split
  · exact ⟨rfl, State.teams_pushPoint u core _ _ _ _ _, rfl, rfl⟩
  · exact ⟨rfl, fun _ => rfl, rfl, rfl⟩

/-- Settling a lane that waits passes its wait where it is over, and leaves every other lane as it is. -/
theorem State.settleLive_released {u : State} (h : u.Issuing) {l : Nat} (hw : (u.issLane l).status = .waiting) {cached : Bool}
    (hb : (u.issLane l).waitOn.isBatches = true → cached = true) :
    u.Released cached (u.settleLive u.issue.core u.issue.slot u.issue.group l) l
      (if u.over u.issue.core u.issTeam (u.issLane l) (u.issLane l).flags (u.issLane l).waitOn then
        (u.issLane l).passed (u.issLane l).waitOn else u.issLane l) := by
  rw [State.settleLive_of_waiting hw]
  split
  case isFalse => exact ⟨.refl h cached, rfl, fun _ _ => rfl⟩
  case isTrue =>
    have hhome := u.atHome_flushFor (u.issLane l)
    obtain ⟨hflushed, hteam⟩ := h.of_core hhome.issue (congrArg Core.teams (hhome.core u.issue.core))
    have hsched : cached = false → (u.flushFor (u.issLane l)).sched = u.sched ∧ (u.flushFor (u.issLane l)).ctxs = u.ctxs := by
      intro hc
      have hnb : (u.issLane l).waitOn.isBatches = false := by
        cases hbat : (u.issLane l).waitOn.isBatches
        · rfl
        · simp [hb hbat] at hc
      unfold State.flushFor
      split
      · next he => simp [he, WaitOn.isBatches] at hnb
      · exact ⟨rfl, rfl⟩
    generalize u.flushFor (u.issLane l) = v at hhome hflushed hteam hsched
    have hupd : (v.updGroup u.issue.core u.issue.slot u.issue.group fun q =>
        q.updLane l (Lane.passing (u.issLane l).waitOn.len)) =
          v.updIssGroup fun q => q.updLane l (Lane.passing (u.issLane l).waitOn.len) := by
      rw [State.updIssGroup, hhome.issue]
    rw [hupd]
    have hgroup : v.issGroup = u.issGroup := by rw [State.issGroup, hteam, hhome.issue]; rfl
    have hpassed := State.issuing_updLane hflushed l (Lane.passing (u.issLane l).waitOn.len)
    have hpteam : (v.updIssGroup fun q => q.updLane l (Lane.passing (u.issLane l).waitOn.len)).issTeam =
        v.issTeam.updGroup v.issue.group fun q => q.updLane l (Lane.passing (u.issLane l).waitOn.len) :=
      State.team_updIssGroup hflushed _
    have hplane : ∀ m, (v.updIssGroup fun q => q.updLane l (Lane.passing (u.issLane l).waitOn.len)).issLane m =
        if m = l then (u.issLane l).passed (u.issLane l).waitOn else u.issLane m := fun m => by
      refine (congrArg (Group.lane · m) (State.group_updIssGroup hflushed _)).trans ?_
      rw [Group.lane_updLane, hgroup]; rfl
    obtain ⟨hissue, hteams, hs, hc⟩ := State.acquireFor_keeps
      (v.updIssGroup fun q => q.updLane l (Lane.passing (u.issLane l).waitOn.len)) u.issue.core l
      u.issTeam u.issGroup.uid (u.issLane l).waitOn
    obtain ⟨hissuing, hsame⟩ := hpassed.of_core hissue (hteams _)
    refine ⟨⟨hissuing, hissue.trans hhome.issue, ?_, fun hf => ⟨hs.trans (hsched hf).1, hc.trans (hsched hf).2⟩⟩, ?_, fun m hm => ?_⟩
    · rw [hsame, hpteam, hteam]; rfl
    · rw [State.issLane, State.issGroup, hsame, hissue]
      exact (hplane l).trans (if_pos rfl)
    · rw [State.issLane, State.issGroup, hsame, hissue]
      exact (hplane m).trans (if_neg hm)

/-! ## The waits of an issue -/

/-- A wait whose end does not depend on another lane of the issue. -/
def WaitOn.steady : WaitOn → Bool
  | .flags _ | .batches _ _ | .ring _ _ _ _ | .timeline _ _ _ => true
  | _ => false

/-- Waits on timelines read what waits on batches may change. -/
def WaitOn.isTimeline : WaitOn → Bool
  | .timeline _ _ _ => true
  | _ => false

/-- Whether a steady wait is over is the same after the waits of other lanes of the issue. -/
theorem State.SameWaits.over_eq {cached : Bool} {s u : State} (h : s.SameWaits cached u) {w : WaitOn} (hw : w.steady = true)
    (ht : w.isTimeline = true → cached = false) (x : Lane) (fl : Tbl Nat) :
    u.over u.issue.core u.issTeam x fl w = s.over s.issue.core s.issTeam x fl w := by
  obtain ⟨-, hissue, hteam, hsched⟩ := h
  cases w with
  | flags m => rfl
  | batches n ge => rfl
  | ring r st empty v =>
    have hstage : ∀ r st, u.issTeam.stage r st = s.issTeam.stage r st := fun r st => (congrArg (Team.stage · r st) hteam :)
    simp only [State.over, hstage]
  | timeline sel n sc =>
    obtain ⟨hs, hc⟩ := hsched (ht rfl)
    have hgrid : u.issTeam.grid = s.issTeam.grid := (congrArg Team.grid hteam :)
    have hcopy : u.issTeam.tlCopy = s.issTeam.tlCopy := (congrArg Team.tlCopy hteam :)
    have hmatrix : u.issTeam.tlMatrix = s.issTeam.tlMatrix := (congrArg Team.tlMatrix hteam :)
    simp only [State.over, State.timeline, State.grid, hgrid, hcopy, hmatrix, hs, hc]
    rfl
  | _ => simp [WaitOn.steady] at hw

theorem State.SameWaits.trans {cached : Bool} {s u v : State} (h : s.SameWaits cached u) (h' : u.SameWaits cached v) :
    s.SameWaits cached v := by
  refine ⟨h'.issuing, h'.issue.trans h.issue, ?_, fun hc => ⟨(h'.sched hc).1.trans (h.sched hc).1, (h'.sched hc).2.trans (h.sched hc).2⟩⟩
  have := congrArg (fun t : Team => { t with groups := s.issTeam.groups }) h'.team
  exact this.trans h.team

/-- Settling the lanes of a list one after the other: each passes its wait where it is over by itself. -/
theorem State.settle_lanes {s : State} {cached : Bool} {w : Nat → WaitOn} (hsteady : ∀ l, (w l).steady = true)
    (hcached : ∀ l, (w l).isBatches = cached) (ls : List Nat) (hnodup : ls.Nodup) (u : State) (hsame : s.SameWaits cached u)
    (hlanes : ∀ l ∈ ls, (u.issLane l).status = .waiting ∧ (u.issLane l).waitOn = w l) :
    let v := ls.foldl (fun u l => u.settleLive s.issue.core s.issue.slot s.issue.group l) u
    s.SameWaits cached v ∧ ∀ l, v.issLane l = if l ∈ ls then
      if s.over s.issue.core s.issTeam (u.issLane l) (u.issLane l).flags (w l) then (u.issLane l).passed (w l) else u.issLane l
      else u.issLane l := by
  induction ls generalizing u with
  | nil => exact ⟨hsame, fun l => by simp⟩
  | cons l ls ih =>
    obtain ⟨hnot, hrest⟩ := List.nodup_cons.1 hnodup
    obtain ⟨hstatus, hwait⟩ := hlanes l List.mem_cons_self
    have htl : (w l).isTimeline = true → cached = false := fun h => by
      rw [← hcached l]; cases hw : w l <;> simp [hw, WaitOn.isTimeline, WaitOn.isBatches] at h ⊢
    have hrel := State.settleLive_released hsame.issuing hstatus (cached := cached) (by rw [hwait, hcached]; exact id)
    rw [hwait, hsame.over_eq (hsteady l) htl, hsame.issue] at hrel
    obtain ⟨hsettled, hlane, hother⟩ := hrel
    have hnext := ih hrest _ (hsame.trans hsettled) fun m hm => by
      rw [hother m fun e => hnot (e ▸ hm)]; exact hlanes m (List.mem_cons_of_mem l hm)
    refine ⟨hnext.1, fun m => (hnext.2 m).trans ?_⟩
    by_cases hm : m = l
    · subst hm; simp [hnot, hlane]
    · simp [hm, hother m hm]

theorem State.nodup_issLanes (s : State) : s.issLanes.Nodup := (List.nodup_range).filter _

/-- The lanes that wait: each passes its wait in the same step where it is over. -/
theorem State.waitLanes_lanes {s : State} (h : s.Issuing) {cached : Bool} {w : Nat → WaitOn} (hsteady : ∀ l, (w l).steady = true)
    (hcached : ∀ l, (w l).isBatches = cached) (flag : FlagSel) {ls : List Nat} (hls : ∀ l ∈ ls, l ∈ s.issLanes) (hnodup : ls.Nodup) :
    s.SameWaits cached (s.waitLanes flag ls w) ∧ ∀ l, (s.waitLanes flag ls w).issLane l = if l ∈ ls then
      let y := (s.issLane l).await flag (w l)
      if s.over s.issue.core s.issTeam y y.flags (w l) then y.passed (w l) else y
      else s.issLane l := by
  have hmap : ∀ l, ((s.updIssGroup fun y => y.mapLanes ls fun l x => x.await flag (w l)).issLane l) =
      if l ∈ ls then (s.issLane l).await flag (w l) else s.issLane l := fun l => by
    refine (congrArg (Group.lane · l) (State.group_updIssGroup h _)).trans ?_
    by_cases hl : l ∈ ls
    · rw [Group.lane_mapLanes _ _ _ _ (h.lanes l (State.issLanes_lt (hls l hl)))]
      simp [hl]; rfl
    · rw [Group.lane_mapLanes_out _ _ _ _ hl, if_neg hl]; rfl
  have hsame : s.SameWaits cached (s.updIssGroup fun y => y.mapLanes ls fun l x => x.await flag (w l)) := by
    have honly := State.onlyLanes_mapLanes h ls (fun l x => x.await flag (w l)) hls
    exact ⟨State.issuing_mapLanes h ls _, rfl, honly.only.team, fun _ => ⟨rfl, rfl⟩⟩
  have hsettled := State.settle_lanes hsteady hcached ls hnodup _ hsame fun l hl => by rw [hmap, if_pos hl]; exact ⟨rfl, rfl⟩
  refine ⟨hsettled.1, fun l => (hsettled.2 l).trans ?_⟩
  by_cases hl : l ∈ ls <;> simp [hl, hmap]


/-- The lane as an instruction that waits leaves it: parked where its flag is full, past its wait where that is over, else waiting. -/
def State.waited (s : State) (flag : FlagSel) (w : Nat → WaitOn) (l : Nat) : Lane :=
  let y := (s.issLane l).await flag (w l)
  if (s.issLane l).flagFull flag then (s.issLane l).parkFlag flag
  else if s.over s.issue.core s.issTeam y y.flags (w l) then y.passed (w l) else y

/-- Every lane of the issue waits. -/
theorem State.waitLanes_all {s : State} (h : s.Issuing) {w : Nat → WaitOn} {cached : Bool} (hsteady : ∀ l, (w l).steady = true)
    (hcached : ∀ l, (w l).isBatches = cached) {l : Nat} (hl : l ∈ s.issLanes) :
    s.laneIn (s.waitLanes none s.issLanes w) l = s.waited none w l := by
  obtain ⟨hsame, hlanes⟩ := State.waitLanes_lanes h hsteady hcached none (fun _ h => h) s.nodup_issLanes
  have hlane := hlanes l
  rw [if_pos hl] at hlane
  rw [State.issLane, State.issGroup, State.issTeam, State.issCore, hsame.issue] at hlane
  exact hlane

/-- The lanes whose flag is not full wait, and the others park. -/
theorem State.waitLanes_parkFull {s : State} (h : s.Issuing) {w : Nat → WaitOn} {cached : Bool} (hsteady : ∀ l, (w l).steady = true)
    (hcached : ∀ l, (w l).isBatches = cached) (flag : FlagSel) {l : Nat} (hl : l ∈ s.issLanes) :
    s.laneIn ((s.waitLanes flag (s.goLanes flag) w).parkFull s flag) l = s.waited flag w l := by
  obtain ⟨hsame, hlanes⟩ := State.waitLanes_lanes h hsteady hcached flag (fun _ h => (State.mem_goLanes.1 h).1)
    (s.nodup_issLanes.filter _)
  have hlane := hlanes l
  generalize s.waitLanes flag (s.goLanes flag) w = u at hsame hlane
  have hfull : (l ∈ s.issLanes.filter fun l => (s.issLane l).flagFull flag) ↔ (s.issLane l).flagFull flag = true := by simp [hl]
  have hpark : s.laneIn (u.parkFull s flag) l = (u.issGroup.mapLanes (s.issLanes.filter fun l => (s.issLane l).flagFull flag)
      fun _ x => x.parkFlag flag).lane l := by
    rw [State.laneIn, ← hsame.issue]
    exact congrArg (Group.lane · l) (State.group_updIssGroup hsame.issuing _)
  rw [hpark, State.waited]
  by_cases hf : (s.issLane l).flagFull flag = true
  · have hlane' : u.issGroup.lane l = s.issLane l := hlane.trans (if_neg (by simp [State.mem_goLanes, hf]))
    rw [Group.lane_mapLanes _ _ _ _ (hsame.issuing.lanes l (State.issLanes_lt hl)), if_pos (by simpa using hfull.2 hf), if_pos hf,
      hlane']
  · rw [Group.lane_mapLanes_out _ _ _ _ (mt hfull.1 hf), if_neg hf]
    exact hlane.trans (if_pos (State.mem_goLanes.2 ⟨hl, by simpa using hf⟩))

theorem State.demandLanes_pass {s : State} {ok : Nat → Bool} (code : Nat) (h : ∀ l ∈ s.issLanes, ok l = true) :
    s.demandLanes ok code = none := by
  have hnone : (s.issLanes.filter fun l => !ok l) = [] := by simpa using h
  simp [State.demandLanes, hnone]

/-! ## The waits on time -/

/-- A wait of the lanes on a time: over at once where the count is 0. -/
theorem State.waitNs_changes {s : State} (h : s.Issuing) (v : VHead) {d : Src} (hd : s.srcOk 2 d = true) (hz : s.issue.lanes ≠ 0)
    (sleep : Bool) :
    s.Changes (s.waitNs v d sleep) fun l x =>
      let n := ((s.src64 0 l d).toNat * s.laneMhz s.issue.core l + 999) / 1000
      if x.flagFull v.flag then x.parkFlag v.flag else if n = 0 then x.goto s.nextPc else x.await v.flag (.time n sleep) := by
  have hpass : firstFault [s.operands [s.srcOk 2 d]] = none := by rw [State.operands_srcOk hd]; rfl
  rw [State.waitNs, State.orFault_pass hz hpass]
  refine (State.parkFull_changes h v.flag _).congr fun l hl => ?_
  cases hf : (s.issLane l).flagFull v.flag
  · simp [State.mem_goLanes, hl, hf, nsToCycles]
  · rfl

/-- A wait on time that has run out is passed. -/
theorem Lane.expire_of_waiting {x : Lane} (hs : x.status = .waiting) (hw : ∃ b, x.waitOn = .time 0 b) (hshadow : x.shadow = none) :
    x.expire = x.wake 2 := by
  obtain ⟨b, hw⟩ := hw
  have hwake : (x.wake 2).shadow = none := hshadow
  simp only [Lane.expire, hs, hw, WaitOn.ranOut, beq_self_eq_true, Bool.and_self, if_true, hwake, Option.map_none]
  rw [← hwake]

/-- A listed lane is of a listed group of a listed team. -/
theorem Core.listed_of_lane {k : Core} {slot g l : Nat} (h : (tblFind ((k.team slot).group g).lanes l).isSome) :
    (tblFind k.teams slot).isSome ∧ (tblFind (k.team slot).groups g).isSome := by
  have hgroup : (tblFind (k.team slot).groups g).isSome := by
    cases hfind : tblFind (k.team slot).groups g with
    | none => simp [Team.group, tblGet_eq_find, hfind, Group.absent, tblFind] at h
    | some y => rfl
  refine ⟨?_, hgroup⟩
  cases hfind : tblFind k.teams slot with
  | none => simp [Core.team, tblGet_eq_find, hfind, Team.absent, tblFind] at hgroup
  | some t => rfl

/-- WAIT_EXPIRE takes the lane it names past a wait that has run out. -/
theorem State.waitExpire_lane {s : State} {core uid slot g l : Nat} (hfind : (s.core core).findGroup uid = some (slot, g))
    (hlane : (tblFind (s.group core slot g).lanes l).isSome) :
    ((s.updCore core fun k => k.updByUid uid fun y => y.mapLanes [l] fun _ x => x.expire).group core slot g).lane l =
      ((s.group core slot g).lane l).expire := by
  obtain ⟨hteam, hgroup⟩ := Core.listed_of_lane (k := s.core core) hlane
  have hupd : (s.core core).updByUid uid (fun y => y.mapLanes [l] fun _ x => x.expire) =
      (s.core core).updTeam slot fun t => t.updGroup g fun y => y.mapLanes [l] fun _ x => x.expire := by
    rw [Core.updByUid, hfind]
  rw [State.group, State.team, State.core_updCore_same, hupd, Core.team_updTeam_same _ _ _ hteam,
    Team.group_updGroup_same _ _ _ hgroup]
  exact (Group.lane_mapLanes _ _ _ _ hlane).trans (if_pos (by simp))

/-- Settles O15, from what settling the lanes of one issue does. -/
theorem waitResults : Obligations.WaitResults := by
  unfold Obligations.WaitResults
  refine ⟨fun s h m n ge ring empty v st sel sc x hs hz hst hx hstage hsel => ?_, fun s h d core uid slot g l hs hd hz => ⟨?_, ?_⟩⟩
  · have hring : firstFault [s.operands [s.srcOk 1 st], s.demandLanes
        (fun l => s.issTeam.stageOk ring.toNat (s.src32 0 l st).toNat) 0x05] = none := by
      rw [State.operands_srcOk hst, State.demandLanes_pass _ hstage]; rfl
    have htl : firstFault [s.operands [s.srcOk 2 x], s.demand (timelineSel sel.toNat) 0x05] = none := by
      rw [State.operands_srcOk hx, hsel]; rfl
    simp only [List.forall_mem_cons]
    refine ⟨⟨_, rfl, fun l hl => ?_⟩, ⟨_, rfl, fun l hl => ?_⟩, ⟨_, rfl, fun l hl => ?_⟩, ⟨_, rfl, fun l hl => ?_⟩,
      List.forall_mem_nil _⟩
    · rw [State.orFault_pass hz rfl]
      exact State.waitLanes_all hs (by exact fun _ => rfl) (by exact fun _ => rfl) hl
    · rw [State.orFault_pass hz rfl]
      exact State.waitLanes_all hs (by exact fun _ => rfl) (by exact fun _ => rfl) hl
    · rw [State.orFault_pass hz (by exact hring)]
      exact State.waitLanes_parkFull hs (by exact fun _ => rfl) (by exact fun _ => rfl) h.flag hl
    · rw [State.orFault_pass hz htl]
      exact State.waitLanes_parkFull hs (by exact fun _ => rfl) (by exact fun _ => rfl) h.flag hl
  · simp only [List.forall_mem_cons]
    exact ⟨⟨_, rfl, State.waitNs_changes hs h hd hz true⟩, ⟨_, rfl, State.waitNs_changes hs h hd hz false⟩, List.forall_mem_nil _⟩
  · intro hfind hlane hstatus hwait hshadow
    exact ⟨_, rfl, (State.waitExpire_lane hfind hlane).trans (Lane.expire_of_waiting hstatus hwait hshadow)⟩

end Sys2Proof.Machine
end

section
/-! SUPPORT. Accesses of an instruction itself: what they leave of the lanes. Calls and returns (O12). -/

namespace Sys2Proof.Machine

set_option Elab.async false

/-! ## What an own access leaves of the teams -/

/-- A group without its count of lost locality. -/
def Group.quiet (g : Group) : Group := { g with lls := 0 }

/-- A team and its group of a number, without the count of lost locality. -/
def Team.view (g : Nat) (t : Team) : Team × Option Group := ({ t with groups := [] }, (tblFind t.groups g).map Group.quiet)

def Core.view (k : Core) (slot g : Nat) : Option (Team × Option Group) := (tblFind k.teams slot).map (Team.view g)

/-- A change of a group that its view does not see. -/
theorem Team.view_updGroup {f : Group → Group} (hf : ∀ y, (f y).quiet = y.quiet) (t : Team) (g x : Nat) :
    (t.updGroup g f).view x = t.view x := by
  by_cases h : x = g
  · subst h
    simp only [Team.view, Team.updGroup, tblFind_tblAdj_same, Option.map_map]
    rw [show Group.quiet ∘ f = Group.quiet from funext hf]
  · simp only [Team.view, Team.updGroup, tblFind_tblAdj_ne _ _ h]

theorem Core.view_updTeam {f : Team → Team} {g : Nat} (hf : ∀ t, (f t).view g = t.view g) (k : Core) (n slot : Nat) :
    (k.updTeam n f).view slot g = k.view slot g := by
  by_cases h : slot = n
  · subst h
    simp only [Core.view, Core.updTeam, tblFind_tblAdj_same, Option.map_map]
    rw [show Team.view g ∘ f = Team.view g from funext hf]
  · simp only [Core.view, Core.updTeam, tblFind_tblAdj_ne _ _ h]

theorem Core.view_updByUid {f : Group → Group} (hf : ∀ y, (f y).quiet = y.quiet) (k : Core) (uid slot g : Nat) :
    (k.updByUid uid f).view slot g = k.view slot g := by
  unfold Core.updByUid
  split
  · exact Core.view_updTeam (fun t => Team.view_updGroup hf t _ _) k _ _
  · rfl

/-- What a core has under way, and the place it has on its die. -/
def Core.work (k : Core) : Tbl Op × List Item × Nat × Tbl Copy := (k.ops, k.queue, k.phys, k.copies)

/-- What the clocks give, and the next name. -/
def State.now (s : State) : Nat × Nat × Tbl Region × Nat := (s.stamp, s.ns, s.regions, s.fresh)

/-- The issue stands, the clocks, the schedule but for marks of grids, every fault unit, queue and operation, and every team and group
but for counts of lost locality; the memories stay canonical. -/
structure State.OwnAccess (s t : State) : Prop where
  issue : t.issue = s.issue
  now   : t.now = s.now
  sched : { t.sched with grids := [] } = { s.sched with grids := [] }
  grids : tblMap (fun _ => Grid.lossless) t.sched.grids = tblMap (fun _ => Grid.lossless) s.sched.grids
  work  : ∀ c, (t.core c).work = (s.core c).work
  view  : ∀ c slot g, (t.core c).view slot g = (s.core c).view slot g
  flt   : ∀ c, (t.core c).flt = (s.core c).flt
  wf    : s.MemWf → t.MemWf

namespace State.OwnAccess
variable {s t u : State}

theorem refl (s : State) : s.OwnAccess s := ⟨rfl, rfl, rfl, rfl, fun _ => rfl, fun _ _ _ => rfl, fun _ => rfl, id⟩

theorem trans (h : s.OwnAccess t) (h' : t.OwnAccess u) : s.OwnAccess u :=
  ⟨h'.issue.trans h.issue, h'.now.trans h.now, h'.sched.trans h.sched, h'.grids.trans h.grids,
    fun c => (h'.work c).trans (h.work c), fun c slot g => (h'.view c slot g).trans (h.view c slot g), fun c => (h'.flt c).trans (h.flt c),
    h'.wf ∘ h.wf⟩

theorem of_home (h : s.AtHome t) : s.OwnAccess t :=
  ⟨h.issue, Prod.ext h.stamp (Prod.ext h.ns (Prod.ext h.regions h.fresh)), (congrArg (fun x : Sched => { x with grids := [] }) h.sched :),
    h.grids, fun c => by rw [h.core c], fun c _ _ => by rw [h.core c], fun c => by rw [h.core c], h.wf⟩

theorem foldl {α : Type} {f : State → α → State} (hf : ∀ (s : State) x, s.OwnAccess (f s x)) (ls : List α) (s : State) :
    s.OwnAccess (ls.foldl f s) := by
  induction ls generalizing s with
  | nil => exact refl s
  | cons x ls ih => exact (hf s x).trans (ih _)

/-- The team of the issue stands but for its groups, and the lanes of the issue stand. -/
theorem issuing (h : s.OwnAccess t) (hs : s.Issuing) :
    t.Issuing ∧ { t.issTeam with groups := [] } = { s.issTeam with groups := [] } ∧ t.issGroup.quiet = s.issGroup.quiet := by
  obtain ⟨x, hteam⟩ := Option.isSome_iff_exists.1 hs.team
  have hx : s.issTeam = x := tblGet_of_find hteam
  obtain ⟨y, hgroup⟩ := Option.isSome_iff_exists.1 hs.group
  have hy : s.issGroup = y := tblGet_of_find hgroup
  rw [hx] at hgroup
  have hview := h.view s.issue.core s.issue.slot s.issue.group
  have hbefore : (s.core s.issue.core).view s.issue.slot s.issue.group = some (x.view s.issue.group) :=
    congrArg (Option.map _) hteam
  rw [hbefore] at hview
  obtain ⟨x', hteam', hx'⟩ := Option.map_eq_some_iff.1 hview
  obtain ⟨hrest, hgroups⟩ := Prod.ext_iff.1 hx'
  have hgroups : (tblFind x'.groups s.issue.group).map Group.quiet = some y.quiet := hgroups.trans (congrArg (Option.map _) hgroup)
  obtain ⟨y', hgroup', hy'⟩ := Option.map_eq_some_iff.1 hgroups
  rw [← h.issue] at hteam' hgroup'
  have ht : t.issTeam = x' := tblGet_of_find hteam'
  have hg : t.issGroup = y' := tblGet_of_find (ht ▸ hgroup')
  have hlanes : y'.lanes = y.lanes := (congrArg Group.lanes hy' :)
  refine ⟨⟨Option.isSome_iff_exists.2 ⟨x', hteam'⟩, Option.isSome_iff_exists.2 ⟨y', ht ▸ hgroup'⟩, fun l hl => ?_⟩, ?_, ?_⟩
  · rw [hg, hlanes, ← hy]; exact hs.lanes l hl
  · rw [ht, hx]; exact hrest
  · rw [hg, hy]; exact hy'

theorem issLane (h : s.OwnAccess t) (hs : s.Issuing) (l : Nat) : t.issLane l = s.issLane l :=
  (congrArg (fun g => g.lane l) (h.issuing hs).2.2 :)

end State.OwnAccess

/-- A change of a core that keeps its memories canonical. -/
theorem State.memWf_updCore {s : State} (h : s.MemWf) {c : Nat} {f : Core → Core} (hf : (s.core c).memWf → (f (s.core c)).memWf) :
    (s.updCore c f).MemWf := by
  obtain ⟨hcells, hhost, hpeers, hcores⟩ := h
  refine ⟨hcells, hhost, hpeers, fun k hk => ?_⟩
  rcases mem_tblSet hk with rfl | hk
  · refine hf ?_
    rw [State.core, tblGet_eq_find]
    cases hfind : tblFind s.cores c with
    | none => exact ⟨rfl, List.forall_mem_nil _⟩
    | some k => exact hcores (c, k) (mem_of_tblFind hfind)
  · exact hcores k hk

/-- A change of a core that keeps its fault unit, its teams but for counts of lost locality, and its memories canonical. -/
theorem State.ownAccess_updCore (s : State) (c : Nat) {f : Core → Core} (hview : ∀ k slot g, (f k).view slot g = k.view slot g)
    (hflt : ∀ k, (f k).flt = k.flt) (hwork : ∀ k, (f k).work = k.work)
    (hwf : ∀ k, k.memWf → (f k).memWf) : s.OwnAccess (s.updCore c f) where
  issue := rfl
  now := rfl
  sched := rfl
  grids := rfl
  work d := by
    by_cases hd : d = c
    · subst hd; rw [State.core_updCore_same, hwork]
    · rw [State.core_updCore_ne _ _ hd]
  view d slot g := by
    by_cases hd : d = c
    · subst hd; rw [State.core_updCore_same, hview]
    · rw [State.core_updCore_ne _ _ hd]
  flt d := by
    by_cases hd : d = c
    · subst hd; rw [State.core_updCore_same, hflt]
    · rw [State.core_updCore_ne _ _ hd]
  wf h := State.memWf_updCore h (hwf _)

theorem Core.view_countMiss (k : Core) (uid line slot g : Nat) : (k.countMiss uid line).view slot g = k.view slot g := by
  unfold Core.countMiss
  split
  · exact Core.view_updByUid (f := fun g => { g with lls := satInc 8 g.lls }) (fun _ => rfl) k uid slot g
  · rfl

theorem Core.flt_updByUid (k : Core) (uid : Nat) (f : Group → Group) : (k.updByUid uid f).flt = k.flt := by
  unfold Core.updByUid
  split
  · rfl
  · rfl

theorem Core.work_updByUid (k : Core) (uid : Nat) (f : Group → Group) : (k.updByUid uid f).work = k.work := by
  unfold Core.updByUid
  split
  · rfl
  · rfl

theorem Core.work_countMiss (k : Core) (uid line : Nat) : (k.countMiss uid line).work = k.work := by
  unfold Core.countMiss
  split
  · exact Core.work_updByUid k uid fun g => { g with lls := satInc 8 g.lls }
  · rfl

theorem Core.flt_countMiss (k : Core) (uid line : Nat) : (k.countMiss uid line).flt = k.flt := by
  unfold Core.countMiss
  split
  · exact Core.flt_updByUid k uid fun g => { g with lls := satInc 8 g.lls }
  · rfl

theorem Core.memWf_updByUid {k : Core} (h : k.memWf) (uid : Nat) (f : Group → Group) : (k.updByUid uid f).memWf := by
  unfold Core.updByUid
  split
  · exact h
  · exact h

theorem Core.memWf_countMiss {k : Core} (h : k.memWf) (uid line : Nat) : (k.countMiss uid line).memWf := by
  unfold Core.countMiss
  split
  · exact Core.memWf_updByUid (f := fun g => { g with lls := satInc 8 g.lls }) h uid
  · exact h

theorem State.ownAccess_countMiss (s : State) (core uid line : Nat) : s.OwnAccess (s.updCore core fun k => k.countMiss uid line) :=
  s.ownAccess_updCore core (fun k slot g => k.view_countMiss uid line slot g) (fun k => k.flt_countMiss uid line)
    (fun k => k.work_countMiss uid line) fun _ h =>
    Core.memWf_countMiss h uid line

/-! ## Accesses through the L1 and to the scratchpad -/

theorem State.ownAccess_makeRoom (s : State) (id line : Nat) (filler : Option (Nat × Nat)) :
    s.OwnAccess (s.makeRoom id line filler) := by
  have htake : ∀ (s : State) (f : L1 → L1), s.OwnAccess (s.updL1 id f) := fun s f => .of_home (s.atHome_updL1 id f)
  have hleft : ∀ v f, s.OwnAccess ((s.evictLine id v).updL1 id f) := fun v f =>
    (State.OwnAccess.of_home (s.atHome_evictLine id v)).trans (htake _ f)
  unfold State.makeRoom
  dsimp only
  split
  · exact htake s _
  · split
    · exact htake s _
    · split
      · exact .refl s
      · split
        · exact hleft _ _
        · exact (hleft _ _).trans (State.ownAccess_updCore _ _ (by exact fun _ _ _ => rfl) (by exact fun _ => rfl)
            (by exact fun _ => rfl) (by exact fun _ h => h))

theorem State.ownAccess_l1Miss (s : State) (core uid id k : Nat) (who : Charge) (ch : Nat) :
    s.OwnAccess (s.l1Miss core uid id k who ch) :=
  ((s.ownAccess_countMiss core uid (k / 4)).trans (State.ownAccess_makeRoom _ _ _ _)).trans (.of_home (State.atHome_l1Fill _ _ _ _ _))

theorem State.ownAccess_l1Read (s : State) (core uid : Nat) (who : Charge) (ch pa n : Nat) :
    s.OwnAccess (s.l1Read core uid who ch pa n).1 := by
  have hone : ∀ (s : State) id k (p : Prop) [Decidable p], s.OwnAccess
      (if p then (s.l1Error id k (some who)).makeRoom id (k / 4) none else (s.l1Error id k (some who)).l1Miss core uid id k who ch) := by
    intro s id k p _
    refine (State.OwnAccess.of_home (s.atHome_l1Error id k (some who))).trans ?_
    split
    · exact State.ownAccess_makeRoom _ _ _ _
    · exact State.ownAccess_l1Miss _ _ _ _ _ _ _
  exact .foldl (fun s k => hone s _ k _) _ s

theorem State.ownAccess_l1Store (s : State) (core uid ctx ch pa : Nat) (bs : List Byte) :
    s.OwnAccess (s.l1Store core uid ctx ch pa bs) := by
  have hone : ∀ (s : State) id k (p : Prop) [Decidable p] (f : L1 → L1), s.OwnAccess
      (((if p then s else s.updCore core fun c => c.countMiss uid (k / 4)).makeRoom id (k / 4) none).updL1 id f) := by
    intro s id k p _ f
    have hmiss : s.OwnAccess (if p then s else s.updCore core fun c => c.countMiss uid (k / 4)) := by
      split
      · exact .refl s
      · exact s.ownAccess_countMiss core uid (k / 4)
    exact (hmiss.trans (State.ownAccess_makeRoom _ _ _ _)).trans (.of_home (State.atHome_updL1 _ _ _))
  exact .foldl (fun s k => hone s _ k _ _) _ s

theorem State.ownAccess_spadError (s : State) (core k : Nat) : s.OwnAccess (s.spadError core k) := by
  unfold State.spadError
  split
  · exact .refl s
  · have hlatent := s.ownAccess_updCore core (f := fun c => { c with latent := tblDel c.latent k }) (fun _ _ _ => rfl)
      (fun _ => rfl) (fun _ => rfl) fun _ h => h
    dsimp only
    split
    · exact hlatent.trans (.of_home (.of_counts rfl rfl rfl rfl))
    · refine (hlatent.trans (State.ownAccess_updCore _ core (by exact fun _ _ _ => rfl) (by exact fun _ => rfl)
        (by exact fun _ => rfl) ?_)).trans
        (.of_home (State.atHome_chargeLoss _ _ _))
      exact fun _ h => ⟨wf_memErase h.1 _ _, h.2⟩

theorem State.ownAccess_spadErrors (s : State) (core at_ n : Nat) : s.OwnAccess (s.spadErrors core at_ n) :=
  .foldl (fun s k => s.ownAccess_spadError core k) _ s

theorem State.ownAccess_spadRead (s : State) (core at_ n : Nat) : s.OwnAccess (s.spadRead core at_ n).1 :=
  s.ownAccess_spadErrors core at_ n

/-- A load of an instruction itself leaves the teams. -/
theorem State.ownAccess_ownLoad (s : State) (core uid ctx : Nat) (p : Place) (ch n : Nat) :
    s.OwnAccess (s.ownLoad core uid ctx p ch n).1 := by
  unfold State.ownLoad
  split
  · exact s.ownAccess_l1Read _ _ _ _ _ _
  · exact .of_home (s.atH_hostAsk _ _ _).home
  · exact s.ownAccess_spadRead _ _ _
  · split
    · exact s.ownAccess_spadRead _ _ _
    · exact .refl s
  · split
    · exact .of_home (s.atH_hRead _ _ _ _).home
    · exact .of_home (s.atH_hostAsk _ _ _).home
  · exact .refl s

/-- A store of an instruction itself leaves the teams. -/
theorem State.ownAccess_ownStore (s : State) (core uid ctx : Nat) (p : Place) (ch : Nat) (bs : List Byte) :
    s.OwnAccess (s.ownStore core uid ctx p ch bs) := by
  unfold State.ownStore
  split
  · exact s.ownAccess_l1Store _ _ _ _ _ _
  · exact .of_home (s.atH_hostPut _ _ _).home
  · exact .refl s

/-! ## Calls and returns -/

theorem Group.mapLanes_nil (g : Group) (f : Nat → Lane → Lane) : g.mapLanes [] f = g := by
  have hid : ∀ t : Tbl Lane, tblMap (fun _ x => x) t = t := fun t => by
    induction t with
    | nil => rfl
    | cons c t ih => exact congrArg (c :: ·) ih
  simp [Group.mapLanes, hid]

/-- With no lane to park, parking leaves the lanes of a group that issues. -/
theorem State.laneIn_parkLanes_nil {s t : State} (hs : t.Issuing) (hissue : t.issue = s.issue) (l : Nat) :
    s.laneIn (t.parkLanes []) l = t.issLane l := by
  rw [State.laneIn, ← hissue]
  exact congrArg (Group.lane · l) ((State.group_updIssGroup hs _).trans (Group.mapLanes_nil _ _))

theorem firstFault_append {cs : List (Option FaultInfo)} (h : firstFault cs = none) (ds : List (Option FaultInfo)) :
    firstFault (cs ++ ds) = firstFault ds := by
  induction cs with
  | nil => rfl
  | cons c cs ih =>
    cases c with
    | none => exact ih h
    | some f => simp [firstFault] at h

theorem mergeBads_nil {ls : List Nat} {own : Nat → Option (Nat × Nat)} (h : ∀ l ∈ ls, own l = none) : mergeBads ls own [] = [] := by
  refine List.filterMap_eq_nil_iff.2 fun l hl => ?_
  rw [h l hl]; rfl

/-- The lanes change as given, none parks and no walk is asked for. -/
theorem State.mapLanes_parkLanes_nil_changes {s : State} (h : s.Issuing) (f : Nat → Lane → Lane) :
    s.Changes (((s.updIssGroup fun y => y.mapLanes s.issLanes f).parkLanes []).issWalks []) f := by
  have hone : (s.updIssGroup fun y => y.mapLanes s.issLanes f).parkLanes [] = _ :=
    State.updIssGroup_mapLanes_mapLanes s (fun _ h => h) (fun _ h => absurd h List.not_mem_nil) f _
  rw [State.issWalks, hone]
  refine (State.mapLanes_changes h _).congr fun l hl => ?_
  simp [hl]

/-- A lane below depth 8 neither goes too deep nor spills. -/
theorem Lane.tooDeep_of_lt {x : Lane} (h : x.depth < 8) : x.tooDeep = false := by
  simp only [Lane.tooDeep, Bool.or_eq_false_iff, decide_eq_false_iff_not, Bool.and_eq_false_iff]
  omega

/-- A call of lanes below depth 8 spills nothing. -/
theorem State.callLanes_changes {s : State} (h : s.Issuing) {checks : List (Option FaultInfo)} (hc : firstFault checks = none)
    {ls : List Nat} {target : Nat → PAddr} (hd : ∀ l ∈ ls, (s.issLane l).depth < 8)
    (hm : ∀ l ∈ ls, s.marked s.issue.core s.issTeam.grid (target l) = true) :
    s.Changes (s.callLanes checks ls target) fun l x => if ls.contains l then x.push s.nextPc (target l) else x.goto s.nextPc := by
  have hspill : (ls.filter fun l => !(s.issLane l).tooDeep && 8 < (s.issLane l).depth + 1) = [] := by
    refine List.filter_eq_nil_iff.2 fun l hl => ?_
    have := hd l hl
    simp only [Lane.tooDeep_of_lt this]
    simp; omega
  have hbad : mergeBads ls (fun l => if (s.issLane l).tooDeep then some (0x04, (s.issue.line.headD 0).toNat) else none) [] = [] :=
    mergeBads_nil fun l hl => by simp [Lane.tooDeep_of_lt (hd l hl)]
  by_cases hz : s.issue.lanes = 0
  · have : s.callLanes checks ls target = s := by rw [State.callLanes]; exact if_pos hz
    rw [this]; exact State.changes_of_no_lanes hz _
  · rw [State.callLanes]
    simp only [hspill, List.map_nil, State.sortOwn, sortLanes, List.foldl_nil, List.filter_nil, List.filterMap_nil, List.append_nil,
      hbad, State.laneFault_nil, State.badTargets_of_marked hm, firstFault_append hc, firstFault, if_neg hz]
    exact State.mapLanes_parkLanes_nil_changes h _

/-- A return of lanes at a depth of 1 to 8 refills nothing. -/
theorem State.execRet_changes {s : State} (h : s.Issuing) (hd : ∀ l ∈ s.issLanes, 0 < (s.issLane l).depth ∧ (s.issLane l).depth ≤ 8)
    (hm : ∀ l ∈ s.issLanes, s.marked s.issue.core s.issTeam.grid ((s.issLane l).slot (s.issLane l).depth) = true) :
    ∃ t, execRet s = .next t ∧ s.Changes t fun _ x => x.pop none := by
  have hrefill : (s.issLanes.filter fun l => 8 < (s.issLane l).depth) = [] := by
    refine List.filter_eq_nil_iff.2 fun l hl => ?_
    have := (hd l hl).2
    simp; omega
  have hbad : mergeBads s.issLanes (fun l => if (s.issLane l).depth = 0 then some (0x08, 0) else none) [] = [] :=
    mergeBads_nil fun l hl => by have := (hd l hl).1; simp; omega
  refine ⟨_, rfl, ?_⟩
  by_cases hz : s.issue.lanes = 0
  · rw [if_pos hz]; exact State.changes_of_no_lanes hz _
  · simp only [hrefill, List.map_nil, State.sortOwn, sortLanes, List.foldl_nil, List.filter_nil, List.filterMap_nil, List.append_nil,
      hbad, State.laneFault_nil, State.badTargets_of_marked hm, firstFault, if_neg hz, State.refills]
    exact State.mapLanes_parkLanes_nil_changes h _

/-- What an own access of one lane that nothing holds back meets. -/
theorem State.sortOwn_one {s : State} {l : Nat} {p : Place} {ch vpn n : Nat} {store : Bool} (hb : s.ownBlockers l p n store = [])
    (hh : s.ownHolds p ch n = none) : s.sortOwn [(l, .ok p ch vpn)] n store = ⟨[(l, p, ch, vpn)], [], [], []⟩ := by
  simp [State.sortOwn, sortLanes, hb, hh]

/-- Lanes that change after an own access of theirs, with none to park. -/
theorem State.OwnAccess.laneIn_mapLanes {s u : State} (h : s.OwnAccess u) (hs : s.Issuing) {l : Nat} (hl : l ∈ s.issLanes)
    (f : Nat → Lane → Lane) :
    s.laneIn (((u.updIssGroup fun y => y.mapLanes s.issLanes f).parkLanes []).issWalks []) l = f l (s.issLane l) := by
  obtain ⟨hu, -, -⟩ := h.issuing hs
  refine (State.laneIn_parkLanes_nil (State.issuing_mapLanes hu _ f) h.issue l).trans ?_
  refine (congrArg (Group.lane · l) (State.group_updIssGroup hu _)).trans ?_
  rw [Group.lane_mapLanes _ _ _ _ (hu.lanes l (State.issLanes_lt hl)), if_pos (by simpa using hl)]
  exact congrArg (f l) (h.issLane hs l)

/-- A call of one lane past depth 8, as its spill store may be made at once. -/
theorem State.callLanes_spill {s : State} {l : Nat} {p : Place} {ch vpn : Nat} {target : Nat → PAddr} (hl : s.issLanes = [l])
    (htl : (s.issLane l).tl = false) (hdeep : 8 ≤ (s.issLane l).depth) (hdepth : (s.issLane l).depth < 65535)
    (hm : s.marked s.issue.core s.issTeam.grid (target l) = true)
    (hreach : s.ownReach l (s.spillAt ((s.issLane l).depth + 1)) 8 8 .store = .ok p ch vpn) (hb : s.ownBlockers l p 8 true = [])
    (hh : s.ownHolds p ch 8 = none) :
    s.callLanes [] [l] target = (((s.ownStore s.issue.core s.issGroup.uid s.issGrid.ctx p ch
        (natLe ((s.issLane l).slot ((s.issLane l).depth + 1)).toNat 8)).updIssGroup fun y => y.mapLanes s.issLanes fun m x =>
          if [l].contains m then x.push s.nextPc (target m) else x.goto s.nextPc).parkLanes []).issWalks [] := by
  have htoo : (s.issLane l).tooDeep = false := by
    simp only [Lane.tooDeep, htl, Bool.false_and, Bool.or_false, decide_eq_false_iff_not]
    omega
  have hspill : ([l].filter fun m => !(s.issLane m).tooDeep && 8 < (s.issLane m).depth + 1) = [l] := by
    simp [htoo]; omega
  have hz : s.issue.lanes ≠ 0 := fun h => by simp [State.issLanes, lanesOf, h] at hl
  have hmark : s.badTargets [l] target = none := State.badTargets_of_marked fun m hm' => by
    rw [List.mem_singleton.1 hm']; exact hm
  have hbad : mergeBads [l] (fun m => if (s.issLane m).tooDeep then some (0x04, (s.issue.line.headD 0).toNat) else none) [] = [] :=
    mergeBads_nil fun m hm' => by rw [List.mem_singleton.1 hm', htoo]; rfl
  rw [State.callLanes]
  simp only [hspill, List.map_cons, List.map_nil, hreach, State.sortOwn_one hb hh, hbad, State.laneFault_nil, hmark,
    List.nil_append, firstFault, if_neg hz]
  rfl

/-- A return of one lane past depth 8, as its refill may be made at once. -/
theorem State.execRet_refill {s : State} {l : Nat} {p : Place} {ch vpn : Nat} (hl : s.issLanes = [l])
    (hdeep : 8 < (s.issLane l).depth) (hm : s.marked s.issue.core s.issTeam.grid ((s.issLane l).slot (s.issLane l).depth) = true)
    (hreach : s.ownReach l (s.spillAt (s.issLane l).depth) 8 8 .load = .ok p ch vpn) (hb : s.ownBlockers l p 8 false = [])
    (hh : s.ownHolds p ch 8 = none) :
    execRet s = .next ((((s.ownLoad s.issue.core s.issGroup.uid s.issGrid.ctx p ch 8).1.updIssGroup fun y =>
      y.mapLanes s.issLanes fun m x => x.pop (tblFind
        [(l, BitVec.ofNat 57 (leNat (s.ownLoad s.issue.core s.issGroup.uid s.issGrid.ctx p ch 8).2))] m)).parkLanes []).issWalks []) := by
  have hrefill : ([l].filter fun m => 8 < (s.issLane m).depth) = [l] := by simpa using hdeep
  have hz : s.issue.lanes ≠ 0 := fun h => by simp [State.issLanes, lanesOf, h] at hl
  have hmark : s.badTargets [l] (fun m => (s.issLane m).slot (s.issLane m).depth) = none := State.badTargets_of_marked fun m hm' => by
    rw [List.mem_singleton.1 hm']; exact hm
  have hbad : mergeBads [l] (fun m => if (s.issLane m).depth = 0 then some (0x08, 0) else none) [] = [] :=
    mergeBads_nil fun m hm' => by rw [List.mem_singleton.1 hm', if_neg (by omega)]
  rw [execRet]
  simp only [hl, hrefill, List.map_cons, List.map_nil, hreach, State.sortOwn_one hb hh, hbad, State.laneFault_nil, hmark,
    firstFault, if_neg hz]
  rfl

/-- Settles O12. -/
theorem callReturnAndSpillResults : Obligations.CallReturnAndSpillResults := by
  unfold Obligations.CallReturnAndSpillResults
  refine ⟨fun s g off a hs => ⟨fun hg => ?_, fun ha hl => ?_, fun hd => ?_⟩,
    fun s off l p ch vpn hs hl htl => ⟨fun hdeep hm hdepth hreach hb hh => ?_, fun hdeep hm hreach hb hh => ?_⟩⟩
  · refine ⟨_, rfl, (State.callLanes_changes hs rfl (fun l hl => (hg l hl).1) fun l hl => (hg l hl).2).congr fun l hl => ?_⟩
    have hin : (s.guarded g).contains l = (s.issLane l).pred g := by
      rw [Bool.eq_iff_iff]; simp [State.mem_guarded, hl]
    rw [hin]; rfl
  · have hpass : firstFault [s.operands [s.srcOk 2 a], s.badHigh fun l => s.src64 0 l a] = none := by
      rw [State.operands_srcOk ha, State.badHigh_of_low fun l hm => (hl l hm).2.1]; rfl
    refine ⟨_, rfl, (State.callLanes_changes hs hpass (fun l hm => (hl l hm).1) fun l hm => (hl l hm).2.2).congr fun l hm => ?_⟩
    rw [if_pos (by simpa using hm)]; rfl
  · exact State.execRet_changes hs (fun l hl => ⟨(hd l hl).1, (hd l hl).2.1⟩) fun l hl => (hd l hl).2.2
  · have hguard : s.guarded ⟨7, false⟩ = [l] := by
      rw [State.guarded, hl]; rfl
    have hin : l ∈ s.issLanes := by simp [hl]
    have hcall : exec (.call ⟨7, false⟩ off) s = .next (s.callLanes [] [l] fun _ => s.branchTarget off) := by rw [← hguard]; rfl
    rw [State.callLanes_spill hl htl hdeep hdepth hm hreach hb hh] at hcall
    have hlane := (State.ownAccess_ownStore s s.issue.core s.issGroup.uid s.issGrid.ctx p ch
      (natLe ((s.issLane l).slot ((s.issLane l).depth + 1)).toNat 8)).laneIn_mapLanes hs hin fun m x =>
        if [l].contains m then x.push s.nextPc (s.branchTarget off) else x.goto s.nextPc
    rw [if_pos (by simp)] at hlane
    refine ⟨_, _, hcall, rfl, rfl, rfl, ?_, ?_, ?_⟩
    · rw [hlane]; rfl
    · rw [hlane]; exact tblGet_tblSet_same _ _ _ _
    · rw [hlane]; rfl
  · have hin : l ∈ s.issLanes := by simp [hl]
    have hlane := (State.ownAccess_ownLoad s s.issue.core s.issGroup.uid s.issGrid.ctx p ch 8).laneIn_mapLanes hs hin fun m x =>
      x.pop (tblFind [(l, BitVec.ofNat 57 (leNat (s.ownLoad s.issue.core s.issGroup.uid s.issGrid.ctx p ch 8).2))] m)
    simp only [tblFind, if_true] at hlane
    refine ⟨_, State.execRet_refill hl hdeep hm hreach hb hh, ?_, ?_, ?_⟩
    · exact (congrArg Lane.depth hlane :)
    · exact (congrArg Lane.pc hlane :)
    · refine (congrArg (fun x => tblGet 0 x.slots ((s.issLane l).depth % 8)) hlane).trans ?_
      exact tblGet_tblSet_same _ _ _ _

end Sys2Proof.Machine
end

section
/-! SUPPORT. Faults and traps: fetch and decode faults (O34), trap, rtrap and brk (O33). -/

namespace Sys2Proof.Machine

set_option Elab.async false

/-! ## Reports -/

/-- A precise fault of lanes outside the handler, a double trap or not, stops a core that runs: past what is counted, it is in the
core's registers and nothing else of the cores has changed. -/
theorem State.raise_of_outside {s : State} {f : FaultInfo} (hrun : s.issCore.flt.stopped = false)
    (himp : (s.issReport f).imprecise = false) (htl : ∀ l ∈ lanesOf f.lanes, (s.issLane l).tl = false) :
    (s.raise f).StoppedOn s.issue.core f.code f.lanes f.pc ∧ ((s.raise f).core s.issue.core).flt.cur = some (s.issReport f) ∧
      ∀ l, s.laneIn (s.raise f) l = s.issLane l := by
  have hnot : (s.issReport f).tl = false := State.issReport_tl htl
  obtain ⟨u, hu, hraise⟩ : ∃ u, s.AtHome u ∧
      s.raise f = (u.updCore s.issue.core fun k => { k with flt := k.flt.arrive (s.issReport f) }).msi (64 + clusterOf s.issue.core) := by
    refine ⟨if (s.issReport f).code == 0x0F then
      s.countCtx (s.grid ((s.team s.issue.core (s.issReport f).slot).grid)).ctx fun k => { k with dtraps := satInc 16 k.dtraps } else s,
      .ite (s.atHome_countCtx _ (by exact fun _ => rfl)) (.refl s), ?_⟩
    have hcount : ∀ (p : Prop) [Decidable p] c, (if p then s.countCtx c fun k => { k with dtraps := satInc 16 k.dtraps } else s).core
        s.issue.core = s.core s.issue.core := fun p _ c => by
      split
      · exact (s.atHome_countCtx c (by exact fun _ => rfl)).core _
      · rfl
    have hrun' : (s.core s.issue.core).flt.stopped = false := hrun
    simp only [State.raise, State.report, himp, hnot, Bool.and_false, Bool.false_and, Bool.or_false, Bool.false_eq_true, if_false,
      hcount, hrun']
  have hcore : ((s.raise f).core s.issue.core).flt = (s.core s.issue.core).flt.arrive (s.issReport f) := by
    rw [hraise, State.core_msi, State.core_updCore_same, hu.core]
  have hrun' : (s.core s.issue.core).flt.stopped = false := hrun
  have hcur : ((s.raise f).core s.issue.core).flt.cur = some (s.issReport f) := by
    rw [hcore]; simp [FltUnit.arrive, hrun']
  refine ⟨⟨?_, _, hcur, rfl, rfl, rfl⟩, hcur, fun l => ?_⟩
  · rw [hcore]; simp [FltUnit.arrive, hrun']
  · rw [State.laneIn, hraise, State.group_msi, State.group_updCore_of_teams _ (by exact fun _ => rfl), State.group, State.team, hu.core]
    rfl

/-- Settles O34. -/
theorem fetchAndDecodeFaults : Obligations.FetchAndDecodeFaults := by
  unfold Obligations.FetchAndDecodeFaults
  intro s parcel code addr aux c hs hz hrun htl
  refine ⟨?_, fun hcode => ?_, fun hentry => ?_⟩
  · obtain ⟨hstop, hcur, hlanes⟩ := State.raise_of_outside (f := s.ownFault 0x04 parcel.toNat) hrun rfl htl
    refine ⟨_, s.issReport (s.ownFault 0x04 parcel.toNat), rfl, ?_⟩
    rw [State.orFault_fail hz rfl]
    exact ⟨hstop, hcur, BitVec.ofNat_toNat 64 parcel, hlanes⟩
  · have himp : (s.issReport { s.ownFault code.toNat aux.toNat with addr := addr }).imprecise = false := by
      simp only [List.mem_cons, List.not_mem_nil, or_false] at hcode
      rcases hcode with rfl | rfl | rfl | rfl | rfl <;> rfl
    obtain ⟨hstop, hcur, hlanes⟩ := State.raise_of_outside hrun himp htl
    refine ⟨_, s.issReport { s.ownFault code.toNat aux.toNat with addr := addr }, rfl, ?_⟩
    rw [State.orFault_fail hz rfl]
    exact ⟨hstop, hcur, rfl, (BitVec.ofNat_toNat 64 aux).trans (BitVec.setWidth_eq aux), hlanes⟩
  · obtain ⟨hstop, -, hlanes⟩ := State.raise_of_outside (f := s.ownFault 0x0F 0x40) hrun rfl htl
    refine ⟨_, rfl, ?_⟩
    rw [State.orFault_fail hz (f := s.ownFault 0x0F 0x40) (by simp [hentry, State.demand])]
    exact ⟨hstop, hlanes⟩

/-! ## The trap frame -/

theorem State.ownAccess_coreTlbAdd (s : State) (core : Nat) (e : Tlb) : s.OwnAccess (s.coreTlbAdd core e) :=
  s.ownAccess_updCore core (fun _ _ _ => rfl) (fun _ => rfl) (fun _ => rfl) fun _ h => h

theorem State.ownAccess_tlbLeaf (s : State) (core ctx root va : Nat) : s.OwnAccess (s.tlbLeaf core ctx root va).1 := by
  have hhome := (s.atH_lookup (clusterOf core) ctx root va).home
  unfold State.tlbLeaf
  split
  · exact .refl s
  · split
    · next h => rw [h] at hhome; exact (State.OwnAccess.of_home hhome).trans (State.ownAccess_coreTlbAdd _ _ _)
    · exact .of_home hhome

theorem State.ownAccess_tlbTranslate (s : State) (core ctx root va : Nat) (need : Need) :
    s.OwnAccess (s.tlbTranslate core ctx root va need).1 := by
  have hleaf := s.ownAccess_tlbLeaf core ctx root va
  unfold State.tlbTranslate
  split
  · next h => rw [h] at hleaf; exact hleaf
  · next h => rw [h] at hleaf; exact hleaf

theorem State.ownAccess_writeFrame (s : State) (core : Nat) (g : Grid) (pslot : Nat) (bytes : List Byte) :
    s.OwnAccess (s.writeFrame core g pslot bytes) := by
  have hlost : ∀ t : State, t.OwnAccess (t.countCtx g.ctx fun k => { k with frameLost := satInc 8 k.frameLost }) := fun t =>
    .of_home (t.atHome_countCtx _ fun _ => rfl)
  have hwalk := s.ownAccess_tlbTranslate core g.ctx g.desc.ptRoot (g.desc.frame + pslot * 64) .store
  unfold State.writeFrame
  split
  · exact .refl s
  · dsimp only
    split
    · exact hlost s
    · split
      · next h => rw [h] at hwalk; exact hwalk.trans (hlost _)
      · next h =>
        rw [h] at hwalk
        refine hwalk.trans ?_
        split
        · exact (State.OwnAccess.of_home (State.atH_hWriteSweep _ _ _ _).home).trans (.of_home (State.atHome_sflush _ _ _))
        · split
          · split
            · exact (State.OwnAccess.of_home (State.atH_hostPut _ _ _ _).home).trans (hlost _)
            · exact .of_home (State.atH_hostPut _ _ _ _).home
          · exact hlost _

/-! ## trap, rtrap and brk -/

theorem State.laneIn_of_issue {s t : State} (h : t.issue = s.issue) (l : Nat) : s.laneIn t l = t.issLane l := by
  rw [State.laneIn, ← h]; rfl

theorem State.trapEnter_eq (u : State) (core slot g : Nat) (c : TrapCause) :
    u.trapEnter core slot g c = (u.updGroup core slot g fun x =>
        { x.mapLanes (List.range 32) (fun _ l => l.enterTrap (u.grid (u.team core slot).grid).desc.entry) with
          traps := wrapInc 32 ((u.team core slot).group g).traps }).writeFrame core (u.grid (u.team core slot).grid)
      ((u.team core slot).group g).pslot (c.frame (wrapInc 32 ((u.team core slot).group g).traps)) := rfl

/-- Every lane of the issuing group that has not exited enters the handler, whatever becomes of its frame. -/
theorem State.laneIn_trapEnter {s u : State} (hu : u.Issuing) (hissue : u.issue = s.issue) (c : TrapCause) {l : Nat} (hl : l < 32) :
    s.laneIn (u.trapEnter s.issue.core s.issue.slot s.issue.group c) l = (u.issLane l).enterTrap (u.grid u.issTeam.grid).desc.entry := by
  rw [← hissue, State.trapEnter_eq]
  have hframe := State.ownAccess_writeFrame (u.updIssGroup fun x =>
    { x.mapLanes (List.range 32) (fun _ l => l.enterTrap (u.grid u.issTeam.grid).desc.entry) with
      traps := wrapInc 32 u.issGroup.traps }) u.issue.core (u.grid u.issTeam.grid) u.issGroup.pslot
      (c.frame (wrapInc 32 u.issGroup.traps))
  have hentered := State.issuing_updIssGroup hu (f := fun x =>
    { x.mapLanes (List.range 32) (fun _ l => l.enterTrap (u.grid u.issTeam.grid).desc.entry) with
      traps := wrapInc 32 u.issGroup.traps }) fun y m hm => by simpa [Group.mapLanes] using hm
  refine (State.laneIn_of_issue (hframe.issue.trans hissue) l).trans ((hframe.issLane hentered l).trans ?_)
  refine (congrArg (Group.lane · l) (State.group_updIssGroup hu _)).trans ?_
  exact (Group.lane_mapLanes _ _ _ _ (hu.lanes l hl)).trans (if_pos (by simpa using hl))

theorem State.writeFrame_of_none {s : State} {g : Grid} (h : g.desc.frame = 0) (core pslot : Nat) (bytes : List Byte) :
    s.writeFrame core g pslot bytes = s := by rw [State.writeFrame, if_pos h]

/-- The lanes of the issue advance. -/
theorem State.advance_issuing {s : State} (h : s.Issuing) :
    s.advance.Issuing ∧ s.advance.issTeam.grid = s.issTeam.grid ∧
      ∀ l, s.advance.issLane l = if l ∈ s.issLanes then (s.issLane l).goto s.nextPc else s.issLane l := by
  refine ⟨State.issuing_mapLanes h _ _, (congrArg Team.grid (State.team_updIssGroup h _) :), fun l => ?_⟩
  refine (congrArg (Group.lane · l) (State.group_updIssGroup h _)).trans ?_
  by_cases hl : l ∈ s.issLanes
  · rw [if_pos hl]
    exact (Group.lane_mapLanes _ _ _ _ (h.lanes l (State.issLanes_lt hl))).trans (if_pos (by simpa using hl))
  · rw [if_neg hl]
    exact Group.lane_mapLanes_out _ _ _ _ hl

/-- The lanes at trap level together return from the handler. -/
theorem State.rtrap_inside {s : State} (hall : ∀ l, l < 32 → (s.issLane l).live = true → ((s.issLane l).tl = true ↔ l ∈ s.issLanes))
    (hlive : ∀ l ∈ s.issLanes, (s.issLane l).live = true) :
    (s.issGroup.liveLanes.filter fun l => (s.issGroup.lane l).tl) = s.issLanes := by
  simp only [Group.liveLanes, List.filter_filter, State.issLanes, lanesOf]
  refine List.filter_congr fun l hl => ?_
  have hl' : l < 32 := List.mem_range.1 hl
  have hmem : l ∈ s.issLanes ↔ s.issue.lanes.getLsbD l = true := by simp [State.issLanes, mem_lanesOf, hl']
  rw [Bool.eq_iff_iff, ← hmem, Bool.and_eq_true]
  exact ⟨fun h => (hall l hl' h.2).1 h.1, fun h => ⟨(hall l hl' (hlive l h)).2 h, hlive l h⟩⟩

/-- A breakpoint stops a core that runs, and changes no group. -/
theorem State.raise_breakpoint {s : State} {f : FaultInfo} (hcode : f.code = 0x10) (hrun : s.issCore.flt.stopped = false)
    (hstop : s.issTeam.stopping = false) :
    (s.raise f).StoppedOn s.issue.core f.code f.lanes f.pc ∧ ∀ c n g, (s.raise f).group c n g = s.group c n g := by
  have hrun' : (s.core s.issue.core).flt.stopped = false := hrun
  have hraise : s.raise f = (s.updCore s.issue.core fun k => { k with flt := k.flt.arrive (s.issReport f) }).msi
      (64 + clusterOf s.issue.core) := by
    have hstop' : (s.team s.issue.core (s.issReport f).slot).stopping = false := hstop
    have hcode' : (s.issReport f).code = 0x10 := hcode
    simp [State.raise, State.report, hstop', hcode', hrun']
  rw [hraise]
  refine ⟨?_, fun c n g => ?_⟩
  · rw [State.StoppedOn]
    simp only [State.core_msi, State.core_updCore_same, FltUnit.arrive, hrun', Bool.not_false, if_true, true_and]
    exact ⟨_, rfl, rfl, rfl, rfl⟩
  · rw [State.group_msi]; exact State.group_updCore_of_teams s (by exact fun _ => rfl) c n g

/-- Settles O33. -/
theorem trapResults : Obligations.TrapResults := by
  unfold Obligations.TrapResults
  intro s code hs hz
  refine ⟨fun hentry hm htl => ?_, fun hall hlive => ?_, fun hrun hstop => ?_⟩
  · have hinside : (s.issLanes.any fun l => (s.issLane l).tl) = false := by simpa using htl
    have hpass : firstFault [s.demand (!(s.issLanes.any fun l => (s.issLane l).tl) && s.issGrid.desc.entry != 0) 0x0F 0x40,
        s.demand (s.marked s.issue.core s.issTeam.grid s.issGrid.desc.entry) 0x06 s.issGrid.desc.entry.toNat] = none := by
      have hne : (s.issGrid.desc.entry != 0) = true := by simpa using hentry
      rw [hinside, hm, hne]; rfl
    obtain ⟨hadv, hgrid, hlane⟩ := State.advance_issuing hs
    refine ⟨_, rfl, fun hframe => ?_, fun l hl hlive => ?_⟩
    · rw [State.orFault_pass hz hpass, State.trapEnter_eq]
      have hframe' : (s.advance.grid s.advance.issTeam.grid).desc.frame = 0 := by rw [hgrid]; exact hframe
      exact (congrArg State.mem (State.writeFrame_of_none hframe' _ _ _)).trans rfl
    · rw [State.orFault_pass hz hpass, State.laneIn_trapEnter hadv (by exact rfl) _ hl, hlane l, hgrid]
      have hlive' : (if l ∈ s.issLanes then (s.issLane l).goto s.nextPc else s.issLane l).live = true := by
        split
        · exact hlive
        · exact hlive
      rw [Lane.enterTrap, if_pos hlive']
      refine ⟨rfl, rfl, rfl, rfl, rfl, rfl, rfl, rfl⟩
  · have hinside := State.rtrap_inside hall hlive
    have hpass : firstFault [s.illegal (!s.issLanes.isEmpty && s.issLanes == s.issLanes)] = none := by
      have hne : s.issLanes.isEmpty = false := by simpa using State.issLanes_ne_nil hz
      rw [hne, beq_self_eq_true]; rfl
    have hexec : exec .rtrap s = .next (s.updIssGroup fun y => y.mapLanes s.issLanes fun _ l => l.leaveTrap) := by
      have : exec .rtrap s = execRtrap s := rfl
      rw [this, execRtrap, hinside, State.orFault_pass hz hpass]; rfl
    refine ⟨_, hexec, fun l hl h hshadow => ?_⟩
    have hlane := (State.mapLanes_changes hs fun _ x => x.leaveTrap).done l hl
    rw [hlane, Lane.leaveTrap, hshadow]
    exact ⟨rfl, rfl, rfl, rfl, rfl, rfl, rfl, rfl, rfl, rfl, rfl, rfl⟩
  · obtain ⟨hadv, -, hlane⟩ := State.advance_issuing hs
    have hteam : s.advance.issTeam.stopping = false := (congrArg Team.stopping (State.team_updIssGroup hs _) :).trans hstop
    have hflt : s.advance.issCore.flt.stopped = false :=
      (congrArg (fun k : Core => k.flt.stopped) (State.core_updCore_same s s.issue.core _) :).trans hrun
    obtain ⟨hon, hgroup⟩ := State.raise_breakpoint (f := { s.ownFault 0x10 code.toNat with lanes := s.issue.lanes }) rfl hflt hteam
    refine ⟨_, rfl, ?_, fun l hl => ?_⟩
    · rw [State.orFault_pass hz rfl]; exact hon
    · rw [State.orFault_pass hz rfl, State.laneIn, hgroup]
      exact (hlane l).trans (if_pos hl)

end Sys2Proof.Machine
end

section
/-! SUPPORT. Service registers and what their writes store (O41). -/

namespace Sys2Proof.Machine

set_option Elab.async false

/-! ## Vectors that are unmasked -/

/-- Messages sent one after the other. -/
theorem State.foldl_send_msi (vs : List Nat) (s : State) :
    vs.foldl (fun s v => s.send (.msi v)) s = { s with link := { s.link with sent := (vs.map Out.msi).reverse ++ s.link.sent } } := by
  induction vs generalizing s with
  | nil => rfl
  | cons v vs ih =>
    rw [List.foldl_cons, ih]
    simp [State.send]

/-- The pending vectors that are not masked. -/
def Link.open (l : Link) : List Nat := (List.range 128).filter fun v => l.pending.contains v && !l.masked v

/-- Pending vectors that are not masked send their messages and are pending no more. -/
theorem State.sendPending_eq (s : State) :
    s.sendPending = { s with link := { s.link with
      pending := s.link.pending.filter fun v => !s.link.open.contains v
      sent := (s.link.open.map Out.msi).reverse ++ s.link.sent } } := State.foldl_send_msi _ _

theorem Link.mem_open {l : Link} {v : Nat} : v ∈ l.open ↔ v < 128 ∧ l.pending.contains v = true ∧ l.masked v = false := by
  simp [Link.open]

/-- A vector that is pending and not masked has sent its message. -/
theorem State.sendPending_sent {s : State} {v : Nat} (h : v ∈ s.link.open) :
    s.sendPending.link.pending.contains v = false ∧ Out.msi v ∈ s.sendPending.link.sent := by
  rw [State.sendPending_eq]
  refine ⟨?_, ?_⟩
  · simp [h]
  · simp only [List.mem_append, List.mem_reverse]
    exact .inl (List.mem_map_of_mem h)

/-- With every vector masked nothing is sent. -/
theorem State.sendPending_sent_of_masked {s : State} (h : ∀ v, s.link.masked v = true) : s.sendPending.link.sent = s.link.sent := by
  have hnone : s.link.open = [] := List.eq_nil_iff_forall_not_mem.2 fun v hv => by
    rw [Link.mem_open, h v] at hv; simp at hv
  rw [State.sendPending_eq, hnone]; rfl

/-! ## Writes -/

/-- A write of a register that nothing holds back. -/
theorem exec_registerWrite {s : State} {w : Writer} (h : w = .host → s.mgmt.ready = true ∧ ∀ j, s.joinHost j = none) (r : RegName)
    (i : Nat) (v : DWord) : exec (.registerWrite w r i v) s = .next (s.writeReg w r i v.toNat true true) := by
  have hexec : exec (.registerWrite w r i v) s = execRegisterWrite w r i v s := rfl
  rw [hexec, execRegisterWrite]
  by_cases hw : w = .host
  · obtain ⟨hready, hjoin⟩ := h hw
    simp [hw, hready, State.hostPosted, hjoin]
  · rw [if_neg hw]

/-- Settles O41. -/
theorem registerWrites : Obligations.RegisterWrites := by
  unfold Obligations.RegisterWrites
  intro s w i v
  refine ⟨fun hready => ⟨?_, fun r hr => ?_⟩, fun hw => ⟨fun hi => ?_, fun hi => ?_, ?_, fun hi => ?_, ?_, ?_⟩⟩
  · have hexec : exec (.registerWrite .host .msixCtl i v) s = execRegisterWrite .host .msixCtl i v s := rfl
    rw [hexec, execRegisterWrite]
    simp [hready]
  · have hexec : exec (.registerWrite .host r i v) s = execRegisterWrite .host r i v s := rfl
    rw [hexec, execRegisterWrite]
    simp [hready, hr, State.hostPosted]
  · subst hi
    exact ⟨exec_registerWrite hw _ _ _, exec_registerWrite hw _ _ _, exec_registerWrite hw _ _ _, exec_registerWrite hw _ _ _, exec_registerWrite hw _ _ _,
      exec_registerWrite hw _ _ _, exec_registerWrite hw _ _ _⟩
  · refine (exec_registerWrite hw _ _ _).trans ?_
    rw [State.writeReg, if_neg (by exact Nat.not_le.2 hi)]; rfl
  · have hro : ∀ r, s.writeReg w r i v.toNat true true = s → exec (.registerWrite w r i v) s = .next s := fun r h =>
      (exec_registerWrite hw r i v).trans (congrArg _ h)
    simp only [List.forall_mem_cons]
    refine ⟨hro _ (ite_self s), hro _ (ite_self s), hro _ (ite_self s), hro _ (ite_self s), hro _ (ite_self s), hro _ (ite_self s),
      hro _ (ite_self s), hro _ (ite_self s), hro _ (ite_self s), hro _ (ite_self s), hro _ (ite_self s), hro _ (ite_self s),
      hro _ (ite_self s), hro _ (ite_self s), hro _ (ite_self s), hro _ (ite_self s), hro _ (ite_self s), hro _ (ite_self s),
      hro _ (ite_self s), hro _ (ite_self s), hro _ (ite_self s), List.forall_mem_nil _⟩
  · refine (exec_registerWrite hw _ _ _).trans ?_
    rw [State.writeReg, if_neg (by exact Nat.not_le.2 hi)]; rfl
  · intro hi hhost hclear hmask hpending henable hall
    have hopen : i ∈ ({ s.link with mask := s.link.mask.filter (· != i) } : Link).open :=
      Link.mem_open.2 ⟨hi, hpending, by simp [Link.masked, henable, hall]⟩
    have hsent := State.sendPending_sent (s := { s with link := { s.link with mask := s.link.mask.filter (· != i) } }) hopen
    refine ⟨({ s with link := { s.link with mask := s.link.mask.filter (· != i) } } : State).sendPending, ?_, ?_, hsent.1, hsent.2, ?_, ?_⟩
    · refine (exec_registerWrite hw _ _ _).trans ?_
      have hbit : v.toNat.testBit 0 = false := hclear
      rw [State.writeReg, if_neg (by exact Nat.not_le.2 hi)]
      simp only [if_pos hhost, State.maskVector, hbit]
      rfl
    · rw [State.sendPending_eq]
    · rw [State.sendPending_eq]
    · rw [State.sendPending_eq]
  · intro hi hhost
    have hwrite : exec (.registerWrite w .msixCtl i v) s = .next (({ s with link :=
        { s.link with enable := v.getLsbD 15, allMask := v.getLsbD 14 } } : State).sendPending) := by
      refine (exec_registerWrite hw _ _ _).trans ?_
      rw [State.writeReg, hi, if_neg (by decide)]
      simp only [if_pos hhost]
      rfl
    refine ⟨_, hwrite, by rw [State.sendPending_eq], by rw [State.sendPending_eq], by rw [State.sendPending_eq], fun hoff => ?_,
      fun henable hall n hn hpending hmask => ?_⟩
    · refine State.sendPending_sent_of_masked fun n => ?_
      change (!v.getLsbD 15 || v.getLsbD 14 || s.link.mask.contains n) = true
      rcases hoff with h | h <;> rw [h]
      · rfl
      · rw [Bool.or_true, Bool.true_or]
    · have hopen : (!v.getLsbD 15 || v.getLsbD 14 || s.link.mask.contains n) = false := by rw [henable, hall, hmask]; rfl
      exact State.sendPending_sent (Link.mem_open.2 ⟨hn, hpending, hopen⟩)

end Sys2Proof.Machine
end

section
/-! SUPPORT. The commands of service registers: contexts, queue configuration and doorbells (O43). -/

namespace Sys2Proof.Machine

set_option Elab.async false

/-! ## Entries that are dropped -/

/-- Every core after entries are dropped: a core that is not listed has none. -/
theorem State.core_dropEntries (s : State) (c : Cover) (n : Nat) :
    ((s.dropEntries c).core n).tlb = (s.core n).tlb.filter c.keeps ∧
      ((s.dropEntries c).core n).icache = (s.core n).icache.filter fun x => !c.hitsPage (x.1 / 2 ^ 51) (x.1 % 2 ^ 51 / 1024) := by
  simp only [State.core, State.dropEntries, tblGet_eq_find, tblFind_tblMap]
  cases tblFind s.cores n <;> exact ⟨rfl, rfl⟩

theorem State.cluster_dropEntries (s : State) (c : Cover) (n : Nat) :
    ((s.dropEntries c).cluster n).tlb = (s.cluster n).tlb.filter c.keeps := by
  simp only [State.cluster, State.dropEntries, tblGet_eq_find, tblFind_tblMap]
  cases tblFind s.clusters n <;> rfl

/-- No entry of a context that is dropped is left. -/
theorem Cover.keeps_ctx {c : Nat} {es : List Tlb} : ∀ e ∈ es.filter (Cover.keeps (.ctx c)), e.ctx ≠ c := by
  intro e he hctx
  have := (List.mem_filter.1 he).2
  simp [Cover.keeps, Cover.hits, hctx] at this

/-! ## Contexts -/

/-- A raw write changes no context. -/
theorem State.ctxs_rawWrite (s : State) (pa : Nat) (bs : List Byte) : (s.rawWrite pa bs).ctxs = s.ctxs := by
  have hsweep : (s.sweepAt pa).ctxs = s.ctxs := by
    unfold State.sweepAt
    split <;> rfl
  exact hsweep

/-- The bytes of a raw write stand at H. -/
theorem State.memRead_rawWrite (s : State) (pa : Nat) (bs : List Byte) : memRead (s.rawWrite pa bs).mem.cells pa bs.length = bs :=
  memRead_memWrite _ pa bs

/-- CREATE makes the context live and fresh, with its counts at H zero, and drops its translations. -/
theorem State.createCtx_spec (s : State) (c : Nat) :
    let t := s.createCtx c
    tblFind t.ctxs.live c = some (Ctx.fresh s.ctxs.created) ∧ t.ctxs.running = s.ctxs.running ∧
      memRead t.mem.cells (s.descAt c + 256) 16 = List.replicate 16 0 ∧
      (∀ d, d ≠ c → tblFind t.ctxs.live d = tblFind s.ctxs.live d) ∧ (∀ n, ∀ e ∈ (t.core n).tlb, e.ctx ≠ c) ∧
      ∀ n, ∀ e ∈ (t.cluster n).tlb, e.ctx ≠ c := by
  obtain ⟨u, hu⟩ : ∃ u, u = s.rawWrite (s.descAt c + 256) (zeros 16) := ⟨_, rfl⟩
  have hctxs : u.ctxs = s.ctxs := by rw [hu, State.ctxs_rawWrite]
  have hmem : memRead u.mem.cells (s.descAt c + 256) 16 = List.replicate 16 0 := by
    rw [hu]; exact s.memRead_rawWrite _ (zeros 16)
  have hcreate : s.createCtx c = { u.dropEntries (.ctx c) with ctxs :=
      { u.ctxs with live := tblSet u.ctxs.live c (Ctx.fresh u.ctxs.created), created := u.ctxs.created + 1 } } := by
    rw [hu]; rfl
  rw [hcreate, hctxs]
  refine ⟨tblFind_tblSet_same _ _ _, rfl, hmem, fun d hd => tblFind_tblSet_ne _ _ hd, fun n => ?_, fun n => ?_⟩
  · have hcore := (State.core_dropEntries u (.ctx c) n).1
    intro e he
    exact Cover.keeps_ctx e (hcore ▸ he)
  · have hcluster := State.cluster_dropEntries u (.ctx c) n
    intro e he
    exact Cover.keeps_ctx e (hcluster ▸ he)

/-- What a command's last step does past its refusals. -/
theorem State.ctxStep_free {s : State} {op c : Nat} (h : s.ctxs.running = none ∨ s.ctxs.running = some (op, c)) :
    ∃ u : State, s.ctxStep op c = (if u.ctxRefused op c then u.ctxErr else if op = 1 then u.createCtx c else u.destroyCtx c) ∧
      u.ctxs.live = s.ctxs.live ∧ u.ctxs.count = s.ctxs.count ∧ u.ctxs.base = s.ctxs.base ∧ u.ctxs.cmdErr = s.ctxs.cmdErr ∧
      u.ctxs.running = none ∧ u.ctxInUse c = s.ctxInUse c ∧ u.mem = s.mem := by
  rcases h with h | h
  · refine ⟨{ s with ctxs := { s.ctxs with cmdCtx := c, cmdOp := op, running := none } }, ?_, rfl, rfl, rfl, rfl, rfl, rfl, rfl⟩
    rw [State.ctxStep, h]; rfl
  · refine ⟨{ s with ctxs := { s.ctxs with running := none } }, ?_, rfl, rfl, rfl, rfl, rfl, rfl, rfl⟩
    rw [State.ctxStep, h]
    exact if_pos rfl

/-- A command that is refused sets ERR, whether another runs or not. -/
theorem State.ctxStep_refused {s : State} {op c : Nat} (h : s.ctxRefused op c = true) :
    (s.ctxStep op c).ctxs.cmdErr = true ∧ (s.ctxStep op c).ctxs.live = s.ctxs.live ∧ (s.ctxStep op c).mem = s.mem := by
  by_cases hfree : s.ctxs.running = none ∨ s.ctxs.running = some (op, c)
  · obtain ⟨u, hstep, hlive, hcount, -, -, -, huse, hmem⟩ := State.ctxStep_free hfree
    have hrefused : u.ctxRefused op c = true := by
      rw [← h]; simp only [State.ctxRefused, State.ctx?, hlive, hcount, huse]
    rw [hstep, if_pos hrefused]
    exact ⟨rfl, hlive, hmem⟩
  · rw [not_or] at hfree
    obtain ⟨r, hr⟩ := Option.ne_none_iff_exists'.1 hfree.1
    have hne : r ≠ (op, c) := fun e => hfree.2 (e ▸ hr)
    have hstep : s.ctxStep op c = s.ctxErr := by rw [State.ctxStep, hr]; exact if_neg hne
    rw [hstep]
    exact ⟨rfl, rfl, rfl⟩

/-! ## The grants of a context that ends -/

/-- A core without the points that its islands move to. -/
def Core.unsettled (k : Core) : Core := { k with ntSettle := [] }

/-- t differs from s in clock regions, clusters, messages and the points that islands move to, and the memories stay canonical. -/
structure State.AtClocks (s t : State) : Prop where
  rest : { t with regions := s.regions, clusters := s.clusters, cores := s.cores, link := s.link } = s
  core : ∀ c, (t.core c).unsettled = (s.core c).unsettled
  wf   : s.MemWf → t.MemWf

namespace State.AtClocks
variable {s t u : State}

theorem refl (s : State) : s.AtClocks s := ⟨rfl, fun _ => rfl, id⟩

theorem trans (h : s.AtClocks t) (h' : t.AtClocks u) : s.AtClocks u :=
  ⟨(congrArg (fun x : State => { x with regions := s.regions, clusters := s.clusters, cores := s.cores, link := s.link }) h'.rest :).trans
    h.rest, fun c => (h'.core c).trans (h.core c), h'.wf ∘ h.wf⟩

theorem ctxs (h : s.AtClocks t) : t.ctxs = s.ctxs := (congrArg State.ctxs h.rest :)
theorem power (h : s.AtClocks t) : t.power = s.power := (congrArg State.power h.rest :)
theorem wear (h : s.AtClocks t) : t.wear = s.wear := (congrArg State.wear h.rest :)
theorem sched (h : s.AtClocks t) : t.sched = s.sched := (congrArg State.sched h.rest :)
theorem teams (h : s.AtClocks t) (c : Nat) : (t.core c).teams = (s.core c).teams := (congrArg Core.teams (h.core c) :)
theorem ops (h : s.AtClocks t) (c : Nat) : (t.core c).ops = (s.core c).ops := (congrArg Core.ops (h.core c) :)

theorem foldl {α : Type} {f : State → α → State} (hf : ∀ (s : State) x, s.AtClocks (f s x)) (ls : List α) (s : State) :
    s.AtClocks (ls.foldl f s) := by
  induction ls generalizing s with
  | nil => exact refl s
  | cons x ls ih => exact (hf s x).trans (ih _)

/-- The cores are as they were. -/
theorem of_rest (hrest : { t with regions := s.regions, clusters := s.clusters, link := s.link } = s) : s.AtClocks t := by
  have hcores : t.cores = s.cores := (congrArg State.cores hrest :)
  have hmem : t.mem = s.mem := (congrArg State.mem hrest :)
  refine ⟨by rw [← hcores]; exact hrest, fun c => by rw [State.core, hcores]; rfl, fun h => ?_⟩
  exact h.of_same (by rw [hmem]) (by rw [hmem]) (by rw [hmem]) hcores

end State.AtClocks

theorem State.atClocks_updRegion (s : State) (r : Nat) (f : Region → Region) : s.AtClocks (s.updRegion r f) := .of_rest rfl

theorem State.atClocks_updCluster (s : State) (c : Nat) (f : Cluster → Cluster) : s.AtClocks (s.updCluster c f) := .of_rest rfl

theorem Core.memWf_of_unsettled {k k' : Core} (h : k'.unsettled = k.unsettled) (hk : k.memWf) : k'.memWf := by
  have hspad : k'.spad = k.spad := (congrArg Core.spad h :)
  have hengine : k'.engine = k.engine := (congrArg Core.engine h :)
  rw [Core.memWf, hspad, hengine]
  exact hk

theorem State.atClocks_updCore (s : State) (c : Nat) {f : Core → Core} (hf : ∀ k, (f k).unsettled = k.unsettled) :
    s.AtClocks (s.updCore c f) where
  rest := rfl
  core d := by
    by_cases hd : d = c
    · subst hd; rw [State.core_updCore_same, hf]
    · rw [State.core_updCore_ne _ _ hd]
  wf h := State.memWf_updCore h (Core.memWf_of_unsettled (hf _))

theorem State.atClocks_setReason (s : State) (c : Nat) (x : ThrCause) : s.AtClocks (s.setReason c x) := by
  have hmsi : ∀ t : State, t.AtClocks (t.msi 84) := fun t => by
    unfold State.msi
    split
    · split
      · exact .refl t
      · exact .of_rest rfl
    · exact .of_rest rfl
  unfold State.setReason
  split
  · exact .refl s
  · exact (s.atClocks_updCluster c _).trans (hmsi _)

theorem Core.unsettled_moveIsland (k : Core) (i : Nat) (near : Bool) : (k.moveIsland i near).unsettled = k.unsettled := by
  unfold Core.moveIsland
  split
  · rfl
  · rfl

theorem State.atClocks_retarget (s : State) (region : Nat) : s.AtClocks (s.retarget region) := by
  unfold State.retarget
  split
  · exact s.atClocks_updRegion region _
  · split
    · exact (s.atClocks_updRegion region _).trans (State.atClocks_setReason _ _ _)
    · dsimp only
      split
      · exact s.atClocks_updRegion region _
      · refine (s.atClocks_updRegion region _).trans (.foldl (fun t c => t.atClocks_updCore c fun k => ?_) _ _)
        exact foldl_keeps (p := Core.unsettled) (fun k i => k.unsettled_moveIsland i false) _ k

/-- The end of a grant changes no context; the grants that are left are those of other numbers. -/
theorem State.endGrant_spec (s : State) (id : Nat) :
    (s.endGrant id).ctxs = s.ctxs ∧ (s.endGrant id).power.grants = s.power.grants.filter fun x => x.id != id := by
  unfold State.endGrant
  split
  · next h =>
    refine ⟨rfl, (List.filter_eq_self.2 fun g hg => ?_).symm⟩
    simpa using List.find?_eq_none.1 h g hg
  · next g h =>
    have hret := State.atClocks_retarget { s with power := { s.power with
      grants := s.power.grants.filter fun x => x.id != id, tokOut := s.power.tokOut - g.tok } } g.region
    exact ⟨hret.ctxs, congrArg Power.grants hret.power⟩

/-- Grants that end one after the other. -/
theorem State.endGrants_spec (gs : List Grant) (s : State) :
    (gs.foldl (fun s g => s.endGrant g.id) s).ctxs = s.ctxs ∧
      ∀ g ∈ (gs.foldl (fun s g => s.endGrant g.id) s).power.grants, g ∈ s.power.grants ∧ g ∉ gs := by
  induction gs generalizing s with
  | nil => exact ⟨rfl, fun g hg => ⟨hg, List.not_mem_nil⟩⟩
  | cons x gs ih =>
    obtain ⟨hctxs, hleft⟩ := s.endGrant_spec x.id
    obtain ⟨hctxs', hleft'⟩ := ih (s.endGrant x.id)
    refine ⟨hctxs'.trans hctxs, fun g hg => ?_⟩
    obtain ⟨hg, hnot⟩ := hleft' g hg
    rw [hleft] at hg
    obtain ⟨hmem, hid⟩ := List.mem_filter.1 hg
    refine ⟨hmem, fun h => ?_⟩
    rcases List.mem_cons.1 h with rfl | h
    · simp at hid
    · exact hnot h

/-- DESTROY ends the context, and every grant of it. -/
theorem State.destroyCtx_spec (s : State) (c : Nat) :
    let t := s.destroyCtx c
    tblFind t.ctxs.live c = none ∧ (∀ d, d ≠ c → tblFind t.ctxs.live d = tblFind s.ctxs.live d) ∧
      (∀ g ∈ t.power.grants, g.ctx ≠ c) ∧ t.ctxs.running = s.ctxs.running ∧ t.ctxs.cmdErr = s.ctxs.cmdErr := by
  obtain ⟨u, hu⟩ : ∃ u, u = ((s.dropEntries (.ctx c)).power.grants.filter fun g => g.ctx == c).foldl (fun s g => s.endGrant g.id)
    (s.dropEntries (.ctx c)) := ⟨_, rfl⟩
  obtain ⟨hctxs, hleft⟩ := State.endGrants_spec ((s.dropEntries (.ctx c)).power.grants.filter fun g => g.ctx == c)
    (s.dropEntries (.ctx c))
  rw [← hu] at hctxs hleft
  have hdestroy : s.destroyCtx c = { u with ctxs := { u.ctxs with live := tblDel u.ctxs.live c } } := by rw [hu]; rfl
  have hsame : u.ctxs = s.ctxs := hctxs
  rw [hdestroy, hsame]
  refine ⟨tblFind_tblDel_same _ _, fun d hd => tblFind_tblDel_ne _ hd, fun g hg hctx => ?_, rfl, rfl⟩
  obtain ⟨hmem, hnot⟩ := hleft g hg
  exact hnot (List.mem_filter.2 ⟨hmem, by simpa using hctx⟩)

/-! ## Launch queues -/

theorem State.queue_updQueue_same (s : State) (q : Nat) (f : Queue → Queue) : (s.updQueue q f).queue q = f (s.queue q) :=
  tblGet_tblUpd_same _ _ _ _

theorem State.queue_updQueue_ne (s : State) {q p : Nat} (f : Queue → Queue) (h : p ≠ q) : (s.updQueue q f).queue p = s.queue p :=
  tblGet_tblUpd_ne _ _ _ h

/-- The SIG_SEL byte of the record at TAIL is read. -/
def State.readSel (s : State) (q : Nat) : State × List Byte :=
  s.hRead (.ctx (s.queue q).ctx) 0 ((s.queue q).slotAt (s.queue q).tail + 218) 1

/-- The number that a record with a selector takes on its launch timeline; 0 where it takes none. -/
def State.signalNum (s : State) (ctx sel : Nat) : Nat :=
  match s.ctx? ctx with
  | some c => if isLaunchSel sel then (tblGet Timeline.start c.tls (sel - 64)).next else 0
  | none => 0

/-- The launch timeline accepts the record. -/
def State.takeNum (s : State) (ctx sel : Nat) : State :=
  if s.signalNum ctx sel = 0 then s else s.updCtx ctx fun c =>
    { c with tls := tblUpd Timeline.start c.tls (sel - 64) fun t => t.accept.2 }

/-- The machine as the record at TAIL is about to join its queue, and its selector. -/
def State.beforePend (s : State) (q : Nat) : State := (s.readSel q).1.takeNum (s.queue q).ctx (leNat (s.readSel q).2)

theorem State.sched_updCtx (s : State) (c : Nat) (f : Ctx → Ctx) : (s.updCtx c f).sched = s.sched := by
  unfold State.updCtx
  split <;> rfl

theorem State.queues_beforePend (s : State) (q : Nat) : (s.beforePend q).sched.queues = s.sched.queues := by
  have hread : (s.readSel q).1.sched.queues = s.sched.queues := (congrArg Sched.queues (s.atH_hRead _ _ _ _).home.sched :)
  have htake : ∀ (u : State) ctx sel, (u.takeNum ctx sel).sched = u.sched := fun u ctx sel => by
    unfold State.takeNum
    split
    · rfl
    · exact u.sched_updCtx _ _
  exact (congrArg Sched.queues (htake _ _ _)).trans hread

/-- The entry that the record at TAIL becomes. -/
def State.newPend (s : State) (q : Nat) : Pend :=
  let sel := leNat (s.readSel q).2
  { id := s.sched.gridCtr, sel := sel, num := (s.readSel q).1.signalNum (s.queue q).ctx sel
    bad := ((s.beforePend q).ctx? (s.queue q).ctx).isNone || !selOk sel }

theorem State.pendOne_eq (s : State) (q : Nat) :
    s.pendOne q = (({ s.beforePend q with sched := { (s.beforePend q).sched with gridCtr := (s.sched.gridCtr + 1) % 2 ^ 63 } } :
      State).updQueue q fun x => { x with tail := (x.tail + 1) % 2 ^ 31, pend := x.pend ++ [s.newPend q] }, s.sched.gridCtr) := rfl

/-- One record becomes pending, with the next grid id. -/
theorem State.pendOne_spec (s : State) (q : Nat) :
    let t := (s.pendOne q).1
    (t.queue q).tail = ((s.queue q).tail + 1) % 2 ^ 31 ∧ (t.queue q).head = (s.queue q).head ∧
      (t.queue q).pend.map (·.id) = (s.queue q).pend.map (·.id) ++ [s.sched.gridCtr] ∧
      t.sched.gridCtr = (s.sched.gridCtr + 1) % 2 ^ 63 := by
  have hqueues : (s.beforePend q).sched.queues = s.sched.queues := s.queues_beforePend q
  have hqueue : (s.beforePend q).queue q = s.queue q := by rw [State.queue, hqueues]; rfl
  have hid : (s.newPend q).id = s.sched.gridCtr := rfl
  rw [State.pendOne_eq]
  generalize s.newPend q = p at hid
  generalize s.beforePend q = u at hqueue
  dsimp only
  rw [State.queue_updQueue_same]
  have hsame : ({ u with sched := { u.sched with gridCtr := (s.sched.gridCtr + 1) % 2 ^ 63 } } : State).queue q = s.queue q := hqueue
  rw [hsame]
  exact ⟨rfl, rfl, by simp [hid], rfl⟩

/-- Records become pending one after the other, with the next grid ids. -/
theorem State.pendMany_spec (q n : Nat) (s : State) (hctr : s.sched.gridCtr + n < 2 ^ 63) (htail : (s.queue q).tail < 2 ^ 31) :
    let t := s.pendMany q n
    (t.queue q).tail = ((s.queue q).tail + n) % 2 ^ 31 ∧ (t.queue q).head = (s.queue q).head ∧
      (t.queue q).pend.map (·.id) = (s.queue q).pend.map (·.id) ++ (List.range n).map (· + s.sched.gridCtr) ∧
      t.sched.gridCtr = s.sched.gridCtr + n := by
  induction n generalizing s with
  | zero => exact ⟨(Nat.mod_eq_of_lt htail).symm, rfl, by simp [State.pendMany], rfl⟩
  | succ n ih =>
    obtain ⟨htail', hhead, hpend, hctr'⟩ := s.pendOne_spec q
    rw [Nat.mod_eq_of_lt (by omega)] at hctr'
    obtain ⟨htail'', hhead', hpend', hctr''⟩ := ih (s.pendOne q).1 (by rw [hctr']; omega) (by rw [htail']; exact Nat.mod_lt _ (by decide))
    refine ⟨htail''.trans ?_, hhead'.trans hhead, hpend'.trans ?_, hctr''.trans ?_⟩
    · rw [htail']; omega
    · rw [hpend, hctr', List.append_assoc]
      congr 1
      rw [List.range_succ_eq_map]
      simp only [List.map_cons, List.map_map, List.singleton_append]
      congr 1
      · omega
      · exact List.map_congr_left fun i _ => by simp only [Function.comp_apply]; omega
    · rw [hctr']; omega

/-- A write of CTX_CMD by the service firmware. -/
theorem exec_writeCtxCmd (s : State) (v : DWord) :
    exec (.registerWrite .service .ctxCmd 0 v) s = .next (s.writeCtxCmd v.toNat) := rfl

/-- GO starts a command that nothing refuses. -/
theorem State.ctxCommand_go {s : State} {c op : Nat} (hrun : s.ctxs.running = none) (hok : s.ctxRefused op c = false) :
    s.ctxCommand c op true = { s with ctxs := { s.ctxs with cmdCtx := c, cmdOp := op, running := some (op, c) } } := by
  have hno : ¬(s.ctxs.running.isSome || s.ctxRefused op c) = true := by rw [hrun, hok]; decide
  simp only [State.ctxCommand, Bool.not_true, Bool.false_eq_true, if_false]
  exact if_neg hno

theorem State.writeCtxCmd_go {s : State} {v : Nat} (hgo : v.testBit 0 = true) (herr : v.testBit 62 = false)
    (hrun : s.ctxs.running = none) (hok : s.ctxRefused (field v 3 1) (field v 47 32) = false) :
    s.writeCtxCmd v = { s with ctxs := { s.ctxs with cmdCtx := field v 47 32, cmdOp := field v 3 1
                                                     running := some (field v 3 1, field v 47 32) } } := by
  simp only [State.writeCtxCmd, herr, hgo, Bool.false_eq_true, if_false]
  exact State.ctxCommand_go hrun hok

/-- GO while a command runs sets ERR and nothing else of the contexts. -/
theorem State.writeCtxCmd_busy {s : State} {v : Nat} (hgo : v.testBit 0 = true) (hrun : s.ctxs.running.isSome) :
    let t := s.writeCtxCmd v
    t.ctxs.running = s.ctxs.running ∧ t.ctxs.live = s.ctxs.live ∧ t.ctxs.cmdErr = true ∧ t.mem = s.mem := by
  by_cases h62 : v.testBit 62 <;> simp [State.writeCtxCmd, State.ctxCommand, hgo, hrun, h62, State.ctxErr]

theorem State.hostPosted_pass {s : State} {i : Instr} {k : State → State} (hready : s.mgmt.ready = true) (hjoin : s.joinHost i = none) :
    s.hostPosted i k = k s := by simp [State.hostPosted, hready, hjoin]

/-- A doorbell makes the records up to TAIL pending. -/
theorem State.writePtr_doorbell {s : State} {q v : Nat} (herr : v.testBit 63 = false) (hsrc : (s.queue q).src = false)
    (hmore : 0 < (field v 30 0 + 2 ^ 31 - (s.queue q).tail) % 2 ^ 31)
    (hahead : (field v 30 0 + 2 ^ 31 - (s.queue q).tail) % 2 ^ 31 ≤ (field v 30 0 + 2 ^ 31 - (s.queue q).head) % 2 ^ 31)
    (hroom : (field v 30 0 + 2 ^ 31 - (s.queue q).head) % 2 ^ 31 ≤ (s.queue q).slots) :
    s.writePtr q v = s.pendMany q ((field v 30 0 + 2 ^ 31 - (s.queue q).tail) % 2 ^ 31) := by
  have hne : field v 30 0 ≠ (s.queue q).tail := fun h => by
    rw [h, Nat.add_sub_cancel_left] at hmore; simp at hmore
  simp only [State.writePtr, herr, Bool.false_eq_true, if_false, if_neg hne, hsrc, Bool.false_or]
  rw [if_neg]
  simp; omega

/-- Settles O43. -/
theorem contextAndQueueCommands : Obligations.ContextAndQueueCommands := by
  unfold Obligations.ContextAndQueueCommands
  intro s ctx q v
  refine ⟨fun hgo herr hrun hok => ?_, fun hgo hrun => ?_, fun hlive hcount hfree => ?_, fun hbad => ?_, fun hlive huse hfree => ?_,
    fun hbad => ?_, fun hready => ⟨?_, ?_⟩, fun hready hjoin hq hempty hidle => ?_,
    fun hready hjoin hq herr hsrc htail => fun hmore hahead hroom hctr => ?_⟩
  · refine ⟨_, (exec_writeCtxCmd s v).trans (congrArg _ (State.writeCtxCmd_go hgo herr hrun hok)), rfl, rfl, rfl, rfl⟩
  · exact ⟨_, exec_writeCtxCmd s v, State.writeCtxCmd_busy hgo hrun⟩
  · obtain ⟨u, hstep, hl, hc, hb, -, hr, -, hm⟩ := State.ctxStep_free hfree
    have hok : u.ctxRefused 1 ctx.toNat = false := by
      simp only [State.ctxRefused, State.ctx?, hl, hc]; simpa [hlive] using hcount
    have hcreate : s.ctxStep 1 ctx.toNat = u.createCtx ctx.toNat := by rw [hstep, hok]; rfl
    obtain ⟨hnew, hrunning, hzero, hother, hcores, hclusters⟩ := u.createCtx_spec ctx.toNat
    have hdesc : u.descAt ctx.toNat = s.descAt ctx.toNat := by rw [State.descAt, hb]; rfl
    rw [hdesc] at hzero
    rw [hl] at hother
    have hexec : exec (.ctxCreate ctx) s = .next (u.createCtx ctx.toNat) := congrArg Host.Outcome.next hcreate
    exact ⟨_, _, hexec, hnew, rfl, rfl, rfl, rfl, rfl, hrunning.trans hr, hzero, hother, hcores, hclusters⟩
  · refine ⟨_, rfl, State.ctxStep_refused ?_⟩
    rcases hbad with h | h
    · simp [State.ctxRefused, State.ctx?, h]
    · simp [State.ctxRefused, h]
  · obtain ⟨u, hstep, hl, hc, hb, he, hr, hu, hm⟩ := State.ctxStep_free hfree
    have hok : u.ctxRefused 2 ctx.toNat = false := by
      simp only [State.ctxRefused, State.ctx?, hl, hu, huse]
      simpa [Option.isSome_iff_ne_none] using hlive
    have hdestroy : s.ctxStep 2 ctx.toNat = u.destroyCtx ctx.toNat := by rw [hstep, hok]; rfl
    obtain ⟨hgone, hother, hgrants, hrunning, herr⟩ := u.destroyCtx_spec ctx.toNat
    rw [hl] at hother
    have hexec : exec (.ctxDestroy ctx) s = .next (u.destroyCtx ctx.toNat) := congrArg Host.Outcome.next hdestroy
    exact ⟨_, hexec, hgone, hother, hgrants, hrunning.trans hr, herr.trans he⟩
  · obtain ⟨herr, hlive, -⟩ := State.ctxStep_refused (s := s) (op := 2) (c := ctx.toNat) (by
      rcases hbad with h | h
      · simp [State.ctxRefused, State.ctx?, h]
      · simp [State.ctxRefused, h])
    exact ⟨_, rfl, herr, hlive⟩
  · exact congrArg Host.Outcome.next (by simp [State.hostPosted, hready])
  · exact congrArg Host.Outcome.next (by simp [State.hostPosted, hready])
  · have hbusy : ((s.queue q).head != (s.queue q).tail || s.sched.grids.any fun g => g.2.queue == q && g.2.started && g.2.dispatching) =
        false := by
      simp only [hempty, bne_self_eq_false, Bool.false_or, List.any_eq_false, Bool.and_eq_true, beq_iff_eq, not_and,
        Bool.not_eq_true]
      exact fun g hg h => hidle g hg h.1 h.2
    have hexec : exec (.lqCfgWrite q v) s = .next (s.updQueue q fun x =>
        { x with en := v.toNat.testBit 63, src := v.toNat.testBit 62, prio := field v.toNat 61 59, log2 := field v.toNat 58 55,
                 ctx := field v.toNat 51 36, base := field v.toNat 35 0 }) :=
      congrArg Host.Outcome.next ((State.hostPosted_pass hready hjoin).trans ((if_pos hq).trans (if_neg (by
        rw [hbusy]; exact Bool.false_ne_true))))
    exact ⟨_, hexec, State.queue_updQueue_same _ _ _, fun p hp => State.queue_updQueue_ne _ _ hp⟩
  · have hexec : exec (.lqDoorbell q v) s = .next (s.writePtr q v.toNat) :=
      congrArg Host.Outcome.next ((State.hostPosted_pass hready hjoin).trans (if_pos hq))
    rw [State.writePtr_doorbell herr hsrc hmore hahead hroom] at hexec
    obtain ⟨htail', hhead, hpend, hctr'⟩ := State.pendMany_spec q _ s hctr htail
    have hnew : v.toNat / 2 ^ 0 % 2 ^ (30 + 1 - 0) < 2 ^ 31 := Nat.mod_lt _ (by decide)
    refine ⟨_, hexec, htail'.trans ?_, hhead, hpend, hctr'⟩
    dsimp only
    omega

end Sys2Proof.Machine
end

section
/-! SUPPORT. Throttle windows and the retirement of cores (O47). -/

namespace Sys2Proof.Machine

set_option Elab.async false

/-! ## Tables that are mapped -/

/-- A change of every listed record that keeps a property of the default. -/
theorem tblGet_tblMap_of {β : Type} {P : β → β → Prop} (d : β) (f : Nat → β → β) (t : Tbl β) (n : Nat) (hd : P d d)
    (hf : ∀ x, P x (f n x)) : P (tblGet d t n) (tblGet d (tblMap f t) n) := by
  simp only [tblGet_eq_find, tblFind_tblMap]
  cases tblFind t n with
  | none => exact hd
  | some x => exact hf x

/-- What the end of a window does with a group. -/
def Group.closeWindow (y : Group) : Group :=
  { y with lls := y.lls / 2, heldW := if y.throttled then y.heldW + 1 else 0, throttled := false }

/-- A group after the end of a window. -/
structure Group.Closed (y z : Group) : Prop where
  lls : z.lls = y.lls / 2
  throttled : z.throttled = false
  heldW : z.heldW = if y.throttled then y.heldW + 1 else 0

/-- Every team and every group of it. -/
def Core.mapGroups (k : Core) (f : Nat → Group → Group) : Tbl Team := tblMap (fun _ t => { t with groups := tblMap f t.groups }) k.teams

theorem Core.group_mapGroups (k k' : Core) {f : Nat → Group → Group} (h : k'.teams = k.mapGroups f) (slot g : Nat) :
    (k'.team slot).group g = tblGet Group.absent (tblMap f (k.team slot).groups) g := by
  simp only [Core.team, h, Core.mapGroups, tblGet_eq_find, tblFind_tblMap]
  cases hfind : tblFind k.teams slot with
  | none => rfl
  | some t => simp [Team.group, tblGet_eq_find]

/-- The cap after a window of some evictions. -/
def Core.nextCap (k : Core) : Nat := if 32 ≤ k.evE then max 2 (k.capC - 2) else if k.evE ≤ 8 then min 64 (k.capC + 1) else k.capC

/-- The core after the end of a window: its groups closed and then marked. -/
def Core.closeWindow (k : Core) (may : Nat → Group → Group) : Core :=
  { k with teams := ({ k with teams := k.mapGroups fun _ => Group.closeWindow } : Core).mapGroups may
           capC := k.nextCap, evE := 0, window := 1024 }

theorem execThrottleWindowEnd_of_over {s : State} {core : Nat} (h : (s.core core).window = 0) :
    ∃ first : List Nat, execThrottleWindowEnd core s =
      .next (s.setCore core ((s.core core).closeWindow fun _ y => { y with mayIssue := first.contains y.uid })) :=
  ⟨_, if_neg (by rw [h]; decide)⟩

/-- Every group of a core is closed, and marked. -/
theorem Core.group_closeWindow (k : Core) (first : List Nat) (slot g : Nat) :
    ((k.team slot).group g).Closed
      (((k.closeWindow fun _ y => { y with mayIssue := first.contains y.uid }).team slot).group g) := by
  have hgroups : ((({ k with teams := k.mapGroups fun _ => Group.closeWindow } : Core).team slot).group g) =
      tblGet Group.absent (tblMap (fun _ => Group.closeWindow) (k.team slot).groups) g := Core.group_mapGroups k _ rfl slot g
  have hclosed : ((k.team slot).group g).Closed
      ((({ k with teams := k.mapGroups fun _ => Group.closeWindow } : Core).team slot).group g) := by
    rw [hgroups]
    exact tblGet_tblMap_of (P := Group.Closed) _ _ _ _ ⟨rfl, rfl, rfl⟩ fun _ => ⟨rfl, rfl, rfl⟩
  rw [Core.group_mapGroups { k with teams := k.mapGroups fun _ => Group.closeWindow } (k.closeWindow _) rfl]
  exact tblGet_tblMap_of (P := fun y z => ∀ x : Group, x.Closed y → x.Closed z) _ _ _ _ (fun _ h => h)
    (fun _ _ h => ⟨h.lls, h.throttled, h.heldW⟩) _ hclosed

/-! ## Retirement -/

theorem State.wearAt_updWear_same (s : State) (u : Nat) (f : Wear → Wear) : (s.updWear u f).wearAt u = f (s.wearAt u) := by
  simp [State.wearAt, State.updWear]

theorem State.wearAt_updWear_ne (s : State) {u v : Nat} (f : Wear → Wear) (h : v ≠ u) : (s.updWear u f).wearAt v = s.wearAt v := by
  simp [State.wearAt, State.updWear, tblFind_tblSet_ne _ _ h]

theorem State.cluster_updCluster_same (s : State) (c : Nat) (f : Cluster → Cluster) : (s.updCluster c f).cluster c = f (s.cluster c) :=
  tblGet_tblUpd_same _ _ _ _

theorem State.cluster_updCluster_ne (s : State) {c d : Nat} (f : Cluster → Cluster) (h : d ≠ c) :
    (s.updCluster c f).cluster d = s.cluster d := tblGet_tblUpd_ne _ _ _ h

/-- The wear records of a core that is retired and of the spare that is called up. -/
def State.swapUnits (s : State) (core spare : Nat) : State :=
  let c := clusterOf core
  let out := fun (w : Wear) => { w with st := 2, logical := none }
  let called := fun (w : Wear) => { w with st := 0, logical := some (core % 256) }
  ((((s.updWear (coreUnit c (s.core core).phys) out).updWear (engineUnit c (s.core core).phys) out).updWear (coreUnit c spare)
    called).updWear (engineUnit c spare) called)

/-- The units of the two cores are four. -/
theorem State.wearAt_swapUnits (s : State) {core spare : Nat} (hp : (s.core core).phys < 272) (hs : spare < 272)
    (hne : (s.core core).phys ≠ spare) :
    (∀ u ∈ [coreUnit (clusterOf core) (s.core core).phys, engineUnit (clusterOf core) (s.core core).phys],
      ((s.swapUnits core spare).wearAt u).st = 2 ∧ ((s.swapUnits core spare).wearAt u).logical = none) ∧
    ∀ u ∈ [coreUnit (clusterOf core) spare, engineUnit (clusterOf core) spare],
      ((s.swapUnits core spare).wearAt u).st = 0 ∧ ((s.swapUnits core spare).wearAt u).logical = some (core % 256) := by
  have h1 : coreUnit (clusterOf core) (s.core core).phys ≠ coreUnit (clusterOf core) spare := by simp only [coreUnit]; omega
  have h2 : engineUnit (clusterOf core) (s.core core).phys ≠ engineUnit (clusterOf core) spare := by
    simp only [engineUnit, coreUnit]; omega
  have h3 : ∀ c p q, p < 272 → coreUnit c p ≠ engineUnit c q := fun c p q h => by simp only [engineUnit, coreUnit]; omega
  simp only [List.forall_mem_cons, State.swapUnits]
  refine ⟨⟨?_, ?_, List.forall_mem_nil _⟩, ?_, ?_, List.forall_mem_nil _⟩
  · rw [State.wearAt_updWear_ne _ _ (h3 _ _ _ hp), State.wearAt_updWear_ne _ _ h1, State.wearAt_updWear_ne _ _ (h3 _ _ _ hp),
      State.wearAt_updWear_same]
    exact ⟨rfl, rfl⟩
  · rw [State.wearAt_updWear_ne _ _ h2, State.wearAt_updWear_ne _ _ (h3 _ _ _ hs).symm, State.wearAt_updWear_same]
    exact ⟨rfl, rfl⟩
  · rw [State.wearAt_updWear_ne _ _ (h3 _ _ _ hs), State.wearAt_updWear_same]
    exact ⟨rfl, rfl⟩
  · rw [State.wearAt_updWear_same]
    exact ⟨rfl, rfl⟩

/-- Settles O47. -/
theorem throttleWindowsAndRetirement : Obligations.ThrottleWindowsAndRetirement := by
  unfold Obligations.ThrottleWindowsAndRetirement
  refine ⟨fun s core h => ?_, fun s core spare hq hg ht hsp hp hs hne => ⟨fun hset => ?_, fun hset => ?_⟩⟩
  · obtain ⟨first, hexec⟩ := execThrottleWindowEnd_of_over h
    refine ⟨_, hexec, ?_, ?_, ?_, fun slot g => ?_⟩
    · rw [State.core_setCore_same]; rfl
    · rw [State.core_setCore_same]; rfl
    · rw [State.core_setCore_same]; rfl
    · have hclosed := (s.core core).group_closeWindow first slot g
      simp only [State.group, State.team, State.core_setCore_same]
      exact ⟨hclosed.lls, hclosed.throttled, hclosed.heldW⟩
  · exact if_pos (by rw [hset]; simp)
  · have hstand : ((s.core core).quiescing && (s.core core).gated && (s.core core).teams.isEmpty && (s.core core).settled &&
        (s.cluster (core / 256)).spares.contains spare) = true := by
      rw [hq, hg, ht, hset, hsp]; rfl
    have hexec : exec (.coreRetire core spare) s = .next ((((((s.swapUnits core spare).updCluster (clusterOf core) fun x =>
        { x with spares := x.spares.filter (· != spare) }).l1WBINV core).updL1 core fun l => { l with pins := [] })).setCore core
          (Core.reset spare)) := if_neg (by
        rw [clusterOf, hstand]; decide)
    have hhome := (State.atHome_l1WBINV ((s.swapUnits core spare).updCluster (clusterOf core) fun x =>
        { x with spares := x.spares.filter (· != spare) }) core).trans (State.atHome_updL1 _ core fun l => { l with pins := [] })
    obtain ⟨hunits, hspare⟩ := s.wearAt_swapUnits hp hs hne
    have hwear := fun u => congrArg (fun w : Wears => (tblFind w.live u).getD (wearStart u)) hhome.wear
    refine ⟨_, hexec, State.core_setCore_same _ _ _, ?_, fun u hu => ?_, fun u hu => ?_⟩
    · have hspares := (congrArg Cluster.spares (hhome.cluster (clusterOf core)) :)
      refine (congrArg (List.contains · spare) hspares).trans ?_
      change (State.cluster _ (clusterOf core)).spares.contains spare = false
      rw [State.cluster_updCluster_same]
      simp
    · obtain ⟨hst, hlogical⟩ := hunits u hu
      exact ⟨(congrArg Wear.st (hwear u)).trans hst, (congrArg Wear.logical (hwear u)).trans hlogical⟩
    · obtain ⟨hst, hlogical⟩ := hspare u hu
      exact ⟨(congrArg Wear.st (hwear u)).trans hst, (congrArg Wear.logical (hwear u)).trans hlogical⟩

end Sys2Proof.Machine
end

section
/-! SUPPORT. Clock regions, near-threshold islands, throttle reasons, tokens and energy (O48). -/

namespace Sys2Proof.Machine

set_option Elab.async false

/-! ## Regions -/

theorem State.region_updRegion_same (s : State) (r : Nat) (f : Region → Region) : (s.updRegion r f).region r = f (s.region r) :=
  tblGet_tblUpd_same _ _ _ _

theorem State.region_updRegion_ne (s : State) {r q : Nat} (f : Region → Region) (h : q ≠ r) :
    (s.updRegion r f).region q = s.region q := tblGet_tblUpd_ne _ _ _ h

/-- A message changes nothing but the link. -/
theorem State.regions_msi (s : State) (v : Nat) : (s.msi v).regions = s.regions := by
  unfold State.msi
  split
  · split
    · rfl
    · rfl
  · rfl

theorem State.clusters_msi (s : State) (v : Nat) : (s.msi v).clusters = s.clusters := by
  unfold State.msi
  split
  · split
    · rfl
    · rfl
  · rfl

/-- The message of a vector that is not masked. -/
theorem State.sent_msi {s : State} {v : Nat} (h : s.link.masked v = false) : (s.msi v).link.sent = .msi v :: s.link.sent := by
  rw [State.msi, h]; rfl

/-! ## Throttle reasons -/

theorem State.atClocks_lowerPoint (s : State) (r : Nat) (c : ThrCause) : s.AtClocks (s.lowerPoint r c) := s.atClocks_updRegion r _

theorem State.getLsbD_thr_setReason (s : State) (cluster : Nat) (c : ThrCause) :
    ((s.setReason cluster c).cluster cluster).thr.getLsbD (thrBit c) = true := by
  unfold State.setReason
  split
  · next h => exact h
  · rw [State.cluster, State.clusters_msi]
    refine (congrArg (fun x : Cluster => x.thr.getLsbD (thrBit c)) (State.cluster_updCluster_same _ _ _)).trans ?_
    cases c <;> simp [thrBit]

/-- A reason that is set stays set. -/
theorem State.thr_setReason_mono {s : State} {d b : Nat} (h : (s.cluster d).thr.getLsbD b = true) (cluster : Nat) (c : ThrCause) :
    ((s.setReason cluster c).cluster d).thr.getLsbD b = true := by
  unfold State.setReason
  split
  · exact h
  · rw [State.cluster, State.clusters_msi]
    change ((s.updCluster cluster _).cluster d).thr.getLsbD b = true
    by_cases hd : d = cluster
    · subst hd
      rw [State.cluster_updCluster_same]
      simp [h]
    · rw [State.cluster_updCluster_ne _ _ hd, h]

/-- The reasons of every cluster of a list are set. -/
theorem State.thr_foldl_setReason (c : ThrCause) (ls : List Nat) (s : State) :
    ∀ d ∈ ls, ((ls.foldl (fun (t : State) x => t.setReason x c) s).cluster d).thr.getLsbD (thrBit c) = true := by
  have hmono : ∀ (ls : List Nat) (s : State) d, (s.cluster d).thr.getLsbD (thrBit c) = true →
      ((ls.foldl (fun (t : State) x => t.setReason x c) s).cluster d).thr.getLsbD (thrBit c) = true := by
    intro ls
    induction ls with
    | nil => exact fun _ _ h => h
    | cons x ls ih => exact fun s d h => ih _ d (State.thr_setReason_mono h x c)
  induction ls generalizing s with
  | nil => exact fun d hd => absurd hd List.not_mem_nil
  | cons x ls ih =>
    intro d hd
    rcases List.mem_cons.1 hd with rfl | hd
    · exact hmono ls _ d (s.getLsbD_thr_setReason d c)
    · exact ih _ d hd

/-! ## Islands -/

theorem Core.islandNear_moveIsland (k : Core) (i : Nat) (near : Bool) (j : Nat) :
    (k.moveIsland i near).islandNear j = if j = i then near else k.islandNear j := by
  unfold Core.moveIsland
  split
  · next h =>
    split
    · next e => rw [e]; exact beq_iff_eq.1 h
    · rfl
  · simp only [Core.islandNear]
    split
    · next e => rw [e, tblFind_tblSet_same]; rfl
    · next e => rw [tblFind_tblSet_ne _ _ e]

theorem Core.teams_moveIsland (k : Core) (i : Nat) (near : Bool) : (k.moveIsland i near).teams = k.teams := by
  unfold Core.moveIsland
  split <;> rfl

theorem Core.ntKeep_moveIsland (k : Core) (i : Nat) (near : Bool) : (k.moveIsland i near).ntKeep = k.ntKeep := by
  unfold Core.moveIsland
  split <;> rfl

/-- Which lanes stand on an island depends on the teams alone. -/
theorem Core.keepsIsland_congr {k k' : Core} (h : k'.teams = k.teams) (i : Nat) : k'.keepsIsland i = k.keepsIsland i := by
  simp only [Core.keepsIsland, Core.onIsland, h]

theorem Core.islandNear_shiftIsland (k : Core) (i : Nat) (near : Bool) (j : Nat) :
    (k.shiftIsland i near).islandNear j = if j = i ∧ k.keepsIsland i = false then near else k.islandNear j := by
  unfold Core.shiftIsland
  cases h : k.keepsIsland i with
  | true => simp
  | false => simp [Core.islandNear_moveIsland]

/-- A core that differs in its islands alone. -/
structure Core.SameTeams (k k' : Core) : Prop where
  teams  : k'.teams = k.teams
  ntKeep : k'.ntKeep = k.ntKeep

theorem Core.sameTeams_shiftIsland (k : Core) (i : Nat) (near : Bool) : k.SameTeams (k.shiftIsland i near) := by
  unfold Core.shiftIsland
  split
  · exact ⟨rfl, rfl⟩
  · exact ⟨k.teams_moveIsland i near, k.ntKeep_moveIsland i near⟩

/-- Islands that move one after the other, each by its own rule. -/
theorem Core.foldl_islands {f : Core → Nat → Core} {k : Core} {val : Nat → Bool → Bool}
    (hf : ∀ k', k.SameTeams k' → ∀ i, k'.SameTeams (f k' i) ∧
      ∀ j, (f k' i).islandNear j = if j = i then val i (k'.islandNear i) else k'.islandNear j)
    (ls : List Nat) (hnodup : ls.Nodup) (k' : Core) (h : k.SameTeams k') (j : Nat) :
    (ls.foldl f k').islandNear j = if j ∈ ls then val j (k'.islandNear j) else k'.islandNear j := by
  induction ls generalizing k' with
  | nil => rfl
  | cons i ls ih =>
    obtain ⟨hnot, hrest⟩ := List.nodup_cons.1 hnodup
    obtain ⟨hsame, hval⟩ := hf k' h i
    refine (ih hrest (f k' i) ⟨hsame.teams.trans h.teams, hsame.ntKeep.trans h.ntKeep⟩).trans ?_
    rw [hval j]
    by_cases hj : j = i
    · subst hj; simp [hnot]
    · simp [hj]

/-! ## The end of a window of islands -/

/-- How an island goes at the end of a window: it enters, leaves or stays. -/
def Core.windowMove (k : Core) (enter : Bool) (may : Nat → Bool) (leave : Bool) (i : Nat) : Option Bool :=
  if (enter || may i) && tblGet 0 k.ntKeep i == 0 then some true else if leave then some false else none

/-- The near-threshold state of an island after the end of a window. -/
theorem Core.islandNear_window (k : Core) (enter : Bool) (may : Nat → Bool) (leave : Bool) {i : Nat} (hi : i < 4) :
    ((List.range 4).foldl (fun k i => if (enter || may i) && tblGet 0 k.ntKeep i == 0 then k.shiftIsland i true
      else if leave then k.shiftIsland i false else k) k).islandNear i =
      if k.keepsIsland i then k.islandNear i else (k.windowMove enter may leave i).getD (k.islandNear i) := by
  refine (Core.foldl_islands (k := k) (val := fun i old => if k.keepsIsland i then old else (k.windowMove enter may leave i).getD old)
    (fun k' h i => ?_) _ List.nodup_range k ⟨rfl, rfl⟩ i).trans (if_pos (List.mem_range.2 hi))
  have hkeep := Core.keepsIsland_congr h.teams i
  have hmoved : ∀ near j, (k'.shiftIsland i near).islandNear j =
      if j = i then (if k.keepsIsland i then k'.islandNear i else near) else k'.islandNear j := fun near j => by
    rw [Core.islandNear_shiftIsland, hkeep]
    by_cases hj : j = i
    · subst hj; cases k.keepsIsland j <;> simp
    · simp [hj]
  simp only [Core.windowMove, h.ntKeep]
  split
  · exact ⟨k'.sameTeams_shiftIsland i true, hmoved true⟩
  · split
    · exact ⟨k'.sameTeams_shiftIsland i false, hmoved false⟩
    · refine ⟨⟨rfl, rfl⟩, fun j => ?_⟩
      by_cases hj : j = i
      · subst hj; simp
      · simp [hj]

/-- The end of a window, whatever the islands may do by themselves. -/
theorem execNtWindowEnd_spec {s : State} {core : Nat} (hns : s.ns % 10000 = 0) (hcyc : (s.core core).ntCycles ≠ 0)
    (hauto : (s.core core).ntAuto = true) :
    ∃ t may, execNtWindowEnd core s = .next t ∧ (t.core core).ntCycles = 0 ∧ (t.core core).ntStall = 0 ∧
      (∀ i, (s.core core).sleeps i = false → may i = false) ∧
      ∀ i, i < 4 → (t.core core).islandNear i = if (s.core core).keepsIsland i then (s.core core).islandNear i else
        ((s.core core).windowMove
          (decide ((s.core core).ntEnter * (s.core core).ntCycles ≤ 256 * (s.core core).ntStall) && !s.boosted core) may
          (decide (256 * (s.core core).ntStall < min (s.core core).ntExit (s.core core).ntEnter * (s.core core).ntCycles)) i).getD
            ((s.core core).islandNear i) := by
  have hstand : ¬(s.ns % 10000 != 0 || (s.core core).ntCycles == 0) = true := by simp [hns, hcyc]
  refine ⟨_, fun i => (s.core core).ntAuto && !s.boosted core && (s.core core).sleeps i &&
    (Config.unstated s.stamp (core * 4 + i)).getLsbD 0, if_neg hstand, ?_, ?_, fun i h => ?_, fun i hi => ?_⟩
  · rw [State.core_setCore_same]
  · rw [State.core_setCore_same]
  · simp [h]
  · rw [State.core_setCore_same]
    refine ((s.core core).islandNear_window _ _ _ hi).trans ?_
    simp only [hauto, Bool.true_and]

/-! ## Settled islands -/

/-- An island that settles has the state it was changing to. -/
theorem execIslandPointSettled_spec {s : State} {core island : Nat} {near : Bool}
    (h : tblFind (s.core core).ntSettle island = some near) :
    ∃ t, execIslandPointSettled core island s = .next t ∧ (t.core core).ntSettle = tblDel (s.core core).ntSettle island ∧
      (t.core core).ntCur = if near then (s.core core).ntCur ||| ((1 : BitVec 4) <<< island)
        else (s.core core).ntCur &&& ~~~((1 : BitVec 4) <<< island) := by
  have hexec : ∃ teams : Core → Tbl Team, execIslandPointSettled core island s = .next ((s.updCore core fun k =>
      { k with ntSettle := tblDel k.ntSettle island, ntCur := if near then k.ntCur ||| ((1 : BitVec 4) <<< island)
                                                            else k.ntCur &&& ~~~((1 : BitVec 4) <<< island) }).updCore core fun k =>
        { k with teams := teams k }) := by
    rw [execIslandPointSettled, h]
    exact ⟨_, rfl⟩
  obtain ⟨teams, hexec⟩ := hexec
  refine ⟨_, hexec, ?_, ?_⟩
  · rw [State.core_updCore_same, State.core_updCore_same]
  · rw [State.core_updCore_same, State.core_updCore_same]

/-! ## Causes and tokens -/

/-- A throttle cause sets its bit in the region and in its cluster, and signals a bit that was clear. -/
theorem State.throttleCause_spec (s : State) (r : Nat) (cause : ThrCause) :
    let t := (s.lowerPoint r cause).setReason (regionCluster r) cause
    (t.cluster (regionCluster r)).thr.getLsbD (thrBit cause) = true ∧ (t.region r).causes.getLsbD (thrBit cause) = true ∧
      ((s.cluster (regionCluster r)).thr.getLsbD (thrBit cause) = false → s.link.masked 84 = false →
        t.link.sent = .msi 84 :: s.link.sent) ∧ t.power = s.power := by
  have hregions : ∀ u : State, (u.setReason (regionCluster r) cause).regions = u.regions := fun u => by
    unfold State.setReason
    split
    · rfl
    · exact State.regions_msi _ _
  refine ⟨State.getLsbD_thr_setReason _ _ _, ?_, fun hclear hmask => ?_,
    ((s.atClocks_lowerPoint r cause).trans (State.atClocks_setReason _ _ _)).power⟩
  · rw [State.region, hregions]
    refine (congrArg (fun x : Region => x.causes.getLsbD (thrBit cause)) (State.region_updRegion_same s r _)).trans ?_
    cases cause <;> simp [thrBit]
  · have hclear' : ((s.lowerPoint r cause).cluster (regionCluster r)).thr.getLsbD (thrBit cause) = false := hclear
    rw [State.setReason, hclear']
    exact State.sent_msi hmask

/-- A write of SIZE leaves the tokens that are out, and sets CAP in every cluster where it lowers the pool. -/
theorem State.writeTokens_spec (s : State) (v : Nat) :
    (s.writeTokens v).power = { s.power with size := min 2048 (v % 4096) } ∧
      (min 2048 (v % 4096) < s.power.size → ∀ c, c < 8 → ((s.writeTokens v).cluster c).thr.getLsbD 3 = true) := by
  refine ⟨?_, fun hlow c hc => ?_⟩
  · simp only [State.writeTokens]
    split
    · exact foldl_keeps (p := State.power) (fun t c => (State.atClocks_setReason t c .cap).power) _ _
    · rfl
  · rw [State.writeTokens]
    simp only [if_pos hlow]
    exact State.thr_foldl_setReason .cap _ _ c (List.mem_range.2 hc)

/-- Settles O48. -/
theorem clocksIslandsTokensAndEnergy : Obligations.ClocksIslandsTokensAndEnergy := by
  unfold Obligations.ClocksIslandsTokensAndEnergy
  refine ⟨fun s r core island near cause => ⟨fun hn hissued => ?_, ?_, ?_, ?_, fun hns hcyc hauto => ⟨fun hent hboost => ?_, fun hlv => ?_⟩,
    fun hi hset => ?_, ?_⟩, fun s v die units => ⟨?_, ?_⟩⟩
  · have hstand : (((s.region r).nCur == (s.region r).nTgt) || (s.coresIn r).any fun c => (s.core c).issued != 0) = false := by
      rw [beq_false_of_ne hn, Bool.false_or, List.any_eq_false]
      exact fun c hc => by rw [hissued c hc]; decide
    have hexec : exec (.ratioChange r) s = .next ((s.coresIn r).foldl (fun s' c => s'.updCore c fun k =>
        k.retime false (25 * (s.region r).nCur) (25 * (s.region r).nTgt)) (s.updRegion r fun x => { x with nCur := x.nTgt })) :=
      if_neg (by rw [hstand]; decide)
    have hregions : ∀ u : State, ((s.coresIn r).foldl (fun s' c => s'.updCore c fun k =>
        k.retime false (25 * (s.region r).nCur) (25 * (s.region r).nTgt)) u).regions = u.regions :=
      fun u => foldl_keeps (p := State.regions) (by exact fun _ _ => rfl) _ u
    refine ⟨_, hexec, ⟨?_, fun q hq => ?_⟩, foldl_keeps (p := State.mem) (by exact fun _ _ => rfl) _ _⟩
    · rw [State.region, hregions]; exact State.region_updRegion_same _ _ _
    · rw [State.region, hregions]; exact State.region_updRegion_ne _ _ hq
  · refine ⟨_, rfl, ⟨?_, fun q hq => ?_⟩, fun hlost hmask => ?_⟩
    · split
      · exact State.region_updRegion_same _ _ _
      · rw [State.region, State.regions_msi]; exact State.region_updRegion_same _ _ _
    · split
      · exact State.region_updRegion_ne _ _ hq
      · rw [State.region, State.regions_msi]; exact State.region_updRegion_ne _ _ hq
    · rw [hlost]; exact State.sent_msi hmask
  · exact ⟨s, rfl, rfl, rfl⟩
  · exact ⟨_, rfl, ⟨State.region_updRegion_same _ _ _, fun q hq => State.region_updRegion_ne _ _ hq⟩, rfl⟩
  · obtain ⟨t, may, hexec, hcyc', hstall, -, hnear⟩ := execNtWindowEnd_spec hns hcyc hauto
    refine ⟨t, hexec, hcyc', hstall, fun i hi => ⟨fun hkeep hfree => ?_, fun hkeep => ?_⟩⟩
    · rw [hnear i hi, hfree]
      simp [Core.windowMove, hent, hboost, hkeep]
    · rw [hnear i hi, hkeep]; rfl
  · obtain ⟨t, may, hexec, hcyc', hstall, hmay, hnear⟩ := execNtWindowEnd_spec hns hcyc hauto
    refine ⟨t, hexec, hcyc', hstall, fun i hi => ⟨fun hkeep hsleep => ?_, fun hkeep => ?_⟩⟩
    · have hno : ¬(s.core core).ntEnter * (s.core core).ntCycles ≤ 256 * (s.core core).ntStall := fun h =>
        absurd (Nat.mul_le_mul_right (s.core core).ntCycles (Nat.min_le_right (s.core core).ntExit (s.core core).ntEnter)) (by omega)
      rw [hnear i hi, hkeep]
      simp [Core.windowMove, hno, hlv, hmay i hsleep]
    · rw [hnear i hi, hkeep]; rfl
  · obtain ⟨t, hexec, hsettle, hcur⟩ := execIslandPointSettled_spec hset
    refine ⟨t, hexec, by rw [hsettle, tblFind_tblDel_same], ?_, fun i hi4 hne => ?_⟩
    · rw [hcur]; cases near <;> simp [hi]
    · rw [hcur]
      cases near with
      | false => simp [hi4]; exact fun _ => by omega
      | true => simp [hi4]; exact fun h h' => by omega
  · have hspec := s.throttleCause_spec r cause
    cases cause <;> exact ⟨_, rfl, hspec⟩
  · exact ⟨_, rfl, s.writeTokens_spec v.toNat⟩
  · refine ⟨_, rfl, tblGet_tblSet_same _ _ _ _, ?_, fun d hd => ⟨tblGet_tblSet_ne _ _ _ hd, ?_⟩⟩
    · dsimp only
      split
      · next h => simp; omega
      · next h => rw [tblGet_tblSet_same]; simp; omega
    · dsimp only
      split
      · rfl
      · exact tblGet_tblSet_ne _ _ _ hd

end Sys2Proof.Machine
end

section
/-! SUPPORT. Wear ticks, commits and boost requests (O49). -/

namespace Sys2Proof.Machine

set_option Elab.async false

/-! ## The wear tick -/

theorem wearStart_calibrated (n : Nat) : (wearStart n).calibrated = wearStart n := by
  unfold wearStart
  split
  · rfl
  · split
    · rfl
    · rfl

/-- New factors take effect in every record. -/
theorem State.wearAt_calibrated (s : State) (n : Nat) :
    ({ s with wear := { s.wear with live := tblMap (fun _ => Wear.calibrated) s.wear.live } } : State).wearAt n =
      (s.wearAt n).calibrated := by
  simp only [State.wearAt, tblFind_tblMap]
  cases tblFind s.wear.live n with
  | none => exact (wearStart_calibrated n).symm
  | some w => rfl

/-- The increments of one unit that does not rest. -/
theorem State.tickUnits_one {s : State} {u : WearSample} (h : s.unitRests u.unit = false) :
    (s.tickUnits [] [u]).wearAt u.unit = (s.wearAt u.unit).calibrated.tick ⟨s.unitV [] u, u.t8, u.d, u.act, u.cur⟩ ∧
      ∀ n, n ≠ u.unit → (s.tickUnits [] [u]).wearAt n = (s.wearAt n).calibrated := by
  have hrests : ({ s with wear := { s.wear with live := tblMap (fun _ => Wear.calibrated) s.wear.live } } : State).unitRests u.unit =
      false := h
  have hone : s.tickUnits [] [u] = ({ s with wear := { s.wear with live := tblMap (fun _ => Wear.calibrated) s.wear.live } } :
      State).updWear u.unit fun w => w.tick ⟨s.unitV [] u, u.t8, u.d, u.act, u.cur⟩ := by
    simp only [State.tickUnits, List.foldl_cons, List.foldl_nil, hrests, Bool.false_eq_true, if_false]
    rfl
  rw [hone]
  exact ⟨by rw [State.wearAt_updWear_same, State.wearAt_calibrated],
    fun n hn => by rw [State.wearAt_updWear_ne _ _ hn, State.wearAt_calibrated]⟩

theorem State.atClocks_hold (s : State) (r : Nat) : s.AtClocks (s.hold r) :=
  (s.atClocks_lowerPoint r .reliab).trans (State.atClocks_setReason _ _ _)

theorem State.atClocks_checkCeilings (s : State) : s.AtClocks s.checkCeilings := by
  refine State.AtClocks.foldl (fun t g => ?_) _ s
  split
  · exact .refl t
  · exact t.atClocks_hold _

theorem State.atClocks_tickRegions (s : State) (rs : List RegionSample) : s.AtClocks (s.tickRegions rs) := by
  refine (State.AtClocks.foldl (fun t r => t.atClocks_updRegion _ _) rs s).trans (State.AtClocks.foldl (fun t r => ?_) _ _)
  dsimp only
  split
  · exact .refl t
  · split
    · exact (t.atClocks_updRegion r _).trans (State.atClocks_retarget _ r)
    · exact t.atClocks_updRegion r _

/-- Steps that each leave the state as it is. -/
theorem foldl_eq_self {α β : Type} {f : β → α → β} {s : β} (ls : List α) (h : ∀ x, f s x = s) : ls.foldl f s = s := by
  induction ls with
  | nil => rfl
  | cons x ls ih => rw [List.foldl_cons, h x]; exact ih

/-- With no core at rest no rest ends. -/
theorem State.endRests_of_none {s : State} (h : ∀ c, (s.core c).rest = none) : s.endRests = s :=
  foldl_eq_self _ fun c => by simp only [h c]

/-- Filling a cluster with cores at dusk changes cores alone. -/
theorem State.fillDusk_rest (cluster n : Nat) (s : State) : { s.fillDusk cluster n with cores := s.cores } = s := by
  induction n generalizing s with
  | zero => rfl
  | succ n ih =>
    unfold State.fillDusk
    dsimp only
    split
    · split
      · next c h =>
        exact (congrArg (fun x : State => { x with cores := s.cores }) (ih (s.updCore c fun k =>
          { k with gated := true, rest := some (s.power.h, s.power.duskLen) })) :)
      · rfl
    · rfl

theorem State.firstEntry_congr {s t : State} (h : t.sched = s.sched) : t.firstEntry = s.firstEntry := by
  simp only [State.firstEntry, State.entries, State.gridEntry, State.queue, h]

/-- With nothing waiting nothing is admitted. -/
theorem State.admitAll_of_none {s : State} (h : s.firstEntry = none) (n : Nat) : s.admitAll n = s := by
  cases n with
  | zero => rfl
  | succ n => rw [State.admitAll, h]

/-- The machine once the records and the counters of a tick have gone on. -/
def State.ticked (s : State) (us : List WearSample) : State :=
  let u := (s.tickUnits [] us).checkCeilings
  { u with power := { u.power with h := u.power.h + 1, tickAt := s.ns } }

/-- The life budget's requests and the grants' charges of a tick. -/
def State.charged (s : State) (ns : Nat) : State :=
  { s.applyLife with power := { s.applyLife.power with grants := s.applyLife.power.grants.map (Grant.atTick · ns) } }

def State.dusk (s : State) : State :=
  if s.power.duskEn then (List.range 8).foldl (fun (s : State) c => s.fillDusk c 8) s else s

theorem execWearTick_eq {s : State} {us : List WearSample} (hns : s.ns % 1000000 = 0) (hat : s.ns ≠ s.power.tickAt) :
    execWearTick [] us s = .next ((((s.ticked us).endRests.tickRegions []).charged s.ns).dusk.admitAll 65536) :=
  if_neg (by simp [hns, hat])

theorem State.tickUnits_rest (s : State) (us : List WearSample) : { s.tickUnits [] us with wear := s.wear } = s :=
  foldl_keeps (p := fun t : State => { t with wear := s.wear }) (by exact fun _ _ => rfl) us _

theorem State.dusk_rest (s : State) : { s.dusk with cores := s.cores } = s := by
  have hfill : ∀ (ls : List Nat) (t : State), { t with cores := s.cores } = s →
      { ls.foldl (fun (t : State) c => t.fillDusk c 8) t with cores := s.cores } = s := fun ls => by
    induction ls with
    | nil => exact fun _ h => h
    | cons c ls ih =>
      exact fun t h => ih (t.fillDusk c 8)
        ((congrArg (fun x : State => { x with cores := s.cores }) (State.fillDusk_rest c 8 t) :).trans h)
  unfold State.dusk
  split
  · exact hfill _ s rfl
  · rfl

/-- A tick with no rest that ends and nothing that waits. -/
theorem execWearTick_quiet {s : State} (us : List WearSample) (hns : s.ns % 1000000 = 0) (hat : s.ns ≠ s.power.tickAt)
    (hentry : s.firstEntry = none) (hrest : ∀ c, (s.core c).rest = none) :
    ∃ t, execWearTick [] us s = .next t ∧ t.wear.live = (s.tickUnits [] us).wear.live ∧
      t.power.h = s.power.h + 1 ∧ t.power.tickAt = s.ns ∧ t.power.targetH = s.power.targetReq.getD s.power.targetH ∧
      t.power.reserve = s.power.reserveReq.getD s.power.reserve := by
  have hunits := s.tickUnits_rest us
  have hceil := State.atClocks_checkCeilings (s.tickUnits [] us)
  have hcores : ∀ c, ((s.ticked us).core c).rest = none := fun c => by
    have hcore : (s.tickUnits [] us).core c = s.core c :=
      congrArg (tblGet (Core.reset (c % 256)) · c) (congrArg State.cores hunits :)
    exact ((congrArg Core.rest (hceil.core c) :).trans (congrArg Core.rest hcore :)).trans (hrest c)
  have hregions := State.atClocks_tickRegions (s.ticked us) []
  have hdusk := State.dusk_rest (((s.ticked us).tickRegions []).charged s.ns)
  have hsched : (((s.ticked us).tickRegions []).charged s.ns).dusk.sched = s.sched :=
    (((congrArg State.sched hdusk :).trans hregions.sched).trans hceil.sched).trans (congrArg State.sched hunits :)
  have hexec := execWearTick_eq (us := us) hns hat
  rw [State.endRests_of_none hcores, State.admitAll_of_none ((State.firstEntry_congr hsched).trans hentry)] at hexec
  have hpower : (((s.ticked us).tickRegions []).charged s.ns).dusk.power = (((s.ticked us).tickRegions []).charged s.ns).power :=
    (congrArg State.power hdusk :)
  have hticked : ((s.ticked us).tickRegions []).power = { s.power with h := s.power.h + 1, tickAt := s.ns } := by
    rw [hregions.power, State.ticked, hceil.power, show (s.tickUnits [] us).power = s.power from (congrArg State.power hunits :)]
  have hwear : (((s.ticked us).tickRegions []).charged s.ns).dusk.wear.live = ((s.ticked us).tickRegions []).wear.live :=
    (congrArg (fun x : State => x.wear.live) hdusk :)
  refine ⟨_, hexec, ?_, ?_, ?_, ?_, ?_⟩
  · rw [hwear, hregions.wear]
    exact congrArg Wears.live hceil.wear
  all_goals
    rw [hpower]
    simp only [State.charged, State.applyLife, hticked]

/-! ## Commits -/

theorem tblFind_map_values {β γ : Type} (f : β → γ) (t : Tbl β) (n : Nat) :
    tblFind (t.map fun c => (c.1, f c.2)) n = (tblFind t n).map f := by
  induction t with
  | nil => rfl
  | cons c t ih =>
    simp only [List.map_cons, tblFind, ih]
    split <;> rfl

/-- A commit of a unit writes its record and its image, and those of no other unit. -/
theorem State.commitUnit_spec (s : State) (n : Nat) :
    (s.commitUnit n).wearAt n = (s.wearAt n).commit ∧ tblFind (s.commitUnit n).wear.mram n = some ((s.wearAt n).commit.image n) ∧
      ∀ m, m ≠ n → (s.commitUnit n).wearAt m = s.wearAt m ∧ tblFind (s.commitUnit n).wear.mram m = tblFind s.wear.mram m := by
  refine ⟨?_, tblFind_tblSet_same _ _ _, fun m hm => ⟨?_, tblFind_tblSet_ne _ _ hm⟩⟩
  · simp [State.wearAt, State.commitUnit]
  · simp [State.wearAt, State.commitUnit, tblFind_tblSet_ne _ _ hm]

/-- The step of a commit: the first unit, or the one it comes to. -/
theorem execWearCommit_spec {s : State} {n : Nat}
    (h : (s.wear.commit = none ∧ n = 0 ∧ s.ns % 1000000000 = 0 ∧ s.wear.began ≠ some s.ns) ∨ s.wear.commit = some n) :
    ∃ t, execWearCommit s = .next t ∧ t.wear.live = (s.commitUnit n).wear.live ∧ t.wear.mram = (s.commitUnit n).wear.mram ∧
      (n + 1 < wearUnits → t.wear.commit = some (n + 1) ∧ t.wear.seq = s.wear.seq) ∧
      (wearUnits ≤ n + 1 → t.wear.commit = none ∧ t.wear.seq = s.wear.seq + 1 ∧ t.wear.summary = t.summaryNow) := by
  rcases h with ⟨hnone, rfl, hns, hbegan⟩ | hsome
  · have hstand : ¬(s.ns % 1000000000 != 0 || s.wear.began == some s.ns) = true := by simp [hns, hbegan]
    have hexec : execWearCommit s = .next { s.commitUnit 0 with wear :=
        { (s.commitUnit 0).wear with commit := some 1, began := some s.ns } } := by
      rw [execWearCommit, hnone]
      exact if_neg hstand
    exact ⟨_, hexec, rfl, rfl, fun _ => ⟨rfl, rfl⟩, fun h => absurd h (by decide)⟩
  · by_cases hn : n + 1 < wearUnits
    · have hexec : execWearCommit s = .next { s.commitUnit n with wear := { (s.commitUnit n).wear with commit := some (n + 1) } } := by
        rw [execWearCommit, hsome]
        exact if_pos hn
      exact ⟨_, hexec, rfl, rfl, fun _ => ⟨rfl, rfl⟩, fun h => absurd hn (by omega)⟩
    · obtain ⟨u, hu⟩ : ∃ u : State, u = { s.commitUnit n with wear :=
        { (s.commitUnit n).wear with commit := none, seq := s.wear.seq + 1 } } := ⟨_, rfl⟩
      have hexec : execWearCommit s = .next { u with wear := { u.wear with summary := u.summaryNow } } := by
        rw [execWearCommit, hsome, hu]
        exact if_neg hn
      exact ⟨_, hexec, by rw [hu], by rw [hu], fun h => absurd h hn, fun _ => ⟨by rw [hu], by rw [hu], rfl⟩⟩

/-! ## Operations that complete -/

/-- A completing operation is forgotten, and its lanes take their results. -/
theorem Core.completeOp_spec {k : Core} {o : Op} {slot g : Nat} (hfind : k.findGroup o.uid = some (slot, g)) :
    tblFind (k.completeOp o).ops o.id = none ∧ ∀ l, l < 32 → (tblFind ((k.team slot).group g).lanes l).isSome →
      o.lanes.getLsbD l = true → (((k.completeOp o).team slot).group g).lane l = o.finishLane l (((k.team slot).group g).lane l) := by
  refine ⟨?_, fun l hl hlisted hlane => ?_⟩
  · simp only [Core.completeOp]
    exact tblFind_tblDel_same _ _
  · obtain ⟨hteam, hgroup⟩ := Core.listed_of_lane hlisted
    have hteams : (k.completeOp o).teams = (k.updTeam slot fun t => t.updGroup g fun y =>
        y.mapLanes (lanesOf o.lanes) fun l x => o.finishLane l x).teams := by
      simp only [Core.completeOp, Core.updByUid, hfind]
    have hin : (lanesOf o.lanes).contains l = true := by simp [mem_lanesOf, hl, hlane]
    rw [Core.team, hteams]
    change (((k.updTeam slot _).team slot).group g).lane l = _
    rw [Core.team_updTeam_same _ _ _ hteam, Team.group_updGroup_same _ _ _ hgroup, Group.lane_mapLanes _ _ _ _ hlisted, if_pos hin]

/-- A lane takes its own result alone. -/
theorem Op.finishLane_values (o : Op) {l : Nat} {v w : List (Nat × List Word)} (h : tblGet [] v l = tblGet [] w l) (x : Lane) :
    ({ o with values := v } : Op).finishLane l x = ({ o with values := w } : Op).finishLane l x := by
  simp only [Op.finishLane, h]

/-- The pair of registers that answers a boost request. -/
def boostPair (point dur code : Nat) : List Word := [BitVec.ofNat 32 (point * 256 + code), BitVec.ofNat 32 dur]

/-- The operation of a boost request completes with its pair, in every lane of it. -/
theorem State.finishBoost_spec {s u : State} {r : BoostReq} {o : Op} {slot g : Nat}
    (hteams : (u.core r.core).teams = (s.core r.core).teams) (hops : (u.core r.core).ops = (s.core r.core).ops)
    (hop : tblFind (s.core r.core).ops r.op = some o) (hid : o.id = r.op)
    (hfind : (s.core r.core).findGroup o.uid = some (slot, g)) (dur point code : Nat) :
    let t := u.finishBoost r dur point code
    tblFind (t.core r.core).ops r.op = none ∧ t.power = u.power ∧
      ∀ l, l < 32 → (tblFind (s.group r.core slot g).lanes l).isSome → o.lanes.getLsbD l = true →
        (t.group r.core slot g).lane l =
          Op.finishLane { o with values := [(l, boostPair point dur code)] } l ((s.group r.core slot g).lane l) := by
  have hop' : tblFind (u.core r.core).ops r.op = some o := by rw [hops, hop]
  have hfind' : (u.core r.core).findGroup o.uid = some (slot, g) := by rw [← hfind, Core.findGroup, hteams]; rfl
  have hgroup : u.group r.core slot g = s.group r.core slot g := by
    simp only [State.group, State.team, Core.team, hteams]
  have hcore : (u.finishBoost r dur point code).core r.core =
      (u.core r.core).completeOp { o with values := (lanesOf o.lanes).map fun l => (l, boostPair point dur code) } := by
    rw [State.finishBoost, State.core_updCore_same, hop']
    rfl
  obtain ⟨hgone, hlanes⟩ := Core.completeOp_spec
    (o := { o with values := (lanesOf o.lanes).map fun l => (l, boostPair point dur code) }) hfind'
  refine ⟨?_, rfl, fun l hl hlisted hlane => ?_⟩
  · rw [hcore, ← hid]; exact hgone
  · rw [← hgroup] at hlisted ⊢
    have hin : l ∈ lanesOf o.lanes := mem_lanesOf.2 ⟨hl, hlane⟩
    have hvalue : tblGet [] ((lanesOf o.lanes).map fun l => (l, boostPair point dur code)) l =
        tblGet [] [(l, boostPair point dur code)] l := by
      rw [tblGet_of_find (tblFind_map_of_mem hin)]; simp [tblGet]
    exact (congrArg (fun k : Core => ((k.team slot).group g).lane l) hcore).trans
      ((hlanes l hl hlisted hlane).trans (Op.finishLane_values o hvalue _))

/-! ## Boost requests -/

/-- What the end of grants keeps. -/
structure State.FreedFrom (s t : State) : Prop where
  core     : ∀ c, (t.core c).unsettled = (s.core c).unsettled
  requests : t.power.requests = s.power.requests
  ns       : t.ns = s.ns

theorem State.freedFrom_endGrants (gs : List Grant) (s : State) : s.FreedFrom (gs.foldl (fun s g => s.endGrant g.id) s) := by
  have hone : ∀ (s : State) id, s.FreedFrom (s.endGrant id) := fun s id => by
    unfold State.endGrant
    split
    · exact ⟨fun _ => rfl, rfl, rfl⟩
    · next g h =>
      have hret := State.atClocks_retarget { s with power := { s.power with
        grants := s.power.grants.filter fun x => x.id != id, tokOut := s.power.tokOut - g.tok } } g.region
      exact ⟨hret.core, (congrArg Power.requests hret.power :), (congrArg State.ns hret.rest :)⟩
  induction gs generalizing s with
  | nil => exact ⟨fun _ => rfl, rfl, rfl⟩
  | cons g gs ih =>
    have h := hone s g.id
    have h' := ih (s.endGrant g.id)
    exact ⟨fun c => (h'.core c).trans (h.core c), h'.requests.trans h.requests, h'.ns.trans h.ns⟩

/-- A request leaves the queue of requests. -/
def State.withoutRequest (s : State) (r : BoostReq) : State :=
  { s with power := { s.power with requests := s.power.requests.erase r } }

/-- The grants of the request's context in its region end. -/
def State.freed (s : State) (r : BoostReq) : State :=
  ((s.withoutRequest r).grantsOf r.ctx (s.regionOf r.core)).foldl (fun s g => s.endGrant g.id) (s.withoutRequest r)

/-- The grant that a request is given. -/
def State.newGrant (s : State) (r : BoostReq) (region p d : Nat) (c : Int) (tok : Nat) : Grant :=
  { id := s.fresh, ctx := r.ctx, region := region, point := p, tok := tok, charge := c, held := c, dur := d, at_ := s.ns }

/-- The tokens of a point. -/
def State.pointTok (s : State) (p : Nat) : Nat := (tblGet ⟨false, 0, 0, 0⟩ s.power.pts p).tok

/-- The machine with the grant of a request, before its region moves. -/
def State.granted (s : State) (r : BoostReq) (p d : Nat) (c : Int) : State :=
  { s.freed r with fresh := (s.freed r).fresh + 1, power := { (s.freed r).power with
    grants := (s.freed r).power.grants ++ [(s.freed r).newGrant r (s.regionOf r.core) p d c (s.pointTok p)]
    tokOut := (s.freed r).power.tokOut + s.pointTok p } }

theorem execBoostEvaluate_eq {s : State} {r : BoostReq} (hnext : s.nextBoost = some r) (hready : s.boostReady r = true) :
    execBoostEvaluate s = match (s.freed r).boostAnswer (s.regionOf r.core) r.point r.us with
      | .ended => .next ((s.freed r).finishBoost r 0 0 0)
      | .refused code =>
        .next ((if code < 4 ∧ (s.withoutRequest r).tooHigh (s.regionOf r.core) r.point 0 then
          (s.withoutRequest r).setReason (regionCluster (s.regionOf r.core)) .reliab else s.withoutRequest r).finishBoost r 0 0 code)
      | .granted p d c =>
        .next ((if ((s.granted r p d c).retarget (s.regionOf r.core)).tooHigh (s.regionOf r.core) r.point p then
          ((s.granted r p d c).retarget (s.regionOf r.core)).setReason (regionCluster (s.regionOf r.core)) .reliab
          else (s.granted r p d c).retarget (s.regionOf r.core)).finishBoost r d p 0) := by
  rw [execBoostEvaluate, hnext]
  simp only [hready, Bool.not_true, Bool.false_eq_true, if_false]
  rfl

theorem State.atClocks_setReason_ite (s : State) (p : Prop) [Decidable p] (c : Nat) (x : ThrCause) :
    s.AtClocks (if p then s.setReason c x else s) := by
  split
  · exact s.atClocks_setReason c x
  · exact .refl s

/-- The last step of an evaluation: past clocks and reasons, the request's operation completes. -/
theorem execBoostEvaluate_finishes {s : State} {r : BoostReq} (hnext : s.nextBoost = some r) (hready : s.boostReady r = true) :
    match (s.freed r).boostAnswer (s.regionOf r.core) r.point r.us with
    | .ended => execBoostEvaluate s = .next ((s.freed r).finishBoost r 0 0 0)
    | .refused code => ∃ u, (s.withoutRequest r).AtClocks u ∧ execBoostEvaluate s = .next (u.finishBoost r 0 0 code)
    | .granted p d c => ∃ u, (s.granted r p d c).AtClocks u ∧ execBoostEvaluate s = .next (u.finishBoost r d p 0) := by
  rw [execBoostEvaluate_eq hnext hready]
  split
  · rfl
  · exact ⟨_, State.atClocks_setReason_ite _ _ _ _, rfl⟩
  · exact ⟨_, (State.atClocks_retarget _ _).trans (State.atClocks_setReason_ite _ _ _ _), rfl⟩

/-- Settles O49. -/
theorem wearAndBoostRecords : Obligations.WearAndBoostRecords := by
  unfold Obligations.WearAndBoostRecords
  refine ⟨fun s u unit cB cH cE => ⟨fun hns hat hentry hrest hunit => ?_, fun n hn => ?_, ?_, fun hok => ?_⟩,
    fun s r o slot g hnext hready hop hid hfind => ?_, fun s g hg hover => ?_⟩
  · obtain ⟨t, hexec, hlive, hh, htick, htarget, hreserve⟩ := execWearTick_quiet [u] hns hat hentry hrest
    obtain ⟨hone, hother⟩ := State.tickUnits_one hunit
    have hat : ∀ n, t.wearAt n = (s.tickUnits [] [u]).wearAt n := fun n => by rw [State.wearAt, hlive]; rfl
    exact ⟨t, hexec, (hat _).trans hone, fun n hn => (hat n).trans (hother n hn), hh, htick, htarget, hreserve⟩
  · obtain ⟨t, hexec, hlive, hmram, hmore, hlast⟩ := execWearCommit_spec hn
    obtain ⟨hrec, himage, hother⟩ := s.commitUnit_spec n
    have hat : ∀ n', t.wearAt n' = (s.commitUnit n).wearAt n' := fun n' => by rw [State.wearAt, hlive]; rfl
    exact ⟨t, hexec, (hat n).trans hrec, hmram ▸ himage, fun m hm => ⟨(hat m).trans (hother m hm).1, hmram ▸ (hother m hm).2⟩,
      hmore, hlast⟩
  · exact ⟨_, rfl, rfl, rfl, rfl, fun n => tblFind_map_values _ _ _⟩
  · simp only [List.forall_mem_cons] at hok
    obtain ⟨hb, hh, he, -⟩ := hok
    exact ⟨_, if_neg (by simp [hb, hh, he]), State.wearAt_updWear_same _ _ _, fun n hn => State.wearAt_updWear_ne _ _ hn⟩
  · have hexec := execBoostEvaluate_finishes hnext hready
    have hfreed := State.freedFrom_endGrants ((s.withoutRequest r).grantsOf r.ctx (s.regionOf r.core)) (s.withoutRequest r)
    have hteams : ((s.freed r).core r.core).teams = (s.core r.core).teams := (congrArg Core.teams (hfreed.core r.core) :)
    have hops : ((s.freed r).core r.core).ops = (s.core r.core).ops := (congrArg Core.ops (hfreed.core r.core) :)
    have hrequests : (s.freed r).power.requests = s.power.requests.erase r := hfreed.requests
    refine ⟨fun h => ?_, fun code h => ?_, fun point dur charge h => ?_⟩
    · have hanswer : (s.freed r).boostAnswer (s.regionOf r.core) r.point r.us = .ended := h
      rw [hanswer] at hexec
      obtain ⟨hgone, hpower, hlanes⟩ := State.finishBoost_spec hteams hops hop hid hfind 0 0 0
      refine ⟨_, hexec, ⟨hgone, (congrArg Power.requests hpower).trans hrequests, hlanes⟩, ?_⟩
      rw [State.grantsOf, hpower]
      refine List.filter_eq_nil_iff.2 fun x hx hmine => ?_
      obtain ⟨hmem, hnot⟩ := (State.endGrants_spec _ _).2 x hx
      exact hnot (List.mem_filter.2 ⟨hmem, hmine⟩)
    · have hanswer : (s.freed r).boostAnswer (s.regionOf r.core) r.point r.us = .refused code := h
      rw [hanswer] at hexec
      obtain ⟨u, hu, hexec⟩ := hexec
      obtain ⟨hgone, hpower, hlanes⟩ := State.finishBoost_spec (hu.teams r.core) (hu.ops r.core) hop hid hfind 0 0 code
      exact ⟨_, hexec, ⟨hgone, (congrArg Power.requests (hpower.trans hu.power) :), hlanes⟩,
        (congrArg Power.grants (hpower.trans hu.power) :)⟩
    · have hanswer : (s.freed r).boostAnswer (s.regionOf r.core) r.point r.us = .granted point dur charge := h
      rw [hanswer] at hexec
      obtain ⟨u, hu, hexec⟩ := hexec
      obtain ⟨hgone, hpower, hlanes⟩ := State.finishBoost_spec ((hu.teams r.core).trans hteams) ((hu.ops r.core).trans hops) hop hid hfind
        dur point 0
      have hpow := hpower.trans hu.power
      exact ⟨_, (s.freed r).newGrant r (s.regionOf r.core) point dur charge (s.pointTok point), hexec,
        ⟨hgone, (congrArg Power.requests hpow).trans hrequests, hlanes⟩, congrArg Power.grants hpow, rfl, rfl, rfl, rfl, rfl,
        hfreed.ns, congrArg Power.tokOut hpow, rfl⟩
  · have hexec : exec (.boostGrantExpire g.id) s = .next (s.endGrant g.id) := by
      have : exec (.boostGrantExpire g.id) s = execBoostGrantExpire g.id s := rfl
      rw [this, execBoostGrantExpire, hg]
      exact congrArg Host.Outcome.next (if_pos hover)
    refine ⟨_, hexec, ?_, (s.endGrant_spec g.id).2⟩
    rw [State.endGrant, hg]
    exact congrArg Power.tokOut (State.atClocks_retarget _ _).power

end Sys2Proof.Machine
end

section
/-! SUPPORT. The SPDM responder, secure sessions and full resets (O50, O51, O52). -/

namespace Sys2Proof.Machine

set_option Elab.async false

/-! ## The SPDM responder -/

/-- What a response changes, where vector 86 is not masked (R400, R414). -/
def State.replied (s : State) (code : Byte) (p : List Byte) : State :=
  { s with link := { s.link with sent := Out.msi 86 :: Out.spdm ([0x13, code] ++ p) :: s.link.sent } }

theorem State.respond_eq {s : State} (h : s.link.masked 86 = false) (code : Nat) (p : List Byte) :
    s.respond code p = s.replied (BitVec.ofNat 8 code) p :=
  if_neg (Bool.not_eq_true _ ▸ h)

theorem State.spdmError_eq {s : State} (h : s.link.masked 86 = false) : s.spdmError = s.replied 0x7F [] :=
  State.respond_eq h _ _

theorem State.spdm_ready {s : State} (h : s.mgmt.ready = true) (k : State) : s.spdm k = k := if_pos h

theorem State.spdm_early {s : State} (h : s.mgmt.ready = false) (k : State) : s.spdm k = s.send .retry :=
  if_neg (Bool.not_eq_true _ ▸ h)

theorem any_slot_eq_true {rs : List SpdmReq} {slot : Nat} :
    (rs.any fun r => r.slot == slot) = true ↔ ∃ r ∈ rs, r.slot = slot := by
  simp only [List.any_eq_true, beq_iff_eq]

theorem any_slot_eq_false {rs : List SpdmReq} {slot : Nat} (h : ∀ r ∈ rs, r.slot ≠ slot) :
    ¬(rs.any fun r => r.slot == slot) = true :=
  fun hany => (any_slot_eq_true.1 hany).elim fun r hr => h r hr.1 hr.2

theorem State.chain_of_ne {s : State} {slot : Nat} (h : slot ≠ 0) : s.chain slot = tblFind s.trust.chains slot := if_neg h

/-- What may change where a staged chain takes effect. -/
theorem State.unstage_eq (s : State) (slot : Nat) :
    ∃ chains staged, s.unstage slot = { s with trust := { s.trust with chains := chains, staged := staged } } := by
  unfold State.unstage
  split
  · exact ⟨s.trust.chains, s.trust.staged, rfl⟩
  · split
    · exact ⟨_, _, rfl⟩
    · exact ⟨s.trust.chains, s.trust.staged, rfl⟩

theorem State.unstage_of_named {s : State} {slot : Nat} (h : ∃ r ∈ s.trust.pending, r.slot = slot) : s.unstage slot = s :=
  if_pos (any_slot_eq_true.2 h)

theorem State.unstage_of_staged {s : State} {slot : Nat} {new : List Byte} (h : ∀ r ∈ s.trust.pending, r.slot ≠ slot)
    (hnew : tblFind s.trust.staged slot = some new) :
    s.unstage slot = { s with trust := { s.trust with chains := tblSet s.trust.chains slot new,
                                                      staged := tblDel s.trust.staged slot } } := by
  rw [State.unstage, if_neg (any_slot_eq_false h), hnew]

/-- A signed request, in its three cases (R402, log entry 43). -/
theorem State.signedRequest_cases {s : State} (hmask : s.link.masked 86 = false) (r : SpdmReq) (again : Instr)
    (content : State → List Byte) (code : Nat)
    (hcontent : content { s with trust := { s.trust with pending := s.trust.pending.erase r } } = content s) :
    (s.chain r.slot = none → s.signedRequest r again content code = s.replied 0x7F []) ∧
    ∀ chain, s.chain r.slot = some chain →
      (s.trust.pending.count r ≤ s.agenda.count (.again again) →
        s.signedRequest r again content code =
          { s with trust := { s.trust with pending := s.trust.pending ++ [r] }, agenda := s.agenda ++ [.again again] }) ∧
      (s.agenda.count (.again again) < s.trust.pending.count r →
        let body := sha384 chain ++ Config.nonce s.stamp ++ content s
        let left := s.trust.pending.erase r
        let t := s.signedRequest r again content code
        t.link = (s.replied (BitVec.ofNat 8 code) (body ++ Config.signature (s.dice true) r.slot body)).link ∧
          t.trust.pending = left ∧ t.mem = s.mem ∧ t.cores = s.cores ∧ t.agenda = s.agenda ∧
          ((∃ x ∈ left, x.slot = r.slot) → t.trust.chains = s.trust.chains ∧ t.trust.staged = s.trust.staged) ∧
          ((∀ x ∈ left, x.slot ≠ r.slot) → ∀ new, r.slot ≠ 0 → tblFind s.trust.staged r.slot = some new →
            t.chain r.slot = some new ∧ tblFind t.trust.staged r.slot = none)) := by
  refine ⟨fun hnone => ?_, fun chain hchain => ⟨fun hle => ?_, fun hlt => ?_⟩⟩
  · rw [State.signedRequest, if_pos (by rw [hnone]; rfl), State.spdmError_eq hmask]
  · rw [State.signedRequest, if_neg (by rw [hchain]; exact Bool.false_ne_true), if_neg (Nat.not_lt.2 hle)]
  · -- the response goes out with the chain in effect, and only then a staged chain may take effect
    let body := sha384 chain ++ Config.nonce s.stamp ++ content s
    let u := { s with trust := { s.trust with pending := s.trust.pending.erase r } }
    let v := u.replied (BitVec.ofNat 8 code) (body ++ Config.signature (s.dice true) r.slot body)
    have hsigned : u.signed code r.slot (content u) = v := by
      have hc : u.chain r.slot = some chain := hchain
      have hb : sha384 ((u.chain r.slot).getD []) ++ Config.nonce u.stamp ++ content u = body := by
        rw [hc, hcontent]; rfl
      rw [State.signed, hb]
      exact State.respond_eq (s := u) hmask code _
    have hreq : s.signedRequest r again content code = v.unstage r.slot := by
      rw [State.signedRequest, if_neg (by rw [hchain]; exact Bool.false_ne_true), if_pos hlt]
      exact congrArg (fun x => State.unstage x r.slot) hsigned
    intro _ left t
    have ht : t = v.unstage r.slot := hreq
    obtain ⟨chains, staged, hun⟩ := v.unstage_eq r.slot
    rw [ht]
    refine ⟨by rw [hun]; rfl, by rw [hun]; rfl, by rw [hun]; rfl, by rw [hun]; rfl, by rw [hun]; rfl, fun hnamed => ?_,
      fun hfree new hslot hnew => ?_⟩
    · rw [State.unstage_of_named (s := v) hnamed]
      exact ⟨rfl, rfl⟩
    · rw [State.unstage_of_staged (s := v) hfree hnew, State.chain_of_ne hslot]
      exact ⟨tblFind_tblSet_same _ _ _, tblFind_tblDel_same _ _⟩

theorem State.measured_eq (s : State) (index : Nat) (raw : Bool) :
    s.measured index raw = BitVec.ofNat 8 index :: if raw then s.measurement index else sha384 (s.measurement index) := by
  have hone : natLe index 1 = [BitVec.ofNat 8 index] := by
    rw [natLe, natLe, List.cons.injEq]
    exact ⟨BitVec.eq_of_toNat_eq (by simp), rfl⟩
  rw [State.measured, hone]
  rfl

/-- The digests of the chains in effect, slot 0 first. -/
theorem State.digests_eq (s : State) :
    ((List.range 8).flatMap fun i => match s.chain i with | some c => sha384 c | none => []) =
      (List.range 8).flatMap fun i => ((s.chain i).map sha384).getD [] := by
  congr 1
  funext i
  cases s.chain i <;> rfl

/-- An index outside Table 17.2 gets the ERROR response, signed or not. -/
theorem execGetMeasurements_of_outside {s : State} {index : Nat} (h : ¬(1 ≤ index ∧ index ≤ 6)) (raw : Bool)
    (signed : Option Nat) : execGetMeasurements index raw signed s = .next (s.spdm s.spdmError) := by
  have hbad : (index = 0 || 6 < index) = true := by simp only [Bool.or_eq_true, decide_eq_true_eq]; omega
  unfold execGetMeasurements
  rw [if_pos hbad]

theorem execGetMeasurements_of_inside {s : State} {index : Nat} (h₁ : 1 ≤ index) (h₂ : index ≤ 6) (raw : Bool) :
    execGetMeasurements index raw none s = .next (s.spdm (s.respond 0x60 (s.measured index raw))) ∧
    ∀ slot, execGetMeasurements index raw (some slot) s = .next (s.spdm
      (s.signedRequest (.measurements index raw slot) (.getMeasurements index raw (some slot))
        (fun t => t.measured index raw) 0x60)) := by
  have hok : ¬(index = 0 || 6 < index) = true := by simp only [Bool.or_eq_true, decide_eq_true_eq]; omega
  exact ⟨by rw [execGetMeasurements.eq_def, if_neg hok], fun slot => by rw [execGetMeasurements.eq_def, if_neg hok]⟩

/-- Settles O50: with READY set each request runs as its own response, and a signed one as `signedRequest_cases` says. -/
theorem spdmRequests : Obligations.SpdmRequests := by
  intro s slot index nonce raw hmask reply
  refine ⟨fun hready => ?_, fun hready => ?_⟩
  · have h : ∀ k, s.spdm k = s.send .retry := State.spdm_early hready
    simp only [List.forall_mem_cons]
    exact ⟨congrArg Host.Outcome.next (h _), congrArg Host.Outcome.next (h _), congrArg Host.Outcome.next (h _),
      congrArg Host.Outcome.next (h _), congrArg Host.Outcome.next (h _), congrArg Host.Outcome.next (h _),
      congrArg Host.Outcome.next (h _), congrArg Host.Outcome.next (h _), List.forall_mem_nil _⟩
  · have hk : ∀ k, s.spdm k = k := State.spdm_ready hready
    have hr : ∀ code p, s.spdm (s.respond code p) = reply (BitVec.ofNat 8 code) p := fun code p =>
      (hk _).trans (State.respond_eq hmask code p)
    have herr : s.spdm s.spdmError = reply 0x7F [] := (hk _).trans (State.spdmError_eq hmask)
    refine ⟨congrArg Host.Outcome.next (hr 0x04 _), congrArg Host.Outcome.next (hr 0x61 _),
      congrArg Host.Outcome.next (hr 0x63 _), ?_, ?_, fun h₁ h₂ => ?_, fun h signed => ?_, ?_⟩
    · exact congrArg Host.Outcome.next ((hr 0x01 _).trans (congrArg (reply 1) s.digests_eq))
    · have hexec : exec (.getCertificate slot) s = execGetCertificate slot s := rfl
      rw [hexec, execGetCertificate]
      cases s.chain slot with
      | none => exact congrArg Host.Outcome.next herr
      | some c => exact congrArg Host.Outcome.next (hr 0x02 c)
    · have hexec : exec (.getMeasurements index raw none) s = execGetMeasurements index raw none s := rfl
      rw [hexec, (execGetMeasurements_of_inside h₁ h₂ raw).1, State.measured_eq]
      exact congrArg Host.Outcome.next (hr 0x60 _)
    · exact (execGetMeasurements_of_outside h raw signed).trans (congrArg Host.Outcome.next herr)
    · simp only [List.forall_mem_cons]
      refine ⟨fun _ _ => ?_, fun h₁ h₂ => ?_, List.forall_mem_nil _⟩
      · obtain ⟨hnone, hsome⟩ := State.signedRequest_cases hmask (.challenge slot nonce) (.challenge slot nonce)
          (fun _ => natLe nonce 32) 0x03 rfl
        have hexec : exec (.challenge slot nonce) s = .next (s.signedRequest (.challenge slot nonce) (.challenge slot nonce)
            (fun _ => natLe nonce 32) 0x03) := congrArg Host.Outcome.next (hk _)
        exact ⟨fun h => hexec.trans (congrArg _ (hnone h)), fun chain hc =>
          ⟨fun hle => hexec.trans (congrArg _ ((hsome chain hc).1 hle)), fun hlt => ⟨_, hexec, (hsome chain hc).2 hlt⟩⟩⟩
      · obtain ⟨hnone, hsome⟩ := State.signedRequest_cases hmask (.measurements index raw slot)
          (.getMeasurements index raw (some slot)) (fun t => t.measured index raw) 0x60 rfl
        have hexec := ((execGetMeasurements_of_inside (s := s) h₁ h₂ raw).2 slot).trans
          (congrArg Host.Outcome.next (hk _))
        exact ⟨fun h => hexec.trans (congrArg _ (hnone h)), fun chain hc =>
          ⟨fun hle => hexec.trans (congrArg _ ((hsome chain hc).1 hle)), fun hlt => ⟨_, hexec, (hsome chain hc).2 hlt⟩⟩⟩

/-! ## Secure sessions -/

theorem State.inSession_iff {s : State} {id : Nat} : s.inSession id = true ↔ (id, true) ∈ s.trust.sessions := by
  simp only [State.inSession, List.contains_eq_mem, decide_eq_true_eq]

theorem State.inSession_eq_false {s : State} {id : Nat} (h : (id, true) ∉ s.trust.sessions) : s.inSession id = false :=
  Bool.eq_false_iff.2 fun hin => h (State.inSession_iff.1 hin)

/-- SET_CERTIFICATE in a session, for a slot from 1 to 7 (R402). -/
theorem execSetCertificate_of_inSession {s : State} {slot session : Nat} (chain : List Byte) (hready : s.mgmt.ready = true)
    (hmask : s.link.masked 86 = false) (hin : s.inSession session = true) (h₁ : 1 ≤ slot) (h₂ : slot ≤ 7) :
    ((∃ r ∈ s.trust.pending, r.slot = slot) → execSetCertificate slot chain session s =
      .next ({ s with trust := { s.trust with staged := tblSet s.trust.staged slot chain } }.replied 0x6E [])) ∧
    ((∀ r ∈ s.trust.pending, r.slot ≠ slot) → execSetCertificate slot chain session s =
      .next ({ s with trust := { s.trust with chains := tblSet s.trust.chains slot chain } }.replied 0x6E [])) := by
  have hok : (s.inSession session && 1 ≤ slot && slot < 8) = true := by
    simp only [hin, Bool.true_and, Bool.and_eq_true, decide_eq_true_eq]; omega
  refine ⟨fun h => ?_, fun h => ?_⟩
  · rw [execSetCertificate, State.spdm_ready hready, if_pos hok, if_pos (any_slot_eq_true.2 h)]
    exact congrArg Host.Outcome.next (State.respond_eq (by exact hmask) 0x6E [])
  · rw [execSetCertificate, State.spdm_ready hready, if_pos hok, if_neg (any_slot_eq_false h)]
    exact congrArg Host.Outcome.next (State.respond_eq (by exact hmask) 0x6E [])

theorem State.updCtx_of_live {s : State} {c : Nat} {k : Ctx} (h : tblFind s.ctxs.live c = some k) (f : Ctx → Ctx) :
    s.updCtx c f = { s with ctxs := { s.ctxs with live := tblSet s.ctxs.live c (f k) } } := by
  rw [State.updCtx, h]

/-- Settles O51: the session list decides each request, and each writes its one table. -/
theorem secureSessions : Obligations.SecureSessions := by
  intro s slot session chain ctx ks key k i v hready hmask sent
  have hk : ∀ x, s.spdm x = x := State.spdm_ready hready
  have herr : s.spdm s.spdmError = s.replied 0x7F [] := (hk _).trans (State.spdmError_eq hmask)
  refine ⟨?_, fun hbegun => ?_, fun hnone => ?_, fun hin => ⟨?_, fun h₁ h₂ => ?_, fun hlive => ⟨?_, ?_⟩, fun hi => ?_⟩,
    fun hout => ⟨?_, fun o => ?_, ?_⟩⟩
  · refine ⟨_, congrArg Host.Outcome.next ((hk _).trans (State.respond_eq (by exact hmask) 0x64 _)), rfl, List.mem_cons_self,
      State.inSession_eq_false fun hmem => ?_, rfl, rfl⟩
    rcases List.mem_cons.1 hmem with heq | hmem
    · exact Bool.noConfusion (Prod.ext_iff.1 heq).2
    · exact absurd (List.mem_filter.1 hmem).2 (by simp)
  · have hopen : s.trust.sessions.contains (session, false) = true := List.contains_iff_mem.2 hbegun
    refine ⟨_, congrArg Host.Outcome.next ((hk _).trans ((if_pos hopen).trans (State.respond_eq (by exact hmask) 0x65 _))), rfl,
      State.inSession_iff.2 (List.mem_map.2 ⟨_, hbegun, if_pos rfl⟩), rfl, rfl⟩
  · have hopen : ¬s.trust.sessions.contains (session, false) = true := fun h => hnone (List.contains_iff_mem.1 h)
    exact ⟨_, congrArg Host.Outcome.next ((hk _).trans ((if_neg hopen).trans (State.spdmError_eq hmask))), rfl, rfl⟩
  · refine ⟨_, congrArg Host.Outcome.next ((hk _).trans ((if_pos hin).trans (State.respond_eq (by exact hmask) 0x6C _))), rfl,
      State.inSession_eq_false fun hmem => ?_, rfl⟩
    exact absurd (List.mem_filter.1 hmem).2 (by simp)
  · have hslot : slot ≠ 0 := by omega
    obtain ⟨hstage, hwrite⟩ := execSetCertificate_of_inSession chain hready hmask hin h₁ h₂
    by_cases hnamed : ∃ r ∈ s.trust.pending, r.slot = slot
    · refine ⟨_, hstage hnamed, rfl, rfl, fun _ => ⟨?_, tblFind_tblSet_same _ _ _⟩, fun h => ?_⟩
      · rw [State.chain_of_ne hslot, State.chain_of_ne hslot]; rfl
      · obtain ⟨r, hr, hrs⟩ := hnamed
        exact absurd hrs (h r hr)
    · have hfree : ∀ r ∈ s.trust.pending, r.slot ≠ slot := fun r hr hrs => hnamed ⟨r, hr, hrs⟩
      refine ⟨_, hwrite hfree, rfl, rfl, fun h => absurd h hnamed, fun _ => ?_⟩
      rw [State.chain_of_ne hslot]
      exact tblFind_tblSet_same _ _ _
  · exact ⟨_, _, congrArg Host.Outcome.next ((if_pos hin).trans (State.updCtx_of_live hlive _)), tblFind_tblSet_same _ _ _,
      tblFind_tblSet_same _ _ _, rfl⟩
  · exact ⟨_, _, congrArg Host.Outcome.next ((if_pos hin).trans (State.updCtx_of_live hlive _)), tblFind_tblSet_same _ _ _,
      tblFind_tblDel_same _ _, rfl⟩
  · have hok : (s.inSession session && i < 8) = true := by simp only [hin, Bool.true_and, decide_eq_true_eq]; exact hi
    refine ⟨_, congrArg Host.Outcome.next (if_pos hok), (tblFind_tblSet_same _ _ _).trans (congrArg some ?_),
      fun j hj => tblFind_tblSet_ne _ _ hj⟩
    have hv := v.isLt
    simp only [field, Prod.mk.injEq]
    omega
  · have hbad : ¬(s.inSession session && 1 ≤ slot && slot < 8) = true := by rw [hout]; exact Bool.false_ne_true
    exact ⟨_, congrArg Host.Outcome.next ((hk _).trans ((if_neg hbad).trans (State.spdmError_eq hmask))), rfl, rfl⟩
  · exact congrArg Host.Outcome.next (if_neg (by rw [hout]; exact Bool.false_ne_true))
  · exact congrArg Host.Outcome.next (if_neg (by rw [hout]; exact Bool.false_ne_true))

/-! ## Full resets -/

theorem tblFind_ne_none_of_mem {β : Type} {t : Tbl β} {n : Nat} {v : β} (h : (n, v) ∈ t) : tblFind t n ≠ none := by
  induction t with
  | nil => exact absurd h List.not_mem_nil
  | cons e t ih =>
    obtain ⟨k, w⟩ := e
    rw [tblFind]
    split
    · exact Option.some_ne_none _
    · next hne => exact ih ((List.mem_cons.1 h).resolve_left fun heq => hne (Prod.ext_iff.1 heq).1)

/-- A number that the later table does not list keeps its record. -/
theorem tblFind_foldl_tblSet {β : Type} {staged : Tbl β} {n : Nat} (h : ∀ c ∈ staged, c.1 ≠ n) (t : Tbl β) :
    tblFind (staged.foldl (fun m c => tblSet m c.1 c.2) t) n = tblFind t n := by
  induction staged generalizing t with
  | nil => rfl
  | cons c cs ih =>
    obtain ⟨hc, hcs⟩ := List.forall_mem_cons.1 h
    exact (ih hcs _).trans (tblFind_tblSet_ne _ _ hc.symm)

/-- Settles O52: both causes give `fullReset`, whose fields stand there; only the tables of cores and of chains need a lemma. -/
theorem fullResets : Obligations.FullResets := by
  refine ⟨fun s cause v hv i hi => ?_, fun s v hv => congrArg Host.Outcome.next (if_neg (Bool.not_eq_true _ ▸ hv)),
      fun s => rfl⟩
  have hexec : exec i s = .next s.fullReset := by
    rcases List.mem_pair.1 hi with rfl | rfl
    · rfl
    · exact congrArg Host.Outcome.next (if_pos hv)
  refine ⟨_, hexec, rfl, rfl, rfl, rfl, rfl, rfl, rfl, rfl, rfl, rfl, fun c k hk => ?_, rfl, rfl, rfl, rfl, rfl, rfl, ?_, rfl,
    fun j hj => absurd (List.mem_filter.1 hj).2 (by simp [Turn.outstanding]), rfl, fun n c hn hc => ?_, rfl, rfl⟩
  · exact (tblFind_tblMap _ _ _).trans (congrArg (Option.map _) hk)
  · change _ ≤ if s.trust.req then s.trust.drawn + 1 else s.trust.drawn
    split
    · exact Nat.le_succ _
    · exact Nat.le_refl _
  · refine (tblFind_foldl_tblSet (fun x hx hxn => ?_) _).trans hc
    exact tblFind_ne_none_of_mem (n := n) (v := x.2) (hxn ▸ hx) hn

end Sys2Proof.Machine
end

section
/-! SUPPORT. What reaches H keeps the L1 structures, and each L1 structure is changed by itself (Home). -/

namespace Sys2Proof.Machine

set_option Elab.async false

/-! ## One L1 structure at a time -/

theorem State.l1At_of_l1 {s t : State} (h : t.l1 = s.l1) (j : Nat) : t.l1At j = s.l1At j := by rw [State.l1At, h]; rfl

@[simp] theorem State.l1At_updL1_same (s : State) (id : Nat) (f : L1 → L1) : (s.updL1 id f).l1At id = f (s.l1At id) :=
  tblGet_tblUpd_same _ _ _ _

theorem State.l1At_updL1_ne (s : State) {id j : Nat} (f : L1 → L1) (h : j ≠ id) : (s.updL1 id f).l1At j = s.l1At j :=
  tblGet_tblUpd_ne _ _ _ h

/-- An error found in an L1 structure changes that structure alone. -/
theorem State.l1At_l1Error_ne (s : State) {id j : Nat} (k : Nat) (who : Option Charge) (h : j ≠ id) :
    (s.l1Error id k who).l1At j = s.l1At j := by
  unfold State.l1Error
  split
  · rfl
  · have hlatent := s.l1At_updL1_ne (fun l => { l with latent := tblDel l.latent k }) h
    dsimp only
    split
    · exact hlatent
    · split
      · exact (State.l1At_updL1_ne _ (fun l => { l with sectors := tblDel l.sectors k }) h).trans hlatent
      · exact (State.l1At_of_l1 (State.l1_chargeLoss _ _ _) j).trans ((State.l1At_updL1_ne _ _ h).trans hlatent)

theorem State.l1At_wbSector_ne (s : State) {id j : Nat} (k : Nat) (h : j ≠ id) : (s.wbSector id k).l1At j = s.l1At j :=
  (State.l1At_updL1_ne _ _ h).trans ((State.l1At_of_l1 (State.atH_writeDirty _ _ _).l1 j).trans (s.l1At_l1Error_ne k none h))

theorem State.l1At_l1WBINV_ne (s : State) {id j : Nat} (h : j ≠ id) : (s.l1WBINV id).l1At j = s.l1At j :=
  (State.l1At_updL1_ne _ _ h).trans
    (foldl_keeps (p := fun t => t.l1At j) (by exact fun t k => t.l1At_wbSector_ne k h) _ s)

theorem State.sectors_l1WBINV (s : State) (id : Nat) : ((s.l1WBINV id).l1At id).sectors = [] :=
  congrArg L1.sectors (State.l1At_updL1_same _ _ _)

/-- Where a step changes the one structure that it names, each structure of a list is changed and the others stay. -/
theorem State.l1At_foldl_of {f : State → Nat → State} {P : L1 → Prop} (hsame : ∀ s i, P ((f s i).l1At i))
    (hne : ∀ (s : State) i j, j ≠ i → (f s i).l1At j = s.l1At j) (is : List Nat) (s : State) (j : Nat) :
    (j ∈ is → P ((is.foldl f s).l1At j)) ∧ (j ∉ is → (is.foldl f s).l1At j = s.l1At j) := by
  induction is generalizing s with
  | nil => exact ⟨fun h => absurd h List.not_mem_nil, fun _ => rfl⟩
  | cons i is ih =>
    obtain ⟨hmem, hnot⟩ := ih (f s i)
    refine ⟨fun h => ?_, fun h => ?_⟩
    · by_cases hj : j ∈ is
      · exact hmem hj
      · obtain rfl : j = i := (List.mem_cons.1 h).resolve_right hj
        exact (hnot hj).symm ▸ hsame s j
    · have hi : j ≠ i := fun hj => h (hj ▸ List.mem_cons_self)
      have his : j ∉ is := fun hj => h (List.mem_cons_of_mem _ hj)
      exact (hnot his).trans (hne s i j hi)

end Sys2Proof.Machine
end

section
/-! SUPPORT. Invalidation and scrub commands and the modes of the caches (O42). -/

namespace Sys2Proof.Machine

set_option Elab.async false

theorem mem_of_mem_tblDel {β : Type} {t : Tbl β} {n : Nat} {c : Nat × β} (h : c ∈ tblDel t n) : c ∈ t := by
  induction t with
  | nil => exact h
  | cons e t ih =>
    obtain ⟨k, w⟩ := e
    rw [tblDel] at h
    split at h
    · exact List.mem_cons_of_mem _ (ih h)
    · exact (List.mem_cons.1 h).elim (fun h => h ▸ List.mem_cons_self) fun h => List.mem_cons_of_mem _ (ih h)

theorem tblFind_eq_none_iff {β : Type} {t : Tbl β} {n : Nat} : tblFind t n = none ↔ ∀ c ∈ t, c.1 ≠ n := by
  refine ⟨fun h c hc hn => tblFind_ne_none_of_mem (n := n) (v := c.2) (hn ▸ hc) h, fun h => ?_⟩
  by_contra hne
  obtain ⟨v, hv⟩ := Option.ne_none_iff_exists'.1 hne
  exact h _ (mem_of_tblFind hv) rfl

theorem tblGet_of_not_mem_keys {β : Type} (d : β) {t : Tbl β} {n : Nat} (h : n ∉ tblKeys t) : tblGet d t n = d := by
  rw [tblGet_eq_find, tblFind_eq_none_iff.2 fun c hc hn => h (List.mem_map.2 ⟨c, hc, hn⟩)]
  rfl

/-! ## Translation invalidation -/

/-- A command that starts: its items are what it waits for, and its cover is dropped (R42). -/
theorem State.tlbCommand_starts {s : State} (h : s.mgmt.invBusy = false) (ctx : Nat) {scope : Nat} (hscope : scope ≠ 3) :
    ∃ u : State, (s.tlbCommand ctx scope = u.dropEntries
        (if scope = 0 then Cover.page ctx s.mgmt.invVa else if scope = 1 then .ctx ctx else .all)) ∧
      u.mgmt.invBusy = true ∧ u.mgmt.invErr = s.mgmt.invErr ∧ u.cores = s.cores ∧ u.clusters = s.clusters ∧ u.mem = s.mem := by
  refine ⟨_, if_neg ?_, rfl, rfl, rfl, rfl, rfl⟩
  change ¬(s.mgmt.invBusy || decide (scope = 3)) = true
  rw [h, decide_eq_false hscope]
  exact Bool.false_ne_true

/-- SCOPE 3, and a GO while BUSY. -/
theorem State.tlbCommand_refused {s : State} (ctx : Nat) {scope : Nat} (h : s.mgmt.invBusy = true ∨ scope = 3) :
    ∃ t, s.tlbCommand ctx scope = t ∧ t.mgmt.invErr = true ∧ t.mgmt.invBusy = s.mgmt.invBusy ∧ t.cores = s.cores ∧
      t.clusters = s.clusters := by
  refine ⟨_, if_pos ?_, rfl, rfl, rfl, rfl⟩
  change (s.mgmt.invBusy || decide (scope = 3)) = true
  rw [Bool.or_eq_true, decide_eq_true_eq]
  exact h

/-- What dropping the entries of a cover leaves, where `hit` and `code` are the cover's tests. -/
theorem State.dropEntries_cuts {s u : State} (hcores : u.cores = s.cores) (hclusters : u.clusters = s.clusters)
    {c : Cover} {hit : Tlb → Bool} {code : Nat → Bool} (hhit : ∀ e, c.keeps e = !hit e)
    (hcode : ∀ k, c.hitsPage (k / 2 ^ 51) (k % 2 ^ 51 / 1024) = code k) :
    (∀ n, ((u.dropEntries c).core n).icache = (s.core n).icache.filter fun x => !code x.1) ∧
    (∀ n, ((u.dropEntries c).core n).tlb = (s.core n).tlb.filter fun e => !hit e) ∧
    (∀ n, ((u.dropEntries c).cluster n).tlb = (s.cluster n).tlb.filter fun e => !hit e) := by
  have hcore : ∀ n, u.core n = s.core n := fun n => by rw [State.core, hcores]; rfl
  have hcluster : ∀ n, u.cluster n = s.cluster n := fun n => by rw [State.cluster, hclusters]; rfl
  have hkeeps : c.keeps = fun e => !hit e := funext hhit
  have hlines : (fun x : Nat × List Word => !c.hitsPage (x.1 / 2 ^ 51) (x.1 % 2 ^ 51 / 1024)) = fun x => !code x.1 :=
    funext fun x => congrArg _ (hcode x.1)
  exact ⟨fun n => by rw [(u.core_dropEntries c n).2, hcore, hlines], fun n => by rw [(u.core_dropEntries c n).1, hcore, hkeeps],
    fun n => by rw [u.cluster_dropEntries, hcluster, hkeeps]⟩

/-- An address lies in the 512 MiB of a page. -/
theorem Cover.hitsPage_page (ctx va k vpn : Nat) :
    (Cover.page ctx va).hitsPage k vpn = (k == ctx && vpn / 8192 == va / 2 ^ 29) := by
  have hrange : (vpn / 8192 * 2 ^ 29 ≤ va ∧ va < vpn / 8192 * 2 ^ 29 + 2 ^ 29) ↔ vpn / 8192 = va / 2 ^ 29 := by omega
  rw [Cover.hitsPage, Cover.hits, Bool.eq_iff_iff]
  simp only [Bool.and_eq_true, decide_eq_true_eq, beq_iff_eq, and_assoc, hrange]
  exact and_congr_left' eq_comm

/-! ## Scrub commands -/

/-- Every byte of a range that GO accepts is memory: the range lies in one region and meets no hole (R47). -/
theorem Mem.isMem_of_rangeOk {m : Mem} {pa n a : Nat} (h : m.rangeOk pa n = true) (hlo : pa ≤ a) (hhi : a < pa + n * 65536) :
    m.isMem a = true := by
  simp only [Mem.rangeOk, Bool.and_eq_true, beq_iff_eq, Bool.not_eq_true', List.any_eq_false] at h
  obtain ⟨⟨hmem, hkind⟩, hholes⟩ := h
  have hnot : m.isRemoved a = false := by
    refine List.any_eq_false.2 fun d hd => ?_
    have hhole := hholes d hd
    split
    · next x k hx =>
      rw [hx] at hhole
      simp only [Bool.and_eq_true, decide_eq_true_eq] at hhole ⊢
      omega
    · exact Bool.false_ne_true
  have hkind_a : m.kind a = m.kind pa := by
    simp only [Mem.isMem] at hmem
    unfold Mem.kind at hmem hkind ⊢
    simp only [expFirst, farFirst, hostFirst] at hmem hkind ⊢
    split at hmem <;> split at hkind <;> grind
  rw [Mem.isMem, hkind_a]
  exact hmem

/-- The pages outside a range. -/
theorem outside_range_iff (pa n p : Nat) :
    (!(decide (pageOf pa ≤ p) && decide (p < pageOf pa + n))) = true ↔ p < pa / 65536 ∨ pa / 65536 + n ≤ p := by
  rw [Bool.not_eq_true', Bool.and_eq_false_iff, decide_eq_false_iff_not, decide_eq_false_iff_not, Nat.not_le, Nat.not_lt]
  exact Iff.rfl

/-- What a scrub command that is accepted leaves. -/
theorem State.scrubGo_accepted {s : State} {n : Nat} (hbusy : s.mgmt.scrubBusy = false) (hn : 0 < n)
    (hok : s.mem.rangeOk s.mgmt.scrubPa n = true) :
    s.scrubGo n = { s with
      mem := { s.mem with
        swept := s.mem.swept.filter fun p => !(pageOf s.mgmt.scrubPa ≤ p && p < pageOf s.mgmt.scrubPa + n)
        l2 := s.mem.l2.filter fun c => !(pageOf s.mgmt.scrubPa ≤ c.1 / 1024 && c.1 / 1024 < pageOf s.mgmt.scrubPa + n)
        l2Sets := tblMap (fun _ c => { c with ways := c.ways.filter fun w =>
          !(pageOf s.mgmt.scrubPa ≤ w.2 / 256 && w.2 / 256 < pageOf s.mgmt.scrubPa + n) }) s.mem.l2Sets
        l2Low := s.mem.l2Low.filter fun l => !(pageOf s.mgmt.scrubPa ≤ l / 256 && l / 256 < pageOf s.mgmt.scrubPa + n) }
      mgmt := { s.mgmt with scrubBusy := true } } := by
  unfold State.scrubGo
  rw [if_neg (by rw [hbusy]; exact Bool.false_ne_true), if_neg (by omega), if_neg (by rw [hok]; decide)]

/-! ## The L2 mode -/

/-- t differs from s in the counts of the IDE streams and in what goes out, and no stream has failed meanwhile. -/
structure State.AtLink (s t : State) : Prop where
  rest : { t with trust := { t.trust with ide := s.trust.ide },
                  link := { t.link with pending := s.link.pending, sent := s.link.sent } } = s
  fail : ∀ i, (t.stream i).fail = (s.stream i).fail

namespace State.AtLink
variable {s t u : State}

theorem refl (s : State) : s.AtLink s := ⟨rfl, fun _ => rfl⟩

theorem trans (h : s.AtLink t) (h' : t.AtLink u) : s.AtLink u := by
  refine ⟨?_, fun i => (h'.fail i).trans (h.fail i)⟩
  refine Eq.trans ?_ h.rest
  exact congrArg (fun x : State => { x with trust := { x.trust with ide := s.trust.ide },
                                            link := { x.link with pending := s.link.pending, sent := s.link.sent } }) h'.rest

theorem mem (h : s.AtLink t) : t.mem = s.mem := (congrArg State.mem h.rest :)
theorem agenda (h : s.AtLink t) : t.agenda = s.agenda := (congrArg State.agenda h.rest :)
theorem mgmt (h : s.AtLink t) : t.mgmt = s.mgmt := (congrArg State.mgmt h.rest :)

end State.AtLink

theorem State.atLink_msi (s : State) (v : Nat) : s.AtLink (s.msi v) := by
  unfold State.msi
  split
  · split
    · exact .refl s
    · exact ⟨rfl, fun _ => rfl⟩
  · exact ⟨rfl, fun _ => rfl⟩

theorem State.atLink_updStream (s : State) (i : Nat) {f : Ide → Ide} (hf : (f (s.stream i)).fail = (s.stream i).fail) :
    s.AtLink (s.updStream i f) := by
  refine ⟨rfl, fun j => ?_⟩
  by_cases h : j = i
  · subst h
    exact (congrArg Ide.fail (tblGet_tblUpd_same _ _ _ _)).trans hf
  · exact congrArg Ide.fail (tblGet_tblUpd_ne _ _ _ h)

theorem State.atLink_useVector (s : State) (i : Nat) : s.AtLink (s.useVector i) := by
  have hmsi : ∀ (s : State) (p : Prop) [Decidable p], s.AtLink (if p then s.msi 82 else s) := fun s p _ => by
    split
    · exact s.atLink_msi _
    · exact .refl s
  exact ((s.atLink_updStream i (by exact rfl)).trans (hmsi _ _)).trans (hmsi _ _)

theorem State.atLink_ideSend (s : State) (i : Option Nat) : s.AtLink (s.ideSend i) := by
  cases i with
  | none => exact .refl s
  | some i =>
    unfold State.ideSend
    dsimp only
    split
    · exact .refl s
    · split
      · exact s.atLink_updStream i rfl
      · exact s.atLink_useVector i

theorem State.ideFailed_expIde {s : State} (h : (s.stream expStream).fail = false) (pa : Nat) :
    s.ideFailed (s.expIde pa) = false := by
  unfold State.expIde
  split
  · exact h
  · rfl

/-- No sector of the L2 has a latent error, none that is clean covers bytes of the memory's own,
    and the expansion link works. -/
def State.L2Sound (s : State) : Prop :=
  (∀ x ∈ s.mem.l2, x.2.bad = none ∧ (x.2.dirty = false → x.2.under = none)) ∧ (s.stream expStream).fail = false

/-- t differs from s in the L2's sectors, sets and low lines, in latent errors that are gone, and in what the links count and
send; the L2 stays sound. -/
structure State.L2Moves (s t : State) : Prop where
  mem    : { t.mem with l2 := s.mem.l2, l2Sets := s.mem.l2Sets, l2Low := s.mem.l2Low, latent := s.mem.latent } = s.mem
  latent : ∀ c ∈ t.mem.latent, c ∈ s.mem.latent
  agenda : t.agenda = s.agenda
  mgmt   : t.mgmt = s.mgmt
  sound  : t.L2Sound

namespace State.L2Moves
variable {s t u : State}

theorem refl (h : s.L2Sound) : s.L2Moves s := ⟨rfl, fun _ hc => hc, rfl, rfl, h⟩

theorem trans (h : s.L2Moves t) (h' : t.L2Moves u) : s.L2Moves u := by
  refine ⟨?_, fun c hc => h.latent c (h'.latent c hc), h'.agenda.trans h.agenda, h'.mgmt.trans h.mgmt, h'.sound⟩
  refine Eq.trans ?_ h.mem
  exact congrArg (fun m : Mem => { m with l2 := s.mem.l2, l2Sets := s.mem.l2Sets, l2Low := s.mem.l2Low, latent := s.mem.latent }) h'.mem

theorem cells (h : s.L2Moves t) : t.mem.cells = s.mem.cells := (congrArg Mem.cells h.mem :)

theorem foldl {α : Type} {f : State → α → State} (hf : ∀ (s : State) x, s.L2Sound → s.L2Moves (f s x)) (ls : List α) {s : State}
    (h : s.L2Sound) : s.L2Moves (ls.foldl f s) := by
  induction ls generalizing s with
  | nil => exact refl h
  | cons x ls ih => exact (hf s x h).trans (ih (hf s x h).sound)

/-- A vector that a link's stream uses, and its messages. -/
theorem of_link (h : s.L2Sound) (hlink : s.AtLink t) : s.L2Moves t := by
  obtain ⟨hl2, hfail⟩ := h
  refine ⟨by rw [hlink.mem], fun c hc => by rwa [hlink.mem] at hc, hlink.agenda, hlink.mgmt, ?_, (hlink.fail _).trans hfail⟩
  rw [hlink.mem]
  exact hl2

end State.L2Moves

/-- A sector that leaves such an L2 leaves the bytes at H as they are. -/
theorem State.l2Moves_l2Drop {s : State} (h : s.L2Sound) (k : Nat) : s.L2Moves (s.l2Drop k) := by
  obtain ⟨hl2, hfail⟩ := h
  cases hk : s.l2Sector k with
  | none =>
    have hdrop : s.l2Drop k = s := by rw [State.l2Drop, hk]
    rw [hdrop]
    exact .refl ⟨hl2, hfail⟩
  | some x =>
    obtain ⟨hbad, hunder⟩ := hl2 _ (mem_of_tblFind hk)
    have hdel : ∀ y ∈ tblDel s.mem.l2 k, y.2.bad = none ∧ (y.2.dirty = false → y.2.under = none) := fun y hy =>
      hl2 y (mem_of_mem_tblDel hy)
    cases hd : x.dirty with
    | false =>
      have hdrop : s.l2Drop k = { s with mem := { s.mem with l2 := tblDel s.mem.l2 k } } := by
        rw [State.l2Drop, hk]
        dsimp only
        rw [hd, hunder hd]
        rfl
      rw [hdrop]
      exact ⟨rfl, fun _ hc => hc, rfl, rfl, hdel, hfail⟩
    | true =>
      have hfind : s.findL2 x.owner k = s := by
        rw [State.findL2, hk]
        dsimp only
        rw [hbad]
      have hlink := s.atLink_ideSend (s.expIde (k * 64))
      obtain ⟨u, hu⟩ : ∃ u, u = s.ideSend (s.expIde (k * 64)) := ⟨_, rfl⟩
      have hback : s.l2Back k x = { u with mem := { u.mem with latent := tblDel u.mem.latent k } } := by
        rw [State.l2Back, hfind, hu]
        exact if_neg (by rw [State.ideFailed_expIde hfail]; exact Bool.false_ne_true)
      have hdrop : s.l2Drop k = { u with mem := { u.mem with latent := tblDel u.mem.latent k, l2 := tblDel u.mem.l2 k } } := by
        rw [State.l2Drop, hk]
        dsimp only
        rw [hd, if_pos rfl, hback]
      rw [← hu] at hlink
      rw [hdrop]
      refine ⟨by rw [hlink.mem], fun c hc => ?_, hlink.agenda, hlink.mgmt, ?_, (hlink.fail _).trans hfail⟩
      · have hc : c ∈ tblDel u.mem.latent k := hc
        rw [hlink.mem] at hc
        exact mem_of_mem_tblDel hc
      · change ∀ y ∈ tblDel u.mem.l2 k, _
        rw [hlink.mem]
        exact hdel

/-! ## The L1 mode of a cluster -/

/-- An L1 structure is written back and emptied, and its pins are dropped. -/
def State.emptyL1 (s : State) (i : Nat) : State := (s.l1WBINV i).updL1 i fun l => { l with pins := [] }

theorem State.l1At_emptyL1_same (s : State) (i : Nat) :
    ((s.emptyL1 i).l1At i).sectors = [] ∧ ((s.emptyL1 i).l1At i).pins = [] := by
  have h : (s.emptyL1 i).l1At i = { (s.l1WBINV i).l1At i with pins := [] } := State.l1At_updL1_same _ _ _
  rw [h]
  exact ⟨s.sectors_l1WBINV i, rfl⟩

theorem State.l1At_emptyL1_ne (s : State) {i j : Nat} (h : j ≠ i) : (s.emptyL1 i).l1At j = s.l1At j :=
  (State.l1At_updL1_ne _ _ h).trans (s.l1At_l1WBINV_ne h)

/-- The cluster has the other mode afterwards. -/
theorem State.fused_switchL1 (s : State) (c : Nat) : ((s.switchL1 c).cluster c).fused = !(s.cluster c).fused :=
  congrArg Cluster.fused (State.cluster_updCluster_same _ _ _)

/-- A cluster's structures of the mode that it leaves are empty. -/
theorem State.l1At_switchL1 (s : State) (c : Nat) :
    ((s.cluster c).fused = true → ((s.switchL1 c).l1At (2048 + c)).sectors = [] ∧ ((s.switchL1 c).l1At (2048 + c)).pins = []) ∧
    ((s.cluster c).fused = false → ∀ i, i < 2048 → i / 256 = c →
      ((s.switchL1 c).l1At i).sectors = [] ∧ ((s.switchL1 c).l1At i).pins = []) := by
  have hids : ∀ i, (s.switchL1 c).l1At i = ((if (s.cluster c).fused then [2048 + c] else
      (tblKeys s.l1).filter fun i => i < 2048 && i / 256 == c).foldl State.emptyL1 s).l1At i := fun _ => rfl
  have hfold := State.l1At_foldl_of (P := fun l => l.sectors = [] ∧ l.pins = []) State.l1At_emptyL1_same
    (fun s _ _ h => s.l1At_emptyL1_ne h)
  refine ⟨fun h => ?_, fun h i hi hc => ?_⟩
  · rw [hids, h, if_pos rfl]
    exact (hfold _ s _).1 List.mem_cons_self
  · rw [hids, h, if_neg Bool.false_ne_true]
    obtain ⟨hmem, hnot⟩ := hfold ((tblKeys s.l1).filter fun i => i < 2048 && i / 256 == c) s i
    by_cases hk : i ∈ tblKeys s.l1
    · exact hmem (List.mem_filter.2 ⟨hk, by simp [hi, hc]⟩)
    · rw [hnot fun h => hk (List.mem_filter.1 h).1, State.l1At, tblGet_of_not_mem_keys _ hk]
      exact ⟨rfl, rfl⟩

theorem execL1ModeSwitch_eq {s : State} {e : Entry} {c : Nat} (he : s.firstEntry = some e) (hempty : s.clusterEmpty c = true)
    (hmode : s.modeSuits c (s.grid e.gid).launch.l1mode = false) : execL1ModeSwitch c s = .next (s.switchL1 c) := by
  rw [execL1ModeSwitch, he]
  dsimp only
  rw [if_pos hempty, State.chooseMode, hmode]
  rfl

/-- Settles O42: each command is its own GO or its end, with the cover's test, the range or the modes in the lemmas above. -/
theorem invalidationScrubAndCacheModes : Obligations.InvalidationScrubAndCacheModes := by
  refine ⟨fun s ctx => ?_, fun s count req cluster e => ?_⟩
  · intro cuts
    refine ⟨fun hfree => ?_, fun i hi => ?_, fun hbusy hitems hops hdirty hreqs hpeers => ?_⟩
    · refine ⟨?_, ?_, ?_⟩
      · obtain ⟨u, ht, hb, herr, hcores, hclusters, hmem⟩ := State.tlbCommand_starts hfree ctx.toNat (scope := 0) (by decide)
        obtain ⟨hicache, hcore, hcl⟩ := State.dropEntries_cuts hcores hclusters (c := .page ctx.toNat s.mgmt.invVa)
          (hit := fun e => e.ctx == ctx.toNat && decide (e.va ≤ s.mgmt.invVa) &&
            decide (s.mgmt.invVa < e.va + (if e.big then 2 ^ 29 else 65536)))
          (fun e => by rw [Cover.keeps, Cover.hits, Bool.beq_comm]) (fun k => Cover.hitsPage_page _ _ _ _)
        exact ⟨_, congrArg Host.Outcome.next ht, hb, herr, hicache, hcore, hcl, hmem⟩
      · obtain ⟨u, ht, hb, herr, hcores, hclusters, hmem⟩ := State.tlbCommand_starts hfree ctx.toNat (scope := 1) (by decide)
        obtain ⟨hicache, hcore, hcl⟩ := State.dropEntries_cuts hcores hclusters (c := .ctx ctx.toNat)
          (hit := fun e => e.ctx == ctx.toNat) (code := fun k => k / 2 ^ 51 == ctx.toNat)
          (fun e => by rw [Cover.keeps, Cover.hits, Bool.beq_comm]) (fun k => Bool.beq_comm)
        exact ⟨_, congrArg Host.Outcome.next ht, hb, herr, hicache, hcore, hcl, hmem⟩
      · obtain ⟨u, ht, hb, herr, hcores, hclusters,
          hmem⟩ := State.tlbCommand_starts hfree s.mgmt.invCtx (scope := 2) (by decide)
        obtain ⟨hicache, hcore, hcl⟩ := State.dropEntries_cuts hcores hclusters (c := .all) (hit := fun _ => true)
          (code := fun _ => true) (fun e => rfl) (fun k => rfl)
        exact ⟨_, congrArg Host.Outcome.next ht, hb, herr, hicache, hcore, hcl, hmem⟩
    · have hrefused : ∃ c scope, exec i s = .next (s.tlbCommand c scope) ∧ (s.mgmt.invBusy = true ∨ scope = 3) := by
        rcases hi with rfl | ⟨hb, rfl | rfl | rfl⟩
        · exact ⟨_, 3, rfl, .inr rfl⟩
        · exact ⟨_, _, rfl, .inl hb⟩
        · exact ⟨_, _, rfl, .inl hb⟩
        · exact ⟨_, _, rfl, .inl hb⟩
      obtain ⟨c, scope, hexec, hwhy⟩ := hrefused
      obtain ⟨t, ht, hrest⟩ := State.tlbCommand_refused (s := s) c hwhy
      exact ⟨t, ht ▸ hexec, hrest⟩
    · have hleft : (s.mgmt.invPeers.any fun r => s.heldPeers.contains r) = false := by
        refine List.any_eq_false.2 fun r hr => ?_
        rw [hpeers r hr]
        exact Bool.false_ne_true
      have hdone : s.invDone = true := by
        rw [State.invDone, hitems, hops, hdirty, hreqs, hleft]
        rfl
      have hexec : exec .tlbInvComplete s = .next { s with mgmt := { s.mgmt with
          invBusy := false, invItems := [], invOps := [], invDirty := [], invReqs := [], invPeers := [] } } :=
        congrArg Host.Outcome.next ((if_neg (by rw [hbusy]; decide)).trans (if_pos hdone))
      exact ⟨_, hexec, rfl, rfl, rfl⟩
  · intro pa n
    refine ⟨fun hfree hn halign hok => ?_, fun hbusy => ?_, ⟨_, rfl, rfl, rfl⟩,
        fun hfree hat => ?_, fun hbad => ?_, fun hbusy hl2 hfail => ?_, fun he hempty hcluster => ⟨fun hmode hfused => ?_,
            fun hmode hfused => ?_⟩⟩
    · have hexec : exec (.scrubSet count) s = .next (({ s with mgmt := { s.mgmt with scrubCount := n } }).scrubGo n) := rfl
      rw [State.scrubGo_accepted (by exact hfree) hn (by exact hok)] at hexec
      refine ⟨_, hexec, rfl, rfl, fun a hlo hhi => ?_, fun p hp => ?_, fun k hlo hhi => ?_, rfl⟩
      · have hmem : s.mem.isMem a = true := Mem.isMem_of_rangeOk hok hlo hhi
        have hpage : ¬(!(decide (pageOf pa ≤ pageOf a) && decide (pageOf a < pageOf pa + n))) = true := by
          rw [outside_range_iff, pageOf]
          omega
        have hpending : (s.mem.isMem (a + 0) && !(s.mem.swept.filter fun p =>
            !(decide (pageOf pa ≤ p) && decide (p < pageOf pa + n))).contains (pageOf (a + 0))) = true := by
          rw [Nat.add_zero, hmem, Bool.true_and, Bool.not_eq_true', ← Bool.not_eq_true, List.contains_iff_mem]
          exact fun h => hpage (List.mem_filter.1 h).2
        exact congrArg (fun b => [b]) (if_pos hpending)
      · have hout : (!(decide (pageOf pa ≤ p) && decide (p < pageOf pa + n))) = true :=
          (outside_range_iff pa n p).2 hp
        rw [Bool.eq_iff_iff, List.contains_iff_mem, List.contains_iff_mem]
        exact ⟨fun h => (List.mem_filter.1 h).1, fun h => List.mem_filter.2 ⟨h, hout⟩⟩
      · refine tblFind_eq_none_iff.2 fun c hc hck => ?_
        have hout := (outside_range_iff pa n _).1 (List.mem_filter.1 hc).2
        omega
    · exact ⟨_, congrArg Host.Outcome.next (if_pos hbusy), rfl, rfl⟩
    · exact ⟨_, congrArg Host.Outcome.next (if_neg (by rw [hfree, hat]; decide)), rfl⟩
    · refine ⟨_, congrArg Host.Outcome.next (if_pos ?_), rfl⟩
      rcases hbad with h | h
      · rw [h]; rfl
      · rw [h]; exact Bool.or_true _
    · have hdrops := State.L2Moves.foldl (fun _ k h => State.l2Moves_l2Drop h k) (tblKeys s.mem.l2) (s := s) ⟨hl2, hfail⟩
      have hexec : exec .l2ModeChangeComplete s = .next { s.l2Clear with
          mgmt := { s.l2Clear.mgmt with l2Busy := false, l2Cur := s.l2Clear.mgmt.l2Req, l2Held := [] },
          agenda := s.l2Clear.mgmt.l2Held.map Turn.again ++ s.l2Clear.agenda } := if_pos hbusy
      have hm : s.l2Clear.mgmt = s.mgmt := hdrops.mgmt
      have ha : s.l2Clear.agenda = s.agenda := hdrops.agenda
      refine ⟨_, hexec, rfl, congrArg Mgmt.l2Req hm, rfl, ?_, hdrops.cells⟩
      change s.l2Clear.mgmt.l2Held.map Turn.again ++ s.l2Clear.agenda = _
      rw [hm, ha]
    · have hsuits : s.modeSuits cluster (s.grid e.gid).launch.l1mode = false := by
        rw [State.modeSuits, hmode, hfused]; rfl
      obtain ⟨hsectors, hpins⟩ := (s.l1At_switchL1 cluster).1 hfused
      exact ⟨_, execL1ModeSwitch_eq he hempty hsuits, by rw [s.fused_switchL1, hfused]; rfl, hsectors, hpins⟩
    · have hsuits : s.modeSuits cluster (s.grid e.gid).launch.l1mode = false := by
        rw [State.modeSuits, hmode, hfused]; rfl
      exact ⟨_, execL1ModeSwitch_eq he hempty hsuits, by rw [s.fused_switchL1, hfused]; rfl, fun c hc =>
        (s.l1At_switchL1 cluster).2 hfused c (by omega) hc⟩

end Sys2Proof.Machine
end

section
/-! SUPPORT. What the module reads and writes through a context's tables (Queues), and the L1 structures meanwhile. -/

namespace Sys2Proof.Machine

set_option Elab.async false

/-! ## Bytes through a context's tables -/

theorem State.atH_vaPieces (ctx root : Nat) (need : Need) (ps : List (Nat × Nat)) (s : State) :
    s.AtH (s.vaPieces ctx root need ps).1 := by
  induction ps generalizing s with
  | nil => exact .refl s
  | cons p ps ih =>
    have htrans := s.atH_translate (.ctx ctx) ctx root p.1 need
    unfold State.vaPieces
    split
    · exact .refl s
    · split
      · next h => rw [h] at htrans; exact htrans
      · next u _ _ h =>
        rw [h] at htrans
        have hrest := ih u
        split
        · next h' => rw [h'] at hrest; exact htrans.trans hrest
        · next h' => rw [h'] at hrest; exact htrans.trans hrest

/-- A fold over pieces that carries bytes beside the state. -/
theorem State.atH_foldl_fst {α β : Type} {f : State × β → α → State × β} (hf : ∀ a x, State.AtH a.1 (f a x).1) (ls : List α)
    (a : State × β) : State.AtH a.1 (ls.foldl f a).1 := by
  induction ls generalizing a with
  | nil => exact .refl _
  | cons x ls ih => exact (hf a x).trans (ih _)

theorem State.atH_vaRead (s : State) (ctx root va n : Nat) : s.AtH (s.vaRead ctx root va n).1 := by
  have hps := State.atH_vaPieces ctx root .load (pagePieces 8 va n) s
  unfold State.vaRead
  split
  · next h => rw [h] at hps; exact hps
  · next u ps h =>
    rw [h] at hps
    refine hps.trans (State.atH_foldl_fst (fun a p => ?_) ps (u, []))
    dsimp only
    split
    · exact State.atH_hRead _ _ _ _ _
    · exact State.atH_hostAsk _ _ _ _

theorem State.atH_vaWrite (s : State) (ctx root va : Nat) (bs : List Byte) : s.AtH (s.vaWrite ctx root va bs).1 := by
  have hps := State.atH_vaPieces ctx root .store (pagePieces 8 va bs.length) s
  unfold State.vaWrite
  split
  · next h => rw [h] at hps; exact hps
  · next u ps h =>
    rw [h] at hps
    exact hps.trans (State.atH_foldl_fst (by exact fun a p => .ite (State.atH_hWriteSweep _ _ _ _) (State.atH_hostPut _ _ _ _))
      ps (u, bs))

/-! ## What the homes keep -/

namespace State.AtHome
variable {s t : State}

theorem queue (h : s.AtHome t) (q : Nat) : t.queue q = s.queue q := by
  have hqueues : t.sched.queues = s.sched.queues := (congrArg Sched.queues h.sched :)
  rw [State.queue, hqueues]
  rfl

theorem masked (h : s.AtHome t) (v : Nat) : t.link.masked v = s.link.masked v :=
  (congrArg (fun l : Link => l.masked v) h.link :)

theorem grid (h : s.AtHome t) (id : Nat) :
    (tblFind t.sched.grids id).map Grid.lossless = (tblFind s.sched.grids id).map Grid.lossless := by
  have hfind := congrArg (fun m => tblFind m id) h.grids
  simpa only [tblFind_tblMap] using hfind

theorem gridKeys (h : s.AtHome t) : t.sched.grids.map (·.1) = s.sched.grids.map (·.1) := by
  have hkeys : ∀ m : Tbl Grid, (tblMap (fun _ => Grid.lossless) m).map (·.1) = m.map (·.1) := fun m => by
    induction m with
    | nil => rfl
    | cons c m ih => exact congrArg (c.1 :: ·) ih
  rw [← hkeys, h.grids, hkeys]

/-- The launch timelines of a context. -/
theorem tls (h : s.AtHome t) {c : Nat} {k : Ctx} (hk : tblFind s.ctxs.live c = some k) :
    ∃ k', tblFind t.ctxs.live c = some k' ∧ k'.tls = k.tls := by
  have hlive := h.live c
  rw [hk] at hlive
  obtain ⟨k', hk', heq⟩ := Option.map_eq_some_iff.1 hlive
  exact ⟨k', hk', (congrArg Ctx.tls heq :)⟩

end State.AtHome

/-! ## Records of launch queues and of grids that end -/

theorem State.atH_readDesc (s : State) (c : Nat) : s.AtH (s.readDesc c).1 := s.atH_hRead _ _ _ _

theorem State.atH_earlyReject (s : State) (q : Nat) (late : Option Nat) (bs : List Byte) :
    s.AtH (s.earlyReject q late bs).1 := by
  unfold State.earlyReject
  extract_lets l
  split
  · exact .refl s
  · split
    · exact .refl s
    · split
      · exact .refl s
      · exact s.atH_readDesc _

theorem State.atH_readCts (s : State) (l : Launch) (root : Nat) : s.AtH (s.readCts l root).1 := by
  have hread := s.atH_vaRead l.ctx root l.ctAddr.toNat 128
  unfold State.readCts
  split
  · exact .refl s
  · split
    · next h => rw [h] at hread; exact hread
    · next h => rw [h] at hread; exact hread

theorem State.atH_checkRecord (s : State) (q : Nat) (p : Pend) (bs : List Byte) : s.AtH (s.checkRecord q p bs).1 := by
  have hearly := s.atH_earlyReject q p.code bs
  unfold State.checkRecord
  extract_lets l
  split
  · next h => rw [h] at hearly; exact hearly
  · next u h =>
    rw [h] at hearly
    refine hearly.trans ?_
    split
    · exact .refl u
    · have hdesc := u.atH_readDesc l.ctx
      split
      next v d hd =>
      rw [hd] at hdesc
      have hcts := v.atH_readCts l (descOf d).ptRoot
      refine hdesc.trans ?_
      split
      · next h' => rw [h'] at hcts; exact hcts
      · next h' => rw [h'] at hcts; exact hcts

theorem State.atH_rejectRoot (s : State) (ctx : Nat) : s.AtH (s.rejectRoot ctx).1 := by
  unfold State.rejectRoot
  split
  · exact .refl s
  · exact s.atH_hRead _ _ _ _

/-- A completion record is written, and then the queue's vector is sent. -/
theorem State.writeCompletion_eq (s : State) (q ctx : Nat) (root : Option Nat) (compl : DWord) (e : Ending) :
    ∃ u, s.AtH u ∧ s.writeCompletion q ctx root compl e = u.msi q := by
  unfold State.writeCompletion
  dsimp only
  refine ⟨_, ?_, rfl⟩
  refine .ite (.refl s) ?_
  cases root with
  | none => exact .refl s
  | some r =>
    have hwrite := s.atH_vaWrite ctx r compl.toNat (e.bytes s.ns)
    dsimp only
    split
    · next h => rw [h] at hwrite; exact hwrite
    · next h => rw [h] at hwrite; exact hwrite.trans (State.atH_countCtx _ _ (by exact fun _ => rfl))

/-- Where the queue's vector is not masked, its message has gone out. -/
theorem State.writeCompletion_spec (s : State) (q ctx : Nat) (root : Option Nat) (compl : DWord) (e : Ending) :
    s.AtH (s.writeCompletion q ctx root compl e) ∧
      (s.link.masked q = false → Out.msi q ∈ (s.writeCompletion q ctx root compl e).link.sent) := by
  obtain ⟨u, hu, heq⟩ := s.writeCompletion_eq q ctx root compl e
  rw [heq]
  refine ⟨hu.trans ⟨u.atHome_msi q, u.l1_msi q⟩, fun h => ?_⟩
  rw [State.sent_msi ((hu.home.masked q).trans h)]
  exact List.mem_cons_self

/-- A seal record is written under the next sequence number, where the grid has a stream. -/
theorem State.atH_finaliseSeal (s : State) (g : Grid) :
    ∃ n, ({ s with trust := { s.trust with sealSeq := n } } : State).AtH (s.finaliseSeal g).1 := by
  cases hg : g.stream with
  | none =>
    have heq : (s.finaliseSeal g).1 = s := by rw [State.finaliseSeal, hg]
    rw [heq]
    exact ⟨s.trust.sealSeq, .refl s⟩
  | some q =>
    refine ⟨s.trust.sealSeq + 1, ?_⟩
    have hwrite := State.atH_vaWrite { s with trust := { s.trust with sealSeq := s.trust.sealSeq + 1 } } g.ctx g.desc.ptRoot
      g.desc.sealDst (q.record (s.dice true) g s.trust.sealSeq)
    rw [State.finaliseSeal, hg]
    dsimp only
    split
    · next h => rw [h] at hwrite; exact hwrite
    · next h => rw [h] at hwrite; exact hwrite

/-! ## Grid boundaries -/

theorem State.sectors_allWBINV (s : State) (j : Nat) : (s.allWBINV.l1At j).sectors = [] := by
  obtain ⟨hmem, hnot⟩ := State.l1At_foldl_of (P := fun l => l.sectors = []) (fun s i => s.sectors_l1WBINV i)
    (fun s i j h => s.l1At_l1WBINV_ne h) (tblKeys s.l1) s j
  by_cases hj : j ∈ tblKeys s.l1
  · exact hmem hj
  · refine (congrArg L1.sectors (hnot hj)).trans ?_
    rw [State.l1At, tblGet_of_not_mem_keys _ hj]
    rfl

/-- Past a boundary every L1 structure and every instruction cache is empty. -/
theorem State.boundary_spec (s : State) (ctx : Nat) :
    (∀ j, ((s.boundary ctx).l1At j).sectors = []) ∧ (∀ c, ((s.boundary ctx).core c).icache = []) ∧
      ∃ u, s.AtHome u ∧ s.boundary ctx = { u with
        cores := tblMap (fun _ k => { k with icache := [], tlb := k.tlb.filter fun e => e.ctx != ctx }) u.cores } := by
  refine ⟨fun j => s.sectors_allWBINV j, fun c => ?_, _, s.atHome_allWBINV, rfl⟩
  simp only [State.core, State.boundary, tblGet_eq_find, tblFind_tblMap]
  cases tblFind s.allWBINV.cores c <;> rfl

end Sys2Proof.Machine
end

section
/-! SUPPORT. Grids are taken, started and ended (O44). -/

namespace Sys2Proof.Machine

set_option Elab.async false

/-! ## Taking a record -/

/-- The machine with the record at the head read, and the queue moved on. -/
def State.headTaken (u : State) (q : Nat) (rest : List Pend) : State :=
  u.updQueue q fun x => { x with head := (x.head + 1) % 2 ^ 31, pend := rest }

section
variable {s u w : State} {q : Nat} {p : Pend} {rest : List Pend} {bs : List Byte}
  (hpend : (s.queue q).pend = p :: rest) (hen : (s.queue q).en = true) (hfree : ∀ g ∈ s.sched.grids, g.2.inQueue q = false)
  (hread : s.hRead (.ctx (s.queue q).ctx) 0 ((s.queue q).slotAt (s.queue q).head) 256 = (u, bs))
include hpend hen hfree hread

theorem execDispatchTakeRecord_accepted {cts : Tbl (BitVec 256)}
    (hcheck : (u.headTaken q rest).checkRecord q p bs = (w, .ok cts)) :
    execDispatchTakeRecord q s = .next { w with sched := { w.sched with grids := tblSet w.sched.grids p.id { Grid.absent with
      id := p.id, queue := q, ctx := (launchOf bs).ctx, launch := { launchOf bs with sigSel := p.sel }, cts := cts,
      sig := p.num } } } := by
  have hany : (s.sched.grids.any fun g => g.2.inQueue q) = false :=
    List.any_eq_false.2 fun g hg => by rw [hfree g hg]; exact Bool.false_ne_true
  rw [State.headTaken] at hcheck
  rw [execDispatchTakeRecord, hpend]
  refine (if_neg (by rw [hen, hany]; decide)).trans ?_
  generalize State.checkRecord = check at hcheck ⊢
  rw [hread]
  dsimp only
  rw [hcheck]

theorem execDispatchTakeRecord_rejected {code : Nat} (hcheck : (u.headTaken q rest).checkRecord q p bs = (w, .error code)) :
    execDispatchTakeRecord q s = .next (w.rejectGrid q p.id p.sel p.num code bs) := by
  have hany : (s.sched.grids.any fun g => g.2.inQueue q) = false :=
    List.any_eq_false.2 fun g hg => by rw [hfree g hg]; exact Bool.false_ne_true
  rw [State.headTaken] at hcheck
  rw [execDispatchTakeRecord, hpend]
  refine (if_neg (by rw [hen, hany]; decide)).trans ?_
  generalize State.checkRecord = check at hcheck ⊢
  rw [hread]
  dsimp only
  rw [hcheck]

end

theorem State.signal_keeps (s : State) (ctx sel num : Nat) :
    (s.signal ctx sel num).link = s.link ∧ (s.signal ctx sel num).sched = s.sched ∧ (s.signal ctx sel num).l1 = s.l1 := by
  unfold State.signal
  split
  · exact ⟨rfl, rfl, rfl⟩
  · unfold State.updCtx
    split
    · exact ⟨rfl, rfl, rfl⟩
    · exact ⟨rfl, rfl, rfl⟩

/-- The operation of a live context's launch timeline completes. -/
theorem State.signal_spec {s : State} {ctx : Nat} {x : Ctx} (hx : tblFind s.ctxs.live ctx = some x) (sel : Nat) {num : Nat}
    (hnum : num ≠ 0) :
    ∃ y, tblFind (s.signal ctx sel num).ctxs.live ctx = some y ∧
      tblGet Timeline.start y.tls (sel - 64) = (tblGet Timeline.start x.tls (sel - 64)).complete num := by
  rw [State.signal, if_neg hnum, State.updCtx_of_live hx]
  exact ⟨_, tblFind_tblSet_same _ _ _, tblGet_tblUpd_same Timeline.start x.tls (sel - 64) fun t => t.complete num⟩

/-- A rejected grid: its queue's message, and no change of the queues or of the list of grids. -/
theorem State.rejectGrid_spec (s : State) (q gid sel num code : Nat) (bs : List Byte) :
    let t := s.rejectGrid q gid sel num code bs
    t.queue q = s.queue q ∧ t.sched.grids.map (·.1) = s.sched.grids.map (·.1) ∧
      (s.link.masked q = false → Out.msi q ∈ t.link.sent) := by
  have hroot := s.atH_rejectRoot (s.queue q).ctx
  obtain ⟨u, hu⟩ : ∃ u, u = (s.rejectRoot (s.queue q).ctx).1 := ⟨_, rfl⟩
  obtain ⟨w, compl, e, hw⟩ : ∃ w compl e, w = u.writeCompletion q (s.queue q).ctx (s.rejectRoot (s.queue q).ctx).2 compl e ∧
      s.rejectGrid q gid sel num code bs = w.signal (s.queue q).ctx sel num := ⟨_, _, _, rfl, by rw [hu]; rfl⟩
  obtain ⟨hw, hreject⟩ := hw
  obtain ⟨hwrite, hsent⟩ := u.writeCompletion_spec q (s.queue q).ctx (s.rejectRoot (s.queue q).ctx).2 compl e
  rw [← hu] at hroot
  rw [← hw] at hwrite hsent
  obtain ⟨hlink, hsched, -⟩ := w.signal_keeps (s.queue q).ctx sel num
  have hhome := hroot.home.trans hwrite.home
  intro t
  have ht : t = w.signal (s.queue q).ctx sel num := hreject
  rw [ht]
  refine ⟨?_, ?_, fun hmask => ?_⟩
  · rw [State.queue, hsched]
    exact hhome.queue q
  · rw [hsched]
    exact hhome.gridKeys
  · rw [hlink]
    exact hsent ((hroot.home.masked q).trans hmask)

/-! ## Starting a grid -/

theorem State.grid_updGrid_same {s : State} {gid : Nat} (h : (tblFind s.sched.grids gid).isSome) (f : Grid → Grid) :
    (s.updGrid gid f).grid gid = f (s.grid gid) :=
  tblGet_tblAdj_same _ _ _ _ h

/-- The machine as a grid starts: past the boundary, with its descriptor read and its place in the order of joining. -/
def State.beforeStart (s : State) (ctx : Nat) : State :=
  let u := ((s.boundary ctx).readDesc ctx).1
  { u with sched := { u.sched with joins := u.sched.joins + 1 } }

theorem State.beforeStart_spec (s : State) (ctx : Nat) :
    (∀ j, ((s.beforeStart ctx).l1At j).sectors = []) ∧ (∀ c, ((s.beforeStart ctx).core c).icache = []) ∧
      ((s.boundary ctx).readDesc ctx).1.ns = s.ns ∧ ((s.boundary ctx).readDesc ctx).1.sched.joins = s.sched.joins ∧
      ∀ id, (tblFind (s.beforeStart ctx).sched.grids id).map Grid.lossless = (tblFind s.sched.grids id).map Grid.lossless := by
  obtain ⟨hcold, hicache, u, hu, hboundary⟩ := s.boundary_spec ctx
  have hdesc := (s.boundary ctx).atH_readDesc ctx
  have hns : (s.boundary ctx).ns = s.ns := by rw [hboundary]; exact hu.ns
  have hjoins : (s.boundary ctx).sched.joins = s.sched.joins := by
    rw [hboundary]
    exact (congrArg Sched.joins hu.sched :)
  have hgrids : (s.boundary ctx).sched.grids = u.sched.grids := by rw [hboundary]
  refine ⟨fun j => ?_, fun c => ?_, hdesc.home.ns.trans hns, (congrArg Sched.joins hdesc.home.sched :).trans hjoins,
      fun id => ?_⟩
  · exact (congrArg L1.sectors (State.l1At_of_l1 hdesc.l1 j)).trans (hcold j)
  · exact (congrArg Core.icache (hdesc.home.core c)).trans (hicache c)
  · refine (hdesc.home.grid id).trans ?_
    rw [hgrids]
    exact hu.grid id

theorem execGridStart_eq {s : State} {gid : Nat} {g : Grid} (hg : tblFind s.sched.grids gid = some g)
    (hstarted : g.started = false) (h0 : s.depHolds g.ctx g.launch.dep0Sel g.launch.dep0 = true)
    (h1 : s.depHolds g.ctx g.launch.dep1Sel g.launch.dep1 = true)
    (hrunning : (s.sched.grids.filter fun c => c.2.started).length < 1024) :
    ∃ stream, execGridStart gid s = .next ((s.beforeStart g.ctx).updGrid gid fun x =>
      { x with started := true, dispatching := true, desc := descOf ((s.boundary g.ctx).readDesc g.ctx).2,
               startNs := ((s.boundary g.ctx).readDesc g.ctx).1.ns, stream := stream,
               joined := ((s.boundary g.ctx).readDesc g.ctx).1.sched.joins }) := by
  unfold execGridStart
  rw [hg]
  dsimp only
  rw [if_neg (by rw [hstarted, h0, h1, decide_eq_false (Nat.not_le.2 hrunning)]; decide)]
  exact ⟨_, rfl⟩

/-! ## Ending a grid -/

/-- A grid leaves the list, and its ranks go. -/
def State.withoutGrid (t : State) (gid : Nat) : State :=
  { t with sched := { t.sched with grids := tblDel t.sched.grids gid },
           clusters := tblMap (fun _ c => { c with ranks := c.ranks.filter fun r => r.grid != gid }) t.clusters }

theorem State.ranks_withoutGrid (t : State) (gid c : Nat) : ∀ r ∈ ((t.withoutGrid gid).cluster c).ranks, r.grid ≠ gid := by
  intro r hr
  simp only [State.cluster, State.withoutGrid, tblGet_eq_find, tblFind_tblMap] at hr
  cases hc : tblFind t.clusters c with
  | none => rw [hc] at hr; exact absurd hr List.not_mem_nil
  | some k =>
    rw [hc] at hr
    simpa using (List.mem_filter.1 hr).2

/-- The machine past the boundary and the seal record of a grid that ends. -/
def State.sealed (s : State) (ctx gid : Nat) : State :=
  ((s.boundary ctx).finaliseSeal ((s.boundary ctx).grid gid)).1

theorem State.sealed_spec (s : State) (ctx gid : Nat) :
    (∀ j, ((s.sealed ctx gid).l1At j).sectors = []) ∧
      (∀ id, (tblFind (s.sealed ctx gid).sched.grids id).map Grid.lossless = (tblFind s.sched.grids id).map Grid.lossless) ∧
      (∀ q, (s.sealed ctx gid).link.masked q = s.link.masked q) ∧
      ∀ c k, tblFind s.ctxs.live c = some k → ∃ k', tblFind (s.sealed ctx gid).ctxs.live c = some k' ∧ k'.tls = k.tls := by
  obtain ⟨hcold, -, u, hu, hboundary⟩ := s.boundary_spec ctx
  obtain ⟨n, hseal⟩ := (s.boundary ctx).atH_finaliseSeal ((s.boundary ctx).grid gid)
  have hgrids : (s.boundary ctx).sched = u.sched := by rw [hboundary]
  have hlink : (s.boundary ctx).link = u.link := by rw [hboundary]
  have hctxs : (s.boundary ctx).ctxs = u.ctxs := by rw [hboundary]
  refine ⟨fun j => ?_, fun id => (hseal.home.grid id).trans ?_, fun q => (hseal.home.masked q).trans ?_, fun c k hk => ?_⟩
  · exact (congrArg L1.sectors (State.l1At_of_l1 hseal.l1 j)).trans (hcold j)
  · exact (congrArg (fun x : Sched => (tblFind x.grids id).map Grid.lossless) hgrids).trans (hu.grid id)
  · exact (congrArg (fun x : Link => x.masked q) hlink).trans (hu.masked q)
  · obtain ⟨k₁, hk₁, htls₁⟩ := hu.tls hk
    rw [← hctxs] at hk₁
    obtain ⟨k₂, hk₂, htls₂⟩ := hseal.home.tls (by exact hk₁)
    exact ⟨k₂, hk₂, htls₂.trans htls₁⟩

theorem execGridEnd_eq {s : State} {gid : Nat} {g : Grid} (hg : tblFind s.sched.grids gid = some g) (hdone :
    s.gridDone g = true) :
    let u := s.sealed g.ctx gid
    let x := u.grid gid
    ∃ e, execGridEnd gid s = .next 
      (((u.writeCompletion x.queue x.ctx (some x.desc.ptRoot) x.launch.compl e).signal x.ctx x.launch.sigSel x.sig).withoutGrid
        gid) := by
  unfold execGridEnd
  rw [hg]
  dsimp only
  rw [if_neg (by rw [hdone]; decide)]
  exact ⟨_, rfl⟩

/-- Settles O44: each event is the composition that its lemma above writes out, and the frame of the homes carries the queues,
    the
grids and the launch timelines through it. -/
theorem gridsTakenStartedEnded : Obligations.GridsTakenStartedEnded := by
  refine ⟨fun s u w q code p rest bs cts => ?_, fun s gid g hg => ?_⟩
  · intro x hpend hen hfree hread v taken
    have hu : s.AtHome u := by
      have h := (s.atH_hRead (.ctx x.ctx) 0 (x.slotAt x.head) 256).home
      rwa [hread] at h
    have hqueue : v.queue q = { s.queue q with head := ((s.queue q).head + 1) % 2 ^ 31, pend := rest } := by
      rw [State.queue_updQueue_same, hu.queue]
    have hcheck := (v.atH_checkRecord q p bs).home
    refine ⟨fun hok => ?_, fun herr => ?_⟩
    · rw [hok] at hcheck
      refine ⟨_, execDispatchTakeRecord_accepted hpend hen hfree hread hok, ?_, tblFind_tblSet_same _ _ _⟩
      have hw : w.queue q = v.queue q := hcheck.queue q
      exact ⟨congrArg Queue.head (hw.trans hqueue), congrArg Queue.pend (hw.trans hqueue)⟩
    · rw [herr] at hcheck
      obtain ⟨hkeep, hkeys, hsent⟩ := w.rejectGrid_spec q p.id p.sel p.num code bs
      have hw := hkeep.trans ((hcheck.queue q).trans hqueue)
      refine ⟨_, execDispatchTakeRecord_rejected hpend hen hfree hread herr,
        ⟨congrArg Queue.head hw, congrArg Queue.pend hw⟩, hkeys.trans (hcheck.gridKeys.trans hu.gridKeys), fun hmask => ?_⟩
      exact hsent ((hcheck.masked q).trans ((hu.masked q).trans hmask))
  · intro cold
    refine ⟨fun hstarted h0 h1 hrunning => ?_, fun hdone => ?_⟩
    · obtain ⟨stream, hexec⟩ := execGridStart_eq hg hstarted h0 h1 hrunning
      obtain ⟨hcold, hicache, hns, hjoins, hgrids⟩ := s.beforeStart_spec g.ctx
      have hsome : (tblFind (s.beforeStart g.ctx).sched.grids gid).isSome := by
        have h := congrArg Option.isSome (hgrids gid)
        rw [Option.isSome_map, Option.isSome_map, hg] at h
        exact h
      have hgrid := State.grid_updGrid_same hsome fun x : Grid =>
        { x with started := true, dispatching := true, desc := descOf ((s.boundary g.ctx).readDesc g.ctx).2,
                 startNs := ((s.boundary g.ctx).readDesc g.ctx).1.ns, stream := stream,
                 joined := ((s.boundary g.ctx).readDesc g.ctx).1.sched.joins }
      exact ⟨_, hexec, congrArg Grid.started hgrid, congrArg Grid.dispatching hgrid, congrArg Grid.desc hgrid,
        (congrArg Grid.startNs hgrid).trans hns, (congrArg Grid.joined hgrid).trans hjoins, hcold, hicache⟩
    · obtain ⟨e, hexec⟩ := execGridEnd_eq hg hdone
      obtain ⟨hcold, hgrids, hmasked, htls⟩ := s.sealed_spec g.ctx gid
      obtain ⟨u, hu⟩ : ∃ u, u = s.sealed g.ctx gid := ⟨_, rfl⟩
      rw [← hu] at hexec hcold hgrids hmasked htls
      have hx : (u.grid gid).lossless = g.lossless := by
        have h := hgrids gid
        rw [hg] at h
        obtain ⟨x, hfind, heq⟩ := Option.map_eq_some_iff.1 h
        rw [State.grid, tblGet_of_find hfind]
        exact heq
      have hqueue : (u.grid gid).queue = g.queue := (congrArg Grid.queue hx :)
      have hctx : (u.grid gid).ctx = g.ctx := (congrArg Grid.ctx hx :)
      have hlaunch : (u.grid gid).launch = g.launch := (congrArg Grid.launch hx :)
      have hsig : (u.grid gid).sig = g.sig := (congrArg Grid.sig hx :)
      rw [hqueue, hctx, hlaunch, hsig] at hexec
      obtain ⟨hwrite, hsent⟩ := u.writeCompletion_spec g.queue g.ctx (some (u.grid gid).desc.ptRoot) g.launch.compl e
      obtain ⟨w, hw⟩ : ∃ w, w = u.writeCompletion g.queue g.ctx (some (u.grid gid).desc.ptRoot) g.launch.compl e := ⟨_, rfl⟩
      rw [← hw] at hexec hwrite hsent
      obtain ⟨hlink, -, hl1⟩ := w.signal_keeps g.ctx g.launch.sigSel g.sig
      refine ⟨_, hexec, tblFind_tblDel_same _ _, fun j => ?_, fun c r hr => ?_, fun hmask => ?_, fun x hnum hlive => ?_⟩
      · exact (congrArg L1.sectors (State.l1At_of_l1 (hl1.trans hwrite.l1) j)).trans (hcold j)
      · exact State.ranks_withoutGrid _ gid c r hr
      · have hgone := hsent ((hmasked g.queue).trans hmask)
        rw [← hlink] at hgone
        exact hgone
      · obtain ⟨k₁, hk₁, htls₁⟩ := htls g.ctx x hlive
        obtain ⟨k₂, hk₂, htls₂⟩ := hwrite.home.tls hk₁
        obtain ⟨y, hy, htl⟩ := State.signal_spec hk₂ g.launch.sigSel hnum
        exact ⟨y, hy, by rw [htl, htls₂, htls₁]⟩

end Sys2Proof.Machine
end

section
/-! SUPPORT. Admission, growth and shrinking (O45). -/

namespace Sys2Proof.Machine

set_option Elab.async false

/-! ## Teams after a change of teams -/

/-- What a change of every team keeps, a change of one of them keeps. -/
theorem State.team_updTeam_of {P : Team → Team → Prop} (hrefl : ∀ x, P x x) {f : Team → Team} (hf : ∀ x, P x (f x)) (s : State)
    (c n d m : Nat) : P (s.team d m) ((s.updTeam c n f).team d m) := by
  by_cases hd : d = c
  · subst hd
    rw [State.team, State.team, State.updTeam, State.core_updCore_same]
    by_cases hm : m = n
    · subst hm
      rw [Core.updTeam, Core.team, Core.team, tblGet_eq_find, tblGet_eq_find, tblFind_tblAdj_same]
      cases tblFind (s.core d).teams m with
      | none => exact hrefl _
      | some x => exact hf x
    · rw [Core.team_updTeam_ne _ _ hm]
      exact hrefl _
  · rw [State.team, State.team, State.updTeam, State.core_updCore_ne _ _ hd]
    exact hrefl _

theorem State.team_updTeam_same {s : State} {c n : Nat} (h : (tblFind (s.core c).teams n).isSome) (f : Team → Team) :
    (s.updTeam c n f).team c n = f (s.team c n) := by
  rw [State.team, State.updTeam, State.core_updCore_same, Core.team_updTeam_same _ _ _ h]
  rfl

/-- What a change of every team keeps holds where the teams of every core are changed. -/
theorem State.team_mapTeams_of {P : Team → Team → Prop} (hrefl : ∀ x, P x x) {f : Nat → Team → Team} (hf : ∀ n x, P x (f n x))
    {s t : State} (h : t.cores = tblMap (fun _ k => { k with teams := tblMap f k.teams }) s.cores) (d m : Nat) :
    P (s.team d m) (t.team d m) := by
  have hcore := tblGet_tblMap_of (P := fun k k' : Core => P (k.team m) (k'.team m)) (Core.reset (d % 256))
    (fun _ k => { k with teams := tblMap f k.teams }) s.cores d (hrefl _)
    (fun k => tblGet_tblMap_of Team.absent f k.teams m (hrefl _) (hf m))
  rw [State.team, State.team, State.core, State.core, h]
  exact hcore

theorem State.zeroing_updTeam (s : State) (c n : Nat) (f : Team → Team) (d : Nat) :
    ((s.updTeam c n f).core d).zeroing = (s.core d).zeroing := by
  by_cases hd : d = c
  · subst hd
    rw [State.updTeam, State.core_updCore_same]
    rfl
  · rw [State.updTeam, State.core_updCore_ne _ _ hd]

/-! ## What stays of a seated team -/

/-- Where a team sits and which one of its grid it is. -/
def Team.seatOf (t : Team) : Team :=
  { Team.absent with grid := t.grid, t := t.t, x := t.x, y := t.y, z := t.z, base := t.base, scr := t.scr }

/-- How many teams of a grid have been admitted, and how many are live. -/
def Grid.tally (g : Grid) : Nat × Nat := (g.nextT, g.liveTeams)

/-- Teams keep their seats, cores the lines they have to zero, and grids their tallies. -/
structure State.SameSeats (s t : State) : Prop where
  seat    : ∀ c n, (t.team c n).seatOf = (s.team c n).seatOf
  zeroing : ∀ c, (t.core c).zeroing = (s.core c).zeroing
  tally   : ∀ id, (tblFind t.sched.grids id).map Grid.tally = (tblFind s.sched.grids id).map Grid.tally

namespace State.SameSeats
variable {s t u : State}

theorem refl (s : State) : s.SameSeats s := ⟨fun _ _ => rfl, fun _ => rfl, fun _ => rfl⟩

theorem trans (h : s.SameSeats t) (h' : t.SameSeats u) : s.SameSeats u :=
  ⟨fun c n => (h'.seat c n).trans (h.seat c n), fun c => (h'.zeroing c).trans (h.zeroing c),
    fun id => (h'.tally id).trans (h.tally id)⟩

theorem foldl {α : Type} {f : State → α → State} (hf : ∀ (s : State) x, s.SameSeats (f s x)) (ls : List α) (s : State) :
    s.SameSeats (ls.foldl f s) := by
  induction ls generalizing s with
  | nil => exact refl s
  | cons x ls ih => exact (hf s x).trans (ih _)

end State.SameSeats

theorem State.sameSeats_updTeam (s : State) (c n : Nat) {f : Team → Team} (hf : ∀ x, (f x).seatOf = x.seatOf) :
    s.SameSeats (s.updTeam c n f) :=
  ⟨s.team_updTeam_of (P := fun x y => y.seatOf = x.seatOf) (fun _ => rfl) hf c n, s.zeroing_updTeam c n f, fun _ => rfl⟩

/-- A change of a core's other records. -/
theorem State.sameSeats_updCore (s : State) (c : Nat) {f : Core → Core} (ht : ∀ k, (f k).teams = k.teams)
    (hz : ∀ k, (f k).zeroing = k.zeroing) : s.SameSeats (s.updCore c f) := by
  refine ⟨fun d n => congrArg Team.seatOf (s.team_updCore_of_teams ht d n), fun d => ?_, fun _ => rfl⟩
  by_cases hd : d = c
  · subst hd
    rw [State.core_updCore_same]
    exact hz _
  · rw [State.core_updCore_ne _ _ hd]

theorem State.sameSeats_updGrid (s : State) (id : Nat) {f : Grid → Grid} (hf : ∀ g, (f g).tally = g.tally) :
    s.SameSeats (s.updGrid id f) := by
  refine ⟨fun _ _ => rfl, fun _ => rfl, fun d => ?_⟩
  by_cases hd : d = id
  · subst hd
    refine (congrArg (Option.map Grid.tally) (tblFind_tblAdj_same _ _ _)).trans ?_
    rw [Option.map_map]
    exact congrArg (fun q => Option.map q _) (funext hf)
  · exact congrArg (Option.map Grid.tally) (tblFind_tblAdj_ne _ _ hd)

theorem State.sameSeats_addGroup (s : State) (core slot : Nat) (r : Role) (g pslot : Nat) (entry : PAddr) :
    s.SameSeats (s.addGroup core slot r g pslot entry) := by
  have hname : s.SameSeats s.name.2 := ⟨fun _ _ => rfl, fun _ => rfl, fun _ => rfl⟩
  exact (hname.trans (State.sameSeats_updCore _ core (by exact fun _ => rfl) (by exact fun _ => rfl))).trans
    (State.sameSeats_updTeam _ core slot (by exact fun _ => rfl))

theorem State.sameSeats_startGroup (s : State) (core slot : Nat) (r : Role) : s.SameSeats (s.startGroup core slot r) := by
  unfold State.startGroup
  dsimp only
  split
  · exact (s.sameSeats_updGrid _ (by exact fun _ => rfl)).trans (State.sameSeats_addGroup _ _ _ _ _ _ _)
  · exact .refl s

/-- A change of teams that keeps their seats, on every core. -/
theorem State.sameSeats_mapTeams {s t : State} {f : Nat → Team → Team} (hf : ∀ n x, (f n x).seatOf = x.seatOf)
    (h : t.cores = tblMap (fun _ k => { k with teams := tblMap f k.teams }) s.cores) (hgrids : t.sched.grids = s.sched.grids) :
    s.SameSeats t := by
  refine ⟨State.team_mapTeams_of (P := fun x y => y.seatOf = x.seatOf) (fun _ => rfl) hf h, fun c => ?_,
      fun id => by rw [hgrids]⟩
  rw [State.core, State.core, h]
  exact tblGet_tblMap_of (P := fun k k' : Core => k'.zeroing = k.zeroing) _ _ s.cores c rfl (fun _ => rfl)

theorem State.sameSeats_clearShrinks (s : State) (which : ShrinkReq → Bool) : s.SameSeats (s.clearShrinks which) := by
  unfold State.clearShrinks
  dsimp only
  split
  · exact .refl s
  · exact State.sameSeats_mapTeams (f := fun _ t => t.unshrink (s.sched.shrinks.filter which)) (fun _ _ => rfl) rfl rfl

theorem State.sameSeats_entryDone (s : State) (tag : Nat × Nat) : s.SameSeats (s.entryDone tag) := by
  obtain ⟨hseat, hzeroing, htally⟩ := s.sameSeats_clearShrinks fun r => r.entry == tag
  exact ⟨hseat, hzeroing, htally⟩

theorem State.sameSeats_calm (s : State) : s.SameSeats s.calm := by
  unfold State.calm
  split
  · exact State.sameSeats_mapTeams (f := fun _ t =>
      if t.yielding && !t.stopping then { t with yielding := false, quantum := s.quantumNs } else t)
      (fun _ x => by split <;> rfl) rfl rfl
  · exact .refl s

/-! ## TEAM_ADMIT -/

/-- A cluster that changes mode keeps its cores and the tallies of the grids. -/
theorem State.chooseMode_spec (s : State) (c mode : Nat) :
    (s.chooseMode c mode).cores = s.cores ∧
      ∀ id, (tblFind (s.chooseMode c mode).sched.grids id).map Grid.lossless = (tblFind s.sched.grids id).map Grid.lossless :=
          by
  unfold State.chooseMode
  split
  · exact ⟨rfl, fun _ => rfl⟩
  · have hfold : ∀ ids : List Nat, s.AtHome (ids.foldl State.emptyL1 s) := fun ids =>
      State.AtHome.foldl (fun s i => (s.atHome_l1WBINV i).trans (State.atHome_updL1 _ _ _)) ids s
    exact ⟨(hfold _).cores, (hfold _).grid⟩

/-- A team takes the lowest free slot. -/
theorem State.seat_spec (s : State) {core slot : Nat} (h : lowestFree 32 (tblKeys (s.core core).teams) = some slot) (t : Team)
    (engine : Option Engine) :
    (s.seat core t engine).2 = slot ∧ ((s.seat core t engine).1.team core slot) = t ∧
      (s.seat core t engine).1.sched = s.sched := by
  have hslot : (lowestFree 32 (tblKeys (s.core core).teams)).getD 32 = slot := by rw [h]; rfl
  obtain ⟨u, hucores, husched, hseat⟩ : ∃ u : State, u.cores = s.cores ∧ u.sched = s.sched ∧ s.seat core t engine =
      ((u.updCore core fun k => { k with teams := tblSet k.teams slot t, owner := if engine.isSome then some slot else k.owner,
                                         engine := engine.getD k.engine }).putRank core slot, slot) := by
    refine ⟨if (s.core core).hosts t.grid then s else s.dropPins core, ?_, ?_, ?_⟩
    · split <;> rfl
    · split <;> rfl
    · rw [← hslot]
      rfl
  have hrank : ∀ v : State, (v.putRank core slot).cores = v.cores ∧ (v.putRank core slot).sched = v.sched := fun v => by
    unfold State.putRank
    dsimp only
    split
    · exact ⟨rfl, rfl⟩
    · exact ⟨rfl, rfl⟩
  rw [hseat]
  refine ⟨rfl, ?_, (hrank _).2.trans husched⟩
  have hcore : ∀ v : State, (v.putRank core slot).team core slot = v.team core slot := fun v => by
    rw [State.team, State.core, (hrank v).1]
    rfl
  rw [hcore, State.team, State.core_updCore_same]
  exact tblGet_tblSet_same _ _ _ _

/-- The groups that a new team starts with. -/
def State.startGroups (s : State) (l : Launch) (core slot : Nat) : State :=
  roles3.foldl (fun s r =>
    let n := if l.on.contains (roleNum r) then (l.role (roleNum r)).gmin else 0
    (List.range n).foldl (fun s _ => s.startGroup core slot r) s) s

theorem State.sameSeats_startGroups (s : State) (l : Launch) (core slot : Nat) : s.SameSeats (s.startGroups l core slot) :=
  State.SameSeats.foldl (fun s _ => State.SameSeats.foldl (fun s _ => s.sameSeats_startGroup _ _ _) _ s) _ s

/-- A grid whose team t of n has been admitted. -/
def Grid.admitOne (g : Grid) (t n : Nat) : Grid :=
  { g with nextT := t + 1, liveTeams := g.liveTeams + 1, dispatching := g.dispatching && t + 1 < n }

/-- What an admitted team is, and what its grid counts. -/
theorem State.admitTeam_spec {s : State} {gid t core base slot : Nat}
    (hbase : (s.core core).lineBase (s.grid gid).launch.scr = some base)
    (hslot : lowestFree 32 (tblKeys (s.core core).teams) = some slot) (hgrid : (tblFind s.sched.grids gid).isSome) :
    ∃ x : Team, x.grid = (s.grid gid).id ∧ x.t = t ∧ x.x = t % (s.grid gid).launch.gx ∧
      x.y = t / (s.grid gid).launch.gx % (s.grid gid).launch.gy ∧
      x.z = t / ((s.grid gid).launch.gx * (s.grid gid).launch.gy) ∧ x.base = base ∧ x.scr = (s.grid gid).launch.scr ∧
      ((s.admitTeam gid t core).team core slot).seatOf = x.seatOf ∧
      (∀ l ∈ x.lines, ((s.admitTeam gid t core).core core).zeroing.contains l = true) ∧
      ((s.admitTeam gid t core).grid gid).nextT = t + 1 ∧
      ((s.admitTeam gid t core).grid gid).liveTeams = (s.grid gid).liveTeams + 1 ∧
      (tblFind (s.admitTeam gid t core).sched.grids gid).isSome := by
  obtain ⟨hcores, hgrids⟩ := s.chooseMode_spec (clusterOf core) (s.grid gid).launch.l1mode
  obtain ⟨u, hu⟩ : ∃ u, u = s.chooseMode (clusterOf core) (s.grid gid).launch.l1mode := ⟨_, rfl⟩
  rw [← hu] at hcores hgrids
  have hcore : u.core core = s.core core := by rw [State.core, hcores]; rfl
  let x := u.name.2.newTeam (s.grid gid) t u.name.1 core base
  let engine := if (s.grid gid).launch.usesEngine then some { Engine.reset with ct := (s.grid gid).cts } else none
  obtain ⟨hnum, hteam, hsched⟩ := u.name.2.seat_spec (by rw [← hslot, ← hcore]; rfl) x engine
  obtain ⟨v, hv⟩ : ∃ v, v = u.name.2.seat core x engine := ⟨_, rfl⟩
  let w := (v.1.updCore core fun k => { k with zeroing := k.zeroing ++ x.lines }).startGroups (s.grid gid).launch core v.2
  have hadmit : s.admitTeam gid t core = w.updGrid gid fun g => g.admitOne t (s.grid gid).launch.teams := by
    unfold State.admitTeam
    dsimp only
    rw [← hu, hcore, hbase]
    dsimp only
    rw [← hv]
    rfl
  rw [← hv] at hnum hteam hsched
  obtain ⟨hseat, hzeroing, htally⟩ := State.sameSeats_startGroups
    (v.1.updCore core fun k => { k with zeroing := k.zeroing ++ x.lines }) (s.grid gid).launch core v.2
  have hfind : (tblFind w.sched.grids gid).map Grid.tally = (tblFind s.sched.grids gid).map Grid.tally := by
    have hlossless := congrArg (Option.map Grid.tally) (hgrids gid)
    rw [Option.map_map, Option.map_map] at hlossless
    refine (htally gid).trans ?_
    change (tblFind v.1.sched.grids gid).map Grid.tally = _
    rw [hsched]
    exact hlossless
  have hsome : (tblFind w.sched.grids gid).isSome := by
    rw [← Option.isSome_map (f := Grid.tally), hfind, Option.isSome_map]
    exact hgrid
  have hlive : (w.grid gid).tally = (s.grid gid).tally := by
    obtain ⟨y, hy⟩ := Option.isSome_iff_exists.1 hsome
    obtain ⟨z, hz⟩ := Option.isSome_iff_exists.1 hgrid
    rw [State.grid, State.grid, tblGet_of_find hy, tblGet_of_find hz]
    rw [hy, hz] at hfind
    exact Option.some.inj hfind
  have hgrid' := State.grid_updGrid_same hsome fun g => g.admitOne t (s.grid gid).launch.teams
  rw [hadmit]
  refine ⟨x, rfl, rfl, rfl, rfl, rfl, rfl, rfl, ?_, fun l hl => ?_, congrArg Grid.nextT hgrid',
    (congrArg Grid.liveTeams hgrid').trans (congrArg (· + 1) (congrArg Prod.snd hlive :)), ?_⟩
  · rw [← hteam, ← State.team_updCore_of_teams v.1 (c := core) (f := fun k => { k with zeroing := k.zeroing ++ x.lines })
      (by exact fun _ => rfl) core slot]
    exact hseat core slot
  · change (w.core core).zeroing.contains l = true
    rw [hzeroing, State.core_updCore_same, List.contains_iff_mem]
    exact List.mem_append_right _ hl
  · have hfind' : tblFind (w.updGrid gid fun g => g.admitOne t (s.grid gid).launch.teams).sched.grids gid = _ :=
      tblFind_tblAdj_same _ _ _
    rw [hfind', Option.isSome_map]
    exact hsome

/-- With an entry that stands for one new team, that team is admitted. -/
theorem execTeamAdmit_one {s : State} {e : Entry} {core : Nat} (he : s.firstEntry = some e) (hback : e.back = false)
    (hbusy : s.mgmt.l2Busy = false) (htick : s.beforeTick = false) (hshare : (s.grid e.gid).launch.share = false)
    (hplace : s.placement e = some [core]) :
    execTeamAdmit s = .next ((s.admitTeam e.gid (s.grid e.gid).nextT core).entryDone (s.entryTag e)).calm := by
  have hteams : (s.entryTeams e).map (·.1) = [(s.grid e.gid).nextT] := by
    rw [State.entryTeams]
    dsimp only
    rw [hback, hshare]
    rfl
  unfold execTeamAdmit
  rw [he]
  dsimp only
  rw [if_neg (by rw [hback, hbusy, htick]; decide), hplace]
  dsimp only
  rw [hteams]
  rfl

/-! ## GROUP_GROW -/

/-- A change of a listed record lists no other. -/
theorem isSome_tblAdj {β : Type} (t : Tbl β) (n : Nat) (f : β → β) (m : Nat) :
    (tblFind (tblAdj t n f) m).isSome = (tblFind t m).isSome := by
  by_cases hm : m = n
  · subst hm
    rw [tblFind_tblAdj_same, Option.isSome_map]
  · rw [tblFind_tblAdj_ne _ _ hm]

theorem isSome_tblMap {β : Type} (f : Nat → β → β) (t : Tbl β) (m : Nat) :
    (tblFind (tblMap f t) m).isSome = (tblFind t m).isSome := by
  rw [tblFind_tblMap, Option.isSome_map]

theorem isSome_tblFind_iff {β : Type} {t : Tbl β} {n : Nat} : (tblFind t n).isSome ↔ n ∈ tblKeys t := by
  refine ⟨fun h => ?_, fun h => ?_⟩
  · obtain ⟨v, hv⟩ := Option.isSome_iff_exists.1 h
    exact List.mem_map.2 ⟨_, mem_of_tblFind hv, rfl⟩
  · obtain ⟨c, hc, rfl⟩ := List.mem_map.1 h
    exact Option.isSome_iff_ne_none.2 (tblFind_ne_none_of_mem (v := c.2) hc)

/-- Two teams with the same roles, group indices and joins. -/
structure Team.SameShape (t t' : Team) : Prop where
  roles : t'.roles = t.roles
  keys  : ∀ n, (tblFind t'.groups n).isSome = (tblFind t.groups n).isSome
  joins : t'.joins = t.joins

theorem Team.SameShape.trans {t t' t'' : Team} (h : t.SameShape t') (h' : t'.SameShape t'') : t.SameShape t'' :=
  ⟨h'.roles.trans h.roles, fun n => (h'.keys n).trans (h.keys n), h'.joins.trans h.joins⟩

theorem Team.sameShape_check (b n : Nat) (t : Team) : t.SameShape (t.check b n) := by
  induction n generalizing t with
  | zero => exact ⟨rfl, fun _ => rfl, rfl⟩
  | succ n ih =>
    rw [Team.check]
    dsimp only
    split
    · have hstep : ∀ f bars, t.SameShape { t.mapAll f with bars := bars } := fun f bars => ⟨rfl, isSome_tblMap _ _, rfl⟩
      split
      · exact hstep _ _
      · exact (hstep _ _).trans (ih _)
    · exact ⟨rfl, fun _ => rfl, rfl⟩

theorem Team.sameShape_joinBarriers (t : Team) (g : Nat) (r : Role) : t.SameShape (t.joinBarriers g r) := by
  unfold Team.joinBarriers
  generalize t.covering r = bs
  induction bs generalizing t with
  | nil => exact ⟨rfl, fun _ => rfl, rfl⟩
  | cons b bs ih =>
    refine Team.SameShape.trans ?_ (ih _)
    have hone : ∀ f bars, t.SameShape { t.updGroup g f with bars := bars } := fun f bars => ⟨rfl, isSome_tblAdj _ _ _, rfl⟩
    exact (hone _ _).trans (Team.sameShape_check b 64 _)

theorem State.team_updTeam_ne (s : State) {c n m : Nat} (f : Team → Team) (h : m ≠ n) :
    (s.updTeam c n f).team c m = s.team c m := by
  rw [State.team, State.updTeam, State.core_updCore_same, Core.team_updTeam_ne _ _ h]
  rfl

/-- The same slots of a core hold teams. -/
theorem State.listed_updTeam (s : State) (c n : Nat) (f : Team → Team) (m : Nat) :
    (tblFind ((s.updTeam c n f).core c).teams m).isSome = (tblFind (s.core c).teams m).isSome := by
  rw [State.updTeam, State.core_updCore_same]
  exact isSome_tblAdj _ _ _ _

/-- One role's count of live groups rises by one. -/
def Team.liveUp (t : Team) (r : Role) : Tbl RoleCfg := tblAdj t.roles (roleNum r) fun c => { c with live := c.live + 1 }

/-- A group that joins a team: its index is taken, its role counts one more, and other teams stay. -/
theorem State.joinGroup_spec {s : State} {core slot : Nat} (hteam : (tblFind (s.core core).teams slot).isSome) (r :
    Role) (g p : Nat) :
    let t := s.joinGroup core slot r g p
    (tblFind (t.team core slot).groups g).isSome ∧ (t.team core slot).roles = (s.team core slot).liveUp r ∧
      (t.team core slot).joins = (s.team core slot).joins ∧ ∀ m, m ≠ slot → t.team core m = s.team core m := by
  intro t
  obtain ⟨u, x, huteam, hukeys, ht⟩ : ∃ (u : State) (x : Group), (∀ m, u.team core m = s.team core m) ∧
      (∀ m, (tblFind (u.core core).teams m).isSome = (tblFind (s.core core).teams m).isSome) ∧
      t = (u.updTeam core slot fun y => { y with groups := tblSet y.groups g x, roles := y.liveUp r }).updTeam core slot
        (·.joinBarriers g r) := by
    refine ⟨s.name.2.updCore core fun k => { k with ages := k.ages + 1 }, _, fun m => ?_, fun m => ?_, rfl⟩
    · exact State.team_updCore_of_teams s.name.2 (by exact fun _ => rfl) core m
    · rw [State.core_updCore_same]
      rfl
  rw [ht]
  have hlisted : (tblFind (u.core core).teams slot).isSome := (hukeys slot).trans hteam
  have hlisted' : (tblFind ((u.updTeam core slot fun y =>
      { y with groups := tblSet y.groups g x, roles := y.liveUp r }).core core).teams slot).isSome := by
    rw [State.listed_updTeam]
    exact hlisted
  obtain ⟨hroles, hkeys, hjoins⟩ := Team.sameShape_joinBarriers
    { u.team core slot with groups := tblSet (u.team core slot).groups g x, roles := (u.team core slot).liveUp r } g r
  rw [State.team_updTeam_same hlisted', State.team_updTeam_same hlisted]
  refine ⟨?_, hroles.trans (by rw [huteam]), hjoins.trans (by rw [huteam]), fun m hm => ?_⟩
  · rw [hkeys]
    exact Option.isSome_iff_exists.2 ⟨x, tblFind_tblSet_same _ _ _⟩
  · rw [State.team_updTeam_ne _ _ hm, State.team_updTeam_ne _ _ hm, huteam]

/-- The joins of one team land. -/
def State.landTeam (core : Nat) (s : State) (slot : Nat) : State :=
  (s.team core slot).joins.foldl (fun s j => s.joinGroup core slot j.1 j.2.1 j.2.2)
    (s.updTeam core slot fun t => { t with joins := [] })

theorem State.landJoins_eq (s : State) (core : Nat) :
    s.landJoins core = (tblKeys (s.core core).teams).foldl (State.landTeam core) s := rfl

theorem Team.joins_nil {t : Team} (h : t.joins = []) : { t with joins := [] } = t := by rw [← h]

/-- A team without joins stays, and so do the others. -/
theorem State.landTeam_of_nil {s : State} {core n : Nat} (h : (s.team core n).joins = []) :
    (∀ m, (s.landTeam core n).team core m = s.team core m) ∧
      ∀ m, (tblFind ((s.landTeam core n).core core).teams m).isSome = (tblFind (s.core core).teams m).isSome := by
  have hland : s.landTeam core n = s.updTeam core n fun t => { t with joins := [] } := by rw [State.landTeam, h]; rfl
  rw [hland]
  refine ⟨fun m => ?_, s.listed_updTeam core n _⟩
  by_cases hm : m = n
  · subst hm
    exact s.team_updTeam_of (P := fun x y => x.joins = [] → y = x) (fun _ _ => rfl) (fun _ h => Team.joins_nil h) core m core m
        h
  · exact s.team_updTeam_ne _ hm

theorem State.landTeams_of_nil {core : Nat} (ns : List Nat) {s : State} (h : ∀ m, (s.team core m).joins = []) (m : Nat) :
    (ns.foldl (State.landTeam core) s).team core m = s.team core m := by
  induction ns generalizing s with
  | nil => rfl
  | cons n ns ih =>
    obtain ⟨hsame, -⟩ := State.landTeam_of_nil (h n)
    exact (ih fun m => by rw [hsame, h]).trans (hsame m)

/-- With one join on a core, of a team among those that land, that group joins. -/
theorem State.landTeams_of_one {core slot g p : Nat} {r : Role} (ns : List Nat) {s : State} (hmem : slot ∈ ns)
    (hteam : (tblFind (s.core core).teams slot).isSome) (hone : (s.team core slot).joins = [(r, g, p)])
    (hnil : ∀ m, m ≠ slot → (s.team core m).joins = []) :
    let x := (ns.foldl (State.landTeam core) s).team core slot
    (tblFind x.groups g).isSome ∧ x.roles = (s.team core slot).liveUp r := by
  induction ns generalizing s with
  | nil => exact absurd hmem List.not_mem_nil
  | cons n ns ih =>
    by_cases hn : n = slot
    · subst hn
      obtain ⟨u, hu⟩ : ∃ u, u = s.updTeam core n fun t => { t with joins := [] } := ⟨_, rfl⟩
      have hland : s.landTeam core n = u.joinGroup core n r g p := by rw [State.landTeam, hone, hu]; rfl
      have huteam : u.team core n = { s.team core n with joins := [] } := by
        rw [hu, State.team_updTeam_same hteam]
      have hukeys : (tblFind (u.core core).teams n).isSome := by rw [hu, State.listed_updTeam]; exact hteam
      obtain ⟨hg, hroles, hjoins, hothers⟩ := State.joinGroup_spec hukeys r g p
      have hrest : ∀ m, ((s.landTeam core n).team core m).joins = [] := fun m => by
        rw [hland]
        by_cases hm : m = n
        · subst hm
          rw [hjoins, huteam]
        · rw [hothers m hm, hu, State.team_updTeam_ne _ _ hm, hnil m hm]
      have hfinal := State.landTeams_of_nil ns hrest n
      rw [List.foldl_cons, hfinal, hland]
      exact ⟨hg, hroles.trans (by rw [huteam]; rfl)⟩
    · obtain ⟨hsame, hkeys⟩ := State.landTeam_of_nil (hnil n hn)
      have hmem' : slot ∈ ns := (List.mem_cons.1 hmem).resolve_left (Ne.symm hn)
      have hrest := ih hmem' ((hkeys slot).trans hteam) ((congrArg Team.joins (hsame slot)).trans hone)
        (fun m hm => (congrArg Team.joins (hsame m)).trans (hnil m hm))
      rw [hsame] at hrest
      exact hrest

/-- What a team that can grow meets (R174, R347). -/
theorem State.grows_spec {s : State} {core slot : Nat} {r : Role} (h : s.grows core = some (slot, r)) :
    (tblFind (s.core core).teams slot).isSome ∧ ∃ g p, (s.team core slot).freeIndex = some g ∧
      (s.grid (s.team core slot).grid).freeSlot = some p ∧ (tblFind (s.team core slot).roles (roleNum r)).isSome := by
  obtain ⟨c, hc, hfound⟩ := List.exists_of_findSome?_eq_some h
  have hcan : c.1 = slot ∧ s.canJoin core slot r = true := by
    split at hfound
    · exact absurd hfound (by simp)
    · obtain ⟨q, hq, heq⟩ := Option.map_eq_some_iff.1 hfound
      obtain ⟨rfl, rfl⟩ := Prod.mk.inj heq
      have hok := List.find?_some hq
      simp only [Bool.and_eq_true] at hok
      exact ⟨rfl, hok.2⟩
  obtain ⟨rfl, hcan⟩ := hcan
  simp only [State.canJoin, Bool.and_eq_true, decide_eq_true_eq] at hcan
  obtain ⟨⟨⟨⟨hgmax, -⟩, -⟩, hindex⟩, hslot⟩ := hcan
  obtain ⟨g, hg⟩ := Option.isSome_iff_exists.1 hindex
  obtain ⟨p, hp⟩ := Option.isSome_iff_exists.1 hslot
  refine ⟨isSome_tblFind_iff.2 (List.mem_map.2 ⟨c, List.mem_mergeSort.1 hc, rfl⟩), g, p, hg, hp, ?_⟩
  by_contra hnone
  have hrole : ((s.core core).team c.1).role r = RoleCfg.reset := by
    have hfind := Option.not_isSome_iff_eq_none.1 hnone
    rw [State.team] at hfind
    rw [Team.role, tblGet_eq_find, hfind]
    rfl
  rw [hrole] at hgmax
  exact absurd hgmax (Nat.not_lt_zero _)

theorem execGroupGrow_eq {s : State} {core slot : Nat} {r : Role} (hen : s.sched.growEn = true)
    (hissued : (s.core core).issued = 0) (hgrown : (s.core core).grown = false) (hgated : (s.core core).gated = false)
    (hfits : s.someFits core = false) (hgrows : s.grows core = some (slot, r)) :
    execGroupGrow core s =
      .next (((s.acceptJoin core slot r).landJoins core).updCore core fun k => { k with grown := true }) := by
  unfold execGroupGrow
  dsimp only
  rw [if_pos (by rw [hen, hissued, hgrown, hgated, hfits]; rfl), hgrows]

/-! ## SHRINK_REQUEST and SHRINK_WAIT_EXPIRE -/

/-- SHRINK of one role of a team. -/
def Team.setShrink (t : Team) (r n : Nat) : Team := { t with roles := tblAdj t.roles r fun x => { x with shrink := n } }

theorem Team.setShrink_same {t : Team} {r : Nat} (h : (tblFind t.roles r).isSome) (n : Nat) :
    (tblGet RoleCfg.reset (t.setShrink r n).roles r).shrink = n := by
  rw [Team.setShrink, tblGet_tblAdj_same _ _ _ _ h]

theorem Team.setShrink_ne (t : Team) {r q : Nat} (n : Nat) (h : q ≠ r) :
    tblGet RoleCfg.reset (t.setShrink r n).roles q = tblGet RoleCfg.reset t.roles q := tblGet_tblAdj_ne _ _ _ h

/-- SHRINK is written for each pair of a team slot and a role. -/
def State.writeShrinks (s : State) (c : Nat) (n : Nat × Nat → Nat) (ps : List (Nat × Nat)) : State :=
  ps.foldl (fun s p => s.updTeam c p.1 fun t => t.setShrink p.2 (n p)) s

theorem State.writeShrinks_spec (c : Nat) (n : Nat × Nat → Nat) (q : Nat × Nat) (ps : List (Nat × Nat)) (s : State)
    (h : (tblFind (s.team c q.1).roles q.2).isSome)
    (hdone : q ∈ ps ∨ (tblGet RoleCfg.reset (s.team c q.1).roles q.2).shrink = n q) :
    (tblGet RoleCfg.reset ((s.writeShrinks c n ps).team c q.1).roles q.2).shrink = n q := by
  induction ps generalizing s with
  | nil => exact hdone.resolve_left List.not_mem_nil
  | cons p ps ih =>
    have hlisted : (tblFind (s.core c).teams q.1).isSome := by
      by_contra hnone
      rw [State.team, Core.team, tblGet_eq_find, Option.not_isSome_iff_eq_none.1 hnone] at h
      exact Bool.noConfusion h
    refine ih (s.updTeam c p.1 fun t => t.setShrink p.2 (n p)) ?_ ?_
    · refine s.team_updTeam_of (P := fun x y => (tblFind x.roles q.2).isSome → (tblFind y.roles q.2).isSome) (fun _ h => h)
        (fun x hx => ?_) c p.1 c q.1 h
      rw [Team.setShrink, isSome_tblAdj]
      exact hx
    · by_cases hpq : p = q
      · subst hpq
        rw [State.team_updTeam_same hlisted, Team.setShrink_same h]
        exact .inr rfl
      · refine hdone.imp (fun hq => (List.mem_cons.1 hq).resolve_left (Ne.symm hpq)) fun hshrink => ?_
        by_cases hslot : q.1 = p.1
        · have hrole : q.2 ≠ p.2 := fun hr => hpq (Prod.ext hslot.symm hr.symm)
          rw [← hslot, State.team_updTeam_same hlisted, Team.setShrink_ne _ _ hrole]
          exact hshrink
        · rw [State.team_updTeam_ne _ _ hslot]
          exact hshrink

theorem State.sched_writeShrinks (s : State) (c : Nat) (n : Nat × Nat → Nat) (ps : List (Nat × Nat)) :
    (s.writeShrinks c n ps).sched = s.sched := foldl_keeps (p := State.sched) (by exact fun _ _ => rfl) ps s

/-- How many groups of a role of a team are to leave. -/
def leaving (set : List (Nat × Nat × Nat)) (p : Nat × Nat) : Nat := (set.filter fun y => (y.1, y.2.1) == p).length

theorem execShrinkRequest_eq {s : State} {e : Entry} {n c : Nat} {d : Demand} {set : List (Nat × Nat × Nat)}
    (he : s.firstEntry = some e) (hteams : s.entryTeams e = [(n, d)]) (hplace : s.placement e = none)
    (hshrunk : s.sched.shrunk.contains (s.entryTag e) = false)
    (hcore : s.leastCore ((tblKeys s.cores).filter fun c => (s.shrinkSet e d c).isSome) = some c)
    (hset : s.shrinkSet e d c = some set) :
    let pairs := (set.map fun x => (x.1, x.2.1)).eraseDups
    let u := s.writeShrinks c (leaving set) pairs
    ∃ rs : List ShrinkReq, (∀ r ∈ rs, r.entry = s.entryTag e ∧ r.due = (s.ns + s.sched.shrinkWait * 100000) % 2 ^ 64) ∧
      execShrinkRequest s =
        .next { u with sched := { u.sched with
          shrinks := u.sched.shrinks ++ rs
          shrunk := s.entryTag e :: u.sched.shrunk } } := by
  intro pairs u
  refine ⟨pairs.map fun p => ⟨s.entryTag e, (u.team c p.1).uid, p.2, (s.ns + s.sched.shrinkWait * 100000) % 2 ^ 64⟩,
    fun r hr => ?_, ?_⟩
  · obtain ⟨p, -, rfl⟩ := List.mem_map.1 hr
    exact ⟨rfl, rfl⟩
  · unfold execShrinkRequest
    rw [he]
    dsimp only
    rw [hteams]
    dsimp only
    rw [if_neg (by rw [hplace, hshrunk]; decide), hcore]
    dsimp only
    rw [hset]
    rfl

/-- SHRINK of the requests that are cleared is 0. -/
theorem State.clearShrinks_spec (s : State) (which : ShrinkReq → Bool) :
    (s.clearShrinks which).sched.shrinks = (s.sched.shrinks.filter fun r => !which r) ∧
      ∀ r ∈ s.sched.shrinks, which r = true → ∀ core slot x, tblFind (s.core core).teams slot = some x → x.uid = r.team →
        (tblFind x.roles r.role).isSome →
        (tblGet RoleCfg.reset ((s.clearShrinks which).team core slot).roles r.role).shrink = 0 := by
  unfold State.clearShrinks
  dsimp only
  split
  · next hnone =>
    have hnot : ∀ r ∈ s.sched.shrinks, which r = false := fun r hr =>
      Bool.eq_false_iff.2 (List.filter_eq_nil_iff.1 (List.isEmpty_iff.1 hnone) r hr)
    exact ⟨(List.filter_eq_self.2 fun r hr => by rw [hnot r hr]; rfl).symm,
        fun r hr h => by rw [hnot r hr] at h; exact Bool.noConfusion h⟩
  · refine ⟨rfl, fun r hr hw core slot x hx huid hrole => ?_⟩
    have hmine : ((s.sched.shrinks.filter which).any fun q => q.team == x.uid && q.role == r.role) = true :=
      List.any_eq_true.2 ⟨r, List.mem_filter.2 ⟨hr, hw⟩, by simp [huid]⟩
    have hcore : ∃ k, tblFind s.cores core = some k ∧ tblFind k.teams slot = some x := by
      cases hk : tblFind s.cores core with
      | none => rw [State.core, tblGet_eq_find, hk] at hx; exact absurd hx (Option.some_ne_none x).symm
      | some k => rw [State.core, tblGet_of_find hk] at hx; exact ⟨k, rfl, hx⟩
    obtain ⟨k, hk, hx⟩ := hcore
    have hteam : tblGet Team.absent (tblMap (fun _ t => t.unshrink (s.sched.shrinks.filter which)) k.teams) slot =
        x.unshrink (s.sched.shrinks.filter which) := by
      rw [tblGet_eq_find, tblFind_tblMap, hx]
      rfl
    simp only [State.team, State.core, Core.team, tblGet_eq_find (Core.reset _), tblFind_tblMap, hk]
    refine (congrArg (fun y : Team => (tblGet RoleCfg.reset y.roles r.role).shrink) hteam).trans ?_
    rw [Team.unshrink]
    dsimp only
    rw [tblGet_tblMap _ _ _ _ hrole, if_pos hmine]

/-- Settles O45: the new team keeps its seat through what follows it, the one accepted join lands, and SHRINK is written and
cleared role by role. -/
theorem admissionGrowthAndShrinking : Obligations.AdmissionGrowthAndShrinking := by
  refine ⟨fun s e core base slot => ?_, fun s core slot r hen hissued hgrown hgated hfits hgrows hjoins => ?_,
    fun s e n c d set => ?_, fun s => ?_⟩
  · intro g he hback hbusy htick hshare hplace hbase hslot hgrid
    obtain ⟨x, hxg, hxt, hxx, hxy, hxz, hxb, hxs, hseat, hlines, hnext, hlive, hsome⟩ :=
      State.admitTeam_spec (t := g.nextT) hbase hslot hgrid
    obtain ⟨hseat', hzeroing, htally⟩ := (State.sameSeats_entryDone (s.admitTeam e.gid g.nextT core) (s.entryTag e)).trans
      (State.sameSeats_calm _)
    have hexec : exec .teamAdmit s = .next ((s.admitTeam e.gid g.nextT core).entryDone (s.entryTag e)).calm :=
      execTeamAdmit_one he hback hbusy htick hshare hplace
    generalize ((s.admitTeam e.gid g.nextT core).entryDone (s.entryTag e)).calm = t at hexec hseat' hzeroing htally
    generalize s.admitTeam e.gid g.nextT core = u at *
    have hfinal := (hseat' core slot).trans hseat
    refine ⟨t, hexec, ⟨(congrArg Team.grid hfinal :).trans hxg, (congrArg Team.t hfinal :).trans hxt,
      (congrArg Team.x hfinal :).trans hxx, (congrArg Team.y hfinal :).trans hxy, (congrArg Team.z hfinal :).trans hxz,
      (congrArg Team.base hfinal :).trans hxb, (congrArg Team.scr hfinal :).trans hxs⟩, fun l hlo hhi => ?_, ?_⟩
    · have hmem : l ∈ x.lines := by
        rw [Team.lines, hxb, hxs]
        have hlt : l - base < (s.grid e.gid).launch.scr := Nat.sub_lt_left_of_lt_add hlo hhi
        exact List.mem_map.2 ⟨l - base, List.mem_range.2 hlt, Nat.sub_add_cancel hlo⟩
      rw [Core.present, hzeroing, hlines l hmem]
      rfl
    · obtain ⟨y, hy⟩ := Option.isSome_iff_exists.1 hsome
      have hfind := htally e.gid
      rw [hy] at hfind
      obtain ⟨z, hz, hzy⟩ := Option.map_eq_some_iff.1 hfind
      rw [State.grid, tblGet_of_find hy] at hnext hlive
      rw [State.grid, tblGet_of_find hz]
      exact ⟨(congrArg Prod.fst hzy :).trans hnext, (congrArg Prod.snd hzy :).trans hlive⟩
  · obtain ⟨hlisted, g, p, hindex, hfree, hrole⟩ := State.grows_spec hgrows
    have hnil : ∀ m, (s.team core m).joins = [] := fun m => by
      rw [State.team, Core.team, tblGet_eq_find]
      cases hm : tblFind (s.core core).teams m with
      | none => rfl
      | some x => exact hjoins _ (mem_of_tblFind hm)
    have haccept : s.acceptJoin core slot r =
        (s.updGrid (s.team core slot).grid fun q => { q with slotsHeld := p :: q.slotsHeld }).updTeam core slot fun t =>
          { t with joins := t.joins ++ [(r, g, p)] } := by
      unfold State.acceptJoin
      dsimp only
      rw [hindex, hfree]
    obtain ⟨u, hu⟩ : ∃ u, u = s.updGrid (s.team core slot).grid fun q => { q with slotsHeld := p :: q.slotsHeld } := ⟨_, rfl⟩
    have huteam : ∀ m, u.team core m = s.team core m := fun m => by rw [hu]; rfl
    have hulisted : (tblFind (u.core core).teams slot).isSome := by rw [hu]; exact hlisted
    rw [← hu] at haccept
    have hone := State.team_updTeam_same hulisted fun t : Team => { t with joins := t.joins ++ [(r, g, p)] }
    rw [← haccept, huteam, hnil] at hone
    have hacc : (tblFind ((s.acceptJoin core slot r).core core).teams slot).isSome := by
      rw [haccept, State.listed_updTeam]
      exact hulisted
    obtain ⟨hg, hroles⟩ := State.landTeams_of_one (tblKeys ((s.acceptJoin core slot r).core core).teams)
      (isSome_tblFind_iff.1 hacc) hacc (congrArg Team.joins hone)
      (fun m hm => by rw [haccept, State.team_updTeam_ne _ _ hm, huteam, hnil])
    have hexec : exec (.groupGrow core) s = _ := execGroupGrow_eq hen hissued hgrown hgated hfits hgrows
    have hteam := State.team_updCore_of_teams ((s.acceptJoin core slot r).landJoins core) (c := core)
      (f := fun k => { k with grown := true }) (by exact fun _ => rfl) core slot
    refine ⟨_, g, hexec, ?_, hindex, ?_, ?_⟩
    · rw [State.core_updCore_same]
    · rw [hteam]
      exact hg
    · rw [hteam, Team.role]
      refine (congrArg (fun t => (tblGet RoleCfg.reset t (roleNum r)).live) hroles).trans ?_
      rw [hone, Team.liveUp, tblGet_tblAdj_same _ _ _ _ hrole]
      rfl
  · intro tag he hteams hplace hshrunk hcore hset
    have hsched := s.sched_writeShrinks c (leaving set) (set.map fun x => (x.1, x.2.1)).eraseDups
    obtain ⟨rs, hrs, hexec⟩ := execShrinkRequest_eq he hteams hplace hshrunk hcore hset
    refine ⟨_, rs, hexec, congrArg (fun y : Sched => tag :: y.shrunk) hsched,
        congrArg (fun y : Sched => y.shrinks ++ rs) hsched,
      hrs, fun x hx hrole => ?_⟩
    · refine State.writeShrinks_spec c (leaving set) (x.1, x.2.1) _ s hrole (.inl ?_)
      exact List.mem_eraseDups.2 (List.mem_map.2 ⟨x, hx, rfl⟩)
  · exact ⟨_, rfl, s.clearShrinks_spec fun r => s.reached r.due⟩

end Sys2Proof.Machine
end

section
/-! SUPPORT. Pre-emption and restore (O46): what a save records, and a machine on which the obligation fails. -/

namespace Sys2Proof.Machine

set_option Elab.async false

/-! ## What a save records -/

/-- What names a saved team, and the context that its area is saved under. -/
def Waiting.tag (w : Waiting) : Nat × Nat := (w.team.uid, w.ctx)

/-- The saved team is listed, and its core let go of it. -/
def State.listSaved (u : State) (core : Nat) (w : Waiting) (free : Core → Core) : State :=
  let s := u.updCore core free
  { s with sched := { s.sched with waiting := s.sched.waiting ++ [w] } }

/-- What is under way to the scratchpad of a saved team follows it. -/
def State.carried (s : State) (core : Nat) (t : Team) : State :=
  (s.mapOuts fun l =>
    if l.1 = core ∧ t.base ≤ l.2 ∧ l.2 < t.base + t.scr then (savedCore + t.uid, l.2 - t.base) else l).rehome t.uid
      (savedCore + t.uid) 0

/-- A saved team is listed, and the core and its copies let it go. -/
def State.putSaved (u : State) (core : Nat) (t : Team) (w : Waiting) (free : Core → Core) : State :=
  let s := (u.listSaved core w free).carried core t
  if (s.core core).hosts t.grid then s else s.dropPins core

theorem State.AtHome.grid_lossless {s t : State} (h : s.AtHome t) (id : Nat) : (t.grid id).lossless = (s.grid id).lossless := by
  have hfind := h.grid id
  rw [State.grid, State.grid, tblGet_eq_find, tblGet_eq_find]
  cases hs : tblFind s.sched.grids id with
  | none =>
    rw [hs, Option.map_none, Option.map_eq_none_iff] at hfind
    rw [hfind]
  | some g =>
    rw [hs] at hfind
    obtain ⟨y, hy, heq⟩ := Option.map_eq_some_iff.1 hfind
    rw [hy]
    exact heq

/-- What the order of joining leaves as it is. -/
theorem State.joinOrder_spec (s : State) (gid cohort : Nat) :
    (s.joinOrder gid cohort).2.cores = s.cores ∧ (s.joinOrder gid cohort).2.sched.waiting = s.sched.waiting ∧
      (s.joinOrder gid cohort).2.sched.grids = s.sched.grids := by
  unfold State.joinOrder
  split
  · exact ⟨rfl, rfl, rfl⟩
  · exact ⟨rfl, rfl, rfl⟩

theorem State.atHome_writeArea (s : State) (ctx a : Nat) (bs : List Byte) : s.AtHome (s.writeArea ctx a bs) :=
  (State.atH_foldl_fst (by exact fun p c => State.atH_hWriteSweep _ _ _ _) _ (s, bs)).home

theorem State.updCtx_cores (s : State) (c : Nat) (f : Ctx → Ctx) : (s.updCtx c f).cores = s.cores := by
  unfold State.updCtx
  split <;> rfl

/-- A save of a team that has no scratchpad: its area is written, and it is listed under the context of its grid. -/
theorem State.saveTeam_eq {s : State} {core slot : Nat} (hscr : (s.team core slot).scr = 0) (area : Nat) :
    ∃ (u : State) (w : Waiting) (free : Core → Core),
      s.saveTeam core slot area = u.putSaved core (s.team core slot) w free ∧ (∀ k, (free k).teams = tblDel k.teams slot) ∧
      w.tag = ((s.team core slot).uid, (s.grid (s.team core slot).grid).ctx) ∧
      u.cores = s.cores ∧ u.sched.waiting = s.sched.waiting ∧ ∀ id, (u.grid id).ctx = (s.grid id).ctx := by
  have hspad : s.spadErrors core ((s.team core slot).base * 256) ((s.team core slot).scr * 256) = s := by rw [hscr]; rfl
  unfold State.saveTeam
  extract_lets t s₁ k g size _ engine s₂ n bufs mhz kept s₃ s₄ susp ids mine moves
  have hs₁ : s₁ = s := hspad
  have hg : g.ctx = (s.grid t.grid).ctx := by rw [← hs₁]
  have hhome : s₂.AtHome s₄ := (s₂.atHome_writeArea _ _ _).trans (State.atHome_l1WB _ _)
  have hs₂ : s₂.cores = s.cores ∧ s₂.sched = s.sched := by
    rw [← hs₁]
    exact ⟨State.updCtx_cores _ _ _, State.sched_updCtx _ _ _⟩
  clear_value s₄ s₂
  obtain ⟨hcores, hwaiting, hgrids⟩ := s₄.joinOrder_spec t.grid t.cohort
  have hu : (s₄.joinOrder t.grid t.cohort).2.cores = s.cores ∧
      (s₄.joinOrder t.grid t.cohort).2.sched.waiting = s.sched.waiting ∧
      ∀ id, ((s₄.joinOrder t.grid t.cohort).2.grid id).ctx = (s.grid id).ctx := by
    refine ⟨hcores.trans (hhome.cores.trans hs₂.1), hwaiting.trans ?_, fun id => ?_⟩
    · exact (congrArg Sched.waiting hhome.sched :).trans (congrArg Sched.waiting hs₂.2)
    · have h₄ : (s₄.grid id).ctx = (s₂.grid id).ctx := (congrArg Grid.ctx (hhome.grid_lossless id) :)
      rw [State.grid, hgrids]
      exact h₄.trans (by rw [State.grid, hs₂.2]; rfl)
  generalize s₄.joinOrder t.grid t.cohort = order at hu ⊢
  obtain ⟨joined, u⟩ := order
  dsimp -zeta only
  extract_lets w s₅
  exact ⟨u, w, _, rfl, fun _ => rfl, congrArg (Prod.mk t.uid) hg, hu⟩

/-! ## What a save leaves of the other teams -/

/-- A change of copies and engines keeps the teams, the grids and the tags of the saved teams. -/
structure State.SameSaved (s t : State) : Prop where
  team : ∀ c n, t.team c n = s.team c n
  grids : t.sched.grids = s.sched.grids
  tags : t.sched.waiting.map Waiting.tag = s.sched.waiting.map Waiting.tag

theorem State.SameSaved.trans {s t u : State} (h : s.SameSaved t) (h' : t.SameSaved u) : s.SameSaved u :=
  ⟨fun c n => (h'.team c n).trans (h.team c n), h'.grids.trans h.grids, h'.tags.trans h.tags⟩

theorem State.team_tblMap {s t : State} {f : Core → Core} (hf : ∀ k, (f k).teams = k.teams)
    (h : t.cores = tblMap (fun _ => f) s.cores) (c n : Nat) : t.team c n = s.team c n := by
  have hcore := tblGet_tblMap_of (P := fun k k' : Core => k'.teams = k.teams) (Core.reset (c % 256)) (fun _ => f) s.cores c rfl hf
  rw [State.team, State.team, Core.team, Core.team, State.core, State.core, h, hcore]

theorem State.sameSaved_mapCopies (s : State) (f : Copy → Copy) : s.SameSaved (s.mapCopies f) :=
  ⟨State.team_tblMap (f := fun k => { k with copies := tblMap (fun _ c => f c) k.copies }) (fun _ => rfl) rfl, rfl,
    (List.map_map ..).trans rfl⟩

theorem State.sameSaved_mapEngines (s : State) (f : Engine → Engine) : s.SameSaved (s.mapEngines f) :=
  ⟨State.team_tblMap (f := fun k => { k with engine := f k.engine }) (fun _ => rfl) rfl, rfl, (List.map_map ..).trans rfl⟩

theorem State.sameSaved_carried (s : State) (core : Nat) (t : Team) : s.SameSaved (s.carried core t) :=
  ((State.sameSaved_mapCopies _ _).trans (State.sameSaved_mapEngines _ _)).trans (State.sameSaved_mapCopies _ _)

theorem State.sameSaved_dropPins (s : State) (core : Nat) : s.SameSaved (s.dropPins core) := ⟨fun _ _ => rfl, rfl, rfl⟩

/-- The tag of the saved team comes last, and the teams of other slots stay. -/
theorem State.putSaved_spec (u : State) {core slot : Nat} (t : Team) (w : Waiting) {free : Core → Core}
    (hfree : ∀ k, (free k).teams = tblDel k.teams slot) :
    let v := u.putSaved core t w free
    v.sched.waiting.map Waiting.tag = u.sched.waiting.map Waiting.tag ++ [w.tag] ∧ v.sched.grids = u.sched.grids ∧
      ∀ n, n ≠ slot → v.team core n = u.team core n := by
  intro v
  have hv : (u.listSaved core w free).SameSaved v := by
    have hcarried := (u.listSaved core w free).sameSaved_carried core t
    unfold v State.putSaved
    extract_lets s
    split
    · exact hcarried
    · exact hcarried.trans (State.sameSaved_dropPins _ _)
  refine ⟨hv.tags.trans (List.map_append ..), hv.grids, fun n hn => (hv.team core n).trans ?_⟩
  rw [State.team, State.team, State.listSaved]
  show Core.team (State.core (u.updCore core free) core) n = _
  rw [State.core_updCore_same, Core.team, Core.team, hfree, tblGet_eq_find, tblGet_eq_find, tblFind_tblDel_ne _ hn]

/-- A cohort that has drained is saved. -/
theorem State.exec_preemptTeam_of_drained {s : State} {core slot : Nat} {x : Team} (hfind : tblFind (s.core core).teams slot = some x)
    (hstop : x.stopping = true) (hmark : s.unmarked core slot = false)
    (hall : ((s.mates core slot).all fun m =>
      (s.team m.1 m.2).stopping && !s.unmarked m.1 m.2 && !(s.core m.1).flt.stopped && s.teamDrained m.1 m.2) = true) :
    exec (.preemptTeam core slot) s = .next (s.saveCohort (s.mates core slot) (s.grid x.grid).killed) := by
  have hexec : exec (.preemptTeam core slot) s = execPreemptTeam core slot s := rfl
  rw [hexec, execPreemptTeam, hfind]
  exact (if_neg (by rw [hstop]; decide)).trans ((if_neg (by rw [hmark]; decide)).trans (if_pos hall))

/-- A cohort whose areas have places is saved, one team after the other. -/
theorem State.saveCohort_of_areas {s : State} {ms : List (Nat × Nat)} {as : List Nat} {killed : Bool}
    (has : s.areasFor s.areas ms = some as) (hk : killed = false) :
    s.saveCohort ms killed = (ms.zip as).foldl (fun s x => s.saveTeam x.1.1 x.1.2 x.2) s := by
  rw [State.saveCohort, has, hk]
  rfl

/-! ## A table that lists a slot twice -/

namespace ShadowedSlot

/-- A team of the first grid, in slot 0. -/
def first : Team := { Team.absent with uid := 1, grid := 1, stopping := true }

/-- A team of the second grid, in slot 1. -/
def second : Team := { Team.absent with uid := 2, grid := 2, stopping := true }

/-- A team of the first grid, that the one before it hides in slot 1. -/
def hidden : Team := { Team.absent with uid := 3, grid := 1, stopping := true }

/-- A grid that runs in a context, with a region for the areas of its saved teams. -/
def grid (id base : Nat) : Grid :=
  { Grid.absent with id := id, ctx := id, desc := { Grid.absent.desc with saveBase := base, saveUnits := 16 } }

/-- The machine at reset with these teams on core 0. -/
def state : State :=
  let s := State.reset
  { s with cores := [(0, { Core.reset 0 with teams := [(0, first), (1, second), (1, hidden)] })],
           sched := { s.sched with grids := [(1, grid 1 0), (2, grid 2 1048576)] } }

theorem mates_eq : state.mates 0 0 = [(0, 0), (0, 1)] := rfl

theorem areasFor_eq : state.areasFor state.areas [(0, 0), (0, 1)] = some [0, 1048576] := by decide

theorem drained : ∀ m ∈ [(0, 0), (0, 1)], (state.team m.1 m.2).stopping = true ∧ state.unmarked m.1 m.2 = false ∧
    (state.core m.1).flt.stopped = false ∧ state.teamDrained m.1 m.2 = true := by decide

theorem exec_preemptTeam :
    exec (.preemptTeam 0 0) state = .next ((state.saveTeam 0 0 0).saveTeam 0 1 1048576) := by
  have hall : ([(0, 0), (0, 1)].all fun m => (state.team m.1 m.2).stopping && !state.unmarked m.1 m.2 &&
      !(state.core m.1).flt.stopped && state.teamDrained m.1 m.2) = true := by decide
  have hk : (state.grid first.grid).killed = false := rfl
  rw [State.exec_preemptTeam_of_drained (x := first) rfl rfl (drained (0, 0) (.head _)).2.1 (mates_eq ▸ hall), mates_eq,
    State.saveCohort_of_areas areasFor_eq hk, List.zip_cons_cons, List.zip_cons_cons, List.zip_nil_left, List.foldl_cons,
    List.foldl_cons, List.foldl_nil]

/-- The team that slot 1 shows is saved under its own grid's context. -/
theorem tags_eq : ((state.saveTeam 0 0 0).saveTeam 0 1 1048576).sched.waiting.map Waiting.tag = [(1, 1), (2, 2)] := by
  obtain ⟨u, w, free, hsave, hfree, htag, hcores, hwaiting, hgrids⟩ := State.saveTeam_eq (s := state) (core := 0) (slot := 0) rfl 0
  obtain ⟨htags, hgr, hteam⟩ := u.putSaved_spec (core := 0) (state.team 0 0) w hfree
  rw [← hsave] at htags hgr hteam
  have hslot : (state.saveTeam 0 0 0).team 0 1 = second := by
    rw [hteam 1 (by decide), State.team, State.core, hcores]
    rfl
  generalize state.saveTeam 0 0 0 = s' at *
  obtain ⟨u', w', free', hsave', hfree', htag', -, hwaiting', -⟩ :=
    State.saveTeam_eq (s := s') (core := 0) (slot := 1) (by rw [hslot]; rfl) 1048576
  obtain ⟨htags', -, -⟩ := u'.putSaved_spec (core := 0) (s'.team 0 1) w' hfree'
  have hctx : (s'.grid second.grid).ctx = 2 := by
    rw [State.grid, hgr]
    exact (hgrids 2).trans rfl
  rw [hsave', htags', hwaiting', htags, hwaiting, htag, htag', hslot, hctx]
  rfl

end ShadowedSlot

/-- Refutes O46: the slot table of a core lists slot 1 twice, a team of another grid before one of the grid that leaves. The
team that the slot shows is saved, under the context of its own grid and not under that of the grid that leaves. -/
theorem not_preemptionAndRestore : ¬ Obligations.PreemptionAndRestore := by
  unfold Obligations.PreemptionAndRestore
  rintro ⟨-, hsave, -⟩
  obtain ⟨-, -, hcohort⟩ := hsave ShadowedSlot.state 0 0 ShadowedSlot.first rfl
  obtain ⟨t, ht, hwaits⟩ := (hcohort (by rw [ShadowedSlot.mates_eq]; decide) (ShadowedSlot.drained (0, 0) (.head _)).2.1
    (by rw [ShadowedSlot.mates_eq]; exact ShadowedSlot.drained)).1 _ (by rw [ShadowedSlot.mates_eq]; exact ShadowedSlot.areasFor_eq)
  have heq := Host.Outcome.next.inj (ht.symm.trans ShadowedSlot.exec_preemptTeam)
  obtain ⟨-, hlive, -⟩ := hwaits (0, 1) 1048576 (by rw [ShadowedSlot.mates_eq]; decide)
  obtain ⟨w, hw, huid, -, hctx⟩ := hlive rfl
  have htag : w.tag ∈ [(1, 1), (2, 2)] := ShadowedSlot.tags_eq ▸ heq ▸ List.mem_map_of_mem hw
  rw [Waiting.tag, huid, hctx] at htag
  exact absurd htag (by decide)

end Sys2Proof.Machine
end

section
/-! SUPPORT. Loads, stores and atomics as they issue (O16). -/

namespace Sys2Proof.Machine

set_option Elab.async false

/-! ## The walks of the exchange die at an issue -/

theorem State.atHome_exportAt (s : State) (who : Charge) (off : Nat) (need : Need) : s.AtHome (s.exportAt who off need).1 := by
  have hread : s.AtHome (if s.mem.isMem (s.descAt s.fabric.expCtx) then
      s.hRead who 0 (s.descAt s.fabric.expCtx) 8 else (s, [])).1 := by
    split
    · exact (s.atH_hRead _ _ _ _).home
    · exact .refl s
  have hwalk := fun (u : State) (root : Nat) =>
    (u.atH_translate who u.fabric.expCtx root (u.fabric.expBase + off) need).home
  have hbody := Eq.refl @State.exportAt
  conv at hbody => rhs; delta State.exportAt
  -- The three functions stand as variables from here on, so that the kernel never unfolds them on a symbolic state.
  obtain ⟨isMem, hisMem⟩ : ∃ f, f = @Mem.isMem := ⟨_, rfl⟩
  obtain ⟨readBytes, hreadBytes⟩ : ∃ f, f = @State.hRead := ⟨_, rfl⟩
  obtain ⟨walk, htranslate⟩ : ∃ f, f = @State.translate := ⟨_, rfl⟩
  rw [← hisMem, ← hreadBytes] at hread
  rw [← htranslate] at hwalk
  rw [← hisMem, ← hreadBytes, ← htranslate] at hbody
  rw [hbody]
  beta_reduce
  extract_lets d
  split
  next u bs h =>
    rw [h] at hread
    extract_lets root
    have hwalk := hwalk u root
    split
    next v x ht => rw [ht] at hwalk; exact hread.trans hwalk
    next => exact hread.trans hwalk

theorem State.atHome_selfWalk (s : State) (w : Who) (a : DWord) (n : Nat) : s.AtHome (s.selfWalk w a n) := by
  unfold State.selfWalk
  split
  · split
    · exact s.atHome_exportAt _ _ _
    · exact .refl s
  · exact .refl s

theorem State.atHome_walked (s : State) (guard : Pred) (flag : FlagSel) (addr : Nat → DWord) :
    s.AtHome (s.walked guard flag addr) :=
  .foldl (by exact fun _ _ => State.atHome_selfWalk _ _ _ _) _ s

theorem State.AtHome.storeData {s t : State} (h : s.AtHome t) (ty : MemTy) (d : Src) (l : Nat) :
    t.storeData ty d l = s.storeData ty d l := (congrArg (fun u : State => u.storeData ty d l) h.rest :)

theorem State.AtHome.atomSrc {s t : State} (h : s.AtHome t) (w : Bool) (k l : Nat) (x : Src) :
    t.atomSrc w k l x = s.atomSrc w k l x := (congrArg (fun u : State => u.atomSrc w k l x) h.rest :)

theorem State.AtHome.issCore {s t : State} (h : s.AtHome t) : t.issCore = s.issCore := (congrArg State.issCore h.rest :)

theorem State.AtHome.issGroup {s t : State} (h : s.AtHome t) : t.issGroup = s.issGroup := (congrArg State.issGroup h.rest :)

theorem State.AtHome.issLanes {s t : State} (h : s.AtHome t) : t.issLanes = s.issLanes := (congrArg State.issLanes h.rest :)

theorem State.AtHome.nextPc {s t : State} (h : s.AtHome t) : t.nextPc = s.nextPc := (congrArg State.nextPc h.rest :)

theorem State.AtHome.acting {s t : State} (h : s.AtHome t) (guard : Pred) (flag : FlagSel) :
    t.acting guard flag = s.acting guard flag := (congrArg (fun u : State => u.acting guard flag) h.rest :)

theorem State.AtHome.issuing {s t : State} (h : s.AtHome t) (hs : s.Issuing) : t.Issuing :=
  ((State.OwnAccess.of_home h).issuing hs).1

/-! ## An operation and its accesses join the queue -/

theorem State.enqueue_updIssGroup (s : State) (items : List Item) (f : Group → Group) :
    (s.updIssGroup f).enqueue items = (s.enqueue items).updIssGroup f :=
  (State.updCore_updCore_same s s.issue.core (·.updTeam s.issue.slot (·.updGroup s.issue.group f))
    (fun k => { k with queue := k.queue ++ items })).trans
    (State.updCore_updCore_same s s.issue.core (fun k => { k with queue := k.queue ++ items })
      (·.updTeam s.issue.slot (·.updGroup s.issue.group f))).symm

theorem State.enqueue_addOp (s : State) (o : Op) (items : List Item) :
    (s.addOp o).enqueue items = (s.enqueue items).addOp o := by
  have hcommute : (s.updIssCore fun k => { k with ops := tblSet k.ops o.id o }).enqueue items =
      (s.enqueue items).updIssCore fun k => { k with ops := tblSet k.ops o.id o } :=
    (State.updCore_updCore_same s s.issue.core (fun k => { k with ops := tblSet k.ops o.id o })
      (fun k => { k with queue := k.queue ++ items })).trans
      (State.updCore_updCore_same s s.issue.core (fun k => { k with queue := k.queue ++ items })
        (fun k => { k with ops := tblSet k.ops o.id o })).symm
  unfold State.addOp
  cases o.flag with
  | none => exact hcommute
  | some f => exact (State.enqueue_updIssGroup _ _ _).trans (congrArg (State.updIssGroup · _) hcommute)

theorem State.issued_enqueue (s : State) (items : List Item) (n : Nat) (ops : Tbl Op) (queue : List Item) (f :
    Nat → Lane → Lane) :
    (s.enqueue items).issued n ops queue f = s.issued n ops queue f :=
  congrArg (fun u : State => u.updIssGroup fun y => y.mapLanes s.issLanes f)
    (State.updCore_updCore_same { s with fresh := n } s.issue.core (fun k => { k with queue := k.queue ++ items })
      fun k => { k with ops := ops, queue := queue })

/-- The operation of an access of the lanes `go`, of the names `main`. -/
def State.accessOp (s : State) (flag : FlagSel) (kind : OpKind) (values : Tbl (List Word)) (go main : List Nat) : Op :=
  { id := s.fresh, uid := s.issGroup.uid, kind := kind, flag := flag, tl := go.any fun l => (s.issLane l).tl,
    lanes := maskOf go, left := main, values := values, ended := 0, pc := s.issue.p }

/-- Lanes that start an access raise its flag, and all the issuing lanes change as given. -/
theorem State.startAccess_mapLanes (s : State) (flag : FlagSel) (kind : OpKind) (values : Tbl (List Word)) {go : List Nat}
    (hne : go ≠ []) (hgo : ∀ l ∈ go,
        l ∈ s.issLanes) (main : List Nat) (items : List Item) (names : Nat) (f : Nat → Lane → Lane) :
    (s.startAccess flag kind values go main items names).updIssGroup (fun y => y.mapLanes s.issLanes f) =
      s.issued (s.fresh + 1 + namesPerAccess * names)
        (tblSet s.issCore.ops s.fresh (s.accessOp flag kind values go main)) (s.issCore.queue ++ items) fun l x =>
          f l (if go.contains l then x.pend flag else x) := by
  have hlt : ∀ l ∈ go, l < 32 := fun l hl => State.issLanes_lt (hgo l hl)
  have hcore : (s.enqueue items).issCore = { s.issCore with queue := s.issCore.queue ++ items } := State.core_updCore_same _ _ _
  have hstart : s.startAccess flag kind values go main items names =
      (State.addOp { s.enqueue items with fresh := s.fresh + 1 + namesPerAccess * names } (s.accessOp flag kind values go
          main)) := by
    refine (if_neg (by rw [List.isEmpty_iff]; exact hne)).trans ?_
    exact State.enqueue_addOp _ _ _
  rw [hstart]
  refine (State.addOp_mapLanes (s.enqueue items) _ (s.accessOp flag kind values go main) (fun l hl => ?_) f).trans ?_
  · exact hgo l (mem_lanesOf_maskOf.1 hl).2
  · rw [State.issued_enqueue, hcore]
    refine congrArg (State.issued s _ _ _) (funext fun l => funext fun x => ?_)
    rw [State.accessOp, lanesOf_maskOf_contains hlt]

/-! ## An access whose lanes all reach their bytes -/

theorem sortLanes_of_ok {p : Nat → Place} {ch vpn : Nat → Nat} {reach : Nat → Reach} {ls : List Nat}
    (h : ∀ l ∈ ls, reach l = .ok (p l) (ch l) (vpn l)) :
    sortLanes (ls.map fun l => (l, reach l)) = ⟨ls.map fun l => (l, p l, ch l, vpn l), [], [], []⟩ := by
  have hmap : ls.map (fun l => (l, reach l)) = ls.map fun l => (l, Reach.ok (p l) (ch l) (vpn l)) :=
    List.map_congr_left fun l hl => by rw [h l hl]
  have hfold : ∀ (ls : List Nat) (a : List (Nat × Place × Nat × Nat)),
      (ls.map fun l => (l, Reach.ok (p l) (ch l) (vpn l))).foldl (fun (a : Lanes) c =>
        match c.2 with
        | .ok p ch v => { a with doing := a.doing ++ [(c.1, p, ch, v)] }
        | .miss ctx vs => { a with parks := a.parks ++ [(c.1, .walk ctx vs)], walks := a.walks ++ vs.map fun v => (ctx, v) }
        | .absent core ls => { a with parks := a.parks ++ [(c.1, .lines core ls)] }
        | .bad code aux => { a with bads := a.bads ++ [(c.1, code, aux)] }) ⟨a, [], [], []⟩ =
      ⟨a ++ ls.map fun l => (l, p l, ch l, vpn l), [], [], []⟩ := fun ls => by
    induction ls with
    | nil => exact fun a => by simp
    | cons l ls ih => exact fun a => (ih _).trans (by simp)
  rw [hmap]
  exact hfold ls []

/-- The lanes, the action and the place of each access among the items of a queue, points left out. -/
def accessesOf (items : List Item) : List (LaneMask × Act × Place) :=
  (items.filter fun i => !i.act.isPoint).map fun i => (i.lanes, i.act, i.place)

/-- An instruction with no issuing lane sends nothing. -/
theorem State.sends_of_no_lanes {s : State} (h : s.issue.lanes = 0) (guard : Pred) (flag : FlagSel) (kind : OpKind) :
    s.Sends s guard flag kind [] := by
  have hnil : s.issLanes = [] := by rw [State.issLanes, h]; decide
  refine ⟨(State.changes_of_no_lanes h fun _ x => x).only.onlyIssue, ⟨[], (List.append_nil _).symm, rfl⟩, ?_, ?_, ?_, ?_⟩
  all_goals simp [State.acting, hnil]

/-- How the issuing lanes move at an access whose acting lanes all reach their bytes. -/
def State.accessLane (s : State) (guard : Pred) (flag : FlagSel) (l : Nat) (x : Lane) : Lane :=
  if (s.acting guard flag).contains l then x.goto s.nextPc
  else if (s.issLane l).pred guard then x.parkFlag flag else x.goto s.nextPc

section
variable {s : State} {guard : Pred} {flag : FlagSel} {addr : Nat → DWord}
  {pre : Nat → Option (Nat × Nat)} {reach : Nat → Reach} {act : State → List (Nat × Place × Nat × Nat) → State}
  {p : Nat → Place} {ch vpn : Nat → Nat}
  (hpre : ∀ l ∈ s.acting guard flag, pre l = none)
  (hreach : ∀ l ∈ s.acting guard flag, reach l = .ok (p l) (ch l) (vpn l))
include hpre hreach

theorem State.access_eq :
    ∃ f : Nat → Lane → Lane, (∀ l ∈ s.issLanes, ∀ x, f l x = s.accessLane guard flag l x) ∧
      s.access guard flag addr pre reach act =
        ((act (s.walked guard flag addr) ((s.acting guard flag).map fun l => (l, p l, ch l, vpn l))).updIssGroup fun g =>
          g.mapLanes s.issLanes f).parkLanes [] := by
  have hsort := sortLanes_of_ok hreach
  have hnone : s.laneFault (mergeBads (s.acting guard flag) pre []) addr = none := by rw [mergeBads_nil hpre]; rfl
  refine ⟨fun l x => if (s.acting guard flag).contains l then
      (if (((s.acting guard flag).map fun l => (l, p l, ch l, vpn l)).map (·.1)).contains l then x.goto s.nextPc else x)
    else if (s.issLanes.filter fun l => (s.issLane l).pred guard).contains l then x.parkFlag flag else x.goto s.nextPc,
    fun l hl x => ?_, ?_⟩
  · have hmap : ((s.acting guard flag).map fun l => (l, p l, ch l, vpn l)).map (·.1) = s.acting guard flag := by
      rw [List.map_map]; exact List.map_id _
    have hon : (s.issLanes.filter fun l => (s.issLane l).pred guard).contains l = (s.issLane l).pred guard := by
      rw [Bool.eq_iff_iff]; simp [hl]
    dsimp only
    rw [hmap, hon, State.accessLane]
    split
    · rfl
    · rfl
  · unfold State.access
    extract_lets on sel r s₁ s₂ s₃
    have hsel : sel = s.acting guard flag := rfl
    rw [hsel, hnone]
    have hr : r = ⟨(s.acting guard flag).map fun l => (l, p l, ch l, vpn l), [], [], []⟩ := hsort
    clear_value r
    subst hr
    rfl

theorem State.access_sends (hs : s.Issuing) {kind : OpKind} {values : Tbl (List Word)} {main : List Nat} {items : List Item}
    {names : Nat} (hempty : s.acting guard flag = [] → items = [])
    (hact : act (s.walked guard flag addr) ((s.acting guard flag).map fun l => (l, p l, ch l, vpn l)) =
      (s.walked guard flag addr).startAccess flag kind values (s.acting guard flag) main items names) :
    (s.walked guard flag addr).Sends (s.access guard flag addr pre reach act) guard flag kind (accessesOf items) := by
  have hhome := s.atHome_walked guard flag addr
  have hw := hhome.issuing hs
  obtain ⟨f, hf, heq⟩ := State.access_eq (addr := addr) (act := act) hpre hreach
  rw [hact, ← hhome.issLanes] at heq
  rw [heq]
  have hlane : ∀ l ∈ (s.walked guard flag addr).issLanes, ∀ x, f l x = (s.walked guard flag addr).accessLane guard flag l x :=
    fun l hl x => (hf l (hhome.issLanes ▸ hl) x).trans (congrArg (fun u : State => u.accessLane guard flag l x) hhome.rest
        :).symm
  rw [← hhome.acting] at hempty ⊢
  generalize s.walked guard flag addr = w at *
  have hsub : ∀ l ∈ w.acting guard flag, l ∈ w.issLanes := fun l hl => (List.mem_filter.1 (List.mem_filter.1 hl).1).1
  have hpred : ∀ l ∈ w.acting guard flag,
      (w.issLane l).pred guard = true := fun l hl => (List.mem_filter.1 (List.mem_filter.1 hl).1).2
  have hfull : ∀ l ∈ w.acting guard flag, (w.issLane l).flagFull flag = false := fun l hl => by
    have h := (List.mem_filter.1 hl).2
    simpa using h
  have hoff : ∀ l, (w.issLane l).pred guard = false → l ∉ w.acting guard flag := fun l h hl => by
    rw [hpred l hl] at h; exact Bool.noConfusion h
  have hstop : ∀ l, (w.issLane l).flagFull flag = true → l ∉ w.acting guard flag := fun l h hl => by
    rw [hfull l hl] at h; exact Bool.noConfusion h
  by_cases hgo : w.acting guard flag = []
  · have hstart : w.startAccess flag kind values [] main [] names = w := rfl
    rw [hempty hgo, hgo, hstart]
    have hch : w.Changes ((w.updIssGroup fun g => g.mapLanes w.issLanes f).parkLanes []) f :=
      State.mapLanes_parkLanes_nil_changes hw f
    refine ⟨hch.only.onlyIssue, ⟨[], (congrArg Core.queue hch.only.only.core :).trans (List.append_nil _).symm, rfl⟩,
      fun l hl h => ?_, fun l hl h h' => ?_, fun l hl => ?_, fun h => absurd hgo h⟩
    · rw [hch.done l hl, hlane l hl, State.accessLane, if_neg (by simp [hgo]), if_neg (by simp [h])]
    · rw [hch.done l hl, hlane l hl, State.accessLane, if_neg (by simp [hgo]), if_pos h]
    · rw [hgo] at hl; exact absurd hl List.not_mem_nil
  · obtain ⟨g, hg, heq⟩ : ∃ g : Nat → Lane → Lane,
        (∀ l ∈ w.issLanes, ∀ x, g l x = f l (if (w.acting guard flag).contains l then x.pend flag else x)) ∧
        ((w.startAccess flag kind values (w.acting guard flag) main items names).updIssGroup fun g =>
          g.mapLanes w.issLanes f).parkLanes [] =
        w.issued (w.fresh + 1 + namesPerAccess * names)
          (tblSet w.issCore.ops w.fresh (w.accessOp flag kind values (w.acting guard flag) main)) (w.issCore.queue ++ items) g
              := by
      rw [State.startAccess_mapLanes w flag kind values hgo hsub]
      refine ⟨_, fun l hl x => ?_, State.updIssGroup_mapLanes_mapLanes (w.queued _ _ _) (fun _ h => h)
        (fun _ h => absurd h List.not_mem_nil) _ _⟩
      have hc : (w.queued (w.fresh + 1 + namesPerAccess * names)
        (tblSet w.issCore.ops w.fresh (w.accessOp flag kind values (w.acting guard flag) main)) (w.issCore.queue ++
            items)).issLanes
          = w.issLanes := rfl
      simp [hc, hl]
    rw [heq]
    have hdone : ∀ l ∈ w.issLanes, w.laneIn (w.issued (w.fresh + 1 + namesPerAccess * names)
          (tblSet w.issCore.ops w.fresh (w.accessOp flag kind values (w.acting guard flag) main)) (w.issCore.queue ++ items) g)
              l =
        w.accessLane guard flag l (if (w.acting guard flag).contains l then (w.issLane l).pend flag else w.issLane l) :=
      fun l hl => by rw [State.laneIn_issued _ _ _ _ hw hl, hg l hl, hlane l hl]
    refine ⟨State.onlyIssue_issued _ _ _ _ hw fun m hm => tblFind_tblSet_ne _ _ hm, ⟨items, State.core_issued_queue .., rfl⟩,
      fun l hl h => ?_, fun l hl h h' => ?_, fun l hl => ?_, fun _ =>
      ⟨w.accessOp flag kind values (w.acting guard flag) main, ?_, rfl, rfl, rfl, rfl⟩⟩
    · have hc : ¬ (w.acting guard flag).contains l = true := fun hc => hoff l h (List.contains_iff_mem.1 hc)
      rw [hdone l hl, State.accessLane, if_neg hc, if_neg hc, if_neg (by simp [h])]
    · have hc : ¬ (w.acting guard flag).contains l = true := fun hc => hstop l h' (List.contains_iff_mem.1 hc)
      rw [hdone l hl, State.accessLane, if_neg hc, if_neg hc, if_pos h]
    · have hc : (w.acting guard flag).contains l = true := List.contains_iff_mem.2 hl
      rw [hdone l (hsub l hl), State.accessLane, if_pos hc, if_pos hc]
    · rw [State.core_issued_ops]
      exact tblFind_tblSet_same _ _ _
end

/-! ## The accesses among the items of an instruction -/

theorem accessesOf_append (xs ys : List Item) : accessesOf (xs ++ ys) = accessesOf xs ++ accessesOf ys := by
  simp [accessesOf]

theorem accessesOf_flatMap {α : Type} (f : α → List Item) (xs : List α) :
    accessesOf (xs.flatMap f) = xs.flatMap fun x => accessesOf (f x) := by
  induction xs with
  | nil => rfl
  | cons x xs ih => rw [List.flatMap_cons, List.flatMap_cons, accessesOf_append, ih]

theorem accessesOf_points {xs : List Item} (h : ∀ i ∈ xs, i.act.isPoint = true) : accessesOf xs = [] := by
  rw [accessesOf, List.filter_eq_nil_iff.2 fun i hi => by simp [h i hi]]
  rfl

/-- Beside the points of its order, an access has the items of its pieces. -/
theorem State.accessesOf_orderedItems (s : State) (id op : Nat) (lanes : LaneMask) {ps : List Piece}
    (hps : ∀ x ∈ ps, x.act.isPoint = false) (addr : DWord) (ch vpn : Nat) (sc : Scope) :
    accessesOf (s.orderedItems id op lanes ps addr ch vpn sc) = ps.map fun x => (lanes, x.act, x.place) := by
  have hpoint : ∀ (ls : List Nat) (f : Nat → Item), (∀ l, (f l).act.isPoint = true) → accessesOf (ls.map f) = [] :=
    fun ls f hf => accessesOf_points fun i hi => by
      obtain ⟨l, -, rfl⟩ := List.mem_map.1 hi
      exact hf l
  unfold State.orderedItems
  extract_lets o pt ls pre post
  clear_value o
  have hpre : accessesOf pre = [] := by
    cases o with
    | relaxed => rfl
    | acq => rfl
    | rel => exact hpoint _ _ fun _ => rfl
    | ar => exact hpoint _ _ fun _ => rfl
    | sc => exact hpoint _ _ fun _ => rfl
  have hpost : accessesOf post = [] := by
    cases o with
    | relaxed => rfl
    | rel => rfl
    | acq => exact hpoint _ _ fun _ => rfl
    | ar => exact hpoint _ _ fun _ => rfl
    | sc => exact hpoint _ _ fun _ => rfl
  rw [accessesOf_append, accessesOf_append, hpre, hpost, List.nil_append, List.append_nil, accessesOf, List.filter_eq_self.2,
    List.map_map]
  · rfl
  · intro i hi
    obtain ⟨x, hx, rfl⟩ := List.mem_map.1 hi
    exact congrArg not (hps x hx)

theorem map_fst_zipIdx {α β : Type} (f : α → β) (xs : List α) : xs.zipIdx.map (fun c => f c.1) = xs.map f := by
  have h := congrArg (List.map f) (List.zipIdx_map_fst 0 xs)
  rw [List.map_map] at h
  exact h

/-- What is read of the parts of an access: their lanes and their places. -/
theorem State.parts_map (s : State) (rs : List (Nat × Place × Nat × Nat)) :
    (s.parts rs).map (fun p => (p.lane, p.place)) = rs.map fun c => (c.1, c.2.1) := by
  rw [State.parts, List.map_map]
  exact map_fst_zipIdx (fun c : Nat × Place × Nat × Nat => (c.1, c.2.1)) rs

theorem State.parts_flatMap {β : Type} (s : State) (rs : List (Nat × Place × Nat × Nat)) (f : Nat → Place → List β) :
    (s.parts rs).flatMap (fun p => f p.lane p.place) = rs.flatMap fun c => f c.1 c.2.1 := by
  have h := congrArg (List.flatMap fun c : Nat × Place => f c.1 c.2) (s.parts_map rs)
  rw [List.flatMap_map, List.flatMap_map] at h
  exact h

theorem halves_isPoint {n : Nat} {a : Act} (h : ∀ k, (a.half k).isPoint = false) (ha : a.isPoint = false) (p : Place) :
    ∀ c ∈ halves n a p, c.1.isPoint = false := by
  unfold halves
  split
  · simp [h]
  · simp [ha]

/-- The accesses of an instruction whose lanes act one by one. -/
theorem State.accessesOf_laneItems (s : State) (rs : List (Nat × Place × Nat × Nat)) (n : Nat) (addr : Nat → DWord) (sc : Scope)
    (order : Bool) {act : Nat → Act} (h : ∀ l k, ((act l).half k).isPoint = false) (hact : ∀ l, (act l).isPoint = false) :
    accessesOf (s.laneItems (s.parts rs) n addr sc order act) =
      rs.flatMap fun c => (halves n (act c.1) c.2.1).map fun x => ((1 : BitVec 32) <<< c.1, x.1, x.2) := by
  refine Eq.trans ?_ (s.parts_flatMap rs fun l p => (halves n (act l) p).map fun x => ((1 : BitVec 32) <<< l, x.1, x.2))
  unfold State.laneItems
  rw [accessesOf_flatMap]
  refine congrArg (List.flatMap · (s.parts rs)) (funext fun p => ?_)
  extract_lets low pieces
  rw [State.accessesOf_orderedItems]
  · unfold pieces
    rw [List.map_map]
    exact map_fst_zipIdx (fun x : Act × Place => ((1 : BitVec 32) <<< p.lane, x.1, x.2)) _
  · intro x hx
    obtain ⟨c, hc, rfl⟩ := List.mem_map.1 hx
    exact halves_isPoint (h p.lane) (hact p.lane) p.place c.1 ((List.zipIdx_map_fst 0 _) ▸ List.mem_map_of_mem (f := Prod.fst)
        hc)

/-! ## The requests of a faa -/

theorem byAddress_ne_nil (addr : Nat → DWord) (rs : List (Nat × Place × Nat × Nat)) : ∀ g ∈ byAddress addr rs, g ≠ [] := by
  induction rs with
  | nil => exact fun g hg => absurd hg List.not_mem_nil
  | cons c rs ih =>
    intro g hg
    rcases List.mem_cons.1 hg with rfl | hg
    · exact List.cons_ne_nil _ _
    · exact ih g (List.mem_filter.1 hg).1

theorem filterMap_head?_eq {β γ : Type} {f : β → γ} (d : γ) {gs : List (List β)} (h : ∀ g ∈ gs, g ≠ []) :
    (gs.filterMap (·.head?)).map f = gs.map fun g => (g.head?.map f).getD d := by
  induction gs with
  | nil => rfl
  | cons g gs ih =>
    obtain ⟨x, xs, rfl⟩ := List.exists_cons_of_ne_nil (h g (.head _))
    exact congrArg (f x :: ·) (ih fun g hg => h g (.tail _ hg))

/-- Each group of lanes with its part of the access, as a group with its place. -/
theorem State.zip_parts (s : State) {gs : List (List (Nat × Place × Nat × Nat))} (h : ∀ g ∈ gs, g ≠ []) :
    (gs.zip (s.parts (gs.filterMap (·.head?)))).map (fun c => (c.1, c.2.place)) =
      gs.map fun g => (g, (g.head?.map (·.2.1)).getD (.dev 0)) := by
  have hplaces : (s.parts (gs.filterMap (·.head?))).map (·.place) = gs.map fun g => (g.head?.map (·.2.1)).getD (.dev 0) := by
    have hparts := congrArg (List.map Prod.snd) (s.parts_map (gs.filterMap (·.head?)))
    rw [List.map_map, List.map_map] at hparts
    exact hparts.trans (filterMap_head?_eq _ h)
  have hzip := List.zip_map_right (f := Part.place) (l₁ := gs) (l₂ := s.parts (gs.filterMap (·.head?)))
  rw [hplaces] at hzip
  exact hzip.symm.trans List.map_prod_left_eq_zip.symm

theorem foldl_add_eq_sum (f : Nat → DWord) (ls : List Nat) : ls.foldl (fun a l => a + f l) 0 = (ls.map f).sum := by
  rw [List.sum_eq_foldl, List.foldl_map]

/-! ## The instructions -/

theorem State.parts_lanes (s : State) {p : Nat → Place} {ch vpn : Nat → Nat} (ls : List Nat) :
    (s.parts (ls.map fun l => (l, p l, ch l, vpn l))).map (·.lane) = ls := by
  have hparts := congrArg (List.map Prod.fst) (s.parts_map (ls.map fun l => (l, p l, ch l, vpn l)))
  rw [List.map_map, List.map_map, List.map_map] at hparts
  exact hparts.trans (List.map_id _)

/-- An access of lanes that act one by one, each on n bytes. -/
def State.laneAccess (s : State) (guard : Pred) (flag : FlagSel) (kind : OpKind) (addr : Nat → DWord)
    (pre : Nat → Option (Nat × Nat)) (reach : Nat → Reach) (n : Nat) (main : List Part → List Nat) (sc : Scope) (order : Bool)
    (act : State → Nat → Act) : State :=
  s.access guard flag addr pre reach fun s rs =>
    let ps := s.parts rs
    s.startAccess flag kind [] (ps.map (·.lane)) (main ps) (s.laneItems ps n addr (s.scopeSel sc) order (act s)) ps.length

theorem exec_ld (f : MForm) (s : State) :
    exec (.ld f) s =
      let n := memSize f.ty
      let addr := s.memAddr f.addr (s.off33 f.off) n
      .next (s.orFault [s.operands [s.regsOk (memRegs f.ty) f.dst.toNat, s.srcOk 2 f.addr]]
        (s.laneAccess f.guard f.flag (.load f.ty f.dst.toNat) addr (fun l => s.preCheck (s.whoIs l) f.sp n n (addr l))
          (fun l => s.reach (s.whoIs l) (addr l) n .load) n (fun ps => ps.flatMap (·.names n)) f.scope false
          fun _ _ => .load n)) := rfl

theorem exec_st (f : MForm) (s : State) :
    exec (.st f) s =
      let n := memSize f.ty
      let addr := s.memAddr f.addr (s.off33 f.off) n
      .next (s.orFault [s.operands [s.dataOk f.ty f.srcd, s.srcOk 2 f.addr]]
        (s.laneAccess f.guard f.flag .store addr (fun l => s.preCheck (s.whoIs l) f.sp n n (addr l))
          (fun l => s.reach (s.whoIs l) (addr l) n .store) n (fun ps => ps.flatMap (·.names n)) f.scope true
          fun s l => .store (s.storeData f.ty f.srcd l))) := rfl

theorem State.laneAtomic_eq (s : State) (f : AForm) (w hostOk : Bool) (srcs : List Src) (act : Nat → Act) :
    s.laneAtomic f w hostOk srcs act =
      let n := if w then 8 else 4
      let addr := s.memAddr f.addr (s.off46 f.off) n
      s.orFault [s.operands (s.regsOk (wRegs w) f.dst.toNat :: s.srcOk 2 f.addr :: srcs.map (s.srcOk (wRegs w)))]
        (s.laneAccess f.guard f.flag (.atomic f.dst.toNat w f.gd) addr (s.atomicPre n hostOk addr)
          (fun l => s.reach (s.whoIs l) (addr l) n .atomic) n (fun ps => ps.map (·.base)) f.scope true fun _ => act) := rfl

/-- The requests of a faa, one of each group of lanes. -/
def State.faaItems (s : State) (f : AForm) (w : Bool) (addr : Nat → DWord) (add : Nat → DWord)
    (gs : List (List (Nat × Place × Nat × Nat))) : List Item :=
  (gs.zip (s.parts (gs.filterMap (·.head?)))).flatMap fun c =>
    s.orderedItems c.2.base s.fresh (maskOf (c.1.map (·.1)))
      [⟨c.2.base, .faa w ((c.1.map (·.1)).foldl (fun a l => a + add l) (0 : DWord)), c.2.place,
          []⟩] (addr c.2.lane) c.2.ch c.2.vpn
      (s.scopeSel f.scope)

/-- A faa starts, with its lanes' addends. -/
def State.startFaa (f : AForm) (w : Bool) (addr add : Nat → DWord) (s : State) (rs : List (Nat × Place × Nat × Nat)) : State :=
  let ps := s.parts ((byAddress addr rs).filterMap (·.head?))
  s.startAccess f.flag (.atomic f.dst.toNat w f.gd) (rs.map fun c => (addendKey c.1, [lowWord (add c.1), highWord (add c.1)]))
    (rs.map (·.1)) (ps.map (·.base)) (s.faaItems f w addr add (byAddress addr rs)) ps.length

theorem exec_faa (f : AForm) (ty : AtTy) (s : State) :
    exec (.faa f ty) s =
      let w := atWide ty
      let n := if w then 8 else 4
      let addr := s.memAddr f.addr (s.off46 f.off) n
      .next (s.orFault [s.operands [s.regsOk (wRegs w) f.dst.toNat, s.srcOk 2 f.addr, s.srcOk (wRegs w) f.srcd]]
        (s.access f.guard f.flag addr (s.atomicPre n true addr) (fun l => s.reach (s.whoIs l) (addr l) n .atomic)
          (State.startFaa f w addr fun l => s.atomSrc w 1 l f.srcd))) := rfl

theorem State.accessesOf_faaItems (s : State) (f : AForm) (w : Bool) (addr add : Nat → DWord)
    {gs : List (List (Nat × Place × Nat × Nat))} (h : ∀ g ∈ gs, g ≠ []) :
    accessesOf (s.faaItems f w addr add gs) = gs.map fun g =>
      (maskOf (g.map (·.1)), .faa w ((g.map fun c => add c.1).sum), (g.head?.map (·.2.1)).getD (.dev 0)) := by
  have hzip := congrArg (List.map fun c : List (Nat × Place × Nat × Nat) × Place =>
    ((maskOf (c.1.map (·.1)), Act.faa w ((c.1.map fun c => add c.1).sum), c.2) : LaneMask × Act × Place)) (s.zip_parts h)
  rw [List.map_map, List.map_map] at hzip
  refine Eq.trans ?_ hzip
  rw [State.faaItems, accessesOf_flatMap, List.map_eq_flatMap]
  refine congrArg (List.flatMap · _) (funext fun c => ?_)
  rw [State.accessesOf_orderedItems _ _ _ _ (by simp [Act.isPoint]), foldl_add_eq_sum, List.map_map]
  rfl

section
variable {s : State} {guard : Pred} {flag : FlagSel} {addr : Nat → DWord} {pre : Nat → Option (Nat × Nat)} {reach : Nat → Reach}
  {p : Nat → Place} {ch vpn : Nat → Nat} (hs : s.Issuing) (hpre : ∀ l ∈ s.acting guard flag, pre l = none)
  (hreach : ∀ l ∈ s.acting guard flag, reach l = .ok (p l) (ch l) (vpn l))
include hs hpre hreach

/-- An instruction whose lanes act one by one. -/
theorem State.access_sends_lanes (kind : OpKind) (n : Nat) (main : List Part → List Nat) (sc : Scope) (order : Bool)
    {act : State → Nat → Act} {acts : Nat → Act} (hacts : ∀ u l, s.AtHome u → act u l = acts l)
    (hhalf : ∀ l k, ((acts l).half k).isPoint = false) (hpoint : ∀ l, (acts l).isPoint = false) :
    (s.walked guard flag addr).Sends (s.laneAccess guard flag kind addr pre reach n main sc order act) guard flag kind
      ((s.acting guard flag).flatMap fun l => (halves n (acts l) (p l)).map fun c => ((1 : BitVec 32) <<< l, c.1, c.2)) := by
  have hact : act (s.walked guard flag addr) = acts := funext fun l => hacts _ l (s.atHome_walked guard flag addr)
  have hsends := State.access_sends (addr := addr) (kind := kind) (values := []) (names := (s.acting guard flag).length)
    (main := main ((s.walked guard flag addr).parts ((s.acting guard flag).map fun l => (l, p l, ch l, vpn l))))
    (items := (s.walked guard flag addr).laneItems
      ((s.walked guard flag addr).parts ((s.acting guard flag).map fun l => (l, p l, ch l, vpn l))) n addr
      ((s.walked guard flag addr).scopeSel sc) order acts) (act := fun s rs =>
        let ps := s.parts rs
        s.startAccess flag kind [] (ps.map (·.lane)) (main ps) (s.laneItems ps n addr (s.scopeSel sc) order (act s)) ps.length)
    hpre hreach hs (fun h => by rw [h]; rfl) (by
      dsimp only
      rw [State.parts_lanes, hact]
      congr 1
      rw [State.parts, List.length_map, List.length_zipIdx, List.length_map])
  rw [State.accessesOf_laneItems _ _ _ _ _ _ hhalf hpoint, List.flatMap_map] at hsends
  exact hsends

theorem State.access_sends_faa (f : AForm) (w : Bool) (add : Nat → DWord) (hguard : guard = f.guard) (hflag : flag = f.flag) :
    (s.walked guard flag addr).Sends (s.access guard flag addr pre reach (State.startFaa f w addr add)) guard flag
      (.atomic f.dst.toNat w f.gd) ((byAddress addr ((s.acting guard flag).map fun l => (l, p l, ch l, vpn l))).map fun g =>
        (maskOf (g.map (·.1)), .faa w ((g.map fun c => add c.1).sum), (g.head?.map (·.2.1)).getD (.dev 0))) := by
  subst hguard hflag
  have hlanes : ((s.acting f.guard f.flag).map fun l => (l, p l, ch l, vpn l)).map (·.1) = s.acting f.guard f.flag := by
    rw [List.map_map]; exact List.map_id _
  rw [← State.accessesOf_faaItems (s.walked f.guard f.flag addr) f w addr add (byAddress_ne_nil _ _)]
  have hstart := Eq.refl (State.startFaa f w addr add (s.walked f.guard f.flag addr)
    ((s.acting f.guard f.flag).map fun l => (l, p l, ch l, vpn l)))
  rw (occs := .pos [2]) [State.startFaa] at hstart
  rw [hlanes] at hstart
  exact State.access_sends hpre hreach hs (fun h => by rw [h]; rfl) hstart

end

/-- The walks of an instruction with no issuing lane. -/
theorem State.walked_of_no_lanes {s : State} (h : s.issue.lanes = 0) (guard : Pred) (flag : FlagSel) (addr : Nat → DWord) :
    s.acting guard flag = [] ∧ s.walked guard flag addr = s := by
  have hnil : s.issLanes = [] := by rw [State.issLanes, h]; decide
  have hact : s.acting guard flag = [] := by rw [State.acting, hnil]; rfl
  exact ⟨hact, by rw [State.walked, hact]; rfl⟩

/-- Where the operands pass, and in the case of no issuing lane as well, an instruction that sends its accesses sends them. -/
theorem State.orFault_sends {s : State} {guard : Pred} {flag : FlagSel} {addr : Nat → DWord} {kind : OpKind} {t : State}
    {cs : List (Option FaultInfo)} (hc : firstFault cs = none) {accesses : List (LaneMask × Act × Place)}
    (hnil : s.acting guard flag = [] → accesses = []) (h : (s.walked guard flag addr).Sends t guard flag kind accesses) :
    (s.walked guard flag addr).Sends (s.orFault cs t) guard flag kind accesses := by
  by_cases hz : s.issue.lanes = 0
  · obtain ⟨hact, hwalk⟩ := State.walked_of_no_lanes hz guard flag addr
    rw [hwalk, hnil hact, State.orFault, if_pos hz]
    exact State.sends_of_no_lanes hz guard flag kind
  · rw [State.orFault_pass hz hc]
    exact h

theorem State.firstFault_operands {s : State} {oks : List Bool} (h : ∀ b ∈ oks, b = true) :
    firstFault [s.operands oks] = none := by
  have hall : oks.all id = true := List.all_eq_true.2 h
  rw [State.operands, hall]
  rfl

/-- Settles O16: the acting lanes of a load, a store or an atomic queue their accesses, and raise its flag. -/
theorem memoryInstructionsIssue : Obligations.MemoryInstructionsIssue := by
  unfold Obligations.MemoryInstructionsIssue
  refine ⟨fun s f p ch vpn hs haddr => ?_, fun s f op aty ty p ch vpn hs haddr => ?_⟩
  · intro n ea hpre
    refine ⟨fun hdst hreach => ⟨_, exec_ld f s, ?_⟩, fun hdata hreach => ⟨_, exec_st f s, ?_⟩⟩
    · exact State.orFault_sends (State.firstFault_operands (by simp [hdst, haddr])) (fun h => by rw [h]; rfl)
        (State.access_sends_lanes hs hpre hreach _ _ _ _ _ (fun _ _ _ => rfl) (fun _ _ => rfl) fun _ => rfl)
    · exact State.orFault_sends (State.firstFault_operands (by simp [hdata, haddr])) (fun h => by rw [h]; rfl)
        (State.access_sends_lanes hs hpre hreach _ _ _ _ _ (fun u l h => congrArg Act.store (h.storeData _ _ _))
          (fun _ _ => rfl) fun _ => rfl)
  · intro w n ea ok
    have hn : ∀ w : Bool, n w ≠ 16 := fun w => by cases w <;> decide
    have hatomic : ∀ (w hostOk : Bool) (srcs : List Src) (act : Nat → Act), (∀ l k, ((act l).half k).isPoint = false) →
        (∀ l, (act l).isPoint = false) → s.regsOk (wRegs w) f.dst.toNat = true → (∀ x ∈ srcs, s.srcOk (wRegs w) x = true) →
        ok w hostOk → (s.walked f.guard f.flag (ea w)).Sends (s.laneAtomic f w hostOk srcs act) f.guard f.flag
          (.atomic f.dst.toNat w f.gd) ((s.acting f.guard f.flag).map fun l => ((1 : BitVec 32) <<< l, act l, p l)) := by
      intro w hostOk srcs act hhalf hpoint hdst hsrcs hok
      rw [State.laneAtomic_eq]
      refine State.orFault_sends (State.firstFault_operands ?_) (fun h => by rw [h]; rfl) ?_
      · simpa [hdst, haddr] using hsrcs
      · have hsends := State.access_sends_lanes (addr := ea w) hs (fun l hl => (hok l hl).1) (fun l hl => (hok l hl).2)
          (.atomic f.dst.toNat w f.gd) (n w) (fun ps => ps.map (·.base)) f.scope true (act := fun _ => act) (acts := act)
          (fun _ _ _ => rfl) hhalf hpoint
        have hhalves : ∀ l, halves (n w) (act l) (p l) = [(act l, p l)] := fun l => if_neg (hn w)
        rw [List.map_eq_flatMap]
        simp only [hhalves, List.map_singleton] at hsends
        exact hsends
    refine ⟨fun hdst hsrc hok => ⟨_, rfl, ?_⟩, fun hdst hd he hok => ⟨_, rfl, ?_⟩, fun hdst hd hok => ⟨_, exec_faa f ty s, ?_⟩⟩
    · exact hatomic _ _ [f.srcd] _ (fun _ _ => rfl) (fun _ => rfl) hdst (by simp [hsrc]) hok
    · exact hatomic _ _ [f.srcd, f.srce] _ (fun _ _ => rfl) (fun _ => rfl) hdst (by simp [hd, he]) hok
    · refine State.orFault_sends (State.firstFault_operands (by simp [w] at hdst hd ⊢; simp [hdst, haddr,
        hd])) (fun h => by rw [h]; rfl) ?_
      exact State.access_sends_faa hs (fun l hl => (hok l hl).1) (fun l hl => (hok l hl).2) f w _ rfl rfl

end Sys2Proof.Machine
end

section
/-! SUPPORT. The faults of operands and addresses (O17), and the completion of operations (O19). -/

namespace Sys2Proof.Machine

set_option Elab.async false

/-! ## What a fault leaves of the queue -/

theorem State.queue_raise {s : State} {f : FaultInfo} (hrun : s.issCore.flt.stopped = false) (h : s.Plain f) :
    ((s.raise f).core s.issue.core).queue = s.issCore.queue := by
  rw [State.raise_eq hrun h, State.core_msi, State.core_updCore_same]
  rfl

theorem State.queue_raiseOwn {s : State} (hrun : s.issCore.flt.stopped = false) {f : FaultInfo} (h : s.Plain f)
    (addrs : List (Nat × DWord)) (bads : List (Nat × Nat × Nat)) :
    ((s.raiseOwn addrs bads f).core s.issue.core).queue = s.issCore.queue := by
  obtain ⟨n, vs, hraise⟩ : ∃ n vs, s.raiseOwn addrs bads f = ((s.countRefused 0 n).dropWalkFaults s.issue.core vs).raise f :=
    ⟨_, _, rfl⟩
  have hgroup : ∀ c n' g, ((s.countRefused 0 n).dropWalkFaults s.issue.core vs).group c n' g = s.group c n' g := fun c n' g =>
    State.group_updCore_of_teams _ (by exact fun _ => rfl) c n' g
  have hcore : ((s.countRefused 0 n).dropWalkFaults s.issue.core vs).core s.issue.core = _ := State.core_updCore_same _ _ _
  rw [hraise]
  refine (State.queue_raise ((congrArg (·.flt.stopped) hcore :).trans hrun) ⟨h.precise, h.code, fun l hl => ?_⟩).trans
    (congrArg Core.queue hcore :)
  exact (congrArg (fun y => (Group.lane y l).tl) (hgroup _ _ _)).trans (h.lanes l hl)

/-! ## An access whose acting lanes all meet a fault -/

/-- The core has stopped on a fault of the acting lanes, which stay, and nothing is queued. -/
structure State.Refuses (s t : State) (guard : Pred) (flag : FlagSel) (code : Nat) : Prop where
  stopped : t.StoppedOn s.issue.core code (maskOf (s.acting guard flag)) s.issue.p
  queue   : (t.core s.issue.core).queue = s.issCore.queue
  lanes   : ∀ l ∈ s.acting guard flag, s.laneIn t l = s.issLane l

theorem sortLanes_of_bad {code : Nat} {aux : Nat → Nat} {reach : Nat → Reach} {ls : List Nat}
    (h : ∀ l ∈ ls, reach l = .bad code (aux l)) :
    sortLanes (ls.map fun l => (l, reach l)) = ⟨[], [], ls.map fun l => (l, code, aux l), []⟩ := by
  have hmap : ls.map (fun l => (l, reach l)) = ls.map fun l => (l, Reach.bad code (aux l)) :=
    List.map_congr_left fun l hl => by rw [h l hl]
  have hfold : ∀ (ls : List Nat) (b : List (Nat × Nat × Nat)),
      (ls.map fun l => (l, Reach.bad code (aux l))).foldl (fun (a : Lanes) c =>
        match c.2 with
        | .ok p ch v => { a with doing := a.doing ++ [(c.1, p, ch, v)] }
        | .miss ctx vs => { a with parks := a.parks ++ [(c.1, .walk ctx vs)], walks := a.walks ++ vs.map fun v => (ctx, v) }
        | .absent core ls => { a with parks := a.parks ++ [(c.1, .lines core ls)] }
        | .bad code aux => { a with bads := a.bads ++ [(c.1, code, aux)] }) ⟨[], [], b, []⟩ =
      ⟨[], [], b ++ ls.map fun l => (l, code, aux l), []⟩ := fun ls => by
    induction ls with
    | nil => exact fun b => by simp
    | cons l ls ih => exact fun b => (ih _).trans (by simp)
  rw [hmap]
  exact hfold ls []

section
variable {s : State} {guard : Pred} {flag : FlagSel} {addr : Nat → DWord} {pre : Nat → Option (Nat × Nat)} {reach : Nat → Reach}
  {act : State → List (Nat × Place × Nat × Nat) → State} {code : Nat} (hrun : s.issCore.flt.stopped = false)
  (htl : ∀ l ∈ s.issLanes,
      (s.issLane l).tl = false) (hne : s.acting guard flag ≠ []) (hprecise : Machine.imprecise code = false)
  (hdouble : code ≠ 0x0F)
include hrun htl hne hprecise hdouble

theorem State.access_refuses_pre {x : Nat} (hpre : ∀ l ∈ s.acting guard flag, pre l = some (code, x)) :
    s.Refuses (s.access guard flag addr pre reach act) guard flag code := by
  have hbads := mergeBads_of_all hpre []
  obtain ⟨f, hf, hcode, hlanes, hpc⟩ := s.laneFault_map_const hne code (fun _ => x) addr
  have hplain : s.Plain f := State.plain_of_issLanes (hcode ▸ hprecise) (hcode ▸ hdouble) hlanes
    (fun l hl => (List.mem_filter.1 (List.mem_filter.1 hl).1).1) htl
  have heq : s.access guard flag addr pre reach act = s.raise f := by
    unfold State.access
    extract_lets on sel
    have hsel : sel = s.acting guard flag := rfl
    rw [hsel, hbads, hf]
  rw [heq]
  exact ⟨hcode ▸ hlanes ▸ hpc ▸ State.raise_stoppedOn hrun hplain, State.queue_raise hrun hplain,
    fun l _ => congrArg (Group.lane · l) (State.group_raise hrun hplain _ _ _)⟩

theorem State.access_refuses_reach (hs : s.Issuing) (hact : ∀ u, act u [] = u) {aux : Nat → Nat}
    (hpre : ∀ l ∈ s.acting guard flag, pre l = none) (hreach : ∀ l ∈ s.acting guard flag, reach l = .bad code (aux l)) :
    s.Refuses (s.access guard flag addr pre reach act) guard flag code := by
  have hnone : s.laneFault (mergeBads (s.acting guard flag) pre []) addr = none := by rw [mergeBads_nil hpre]; rfl
  obtain ⟨f, hf, hcode, hlanes, hpc⟩ := s.laneFault_map_const hne code aux addr
  have hhome := s.atHome_walked guard flag addr
  have hw := hhome.issuing hs
  have hsub : ∀ l ∈ s.acting guard flag, l ∈ s.issLanes := fun l hl => (List.mem_filter.1 (List.mem_filter.1 hl).1).1
  obtain ⟨g, hg, heq⟩ : ∃ g : Nat → Lane → Lane, (∀ l ∈ s.acting guard flag, ∀ x, g l x = x) ∧
      s.access guard flag addr pre reach act =
        ((((s.walked guard flag addr).updIssGroup fun y => y.mapLanes s.issLanes g).parkLanes []).raiseOwn
          ((s.acting guard flag).map fun l => (l, addr l)) ((s.acting guard flag).map fun l => (l, code, aux l)) f) := by
    refine ⟨fun l x => if (s.acting guard flag).contains l then (if (([] : List (Nat × Place × Nat × Nat)).map (·.1)).contains l
      then x.goto s.nextPc else x)
      else if (s.issLanes.filter fun l => (s.issLane l).pred guard).contains l then x.parkFlag flag else x.goto s.nextPc,
      fun l hl x => (if_pos (List.contains_iff_mem.2 hl)).trans rfl, ?_⟩
    unfold State.access
    extract_lets on sel r s₁ s₂ s₃
    have hsel : sel = s.acting guard flag := rfl
    have hr : r = ⟨[], [], (s.acting guard flag).map fun l => (l, code, aux l), []⟩ := sortLanes_of_bad hreach
    have hs₁ : s₁ = s.walked guard flag addr := by rw [← hact (s.walked guard flag addr)]; unfold s₁; rw [hr]; rfl
    clear_value r
    subst hr
    clear_value s₁
    subst hs₁
    rw [hsel, hnone]
    dsimp -zeta only
    rw [hf]
    rfl
  rw [heq, ← hhome.issLanes]
  have hlane : ∀ l, (s.walked guard flag addr).issLane l = s.issLane l := fun l =>
    (congrArg (fun u : State => u.issLane l) hhome.rest :)
  have hcore := hhome.issCore
  have hissue := hhome.issue
  have hiss : ∀ l ∈ s.acting guard flag, l ∈ (s.walked guard flag addr).issLanes := fun l hl => hhome.issLanes ▸ hsub l hl
  generalize s.walked guard flag addr = w at *
  have hch : w.Changes ((w.updIssGroup fun y => y.mapLanes w.issLanes g).parkLanes []) g :=
    State.mapLanes_parkLanes_nil_changes hw g
  generalize (w.updIssGroup fun y => y.mapLanes w.issLanes g).parkLanes [] = u at *
  have huissue : u.issue = w.issue := (congrArg State.issue hch.only.only.out.rest :)
  have hucore : { u.issCore with teams := w.issCore.teams } = w.issCore := by
    rw [State.issCore, huissue]
    exact hch.only.only.core
  have hulane : ∀ l ∈ s.acting guard flag, u.issLane l = s.issLane l := fun l hl =>
    (State.laneIn_of_issue huissue l).symm.trans ((hch.done l (hiss l hl)).trans ((hg l hl _).trans (hlane l)))
  have hurun : u.issCore.flt.stopped = false :=
    (congrArg (fun k : Core => k.flt.stopped) hucore :).trans ((congrArg (fun k : Core => k.flt.stopped) hcore).trans hrun)
  have hplain : u.Plain f := ⟨hcode ▸ hprecise, hcode ▸ hdouble, fun l hl => by
    have hl := (mem_lanesOf_maskOf.1 (hlanes ▸ hl)).2
    rw [hulane l hl]
    exact htl l (hsub l hl)⟩
  obtain ⟨hstop, hstay⟩ := State.raiseOwn_stops hurun hplain ((s.acting guard flag).map fun l => (l, addr l))
    ((s.acting guard flag).map fun l => (l, code, aux l))
  have hqueue := State.queue_raiseOwn hurun hplain ((s.acting guard flag).map fun l => (l, addr l))
    ((s.acting guard flag).map fun l => (l, code, aux l))
  have hsissue : u.issue = s.issue := huissue.trans hissue
  refine ⟨?_, ?_, fun l hl => ?_⟩
  · rw [hsissue, hcode, hlanes, hpc] at hstop
    exact hstop
  · rw [← hsissue, hqueue]
    exact (congrArg Core.queue hucore :).trans (congrArg Core.queue hcore)
  · rw [← hulane l hl, ← hstay l, State.laneIn, State.laneIn, hsissue]

end

/-! ## The faults of a load and a store -/

theorem State.preCheck_misaligned {s : State} {w : Who} {sp : Space} {n : Nat} {a : DWord} (htag : tagOk sp a = true)
    (hmbz : mbzOk a = true) (hal : a.toNat % n ≠ 0) : s.preCheck w sp n n a = some (0x07, 0) := by
  rw [State.preCheck, htag, hmbz]
  simp [hal]

/-- A destination that is not aligned to its registers, or past the budget, stops the core. -/
theorem State.orFault_regForm_stops {s : State} (hrun : s.issCore.flt.stopped = false) (hz : s.issue.lanes ≠ 0)
    (htl : ∀ l ∈ s.issLanes, (s.issLane l).tl = false) {n : Nat} {dst : BitVec 10}
    (hbad : dst.toNat % n ≠ 0 ∨ s.issGroup.units * 64 < dst.toNat + n) (srcs : List (Nat × Src)) (k : State) :
    (s.orFault [s.regForm n dst srcs] k).StoppedOn s.issue.core 0x05 s.issue.lanes s.issue.p ∧
      ∀ l, s.laneIn (s.orFault [s.regForm n dst srcs] k) l = s.issLane l := by
  have hregs : s.regsOk n dst.toNat = false := by
    rw [State.regsOk, Bool.and_eq_false_iff, beq_eq_false_iff_ne, decide_eq_false_iff_not, not_le]
    exact hbad
  have hform : s.regForm n dst srcs = some (s.ownFault 0x05) := by
    rw [State.regForm, State.operands, hregs]
    rfl
  exact State.orFault_stops hrun hz (f := s.ownFault 0x05) (by rw [hform]; rfl)
    (State.plain_of_issLanes (ls := s.issLanes) rfl (show 0x05 ≠ 0x0F by decide) s.maskOf_issLanes.symm (fun _ h => h) htl) k

/-- Settles O17: where every acting lane meets one fault the access raises it, and so do registers outside the budget. -/
theorem operandAndAddressFaults : Obligations.OperandAndAddressFaults := by
  unfold Obligations.OperandAndAddressFaults
  refine ⟨fun s f code aux hs hrun haddr hne htl => ?_, fun s f hs hrun hz htl hbad => ?_⟩
  · intro n ea stops
    have hz : s.issue.lanes ≠ 0 := fun h => hne (State.walked_of_no_lanes h f.guard f.flag ea).1
    have hstops : ∀ t code, s.Refuses t f.guard f.flag code → stops t code := fun t code h => ⟨h.stopped, h.queue, h.lanes⟩
    have hkinds : code ≠ 0x0B ∧ code ≠ 0x0D ∧ code ≠ 0x0F ∧ code ≠ 0x10 → imprecise code = false ∧ code ≠ 0x0F :=
      fun ⟨h1, h2, h3, h4⟩ => ⟨by simp [imprecise, h1, h2, h4], h3⟩
    simp only [List.forall_mem_cons]
    refine ⟨fun hdst => ⟨fun hal => ⟨_, exec_ld f s, hstops _ _ ?_⟩, fun hbad hcode => ⟨_, exec_ld f s, hstops _ _ ?_⟩⟩,
      fun hdata => ⟨fun hal => ⟨_, exec_st f s, hstops _ _ ?_⟩, fun hbad hcode => ⟨_, exec_st f s, hstops _ _ ?_⟩⟩,
      List.forall_mem_nil _⟩
    · rw [State.orFault_pass hz (State.firstFault_operands (by simp [hdst, haddr]))]
      exact State.access_refuses_pre hrun htl hne (by decide) (by decide)
        fun l hl => State.preCheck_misaligned (hal l hl).1 (hal l hl).2.1 (hal l hl).2.2
    · rw [State.orFault_pass hz (State.firstFault_operands (by simp [hdst, haddr]))]
      exact State.access_refuses_reach hrun htl hne (hkinds hcode).1 (hkinds hcode).2 hs (fun _ => rfl)
        (fun l hl => (hbad l hl).1) fun l hl => (hbad l hl).2
    · rw [State.orFault_pass hz (State.firstFault_operands (by simp [hdata, haddr]))]
      exact State.access_refuses_pre hrun htl hne (by decide) (by decide)
        fun l hl => State.preCheck_misaligned (hal l hl).1 (hal l hl).2.1 (hal l hl).2.2
    · rw [State.orFault_pass hz (State.firstFault_operands (by simp [hdata, haddr]))]
      exact State.access_refuses_reach hrun htl hne (hkinds hcode).1 (hkinds hcode).2 hs (fun _ => rfl)
        (fun l hl => (hbad l hl).1) fun l hl => (hbad l hl).2
  · have hbin : ∀ op, (s.intBin f op).StoppedOn s.issue.core 0x05 s.issue.lanes s.issue.p ∧ ∀ l,
      s.laneIn (s.intBin f op) l = s.issLane l :=
      fun op => State.orFault_regForm_stops hrun hz htl hbad _ _
    have hshift : ∀ op, (s.intShift f op).StoppedOn s.issue.core 0x05 s.issue.lanes s.issue.p ∧
        ∀ l, s.laneIn (s.intShift f op) l = s.issLane l := fun op => State.orFault_regForm_stops hrun hz htl hbad _ _
    simp only [List.forall_mem_cons]
    exact ⟨⟨_, rfl, hbin _⟩, ⟨_, rfl, hbin _⟩, ⟨_, rfl, hbin _⟩, ⟨_, rfl, hbin _⟩, ⟨_, rfl, hbin _⟩, ⟨_, rfl, hbin _⟩, ⟨_, rfl,
        hbin _⟩,
      ⟨_, rfl, hbin _⟩, ⟨_, rfl, hbin _⟩, ⟨_, rfl, hbin _⟩, ⟨_, rfl, hbin _⟩, ⟨_, rfl, hshift _⟩, ⟨_, rfl, hshift _⟩,
      ⟨_, rfl, hshift _⟩, ⟨_, rfl, hshift _⟩, List.forall_mem_nil _⟩

/-! ## Completion -/

/-- A lane of the completing operation's group takes its results if it is one of the operation's. -/
theorem Core.lane_completeOp {k : Core} {o : Op} {slot g : Nat} (hfind : k.findGroup o.uid = some (slot, g)) {l : Nat}
    (hlisted : (tblFind ((k.team slot).group g).lanes l).isSome) :
    (((k.completeOp o).team slot).group g).lane l =
      if o.lanes.getLsbD l then o.finishLane l (((k.team slot).group g).lane l) else ((k.team slot).group g).lane l := by
  obtain ⟨hteam, hgroup⟩ := Core.listed_of_lane hlisted
  have hteams : (k.completeOp o).teams = (k.updTeam slot fun t => t.updGroup g fun y =>
      y.mapLanes (lanesOf o.lanes) fun l x => o.finishLane l x).teams := by
    simp only [Core.completeOp, Core.updByUid, hfind]
  have hin : (lanesOf o.lanes).contains l = o.lanes.getLsbD l := by
    rw [Bool.eq_iff_iff, List.contains_iff_mem, mem_lanesOf]
    exact ⟨fun h => h.2, fun h => ⟨BitVec.lt_of_getLsbD h, h⟩⟩
  rw [Core.team, hteams]
  change (((k.updTeam slot _).team slot).group g).lane l = _
  rw [Core.team_updTeam_same _ _ _ hteam, Team.group_updGroup_same _ _ _ hgroup, Group.lane_mapLanes _ _ _ _ hlisted, hin]

theorem Core.spad_completeOp (k : Core) (o : Op) : (k.completeOp o).spad = k.spad := by
  unfold Core.completeOp Core.updByUid
  dsimp only
  split <;> rfl

theorem exec_sfuComplete_of_ready {s : State} {core id d : Nat} {o : Op} (h : (s.core core).readyOp id = some o)
    (hk : o.kind = .sfu d) : exec (.sfuComplete core id) s = .next (s.updCore core fun k => k.completeOp o) := by
  have hexec : exec (.sfuComplete core id) s = execSfuComplete core id s := rfl
  rw [hexec, execSfuComplete, h]
  dsimp only
  rw [hk]

theorem exec_loadComplete_of_ready {s : State} {core id d : Nat} {ty : MemTy} {o : Op} (h : (s.core core).readyOp id = some o)
    (hk : o.kind = .load ty d) : exec (.loadComplete core id) s = .next (s.updCore core fun k => k.completeOp o) := by
  have hexec : exec (.loadComplete core id) s = execLoadComplete core id s := rfl
  rw [hexec, execLoadComplete, h]
  dsimp only
  rw [hk]

theorem exec_atomicReply_of_ready {s : State} {core id d : Nat} {w : Bool} {gd : BitVec 3} {o : Op}
    (h : (s.core core).readyOp id = some o) (hk : o.kind = .atomic d w gd) :
    exec (.atomicReply core id) s = .next (s.updCore core fun k => k.completeOp o) := by
  have hexec : exec (.atomicReply core id) s = execAtomicReply core id s := rfl
  rw [hexec, execAtomicReply, h]
  dsimp only
  rw [hk]

/-- Settles O19: the operation's lanes take its results, and it is forgotten. -/
theorem operationsComplete : Obligations.OperationsComplete := by
  unfold Obligations.OperationsComplete
  intro s core id slot g o hready hid hfind i hi
  have hexec : exec i s = .next (s.updCore core fun k => k.completeOp o) := by
    obtain ⟨rfl, d, hk⟩ | ⟨rfl, ty, d, hk⟩ | ⟨rfl, d, w, gd, hk⟩ := hi
    · exact exec_sfuComplete_of_ready hready hk
    · exact exec_loadComplete_of_ready hready hk
    · exact exec_atomicReply_of_ready hready hk
  refine ⟨_, hexec, ?_, rfl, ?_, fun l hlisted => ?_⟩
  · rw [State.core_updCore_same, ← hid]
    exact tblFind_tblDel_same _ _
  · rw [State.core_updCore_same, Core.spad_completeOp]
  · rw [State.group, State.team, State.core_updCore_same]
    exact Core.lane_completeOp hfind hlisted

end Sys2Proof.Machine
end

section
/-! SUPPORT. Fences and their points (O20). -/

namespace Sys2Proof.Machine

set_option Elab.async false

/-! ## The points of a fence -/

/-- Points that join the queue of a core, each of a lane. -/
def State.pushPoints (s : State) (core team ctx uid : Nat) (ps : List (Nat × Act)) : State :=
  ps.foldl (fun u p => u.pushPoint core team ctx uid p.1 p.2) s

theorem State.pushPoints_spec (core team ctx uid : Nat) (ps : List (Nat × Act)) (s : State) :
    (∃ new, ((s.pushPoints core team ctx uid ps).core core).queue = (s.core core).queue ++ new ∧
      new.map (fun i => (i.lanes, i.act)) = ps.map fun p => ((1 : BitVec 32) <<< p.1, p.2)) ∧
    (∀ c, ((s.pushPoints core team ctx uid ps).core c).teams = (s.core c).teams) ∧
    (s.pushPoints core team ctx uid ps).mem = s.mem ∧ (s.pushPoints core team ctx uid ps).l1 = s.l1 := by
  induction ps generalizing s with
  | nil => exact ⟨⟨[], (List.append_nil _).symm, rfl⟩, fun _ => rfl, rfl, rfl⟩
  | cons p ps ih =>
    obtain ⟨⟨new, hqueue, hnew⟩, hteams, hmem, hl1⟩ := ih (s.pushPoint core team ctx uid p.1 p.2)
    have hone : ∃ i : Item, ((s.pushPoint core team ctx uid p.1 p.2).core core).queue = (s.core core).queue ++ [i] ∧
        (i.lanes, i.act) = ((1 : BitVec 32) <<< p.1, p.2) :=
      ⟨_, (congrArg Core.queue (State.core_updCore_same { s with fresh := s.fresh + 1 } core _) :), rfl⟩
    obtain ⟨i, hi, hkey⟩ := hone
    refine ⟨⟨i :: new, ?_, ?_⟩, fun c => (hteams c).trans (State.teams_pushPoint ..), hmem, hl1⟩
    · rw [hi, List.append_assoc] at hqueue
      exact hqueue
    · rw [List.map_cons, hnew, hkey, List.map_cons]

theorem exec_fence (o : MemOrd) (sc : Scope) (s : State) :
    exec (.fence o sc) s = .next (s.orFault [s.illegal (o != .relaxed)]
      (s.advance.pushPoints s.issue.core s.issTeam.uid s.issGrid.ctx s.issGroup.uid
        (s.issLanes.flatMap fun l => (fencePoints o sc).map fun a => (l, a)))) := by
  have hexec : exec (.fence o sc) s = execFence o sc s := rfl
  rw [hexec, execFence, State.pushPoints, List.foldl_flatMap]
  simp only [List.foldl_map]

/-! ## What stands in a core's queue -/

theorem Core.item_of_map_wb {k : Core} {id : Nat} {i : Item} (h : k.item id = some i) (rest : List Nat) :
    ({ k with queue := k.queue.map fun j => if j.id == i.id then { j with wb := some rest } else j } : Core).item id =
      some { i with wb := some rest } := by
  have hid : (i.id == id) = true := List.find?_some (p := fun i : Item => i.id == id) h
  have hkeep : ((fun i : Item => i.id == id) ∘ fun j => if j.id == i.id then { j with wb := some rest } else j) = fun i => i.id
      == id := by
    funext j
    rw [Function.comp_apply]
    split <;> rfl
  rw [Core.item, List.find?_map, hkeep]
  have hfind : k.queue.find? (fun i => i.id == id) = some i := h
  rw [hfind, Option.map_some, if_pos (beq_self_eq_true _)]

/-- A core without the requests that wait at it. -/
def Core.remoteless (k : Core) : Core := { k with remote := [] }

theorem State.core_updWaits (s : State) (p : Place) (f : List RemoteReq → List RemoteReq) (c : Nat) :
    ((s.updWaits p f).core c).remoteless = (s.core c).remoteless := by
  cases p with
  | rank cl r g co off =>
    refine tblGet_tblMap_of (P := fun k k' : Core => k'.remoteless = k.remoteless) (Core.reset (c % 256)) _ s.cores c rfl fun k
        => ?_
    split <;> rfl
  | _ => rfl

theorem State.updWaits_keeps (s : State) (p : Place) (f : List RemoteReq → List RemoteReq) :
    (s.updWaits p f).mem = s.mem ∧ (s.updWaits p f).l1 = s.l1 := by
  cases p with
  | rank cl r g co off => exact ⟨rfl, rfl⟩
  | _ => exact ⟨rfl, rfl⟩

/-- A core's queue without an item. -/
def Core.withoutItem (k : Core) (id : Nat) : Core := { k with queue := k.queue.filter fun j => j.id != id }

/-- An item that is dropped leaves the queue of its core; beside the lists of requests that wait, nothing else changes there. -/
theorem State.dropItem_spec (s : State) (core id : Nat) :
    ((s.dropItem core id).core core).remoteless = ((s.core core).withoutItem id).remoteless ∧
      (s.dropItem core id).mem = s.mem ∧ (s.dropItem core id).l1 = s.l1 := by
  unfold State.dropItem
  extract_lets place u
  have hu : (u.core core).remoteless = ((s.core core).withoutItem id).remoteless :=
    congrArg Core.remoteless (State.core_updCore_same _ _ _)
  clear_value place
  cases place with
  | none => exact ⟨hu, rfl, rfl⟩
  | some p => exact ⟨(State.core_updWaits _ _ _ _).trans hu, State.updWaits_keeps _ _ _⟩

theorem State.item_dropItem (s : State) (core id : Nat) : (((s.dropItem core id).core core).item id).isNone := by
  have hqueue : ((s.dropItem core id).core core).queue = _ := (congrArg Core.queue (s.dropItem_spec core id).1 :)
  rw [Core.item, hqueue, List.find?_eq_none.2]
  · rfl
  · intro j hj
    have h := (List.mem_filter.1 hj).2
    rw [bne_iff_ne] at h
    rw [beq_iff_eq]
    exact h

/-! ## A step of a point -/

theorem State.wbSector_clean (s : State) (id k : Nat) : ((s.wbSector id k).sector id k).dm = 0 := by
  unfold State.wbSector
  extract_lets u x
  rw [State.sector, State.l1At_updL1_same]
  dsimp only
  split
  · rw [tblGet_eq_find, tblFind_tblSet_same]
    rfl
  · rw [tblGet_eq_find, tblFind_tblDel_same]
    rfl

section
variable {s : State} {core id : Nat} {i : Item} (hitem : (s.core core).item id = some i) (hfree : s.blocked core i = false)
    {wide : Bool}
  {done : State → State}
include hitem hfree

theorem State.pointStep_more {k : Nat} {rest : List Nat}
    (hleft : (if wide then i.wb.getD (s.l1At (s.l1Of core)).dirty else []) = k :: rest) :
    let t := s.pointStep core i wide done
    (t.core core).item id = some { i with wb := some rest } ∧ t.l1 = (s.wbSector (s.l1Of core) k).l1 ∧
      t.mem = (s.wbSector (s.l1Of core) k).mem ∧ (t.sector (s.l1Of core) k).dm = 0 := by
  have hhome := State.atHome_wbSector s (s.l1Of core) k
  have heq : s.pointStep core i wide done = (s.wbSector (s.l1Of core) k).updCore core fun c =>
      { c with queue := c.queue.map fun j => if j.id == i.id then { j with wb := some rest } else j } := by
    rw [State.pointStep, hfree, hleft]
    rfl
  intro t
  have ht : t = _ := heq
  rw [ht]
  refine ⟨?_, rfl, rfl, State.wbSector_clean _ _ _⟩
  rw [State.core_updCore_same, hhome.core]
  exact Core.item_of_map_wb hitem rest

theorem State.pointStep_last (hleft : (if wide then i.wb.getD (s.l1At (s.l1Of core)).dirty else []) = []) :
    s.pointStep core i wide done = (done s).dropItem core id := by
  have hid : i.id = id := beq_iff_eq.1 (List.find?_some (p := fun i : Item => i.id == id) hitem)
  rw [State.pointStep, hfree, hleft, hid]
  rfl

end

theorem exec_releasePoint {s : State} {core id : Nat} {i : Item} {sc : Scope} (hitem : (s.core core).item id = some i)
    (hact : i.act = .release sc) :
    exec (.releasePoint core id) s = .next (s.pointStep core i (s.wide core sc) fun s => s) := by
  have hexec : exec (.releasePoint core id) s = execReleasePoint core id s := rfl
  rw [hexec, execReleasePoint, hitem]
  dsimp only
  rw [hact]

theorem exec_acquirePoint {s : State} {core id : Nat} {i : Item} {sc : Scope} (hitem : (s.core core).item id = some i)
    (hact : i.act = .acquire sc ∨ i.act = .sc sc) :
    exec (.acquirePoint core id) s =
      .next (s.pointStep core i (s.wide core sc) fun u => if s.wide core sc then u.l1WBINV (u.l1Of core) else u) := by
  have hexec : exec (.acquirePoint core id) s = execAcquirePoint core id s := rfl
  rw [hexec, execAcquirePoint, hitem]
  dsimp only
  obtain hact | hact := hact
  · rw [hact]
  · rw [hact]

/-- Settles O20: a fence queues its points, and a point empties the L1 one dirty sector after another. -/
theorem fencesAndTheirPoints : Obligations.FencesAndTheirPoints := by
  unfold Obligations.FencesAndTheirPoints
  refine ⟨fun s o sc hs ho => ?_, fun s core id i sc hitem hfree => ?_⟩
  · refine ⟨_, exec_fence o sc s, ?_⟩
    by_cases hz : s.issue.lanes = 0
    · have hnil : s.issLanes = [] := by rw [State.issLanes, hz]; decide
      rw [State.orFault, if_pos hz, hnil]
      exact ⟨⟨[], (List.append_nil _).symm, rfl⟩, fun l hl => absurd hl List.not_mem_nil, rfl, rfl⟩
    · rw [State.orFault_pass hz (by rw [State.illegal, bne_iff_ne.2 ho]; rfl)]
      have hadv : s.Performs s.advance none fun _ x => x := State.runLanes_performs hs none fun _ x => x
      obtain ⟨⟨new, hqueue, hnew⟩, hteams, hmem,
          hl1⟩ := State.pushPoints_spec s.issue.core s.issTeam.uid s.issGrid.ctx s.issGroup.uid
        (s.issLanes.flatMap fun l => (fencePoints o sc).map fun a => (l, a)) s.advance
      refine ⟨⟨new, hqueue.trans (congrArg (· ++ new) (congrArg Core.queue hadv.only.only.core :)), ?_⟩, fun l hl => ?_,
        hmem, hl1⟩
      · rw [hnew, List.map_flatMap]
        refine congrArg (List.flatMap · s.issLanes) (funext fun l => ?_)
        rw [List.map_map]
        cases o with
        | relaxed => exact absurd rfl ho
        | _ => rfl
      · rw [State.laneIn, State.group, State.team, Core.team, hteams]
        exact hadv.done l hl rfl
  · intro left
    have hrel : i.act = .release sc → exec (.releasePoint core id) s = .next (s.pointStep core i (s.wide core sc) fun s => s) :=
      fun hact => exec_releasePoint hitem hact
    have hacq : i.act = .acquire sc ∨ i.act = .sc sc → exec (.acquirePoint core id) s =
        .next (s.pointStep core i (s.wide core sc) fun u => if s.wide core sc then u.l1WBINV (u.l1Of core) else u) :=
      fun hact => exec_acquirePoint hitem hact
    refine ⟨?_, fun hleft => ⟨fun hact => ?_, fun hact => ?_⟩⟩
    · simp only [List.forall_mem_cons]
      exact ⟨fun hact k rest hleft => ⟨_, hrel hact, State.pointStep_more hitem hfree hleft⟩,
        fun hact k rest hleft => ⟨_, hacq hact, State.pointStep_more hitem hfree hleft⟩, List.forall_mem_nil _⟩
    · obtain ⟨-, hmem, hl1⟩ := s.dropItem_spec core id
      refine ⟨_, hrel hact, ?_⟩
      rw [State.pointStep_last hitem hfree hleft]
      exact ⟨s.item_dropItem core id, hl1, hmem⟩
    · refine ⟨_, hacq hact, ?_⟩
      rw [State.pointStep_last hitem hfree hleft]
      refine ⟨State.item_dropItem _ _ _, fun hwide => ?_, fun hwide => ?_⟩
      · rw [if_pos hwide, State.l1At, (State.dropItem_spec _ _ _).2.2]
        exact State.sectors_l1WBINV _ _
      · rw [if_neg (by rw [hwide]; decide)]
        exact ⟨(s.dropItem_spec core id).2.2, (s.dropItem_spec core id).2.1⟩

end Sys2Proof.Machine
end

section
/-! SUPPORT. The statuses of pins (O21). -/

namespace Sys2Proof.Machine

set_option Elab.async false

/-! ## What keeps the pins of the L1 structures -/

/-- Every L1 structure has the pins that it had. -/
def State.SamePins (s t : State) : Prop := ∀ id, (t.l1At id).pins = (s.l1At id).pins

namespace State.SamePins
variable {s t u : State}

theorem refl (s : State) : s.SamePins s := fun _ => rfl
theorem trans (h : s.SamePins t) (h' : t.SamePins u) : s.SamePins u := fun id => (h' id).trans (h id)
theorem of_l1 (h : t.l1 = s.l1) : s.SamePins t := fun id => by rw [State.l1At, State.l1At, h]

theorem foldl {α : Type} {f : State → α → State} (hf : ∀ (s : State) x, s.SamePins (f s x)) (ls : List α) (s : State) :
    s.SamePins (ls.foldl f s) := by
  induction ls generalizing s with
  | nil => exact refl s
  | cons x ls ih => exact (hf s x).trans (ih _)

end State.SamePins

theorem State.samePins_updL1 (s : State) (id : Nat) {f : L1 → L1} (hf : ∀ c, (f c).pins = c.pins) :
    s.SamePins (s.updL1 id f) := by
  intro j
  by_cases h : j = id
  · subst h; rw [State.l1At_updL1_same, hf]
  · rw [State.l1At_updL1_ne s f h]

theorem State.samePins_l1Error (s : State) (id k : Nat) (who : Option Charge) : s.SamePins (s.l1Error id k who) := by
  unfold State.l1Error
  split
  · exact .refl s
  · extract_lets u x cor
    have hu : s.SamePins u := s.samePins_updL1 id fun _ => rfl
    split
    · exact hu.trans (.of_l1 rfl)
    · split
      · exact (hu.trans (.of_l1 rfl)).trans
          (State.samePins_updL1 _ id (f := fun l => { l with sectors := tblDel l.sectors k }) fun _ => rfl)
      · exact (hu.trans (State.samePins_updL1 u id
          (f := fun l => { l with sectors := tblSet l.sectors k { x with v := false, data := 0 } }) fun _ => rfl)).trans
          (.of_l1 (State.l1_chargeLoss _ _ _))

theorem State.samePins_sflush (s : State) (id k : Nat) : s.SamePins (s.sflush id k) :=
  ((s.samePins_l1Error id k none).trans (.of_l1 (State.atH_writeDirty _ _ _).l1)).trans (State.samePins_updL1 _ _ fun _ => rfl)

theorem State.samePins_evictLine (s : State) (id line : Nat) : s.SamePins (s.evictLine id line) :=
  .foldl (by
    intro s i
    split
    · exact s.samePins_sflush _ _
    · exact .refl s) _ s

theorem State.samePins_makeRoom (s : State) (id line : Nat) (filler : Option (Nat × Nat)) :
    s.SamePins (s.makeRoom id line filler) := by
  have htake : ∀ (u : State) w, u.SamePins (u.updL1 id fun c =>
      { c with sets := tblSet c.sets (line % l1Sets id) ((c.set id line).put 3 w line) }) :=
    fun u w => u.samePins_updL1 id fun _ => rfl
  unfold State.makeRoom
  extract_lets c pinned w take
  split
  · exact htake s w
  · next v _ =>
    split
    · exact htake s w
    · split
      · exact .refl s
      · have hleft := (s.samePins_evictLine id v).trans (htake (s.evictLine id v) w)
        split
        · exact hleft
        · exact hleft.trans (.of_l1 rfl)

theorem State.samePins_l1Fill (s : State) (id k : Nat) (who : Charge) (ch : Nat) : s.SamePins (s.l1Fill id k who ch) := by
  have hread := (s.atH_hRead who ch (k * 64) 64).l1
  unfold State.l1Fill
  generalize s.hRead who ch (k * 64) 64 = r at hread ⊢
  exact (State.SamePins.of_l1 hread).trans (State.samePins_updL1 _ _ fun _ => rfl)

theorem State.samePins_l1Miss (s : State) (core uid id k : Nat) (who : Charge) (ch : Nat) :
    s.SamePins (s.l1Miss core uid id k who ch) := by
  have hcount : s.SamePins (s.updCore core fun c => c.countMiss uid (k / 4)) := .of_l1 rfl
  exact (hcount.trans (State.samePins_makeRoom _ _ _ _)).trans (State.samePins_l1Fill _ _ _ _ _)

theorem State.samePins_fillLine (s : State) (id line ch : Nat) : s.SamePins (s.fillLine id line ch) :=
  .foldl (by
    intro s i
    split
    · exact .refl s
    · exact s.samePins_l1Miss _ _ _ _ _ _) _ s

/-! ## The line of a pin -/

theorem State.OwnAccess.coreTlbAdd_after {s t : State} (h : s.AtHome t) (core : Nat) (e : Tlb) :
    s.OwnAccess (t.coreTlbAdd core e) :=
  (State.OwnAccess.of_home h).trans (t.ownAccess_coreTlbAdd core e)

/-- Finding the line of a pin is an access of the core's own, that leaves the grids but for their counts. -/
theorem State.pinLine_spec (s : State) (reads : Bool) (l : Nat) (a : DWord) :
    s.OwnAccess (s.pinLine reads l a).1 ∧ ∀ id, ((s.pinLine reads l a).1.grid id).lossless = (s.grid id).lossless := by
  have hlook := fun va => (s.atH_lookup (clusterOf s.issue.core) s.issGrid.ctx s.issGrid.desc.ptRoot va).home
  unfold State.pinLine
  split
  · exact ⟨.refl s, fun _ => rfl⟩
  · split
    · next va _ =>
      split
      · exact ⟨.refl s, fun _ => rfl⟩
      · have hlook := hlook va
        split
        · next h =>
          rw [h] at hlook
          exact ⟨.coreTlbAdd_after hlook _ _, fun id => hlook.grid_lossless id⟩
        · next h => rw [h] at hlook; exact ⟨.of_home hlook, hlook.grid_lossless⟩
        · next h => rw [h] at hlook; exact ⟨.of_home hlook, hlook.grid_lossless⟩
    · exact ⟨.refl s, fun _ => rfl⟩

/-! ## A pin of one lane -/

section
variable {s u : State} (hs : s.Issuing) (hu : s.OwnAccess u) {h : VHead} {l : Nat} (hl : l ∈ s.issLanes)
  (hfull : (s.issLane l).flagFull h.flag = false)
include hs hu hl hfull

/-- The lane takes its status and advances. -/
theorem State.put32_status (v : Nat → Word) :
    let t := u.put32 h.flag h.dst v
    (s.laneIn t l).reg h.dst.toNat = v l ∧ (s.laneIn t l).pc = s.nextPc := by
  obtain ⟨hui, -, -⟩ := hu.issuing hs
  have hissue := hu.issue
  have hlane := hu.issLane hs l
  have hmem : l ∈ u.issLanes := by rw [State.issLanes, hissue]; exact hl
  have hdone : u.laneIn (u.put32 h.flag h.dst v) l = ((u.issLane l).setReg h.dst.toNat (v l)).goto u.nextPc :=
    (State.runLanes_performs hui h.flag fun l x => x.setReg h.dst.toNat (v l)).done l hmem (by rw [hlane]; exact hfull)
  have hin : s.laneIn (u.put32 h.flag h.dst v) l = u.laneIn (u.put32 h.flag h.dst v) l := by
    rw [State.laneIn, State.laneIn, hissue]
  intro t
  have hnext : u.nextPc = s.nextPc := by rw [State.nextPc, State.nextPc, hissue]
  rw [hin, hdone, hnext]
  exact ⟨Lane.reg_setReg_same _ _ _, rfl⟩

end

theorem exec_cachePin (h : VHead) (a : Src) (s : State) : exec (.cachePin h a) s = .next (s.pinInstr h a State.pinOne) := rfl
theorem exec_cacheUnpin (h : VHead) (a : Src) (s : State) : exec (.cacheUnpin h a) s = .next (s.pinInstr h a State.unpinOne) :=
    rfl

/-- A pin instruction of one lane. -/
theorem State.pinInstr_one {s v : State} {h : VHead} {a : Src} {one : State → Nat → DWord → State × Nat} {l c : Nat}
    (hl : s.issLanes = [l]) (hdst : s.regsOk 1 h.dst.toNat = true) (ha : s.srcOk 2 a = true)
    (hfull : (s.issLane l).flagFull h.flag = false) (hone : one s l (s.src64 0 l a) = (v, c)) :
    s.pinInstr h a one = v.put32 h.flag h.dst fun m => BitVec.ofNat 32 (tblGet 0 [(l, c)] m) := by
  have hz : s.issue.lanes ≠ 0 := fun h0 => by
    have hnil : s.issLanes = [] := by rw [State.issLanes, h0]; decide
    rw [hl] at hnil
    exact List.cons_ne_nil _ _ hnil
  have hgo : s.issLanes.filter (fun l => !(s.issLane l).flagFull h.flag) = [l] := by
    rw [hl, List.filter_cons_of_pos (by rw [hfull]; rfl), List.filter_nil]
  have hall : State.pinAll (fun u l => one u l (s.src64 0 l a)) s [l] = (v, [(l, c)]) := by simp only [State.pinAll, hone]
  rw [State.pinInstr, State.orFault_pass hz (State.firstFault_regForm hdst (by simp [ha])), hgo]
  simp only [hall]

theorem any_pin {pins : List Pin} {line ctx : Nat} :
    (pins.any fun p => p.line == line && p.ctx == ctx) = true ↔ (⟨line, ctx⟩ : Pin) ∈ pins := by
  rw [List.any_eq_true]
  constructor
  · rintro ⟨⟨x, y⟩, hp, h⟩
    rw [Bool.and_eq_true, beq_iff_eq, beq_iff_eq] at h
    exact h.1 ▸ h.2 ▸ hp
  · exact fun h => ⟨_, h, by simp⟩

theorem any_line {pins : List Pin} {line : Nat} : (pins.any fun p => p.line == line) = true ↔ ∃ p ∈ pins, p.line = line := by
  simp

/-- A structure takes a pin. -/
def State.addPin (u : State) (id : Nat) (p : Pin) : State := u.updL1 id fun c => { c with pins := p :: c.pins }

section
variable {s u : State} {l line ch : Nat} {a : DWord} (hline : s.pinLine true l a = (u, .ok (line, ch)))
include hline

/-- What cache.pin does with the line that it finds: the order of its checks. -/
theorem State.pinOne_of_line :
    let id := u.l1Of u.issue.core
    let pins := (u.l1At id).pins
    s.pinOne l a =
      if (⟨line, u.issGrid.ctx⟩ : Pin) ∈ pins then (u, 1)
      else if ∃ p ∈ pins, p.line = line then (u, 2)
      else if 6 ≤ (pins.filter fun p => p.line % l1Sets id == line % l1Sets id).length then (u, 3)
      else if u.issGrid.desc.pinQuota ≤ (pins.filter fun p => p.ctx == u.issGrid.ctx).length then (u, 4)
      else (((u.makeRoom id line (some (u.issue.core, u.issGroup.uid))).addPin id ⟨line, u.issGrid.ctx⟩).fillLine id line ch,
          0) := by
  intro id pins
  rw [State.pinOne, hline]
  dsimp only
  simp only [any_pin, any_line]
  rfl

end

theorem State.ownAccess_fillLine (s : State) (id line ch : Nat) : s.OwnAccess (s.fillLine id line ch) :=
  .foldl (by
    intro s i
    split
    · exact .refl s
    · exact s.ownAccess_l1Miss _ _ _ _ _ _) _ s

theorem State.mem_addPin (u : State) (id : Nat) (p : Pin) : p ∈ ((u.addPin id p).l1At id).pins := by
  rw [State.addPin, State.l1At_updL1_same]
  exact List.mem_cons_self

/-- A line that is pinned joins the pins of its structure. -/
theorem State.pinned_spec (u : State) (id line ch : Nat) (filler : Option (Nat × Nat)) (p : Pin) :
    let v := ((u.makeRoom id line filler).addPin id p).fillLine id line ch
    u.OwnAccess v ∧ p ∈ (v.l1At id).pins := by
  have hput := (u.ownAccess_makeRoom id line filler).trans
    (.of_home ((u.makeRoom id line filler).atHome_updL1 id fun c => { c with pins := p :: c.pins }))
  have hpins := (u.makeRoom id line filler).mem_addPin id p
  exact ⟨hput.trans (State.ownAccess_fillLine _ id line ch), (State.samePins_fillLine _ id line ch id).symm ▸ hpins⟩

/-- What cache.unpin does with the line that it finds. -/
theorem State.unpinOne_of_line {s u : State} {l line ch : Nat} {a : DWord} (hline : s.pinLine false l a = (u, .ok (line, ch))) :
    let id := u.l1Of u.issue.core
    s.unpinOne l a =
      if (⟨line, u.issGrid.ctx⟩ : Pin) ∈ (u.l1At id).pins then
        (u.updL1 id fun c => { c with pins := c.pins.filter fun p => !(p.line == line && p.ctx == u.issGrid.ctx) }, 0)
      else (u, 7) := by
  intro id
  rw [State.unpinOne, hline]
  dsimp only
  simp only [any_pin]
  rfl

/-- Settles O21: the checks of a pin in their order, and the pin that it makes or drops. -/
theorem pinResults : Obligations.PinResults := by
  unfold Obligations.PinResults
  intro s u h a l r reads hs hl hdst ha hfull hline id ctx pins result
  obtain ⟨hu, hgrids⟩ := s.pinLine_spec reads l (s.src64 0 l a)
  rw [hline] at hu hgrids
  have hmem : l ∈ s.issLanes := by rw [hl]; exact List.mem_cons_self
  have hgrid : u.issGrid.lossless = s.issGrid.lossless := by
    have hteam : u.issTeam.grid = s.issTeam.grid := (congrArg Team.grid (hu.issuing hs).2.1 :)
    rw [State.issGrid, State.issGrid, hteam]
    exact hgrids _
  have hctx : u.issGrid.ctx = ctx := (congrArg Grid.ctx hgrid :)
  have hquota : u.issGrid.desc.pinQuota = s.issGrid.desc.pinQuota := (congrArg (fun g : Grid => g.desc.pinQuota) hgrid :)
  have hid : u.l1Of u.issue.core = id := by rw [hu.issue]
  have hput : ∀ {v : State} (c : Nat), s.OwnAccess v →
      result (v.put32 h.flag h.dst fun m => BitVec.ofNat 32 (tblGet 0 [(l, c)] m)) c := fun c hv => by
    have hstatus := State.put32_status hs hv hmem hfull fun m => BitVec.ofNat 32 (tblGet 0 [(l, c)] m)
    rw [show tblGet 0 [(l, c)] l = c from if_pos rfl] at hstatus
    exact hstatus
  have hstep := fun {one : State → Nat → DWord → State × Nat} {v : State} {c : Nat} =>
    State.pinInstr_one (h := h) (a := a) (one := one) (v := v) (c := c) hl hdst ha hfull
  refine ⟨fun hreads => ⟨_, exec_cachePin h a s, ?_⟩, fun hreads => ⟨_, exec_cacheUnpin h a s, ?_⟩⟩
  · subst hreads
    refine ⟨fun c hc => ?_, fun line ch hr => ?_⟩
    · subst hc
      have hone : s.pinOne l (s.src64 0 l a) = (u, c) := by rw [State.pinOne, hline]
      rw [hstep hone]
      exact hput c hu
    · subst hr
      have hone := State.pinOne_of_line hline
      dsimp only at hone
      rw [hid, hctx, hquota] at hone
      refine ⟨fun hin => ?_, fun hout hex => ?_, fun hno h6 => ?_, fun hno h6 hq => ?_, fun hno h6 hq => ?_⟩
      · rw [if_pos hin] at hone
        rw [hstep hone]
        exact hput 1 hu
      · rw [if_neg hout, if_pos hex] at hone
        rw [hstep hone]
        exact hput 2 hu
      all_goals
        have hout : (⟨line, ctx⟩ : Pin) ∉ pins := fun hin => hno _ hin rfl
        have hnone : ¬ ∃ p ∈ pins, p.line = line := fun ⟨p, hp, hpl⟩ => hno p hp hpl
        rw [if_neg hout, if_neg hnone] at hone
      · rw [if_pos h6] at hone
        rw [hstep hone]
        exact hput 3 hu
      · rw [if_neg (Nat.not_le.2 h6), if_pos hq] at hone
        rw [hstep hone]
        exact hput 4 hu
      · rw [if_neg (Nat.not_le.2 h6), if_neg (Nat.not_le.2 hq)] at hone
        have hspec := u.pinned_spec id line ch (some (u.issue.core, u.issGroup.uid)) ⟨line, ctx⟩
        dsimp only at hspec
        generalize State.fillLine _ id line ch = v at hone hspec
        rw [hstep hone]
        exact ⟨hput 0 (hu.trans hspec.1), hspec.2⟩
  · subst hreads
    refine ⟨fun c hc => ?_, fun line ch hr => ?_⟩
    · subst hc
      have hone : s.unpinOne l (s.src64 0 l a) = (u, 7) := by rw [State.unpinOne, hline]
      rw [hstep hone]
      exact hput 7 hu
    · subst hr
      have hone := State.unpinOne_of_line hline
      dsimp only at hone
      rw [hid, hctx] at hone
      refine ⟨fun hout => ?_, fun hin => ?_⟩
      · rw [if_neg hout] at hone
        rw [hstep hone]
        exact hput 7 hu
      · rw [if_pos hin] at hone
        rw [hstep hone]
        refine ⟨hput 0 (hu.trans (.of_home (u.atHome_updL1 _ _))), fun hmem => ?_⟩
        have hgone : ((u.updL1 id fun c => { c with pins := c.pins.filter fun p => !(p.line == line && p.ctx == ctx) }).l1At
            id).pins =
            _ := congrArg L1.pins (State.l1At_updL1_same _ _ _)
        have h := (List.mem_filter.1 (hgone ▸ hmem)).2
        simp at h

end Sys2Proof.Machine
end

section
/-! SUPPORT. The actions on a stopped core (O35). -/

namespace Sys2Proof.Machine

set_option Elab.async false

/-! ## An action that is allowed, and one that is not -/

theorem State.faultAction_done {s : State} {core n : Nat} {r : Report} (hstop : (s.core core).flt.stopped = true)
    (hcur : (s.core core).flt.cur = some r) (hok : s.actionOk core n r = true) (hdrained : s.drained core = true)
    (act : Report → State) : s.faultAction core n act = act r := by
  simp only [State.faultAction, hcur, hstop, hok, hdrained, Bool.and_self, if_true]

theorem State.faultAction_err {s : State} {core n : Nat} {r : Report} (hcur : (s.core core).flt.cur = some r)
    (hok : s.actionOk core n r = false) (act : Report → State) :
    s.faultAction core n act = s.updFlt core fun u => { u with err := true } := by
  simp only [State.faultAction, hcur, hok, Bool.and_false, Bool.false_eq_true, if_false]

/-- A core with no fault held resumes, and nothing else of it changes. -/
theorem State.core_resumeCore {s : State} {core : Nat} (hheld : (s.core core).flt.heldQ = []) :
    (s.resumeCore core).core core = { s.core core with flt := { (s.core core).flt with stopped := false, overflow := [], act := none } } ∧
      (s.resumeCore core).mem = s.mem ∧ ∀ d n, (s.resumeCore core).team d n = s.team d n := by
  have hcore : (s.updFlt core FltUnit.resume).core core = { s.core core with flt := (s.core core).flt.resume } :=
    State.core_updCore_same s core _
  have hunit : (s.core core).flt.resume = { (s.core core).flt with stopped := false, overflow := [], act := none } := by
    rw [FltUnit.resume]
    split
    · rw [← hheld]
    · next r t h => rw [hheld] at h; cases h
  rw [hunit] at hcore
  have hresume : s.resumeCore core = s.updFlt core FltUnit.resume :=
    if_neg (by rw [hcore]; exact Bool.false_ne_true)
  rw [hresume]
  exact ⟨hcore, rfl, fun d n => State.team_updCore_of_teams s (by exact fun _ => rfl) d n⟩

/-! ## Delivery -/

/-- What an own access leaves of a listed group: its lanes. -/
theorem State.OwnAccess.group_lane {s t : State} (h : s.OwnAccess t) {c n g : Nat} (hteam : (tblFind (s.core c).teams n).isSome)
    (hgroup : (tblFind (s.team c n).groups g).isSome) (l : Nat) : (t.group c n g).lane l = (s.group c n g).lane l := by
  obtain ⟨x, hx⟩ := Option.isSome_iff_exists.1 hteam
  obtain ⟨y, hy⟩ := Option.isSome_iff_exists.1 hgroup
  have hsx : s.team c n = x := tblGet_of_find hx
  rw [hsx] at hy
  have hview := h.view c n g
  rw [Core.view, Core.view, hx] at hview
  obtain ⟨x', hx', hrest⟩ := Option.map_eq_some_iff.1 hview
  have hgroups : (tblFind x'.groups g).map Group.quiet = (tblFind x.groups g).map Group.quiet := (congrArg Prod.snd hrest :)
  rw [hy] at hgroups
  obtain ⟨y', hy', hquiet⟩ := Option.map_eq_some_iff.1 hgroups
  have htx : t.team c n = x' := tblGet_of_find hx'
  rw [State.group, State.group, hsx, htx, Team.group, Team.group, tblGet_of_find hy, tblGet_of_find hy']
  exact (congrArg (fun z : Group => z.lane l) hquiet :)

/-- A trap leaves the fault units. -/
theorem State.flt_trapEnter (s : State) (core slot g : Nat) (c : TrapCause) (d : Nat) :
    ((s.trapEnter core slot g c).core d).flt = (s.core d).flt := by
  rw [State.trapEnter_eq, (State.ownAccess_writeFrame _ _ _ _ _).flt]
  by_cases hd : d = core
  · subst hd; rw [State.updGroup, State.updTeam, State.core_updCore_same]; rfl
  · rw [State.updGroup, State.updTeam, State.core_updCore_ne _ _ hd]

/-- Every lane of a group that traps enters the handler. -/
theorem State.lane_trapEnter {s : State} {core slot g l : Nat} (hlane : (tblFind (s.group core slot g).lanes l).isSome) (hl : l < 32)
    (c : TrapCause) : ((s.trapEnter core slot g c).group core slot g).lane l =
      ((s.group core slot g).lane l).enterTrap (s.grid (s.team core slot).grid).desc.entry := by
  obtain ⟨hteam, hgroup⟩ := Core.listed_of_lane (k := s.core core) hlane
  rw [State.trapEnter_eq]
  generalize hf : (fun x : Group =>
    { x.mapLanes (List.range 32) (fun _ l => l.enterTrap (s.grid (s.team core slot).grid).desc.entry) with
      traps := wrapInc 32 ((s.team core slot).group g).traps }) = f
  have hsame := State.team_updTeam_same hteam (·.updGroup g f)
  have hat : (s.updGroup core slot g f).group core slot g = f (s.group core slot g) := by
    rw [State.group, State.updGroup, hsame]
    exact Team.group_updGroup_same _ g f hgroup
  have hteam' : (tblFind ((s.updGroup core slot g f).core core).teams slot).isSome := by
    rw [State.updGroup, State.updTeam, State.core_updCore_same, Core.updTeam, isSome_tblAdj]
    exact hteam
  have hgroup' : (tblFind ((s.updGroup core slot g f).team core slot).groups g).isSome := by
    rw [State.updGroup, hsame, Team.isSome_updGroup]
    exact hgroup
  rw [(State.ownAccess_writeFrame _ _ _ _ _).group_lane hteam' hgroup', hat, ← hf]
  exact (Group.lane_mapLanes _ _ _ _ hlane).trans (if_pos (by simpa using hl))

theorem State.deliverTo_eq {s : State} {core slot g : Nat} {r : Report} (hfind : (s.core core).findGroup r.uid = some (slot, g))
    (hentry : (s.grid (s.team core slot).grid).desc.entry ≠ 0)
    (hmark : s.marked core (s.team core slot).grid (s.grid (s.team core slot).grid).desc.entry = true) :
    s.deliverTo core r = (s.trapEnter core slot g ⟨r.code, 0, r.lanes, r.pc, r.addr, r.aux⟩).resumeCore core := by
  rw [State.deliverTo, hfind]
  refine (if_neg hentry).trans (if_neg ?_)
  rw [hmark]
  decide

/-! ## What the end of a group leaves of grids, contexts and teams -/

/-- Every group of a team is one of another. -/
def Team.Within (t u : Team) : Prop := ∀ g, (tblFind u.groups g).isSome → (tblFind t.groups g).isSome

theorem Team.Within.refl (t : Team) : t.Within t := fun _ => id

/-- What the kills write of a grid. -/
def Grid.endMarks (g : Grid) : Bool × Bool × Bool × Nat := (g.killed, g.groupKilled, g.dispatching, g.lastFault)

/-- What the kills write of a context's counts. -/
def Ctx.killMarks (k : Ctx) : Nat × Nat := (k.kills, k.last)

/-- No group joins, and what the kills wrote stays. -/
structure State.OnlyEnds (s t : State) : Prop where
  groups  : ∀ c n, (s.team c n).Within (t.team c n)
  marks   : ∀ id, (tblFind t.sched.grids id).map Grid.endMarks = (tblFind s.sched.grids id).map Grid.endMarks
  kills   : ∀ c, (tblFind t.ctxs.live c).map Ctx.killMarks = (tblFind s.ctxs.live c).map Ctx.killMarks
  waiting : t.sched.waiting = s.sched.waiting

namespace State.OnlyEnds
variable {s t u : State}

theorem refl (s : State) : s.OnlyEnds s := ⟨fun _ _ => .refl _, fun _ => rfl, fun _ => rfl, rfl⟩

theorem trans (h : s.OnlyEnds t) (h' : t.OnlyEnds u) : s.OnlyEnds u :=
  ⟨fun c n g hg => h.groups c n g (h'.groups c n g hg), fun id => (h'.marks id).trans (h.marks id),
    fun c => (h'.kills c).trans (h.kills c), h'.waiting.trans h.waiting⟩

theorem foldl {α : Type} {f : State → α → State} (hf : ∀ (s : State) x, s.OnlyEnds (f s x)) (ls : List α) (s : State) :
    s.OnlyEnds (ls.foldl f s) := by
  induction ls generalizing s with
  | nil => exact refl s
  | cons x ls ih => exact (hf s x).trans (ih _)

theorem ite {p : Prop} [Decidable p] (ht : s.OnlyEnds t) (hu : s.OnlyEnds u) : s.OnlyEnds (if p then t else u) := by
  split
  · exact ht
  · exact hu

/-- Nothing of teams, grids and contexts changes. -/
theorem of_same (hcores : t.cores = s.cores) (hsched : t.sched = s.sched) (hctxs : t.ctxs = s.ctxs) : s.OnlyEnds t :=
  ⟨fun c n => by rw [show t.team c n = s.team c n by rw [State.team, State.core, hcores]; rfl]; exact .refl _, fun _ => by rw [hsched], fun _ => by rw [hctxs],
    by rw [hsched]⟩

theorem gone (h : s.OnlyEnds t) {c n g : Nat} (hg : tblFind (s.team c n).groups g = none) : tblFind (t.team c n).groups g = none := by
  cases hfind : tblFind (t.team c n).groups g with
  | none => rfl
  | some y =>
    have := h.groups c n g (by rw [hfind]; rfl)
    rw [hg] at this
    cases this

end State.OnlyEnds

theorem State.onlyEnds_msi (s : State) (v : Nat) : s.OnlyEnds (s.msi v) := by
  unfold State.msi
  split
  · split
    · exact .refl s
    · exact .of_same rfl rfl rfl
  · exact .of_same rfl rfl rfl

/-- A change of a core whose teams keep no other groups. -/
theorem State.onlyEnds_updCore (s : State) (c : Nat) {f : Core → Core} (hf : ∀ (k : Core) n, (k.team n).Within ((f k).team n)) :
    s.OnlyEnds (s.updCore c f) := by
  refine ⟨fun d n => ?_, fun _ => rfl, fun _ => rfl, rfl⟩
  by_cases hd : d = c
  · subst hd
    rw [State.team, State.team, State.core_updCore_same]
    exact hf _ n
  · rw [State.team, State.team, State.core_updCore_ne _ _ hd]
    exact .refl _

theorem Core.within_updTeam (k : Core) (m : Nat) {f : Team → Team} (hf : ∀ x : Team, x.Within (f x)) (n : Nat) :
    (k.team n).Within ((k.updTeam m f).team n) := by
  by_cases hn : n = m
  · subst hn
    rw [Core.updTeam, Core.team, Core.team, tblGet_eq_find, tblGet_eq_find, tblFind_tblAdj_same]
    cases tblFind k.teams n with
    | none => exact .refl _
    | some x => exact hf x
  · rw [Core.team_updTeam_ne _ _ hn]
    exact .refl _

theorem State.onlyEnds_updTeam (s : State) (c m : Nat) {f : Team → Team} (hf : ∀ x : Team, x.Within (f x)) :
    s.OnlyEnds (s.updTeam c m f) :=
  s.onlyEnds_updCore c fun k n => k.within_updTeam m hf n

theorem Core.within_updByUid (k : Core) (uid : Nat) (f : Group → Group) (n : Nat) : (k.team n).Within ((k.updByUid uid f).team n) := by
  unfold Core.updByUid
  split
  · exact k.within_updTeam _ (fun x g hg => by rw [← Team.isSome_updGroup]; exact hg) n
  · exact .refl _

theorem Core.within_clearFlags (k : Core) (flag : FlagSel) (ms : List Member) (n : Nat) :
    (k.team n).Within ((k.clearFlags flag ms).team n) := by
  unfold Core.clearFlags
  cases flag with
  | none => exact .refl _
  | some f =>
    refine List.foldlRecOn (motive := fun k' : Core => (k.team n).Within (k'.team n)) ms _ (Team.Within.refl _) fun k' h m _ g hg => ?_
    exact h g (k'.within_updByUid _ _ n g hg)

theorem State.onlyEnds_updGrid (s : State) (id : Nat) {f : Grid → Grid} (hf : ∀ x, (f x).endMarks = x.endMarks) :
    s.OnlyEnds (s.updGrid id f) := by
  refine ⟨fun _ _ => .refl _, fun j => ?_, fun _ => rfl, rfl⟩
  by_cases hj : j = id
  · subst hj
    refine (congrArg (Option.map Grid.endMarks) (tblFind_tblAdj_same _ _ _)).trans ?_
    rw [Option.map_map]
    exact congrFun (congrArg Option.map (funext hf)) _
  · exact congrArg (Option.map Grid.endMarks) (tblFind_tblAdj_ne _ _ hj)

theorem State.onlyEnds_countCtx (s : State) (c : Nat) {f : Ctx → Ctx} (hf : ∀ k, (f k).uncounted = k.uncounted)
    (hmarks : ∀ k, (f k).killMarks = k.killMarks) : s.OnlyEnds (s.countCtx c f) := by
  have hhome := s.atHome_countCtx c hf
  refine ⟨fun d n => ?_, fun id => ?_, fun d => ?_, (congrArg Sched.waiting hhome.sched :)⟩
  · rw [show (s.countCtx c f).team d n = s.team d n from congrArg (Core.team · n) (hhome.core d)]; exact .refl _
  · have := hhome.grid id
    have h : ∀ x : Option Grid, x.map Grid.endMarks = (x.map Grid.lossless).map Grid.endMarks := fun x => by
      cases x with
      | none => rfl
      | some x => rfl
    rw [h, h (tblFind s.sched.grids id), this]
  · unfold State.countCtx
    split
    · next k hk =>
      rw [State.ctxs_rawWrite, State.updCtx_of_live hk]
      by_cases hd : d = c
      · subst hd
        rw [hk]
        exact (congrArg (Option.map _) (tblFind_tblSet_same _ _ _)).trans (congrArg some (hmarks k))
      · exact congrArg (Option.map _) (tblFind_tblSet_ne _ _ hd)
    · rfl

theorem State.onlyEnds_report (s : State) (core : Nat) (r : Report) : s.OnlyEnds (s.report core r) := by
  unfold State.report
  split
  · exact s.onlyEnds_updTeam core _ fun _ => .refl _
  · extract_lets tl dbl r' s₁ u s₂
    have hcount : s.OnlyEnds s₁ := .ite (s.onlyEnds_countCtx _ (by exact fun _ => rfl) (by exact fun _ => rfl)) (.refl s)
    have harrive : s₁.OnlyEnds s₂ := s₁.onlyEnds_updCore core fun _ _ => .refl _
    split
    · exact hcount.trans harrive
    · exact (hcount.trans harrive).trans (s₂.onlyEnds_msi _)

theorem State.onlyEnds_leaveGang (s : State) (core slot g : Nat) : s.OnlyEnds (s.leaveGang core slot g) := by
  unfold State.leaveGang
  extract_lets k e listed
  split
  · split
    · exact s.onlyEnds_updCore core fun _ _ => .refl _
    · next la _ =>
      refine State.OnlyEnds.trans (s.onlyEnds_updCore core fun k n => ?_) (.foldl (fun s m => s.onlyEnds_report core _) _ _)
      exact k.within_clearFlags la.op.flag la.members n
  · exact .refl s

theorem State.onlyEnds_endTeam (s : State) (core slot : Nat) : s.OnlyEnds (s.endTeam core slot) := by
  unfold State.endTeam
  extract_lets t s₁ s₂ s₃
  have hdel : s.OnlyEnds s₁ := s.onlyEnds_updCore core fun k n g hg => by
    by_cases hn : n = slot
    · subst hn
      simp [Core.team, tblGet_eq_find, Team.absent, tblFind] at hg
    · have hfind : tblFind (tblDel k.teams slot) n = tblFind k.teams n := tblFind_tblDel_ne _ hn
      have hteam : Core.team { k.freeLines t with teams := tblDel k.teams slot, owner := if k.owner = some slot then none else k.owner } n
          = k.team n := by
        simp only [Core.team, tblGet_eq_find, hfind]
      rwa [hteam] at hg
  have hpins : s₁.OnlyEnds s₂ := .ite (.refl s₁) (.of_same rfl rfl rfl)
  have hranks : s₂.OnlyEnds s₃ := .of_same rfl rfl rfl
  exact ((hdel.trans hpins).trans hranks).trans (s₃.onlyEnds_updGrid _ fun _ => rfl)

theorem State.onlyEnds_endGroup (s : State) (core slot g : Nat) : s.OnlyEnds (s.endGroup core slot g) := by
  unfold State.endGroup
  extract_lets t x s₁ s₂ s₃
  have hdel : s₁.OnlyEnds s₂ := s₁.onlyEnds_updTeam core slot fun t h hh => by
    by_cases he : h = g
    · subst he; simp at hh
    · rwa [tblFind_tblDel_ne _ he] at hh
  have hthree : s.OnlyEnds s₃ := ((s.onlyEnds_leaveGang core slot g).trans hdel).trans (s₂.onlyEnds_updGrid _ fun _ => rfl)
  split
  · exact hthree.trans (s₃.onlyEnds_endTeam core slot)
  · exact hthree

theorem State.onlyEnds_detachGroup (s : State) (core slot g : Nat) : s.OnlyEnds (s.detachGroup core slot g) := by
  refine State.OnlyEnds.trans (s.onlyEnds_updTeam core slot fun t => ?_) (State.onlyEnds_endGroup _ core slot g)
  refine List.foldlRecOn (motive := fun u : Team => t.Within u) _ _ (Team.Within.refl t) fun u h l _ x hx => h x ?_
  rwa [Team.exitLane, (Team.sameStatus_deductAll _ g l).groups, Team.isSome_updGroup] at hx

theorem State.onlyEnds_discardFaults (s : State) (core : Nat) (uids : List Nat) : s.OnlyEnds (s.discardFaults core uids) := by
  unfold State.discardFaults
  extract_lets u hit s₁
  have hflt : s.OnlyEnds s₁ := s.onlyEnds_updCore core fun _ _ => .refl _
  split
  · exact hflt.trans (s₁.onlyEnds_msi _)
  · exact hflt

theorem State.onlyEnds_calm (s : State) : s.OnlyEnds s.calm := by
  unfold State.calm
  split
  · refine ⟨fun c n => ?_, fun _ => rfl, fun _ => rfl, rfl⟩
    refine State.team_mapTeams_of (P := Team.Within) Team.Within.refl (fun _ x => ?_) rfl c n
    intro g hg
    split at hg
    · exact hg
    · exact hg
  · exact .refl s

/-! ## The kills -/

/-- A context whose groups are ended by a kill counts them. -/
theorem State.countKills_spec {s : State} {ctx : Nat} {x : Ctx} (h : tblFind s.ctxs.live ctx = some x) (n code : Nat) :
    (tblFind (s.countKills ctx n code).ctxs.live ctx).map Ctx.killMarks = some (min 65535 (x.kills + n), code) := by
  rw [State.countKills, State.countCtx, h]
  dsimp only
  rw [State.ctxs_rawWrite, State.updCtx_of_live h]
  exact congrArg (Option.map _) (tblFind_tblSet_same _ _ _)

theorem State.atHome_countKills (s : State) (ctx n code : Nat) : s.AtHome (s.countKills ctx n code) :=
  s.atHome_countCtx ctx fun _ => rfl

/-- What the kills wrote of a grid, read back. -/
theorem State.OnlyEnds.endMarks_grid {s t : State} (h : s.OnlyEnds t) {id : Nat} (hs : (tblFind s.sched.grids id).isSome) :
    (t.grid id).endMarks = (s.grid id).endMarks := by
  obtain ⟨x, hx⟩ := Option.isSome_iff_exists.1 hs
  have hmarks := h.marks id
  rw [hx] at hmarks
  obtain ⟨y, hy, heq⟩ := Option.map_eq_some_iff.1 hmarks
  rw [State.grid, State.grid, tblGet_of_find hx, tblGet_of_find hy]
  exact heq

theorem State.AtHome.isSome_grid {s t : State} (h : s.AtHome t) (id : Nat) :
    (tblFind t.sched.grids id).isSome = (tblFind s.sched.grids id).isSome := by
  have := congrArg Option.isSome (h.grid id)
  rwa [Option.isSome_map, Option.isSome_map] at this

/-- The counts that a kill gave a context stand in it. -/
theorem State.OnlyEnds.kills_of {s t : State} (h : s.OnlyEnds t) {c a b : Nat}
    (hs : (tblFind s.ctxs.live c).map Ctx.killMarks = some (a, b)) :
    ∃ y, tblFind t.ctxs.live c = some y ∧ y.kills = a ∧ y.last = b := by
  obtain ⟨y, hy, heq⟩ := Option.map_eq_some_iff.1 ((h.kills c).trans hs)
  exact ⟨y, hy, (congrArg Prod.fst heq :), (congrArg Prod.snd heq :)⟩

/-- The marks that one change of a grid gives it stand after steps that only end groups. -/
theorem State.endMarks_updGrid {s u t : State} {gid : Nat} {f : Grid → Grid} (hhome : s.AtHome u)
    (h : (u.updGrid gid f).OnlyEnds t) (hsome : (tblFind s.sched.grids gid).isSome) :
    (t.grid gid).endMarks = (f (u.grid gid)).endMarks := by
  have hu : (tblFind u.sched.grids gid).isSome := (hhome.isSome_grid gid).trans hsome
  have hupd : (tblFind (u.updGrid gid f).sched.grids gid).isSome :=
    (congrArg Option.isSome (tblFind_tblAdj_same _ _ _)).trans (by rw [Option.isSome_map]; exact hu)
  rw [h.endMarks_grid hupd, State.grid_updGrid_same hu]

theorem State.killGroupOf_eq {s : State} {core slot g : Nat} {r : Report} (hfind : (s.core core).findGroup r.uid = some (slot, g)) :
    s.killGroupOf core r = (((s.countKills (s.grid (s.team core slot).grid).ctx 1 r.code).updGrid (s.team core slot).grid fun x =>
      { x with groupKilled := true, lastFault := r.code }).detachGroup core slot g).discardFaults core [r.uid] := by
  rw [State.killGroupOf, hfind]

/-- KILL_GROUP ends the faulting group, counts it and marks its grid. -/
theorem State.killGroupOf_spec {s : State} {core slot g : Nat} {r : Report} (hfind : (s.core core).findGroup r.uid = some (slot, g)) :
    tblFind ((s.killGroupOf core r).team core slot).groups g = none ∧
      ((tblFind s.sched.grids (s.team core slot).grid).isSome →
        ((s.killGroupOf core r).grid (s.team core slot).grid).groupKilled = true ∧
          ((s.killGroupOf core r).grid (s.team core slot).grid).lastFault = r.code) ∧
      ∀ x, tblFind s.ctxs.live (s.grid (s.team core slot).grid).ctx = some x →
        ∃ y, tblFind (s.killGroupOf core r).ctxs.live (s.grid (s.team core slot).grid).ctx = some y ∧
          y.kills = min 65535 (x.kills + 1) ∧ y.last = r.code := by
  rw [State.killGroupOf_eq hfind]
  generalize hgid : (s.team core slot).grid = gid
  have hhome := s.atHome_countKills (s.grid gid).ctx 1 r.code
  have hcount := fun x (h : tblFind s.ctxs.live (s.grid gid).ctx = some x) => State.countKills_spec h 1 r.code
  generalize s.countKills (s.grid gid).ctx 1 r.code = u at hhome hcount
  have hdetach := State.onlyEnds_detachGroup (u.updGrid gid fun x => { x with groupKilled := true, lastFault := r.code }) core slot g
  have hall := hdetach.trans (State.onlyEnds_discardFaults _ core [r.uid])
  refine ⟨(State.onlyEnds_discardFaults _ core [r.uid]).gone (State.endGroup_gone _ core slot g), fun hsome => ?_, fun x hx => ?_⟩
  · have hmarks := State.endMarks_updGrid hhome hall hsome
    exact ⟨(congrArg (fun m => m.2.1) hmarks :), (congrArg (fun m => m.2.2.2) hmarks :)⟩
  · exact hall.kills_of (hcount x hx)

/-- A group that is among those detached is gone. -/
theorem State.detachGroups_gone (gs : List (Nat × Nat × Nat × Nat)) (s : State) :
    ∀ x ∈ gs, tblFind ((gs.foldl (fun s g => s.detachGroup g.1 g.2.1 g.2.2.1) s).team x.1 x.2.1).groups x.2.2.1 = none := by
  induction gs generalizing s with
  | nil => exact List.forall_mem_nil _
  | cons g gs ih =>
    refine List.forall_mem_cons.2 ⟨?_, fun x hx => ih _ x hx⟩
    exact (State.OnlyEnds.foldl (by exact fun _ _ => State.onlyEnds_detachGroup _ _ _ _) gs _).gone (State.endGroup_gone _ _ _ _)

/-- KILL_GRID ends every resident group of a grid that is not being pre-empted, and its waiting teams, and marks the grid. -/
theorem State.killGridOf_spec (s : State) (gid code : Nat) :
    (∀ x ∈ s.gridGroups gid, tblFind ((s.killGridOf gid code).team x.1 x.2.1).groups x.2.2.1 = none) ∧
      (∀ w ∈ (s.killGridOf gid code).sched.waiting, w.team.grid ≠ gid) ∧
      ((tblFind s.sched.grids gid).isSome →
        ((s.killGridOf gid code).grid gid).killed = true ∧ ((s.killGridOf gid code).grid gid).dispatching = false ∧
          ((s.killGridOf gid code).grid gid).lastFault = code) := by
  unfold State.killGridOf
  extract_lets gs out s₁ s₂ sched s₃ s₄ s₅
  have hhome : s.AtHome s₁ := s.atHome_countKills _ _ _
  have hranks : s₃.OnlyEnds s₄ := .foldl (by exact fun _ _ => .of_same rfl rfl rfl) out s₃
  have hdetach : s₄.OnlyEnds s₅ := .foldl (by exact fun _ _ => State.onlyEnds_detachGroup _ _ _ _) gs s₄
  have hdiscard := (State.OnlyEnds.foldl (f := fun (s : State) c => s.discardFaults c (gs.map (·.2.2.2)))
    (by exact fun _ _ => State.onlyEnds_discardFaults _ _ _) (tblKeys s₅.cores) s₅).trans (State.onlyEnds_calm _)
  refine ⟨fun x hx => hdiscard.gone (State.detachGroups_gone gs s₄ x hx), fun w hw => ?_, fun hsome => ?_⟩
  · rw [((hranks.trans hdetach).trans hdiscard).waiting] at hw
    exact bne_iff_ne.1 (List.mem_filter.1 hw).2
  · have hall := (hranks.trans hdetach).trans hdiscard
    have hsome₁ : (tblFind s₁.sched.grids gid).isSome := (hhome.isSome_grid gid).trans hsome
    have hsome₃ : (tblFind s₃.sched.grids gid).isSome :=
      (congrArg Option.isSome (tblFind_tblAdj_same s₁.sched.grids gid _)).trans (by rw [Option.isSome_map]; exact hsome₁)
    have hmarks : (s₃.grid gid).endMarks = (true, (s₁.grid gid).groupKilled, false, code) :=
      congrArg Grid.endMarks (State.grid_updGrid_same hsome₁ _)
    rw [← hall.endMarks_grid hsome₃] at hmarks
    exact ⟨(congrArg (fun m => m.1) hmarks :), (congrArg (fun m => m.2.2.1) hmarks :), (congrArg (fun m => m.2.2.2) hmarks :)⟩

/-! ## The obligation -/

theorem State.actionOk_retry {r : Report} (s : State) (core : Nat) (himp : r.imprecise = false) (hcode : r.code ≠ 0x0F) :
    s.actionOk core 0 r = true := by
  simp [State.actionOk, himp, hcode]

theorem State.actionOk_continue {r : Report} (s : State) (core : Nat) (himp : r.imprecise = true) (hcode : r.code ≠ 0x0F) :
    s.actionOk core 2 r = true := by
  simp [State.actionOk, himp, hcode]

theorem State.actionOk_deliver {s : State} {core slot g : Nat} {r : Report} (hcode : r.code ≠ 0x0F)
    (hfind : (s.core core).findGroup r.uid = some (slot, g)) (hout : (s.group core slot g).inTrap = false) :
    s.actionOk core 1 r = true := by
  simp [State.actionOk, State.reportInTrap, hfind, hout, hcode]

/-- Settles O35: an action that Table 15.3 allows runs once the core has drained, and the kills only end groups past what they
count and mark. -/
theorem faultActionsAndKills : Obligations.FaultActionsAndKills := by
  unfold Obligations.FaultActionsAndKills
  refine ⟨fun s core slot g r hstop hcur => ⟨fun hdrained hheld => ⟨fun himp hcode => ?_, fun himp hcode => ?_,
    fun hcode hfind hout hentry hmark => ?_⟩, fun i hi => ?_⟩, fun s core slot g r hstop hcur hdrained hfind => ⟨?_, ?_⟩⟩
  · obtain ⟨hcore, hmem, -⟩ := State.core_resumeCore hheld
    refine ⟨_, rfl, ?_⟩
    rw [State.faultAction_done hstop hcur (s.actionOk_retry core himp hcode) hdrained]
    exact ⟨hcore, hmem⟩
  · obtain ⟨hcore, hmem, -⟩ := State.core_resumeCore hheld
    refine ⟨_, rfl, ?_⟩
    rw [State.faultAction_done hstop hcur (s.actionOk_continue core himp hcode) hdrained]
    exact ⟨hcore, hmem⟩
  · refine ⟨_, rfl, ?_⟩
    rw [State.faultAction_done hstop hcur (State.actionOk_deliver hcode hfind hout) hdrained, State.deliverTo_eq hfind hentry hmark]
    have hlane := fun l hl hsome => State.lane_trapEnter (s := s) (core := core) (slot := slot) (g := g) (l := l) hsome hl
      ⟨r.code, 0, r.lanes, r.pc, r.addr, r.aux⟩
    have hflt := s.flt_trapEnter core slot g ⟨r.code, 0, r.lanes, r.pc, r.addr, r.aux⟩ core
    generalize s.trapEnter core slot g ⟨r.code, 0, r.lanes, r.pc, r.addr, r.aux⟩ = u at hlane hflt
    obtain ⟨hcore, -, hteams⟩ := State.core_resumeCore (s := u) (core := core) (by rw [hflt]; exact hheld)
    rw [hflt] at hcore
    refine ⟨(congrArg Core.flt hcore :), fun l hl hsome => ?_⟩
    rw [State.group, hteams]
    exact hlane l hl hsome
  · have herr : ∀ n act, s.actionOk core n r = false →
        (s.faultAction core n act).core core = { s.core core with flt := { (s.core core).flt with err := true } } ∧
          (s.faultAction core n act).mem = s.mem := fun n act hok => by
      rw [State.faultAction_err hcur hok]
      exact ⟨State.core_updCore_same s core _, rfl⟩
    rcases hi with ⟨rfl, hbad⟩ | ⟨rfl, hbad⟩ | ⟨rfl, hbad⟩
    · exact ⟨_, rfl, herr 0 _ (by rcases hbad with h | h <;> simp [State.actionOk, h])⟩
    · exact ⟨_, rfl, herr 2 _ (by rcases hbad with h | h <;> simp [State.actionOk, h])⟩
    · exact ⟨_, rfl, herr 1 _ (by simp [State.actionOk, hbad])⟩
  · refine ⟨_, rfl, ?_⟩
    rw [State.faultAction_done hstop hcur rfl hdrained]
    exact State.killGroupOf_spec hfind
  · refine ⟨_, rfl, ?_⟩
    rw [State.faultAction_done hstop hcur rfl hdrained]
    have hgrid : s.killGridFor core r = s.killGridOf (s.team core slot).grid r.code := by rw [State.killGridFor, hfind]
    rw [hgrid]
    exact s.killGridOf_spec _ _

end Sys2Proof.Machine
end

section
/-! SUPPORT. Reads and writes of a sound home: what they return and what they leave (for O18, O23, O36, O40). -/

namespace Sys2Proof.Machine

set_option Elab.async false

/-! ## What a move of the L2 leaves of the memory -/

namespace State.L2Moves
variable {s t : State}

theorem swept (h : s.L2Moves t) : t.mem.swept = s.mem.swept := (congrArg Mem.swept h.mem :)
theorem sweeping (h : s.L2Moves t) : t.mem.sweeping = s.mem.sweeping := (congrArg Mem.sweeping h.mem :)
theorem waiters (h : s.L2Moves t) : t.mem.waiters = s.mem.waiters := (congrArg Mem.waiters h.mem :)
theorem kind (h : s.L2Moves t) (pa : Nat) : t.mem.kind pa = s.mem.kind pa := (congrArg (fun m : Mem => m.kind pa) h.mem :)
theorem isMem (h : s.L2Moves t) (pa : Nat) : t.mem.isMem pa = s.mem.isMem pa := (congrArg (fun m : Mem => m.isMem pa) h.mem :)

theorem scrubPending (h : s.L2Moves t) (pa : Nat) : t.scrubPending pa = s.scrubPending pa := by
  rw [State.scrubPending, State.scrubPending, h.isMem, h.swept]

theorem peek (h : s.L2Moves t) (pa n : Nat) : t.peek pa n = s.peek pa n := by
  simp only [State.peek, h.scrubPending, h.cells]

theorem noLatent (h : s.L2Moves t) {k : Nat} (hk : tblFind s.mem.latent k = none) : tblFind t.mem.latent k = none :=
  tblFind_eq_none_iff.2 fun c hc => tblFind_eq_none_iff.1 hk c (h.latent c hc)

/-- A home without latent errors stays one. -/
theorem hSound (h : s.L2Moves t) (hs : s.HSound) : t.HSound := by
  refine ⟨?_, h.sound.1, h.sound.2⟩
  rw [List.eq_nil_iff_forall_not_mem]
  exact fun c hc => List.not_mem_nil (hs.1 ▸ h.latent c hc)

end State.L2Moves

theorem State.HSound.l2Sound {s : State} (h : s.HSound) : s.L2Sound := ⟨h.2.1, h.2.2⟩

theorem State.HSound.noLatent {s : State} (h : s.HSound) (k : Nat) : tblFind s.mem.latent k = none := by
  rw [h.1]; rfl

/-! ## The L2's own operations -/

/-- Where no latent error stands, a read of the memory device finds none. -/
theorem State.findError_of_noLatent {s : State} {k : Nat} (h : tblFind s.mem.latent k = none) (who : Charge) : s.findError who k = s := by
  unfold State.findError
  split
  · rfl
  · rw [h]

theorem State.findL2_of_l2Sound {s : State} (h : s.L2Sound) (who : Charge) (k : Nat) : s.findL2 who k = s := by
  unfold State.findL2
  split
  · rfl
  · next x hx => rw [(h.1 _ (mem_of_tblFind hx)).1]

theorem State.l2Moves_ideSend {s : State} (h : s.L2Sound) (i : Option Nat) : s.L2Moves (s.ideSend i) :=
  .of_link h (s.atLink_ideSend i)

theorem State.l2Moves_l2Evict {s : State} (h : s.L2Sound) (line : Nat) : s.L2Moves (s.l2Evict line) := by
  have hdrops := State.L2Moves.foldl (f := fun s i => s.l2Drop (4 * line + i)) (fun _ _ h => State.l2Moves_l2Drop h _) (List.range 4) h
  exact hdrops.trans ⟨rfl, fun _ hc => hc, rfl, rfl, hdrops.sound⟩

theorem State.l2Moves_l2Alloc {s : State} (h : s.L2Sound) (low : Bool) (k : Nat) : s.L2Moves (s.l2Alloc low k) := by
  unfold State.l2Alloc
  extract_lets line key c lows w fresh u
  have hu : s.L2Moves u := by
    change s.L2Moves (match tblFind c.ways w with
      | some old => if fresh then s.l2Evict old else s
      | none => s)
    split
    · split
      · exact State.l2Moves_l2Evict h _
      · exact .refl h
    · exact .refl h
  exact hu.trans ⟨rfl, fun _ hc => hc, rfl, rfl, hu.sound⟩

/-- A sector is read at its home slice. -/
theorem State.l2Moves_l2Read {s : State} (h : s.L2Sound) {k : Nat} (hk : tblFind s.mem.latent k = none) (who : Charge) (ch : Nat) :
    s.L2Moves (s.l2Read who ch k) := by
  have hsend := State.l2Moves_ideSend h (s.expIde (k * 64))
  unfold State.l2Read
  split
  · rw [State.findL2_of_l2Sound h]
    exact State.l2Moves_l2Alloc h _ _
  · rw [State.findError_of_noLatent (hsend.noLatent hk)]
    dsimp only
    split
    · exact hsend
    · have hall := hsend.trans (State.l2Moves_l2Alloc hsend.sound (ch == 1) k)
      refine hall.trans ⟨rfl, fun _ hc => hc, rfl, rfl, fun x hx => ?_, hall.sound.2⟩
      rcases mem_tblSet hx with rfl | hx
      · exact ⟨rfl, fun _ => rfl⟩
      · exact hall.sound.1 x hx

theorem State.l2Moves_l2Ready {s : State} (h : s.L2Sound) {whole : Bool} {k : Nat}
    (hk : whole = false → tblFind s.mem.latent k = none) (who : Charge) (ch : Nat) : s.L2Moves (s.l2Ready who ch whole k) := by
  have hsend := State.l2Moves_ideSend h (s.expIde (k * 64))
  unfold State.l2Ready
  extract_lets held u
  have hu : s.L2Moves u := by
    change s.L2Moves (if whole then s else if held then s.findL2 who k else (s.ideSend (s.expIde (k * 64))).findError who k)
    split
    · exact .refl h
    · next hwhole =>
      split
      · rw [State.findL2_of_l2Sound h]; exact .refl h
      · rw [State.findError_of_noLatent (hsend.noLatent (hk (by simpa using hwhole)))]; exact hsend
  exact hu.trans (State.l2Moves_l2Alloc hu.sound _ _)

/-- What holds of every listed record, and of a changed one where it held, holds after the change. -/
theorem forall_mem_tblAdj {β : Type} {P : β → Prop} {t : Tbl β} (h : ∀ c ∈ t, P c.2) {f : β → β} (hf : ∀ v, P v → P (f v)) (n : Nat) :
    ∀ c ∈ tblAdj t n f, P c.2 := by
  intro c hc
  unfold tblAdj at hc
  split at hc
  · next v hv =>
    rcases mem_tblSet hc with rfl | hc
    · exact hf v (h _ (mem_of_tblFind hv))
    · exact h c hc
  · exact h c hc

/-- A sector is written at its home slice. -/
theorem State.l2Moves_l2Write {s : State} (h : s.L2Sound) {whole : Bool} {k : Nat}
    (hk : whole = false → tblFind s.mem.latent k = none) (who : Charge) (ch : Nat) : s.L2Moves (s.l2Write who ch whole k) := by
  have hready := State.l2Moves_l2Ready h hk who ch
  unfold State.l2Write
  generalize s.l2Ready who ch whole k = u at hready
  extract_lets c l2
  refine hready.trans ⟨rfl, fun _ hc => hc, rfl, rfl, fun x hx => ?_, hready.sound.2⟩
  rcases mem_tblSet hx with rfl | hx
  · exact ⟨rfl, fun hd => by cases hd⟩
  · exact List.foldlRecOn (motive := fun t : Tbl L2Sector => ∀ x ∈ t, x.2.bad = none ∧ (x.2.dirty = false → x.2.under = none))
      (List.range 4) _ hready.sound.1
      (fun t ht i _ => forall_mem_tblAdj (P := fun x : L2Sector => x.bad = none ∧ (x.dirty = false → x.under = none)) ht
        (by exact fun _ hv => hv) _) x hx

/-! ## Bytes at H -/

theorem State.expLost_of_l2Sound {s : State} (h : s.L2Sound) (k : Nat) : s.expLost k = false := by
  rw [State.expLost, State.ideFailed_expIde h.2, Bool.and_false]

/-- A read of a sound home returns the bytes there, and only the L2 moves. -/
theorem State.hRead_of_l2Sound {s : State} (h : s.L2Sound) {pa n : Nat} (hk : ∀ k ∈ sectorsOf pa n, tblFind s.mem.latent k = none)
    (who : Charge) (ch : Nat) : s.L2Moves (s.hRead who ch pa n).1 ∧ (s.hRead who ch pa n).2 = s.peek pa n := by
  have hlost : (sectorsOf pa n).filter s.expLost = [] :=
    List.filter_eq_nil_iff.2 fun k _ => by rw [State.expLost_of_l2Sound h]; exact Bool.false_ne_true
  have hread : s.L2Moves ((sectorsOf pa n).foldl (fun s k => s.l2Read who ch k) s) :=
    List.foldlRecOn (motive := fun t : State => s.L2Moves t) _ _ (State.L2Moves.refl h) fun t ht k hmem =>
      ht.trans (State.l2Moves_l2Read ht.sound (ht.noLatent (hk k hmem)) who ch)
  have heq : s.hRead who ch pa n = ((sectorsOf pa n).foldl (fun s k => s.l2Read who ch k) s,
      ((sectorsOf pa n).foldl (fun s k => s.l2Read who ch k) s).peek pa n) := by
    unfold State.hRead
    rw [hlost]
    rfl
  rw [heq]
  exact ⟨hread, hread.peek pa n⟩

/-- A write to a sound home writes exactly its bytes. -/
theorem State.hWrite_of_l2Sound {s : State} (h : s.L2Sound) {pa : Nat} {bs : List Byte}
    (hk : ∀ k ∈ sectorsOf pa bs.length, wholeSector pa bs.length k = false → tblFind s.mem.latent k = none) (who : Charge) (ch : Nat) :
    ∃ u, s.L2Moves u ∧ s.hWrite who ch pa bs = { u with mem := { u.mem with cells := memWrite s.mem.cells pa bs } } := by
  have hlost : ((sectorsOf pa bs.length).filter fun k => !wholeSector pa bs.length k && s.expLost k) = [] :=
    List.filter_eq_nil_iff.2 fun k _ => by rw [State.expLost_of_l2Sound h, Bool.and_false]; exact Bool.false_ne_true
  have hwrite : s.L2Moves ((sectorsOf pa bs.length).foldl (fun s k => s.l2Write who ch (wholeSector pa bs.length k) k) s) :=
    List.foldlRecOn (motive := fun t : State => s.L2Moves t) _ _ (State.L2Moves.refl h) fun t ht k hmem =>
      ht.trans (State.l2Moves_l2Write ht.sound (fun hw => ht.noLatent (hk k hmem hw)) who ch)
  refine ⟨_, hwrite, ?_⟩
  rw [← hwrite.cells]
  unfold State.hWrite
  simp only [hlost, List.contains_nil, Bool.false_eq_true, if_false, List.isEmpty_nil, if_true]

end Sys2Proof.Machine
end

section
/-! SUPPORT. The bytes of a sector after a fill and a store (for O18, O36). -/

namespace Sys2Proof.Machine

set_option Elab.async false

/-! ## Bytes as bits -/

/-- The bits of the bytes of a mask that lie below n. -/
def spreadBelow (m : BitVec 64) (n : Nat) : Nat :=
  (List.range n).foldl (fun a i => if m.getLsbD i then a + 255 * 2 ^ (8 * i) else a) 0

theorem spreadBelow_succ (m : BitVec 64) (n : Nat) :
    spreadBelow m (n + 1) = 2 ^ (8 * n) * (if m.getLsbD n then 255 else 0) + spreadBelow m n := by
  simp only [spreadBelow, List.range_succ, List.foldl_append, List.foldl_cons, List.foldl_nil]
  split
  · ring
  · ring

/-- A bit of a spread mask is that of its byte. -/
theorem testBit_spreadBelow (m : BitVec 64) (n : Nat) :
    spreadBelow m n < 2 ^ (8 * n) ∧ ∀ j, (spreadBelow m n).testBit j = (decide (j < 8 * n) && m.getLsbD (j / 8)) := by
  induction n with
  | zero => exact ⟨by simp [spreadBelow], fun j => by simp [spreadBelow]⟩
  | succ n ih =>
    obtain ⟨hlt, hbit⟩ := ih
    have hpow : 2 ^ (8 * (n + 1)) = 2 ^ (8 * n) * 256 := by rw [Nat.mul_succ, Nat.pow_add]
    refine ⟨?_, fun j => ?_⟩
    · rw [spreadBelow_succ, hpow]
      have : (if m.getLsbD n then 255 else 0) ≤ 255 := by split <;> omega
      nlinarith
    · rw [spreadBelow_succ, Nat.testBit_two_pow_mul_add _ hlt]
      by_cases hj : j < 8 * n
      · rw [if_pos hj, hbit]
        simp [hj, show j < 8 * (n + 1) by omega]
      · rw [if_neg hj]
        by_cases hin : j < 8 * (n + 1)
        · have hbyte : j / 8 = n := by omega
          rw [hbyte]
          cases m.getLsbD n with
          | false => simp
          | true =>
            have : (255 : Nat) = 2 ^ 8 - 1 := rfl
            simp only [if_true, this, Nat.testBit_two_pow_sub_one, hin, decide_true, Bool.true_and, decide_eq_true_eq]
            omega
        · have h255 : ∀ c : Bool, (if c then 255 else 0 : Nat).testBit (j - 8 * n) = false := fun c => by
            cases c with
            | false => simp
            | true =>
              have : (255 : Nat) = 2 ^ 8 - 1 := rfl
              simp only [if_true, this, Nat.testBit_two_pow_sub_one, decide_eq_false_iff_not]
              omega
          rw [h255]
          simp [hin]

/-- A byte of a merge is the new one under the mask, and else the one that stood. -/
theorem Sector.byte_merge (x : Sector) (m : BitVec 64) (d : BitVec 512) {i : Nat} (hi : i < 64) :
    (x.merge m d).extractLsb' (8 * i) 8 = if m.getLsbD i then d.extractLsb' (8 * i) 8 else x.byte i := by
  have hspread : spreadMask m = spreadBelow m 64 := rfl
  refine BitVec.eq_of_getLsbD_eq fun j hj => ?_
  have hbyte : (8 * i + j) / 8 = i := by omega
  have hlt : 8 * i + j < 512 := by omega
  have hmask : (BitVec.ofNat 512 (spreadMask m)).getLsbD (8 * i + j) = m.getLsbD i := by
    rw [hspread, BitVec.getLsbD_ofNat, (testBit_spreadBelow m 64).2, hbyte]
    simp [hlt]
  have hm : (x.merge m d).getLsbD (8 * i + j) = if m.getLsbD i then d.getLsbD (8 * i + j) else x.data.getLsbD (8 * i + j) := by
    simp only [Sector.merge, BitVec.getLsbD_or, BitVec.getLsbD_and, BitVec.getLsbD_not, hmask, hlt, decide_true, Bool.true_and]
    cases m.getLsbD i <;> simp
  rw [BitVec.getLsbD_extractLsb', hm]
  split
  · rw [BitVec.getLsbD_extractLsb']
  · rw [Sector.byte, BitVec.getLsbD_extractLsb']

/-- A byte of the little-endian number of a list is the list's. -/
theorem byte_leNat (bs : List Byte) (i : Nat) : leNat bs / 256 ^ i % 256 = (bs.getD i 0).toNat := by
  induction bs generalizing i with
  | nil => simp [leNat]
  | cons b bs ih =>
    have hb : b.toNat < 256 := b.isLt
    cases i with
    | zero =>
      simp only [leNat, Nat.pow_zero, Nat.div_one, List.getD_cons_zero]
      omega
    | succ i =>
      have hdiv : (b.toNat + 256 * leNat bs) / 256 ^ (i + 1) = leNat bs / 256 ^ i := by
        rw [Nat.pow_succ', ← Nat.div_div_eq_div_mul, show (b.toNat + 256 * leNat bs) / 256 = leNat bs by omega]
      rw [leNat, hdiv, ih]
      rfl

theorem extractLsb'_ofNat_leNat (bs : List Byte) {i : Nat} (hi : i < 64) :
    (BitVec.ofNat 512 (leNat bs)).extractLsb' (8 * i) 8 = bs.getD i 0 := by
  refine BitVec.eq_of_toNat_eq ?_
  rw [BitVec.extractLsb'_toNat, BitVec.toNat_ofNat, ← byte_leNat, Nat.shiftRight_eq_div_pow]
  have h256 : (256 : Nat) ^ i = 2 ^ (8 * i) := by rw [show (256 : Nat) = 2 ^ 8 from rfl, ← Nat.pow_mul]
  obtain ⟨r, hr⟩ : ∃ r, 512 = 8 * i + (8 + r) := ⟨504 - 8 * i, by omega⟩
  rw [h256, hr, Nat.pow_add, Nat.pow_add, Nat.mod_mul_right_div_self, Nat.mod_mul_right_mod]

/-- R67: a fill keeps a dirty byte and takes any other. -/
theorem Sector.byte_fill (x : Sector) (bs : List Byte) {i : Nat} (hi : i < 64) :
    (x.fill bs).byte i = if x.dm.getLsbD i then x.byte i else bs.getD i 0 := by
  refine (x.byte_merge (~~~x.dm) _ hi).trans ?_
  rw [extractLsb'_ofNat_leNat bs hi, BitVec.getLsbD_not]
  cases x.dm.getLsbD i <;> simp [hi]

end Sys2Proof.Machine
end

section
/-! SUPPORT. Fills, evictions, sweeps and removals (O36). -/

namespace Sys2Proof.Machine

set_option Elab.async false

/-! ## A sector is filled -/

theorem sectorsOf_sector (k : Nat) : sectorsOf (k * 64) 64 = [k] := by
  have hone : (k * 64 + 64 - 1) / 64 - k * 64 / 64 + 1 = 1 := by omega
  have hfirst : k * 64 / 64 = k := by omega
  rw [sectorsOf, if_neg (by decide), hone, hfirst]
  simp

/-- FILL at a sound home: the sector takes what stands at H, and only the L2 moves past it. -/
theorem State.l1Fill_spec {s : State} (h : s.L2Sound) {k : Nat} (hk : tblFind s.mem.latent k = none) (id : Nat) (who : Charge) (ch : Nat) :
    s.L2Moves (s.l1Fill id k who ch) ∧ (s.l1Fill id k who ch).sector id k = (s.sector id k).fill (s.peek (k * 64) 64) := by
  obtain ⟨hmoves, hbytes⟩ := State.hRead_of_l2Sound h (pa := k * 64) (n := 64) (by rw [sectorsOf_sector]; simpa using hk) who ch
  have hl1 := (s.atH_hRead who ch (k * 64) 64).l1
  unfold State.l1Fill
  generalize s.hRead who ch (k * 64) 64 = r at hmoves hbytes hl1
  obtain ⟨u, bs⟩ := r
  refine ⟨hmoves.trans ⟨rfl, fun _ hc => hc, rfl, rfl, hmoves.sound⟩, ?_⟩
  have hat : (u.updL1 id fun l => { l with sectors := tblUpd Sector.absent l.sectors k fun x => x.fill bs }).l1At id =
      { u.l1At id with sectors := tblUpd Sector.absent (u.l1At id).sectors k fun x => x.fill bs } := State.l1At_updL1_same _ _ _
  have hbefore : u.l1At id = s.l1At id := congrArg (fun t => tblGet L1.reset t id) hl1
  have hbs : bs = s.peek (k * 64) 64 := hbytes
  rw [State.sector, hat, State.sector, hbefore, ← hbs]
  exact (tblGet_tblUpd_same Sector.absent (s.l1At id).sectors k fun x => x.fill bs :)

/-- A line that has its way keeps it: no other line leaves. -/
theorem State.makeRoom_of_held {s : State} {id line w : Nat} (hway : ((s.l1At id).set id line).wayOf line = some w)
    (hline : tblFind ((s.l1At id).set id line).ways w = some line) (filler : Option (Nat × Nat)) :
    s.makeRoom id line filler = s.updL1 id fun c =>
      { c with sets := tblSet c.sets (line % l1Sets id) ((c.set id line).put 3 w line) } := by
  have hplace : ∀ ok, ((s.l1At id).set id line).place 3 line ok = w := fun ok => by rw [CacheSet.place, hway]
  unfold State.makeRoom
  simp only [hplace, hline, if_true]

/-! ## Dirty bytes go to H -/

/-- The byte at H: 0 while its page is pending (R45). -/
def State.homeByte (s : State) (a : Nat) : Byte := if s.scrubPending a then 0 else memGet s.mem.cells a

theorem State.L2Moves.homeByte {s t : State} (h : s.L2Moves t) (a : Nat) : t.homeByte a = s.homeByte a := by
  rw [State.homeByte, State.homeByte, h.scrubPending, h.cells]

theorem State.l1Error_of_noLatent {s : State} {id k : Nat} (h : tblFind (s.l1At id).latent k = none) (who : Option Charge) :
    s.l1Error id k who = s := by
  rw [State.l1Error, h]

/-- The page of a sector is that of each of its bytes. -/
theorem pageOf_sector (k : Nat) {i : Nat} (hi : i < 64) : pageOf (k * 64 + i) = pageOf (k * 64) := by
  rw [pageOf, pageOf]; omega

/-- After the sweep that a write at H needs, the sector's page is not pending, and its bytes are those at H. -/
theorem State.sweepAt_spec {s : State} (h : s.L2Sound) {k : Nat} (hmem : ∀ i, i < 64 → s.mem.isMem (k * 64 + i) = s.mem.isMem (k * 64))
    (hk : tblFind s.mem.latent k = none) :
    (s.sweepAt (k * 64)).L2Sound ∧ tblFind (s.sweepAt (k * 64)).mem.latent k = none ∧
      ∀ i, i < 64 → (s.sweepAt (k * 64)).scrubPending (k * 64 + i) = false ∧
        memGet (s.sweepAt (k * 64)).mem.cells (k * 64 + i) = s.homeByte (k * 64 + i) := by
  have hsame : ∀ i, i < 64 → s.scrubPending (k * 64 + i) = s.scrubPending (k * 64) := fun i hi => by
    rw [State.scrubPending, State.scrubPending, hmem i hi, pageOf_sector k hi]
  unfold State.sweepAt
  split
  · next hp =>
    refine ⟨h, ?_, fun i hi => ⟨?_, ?_⟩⟩
    · exact tblFind_eq_none_iff.2 fun c hc => tblFind_eq_none_iff.1 hk c (List.mem_of_mem_filter hc)
    · have hswept : (s.sweepPage (pageOf (k * 64))).mem.swept.contains (pageOf (k * 64 + i)) = true := by
        rw [pageOf_sector k hi]
        simp only [State.sweepPage]
        split
        · assumption
        · simp
      rw [State.scrubPending, hswept, Bool.not_true, Bool.and_false]
    · have hin : pageOf (k * 64) * 65536 ≤ k * 64 + i ∧ k * 64 + i < pageOf (k * 64) * 65536 + 65536 := by
        have := pageOf_sector k hi
        rw [pageOf] at this ⊢
        omega
      rw [State.homeByte, hsame i hi, if_pos hp]
      exact (memGet_memErase _ _ _ _).trans (if_pos hin)
  · next hp =>
    have hp : s.scrubPending (k * 64) = false := by simpa using hp
    refine ⟨h, hk, fun i hi => ⟨(hsame i hi).trans hp, ?_⟩⟩
    rw [State.homeByte, hsame i hi, hp]
    rfl

/-- Bytes of a mask are written and no others. -/
theorem memGet_foldl_memSet (dm : BitVec 64) (f : Nat → Byte) (b n : Nat) (m : Memory) (a : Nat) :
    memGet ((List.range n).foldl (fun m i => if dm.getLsbD i then memSet m (b + i) (f i) else m) m) a =
      if b ≤ a ∧ a < b + n ∧ dm.getLsbD (a - b) = true then f (a - b) else memGet m a := by
  induction n with
  | zero => rw [if_neg (by omega)]; rfl
  | succ n ih =>
    rw [List.range_succ, List.foldl_append, List.foldl_cons, List.foldl_nil]
    by_cases ha : a = b + n
    · subst ha
      have hsub : b + n - b = n := by omega
      rw [hsub]
      cases hd : dm.getLsbD n with
      | true => rw [if_pos rfl, memGet_memSet, if_pos rfl, if_pos ⟨by omega, by omega, rfl⟩]
      | false =>
        rw [if_neg Bool.false_ne_true, ih, if_neg (by omega), if_neg (fun h => by cases h.2.2)]
    · have hsame : memGet (if dm.getLsbD n = true then memSet
          ((List.range n).foldl (fun m i => if dm.getLsbD i then memSet m (b + i) (f i) else m) m) (b + n) (f n)
          else (List.range n).foldl (fun m i => if dm.getLsbD i then memSet m (b + i) (f i) else m) m) a =
          memGet ((List.range n).foldl (fun m i => if dm.getLsbD i then memSet m (b + i) (f i) else m) m) a := by
        split
        · rw [memGet_memSet, if_neg ha]
        · rfl
      rw [hsame, ih]
      have hiff : (b ≤ a ∧ a < b + n ∧ dm.getLsbD (a - b) = true) ↔ (b ≤ a ∧ a < b + (n + 1) ∧ dm.getLsbD (a - b) = true) := by
        constructor
        · rintro ⟨h1, h2, h3⟩; exact ⟨h1, by omega, h3⟩
        · rintro ⟨h1, h2, h3⟩; exact ⟨h1, by omega, h3⟩
      simp only [hiff]

/-- R68: the dirty bytes of a sector go to H, and its other bytes there stay. -/
theorem State.homeByte_writeDirty {s : State} (h : s.L2Sound) {k : Nat}
    (hmem : ∀ i, i < 64 → s.mem.isMem (k * 64 + i) = s.mem.isMem (k * 64)) (hk : tblFind s.mem.latent k = none) (x : Sector) :
    ∀ i, i < 64 → (s.writeDirty k x).homeByte (k * 64 + i) = if x.dm.getLsbD i then x.byte i else s.homeByte (k * 64 + i) := by
  unfold State.writeDirty
  extract_lets whole u cells
  intro i hi
  split
  · next hdm =>
    rw [eq_of_beq hdm]
    simp
  · rw [if_neg (by rw [State.expLost_of_l2Sound h, Bool.and_false]; exact Bool.false_ne_true)]
    obtain ⟨hsound, hlatent, hbytes⟩ := State.sweepAt_spec h hmem hk
    have hu : (s.sweepAt (k * 64)).L2Moves u := State.l2Moves_l2Write hsound (fun _ => hlatent) _ _
    obtain ⟨hclean, hbyte⟩ := hbytes i hi
    have hpend : State.scrubPending { u with mem := { u.mem with cells := cells } } (k * 64 + i) = false :=
      (hu.scrubPending _).trans hclean
    rw [State.homeByte, hpend, if_neg Bool.false_ne_true]
    refine (memGet_foldl_memSet x.dm x.byte (k * 64) 64 u.mem.cells (k * 64 + i)).trans ?_
    rw [hu.cells, hbyte, Nat.add_sub_cancel_left]
    by_cases hd : x.dm.getLsbD i = true
    · rw [if_pos ⟨by omega, by omega, hd⟩, if_pos hd]
    · rw [if_neg (fun hh => hd hh.2.2), if_neg hd]

/-! ## Patrol reads and removals -/

/-- A patrol read that finds an uncorrectable error: the memory's sector is zeros, and what the L2 holds of it stays. -/
theorem State.patrol_spec {s : State} {k : Nat} (hclean : s.scrubPending (k * 64) = false)
    (hlatent : tblFind s.mem.latent k = some .uncorrectable) :
    (s.findError .unowned k).mem = ({ s.mem with latent := tblDel s.mem.latent k } : Mem).zeroSector k ∧
      tblGet 0 (s.findError .unowned k).mgmt.ueUnowned (dieOf (k * 64)) = satInc 32 (tblGet 0 s.mgmt.ueUnowned (dieOf (k * 64))) := by
  have hfind : s.findError .unowned k =
      ({ s with mem := ({ s.mem with latent := tblDel s.mem.latent k } : Mem).zeroSector k }).chargeLoss .unowned (dieOf (k * 64)) := by
    rw [State.findError, hlatent]
    exact if_neg (by rw [hclean]; exact Bool.false_ne_true)
  rw [hfind]
  unfold State.chargeLoss
  dsimp -zeta only
  extract_lets n m mg t
  have hset : tblGet 0 t.mgmt.ueUnowned (dieOf (k * 64)) = satInc 32 n := tblGet_tblSet_same _ _ _ _
  split
  · next hfull => exact ⟨rfl, hfull.symm⟩
  · have hlink := t.atLink_msi 80
    exact ⟨hlink.mem, (congrArg (fun m : Mgmt => tblGet 0 m.ueUnowned (dieOf (k * 64))) hlink.mgmt).trans hset⟩

/-- What the memory and the L2 hold once a memory device has written a sector as zeros. -/
theorem Mem.zeroSector_spec (m : Mem) (k : Nat) :
    (m.zeroSector k).latent = m.latent ∧
      (∀ a, memGet (m.zeroSector k).cells a =
        if k * 64 ≤ a ∧ a < k * 64 + 64 ∧ (tblFind m.l2 k).isNone then 0 else memGet m.cells a) ∧
      ∀ x, tblFind m.l2 k = some x → ∃ y, tblFind (m.zeroSector k).l2 k = some y ∧ y.dirty = x.dirty ∧
        (x.dirty = false → y.under = some (List.replicate 64 0)) := by
  unfold Mem.zeroSector
  split
  · next h =>
    refine ⟨rfl, fun a => ?_, fun x hx => by rw [h] at hx; cases hx⟩
    rw [h]
    simpa using memGet_memErase m.cells (k * 64) 64 a
  · next x h =>
    refine ⟨rfl, fun a => ?_, fun y hy => ?_⟩
    · rw [if_neg (by rw [h]; simp)]
    · rw [h] at hy
      obtain rfl := Option.some.inj hy
      exact ⟨_, tblFind_tblSet_same _ _ _, rfl, fun hd => by rw [hd]; rfl⟩

/-- R33: the range of a device that has left is no memory. -/
theorem Mem.kind_of_removed {m : Mem} {pa : Nat} (hremoved : m.isRemoved pa = true) (hexp : expFirst ≤ pa) (hhost : pa < hostFirst) :
    m.kind pa = .hole := by
  have hexp' : 0x080000000000 ≤ pa := hexp
  have hhost' : pa < 0x100000000000 := hhost
  unfold Mem.kind farFirst hostFirst
  rw [if_neg (by omega), if_neg (by simp; omega), if_neg (by simp; omega), hremoved, if_neg (by simp), if_neg (by simp; omega)]

/-! ## The obligation -/

/-- Settles O36. -/
theorem fillsSweepsAndRemovals : Obligations.FillsSweepsAndRemovals := by
  unfold Obligations.FillsSweepsAndRemovals
  refine ⟨fun s id k w huse hl1 hmem hl2 hfail => ?_, fun s page core line sector device => ⟨fun hsweep => ?_, fun hzeroed => ?_,
    fun hhead hzeroed => ?_, fun hismem hclean hlatent => ?_, fun hdev hin => ?_⟩⟩
  · intro x home hconst
    have hsound : s.L2Sound := ⟨hl2, hfail⟩
    refine ⟨fun hismem hway hline => ?_, fun hsector => ?_⟩
    · have hexec : exec (.fill id k) s = .next ((s.makeRoom id (k / 4) none).l1Fill id k .unowned (s.hintOf id (k * 64))) :=
        if_pos (by rw [huse, hismem]; rfl)
      rw [State.makeRoom_of_held hway hline] at hexec
      generalize hf : (fun c : L1 => { c with sets := tblSet c.sets (k / 4 % l1Sets id) ((c.set id (k / 4)).put 3 w (k / 4)) }) = f at hexec
      obtain ⟨hmoves, hfilled⟩ := State.l1Fill_spec (s := s.updL1 id f) hsound (k := k) hmem id .unowned (s.hintOf id (k * 64))
      have hbefore : (s.updL1 id f).sector id k = x := by
        rw [State.sector, State.l1At_updL1_same, ← hf]; rfl
      rw [hbefore] at hfilled
      refine ⟨_, hexec, by rw [hfilled]; rfl, by rw [hfilled]; rfl, hmoves.cells, fun i hi => ?_⟩
      rw [hfilled, Sector.byte_fill _ _ hi]
      split
      · rfl
      · simp [State.peek, hi, home]
        rfl
    · have hexec : exec (.evict id k) s = .next (s.sflush id k) := if_pos (by rw [huse, hsector]; rfl)
      have hflush : s.sflush id k = (s.writeDirty k x).updL1 id fun l => { l with sectors := tblDel l.sectors k } := by
        rw [State.sflush, State.l1Error_of_noLatent hl1]
      rw [hflush] at hexec
      refine ⟨_, hexec, ?_, fun i hi => State.homeByte_writeDirty hsound hconst hmem x i hi⟩
      rw [State.l1At_updL1_same]
      exact tblFind_tblDel_same _ _
  · refine ⟨s.sweepPage page, congrArg Host.Outcome.next (if_pos hsweep), ?_, ?_, fun a => memGet_memErase _ _ _ a,
      tblGet_tblUpd_same _ _ _ _, rfl⟩
    · simp only [State.sweepPage]
      split
      · assumption
      · simp
    · simp [State.sweepPage]
  · exact if_neg (by rw [hzeroed]; simp)
  · have hexec : exec (.scratchLineZeroed core line) s = .next (s.updCore core Core.zeroHead) :=
      if_pos (by rw [hhead, hzeroed]; simp)
    refine ⟨_, hexec, ?_⟩
    rw [State.core_updCore_same]
    cases hz : (s.core core).zeroing with
    | nil => rw [hz] at hhead; cases hhead
    | cons l rest =>
      rw [hz] at hhead
      obtain rfl : l = line := Option.some.inj hhead
      have hzero : (s.core core).zeroHead = { s.core core with
          zeroing := rest, zeroed := true, spad := memErase (s.core core).spad (l * 256) 256,
          latent := (s.core core).latent.filter fun e => e.1 / 4 != l } := by rw [Core.zeroHead, hz]
      rw [hzero]
      exact ⟨rfl, fun a => memGet_memErase _ _ _ a, rfl⟩
  · have hexec : exec (.patrolRead sector) s = .next (s.findError .unowned sector) := congrArg Host.Outcome.next (if_pos hismem)
    obtain ⟨hmem, hcount⟩ := State.patrol_spec hclean hlatent
    obtain ⟨hlat, hcells, hl2⟩ := Mem.zeroSector_spec { s.mem with latent := tblDel s.mem.latent sector } sector
    refine ⟨_, hexec, ?_, fun a => ?_, fun x hx => ?_, hcount⟩
    · rw [hmem, hlat]; exact tblFind_tblDel_same _ _
    · rw [hmem]; exact hcells a
    · rw [hmem]; exact hl2 x hx
  · have hexec : exec (.expansionHotRemove device) s = .next { s with mem := { s.mem with removed := device :: s.mem.removed } } :=
      if_pos (by rw [hin]; simpa using hdev)
    refine ⟨_, hexec, rfl, rfl, fun d pa hd hlo hhi hexp hhost => Mem.kind_of_removed ?_ hexp hhost⟩
    simp only [Mem.isRemoved, List.any_cons, hd]
    simp [hlo, hhi]

end Sys2Proof.Machine
end

section
/-! SUPPORT. Walks and remote requests (O37). -/

namespace Sys2Proof.Machine

set_option Elab.async false

/-! ## The end of a walk -/

/-- A core as a walk ends for it. -/
def Core.walked (k : Core) (ctx vpn : Nat) : Core := { k with walks := k.walks.filter (· != (ctx, vpn)) }

theorem contains_filter_ne {α : Type} [BEq α] [LawfulBEq α] (l : List α) (a : α) : (l.filter (· != a)).contains a = false := by
  simp

/-- A core that waits for a walk takes what the walk gives, and the walk is over. -/
theorem State.core_endWalk {s : State} {core ctx vpn : Nat} (h : (s.core core).walks.contains (ctx, vpn) = true) (f : Core → Core) :
    (s.endWalk (clusterOf core) ctx vpn f).core core = f ((s.core core).walked ctx vpn) := by
  have hsome : (tblFind s.cores core).isSome := by
    cases hfind : tblFind s.cores core with
    | some k => rfl
    | none =>
      have : s.core core = Core.reset (core % 256) := by rw [State.core, tblGet_eq_find, hfind]; rfl
      rw [this] at h
      cases h
  have hmap := tblGet_tblMap (Core.reset (core % 256)) (fun c k =>
    if clusterOf c == clusterOf core && k.walks.contains (ctx, vpn) then f (k.walked ctx vpn) else k) s.cores core hsome
  refine hmap.trans (if_pos ?_)
  have h' : (tblGet (Core.reset (core % 256)) s.cores core).walks.contains (ctx, vpn) = true := h
  rw [h', beq_self_eq_true]
  rfl

theorem State.cluster_endWalk (s : State) (cl ctx vpn : Nat) (f : Core → Core) :
    (s.endWalk cl ctx vpn f).cluster cl = { s.cluster cl with walks := (s.cluster cl).walks.filter (· != (ctx, vpn)) } :=
  State.cluster_updCluster_same { s with cores := _ } cl _

/-- No core of the cluster waits for the walk any more, nor does its walker. -/
theorem State.endWalk_over (s : State) (cl ctx vpn : Nat) {f : Core → Core} (hf : ∀ k, (f k).walks = k.walks) :
    (∀ c, clusterOf c = cl → ((s.endWalk cl ctx vpn f).core c).walks.contains (ctx, vpn) = false) ∧
      ((s.endWalk cl ctx vpn f).cluster cl).walks.contains (ctx, vpn) = false := by
  refine ⟨fun c hc => ?_, ?_⟩
  · have hcore : (s.endWalk cl ctx vpn f).core c = tblGet (Core.reset (c % 256)) (tblMap (fun c k =>
        if clusterOf c == cl && k.walks.contains (ctx, vpn) then f (k.walked ctx vpn) else k) s.cores) c := rfl
    rw [hcore, tblGet_eq_find, tblFind_tblMap]
    cases tblFind s.cores c with
    | none => rfl
    | some k =>
      simp only [Option.map_some, Option.getD_some]
      split
      · rw [hf]; exact contains_filter_ne _ _
      · next hno =>
        rw [hc, beq_self_eq_true, Bool.true_and] at hno
        simpa using hno
  · rw [State.cluster_endWalk]
    exact contains_filter_ne _ _

theorem Core.walks_takeWalk (ctx vpn : Nat) (w : WalkRes) (k : Core) : (k.takeWalk ctx vpn w).walks = k.walks := by
  cases w with
  | leaf e => rfl
  | hole e level => rfl
  | bad code level => rfl

theorem exec_walkComplete_of {s t : State} {core ctx vpn root : Nat} {w : WalkRes}
    (hin : (s.core core).walks.contains (ctx, vpn) = true)
    (hflight : ((s.cluster (clusterOf core)).walks.take 128).contains (ctx, vpn) = true) (hroot : s.rootFor core ctx = some root)
    (hlook : s.lookup (clusterOf core) ctx root (vpn * 65536) = (t, w)) :
    exec (.walkComplete core ctx vpn) s = .next (t.endWalk (clusterOf core) ctx vpn (Core.takeWalk ctx vpn w)) := by
  have hexec : exec (.walkComplete core ctx vpn) s = execWalkComplete core ctx vpn s := rfl
  rw [hexec, execWalkComplete, hroot]
  refine (if_neg (by rw [hin, walksInFlight, hflight]; decide)).trans ?_
  dsimp only
  rw [hlook]

/-- What the end of a walk leaves: each core that waited has its result. -/
theorem exec_walkComplete_spec {s t : State} {core ctx vpn root : Nat} {w : WalkRes}
    (hin : (s.core core).walks.contains (ctx, vpn) = true)
    (hflight : ((s.cluster (clusterOf core)).walks.take 128).contains (ctx, vpn) = true) (hroot : s.rootFor core ctx = some root)
    (hcores : t.cores = s.cores) (hlook : s.lookup (clusterOf core) ctx root (vpn * 65536) = (t, w)) :
    ∃ v, exec (.walkComplete core ctx vpn) s = .next v ∧
      ((∀ c, clusterOf c = clusterOf core → (v.core c).walks.contains (ctx, vpn) = false) ∧
        (v.cluster (clusterOf core)).walks.contains (ctx, vpn) = false) ∧
      v.core core = Core.takeWalk ctx vpn w ((s.core core).walked ctx vpn) ∧
      (v.cluster (clusterOf core)).tlb = (t.cluster (clusterOf core)).tlb := by
  have hcore : t.core core = s.core core := by rw [State.core, hcores]; rfl
  refine ⟨_, exec_walkComplete_of hin hflight hroot hlook, t.endWalk_over _ ctx vpn (Core.walks_takeWalk ctx vpn w), ?_,
    (congrArg Cluster.tlb (t.cluster_endWalk _ _ _ _) :)⟩
  rw [State.core_endWalk (by rw [hcore]; exact hin), hcore]

/-! ## Remote requests -/

theorem execRemote_of {s : State} {core id c r g co off : Nat} {i : Item} (hitem : (s.core core).item id = some i)
    (hplace : i.place = .rank c r g co off) (hpoint : i.act.isPoint = false) (hfab : i.inFab = false) (hblocked : s.blocked core i = false)
    (hentry : ((s.cluster c).rankEntry g co r).isSome) (hspot : s.rankSpot i.place i.act.size = none) :
    exec (.remoteScratchRequest core id) s = if s.viaSwitch i && (s.rankAt c r g co).isSome then .next s
      else .next ((s.waitRank i.place ⟨some core, id⟩).stampSent core id) := by
  have hexec : exec (.remoteScratchRequest core id) s = execRemoteScratchRequest core id s := rfl
  have hgo : (i.act.isPoint || i.inFab || s.blocked core i || ((s.cluster c).rankEntry g co r).isNone) = false := by
    rw [hpoint, hfab, hblocked, Option.isNone_eq_false_iff.2 hentry]; rfl
  rw [hexec, execRemoteScratchRequest, hitem]
  simp only [hplace, hgo, Bool.false_eq_true, if_false]
  rw [← hplace, hspot]
  simp

theorem Item.stamped (i : Item) (a : Nat × Nat) :
    (if i.sent.isNone then { i with sent := some a } else i) = { i with sent := some (i.sent.getD a) } := by
  match i with
  | { sent := none, .. } => rfl
  | { sent := some _, .. } => rfl

/-- An item that is stamped as sent keeps the time of its first sending. -/
theorem Core.item_stampSent {s : State} {core id : Nat} {i : Item} (hitem : (s.core core).item id = some i) :
    ((s.stampSent core id).core core).item id = some { i with sent := some (i.sent.getD (s.ns, s.stamp)) } := by
  have hid : (i.id == id) = true := List.find?_some (p := fun i : Item => i.id == id) hitem
  rw [State.stampSent, State.core_updCore_same]
  have hkeep : ((fun i : Item => i.id == id) ∘ fun i : Item =>
      if i.id == id && i.sent.isNone then { i with sent := some (s.ns, s.stamp) } else i) = fun i => i.id == id := by
    funext j
    simp only [Function.comp]
    split <;> rfl
  have hfind : (s.core core).queue.find? (fun i => i.id == id) = some i := hitem
  rw [Core.item, List.find?_map, hkeep, hfind]
  simp only [Option.map_some, hid, Bool.true_and]
  exact congrArg some (Item.stamped i (s.ns, s.stamp))

theorem State.core_stampSent_ne (s : State) {core c : Nat} (id : Nat) (h : c ≠ core) : (s.stampSent core id).core c = s.core c :=
  State.core_updCore_ne _ _ h

/-- Stamping an item as sent leaves all but its queue. -/
theorem State.stampSent_rest (s : State) (core id c : Nat) :
    ((s.stampSent core id).core c).spad = (s.core c).spad ∧ ((s.stampSent core id).core c).remote = (s.core c).remote := by
  by_cases h : c = core
  · subst h
    rw [State.stampSent, State.core_updCore_same]
    exact ⟨rfl, rfl⟩
  · rw [State.core_stampSent_ne _ _ h]
    exact ⟨rfl, rfl⟩

theorem State.cluster_stampSent (s : State) (core id c : Nat) : (s.stampSent core id).cluster c = s.cluster c := rfl

/-- A request to a rank that moves joins the hold buffer. -/
theorem State.waitRank_moving {s : State} {c r g co off id core : Nat} (hat : s.rankAt c r g co = none)
    (hnew : (s.cluster c).hold.any (·.item == id) = false) (hroom : (s.cluster c).hold.length < 256) :
    s.waitRank (.rank c r g co off) ⟨core, id⟩ = s.updCluster c fun y => { y with hold := y.hold ++ [⟨core, id⟩] } := by
  simp only [State.waitRank, hat, hnew]
  exact if_neg (by simp; omega)

/-- A request that meets an absent line joins those that wait at its target, and leaves the hold buffer. -/
theorem State.waitRank_waits {s : State} {c r g co off id core tgt slot : Nat} (hat : s.rankAt c r g co = some (tgt, slot))
    (hnew : (s.core tgt).remote.any (·.item == id) = false) (hroom : (s.core tgt).remote.length < 64) :
    s.waitRank (.rank c r g co off) ⟨core, id⟩ = (s.updCore tgt fun x => { x with remote := x.remote ++ [⟨core, id⟩] }).updCluster c fun y =>
      { y with hold := y.hold.filter (·.item != id) } := by
  simp only [State.waitRank, hat, hnew]
  exact if_neg (by simp; omega)

/-- A leaf that a walk has found joins the shared TLB. -/
def State.keepLeaf (u : State) (cl : Nat) : WalkRes → State
  | .leaf e => u.updCluster cl fun c => { c with tlb := tlbAdd 16 2048 c.tlb e }
  | _ => u

theorem State.cores_keepLeaf (u : State) (cl : Nat) (w : WalkRes) : (u.keepLeaf cl w).cores = u.cores := by
  cases w with
  | leaf e => rfl
  | hole e level => rfl
  | bad code level => rfl

/-- A walk whose leaf the shared TLB has not: its result, and the leaf joins the shared TLB. -/
theorem State.lookup_of_walk {s u : State} {cl ctx root va : Nat} {w : WalkRes} (hmiss : tlbFind (s.cluster cl).tlb ctx va = none)
    (hwalk : s.clusterWalk cl ctx root va = (u, w)) :
    u.cores = s.cores ∧ s.lookup cl ctx root va = (u.keepLeaf cl w, w) := by
  have hcores := (s.atH_clusterWalk cl ctx root va).home.cores
  rw [hwalk] at hcores
  refine ⟨hcores, ?_⟩
  rw [State.lookup, hmiss]
  dsimp only
  rw [hwalk]
  cases w with
  | leaf e => rfl
  | hole e level => rfl
  | bad code level => rfl

/-- Settles O37. -/
theorem walksAndRemoteRequests : Obligations.WalksAndRemoteRequests := by
  unfold Obligations.WalksAndRemoteRequests
  refine ⟨fun s u core ctx vpn code level root e hin => ⟨fun hflight => ?_, fun hflight hroot => ?_, fun hflight hroot hhit => ?_,
    fun hflight hroot hmiss => ?_⟩, fun s core id c r g co off tgt slot i hitem hplace hpoint hfab hblocked hentry =>
    ⟨fun hat hnew hroom => ?_, fun hat hlines => ⟨fun hvia => ?_, fun hvia hnew hroom => ?_⟩⟩⟩
  · refine Eq.trans (b := execWalkComplete core ctx vpn s) rfl (if_pos ?_)
    have hflight : ((s.cluster (clusterOf core)).walks.take walksInFlight).contains (ctx, vpn) = false := hflight
    rw [hflight]; simp
  · have hflight : ((s.cluster (clusterOf core)).walks.take walksInFlight).contains (ctx, vpn) = true := hflight
    have hexec : exec (.walkComplete core ctx vpn) s = .next (s.endWalk (clusterOf core) ctx vpn id) := by
      refine Eq.trans (b := execWalkComplete core ctx vpn s) rfl ?_
      rw [execWalkComplete, hroot]
      exact if_neg (by rw [hin, hflight]; decide)
    exact ⟨_, hexec, s.endWalk_over _ ctx vpn fun _ => rfl, (congrArg Core.tlb (State.core_endWalk hin id) :)⟩
  · have hlook : s.lookup (clusterOf core) ctx root (vpn * 65536) = (s, .leaf e) := by rw [State.lookup, hhit]
    obtain ⟨v, hv, hended, hcore, -⟩ := exec_walkComplete_spec hin hflight hroot rfl hlook
    exact ⟨v, hv, hended, (congrArg Core.tlb hcore :)⟩
  · have huc : u.cores = s.cores → u.core core = s.core core := fun hu => by rw [State.core, hu]; rfl
    refine ⟨fun hwalk => ?_, fun hwalk => ?_, fun hwalk => ?_⟩
    · obtain ⟨hu, hlook⟩ := State.lookup_of_walk hmiss hwalk
      obtain ⟨v, hv, hended, hcore, htlb⟩ := exec_walkComplete_spec hin hflight hroot ((u.cores_keepLeaf _ _).trans hu) hlook
      refine ⟨v, hv, hended, ?_, htlb.trans (congrArg Cluster.tlb (State.cluster_updCluster_same _ _ _) :)⟩
      exact (congrArg Core.tlb hcore).trans (congrArg (fun k : Core => tlbAdd 8 32 (k.walked ctx vpn).tlb e) (huc hu).symm)
    · obtain ⟨hu, hlook⟩ := State.lookup_of_walk hmiss hwalk
      obtain ⟨v, hv, hended, hcore, -⟩ := exec_walkComplete_spec hin hflight hroot ((u.cores_keepLeaf _ _).trans hu) hlook
      exact ⟨v, hv, hended, (congrArg Core.walkFaults hcore).trans (congrArg (fun k : Core => _ :: (k.walked ctx vpn).walkFaults) (huc hu).symm)⟩
    · obtain ⟨hu, hlook⟩ := State.lookup_of_walk hmiss hwalk
      obtain ⟨v, hv, hended, hcore, -⟩ := exec_walkComplete_spec hin hflight hroot ((u.cores_keepLeaf _ _).trans hu) hlook
      exact ⟨v, hv, hended, (congrArg Core.walkFaults hcore).trans (congrArg (fun k : Core => _ :: (k.walked ctx vpn).walkFaults) (huc hu).symm)⟩
  · have hspot : s.rankSpot i.place i.act.size = none := by rw [hplace, State.rankSpot, hat]
    have hexec := execRemote_of hitem hplace hpoint hfab hblocked hentry hspot
    rw [if_neg (by rw [hat]; simp), hplace, State.waitRank_moving hat hnew hroom] at hexec
    refine ⟨_, hexec, ?_, Core.item_stampSent (by exact hitem), fun k => (State.stampSent_rest _ core id k).1⟩
    rw [State.cluster_stampSent, State.cluster_updCluster_same]
  · have hspot : s.rankSpot i.place i.act.size = none := by rw [hplace, State.rankSpot, hat]; simp [hlines]
    have hexec := execRemote_of hitem hplace hpoint hfab hblocked hentry hspot
    rw [if_pos (by rw [hat, hvia]; rfl)] at hexec
    exact hexec
  · have hspot : s.rankSpot i.place i.act.size = none := by rw [hplace, State.rankSpot, hat]; simp [hlines]
    have hexec := execRemote_of hitem hplace hpoint hfab hblocked hentry hspot
    rw [if_neg (by rw [hvia]; simp), hplace, State.waitRank_waits hat hnew hroom] at hexec
    obtain ⟨u, hu⟩ : ∃ u, u = (s.updCore tgt fun x => { x with remote := x.remote ++ [⟨some core, id⟩] }).updCluster c fun y =>
      { y with hold := y.hold.filter (·.item != id) } := ⟨_, rfl⟩
    have hcore : ∀ k, u.core k = if k = tgt then { s.core k with remote := (s.core k).remote ++ [⟨some core, id⟩] } else s.core k := by
      intro k
      rw [hu]
      by_cases hk : k = tgt
      · subst hk
        rw [if_pos rfl]
        exact (State.core_updCore_same s k fun x => { x with remote := x.remote ++ [⟨some core, id⟩] } :)
      · rw [if_neg hk]
        exact (State.core_updCore_ne s (fun x => { x with remote := x.remote ++ [⟨some core, id⟩] }) hk :)
    have hitem' : (u.core core).item id = some i := by
      rw [hcore, ← hitem]
      split <;> rfl
    have hsame : u.ns = s.ns ∧ u.stamp = s.stamp := by rw [hu]; exact ⟨rfl, rfl⟩
    rw [← hu] at hexec
    refine ⟨_, hexec, ?_, ?_, ?_, fun k => ?_⟩
    · rw [(State.stampSent_rest u core id tgt).2, hcore, if_pos rfl]
    · rw [State.cluster_stampSent, hu, State.cluster_updCluster_same]
      simp
    · have := Core.item_stampSent hitem'
      rwa [hsame.1, hsame.2] at this
    · rw [(State.stampSent_rest u core id k).1, hcore]
      split <;> rfl

end Sys2Proof.Machine
end

section
/-! SUPPORT. Items that finish. Combining, windows and replies (O38). -/

namespace Sys2Proof.Machine

set_option Elab.async false

/-! ## An item that finishes -/

theorem Core.remoteless_updByUid (k : Core) (uid : Nat) (f : Group → Group) :
    (k.updByUid uid f).remoteless = k.remoteless.updByUid uid f := by
  have hfind : k.remoteless.findGroup uid = k.findGroup uid := rfl
  rw [Core.updByUid, Core.updByUid, hfind]
  split
  · rfl
  · rfl

theorem Core.remoteless_completeOp (k : Core) (o : Op) : (k.completeOp o).remoteless = k.remoteless.completeOp o := by
  rw [Core.completeOp, Core.completeOp, ← Core.remoteless_updByUid]
  rfl

/-- What an item's operation takes does not depend on the requests that wait at the core. -/
theorem Core.remoteless_settleItem (k : Core) (i : Item) (x : Option Nat) (unknown : Bool) :
    (k.settleItem i x unknown).remoteless = k.remoteless.settleItem i x unknown := by
  unfold Core.settleItem
  have hops : k.remoteless.ops = k.ops := rfl
  rw [hops]
  split
  · rfl
  · extract_lets zero values atomic o' k' k''
    split
    · exact Core.remoteless_completeOp k' o'
    · rfl

theorem Core.queue_updByUid (k : Core) (uid : Nat) (f : Group → Group) : (k.updByUid uid f).queue = k.queue := by
  unfold Core.updByUid
  split
  · rfl
  · rfl

/-- Settling an operation leaves the core's queue and scratchpad. -/
theorem Core.settleItem_keeps (k : Core) (i : Item) (x : Option Nat) (unknown : Bool) :
    (k.settleItem i x unknown).queue = k.queue ∧ (k.settleItem i x unknown).spad = k.spad := by
  unfold Core.settleItem
  split
  · exact ⟨rfl, rfl⟩
  · extract_lets zero values atomic o' k'
    split
    · exact ⟨Core.queue_updByUid k' _ _, Core.spad_completeOp k' o'⟩
    · exact ⟨rfl, rfl⟩

/-- An operation that is no store takes the values of its item. -/
theorem Core.settleItem_takes {k : Core} {i : Item} {o : Op} (hop : tblFind k.ops i.op = some o) (hkind : o.kind ≠ .store)
    (hended : o.ended &&& i.lanes = 0) (x : Nat) (unknown : Bool) :
    ∃ o', tblFind (k.settleItem i (some x) unknown).ops i.op = some o' ∧ o'.values = o.lanesGet i x := by
  unfold Core.settleItem
  rw [hop]
  dsimp -zeta only
  extract_lets values atomic o' k'
  have hvalues : values = o.lanesGet i x := if_neg (by rw [hended]; decide)
  rw [if_neg (by simp [o', hkind])]
  exact ⟨o', tblFind_tblSet_same _ _ _, hvalues⟩

/-- An item that finishes: its queue is without it, its operation has settled, and past the requests that wait for ranks nothing
else of the cores, the memories and the L1s has changed. -/
theorem State.finishItem_spec (s : State) (core : Nat) (i : Item) (x : Option Nat) (unknown : Bool) :
    ((s.finishItem core i x unknown).core core).remoteless = (((s.core core).withoutItem i.id).settleItem i x unknown).remoteless ∧
      (∀ c, c ≠ core → ((s.finishItem core i x unknown).core c).remoteless = (s.core c).remoteless) ∧
      (s.finishItem core i x unknown).mem = s.mem ∧ (s.finishItem core i x unknown).l1 = s.l1 := by
  obtain ⟨hcore, hmem, hl1⟩ := s.dropItem_spec core i.id
  have hother : ∀ c, c ≠ core → ((s.dropItem core i.id).core c).remoteless = (s.core c).remoteless := fun c hc => by
    unfold State.dropItem
    extract_lets place u
    have hu : u.core c = s.core c := State.core_updCore_ne _ _ hc
    clear_value place
    cases place with
    | none => exact congrArg Core.remoteless hu
    | some p => exact (State.core_updWaits _ _ _ _).trans (congrArg Core.remoteless hu)
  refine ⟨?_, fun c hc => ?_, hmem, hl1⟩
  · rw [State.finishItem, State.core_updCore_same, Core.remoteless_settleItem, hcore, ← Core.remoteless_settleItem]
  · rw [State.finishItem, State.core_updCore_ne _ _ hc]
    exact hother c hc

/-- The item has left, and its operation has the item's values. -/
theorem State.finishItem_takes {s : State} {core : Nat} {i : Item} (x : Nat) (unknown : Bool) :
    (((s.finishItem core i (some x) unknown).core core).item i.id).isNone ∧
      ∀ o, tblFind (s.core core).ops i.op = some o → o.kind ≠ .store → o.ended &&& i.lanes = 0 →
        ∃ o', tblFind ((s.finishItem core i (some x) unknown).core core).ops i.op = some o' ∧ o'.values = o.lanesGet i x := by
  obtain ⟨hcore, -, -, -⟩ := s.finishItem_spec core i (some x) unknown
  refine ⟨?_, fun o hop hkind hended => ?_⟩
  · have hqueue : ((s.finishItem core i (some x) unknown).core core).queue = (s.core core).queue.filter fun j => j.id != i.id :=
      (congrArg Core.queue hcore : _).trans (Core.settleItem_keeps _ i (some x) unknown).1
    rw [Core.item, hqueue, List.find?_eq_none.2]
    · rfl
    · intro j hj
      simpa using (List.mem_filter.1 hj).2
  · have hops : ((s.finishItem core i (some x) unknown).core core).ops =
        (((s.core core).withoutItem i.id).settleItem i (some x) unknown).ops := (congrArg Core.ops hcore :)
    rw [hops]
    exact Core.settleItem_takes (k := (s.core core).withoutItem i.id) hop hkind hended x unknown

/-- Another core's items and operations stay. -/
theorem State.finishItem_other (s : State) {core c : Nat} (h : c ≠ core) (i : Item) (x : Option Nat) (unknown : Bool) :
    ((s.finishItem core i x unknown).core c).queue = (s.core c).queue ∧ ((s.finishItem core i x unknown).core c).ops = (s.core c).ops := by
  obtain ⟨-, hother, -, -⟩ := s.finishItem_spec core i x unknown
  exact ⟨(congrArg Core.queue (hother c h) :), (congrArg Core.ops (hother c h) :)⟩

/-! ## Requests of the fabric -/

theorem lanesOf_one {l : Nat} (h : l < 32) : lanesOf ((1 : BitVec 32) <<< l) = [l] := by
  have hall : ∀ l, l < 32 → lanesOf ((1 : BitVec 32) <<< l) = [l] := by decide
  exact hall l h

/-- The reply of an add of one lane: the lane takes the old value. -/
theorem State.replyTo_one {s : State} {r : FabReq} {c id l d : Nat} {i : Item} {o : Op} {w : Bool} {g : BitVec 3} {add : DWord}
    (horigin : r.origin = some (c, id)) (hw : r.w64 = w) (hitem : (s.core c).item id = some i) (hact : i.act = .faa w add)
    (hl : l < 32) (hlanes : i.lanes = (1 : BitVec 32) <<< l) (hop : tblFind (s.core c).ops i.op = some o) (hkind : o.kind = .atomic d w g)
    (hended : o.ended &&& i.lanes = 0) (f : Nat) :
    s.replyTo r f = s.finishItem c i (some (f % 2 ^ (if w then 64 else 32))) ∧
      ((((s.replyTo r f).core c).item id).isNone ∧ ∃ o', tblFind ((s.replyTo r f).core c).ops i.op = some o' ∧
        tblGet [] o'.values l = valueWords w (f % 2 ^ (if w then 64 else 32))) := by
  have hreply : s.replyTo r f = s.finishItem c i (some (f % 2 ^ (if w then 64 else 32))) := by
    rw [State.replyTo, horigin, hw]
    dsimp only
    rw [hitem]
  have hid : i.id = id := beq_iff_eq.1 (List.find?_some (p := fun i : Item => i.id == id) hitem)
  obtain ⟨hnone, htakes⟩ := State.finishItem_takes (s := s) (core := c) (i := i) (f % 2 ^ (if w then 64 else 32)) false
  obtain ⟨o', hfind, hvalues⟩ := htakes o hop (by rw [hkind]; simp) hended
  refine ⟨hreply, by rw [hreply, ← hid]; exact hnone, o', by rw [hreply]; exact hfind, ?_⟩
  rw [hvalues, Op.lanesGet, hkind]
  dsimp only
  rw [hact, hlanes, lanesOf_one hl]
  simp only [rebuild, tblGet_tblSet_same, Nat.mod_mod]

/-- A record that is among those of the fabric is replaced by one of its name. -/
theorem Fabric.mem_putRec {b : Fabric} {c c' : Contrail} (h : c ∈ b.recs) (hid : c.id = c'.id) : c' ∈ (b.putRec c').recs :=
  List.mem_map.2 ⟨c, h, if_pos hid⟩

theorem length_insertReq (r : FabReq) (l : List FabReq) : (insertReq r l).length = l.length + 1 := by
  induction l with
  | nil => rfl
  | cons q t ih =>
    unfold insertReq
    split
    · rfl
    · rw [List.length_cons, ih, List.length_cons]

theorem Fabric.gone_dropRec (b : Fabric) (id : Nat) : ∀ x ∈ (b.dropRec id).recs, x.id ≠ id := fun x hx => by
  have := (List.mem_filter.1 hx).2
  simpa using this

theorem State.fabric_updWaits (s : State) (p : Place) (f : List RemoteReq → List RemoteReq) : (s.updWaits p f).fabric = s.fabric := by
  cases p with
  | rank cl r g co off => rfl
  | _ => rfl

/-- The counts of a switch, after a change of them. -/
theorem State.stat_updComb (s : State) (sw : Nat) (f : CombStat → CombStat) :
    tblGet ⟨0, 0, 0, 0⟩ (s.updComb sw f).fabric.comb sw = f (tblGet ⟨0, 0, 0, 0⟩ s.fabric.comb sw) := tblGet_tblUpd_same _ _ _ _

theorem State.fabric_finishItem (s : State) (core : Nat) (i : Item) (x : Option Nat) (unknown : Bool) :
    (s.finishItem core i x unknown).fabric = s.fabric := by
  have hdrop : (s.dropItem core i.id).fabric = s.fabric := by
    unfold State.dropItem
    extract_lets place u
    clear_value place
    cases place with
    | none => rfl
    | some p => exact State.fabric_updWaits _ _ _
  exact hdrop

/-! ## A window that closes -/

theorem State.closeWindow_one {s : State} {c : Contrail} {r : FabReq} (hheld : ∀ x ∈ s.fabric.reqs, x.heldBy ≠ some c.id)
    (hreqs : c.reqs = [r]) : (s.closeWindow c).fabric = (s.fabric.dropRec c.id).sendOn r := by
  have hnone : (s.fabric.reqs.filter fun q => q.heldBy == some c.id) = [] :=
    List.filter_eq_nil_iff.2 fun q hq => by simpa using hheld q hq
  unfold State.closeWindow
  rw [hreqs]
  dsimp only
  rw [hnone]
  rfl

/-- The one request that the requests of a window leave as. -/
theorem State.closeWindow_more {s : State} {c : Contrail} {r q : FabReq} {l : List FabReq}
    (hheld : ∀ x ∈ s.fabric.reqs, x.heldBy ≠ some c.id) (hreqs : c.reqs = r :: q :: l) :
    ∃ (m : FabReq) (b : Fabric), (s.closeWindow c).fabric = (b.putRec { c with isOpen := false, sentAt := s.ns }).sendOn m ∧
      b.recs = s.fabric.recs ∧
      (tblGet ⟨0, 0, 0, 0⟩ b.comb c.sw).merged = ((tblGet ⟨0, 0, 0, 0⟩ s.fabric.comb c.sw).merged + 1) % 2 ^ 20 ∧
      m.record = some (c.sw, c.id) ∧ m.place = c.place ∧ m.w64 = c.w64 ∧ m.addend = addendSum c.reqs := by
  have hnone : (s.fabric.reqs.filter fun q => q.heldBy == some c.id) = [] :=
    List.filter_eq_nil_iff.2 fun q hq => by simpa using hheld q hq
  have heq : s.closeWindow c = (((s.name.2.updComb c.sw fun x => { x with merged := wrapInc 20 x.merged }).updWaits c.place
      (mergeWaits (c.reqs.map FabReq.id) s.name.1)).setFabric fun b =>
        (b.putRec { c with isOpen := false, sentAt := s.ns }).sendOn
          { id := s.name.1, origin := none, peer := none, record := some (c.sw, c.id), ctx := r.ctx, page := r.page,
            leaves := (c.reqs.map FabReq.leaves).flatten, ch := r.ch, sw := none, port := 0, path := c.path, place := c.place,
            w64 := c.w64, addend := addendSum c.reqs, heldBy := none }) := by
    unfold State.closeWindow
    rw [hnone, hreqs]
    rfl
  rw [heq]
  refine ⟨_, _, rfl, ?_, ?_, rfl, rfl, rfl, rfl⟩
  · rw [State.fabric_updWaits]; rfl
  · rw [State.fabric_updWaits]
    exact congrArg CombStat.merged (s.name.2.stat_updComb c.sw _)

theorem exec_combineWindowClose {s : State} {sw rid : Nat} {c : Contrail}
    (hfind : (s.fabric.recs.find? fun c => c.id == rid && c.sw == sw && c.isOpen) = some c) :
    exec (.combineWindowClose sw rid) s = .next (if s.windowOver c then s.closeWindow c else s) ∧ c.id = rid ∧ c.sw = sw ∧
      c ∈ s.fabric.recs := by
  have hexec : exec (.combineWindowClose sw rid) s = execCombineWindowClose sw rid s := rfl
  have hkey := List.find?_some hfind
  simp only [Bool.and_eq_true, beq_iff_eq] at hkey
  refine ⟨?_, hkey.1.1, hkey.1.2, List.mem_of_find?_eq_some hfind⟩
  rw [hexec, execCombineWindowClose, hfind]

/-! ## A request that arrives -/

theorem exec_switchRequestArrival {s : State} {sw id : Nat} {r : FabReq} (harrive : s.arriving sw id = some r) :
    exec (.switchRequestArrival sw id) s = .next (s.arrive sw r) := by
  have hexec : exec (.switchRequestArrival sw id) s = execSwitchRequestArrival sw id s := rfl
  rw [hexec, execSwitchRequestArrival, harrive]

section
variable {s u : State} {sw : Nat} {r : FabReq} (hu : (s.markSent r).closeOver sw = u)
include hu

theorem State.arrive_held {c : Contrail} (hheld : u.fabric.heldBehind sw r = some c) :
    s.arrive sw r = u.setFabric fun b => { b.dropReq r.id with reqs := (b.dropReq r.id).reqs ++ [{ r with heldBy := some c.id }] } := by
  rw [State.arrive, hu]
  dsimp only
  rw [hheld]

theorem State.arrive_joins {c : Contrail} (hheld : u.fabric.heldBehind sw r = none)
    (hwindow : (u.fabric.recs.find? fun c => c.sw == sw && c.isOpen && c.out == u.outPort sw r && r.sameKey c) = some c) :
    s.arrive sw r = u.joinWindow c r := by
  rw [State.arrive, hu]
  dsimp only
  rw [hheld]
  dsimp only
  rw [hwindow]

theorem State.arrive_alone (hheld : u.fabric.heldBehind sw r = none)
    (hwindow : (u.fabric.recs.find? fun c => c.sw == sw && c.isOpen && c.out == u.outPort sw r && r.sameKey c) = none) :
    s.arrive sw r = if !u.fabric.combines sw r then u.setFabric fun b => b.sendOn r
      else if (u.fabric.recs.filter fun c => c.sw == sw && c.out == u.outPort sw r).length < recordCap sw then u.openWindow sw r
      else (u.updComb sw fun x => { x with pass := wrapInc 20 x.pass }).setFabric fun b => b.sendOn r := by
  rw [State.arrive, hu]
  dsimp only
  rw [hheld]
  dsimp only
  rw [hwindow]

end

/-! ## A reply that splits -/

theorem exec_contrailReplySplit {s : State} {sw rid : Nat} {c : Contrail} {f : DWord}
    (hfind : (s.fabric.recs.find? fun c => c.id == rid && c.sw == sw) = some c) (hreply : c.reply = some f) (lost : Bool) :
    exec (.contrailReplySplit sw rid lost) s = .next (if lost
      then (s.setFabric fun b => b.dropRec rid).updComb sw fun x => { x with lost := satInc 12 x.lost }
      else (s.setFabric fun b => b.dropRec rid).shares f.toNat c.reqs) := by
  have hexec : exec (.contrailReplySplit sw rid lost) s = execContrailReplySplit sw rid lost s := rfl
  rw [hexec, execContrailReplySplit, hfind]
  dsimp only
  rw [hreply]

theorem exec_recordExpire {s : State} {sw rid : Nat} {c : Contrail}
    (hfind : (s.fabric.recs.find? fun c => c.id == rid && c.sw == sw) = some c) (hopen : c.isOpen = false) (hreply : c.reply = none)
    (htime : c.sentAt + s.fabric.tmo + 50000 ≤ s.ns) :
    exec (.recordExpire sw rid) s = .next ((s.setFabric fun b => b.dropRec rid).updComb sw fun x =>
      { x with expired := satInc 12 x.expired }) := by
  have hexec : exec (.recordExpire sw rid) s = execRecordExpire sw rid s := rfl
  have hfind' : (s.fabric.recs.find? fun c => c.id == rid && c.sw == sw && !c.isOpen && c.reply.isNone) = some c := by
    obtain ⟨hkey, as, bs, hrecs, hbefore⟩ := List.find?_eq_some_iff_append.1 hfind
    refine List.find?_eq_some_iff_append.2 ⟨by rw [hkey, hopen, hreply]; rfl, as, bs, hrecs, fun a ha => ?_⟩
    have hno := hbefore a ha
    rw [Bool.not_eq_true'] at hno
    rw [hno]; rfl
  rw [hexec, execRecordExpire, hfind']
  exact if_pos htime

/-- Settles O38. -/
theorem switchesCombineAndRepliesSplit : Obligations.SwitchesCombineAndRepliesSplit := by
  unfold Obligations.SwitchesCombineAndRepliesSplit
  refine ⟨⟨fun s sw id r c harrive => ?_, fun s sw rid c r q l hfind => ?_⟩, fun s sw rid c hfind => ?_⟩
  · intro u b rest room window
    have hexec := exec_switchRequestArrival harrive
    have hu : (s.markSent r).closeOver sw = u := rfl
    refine ⟨fun hheld => ?_, fun hheld => ⟨fun hwindow hroom => ?_, fun hwindow hcomb => ?_, fun hwindow hcomb hroom => ?_,
      fun hwindow hcomb hroom => ?_⟩⟩
    · rw [State.arrive_held hu hheld] at hexec
      exact ⟨_, hexec, rfl, rfl⟩
    · rw [State.arrive_joins hu hheld hwindow] at hexec
      have hshort : ¬({ c with reqs := insertReq r c.reqs } : Contrail).reqs.length = 64 := by
        change ¬(insertReq r c.reqs).length = 64
        rw [length_insertReq]; omega
      have hjoin : u.joinWindow c r = u.setFabric fun b => (b.dropReq r.id).putRec { c with reqs := insertReq r c.reqs } := if_neg hshort
      rw [hjoin] at hexec
      exact ⟨_, hexec, rfl, Fabric.mem_putRec (b := b.dropReq r.id) (List.mem_of_find?_eq_some hwindow) rfl⟩
    · rw [State.arrive_alone hu hheld hwindow, if_pos (by rw [show u.fabric.combines sw r = false from hcomb]; rfl)] at hexec
      exact ⟨_, hexec, rfl, rfl⟩
    · rw [State.arrive_alone hu hheld hwindow, if_neg (by rw [show u.fabric.combines sw r = true from hcomb]; decide),
        if_neg hroom] at hexec
      exact ⟨_, hexec, rfl, rfl, congrArg CombStat.pass (u.stat_updComb sw fun x => { x with pass := wrapInc 20 x.pass })⟩
    · rw [State.arrive_alone hu hheld hwindow, if_neg (by rw [show u.fabric.combines sw r = true from hcomb]; decide),
        if_pos hroom] at hexec
      exact ⟨_, _, hexec, rfl, rfl, rfl, rfl, rfl, rfl, rfl⟩
  · obtain ⟨hexec, rfl, rfl, hmem⟩ := exec_combineWindowClose hfind
    refine ⟨fun hover => ?_, fun hover hheld => ⟨fun hreqs => ?_, fun hreqs => ?_⟩⟩
    · rw [hexec, hover]; rfl
    · rw [hover, if_pos rfl] at hexec
      refine ⟨_, hexec, ?_, ?_⟩
      · rw [State.closeWindow_one hheld hreqs]; rfl
      · rw [State.closeWindow_one hheld hreqs]
        exact Fabric.gone_dropRec _ _
    · rw [hover, if_pos rfl] at hexec
      obtain ⟨m, b, hfabric, hrecs, hmerged, hrecord, hplace, hw, hsum⟩ := State.closeWindow_more hheld hreqs
      refine ⟨_, m, hexec, ?_, hrecord, hplace, hw, ?_, ?_, ?_⟩
      · rw [hfabric]
        exact List.mem_append_right _ (List.mem_singleton.2 rfl)
      · rw [hsum, addendSum, List.foldl_map]
      · rw [hfabric]
        exact Fabric.mem_putRec (b := b) (c := c) (hrecs ▸ hmem) rfl
      · rw [hfabric]
        exact hmerged
  · intro stat gone
    refine ⟨fun f hreply => ⟨?_, ?_⟩, fun hopen hreply htime => ?_⟩
    · exact ⟨_, exec_contrailReplySplit hfind hreply true, Fabric.gone_dropRec s.fabric rid,
        congrArg CombStat.lost ((s.setFabric fun b => b.dropRec rid).stat_updComb sw fun x => { x with lost := satInc 12 x.lost }), rfl⟩
    · intro a q ca cb la lb pa pb da db w ga gb x y oa ob hreqs ha hb hcores hwa hwb hx hy hpa hpb hxact hyact hla hlb hxl hyl
        hoa hob hka hkb hea heb m
      have hexec := exec_contrailReplySplit hfind hreply false
      rw [hreqs] at hexec
      obtain ⟨u, hu⟩ : ∃ u, u = s.setFabric fun b => b.dropRec rid := ⟨_, rfl⟩
      have hcore : ∀ n, u.core n = s.core n := fun n => by rw [hu]; rfl
      obtain ⟨hfirst, hgoneA, oa', hopA, hvalA⟩ := State.replyTo_one (s := u) (r := a) ha hwa (by rw [hcore]; exact hx) hxact hla hxl
        (by rw [hcore]; exact hoa) hka hea f.toNat
      obtain ⟨v, hv⟩ : ∃ v, v = u.replyTo a f.toNat := ⟨_, rfl⟩
      have hother : (v.core cb).queue = (u.core cb).queue ∧ (v.core cb).ops = (u.core cb).ops := by
        rw [hv, hfirst]
        exact u.finishItem_other hcores.symm x _ false
      obtain ⟨hsecond, hgoneB, ob', hopB, hvalB⟩ := State.replyTo_one (s := v) (r := q) hb hwb
        (by rw [Core.item, hother.1, hcore]; exact hy) hyact hlb hyl (by rw [hother.2, hcore]; exact hob) hkb heb
        (f.toNat + a.addend.toNat)
      obtain ⟨t, ht⟩ : ∃ t, t = v.replyTo q (f.toNat + a.addend.toNat) := ⟨_, rfl⟩
      have hkept : (t.core ca).queue = (v.core ca).queue ∧ (t.core ca).ops = (v.core ca).ops := by
        rw [ht, hsecond]
        exact v.finishItem_other hcores y _ false
      have hfabric : t.fabric = u.fabric := by rw [ht, hsecond, State.fabric_finishItem, hv, hfirst, State.fabric_finishItem]
      have hshares : u.shares f.toNat [a, q] = t := by rw [ht, hv]; rfl
      rw [if_neg Bool.false_ne_true, ← hu, hshares] at hexec
      have hm : m = 2 ^ (if w then 64 else 32) := rfl
      rw [← ht] at hgoneB hopB
      rw [← hv] at hgoneA hopA
      refine ⟨t, oa', ob', hexec, ?_, ?_, hgoneB, ?_, by rw [hm]; exact hvalA, hopB, by rw [hm]; exact hvalB⟩
      · intro z hz
        rw [hfabric, hu] at hz
        exact Fabric.gone_dropRec s.fabric rid z hz
      · rw [Core.item, hkept.1]; exact hgoneA
      · rw [hkept.2]; exact hopA
    · exact ⟨_, exec_recordExpire hfind hopen hreply htime, Fabric.gone_dropRec s.fabric rid,
        congrArg CombStat.expired ((s.setFabric fun b => b.dropRec rid).stat_updComb sw fun x => { x with expired := satInc 12 x.expired })⟩

end Sys2Proof.Machine
end

section
/-! SUPPORT. Timeouts, ports and parking (O39). -/

namespace Sys2Proof.Machine

set_option Elab.async false

/-! ## Held requests that end -/

/-- Where no lane is parked for a rank, none ends with it. -/
theorem State.parksGone_of_notParked {s : State} {core cluster : Nat} {e : RankEntry}
    (h : ∀ n g l, ((s.group core n g).lane l).parkedFor cluster e = none) : s.parksGone core cluster e = s := by
  have hlane : ∀ n g l, s.parkGone core n g l cluster e = s := fun n g l => by
    rw [State.parkGone, h]
  have hgroup : ∀ n g (ls : List Nat), ls.foldl (fun s l => s.parkGone core n g l cluster e) s = s := fun n g =>
    List.foldl_fixed' (hlane n g)
  have hteam : ∀ n (gs : Tbl Group), gs.foldl (fun s g =>
      (List.range 32).foldl (fun s l => s.parkGone core n g.1 l cluster e) s) s = s := fun n gs =>
    List.foldl_fixed' (fun g => hgroup n g.1 _) gs
  exact List.foldl_fixed' (fun t : Nat × Team => hteam t.1 t.2.groups) _

/-- One held request has ended. -/
def State.endOne (s : State) (cluster : Nat) (e : RankEntry) (r : RemoteReq) : State :=
  (s.updCluster cluster fun c => { c with hold := c.hold.filter fun q => !([r].contains q) }).targetGone r e.rank

/-- The end of one held request, where no copy waits and one core is listed. -/
theorem State.endHeld_one {s : State} {cluster core : Nat} {e : RankEntry} {r : RemoteReq} (hheld : s.heldFor cluster e = [r])
    (hcopies : s.copiesFor cluster e = []) (hkeys : tblKeys (s.endOne cluster e r).cores = [core]) :
    s.endHeld cluster e = ((s.endOne cluster e r).engGone core cluster e).parksGone core cluster e := by
  have hend : s.endHeld cluster e = (tblKeys (s.endOne cluster e r).cores).foldl
      (fun s c => (s.engGone c cluster e).parksGone c cluster e) (s.endOne cluster e r) := by
    rw [State.endHeld, hheld, hcopies]
    rfl
  rw [hend, hkeys, List.foldl_cons, List.foldl_nil]

theorem exec_holdTimeout_one {s : State} {cluster : Nat} {e : RankEntry}
    (hdue : ((s.cluster cluster).ranks.filter fun x => x.rank == e.rank && x.moving.any fun t => t + 100000 ≤ s.ns) = [e]) :
    exec (.holdTimeout cluster e.rank) s = .next (s.endHeld cluster e) := by
  have hexec : exec (.holdTimeout cluster e.rank) s = execHoldTimeout cluster e.rank s := rfl
  rw [hexec, execHoldTimeout, hdue]
  rfl

/-! ## A name that two teams share, in a slot table out of order -/

namespace SharedName

/-- A group of one lane. -/
def group (uid : Nat) (tl : Bool) : Group :=
  { Group.absent with uid := uid, lanes := [(0, { Lane.absent with tl := tl })] }

/-- The first team in the table stands in slot 5, with group 7 out of its handler. -/
def plain : Team := { Team.absent with uid := 1, groups := [(0, group 7 false)] }

/-- The second stands in slot 3, with another group 7 in its handler, and group 8. -/
def trapped : Team := { Team.absent with uid := 2, groups := [(0, group 7 true), (1, group 8 false)] }

/-- A store of group 7 to a rank that moves. -/
def item : Item :=
  { id := 1, op := 1, uid := 7, team := 1, grid := 0, ctx := 0, lanes := 1, act := .store [0], place := .rank 0 0 0 0 0, ch := 0,
    ord := .relaxed, scope := .team, after := [], vpn := 0, inFab := false, ended := false, addr := 0, sent := some (0, 0), wb := none }

/-- The item's operation, under the name of group 8. -/
def op : Op :=
  { id := 1, uid := 8, kind := .store, flag := none, tl := false, lanes := 1, left := [1], values := [], ended := 0, pc := 0 }

/-- The rank, marked moving at the start. -/
def entry : RankEntry := { grid := 0, cohort := 0, rank := 0, core := 1, slot := 0, moving := some 0 }

/-- The machine at reset, 100 µs later, with the item on core 0. -/
def state : State :=
  { State.reset with
    ns := 100000
    cores := [(0, { Core.reset 0 with teams := [(5, plain), (3, trapped)], queue := [item], ops := [(1, op)] })]
    clusters := [(0, { Cluster.reset with ranks := [entry] })] }

def held : RemoteReq := ⟨some 0, 1⟩

theorem due : ((state.cluster 0).ranks.filter fun x => x.rank == entry.rank && x.moving.any fun t => t + 100000 ≤ state.ns) = [entry] := by
  decide

theorem heldFor : state.heldFor 0 entry = [held] := by decide

/-- The machine once the store has ended with its fault: the core has stopped. -/
def ended : State := (state.endOne 0 entry held).engGone 0 0 entry

theorem teams_ended : (ended.core 0).teams = [(3, trapped), (5, plain), (3, trapped)] := rfl

theorem notParked (n g l : Nat) : ((ended.group 0 n g).lane l).parkedFor 0 entry = none := by
  have hlane : ∀ uid tl, ((group uid tl).lane l).parkedFor 0 entry = none := fun uid tl => by
    rw [Group.lane, group, tblGet]
    split <;> rfl
  have hteam : ∀ t ∈ [trapped, plain, Team.absent], ((t.group g).lane l).parkedFor 0 entry = none := by
    simp only [List.forall_mem_cons]
    refine ⟨?_, ?_, rfl, List.forall_mem_nil _⟩
    · rw [Team.group, trapped, tblGet, tblGet]
      split
      · exact hlane 7 true
      · split
        · exact hlane 8 false
        · rfl
    · rw [Team.group, plain, tblGet]
      split
      · exact hlane 7 false
      · rfl
  refine hteam _ ?_
  rw [State.team, Core.team, teams_ended, tblGet, tblGet, tblGet]
  split
  · exact .head _
  · split
    · exact .tail _ (.head _)
    · exact .tail _ (.tail _ (.head _))

theorem endHeld_eq : state.endHeld 0 entry = ended := by
  have hcopies : state.copiesFor 0 entry = [] := by decide
  have hkeys : tblKeys (state.endOne 0 entry held).cores = [0] := rfl
  rw [State.endHeld_one heldFor hcopies hkeys]
  exact State.parksGone_of_notParked notParked

theorem code_eq : ((state.endHeld 0 entry).core 0).flt.cur.map Report.code = some 0x0F := by
  rw [endHeld_eq]
  rfl

end SharedName

/-- Refutes O39: two teams of a core share the name of a group, and its slot table is out of order. The store that HOLD_TIMEOUT ends
completes an operation of the second team, whose slot comes first then: the fault finds the group that is in its handler, and is a
double trap. -/
theorem not_timeoutsPortsAndParking : ¬ Obligations.TimeoutsPortsAndParking := by
  unfold Obligations.TimeoutsPortsAndParking
  rintro ⟨⟨-, hhold⟩, -⟩
  obtain ⟨t, ht, ⟨-, r, hcur, hcode, -⟩, -⟩ := hhold SharedName.state 0 0 5 0 SharedName.entry SharedName.held SharedName.item
    SharedName.op SharedName.due SharedName.heldFor (by decide) (by decide) (by decide) rfl rfl rfl rfl rfl rfl (by decide) rfl rfl
  have hone : t = SharedName.state.endHeld 0 SharedName.entry :=
    Host.Outcome.next.inj (ht.symm.trans (exec_holdTimeout_one SharedName.due))
  have hreport := SharedName.code_eq
  rw [← hone, hcur, Option.map_some, hcode] at hreport
  exact absurd hreport (by decide)

end Sys2Proof.Machine
end

section
/-! SUPPORT. Accesses that are performed (O18). -/

namespace Sys2Proof.Machine

set_option Elab.async false

/-! ## A load across the end of expansion memory -/

namespace ShortMemory

/-- An ordered load of four bytes from the first of expansion memory. -/
def item : Item :=
  { id := 1, op := 1, uid := 0, team := 0, grid := 0, ctx := 0, lanes := 1, act := .load 4, place := .dev expFirst, ch := 2, ord := .acq,
    scope := .dev, after := [], vpn := 0, inFab := false, ended := false, addr := 0, sent := none, wb := none }

def op : Op :=
  { id := 1, uid := 0, kind := .load .n32 0, flag := none, tl := false, lanes := 1, left := [1], values := [], ended := 0, pc := 0 }

/-- The machine at reset with one byte of expansion memory, whose page is pending, a byte listed behind it, and the load. -/
def state : State :=
  let s := State.reset
  { s with mem := { s.mem with expSize := 1, cells := [(expFirst + 1, 5)] }
           cores := [(0, { Core.reset 0 with queue := [item], ops := [(1, op)] })] }

theorem hSound : (state.sflush (state.l1Of 0) (expFirst / 64)).HSound := by
  refine ⟨rfl, fun x hx => ?_, rfl⟩
  exact absurd hx (List.not_mem_nil)

theorem free : state.blocked 0 item = false := by decide

theorem values_eq : ((tblFind ((state.perform 0 item).core 0).ops 1).map Op.values) = some [(0, [1280])] := by decide

end ShortMemory

/-- Refutes O18: expansion memory of one byte, whose page is pending. The lane of an ordered load across its end takes the bytes that
are listed behind it, which no page covers, and not zeros. -/
theorem not_accessesPerform : ¬ Obligations.AccessesPerform := by
  unfold Obligations.AccessesPerform
  intro h
  obtain ⟨-, hdev⟩ := h ShortMemory.state 0 1 ShortMemory.item rfl rfl rfl rfl rfl ShortMemory.free
  obtain ⟨-, hhome⟩ := hdev expFirst rfl (by decide) (by decide) (by decide)
  obtain ⟨-, hpending⟩ := hhome (by decide) (by decide) (by decide) (by decide) ShortMemory.hSound
  obtain ⟨t, ht, ⟨-, hsettles⟩, -⟩ := (hpending (by decide)).1 (.inl ⟨4, rfl⟩)
  have hexec : exec (.accessPerform 0 1) ShortMemory.state = .next (ShortMemory.state.perform 0 ShortMemory.item) := rfl
  have heq := Host.Outcome.next.inj (hexec.symm.trans ht)
  obtain ⟨o, ho, htakes⟩ := hsettles ShortMemory.op rfl (by decide) (by decide)
  obtain ⟨hload, -, -⟩ := htakes 0 (by decide)
  have hzero := hload .n32 0 rfl (by decide) rfl
  have hvalues := ShortMemory.values_eq
  rw [heq, show ShortMemory.item.op = 1 from rfl] at *
  rw [ho, Option.map_some, Option.some.injEq] at hvalues
  rw [hvalues] at hzero
  exact absurd hzero (by decide)

end Sys2Proof.Machine
end

section
/-! SUPPORT. Requests of the host and of peers (O40). -/

namespace Sys2Proof.Machine

set_option Elab.async false

/-! ## A sound home, seen from a request -/

/-- With no stall of the expansion link, nothing holds a request to memory. -/
theorem State.linkHolds_mem {s : State} (h : (s.stream expStream).stall = none) (pa : Nat) : s.linkHolds (.mem pa) = false := by
  have hheld : s.ideHeld (s.expIde pa) = false := by
    unfold State.expIde
    split
    · rw [State.ideHeld, Option.any_some, h]; rfl
    · rfl
  rw [State.linkHolds, hheld, Bool.and_false]

theorem State.HSound.hRead {s : State} (h : s.HSound) (who : Charge) (ch pa n : Nat) :
    s.L2Moves (s.hRead who ch pa n).1 ∧ (s.hRead who ch pa n).2 = s.peek pa n :=
  State.hRead_of_l2Sound h.l2Sound (fun k _ => h.noLatent k) who ch

/-- A write at a sound home: exactly its bytes, and nothing of the cores and the L1s. -/
theorem State.HSound.hWrite {s : State} (h : s.HSound) (who : Charge) (ch pa : Nat) (bs : List Byte) :
    (s.hWrite who ch pa bs).mem.cells = memWrite s.mem.cells pa bs ∧ (s.hWrite who ch pa bs).cores = s.cores ∧
      (s.hWrite who ch pa bs).l1 = s.l1 := by
  obtain ⟨hhome, hl1⟩ := s.atH_hWrite who ch pa bs
  obtain ⟨u, -, heq⟩ := State.hWrite_of_l2Sound h.l2Sound (bs := bs) (fun k _ _ => h.noLatent k) who ch
  exact ⟨by rw [heq], hhome.cores, hl1⟩

/-! ## Requests of the host -/

/-- A request of the host at a sound home: a read is answered, a write writes its bytes, and one to a pending page waits. -/
theorem State.hostAct_spec {s : State} (r : HostReq) (h : s.HSound) (hstall : (s.stream expStream).stall = none) :
    (r.write = none → (s.hostAct r).link.sent.head? = some (.data (s.peek r.offset r.count)) ∧ (s.hostAct r).mem.cells = s.mem.cells) ∧
      (∀ bs, r.write = some bs → s.pendingPage r.offset (hostLen r) = none → s.hostAct r = s.hWrite .unowned 0 r.offset bs) ∧
      ∀ bs page, r.write = some bs → s.pendingPage r.offset (hostLen r) = some page →
        s.hostAct r = s.waitSweep page (.hostAccess { r with inside := true }) := by
  have hact : s.hostAct r = match r.write with
      | some bs =>
        match s.pendingPage r.offset (hostLen r) with
        | some page => s.waitSweep page (.hostAccess { r with inside := true })
        | none => s.hWrite .unowned 0 r.offset bs
      | none => (s.hRead .unowned 0 r.offset r.count).1.send (.data (s.hRead .unowned 0 r.offset r.count).2) :=
    if_neg (by rw [State.linkHolds_mem hstall]; exact Bool.false_ne_true)
  refine ⟨fun hw => ?_, fun bs hw hpage => ?_, fun bs page hw hpage => ?_⟩
  · obtain ⟨hmoves, hbytes⟩ := h.hRead .unowned 0 r.offset r.count
    rw [hact, hw]
    dsimp only
    rw [hbytes]
    exact ⟨rfl, hmoves.cells⟩
  · rw [hact, hw]
    dsimp only
    rw [hpage]
  · rw [hact, hw]
    dsimp only
    rw [hpage]

theorem State.waitSweep_spec (s : State) (page : Nat) (i : Instr) :
    (s.waitSweep page i).mem.cells = s.mem.cells ∧ (s.waitSweep page i).mem.sweeping.contains page = true ∧
      (page, i) ∈ (s.waitSweep page i).mem.waiters := by
  refine ⟨rfl, ?_, ?_⟩
  · change (if s.mem.sweeping.contains page then s.mem.sweeping else page :: s.mem.sweeping).contains page = true
    split
    · assumption
    · simp
  · change (page, i) ∈ if s.mem.waiters.contains (page, i) then s.mem.waiters else s.mem.waiters ++ [(page, i)]
    split
    · next h => exact List.contains_iff_mem.1 h
    · simp

/-- What of the host reaches the homes: a request past the link that nothing holds, or one of a firmware. -/
theorem exec_hostAccess_acts {s : State} {r : HostReq} (hn : hostLen r ≠ 0) (hl2 : s.mgmt.l2Busy = false)
    (hmem : s.mem.isMem r.offset = true) (hend : s.mem.isMem (r.offset + hostLen r - 1) = true)
    (h : (r.window ≠ .service ∧ r.window ≠ .root ∧ r.inside = true ∧ s.joinHost (.hostAccess { r with inside := true }) = none ∧
        s.hostAllowed r.offset (hostLen r) = true ∧ s.fabric.windowHolds (s.x0Path 20 r.offset) (.dev r.offset) = false) ∨
      (r.window = .service ∧ s.hostAllowed r.offset (hostLen r) = true ∧
        s.fabric.windowHolds (s.x0Path 21 r.offset) (.dev r.offset) = false) ∨
      (r.window = .root ∧ s.fabric.windowHolds (s.x0Path 21 r.offset) (.dev r.offset) = false)) :
    exec (.hostAccess r) s = .next (s.hostAct r) := by
  have hexec : exec (.hostAccess r) s = execHostAccess r s := rfl
  have hboth : (s.mem.isMem r.offset && s.mem.isMem (r.offset + hostLen r - 1)) = true := by rw [hmem, hend]; rfl
  rw [hexec, execHostAccess]
  rcases h with ⟨hservice, hroot, hinside, hjoin, hallowed, hway⟩ | ⟨hwindow, hallowed, hway⟩ | ⟨hwindow, hway⟩
  · have hperform : s.hostInside r = s.hostAct r := by
      rw [State.hostInside, hjoin]
      dsimp only
      rw [hl2, if_neg Bool.false_ne_true, hway, if_neg Bool.false_ne_true, State.hostPerform]
      dsimp only
      rw [if_neg hn, hboth, if_neg (by decide), hallowed, if_neg (by decide)]
    cases hw : r.window with
    | service => exact absurd hw hservice
    | root => exact absurd hw hroot
    | _ =>
      dsimp only
      rw [if_pos hinside, hperform]
  · rw [hwindow, State.firmwareAccess]
    dsimp only
    rw [if_neg hn, hboth, if_pos rfl, hwindow, hallowed, if_neg (by decide), hl2, if_neg Bool.false_ne_true, hway,
      if_neg Bool.false_ne_true]
  · rw [hwindow, State.firmwareAccess]
    dsimp only
    rw [if_neg hn, hboth, if_pos rfl, hwindow, show (HostWindow.root == HostWindow.service) = false from rfl, Bool.false_and,
      if_neg Bool.false_ne_true, hl2, if_neg Bool.false_ne_true, hway, if_neg Bool.false_ne_true]

/-- A request past the link goes on inside. -/
theorem exec_hostAccess_inside {s : State} {r : HostReq} (hservice : r.window ≠ .service) (hroot : r.window ≠ .root)
    (hinside : r.inside = true) : exec (.hostAccess r) s = .next (s.hostInside r) := by
  have hexec : exec (.hostAccess r) s = execHostAccess r s := rfl
  rw [hexec, execHostAccess]
  cases hw : r.window with
  | service => exact absurd hw hservice
  | root => exact absurd hw hroot
  | _ =>
    dsimp only
    rw [if_pos hinside]

/-- One over the link without IDE is the access at its device physical address. -/
theorem exec_hostAccess_arrived {s : State} {r : HostReq} (hservice : r.window ≠ .service) (hroot : r.window ≠ .root)
    (hinside : r.inside = false) (hready : s.mgmt.ready = true) (hwindow : s.inWindow r = true) (hstream : r.stream = 0)
    (hmode : s.trust.mode = false) :
    exec (.hostAccess r) s = exec (.hostAccess { s.arrived r with inside := true }) s := by
  have hleft : exec (.hostAccess r) s = execHostAccess r s := rfl
  have hright : exec (.hostAccess { s.arrived r with inside := true }) s = .next (s.hostInside (s.arrived r)) := by
    have hwin : (s.arrived r).window = .arrivedCxl ∨ (s.arrived r).window = .arrived := by
      rw [State.arrived]
      dsimp only
      split
      · exact .inl rfl
      · exact .inr rfl
    refine exec_hostAccess_inside (r := { s.arrived r with inside := true }) (fun h => ?_) (fun h => ?_) rfl
    · rcases hwin with hwin | hwin <;> cases hwin.symm.trans h
    · rcases hwin with hwin | hwin <;> cases hwin.symm.trans h
  have hbyStream : s.byStream (s.arrived r) = s.hostInside (s.arrived r) := by
    have hs : (s.arrived r).stream = 0 := hstream
    rw [State.byStream, if_pos hs, hmode, if_neg Bool.false_ne_true]
  rw [hright, hleft, execHostAccess]
  cases hw : r.window with
  | service => exact absurd hw hservice
  | root => exact absurd hw hroot
  | _ =>
    dsimp only
    rw [if_neg (by rw [hinside]; exact Bool.false_ne_true), hready, hwindow, if_neg (by decide), hbyStream]

theorem exec_hostAccess_unready {s : State} {r : HostReq} (hservice : r.window ≠ .service) (hroot : r.window ≠ .root)
    (hinside : r.inside = false) (hready : s.mgmt.ready = false) : exec (.hostAccess r) s = .next (s.hostNothing r) := by
  have hexec : exec (.hostAccess r) s = execHostAccess r s := rfl
  rw [hexec, execHostAccess]
  cases hw : r.window with
  | service => exact absurd hw hservice
  | root => exact absurd hw hroot
  | _ =>
    dsimp only
    rw [if_neg (by rw [hinside]; exact Bool.false_ne_true), hready, Bool.not_false, Bool.true_or, if_pos rfl]

/-! ## Register accesses of the host -/

theorem exec_hostRegisterAccess_read {s : State} {size off i : Nat} {reg : RegName} (hsize : size = 4 ∨ size = 8)
    (halign : off % size = 0) (hready : s.mgmt.ready = true) (hlo : reg ≠ .energyLo) (hhi : reg ≠ .energyHi) (hi : i < regCount reg) :
    exec (.hostRegisterAccess size off reg i none) s = .next (s.send (.reg (BitVec.ofNat 64 (if size = 8 then s.regWord reg i
      else if off % 8 = 4 then s.regWord reg i / 2 ^ 32 % 2 ^ 32 else s.regWord reg i % 2 ^ 32)))) := by
  have hexec : exec (.hostRegisterAccess size off reg i none) s = execHostRegisterAccess size off reg i none s := rfl
  have hread : s.regRead reg i .host = (s, s.regWord reg i) := by
    unfold State.regRead
    rw [if_neg (Nat.not_le.2 hi)]
    cases reg with
    | energyLo => exact absurd rfl hlo
    | energyHi => exact absurd rfl hhi
    | _ => rfl
  have hok : ((size == 4 || size == 8) && off % size == 0) = true := by
    rw [halign]
    rcases hsize with rfl | rfl <;> rfl
  rw [hexec, execHostRegisterAccess]
  dsimp only
  rw [hready, if_neg (by simp), hok, if_neg (by decide), if_neg (by decide), if_neg (by decide), State.hostReg]
  dsimp only
  rw [hread]
  dsimp only
  rcases hsize with rfl | rfl
  · by_cases hhigh : off % 8 = 4
    · rw [hhigh]; rfl
    · rw [if_pos rfl, if_neg (show ¬(4 = 8) by decide), if_neg hhigh, if_neg (by rw [beq_iff_eq]; exact hhigh), Nat.div_one]
  · rfl

/-! ## Streams -/

theorem State.stream_updStream_same (s : State) (n : Nat) (f : Ide → Ide) : (s.updStream n f).stream n = f (s.stream n) :=
  tblGet_tblUpd_same _ _ _ _

theorem State.linkHolds_agenda (s : State) (a : List Turn) (p : Spot) : ({ s with agenda := a } : State).linkHolds p = s.linkHolds p := by
  cases p with
  | mem pa => rfl
  | host x => rfl
  | _ => rfl

theorem State.spot_agenda (s : State) (a : List Turn) (c : Nat) (i : Item) : ({ s with agenda := a } : State).spot c i = s.spot c i := by
  unfold State.spot
  cases i.place <;> rfl

/-- What stands before a stalled stream does not depend on the turns to come. -/
theorem State.heldByLink_agenda (s : State) (a : List Turn) : ({ s with agenda := a } : State).heldByLink = s.heldByLink := by
  unfold State.heldByLink
  simp only [State.linkHolds_agenda, State.spot_agenda]

theorem State.stallOver_of {s : State} {n t0 : Nat} (hstall : (s.stream n).stall = some t0) (hfail : (s.stream n).fail = false)
    (htime : t0 + 1000000000 ≤ s.ns) : s.stallOver n = true := by
  rw [State.stallOver, hfail, hstall, Option.any_some, decide_eq_true htime]; rfl

theorem State.not_stallOver {s : State} {n : Nat}
    (h : ∀ x, (s.stream n).stall = some x → (s.stream n).fail = true ∨ s.ns < x + 1000000000) : s.stallOver n = false := by
  rw [State.stallOver]
  cases hx : (s.stream n).stall with
  | none => rw [Option.any_none, Bool.and_false]
  | some x =>
    rcases h x hx with hfail | hearly
    · rw [hfail]; rfl
    · rw [Option.any_some, decide_eq_false (Nat.not_le_of_lt hearly), Bool.and_false]

theorem State.exec_ideStallTimeout (s : State) (n : Nat) : exec (.ideStallTimeout n) s = .next (s.stallEnds n) := rfl

theorem State.exec_ideKeyProgram (s : State) (n session : Nat) :
    exec (.ideKeyProgram ⟨n, session⟩) s = .next (if s.inSession session then s.keyStream n (.ideKeyProgram ⟨n, session⟩) else s) := rfl

theorem State.exec_ideKeyProgram_outside (s : State) (n session : Nat) (h : s.inSession session = false) :
    exec (.ideKeyProgram ⟨n, session⟩) s = .next s := by
  rw [State.exec_ideKeyProgram, if_neg (by rw [h]; exact Bool.false_ne_true)]

/-- A key in time: the held requests proceed. -/
theorem State.exec_ideKeyProgram_held {s : State} {n session : Nat} (h : s.inSession session = true) (hover : s.stallOver n = false) :
    exec (.ideKeyProgram ⟨n, session⟩) s = .next { s.updStream n (fun _ => { Ide.reset with keyed := true }) with
      agenda := (s.stream n).held.map Turn.again ++ (s.updStream n fun _ => { Ide.reset with keyed := true }).agenda } := by
  rw [State.exec_ideKeyProgram, if_pos h, State.keyStream, hover, if_neg Bool.false_ne_true]

/-- A key that comes too late stands behind the loss of what was held. -/
theorem State.exec_ideKeyProgram_over {s : State} {n session : Nat} (h : s.inSession session = true) (hover : s.stallOver n = true) :
    exec (.ideKeyProgram ⟨n, session⟩) s =
      .next (({ s with agenda := .again (.ideKeyProgram ⟨n, session⟩) :: s.agenda } : State).stallEnds n) := by
  rw [State.exec_ideKeyProgram, if_pos h, State.keyStream, if_pos hover]

/-- A stream that has stalled for its second fails: what it held, and what stands before it, goes on next. -/
theorem State.stallEnds_spec {s : State} {n t0 : Nat} (hstall : (s.stream n).stall = some t0) (hfail : (s.stream n).fail = false)
    (htime : t0 + 1000000000 ≤ s.ns) :
    ((s.stallEnds n).stream n).fail = true ∧ ((s.stallEnds n).stream n).held = [] ∧
      (s.stallEnds n).agenda = ((s.stream n).held ++ s.heldByLink).map Turn.again ++ s.agenda ∧
      (s.link.masked 82 = false → Out.msi 82 ∈ (s.stallEnds n).link.sent) ∧ (s.stallEnds n).mem = s.mem := by
  have hover : s.stallOver n = true := State.stallOver_of hstall hfail htime
  have hends : s.stallEnds n = { ((s.updStream n fun x => { x with fail := true, held := [] }).msi 82) with
      agenda := ((s.stream n).held ++ s.heldByLink).map Turn.again ++
        ((s.updStream n fun x => { x with fail := true, held := [] }).msi 82).agenda } := if_pos hover
  rw [hends]
  have hlink := (s.updStream n fun x => { x with fail := true, held := [] }).atLink_msi 82
  have hstream : ((s.updStream n fun x => { x with fail := true, held := [] }).msi 82).stream n =
      { s.stream n with fail := true, held := [] } := by
    refine Eq.trans ?_ (s.stream_updStream_same n fun x => { x with fail := true, held := [] })
    unfold State.msi
    split
    · split <;> rfl
    · rfl
  have hsent : s.link.masked 82 = false →
      Out.msi 82 ∈ ((s.updStream n fun x => { x with fail := true, held := [] }).msi 82).link.sent := fun hmask => by
    rw [State.sent_msi (s := s.updStream n _) hmask]
    exact .head _
  refine ⟨(congrArg Ide.fail hstream :), (congrArg Ide.held hstream :), ?_, hsent, hlink.mem⟩
  exact congrArg (((s.stream n).held ++ s.heldByLink).map Turn.again ++ ·) hlink.agenda

/-! ## Requests of peers -/

section
variable {u : State} {r : PeerReq} {h : PeerHome} (hwaits : u.peerWaits r = none) (hl2 : u.mgmt.l2Busy = false)
  (hblock : u.fabric.holdsBlock h.pa = false) (hmem : u.mem.isMem h.pa = true)
include hwaits hl2 hblock hmem

theorem State.peerGo_eq : u.peerGo r h = match r.kind, true with
      | .faa w add, true => u.sendPeer r h w add
      | _, _ => if u.behindPeer r h then u.holdWindow (.peerRequest r) else u.peerPerform r h := by
  rw [State.peerGo, hwaits]
  dsimp only
  rw [hl2, if_neg Bool.false_ne_true, State.peerAt, hblock, if_neg Bool.false_ne_true, hmem] <;> rfl

/-- An accepted fetch-and-add goes to the switch of the die it entered. -/
theorem State.peerGo_sends {w : Bool} {a : DWord} (hkind : r.kind = .faa w a) : u.peerGo r h = u.sendPeer r h w a := by
  rw [State.peerGo_eq hwaits hl2 hblock hmem, hkind]

/-- Any other that nothing holds is performed. -/
theorem State.peerGo_performs (hkind : ∀ w a, r.kind ≠ .faa w a) (hbehind : u.behindPeer r h = false) :
    u.peerGo r h = u.peerPerform r h := by
  rw [State.peerGo_eq hwaits hl2 hblock hmem, hbehind]
  cases hk : r.kind with
  | faa w a => exact absurd hk (hkind w a)
  | _ => rfl

end

theorem State.peerPerform_eq {u : State} {r : PeerReq} {h : PeerHome} (hmem : u.mem.isMem h.pa = true)
    (hstall : (u.stream expStream).stall = none) :
    u.peerPerform r h = match u.actAt .unowned h.ch (peerAct r.kind) (.mem h.pa) with
      | (s, .error page) => s.waitSweep page (.peerRequest r)
      | (s, .ok v) => s.peerReply (peerAct r.kind) v := by
  have hspot : u.mem.spotAt h.pa = .mem h.pa := by
    have hkind : u.mem.kind h.pa ≠ .host := fun hk => by rw [Mem.isMem, hk] at hmem; cases hmem
    rw [Mem.spotAt, if_neg (by simpa using hkind)]
  rw [State.peerPerform, hspot]
  dsimp only
  rw [State.linkHolds_mem hstall, if_neg Bool.false_ne_true]
  exact if_neg Bool.false_ne_true

/-- A request that arrives is answered by what its acceptance gives. -/
theorem exec_peerRequest_arrives {s : State} {r : PeerReq} (hhome : r.home = none) {a : State × Except Nat PeerHome} :
    a = s.acceptPeer r → exec (.peerRequest r) s = .next (match a with
      | (s, .error code) => s.refusePeer r code
      | (s, .ok h) => s.peerGo { r with home := some h } h) := by
  intro ha
  have hexec : exec (.peerRequest r) s = execPeerRequest r s := rfl
  rw [hexec, execPeerRequest, ← ha, hhome] <;> rfl

/-- Settles O40. -/
theorem hostAndPeerRequests : Obligations.HostAndPeerRequests := by
  unfold Obligations.HostAndPeerRequests
  refine ⟨⟨fun s r => ?_, fun s size off reg i w => ?_, fun s n session t0 => ?_⟩, fun s u r h => ?_⟩
  · intro pa n inside way put
    refine ⟨fun hway hl2 hn hmem hend hsound hstall => ?_, fun hservice hroot hinside => ⟨fun hready hwindow hstream hmode => ?_,
      fun hready => ?_⟩⟩
    · have hexec := exec_hostAccess_acts hn hl2 hmem hend hway
      obtain ⟨hread, hwrite, hwaits⟩ := State.hostAct_spec r hsound hstall
      refine ⟨fun hw => ?_, fun bs hw hpage => ?_, fun bs page hw hpage => ?_⟩
      · obtain ⟨hsent, hcells⟩ := hread hw
        have hlen : n = r.count := by simp only [n, hostLen, hw, Option.map_none, Option.getD_none]
        exact ⟨_, hexec, by rw [hlen]; exact hsent, hcells⟩
      · obtain ⟨hcells, hcores, hl1⟩ := hsound.hWrite .unowned 0 pa bs
        have hlen : n = bs.length := by simp only [n, hostLen, hw, Option.map_some, Option.getD_some]
        refine ⟨_, hexec.trans (congrArg _ (hwrite bs hw hpage)), fun a => ?_, hcores, hl1⟩
        rw [hcells, memGet_memWrite, hlen]
      · obtain ⟨hcells, hsweeping, hwaiter⟩ := s.waitSweep_spec page inside
        exact ⟨_, hexec.trans (congrArg _ (hwaits bs page hw hpage)), hcells, hsweeping, hwaiter⟩
    · exact exec_hostAccess_arrived hservice hroot hinside hready hwindow hstream hmode
    · refine ⟨_, exec_hostAccess_unready hservice hroot hinside hready, ?_, fun hw => ?_⟩
      · unfold State.hostNothing
        split <;> rfl
      · rw [State.hostNothing, hw]; rfl
  · have hexec : exec (.hostRegisterAccess size off reg i w) s = execHostRegisterAccess size off reg i w s := rfl
    refine ⟨fun hsize halign => ⟨fun hready hlo hhi hi => ?_, fun hready hreg => ?_⟩, fun hready => ?_, fun hbad hreg => ?_⟩
    · exact ⟨_, exec_hostRegisterAccess_read hsize halign hready hlo hhi hi, rfl, rfl, rfl⟩
    · have hok : ((size == 4 || size == 8) && off % size == 0) = true := by
        rw [halign]
        rcases hsize with rfl | rfl <;> rfl
      rw [hexec, execHostRegisterAccess]
      dsimp only
      rw [hready, if_neg (by simpa using hreg), hok, if_neg (by decide), State.hostPosted, hready]
      cases w <;> rfl
    · have hctl : exec (.hostRegisterAccess size off .msixCtl i w) s = execHostRegisterAccess size off .msixCtl i w s := rfl
      rw [hctl, execHostRegisterAccess]
      dsimp only
      rw [hready]
      rfl
    · have hno : ((size == 4 || size == 8) && off % size == 0) = false := by
        rcases hbad with ⟨h4, h8⟩ | h
        · simp [h4, h8]
        · simp [h]
      have hfirst : (!s.mgmt.ready && reg == .msixCtl) = false := by
        rcases hreg with h | h
        · simp [h]
        · simp [h]
      refine ⟨s.send .unsupported, ?_, rfl, rfl, rfl⟩
      rw [hexec, execHostRegisterAccess]
      dsimp only
      rw [hfirst, hno]
      rfl
  · refine ⟨fun hsession hstall => ?_, State.exec_ideKeyProgram_outside s n session, fun hstall hfail htime => ⟨?_, fun hsession => ?_⟩⟩
    · have hover : s.stallOver n = false := State.not_stallOver hstall
      exact ⟨_, State.exec_ideKeyProgram_held hsession hover, s.stream_updStream_same n _, rfl, rfl⟩
    · exact ⟨_, State.exec_ideStallTimeout s n, State.stallEnds_spec hstall hfail htime⟩
    · have hspec := State.stallEnds_spec (s := { s with agenda := .again (.ideKeyProgram ⟨n, session⟩) :: s.agenda })
        hstall hfail htime
      rw [State.heldByLink_agenda] at hspec
      exact ⟨_, State.exec_ideKeyProgram_over hsession (State.stallOver_of hstall hfail htime), hspec⟩
  · intro n x
    have hexec : exec (.peerRequest r) s = execPeerRequest r s := rfl
    refine ⟨fun hcase hwaits hl2 hblock hmem hsound hstall => ?_, fun hhome hrefused => ?_⟩
    · have hgo : exec (.peerRequest r) s = .next (u.peerGo { r with home := some h } h) := by
        rcases hcase with ⟨hhome, rfl⟩ | ⟨hhome, hsize, hneed, pa, ch, hat, rfl⟩
        · rw [hexec, execPeerRequest, hhome]
          have hr : ({ r with home := some h } : PeerReq) = r := by rw [← hhome]
          rw [hr]
        · refine exec_peerRequest_arrives hhome (a := (u, .ok _)) ?_
          rw [State.acceptPeer, if_neg (Nat.not_lt.2 hsize), if_neg (by rcases hneed with h | h <;> simp [h]), hat]
      refine ⟨fun k hkind hbehind => ?_, fun d hkind hbehind hpending => ?_, fun w a hkind => ?_⟩
      · obtain ⟨hmoves, hbytes⟩ := hsound.hRead .unowned h.ch h.pa k
        rw [State.peerGo_performs (r := { r with home := some h }) hwaits hl2 hblock hmem
          (fun w a hfaa => by cases hkind.symm.trans hfaa) hbehind] at hgo
        have hperform : u.peerPerform { r with home := some h } h =
            (u.hRead .unowned h.ch h.pa k).1.send (.data (natLe (leNat (u.hRead .unowned h.ch h.pa k).2) k)) := by
          rw [State.peerPerform_eq hmem hstall]
          dsimp only
          rw [hkind, peerAct, State.actAt, State.readSpot, if_pos hmem]
          rfl
        rw [hperform, hbytes] at hgo
        exact ⟨_, hgo, rfl, hmoves.cells⟩
      · obtain ⟨hcells, -, -⟩ := hsound.hWrite .unowned h.ch h.pa d
        rw [State.peerGo_performs (r := { r with home := some h }) hwaits hl2 hblock hmem
          (fun w a hfaa => by cases hkind.symm.trans hfaa) hbehind] at hgo
        have hperform : u.peerPerform { r with home := some h } h = u.hWrite .unowned h.ch h.pa d := by
          rw [State.peerPerform_eq hmem hstall]
          dsimp only
          rw [hkind, peerAct, State.actAt, State.mustSweep, hpending, if_neg Bool.false_ne_true]
          dsimp only
          rw [State.writeSpot, if_pos hmem]
          rfl
        rw [hperform] at hgo
        exact ⟨_, hgo, fun a => by rw [hcells, memGet_memWrite]⟩
      · rw [State.peerGo_sends (r := { r with home := some h }) hwaits hl2 hblock hmem hkind] at hgo
        exact ⟨_, _, hgo, rfl, rfl, rfl, rfl, rfl, rfl, rfl⟩
    · refine ⟨s.refusePeer r 0x02, ?_, rfl, rfl,
        tblGet_tblUpd_same 0 s.mgmt.peerRefuse (portDie r.port) fun x => (x + 1) % 2 ^ 32⟩
      have haccept : s.acceptPeer r = (s, .error 0x02) := by
        rw [State.acceptPeer]
        rcases hrefused with hsize | ⟨hwr, hneed⟩
        · exact if_pos hsize
        · split
          · rfl
          · exact if_pos (by simp [hwr, hneed])
      exact exec_peerRequest_arrives hhome haccept.symm

end Sys2Proof.Machine
end

section
/-! SUPPORT. Elements of the accumulator tiles (O29). -/

namespace Sys2Proof.Machine

set_option Elab.async false

/-! ## Elements and their places -/

theorem tileSpot_inj {t i j n m : Nat} (hn : n < 128) (hm : m < 128) : tileSpot t i n = tileSpot t j m ↔ i = j ∧ n = m := by
  rw [tileSpot, tileSpot, Prod.mk.injEq]
  omega

theorem Engine.elem_setElem (e : Engine) (t i n j m : Nat) (v : Word) :
    (e.setElem t i n v).elem t j m = if tileSpot t j m = tileSpot t i n then v else e.elem t j m := by
  rw [Engine.elem, Engine.elem, Engine.setElem]
  by_cases htile : (tileSpot t j m).1 = (tileSpot t i n).1
  · rw [htile, tblGet_tblUpd_same]
    by_cases hplace : (tileSpot t j m).2 = (tileSpot t i n).2
    · rw [if_pos (Prod.ext htile hplace), hplace, tblGet_tblSet_same]
    · rw [if_neg fun h => hplace (congrArg Prod.snd h), tblGet_tblSet_ne _ _ _ hplace]
  · rw [if_neg fun h => htile (congrArg Prod.fst h), tblUpd, tblGet_tblSet_ne _ _ _ htile]

section
variable {α : Type} (t : Nat) (row col : α → Nat) (val : α → Word)

/-- Writes at other places leave an element. -/
theorem Engine.elem_foldl_setElem_out {ls : List α} {j m : Nat} (h : ∀ x ∈ ls, tileSpot t j m ≠ tileSpot t (row x) (col x)) (e : Engine) :
    (ls.foldl (fun d x => d.setElem t (row x) (col x) (val x)) e).elem t j m = e.elem t j m := by
  induction ls generalizing e with
  | nil => rfl
  | cons x ls ih =>
    rw [List.foldl_cons, ih fun y hy => h y (.tail x hy), Engine.elem_setElem, if_neg (h x (.head ls))]

/-- Of writes at different places, each stands. -/
theorem Engine.elem_foldl_setElem_of_mem {ls : List α}
    (hdiff : ls.Pairwise fun x y => tileSpot t (row x) (col x) ≠ tileSpot t (row y) (col y)) (e : Engine) {x : α} (hx : x ∈ ls) :
    (ls.foldl (fun d x => d.setElem t (row x) (col x) (val x)) e).elem t (row x) (col x) = val x := by
  induction ls generalizing e with
  | nil => cases hx
  | cons y ls ih =>
    obtain ⟨hy, hrest⟩ := List.pairwise_cons.1 hdiff
    rw [List.foldl_cons]
    rcases List.mem_cons.1 hx with rfl | hx
    · rw [Engine.elem_foldl_setElem_out t row col val hy, Engine.elem_setElem, if_pos rfl]
    · exact ih hrest _ hx

end

/-! ## The rows of an mma -/

/-- One row: each of its elements from its own old value, and no other. -/
theorem Engine.elem_mmaRow (e : Engine) (f : MmaForm) (i : Nat) (row : List Word) (scale : BitVec 128 × BitVec 16) (ca cb : BitVec 256)
    (j : Nat) {n : Nat} (hn : n < 128) :
    (e.mmaRow f i row scale ca cb).elem f.t.toNat j n = if j = i then
      BitVec.ofNat 32 (mmaElem f (tblGet [] e.bufs (if f.s then 1 else 0)) row scale ca cb n (e.elem f.t.toNat i n).toNat)
    else e.elem f.t.toNat j n := by
  unfold Engine.mmaRow
  dsimp only
  by_cases hj : j = i
  · subst hj
    rw [if_pos rfl]
    have hdiff : (List.range 128).Pairwise fun a b => tileSpot f.t.toNat j a ≠ tileSpot f.t.toNat j b :=
      (List.nodup_range (n := 128)).imp_of_mem fun ha hb hne h =>
        hne ((tileSpot_inj (List.mem_range.1 ha) (List.mem_range.1 hb)).1 h).2
    exact Engine.elem_foldl_setElem_of_mem f.t.toNat (fun _ => j) (fun n => n) _ hdiff e (List.mem_range.2 hn)
  · rw [if_neg hj]
    exact Engine.elem_foldl_setElem_out f.t.toNat (fun _ => i) (fun n => n) _
      (fun m hm h => hj ((tileSpot_inj hn (List.mem_range.1 hm)).1 h).1) e

theorem Engine.bufs_mmaRow (e : Engine) (f : MmaForm) (i : Nat) (row : List Word) (scale : BitVec 128 × BitVec 16) (ca cb : BitVec 256) :
    (e.mmaRow f i row scale ca cb).bufs = e.bufs := by
  rw [Engine.mmaRow]
  exact foldl_keeps (p := Engine.bufs) (by exact fun _ _ => rfl) (List.range 128) e

theorem Engine.mmaRun_cons (e : Engine) (f : MmaForm) (r : Nat × List Word) (rows : Tbl (List Word))
    (scales : Tbl (BitVec 128 × BitVec 16)) (ca cb : BitVec 256) : e.mmaRun f (r :: rows) scales ca cb =
      (e.mmaRow f r.1 r.2 (tblGet (0, 0) scales r.1) ca cb).mmaRun f rows scales ca cb := by
  rw [Engine.mmaRun, List.foldl_cons, Engine.mmaRun]

/-- Settles O29. -/
theorem mmaWritesEveryElement : Obligations.MmaWritesEveryElement := by
  unfold Obligations.MmaWritesEveryElement
  intro e f rows scales ca cb hnodup
  have hbufs : (e.mmaRun f rows scales ca cb).bufs = e.bufs := foldl_keeps (p := Engine.bufs) (fun d r => d.bufs_mmaRow f _ _ _ _ _) _ e
  have hout : ∀ (rows : Tbl (List Word)) (e : Engine) i n, i ∉ rows.map (·.1) → n < 128 →
      (e.mmaRun f rows scales ca cb).elem f.t.toNat i n = e.elem f.t.toNat i n := by
    intro rows
    induction rows with
    | nil => exact fun _ _ _ _ _ => rfl
    | cons r rows ih =>
      intro e i n hi hn
      rw [List.map_cons, List.mem_cons, not_or] at hi
      rw [Engine.mmaRun_cons]
      exact (ih _ i n hi.2 hn).trans ((e.elem_mmaRow f r.1 r.2 _ ca cb i hn).trans (if_neg hi.1))
  refine ⟨?_, fun i n hi hn => hout rows e i n hi hn, hbufs⟩
  clear hbufs
  induction rows generalizing e with
  | nil => exact fun r hr => absurd hr List.not_mem_nil
  | cons q rows ih =>
    rw [List.map_cons, List.nodup_cons] at hnodup
    intro r hr n hn
    rw [Engine.mmaRun_cons]
    have hrow := fun j => e.elem_mmaRow f q.1 q.2 (tblGet (0, 0) scales q.1) ca cb j hn
    rcases List.mem_cons.1 hr with rfl | hr
    · exact (hout rows _ r.1 n hnodup.1 hn).trans ((hrow r.1).trans (if_pos rfl))
    · have hne : r.1 ≠ q.1 := fun h => hnodup.1 (h ▸ List.mem_map_of_mem hr)
      have hrest := ih (e.mmaRow f q.1 q.2 (tblGet (0, 0) scales q.1) ca cb) hnodup.2 r hr n hn
      rw [Engine.bufs_mmaRow, hrow r.1, if_neg hne] at hrest
      exact hrest

end Sys2Proof.Machine
end

section
/-! SUPPORT. The lanes of an issue of the matrix engine (O26 to O28): they go on together, and what the engine does keeps the
teams of every core. -/

namespace Sys2Proof.Machine

set_option Elab.async false

/-! ## What keeps the issue and the teams of every core -/

structure State.KeepsTeams (s t : State) : Prop where
  issue : t.issue = s.issue
  teams : ∀ c, (t.core c).teams = (s.core c).teams

namespace State.KeepsTeams

variable {s t u : State}

theorem refl (s : State) : s.KeepsTeams s := ⟨rfl, fun _ => rfl⟩

theorem trans (h : s.KeepsTeams t) (h' : t.KeepsTeams u) : s.KeepsTeams u :=
  ⟨h'.issue.trans h.issue, fun c => (h'.teams c).trans (h.teams c)⟩

theorem of_cores (hissue : t.issue = s.issue) (hcores : t.cores = s.cores) : s.KeepsTeams t :=
  ⟨hissue, fun c => by rw [State.core, hcores]; rfl⟩

theorem updCore (s : State) (c : Nat) {f : Core → Core} (hf : ∀ k, (f k).teams = k.teams) : s.KeepsTeams (s.updCore c f) := by
  refine ⟨rfl, fun d => ?_⟩
  by_cases h : d = c
  · subst h; rw [State.core_updCore_same, hf]
  · rw [State.core_updCore_ne s f h]

theorem updEngine (s : State) (c : Nat) (f : Engine → Engine) : s.KeepsTeams (s.updEngine c f) :=
  updCore s c fun _ => rfl

theorem outAdds (s : State) (ls : List (Nat × Nat)) : s.KeepsTeams (ls.foldl (fun u l => u.outAdd l) s) :=
  List.foldlRecOn (motive := fun u => s.KeepsTeams u) ls _ (refl s) fun _ h l _ => h.trans (updCore _ l.1 fun _ => rfl)

theorem team (h : s.KeepsTeams t) (c n : Nat) : t.team c n = s.team c n := by
  simp only [State.team, Core.team, h.teams c]

theorem group (h : s.KeepsTeams t) (c n g : Nat) : t.group c n g = s.group c n g := by
  rw [State.group, h.team]; rfl

theorem laneIn (h : s.KeepsTeams t) {v : State} (l : Nat) : v.laneIn t l = v.laneIn s l := by
  rw [State.laneIn, h.group]; rfl

theorem issTeam (h : s.KeepsTeams t) : t.issTeam = s.issTeam := by
  have := h.team s.issue.core s.issue.slot
  rw [State.issTeam, State.issCore, h.issue]; exact this

theorem issGroup (h : s.KeepsTeams t) : t.issGroup = s.issGroup := by
  rw [State.issGroup, h.issTeam, h.issue]; rfl

theorem issuing (h : s.KeepsTeams t) (hs : s.Issuing) : t.Issuing :=
  (State.Issuing.of_core hs h.issue (h.teams _)).1

theorem issLanes (h : s.KeepsTeams t) : t.issLanes = s.issLanes := by
  rw [State.issLanes, h.issue]; rfl

theorem nextPc (h : s.KeepsTeams t) : t.nextPc = s.nextPc := by
  rw [State.nextPc, h.issue]; rfl

end State.KeepsTeams

/-! ## The lanes of an issue go on together -/

/-- A core whose teams alone have changed. -/
theorem State.core_updIssGroup (s : State) (f : Group → Group) (c : Nat) :
    ∃ ts, (s.updIssGroup f).core c = { s.core c with teams := ts } := by
  by_cases h : c = s.issue.core
  · subst h; exact ⟨_, State.core_updCore_same _ _ _⟩
  · exact ⟨_, State.core_updCore_ne s _ h⟩

theorem State.engine_updIssGroup (s : State) (f : Group → Group) (c : Nat) :
    ((s.updIssGroup f).core c).engine = (s.core c).engine := by
  obtain ⟨ts, h⟩ := s.core_updIssGroup f c
  rw [h]

/-- Lanes that go on, after what keeps the teams. -/
theorem State.KeepsTeams.laneIn_mapLanes {s u : State} (hk : s.KeepsTeams u) (h : s.Issuing) {l : Nat} (hl : l ∈ s.issLanes)
    (f : Nat → Lane → Lane) : s.laneIn (u.updIssGroup fun y => y.mapLanes s.issLanes f) l = f l (s.issLane l) := by
  have hu := hk.issuing h
  have hgroup : (u.updIssGroup fun y => y.mapLanes s.issLanes f).group s.issue.core s.issue.slot s.issue.group =
      u.issGroup.mapLanes s.issLanes f := by
    have := State.group_updIssGroup hu fun y => y.mapLanes s.issLanes f
    rwa [hk.issue] at this
  rw [State.laneIn, hgroup, hk.issGroup, Group.lane_mapLanes _ _ _ _ (h.lanes l (State.issLanes_lt hl)),
    if_pos (by simpa using hl)]
  rfl

/-- The lanes of the issue pass with their flag raised. -/
theorem State.KeepsTeams.laneIn_passLanes {s u : State} (hk : s.KeepsTeams u) (h : s.Issuing) (flag : FlagSel) {l : Nat}
    (hl : l ∈ s.issLanes) : s.laneIn (u.passLanes flag s.issLanes) l = ((s.issLane l).pend flag).goto s.nextPc := by
  rw [State.passLanes, hk.laneIn_mapLanes h hl, hk.nextPc]
  cases flag <;> rfl

/-- A change of the issuing group keeps its team's other fields. -/
theorem State.issTeam_updIssGroup {s : State} (h : s.Issuing) (f : Group → Group) :
    (s.updIssGroup f).issTeam = s.issTeam.updGroup s.issue.group f := State.team_updIssGroup h f

/-- With no flag full, no lane parks. -/
theorem State.parkFull_eq {s : State} {flag : FlagSel} (h : s.goLanes flag = s.issLanes) (u : State) :
    u.parkFull s flag = u.updIssGroup id := by
  have hnone : (s.issLanes.filter fun l => (s.issLane l).flagFull flag) = [] := by
    refine List.filter_eq_nil_iff.2 fun l hl => ?_
    have := (State.mem_goLanes.1 (h ▸ hl : l ∈ s.goLanes flag)).2
    simp [this]
  rw [State.parkFull, hnone]
  exact congrArg u.updIssGroup (funext fun y => Group.mapLanes_nil y _)

theorem State.laneIn_updIssGroup_id {s t : State} (h : t.Issuing) (hissue : t.issue = s.issue) (l : Nat) :
    s.laneIn (t.updIssGroup id) l = s.laneIn t l := by
  have hgroup : (t.updIssGroup id).group s.issue.core s.issue.slot s.issue.group = t.issGroup := by
    have := State.group_updIssGroup h id
    rwa [hissue] at this
  rw [State.laneIn, hgroup, State.issGroup, State.issTeam, State.issCore, hissue]; rfl

theorem State.goLanes_isEmpty {s : State} {flag : FlagSel} (h : s.goLanes flag = s.issLanes) (hz : s.issue.lanes ≠ 0) :
    (s.goLanes flag).isEmpty = false := by
  rw [h]
  exact List.isEmpty_eq_false_iff.2 (State.issLanes_ne_nil hz)

/-- The checks of an engine's operations and its role. -/
theorem State.matrixRole_none {s : State} (h : s.issGroup.role = .matrix) : s.matrixRole = none := by
  rw [State.matrixRole, h]; rfl

theorem State.operands_none {s : State} {oks : List Bool} (h : ∀ b ∈ oks, b = true) : s.operands oks = none := by
  rw [State.operands, show oks.all id = true from List.all_eq_true.2 h]; rfl

theorem firstFault_eq_none {cs : List (Option FaultInfo)} (h : ∀ c ∈ cs, c = none) : firstFault cs = none := by
  induction cs with
  | nil => rfl
  | cons c cs ih =>
    rw [h c List.mem_cons_self]
    exact ih fun d hd => h d (List.mem_cons_of_mem _ hd)

theorem State.gangChecks_none {s : State} {op : JointOp} {p : Nat} (hp : gangPos s.issCore.engine.gang s.issue.group = some p)
    (hla : ∀ la, s.issCore.engine.latch = some la → la.op = op ∧ la.joined s.issue.group = false)
    (hall : ∀ l, l < 32 → (s.issLane l).live = true → l ∈ s.issLanes) : ∀ c ∈ s.gangChecks op s.issLanes, c = none := by
  have hfits : (match s.issCore.engine.latch with
      | none => true
      | some la => la.op == op && !la.joined s.issue.group) = true := by
    cases hl : s.issCore.engine.latch with
    | none => rfl
    | some la => obtain ⟨ho, hj⟩ := hla la hl; simp [ho, hj]
  have hlive : (s.issGroup.liveLanes.all fun l => s.issLanes.contains l) = true := by
    refine List.all_eq_true.2 fun l hl => ?_
    simp only [Group.liveLanes, List.mem_filter, List.mem_range] at hl
    simpa using hall l hl.1 hl.2
  have hfits' : s.demand _ 0x0A s.issCore.engine.gang.toNat = none := congrArg (s.demand · _ _) hfits
  intro c hc
  rcases List.mem_cons.1 hc with rfl | hc
  · rw [hp]; rfl
  rcases List.mem_cons.1 hc with rfl | hc
  · exact hfits'
  rw [List.mem_singleton.1 hc, hlive]; rfl

end Sys2Proof.Machine

end

section
/-! SUPPORT. Joint operations (O27): the latch that a member joins, its release by the last member, and the grant of a token. -/

namespace Sys2Proof.Machine

set_option Elab.async false

/-! ## The pc of a lane, where flags fall -/

def Core.pcAt (k : Core) (slot g l : Nat) : PAddr := (((k.team slot).group g).lane l).pc

theorem Group.pc_mapLanes {f : Nat → Lane → Lane} (hf : ∀ l x, (f l x).pc = x.pc) (y : Group) (ls : List Nat) (l : Nat) :
    ((y.mapLanes ls f).lane l).pc = (y.lane l).pc := by
  simp only [Group.lane, Group.mapLanes, tblGet_eq_find, tblFind_tblMap]
  cases tblFind y.lanes l with
  | none => rfl
  | some x =>
    show (if ls.contains l then f l x else x).pc = x.pc
    split
    · exact hf l x
    · rfl

theorem Lane.pc_dropFlag (x : Lane) (tl : Bool) (f : Nat) : (x.dropFlag tl f).pc = x.pc := by
  unfold Lane.dropFlag
  split
  · rfl
  · split <;> rfl

theorem Core.pcAt_updByUid (k : Core) (uid : Nat) {f : Group → Group} (hf : ∀ y l, ((f y).lane l).pc = (y.lane l).pc)
    (slot g l : Nat) : (k.updByUid uid f).pcAt slot g l = k.pcAt slot g l := by
  unfold Core.updByUid
  cases k.findGroup uid with
  | none => rfl
  | some r =>
    simp only [Core.pcAt, Core.updTeam, Core.team, tblGet_eq_find]
    by_cases hs : slot = r.1
    · subst hs
      rw [tblFind_tblAdj_same]
      cases tblFind k.teams r.1 with
      | none => rfl
      | some t =>
        show (((t.updGroup r.2 f).group g).lane l).pc = ((t.group g).lane l).pc
        rw [Team.group_updGroup]
        split
        · rename_i hg
          rw [hf, hg.1]
        · rfl
    · rw [tblFind_tblAdj_ne _ _ hs]

theorem Core.pcAt_clearFlags (k : Core) (flag : FlagSel) (ms : List Member) (slot g l : Nat) :
    (k.clearFlags flag ms).pcAt slot g l = k.pcAt slot g l := by
  cases flag with
  | none => rfl
  | some f =>
    refine List.foldlRecOn (motive := fun k' : Core => k'.pcAt slot g l = k.pcAt slot g l) ms _ rfl fun k' h m _ => ?_
    rw [k'.pcAt_updByUid _ fun y l => y.pc_mapLanes (fun _ x => x.pc_dropFlag _ _) _ l]
    exact h

theorem Core.engine_clearFlags (k : Core) (flag : FlagSel) (ms : List Member) : (k.clearFlags flag ms).engine = k.engine := by
  cases flag with
  | none => rfl
  | some f =>
    refine List.foldlRecOn (motive := fun k' : Core => k'.engine = k.engine) ms _ rfl fun k' h m _ => ?_
    refine Eq.trans ?_ h
    unfold Core.updByUid
    split <;> rfl

/-! ## The acceptance of a joint operation -/

/-- An mma that is accepted joins the operations of its engine, with the members of its latch. -/
theorem State.acceptJoint_mma (s : State) (core : Nat) {la : Latch} {f : MmaForm} (hop : la.op = .mma f) :
    s.KeepsTeams (s.acceptJoint core la) ∧ (s.acceptJoint core la).power = s.power ∧
      ∃ o reuse scales, ((s.acceptJoint core la).core core).engine =
          { (s.core core).engine with reuse := reuse, scales := scales, ops := (s.core core).engine.ops ++ [o] } ∧
        o.members = la.members ∧ o.team = la.team := by
  obtain ⟨op, team, grid, members⟩ := la
  obtain rfl : op = .mma f := hop
  have hname : s.KeepsTeams s.name.2 := .of_cores rfl rfl
  unfold State.acceptJoint
  dsimp only
  generalize takeClaims _ _ = q
  obtain ⟨scales, ms⟩ := q
  exact ⟨hname.trans (.updEngine _ _ _), rfl, _, _, _, congrArg Core.engine (State.core_updCore_same _ _ _), rfl, rfl⟩

/-- An epilogue that is accepted, or that has no words, leaves the latch and the held operations of its engine, and every pc. -/
theorem State.acceptJoint_epi (s : State) (core : Nat) {la : Latch} {f : EpiForm} (hop : la.op = .epi f) :
    ((s.acceptJoint core la).core core).engine.latch = (s.core core).engine.latch ∧
      ∀ c slot g l, ((s.acceptJoint core la).core c).pcAt slot g l = (s.core c).pcAt slot g l := by
  have hkeep : ∀ t : State, s.KeepsTeams t → ∀ c slot g l, (t.core c).pcAt slot g l = (s.core c).pcAt slot g l := by
    intro t ht c slot g l
    simp only [Core.pcAt, Core.team, ht.teams c]
  have hname : s.KeepsTeams s.name.2 := .of_cores rfl rfl
  obtain ⟨op, team, grid, members⟩ := la
  obtain rfl : op = .epi f := hop
  unfold State.acceptJoint
  dsimp only
  split
  · split
    · refine ⟨?_, fun c slot g l => ?_⟩
      · rw [State.core_updCore_same, Core.engine_clearFlags]; rfl
      · by_cases hc : c = core
        · subst hc
          rw [State.core_updCore_same, Core.pcAt_clearFlags]; rfl
        · rw [State.core_updCore_ne _ _ hc]; rfl
    · refine ⟨?_, hkeep _ ((hname.trans (.outAdds s.name.2 _)).trans (.updEngine _ _ _))⟩
      rw [State.updEngine, State.core_updCore_same]
      refine List.foldlRecOn (motive := fun u : State => (u.core core).engine.latch = (s.core core).engine.latch) _ _ rfl fun u h x _ => ?_
      rw [State.outAdd]
      by_cases hc : core = x.1
      · rw [← hc, State.core_updCore_same]; exact h
      · rw [State.core_updCore_ne _ _ hc]; exact h
  · exact ⟨rfl, fun _ _ _ _ => rfl⟩

/-! ## The latch -/

/-- The members that the latch holds. -/
def Engine.latched (e : Engine) : List Member := (e.latch.map (·.members)).getD []

theorem Engine.latched_eq (e : Engine) : (match e.latch with
    | some l => l.members
    | none => []) = e.latched := by
  unfold Engine.latched
  cases e.latch <;> rfl

/-- The latch with one member more. -/
def State.latchOf (s : State) (op : JointOp) (m : Member) : Latch :=
  ⟨op, s.issTeam.uid, s.issTeam.grid, s.issCore.engine.latched ++ [m]⟩

theorem State.joinLatch_eq (s : State) (op : JointOp) (m : Member) : s.joinLatch op m =
    if (s.latchOf op m).members.length < gangCount s.issCore.engine.gang then
      s.updEngine s.issue.core fun e => { e with latch := some (s.latchOf op m) }
    else
      let u := s.updEngine s.issue.core fun e => { e with latch := none }
      let u := match op with
        | .mma _ => u.takeToken s.issue.core
        | .epi _ => u
      if s.issCore.engine.held.isEmpty && u.acceptable s.issue.core (s.latchOf op m) then u.acceptJoint s.issue.core (s.latchOf op m)
      else u.updEngine s.issue.core fun e => { e with held := e.held ++ [s.latchOf op m] } := by
  rw [State.latchOf, ← Engine.latched_eq]
  cases op <;> rfl

/-- A member that is not the last joins the latch. -/
theorem State.joinLatch_waits {s : State} {op : JointOp} {m : Member}
    (h : s.issCore.engine.latched.length + 1 < gangCount s.issCore.engine.gang) :
    s.joinLatch op m = s.updEngine s.issue.core fun e => { e with latch := some (s.latchOf op m) } := by
  rw [State.joinLatch_eq, if_pos]
  simpa [State.latchOf] using h

theorem State.engine_updEngine (s : State) (c : Nat) (f : Engine → Engine) :
    ((s.updEngine c f).core c).engine = f (s.core c).engine := by
  rw [State.updEngine, State.core_updCore_same]

theorem State.keepsTeams_takeToken (s : State) (c : Nat) : s.KeepsTeams (s.takeToken c) :=
  (State.KeepsTeams.updEngine s c fun e => { e with token := false }).trans (.of_cores rfl rfl)

theorem State.engine_takeToken (s : State) (c : Nat) :
    ((s.takeToken c).core c).engine = { (s.core c).engine with token := false } :=
  s.engine_updEngine c fun e => { e with token := false }

/-- The last member of an mma releases it, with a power token; an engine that holds nothing accepts it. -/
theorem State.joinLatch_mma {s : State} {f : MmaForm} {m : Member}
    (h : gangCount s.issCore.engine.gang ≤ s.issCore.engine.latched.length + 1) :
    s.KeepsTeams (s.joinLatch (.mma f) m) ∧ ((s.joinLatch (.mma f) m).core s.issue.core).engine.latch = none ∧
      (s.joinLatch (.mma f) m).power.tokOut = s.power.tokOut + 1 ∧
      (s.issCore.engine.held = [] → ∃ o, ((s.joinLatch (.mma f) m).core s.issue.core).engine.ops = s.issCore.engine.ops ++ [o] ∧
        o.members = s.issCore.engine.latched ++ [m]) := by
  obtain ⟨u, hu⟩ : ∃ u, u = (s.updEngine s.issue.core fun e => { e with latch := none }).takeToken s.issue.core := ⟨_, rfl⟩
  have hkeep : s.KeepsTeams u := by
    rw [hu]
    exact (State.KeepsTeams.updEngine s _ _).trans (State.keepsTeams_takeToken _ _)
  have heng : (u.core s.issue.core).engine = { s.issCore.engine with latch := none, token := false } := by
    rw [hu, State.engine_takeToken, State.engine_updEngine]
    rfl
  have htok : u.power.tokOut = s.power.tokOut + 1 := by rw [hu]; rfl
  have hacc : u.acceptable s.issue.core (s.latchOf (.mma f) m) = true := rfl
  have hlen : ¬ (s.latchOf (.mma f) m).members.length < gangCount s.issCore.engine.gang := by
    simpa [State.latchOf] using h
  have heq : s.joinLatch (.mma f) m = if s.issCore.engine.held.isEmpty then u.acceptJoint s.issue.core (s.latchOf (.mma f) m)
      else u.updEngine s.issue.core fun e => { e with held := e.held ++ [s.latchOf (.mma f) m] } := by
    rw [State.joinLatch_eq, if_neg hlen]
    dsimp only
    rw [← hu, hacc, Bool.and_true]
  rw [heq]
  obtain ⟨hteams, hpower, o, _, _, hops, hmem, -⟩ := u.acceptJoint_mma s.issue.core (la := s.latchOf (.mma f) m) rfl
  cases hheld : s.issCore.engine.held with
  | nil =>
    refine ⟨hkeep.trans hteams, ?_, ?_, fun _ => ⟨o, ?_, hmem⟩⟩
    · rw [List.isEmpty_nil, if_pos rfl, hops, heng]
    · rw [List.isEmpty_nil, if_pos rfl, hpower, htok]
    · rw [List.isEmpty_nil, if_pos rfl, hops, heng]
  | cons x xs =>
    rw [List.isEmpty_cons, if_neg Bool.false_ne_true]
    refine ⟨hkeep.trans (.updEngine _ _ _), ?_, htok, fun h => absurd h (List.cons_ne_nil _ _)⟩
    rw [State.engine_updEngine]
    exact (congrArg Engine.latch heng :)

/-- The last member of an epilogue releases it, and every pc stays. -/
theorem State.joinLatch_epi {s : State} {f : EpiForm} {m : Member}
    (h : gangCount s.issCore.engine.gang ≤ s.issCore.engine.latched.length + 1) :
    ((s.joinLatch (.epi f) m).core s.issue.core).engine.latch = none ∧
      ∀ c slot g l, ((s.joinLatch (.epi f) m).core c).pcAt slot g l = (s.core c).pcAt slot g l := by
  obtain ⟨u, hu⟩ : ∃ u, u = s.updEngine s.issue.core fun e => { e with latch := none } := ⟨_, rfl⟩
  have hlatch : (u.core s.issue.core).engine.latch = none := by
    rw [hu, State.updEngine, State.core_updCore_same]
  have hpc : ∀ t : State, u.KeepsTeams t → ∀ c slot g l, (t.core c).pcAt slot g l = (s.core c).pcAt slot g l := by
    intro t ht c slot g l
    have := (State.KeepsTeams.updEngine s s.issue.core fun e => { e with latch := none })
    rw [← hu] at this
    simp only [Core.pcAt, Core.team, (this.trans ht).teams c]
  have hlen : ¬ (s.latchOf (.epi f) m).members.length < gangCount s.issCore.engine.gang := by
    simpa [State.latchOf] using h
  have heq : s.joinLatch (.epi f) m = if s.issCore.engine.held.isEmpty && u.acceptable s.issue.core (s.latchOf (.epi f) m) then
        u.acceptJoint s.issue.core (s.latchOf (.epi f) m)
      else u.updEngine s.issue.core fun e => { e with held := e.held ++ [s.latchOf (.epi f) m] } := by
    rw [State.joinLatch_eq, if_neg hlen, hu]
  rw [heq]
  split
  · obtain ⟨hl, hp⟩ := u.acceptJoint_epi s.issue.core (la := s.latchOf (.epi f) m) rfl
    exact ⟨hl.trans hlatch, fun c slot g l => (hp c slot g l).trans (hpc u (.refl u) c slot g l)⟩
  · refine ⟨?_, hpc _ (.updEngine _ _ _)⟩
    rw [State.updEngine, State.core_updCore_same]
    exact hlatch

end Sys2Proof.Machine

end

section
/-! SUPPORT. The issue of joint operations (O27). -/

namespace Sys2Proof.Machine

set_option Elab.async false

/-- The issue of a member, after its lanes have passed. -/
def State.joins (s : State) (flag : FlagSel) (op : JointOp) (m : Member) : State := (s.passLanes flag s.issLanes).joinLatch op m

/-- An mma whose checks pass joins the latch with the rows of its lanes. -/
theorem exec_mma_joins {s : State} {f : MmaForm} {p : Nat} (hrole : s.issGroup.role = .matrix) (hz : s.issue.lanes ≠ 0)
    (hgo : s.goLanes f.flag = s.issLanes) (hp : gangPos s.issCore.engine.gang s.issue.group = some p)
    (hblock : blockOk s.issGroup.units s.issCore.engine.gang f = true) (hscale : s.issCore.engine.scalesFit p f = true)
    (hreuse : s.issCore.engine.reuseFits f = true) (hgang : ∀ c ∈ s.gangChecks (mmaKey f) s.issLanes, c = none) :
    exec (.mma f) s = .next (s.joins f.flag (mmaKey f)
      (s.member s.issLanes p (s.issLanes.map fun l => (l, s.srcRegs 0 l (match f.a with
        | .reg r => r.toNat
        | _ => 0) (4 * mxBits f.afmt))) (f.afmt == .e2m1) none)) := by
  have hexec : exec (.mma f) s = execMma f s := rfl
  rw [hexec]
  unfold execMma
  dsimp only
  have hempty := State.goLanes_isEmpty hgo hz
  have hchecks : firstFault (s.gangChecks (mmaKey f) s.issLanes ++
      [s.demand (s.issCore.engine.scalesFit p f) 0x09 p,
        s.demand (s.issCore.engine.reuseFits f) 0x0A s.issCore.engine.gang.toNat]) = none := by
    rw [firstFault_append (firstFault_eq_none hgang), hscale, hreuse]; rfl
  rw [hp, Option.getD_some, State.orFault_pass hz (by rw [State.matrixRole_none hrole, State.operands_none (by simpa using hblock)]; rfl),
    hempty, if_neg Bool.false_ne_true, hgo, State.orFault_pass hz hchecks] <;> rfl

/-- An epi.run of a member at another list position than 0 joins the latch with nothing of its own. -/
theorem exec_epiRun_joins {s : State} {g : EpiForm} {p : Nat} (hrole : s.issGroup.role = .matrix) (hz : s.issue.lanes ≠ 0)
    (hgo : s.goLanes g.flag = s.issLanes) (hp : gangPos s.issCore.engine.gang s.issue.group = some p) (hpos : p ≠ 0)
    (hsb : s.srcOk 2 g.sb = true) (hc : s.srcOk 1 g.c = true) (hpk : s.srcOk 1 g.p = true)
    (htile : 5 ≤ gangCount s.issCore.engine.gang → g.t.toNat % 2 = 0) (hgang : ∀ c ∈ s.gangChecks (epiKey g) s.issLanes, c = none) :
    exec (.epiRun g) s = .next (s.joins g.flag (epiKey g) (s.member s.issLanes p [] false none)) := by
  have hexec : exec (.epiRun g) s = execEpiRun g s := rfl
  rw [hexec]
  unfold execEpiRun
  dsimp only
  have hempty := State.goLanes_isEmpty hgo hz
  have htile' : (!(decide (5 ≤ gangCount s.issCore.engine.gang) && g.t.toNat % 2 == 1)) = true := by
    by_cases h5 : 5 ≤ gangCount s.issCore.engine.gang
    · simp [htile h5]
    · simp [h5]
  have hsome : ¬ (some p = some 0) := fun h => hpos (Option.some.inj h)
  have hops : s.operands [s.srcOk 2 g.sb, s.srcOk 1 g.c, s.srcOk 1 g.p,
      !(decide (5 ≤ gangCount s.issCore.engine.gang) && g.t.toNat % 2 == 1)] = none :=
    State.operands_none (by rw [hsb, hc, hpk, htile']; decide)
  rw [hp, Option.getD_some, if_neg hsome, if_neg hsome, List.nil_append,
    State.orFault_pass hz (by rw [State.matrixRole_none hrole, hops]; rfl),
    hempty, if_neg Bool.false_ne_true, hgo, State.orFault_pass hz (firstFault_eq_none hgang)] <;> rfl

/-! ## A member's issue -/

/-- What the issuing core keeps while its lanes pass. -/
theorem State.passLanes_keeps {s : State} (h : s.Issuing) (flag : FlagSel) :
    (s.passLanes flag s.issLanes).issue = s.issue ∧ (s.passLanes flag s.issLanes).power = s.power ∧
      (s.passLanes flag s.issLanes).issCore.engine = s.issCore.engine ∧
      (s.passLanes flag s.issLanes).issTeam.uid = s.issTeam.uid ∧ (s.passLanes flag s.issLanes).issTeam.grid = s.issTeam.grid := by
  refine ⟨rfl, rfl, s.engine_updIssGroup _ _, ?_, ?_⟩
  · show (State.issTeam (s.updIssGroup _)).uid = _
    rw [State.issTeam_updIssGroup h]; rfl
  · show (State.issTeam (s.updIssGroup _)).grid = _
    rw [State.issTeam_updIssGroup h]; rfl

/-- A member that joins and is not the last: the latch has it, and the rest of the engine and the power stay. -/
theorem State.joins_waits {s : State} (h : s.Issuing) {flag : FlagSel} {op : JointOp} {m : Member}
    (hlen : s.issCore.engine.latched.length + 1 < gangCount s.issCore.engine.gang) :
    (∀ l ∈ s.issLanes, s.laneIn (s.joins flag op m) l = ((s.issLane l).pend flag).goto s.nextPc) ∧
      ((s.joins flag op m).core s.issue.core).engine =
        { s.issCore.engine with latch := some ⟨op, s.issTeam.uid, s.issTeam.grid, s.issCore.engine.latched ++ [m]⟩ } ∧
      (s.joins flag op m).power = s.power := by
  obtain ⟨-, hpower, hengine, huid, hgrid⟩ := State.passLanes_keeps h flag
  rw [State.joins, State.joinLatch_waits (by rw [hengine]; exact hlen)]
  refine ⟨fun l hl => ?_, ?_, hpower⟩
  · rw [(State.KeepsTeams.updEngine _ _ _).laneIn]
    exact (State.KeepsTeams.refl s).laneIn_passLanes h flag hl
  · rw [State.latchOf, huid, hgrid, hengine]
    refine (State.engine_updEngine _ _ _).trans ?_
    rw [show ((s.passLanes flag s.issLanes).core (s.passLanes flag s.issLanes).issue.core).engine = s.issCore.engine from hengine]

/-- The last member of an mma. -/
theorem State.joins_mma {s : State} (h : s.Issuing) {flag : FlagSel} {f : MmaForm} {m : Member}
    (hlen : gangCount s.issCore.engine.gang ≤ s.issCore.engine.latched.length + 1) :
    (∀ l ∈ s.issLanes, s.laneIn (s.joins flag (.mma f) m) l = ((s.issLane l).pend flag).goto s.nextPc) ∧
      ((s.joins flag (.mma f) m).core s.issue.core).engine.latch = none ∧
      (s.joins flag (.mma f) m).power.tokOut = s.power.tokOut + 1 ∧
      (s.issCore.engine.held = [] → ∃ o, ((s.joins flag (.mma f) m).core s.issue.core).engine.ops = s.issCore.engine.ops ++ [o] ∧
        o.members = s.issCore.engine.latched ++ [m]) := by
  obtain ⟨-, hpower, hengine, -, -⟩ := State.passLanes_keeps h flag
  obtain ⟨hkeep, hlatch, htok, hops⟩ := State.joinLatch_mma (s := s.passLanes flag s.issLanes) (f := f) (m := m) (by rw [hengine]; exact hlen)
  rw [hengine] at hops
  refine ⟨fun l hl => ?_, hlatch, htok, hops⟩
  rw [State.joins, hkeep.laneIn]
  exact (State.KeepsTeams.refl s).laneIn_passLanes h flag hl

/-- The last member of an epilogue. -/
theorem State.joins_epi {s : State} (h : s.Issuing) {flag : FlagSel} {f : EpiForm} {m : Member}
    (hlen : gangCount s.issCore.engine.gang ≤ s.issCore.engine.latched.length + 1) :
    (∀ l ∈ s.issLanes, (s.laneIn (s.joins flag (.epi f) m) l).pc = s.nextPc) ∧
      ((s.joins flag (.epi f) m).core s.issue.core).engine.latch = none := by
  obtain ⟨-, -, hengine, -, -⟩ := State.passLanes_keeps h flag
  obtain ⟨hlatch, hpc⟩ := State.joinLatch_epi (s := s.passLanes flag s.issLanes) (f := f) (m := m) (by rw [hengine]; exact hlen)
  refine ⟨fun l hl => (hpc _ _ _ l).trans ?_, hlatch⟩
  refine (congrArg Lane.pc ((State.KeepsTeams.refl s).laneIn_passLanes h flag hl)).trans ?_
  cases flag <;> rfl

/-! ## Tokens and held operations -/

theorem exec_tokenGrant_grants {s : State} {core : Nat} (hwaits : ∃ c ∈ (s.core core).teams, ∃ g ∈ c.2.groups, ∃ l, l < 32 ∧
      (g.2.lane l).live = true ∧ s.needsToken core c.1 g.1 l = true)
    (htok : (s.core core).engine.token = false) (hfree : 0 < s.tokensFree) :
    exec (.tokenGrant core) s = .next (s.updEngine core fun e => { e with token := true }) := by
  have hexec : exec (.tokenGrant core) s = execTokenGrant core s := rfl
  rw [hexec]
  unfold execTokenGrant
  dsimp only
  refine congrArg Host.Outcome.next (if_pos ?_)
  obtain ⟨c, hc, g, hg, l, hl, hlive, hneeds⟩ := hwaits
  have hany : ((s.core core).teams.any fun t => t.2.groups.any fun g => (List.range 32).any fun l =>
      (g.2.lane l).live && s.needsToken core t.1 g.1 l) = true := by
    refine List.any_eq_true.2 ⟨c, hc, List.any_eq_true.2 ⟨g, hg, List.any_eq_true.2 ⟨l, List.mem_range.2 hl, ?_⟩⟩⟩
    rw [hlive, hneeds]; rfl
  rw [hany, htok, decide_eq_true hfree]
  rfl

theorem exec_engineHeldAccept_mma {s : State} {core : Nat} {la : Latch} {rest : List Latch} {f : MmaForm}
    (hheld : (s.core core).engine.held = la :: rest) (hop : la.op = .mma f) :
    ∃ t o, exec (.engineHeldAccept core) s = .next t ∧ (t.core core).engine.held = rest ∧
      (t.core core).engine.ops = (s.core core).engine.ops ++ [o] ∧ o.members = la.members ∧ o.team = la.team := by
  have hexec : exec (.engineHeldAccept core) s = execEngineHeldAccept core s := rfl
  have hacc : s.acceptable core la = true := by rw [State.acceptable, hop]
  obtain ⟨-, -, o, reuse, scales, hops, hmem, hteam⟩ := s.acceptJoint_mma core hop
  refine ⟨(s.acceptJoint core la).updEngine core fun e => { e with held := rest }, o, ?_, ?_, ?_, hmem, hteam⟩
  · rw [hexec]
    unfold execEngineHeldAccept
    rw [hheld]
    exact congrArg Host.Outcome.next (if_pos hacc)
  · rw [State.engine_updEngine]
  · rw [State.engine_updEngine, hops]

/-! ## Settled -/

/-- Settles O27: a member's issue is the pass of its lanes and the latch with the member; an mma and an epi.run differ in what the last
member's release does. -/
theorem jointOperationsIssue : Obligations.JointOperationsIssue := by
  unfold Obligations.JointOperationsIssue
  refine ⟨fun s f g p h hrole hz hp hall i op flag regs hi hgo hlatch => ?_, fun s core la rest f => ?_⟩
  · rcases hi with ⟨rfl, rfl, rfl, rfl, hblock, hscale, hreuse⟩ | ⟨rfl, rfl, rfl, rfl, hpos, hsb, hc, hpk, htile⟩
    · refine ⟨_, _, exec_mma_joins hrole hz hgo hp hblock hscale hreuse (State.gangChecks_none hp hlatch hall), rfl, rfl,
        s.maskOf_issLanes, fun r hr _ l hl => ?_, ?_, fun hlen => (State.joins_waits h hlen).2, fun hlen => ?_⟩
      · rw [tblGet_eq_find]
        dsimp only [State.member]
        rw [hr, tblFind_map_of_mem hl]; rfl
      · have hlanes : ∀ m, ∀ l ∈ s.issLanes, s.laneIn (s.joins f.flag (mmaKey f) m) l = ((s.issLane l).pend f.flag).goto s.nextPc := by
          intro m
          by_cases hlen : s.issCore.engine.latched.length + 1 < gangCount s.issCore.engine.gang
          · exact (State.joins_waits h hlen).1
          · exact (State.joins_mma h (Nat.le_of_not_lt hlen)).1
        intro l hl
        refine ⟨?_, fun _ => hlanes _ l hl⟩
        rw [hlanes _ l hl]; rfl
      · obtain ⟨-, hnone, htok, hops⟩ := State.joins_mma h (flag := f.flag) hlen
        exact ⟨hnone, fun _ => ⟨htok, hops⟩⟩
    · refine ⟨_, _, exec_epiRun_joins hrole hz hgo hp hpos hsb hc hpk htile (State.gangChecks_none hp hlatch hall), rfl, rfl,
        s.maskOf_issLanes, fun r _ hno => (by cases hno), fun l hl => ⟨?_, fun hno => (by cases hno)⟩,
        fun hlen => (State.joins_waits h hlen).2, fun hlen => ⟨(State.joins_epi h hlen).2, fun hno => (by cases hno)⟩⟩
      by_cases hlen : s.issCore.engine.latched.length + 1 < gangCount s.issCore.engine.gang
      · rw [(State.joins_waits h hlen).1 l hl]; rfl
      · exact (State.joins_epi h (Nat.le_of_not_lt hlen)).1 l hl
  · exact ⟨fun hwaits htok hfree => ⟨_, exec_tokenGrant_grants hwaits htok hfree, State.engine_updEngine _ _ _⟩,
      fun hheld hop => exec_engineHeldAccept_mma hheld hop⟩

end Sys2Proof.Machine

end

section
/-! SUPPORT. The transfers of the matrix engine (O28): an operation of one issue is accepted. -/

namespace Sys2Proof.Machine

set_option Elab.async false

/-! ## Acceptance of an operation of one issue -/

theorem State.engine_outAdds (s : State) (ls : List (Nat × Nat)) (c : Nat) :
    ((ls.foldl (fun u l => u.outAdd l) s).core c).engine = (s.core c).engine := by
  refine List.foldlRecOn (motive := fun u : State => (u.core c).engine = (s.core c).engine) ls _ rfl fun u h x _ => ?_
  rw [State.outAdd]
  by_cases hc : c = x.1
  · rw [← hc, State.core_updCore_same]; exact h
  · rw [State.core_updCore_ne _ _ hc]; exact h

theorem State.keepsTeams_name (s : State) : s.KeepsTeams s.name.2 := .of_cores rfl rfl

/-- The engine of the issuing core has the operation last, and the lanes of the issue have passed with their flag raised. -/
structure State.Accepts (s t : State) (flag : FlagSel) (act : EngAct) (outs : List (Nat × Nat)) : Prop where
  issue : t.issue = s.issue
  issuing : t.Issuing
  lanes : ∀ l ∈ s.issLanes, s.laneIn t l = ((s.issLane l).pend flag).goto s.nextPc
  timeline : t.issTeam.tlMatrix = s.issTeam.tlMatrix
  engine : ∃ o, (t.core s.issue.core).engine.ops = s.issCore.engine.ops ++ [o] ∧ o.flag = flag ∧ o.act = act ∧ o.outs = outs

theorem State.acceptEng_accepts {s : State} (h : s.Issuing) (flag : FlagSel) (act : EngAct) (outs : List (Nat × Nat)) :
    s.Accepts (s.acceptEng flag s.issLanes act outs) flag act outs := by
  have hk : s.KeepsTeams (outs.foldl (fun u l => u.outAdd l) s.name.2) :=
    s.keepsTeams_name.trans (.outAdds s.name.2 outs)
  obtain ⟨u, hu⟩ : ∃ u, u = outs.foldl (fun u l => u.outAdd l) s.name.2 := ⟨_, rfl⟩
  have hengine : (u.core s.issue.core).engine = s.issCore.engine := by rw [hu, State.engine_outAdds]; rfl
  rw [← hu] at hk
  have hpass : (u.passLanes flag s.issLanes).Issuing := State.issuing_mapLanes (hk.issuing h) _ _
  obtain ⟨o, ho, hflag, hact, houts⟩ : ∃ o : EngOp, s.acceptEng flag s.issLanes act outs =
      (u.passLanes flag s.issLanes).updEngine s.issue.core (fun e => { e with ops := e.ops ++ [o] }) ∧ o.flag = flag ∧ o.act = act ∧
        o.outs = outs := by
    rw [hu]; exact ⟨_, rfl, rfl, rfl, rfl⟩
  rw [ho]
  have hkeep := State.KeepsTeams.updEngine (u.passLanes flag s.issLanes) s.issue.core fun e => { e with ops := e.ops ++ [o] }
  refine ⟨hk.issue, hkeep.issuing hpass, fun l hl => ?_, ?_, o, ?_, hflag, hact, houts⟩
  · rw [hkeep.laneIn]; exact hk.laneIn_passLanes h flag hl
  · rw [hkeep.issTeam]
    show (State.issTeam (u.updIssGroup _)).tlMatrix = _
    rw [State.issTeam_updIssGroup (hk.issuing h), hk.issTeam]; rfl
  · rw [State.engine_updEngine]
    exact congrArg (fun e : Engine => e.ops ++ [o]) ((u.engine_updIssGroup _ _).trans hengine)

/-- With no flag full, the park of full flags leaves what has been accepted. -/
theorem State.Accepts.parkFull {s t : State} {flag : FlagSel} {act : EngAct} {outs : List (Nat × Nat)}
    (h : s.Accepts t flag act outs) (hgo : s.goLanes flag = s.issLanes) : s.Accepts (t.parkFull s flag) flag act outs := by
  rw [State.parkFull_eq hgo]
  refine ⟨h.issue, State.issuing_updIssGroup h.issuing fun _ _ hy => hy, fun l hl => ?_, ?_, ?_⟩
  · rw [State.laneIn_updIssGroup_id h.issuing h.issue]; exact h.lanes l hl
  · rw [State.issTeam_updIssGroup h.issuing]; exact h.timeline
  · rw [State.engine_updIssGroup]; exact h.engine

/-- What keeps the teams and the engine keeps what has been accepted. -/
theorem State.Accepts.of_keepsTeams {s t u : State} {flag : FlagSel} {act : EngAct} {outs : List (Nat × Nat)}
    (h : s.Accepts t flag act outs) (hk : t.KeepsTeams u) (he : (u.core s.issue.core).engine = (t.core s.issue.core).engine) :
    s.Accepts u flag act outs :=
  ⟨hk.issue.trans h.issue, hk.issuing h.issuing, fun l hl => by rw [hk.laneIn]; exact h.lanes l hl,
    by rw [hk.issTeam]; exact h.timeline, by rw [he]; exact h.engine⟩

/-! ## mma.ldb -/

/-- A change of the issuing team that keeps its groups. -/
theorem State.updIssTeam_keeps {s : State} (h : s.Issuing) {f : Team → Team} (hf : ∀ t, (f t).groups = t.groups) :
    (s.updIssTeam f).Issuing ∧ (s.updIssTeam f).issTeam = f s.issTeam ∧ (s.updIssTeam f).issGroup = s.issGroup ∧
      (s.updIssTeam f).issCore.engine = s.issCore.engine := by
  have hcore : (s.updIssTeam f).issCore = s.issCore.updTeam s.issue.slot f := State.core_updCore_same _ _ _
  have hteam : (s.updIssTeam f).issTeam = f s.issTeam := by
    rw [State.issTeam, hcore]; exact Core.team_updTeam_same _ _ _ h.team
  have hgroup : (s.updIssTeam f).issGroup = s.issGroup := by
    rw [State.issGroup, hteam, Team.group, hf]; rfl
  refine ⟨⟨?_, by rw [hteam, hf]; exact h.group, fun l hl => by rw [hgroup]; exact h.lanes l hl⟩, hteam, hgroup, by rw [hcore]; rfl⟩
  rw [hcore]
  exact (isSome_tblAdj _ _ _ _).trans h.team

theorem State.pushPoint_keeps (s : State) (core team ctx uid lane : Nat) (a : Act) :
    s.KeepsTeams (s.pushPoint core team ctx uid lane a) ∧
      ∀ c, ((s.pushPoint core team ctx uid lane a).core c).engine = (s.core c).engine := by
  unfold State.pushPoint
  dsimp only
  refine ⟨s.keepsTeams_name.trans (.updCore s.name.2 _ fun _ => rfl), fun c => ?_⟩
  by_cases hc : c = core
  · subst hc; rw [State.core_updCore_same]; rfl
  · rw [State.core_updCore_ne _ _ hc]; rfl

/-- The state in which an mma.ldb is accepted: its team's timeline has the next number out, and an empty arrival its point. -/
def State.numbered (s : State) (f : LdbForm) (l : Nat) : State :=
  let u := s.updIssTeam fun t => { t with tlMatrix := t.tlMatrix.accept.2 }
  if f.ring.isSome then u.pushPoint s.issue.core s.issTeam.uid s.issGrid.ctx s.issGroup.uid l (.release .team) else u

theorem State.numbered_keeps {s : State} (h : s.Issuing) (f : LdbForm) (l : Nat) :
    (s.numbered f l).issue = s.issue ∧ (s.numbered f l).Issuing ∧ (s.numbered f l).issGroup = s.issGroup ∧
      (s.numbered f l).issTeam.tlMatrix.next = s.issTeam.tlMatrix.next + 1 ∧
      ((s.numbered f l).core s.issue.core).engine = s.issCore.engine := by
  obtain ⟨hi, hteam, hgroup, hengine⟩ := State.updIssTeam_keeps h (f := fun t => { t with tlMatrix := t.tlMatrix.accept.2 }) fun _ => rfl
  unfold State.numbered
  dsimp only
  split
  · obtain ⟨hk, he⟩ := (s.updIssTeam fun t => { t with tlMatrix := t.tlMatrix.accept.2 }).pushPoint_keeps s.issue.core s.issTeam.uid
      s.issGrid.ctx s.issGroup.uid l (.release .team)
    exact ⟨hk.issue, hk.issuing hi, hk.issGroup.trans hgroup, by rw [hk.issTeam, hteam]; rfl, (he _).trans hengine⟩
  · exact ⟨rfl, hi, hgroup, by rw [hteam]; rfl, hengine⟩

/-- An mma.ldb whose lines are present takes the next number of its team's matrix timeline and is accepted. -/
theorem State.issueLdb_accepts {s : State} (h : s.Issuing) (f : LdbForm)
    (hlines : s.absentLines (s.spadPlace (s.src64 0 (lowLane s.issue.lanes) f.a) (squareTag f.fmt + 16)) (squareTag f.fmt + 16) = []) :
    ∃ key rel, (s.numbered f (lowLane s.issue.lanes)).Accepts (s.issueLdb f s.issLanes 0 0) f.flag
      (.ldb f (s.spadPlace (s.src64 0 (lowLane s.issue.lanes) f.a) (squareTag f.fmt + 16)) key 0 0 s.issTeam.tlMatrix.next rel) [] := by
  obtain ⟨hissue, hi, -, -, -⟩ := State.numbered_keeps h f (lowLane s.issue.lanes)
  obtain ⟨key, rel, f', heq, hteams, hengine⟩ : ∃ key rel f', s.issueLdb f s.issLanes 0 0 =
      ((s.numbered f (lowLane s.issue.lanes)).acceptEng f.flag s.issLanes (.ldb f (s.spadPlace (s.src64 0 (lowLane s.issue.lanes) f.a)
        (squareTag f.fmt + 16)) key 0 0 s.issTeam.tlMatrix.next rel) []).updCore s.issue.core f' ∧
      (∀ k, (f' k).teams = k.teams) ∧ ∀ k, (f' k).engine = k.engine := by
    unfold State.issueLdb
    dsimp only
    rw [State.maskOf_issLanes, hlines, List.isEmpty_nil, Bool.not_true, if_neg Bool.false_ne_true]
    refine ⟨_, s.fresh, fun k => { k with ops := tblSet k.ops (s.numbered f (lowLane s.issue.lanes)).fresh _ }, rfl, fun _ => rfl,
      fun _ => rfl⟩
  have hlanes : (s.numbered f (lowLane s.issue.lanes)).issLanes = s.issLanes := by rw [State.issLanes, hissue]; rfl
  refine ⟨key, rel, ?_⟩
  rw [heq]
  refine State.Accepts.of_keepsTeams (hlanes ▸ State.acceptEng_accepts hi f.flag _ []) (.updCore _ _ hteams) ?_
  rw [hissue, State.core_updCore_same, hengine]

/-! ## Settled -/

/-- The engine of the issuing core after an accepted operation, and its lanes. -/
theorem State.Accepts.passed {s t : State} {flag : FlagSel} {act : EngAct} {outs : List (Nat × Nat)} (h : s.Accepts t flag act outs) :
    ∃ o, (∀ l ∈ s.issLanes, s.laneIn t l = ((s.issLane l).pend flag).goto s.nextPc) ∧
      (t.core s.issue.core).engine.ops = s.issCore.engine.ops ++ [o] ∧ o.act = act ∧ o.outs = outs := by
  obtain ⟨o, hops, -, hact, houts⟩ := h.engine
  exact ⟨o, h.lanes, hops, hact, houts⟩

theorem exec_mmaLdb_accepts {s : State} {f : LdbForm} (hrole : s.issGroup.role = .matrix) (hz : s.issue.lanes ≠ 0)
    (hheld : s.issCore.engine.held = []) (hgo : s.goLanes f.flag = s.issLanes) (hct : f.ct = false)
    (hdst : s.regsOk 2 f.dst.toNat = true) (ha : s.srcOk 2 f.a = true)
    (hring : ∀ r st, f.ring = some (r, st) → s.issTeam.stageOk r.toNat st.toNat = true)
    (hfault : s.spadFault 256 (squareTag f.fmt + 16) (s.src64 0 (lowLane s.issue.lanes) f.a) = none) :
    exec (.mmaLdb f) s = .next ((s.issueLdb f s.issLanes 0 0).parkFull s f.flag) := by
  have hexec : exec (.mmaLdb f) s = execMmaLdb f s := rfl
  have hring' : (match f.ring with
      | some (r, st) => s.issTeam.stageOk r.toNat st.toNat
      | none => true) = true := by
    cases hr : f.ring with
    | none => rfl
    | some q => exact hring q.1 q.2 hr
  rw [hexec]
  unfold execMmaLdb
  dsimp only
  rw [hct, if_neg Bool.false_ne_true, List.append_nil,
    State.orFault_pass hz (by rw [State.matrixRole_none hrole, State.operands_none (by rw [hdst, ha]; decide)]; rfl),
    State.goLanes_isEmpty hgo hz, if_neg Bool.false_ne_true, hgo, State.maskOf_issLanes, hfault,
    hheld, List.isEmpty_nil, Bool.not_true, if_neg Bool.false_ne_true, if_neg Bool.false_ne_true]
  exact congrArg Host.Outcome.next (State.orFault_pass hz
    (firstFault_eq_none (List.forall_mem_cons.2 ⟨congrArg (s.demand · 0x05 0) hring', by simp⟩)))

/-- An acc whose checks pass. -/
theorem exec_acc_accepts {s : State} {f : AccForm} (hrole : s.issGroup.role = .matrix) (hz : s.issue.lanes ≠ 0)
    (hheld : s.issCore.engine.held = []) (hgo : s.goLanes f.flag = s.issLanes) (hrow : s.srcOk 1 f.row0 = true)
    (hcount : s.srcOk 1 f.count = true) (ha : f.op ≠ .zero → s.srcOk 2 f.a = true)
    {row0 count : Nat} {a : DWord} (hr : (s.src32 1 (lowLane s.issue.lanes) f.row0).toNat = row0)
    (hn : (s.src32 2 (lowLane s.issue.lanes) f.count).toNat = count) (hadr : s.src64 0 (lowLane s.issue.lanes) f.a = a)
    (h1 : 1 ≤ count) (h128 : row0 + count ≤ 128) (hfault : f.op ≠ .zero → s.spadFault 256 (512 * count) a = none)
    {act : EngAct} {outs : List (Nat × Nat)}
    (hact : (match f.op with
      | .zero => s.acceptEng f.flag s.issLanes (.accZero f.t.toNat row0 count) []
      | .ld =>
        if (s.absentLines (s.spadPlace a (512 * count)) (512 * count)).isEmpty then
          s.acceptEng f.flag s.issLanes (.accLd f.t.toNat (s.spadPlace a (512 * count)) row0 count) []
        else s.parkAll s.issLanes (.lines s.issue.core (s.absentLines (s.spadPlace a (512 * count)) (512 * count)))
      | .st =>
        match s.refLines s.issue.core (.at_ (s.spadPlace a (512 * count))) (512 * count) with
        | none => s.parkAll s.issLanes (Ref.at_ (s.spadPlace a (512 * count))).awaited
        | some ls =>
          match ls.find? fun x => tblGet 0 (s.core x.1).outs x.2 = 63 with
          | some (k, _) => s.parkAll s.issLanes (.outFull k ((ls.filter fun y => y.1 == k).map (·.2)))
          | none => s.acceptEng f.flag s.issLanes (.accSt f.t.toNat (s.spadPlace a (512 * count)) row0 count) ls) =
      s.acceptEng f.flag s.issLanes act outs) :
    exec (.acc f) s = .next ((s.acceptEng f.flag s.issLanes act outs).parkFull s f.flag) := by
  have hexec : exec (.acc f) s = execAcc f s := rfl
  have hops : s.operands ([s.srcOk 1 f.row0, s.srcOk 1 f.count] ++ if f.op = .zero then [] else [s.srcOk 2 f.a]) = none := by
    refine State.operands_none ?_
    rw [hrow, hcount]
    split
    · decide
    · rename_i hop; rw [ha hop]; decide
  have hspad : (if f.op = .zero then none else s.spadFault 256 (512 * count) a) = none := by
    split
    · rfl
    · rename_i hop; exact hfault hop
  rw [hexec]
  unfold execAcc
  dsimp only
  rw [State.orFault_pass hz (by rw [State.matrixRole_none hrole, hops]; rfl),
    State.goLanes_isEmpty hgo hz, if_neg Bool.false_ne_true, hgo, State.maskOf_issLanes, hr, hn, hadr, hspad,
    State.orFault_pass hz (by rw [decide_eq_true h1, decide_eq_true h128]; rfl),
    hheld, List.isEmpty_nil, Bool.not_true, if_neg Bool.false_ne_true]
  exact congrArg (fun u : State => Host.Outcome.next (u.parkFull s f.flag)) hact

/-- Settles O28: each of the operations is accepted in a state that keeps the lanes of the issue. -/
theorem engineTransfersIssue : Obligations.EngineTransfersIssue := by
  unfold Obligations.EngineTransfersIssue
  intro s f g h hrole hz
  dsimp only
  intro hheld
  refine ⟨fun hgo hct hdst ha hring hfault hlines => ?_, fun hgo hrow hcount h1 h128 => ⟨fun hop => ?_, fun hop ha hfault hlines => ?_,
    fun ls hop ha hfault hls hfull => ?_⟩⟩
  · obtain ⟨hissue, hi, hgroup, hnum, hengine⟩ := State.numbered_keeps h f (lowLane s.issue.lanes)
    obtain ⟨key, rel, hacc⟩ := State.issueLdb_accepts h f hlines
    obtain ⟨o, hlanes, hops, hact, -⟩ := hacc.passed
    obtain ⟨t, ht⟩ : ∃ t, t = s.issueLdb f s.issLanes 0 0 := ⟨_, rfl⟩
    rw [← ht] at hacc hlanes hops
    refine ⟨_, o, key, rel, exec_mmaLdb_accepts hrole hz hheld hgo hct hdst ha hring hfault, ?_⟩
    rw [← ht, State.parkFull_eq hgo]
    refine ⟨fun l hl => ?_, ?_, hact, ?_⟩
    · have hl' := hlanes l (by rw [State.issLanes, hissue]; exact hl)
      rw [State.laneIn_updIssGroup_id hacc.issuing (hacc.issue.trans hissue)]
      simp only [State.laneIn, State.issLane, State.nextPc, hissue, hgroup] at hl' ⊢
      exact hl'
    · rw [State.engine_updIssGroup]
      simp only [State.issCore, hissue, hengine] at hops
      exact hops
    · have hteam : (t.updIssGroup id).team t.issue.core t.issue.slot = t.issTeam.updGroup t.issue.group id :=
        State.team_updIssGroup hacc.issuing id
      rw [hacc.issue, hissue] at hteam
      rw [hteam]
      exact (congrArg Timeline.next hacc.timeline).trans hnum
  · obtain ⟨o, hlanes, hops, hact, -⟩ := ((State.acceptEng_accepts h g.flag _ []).parkFull hgo).passed
    exact ⟨_, o, exec_acc_accepts hrole hz hheld hgo hrow hcount (absurd hop) rfl rfl rfl h1 h128 (absurd hop) (by rw [hop]), hlanes,
      hops, hact⟩
  · obtain ⟨o, hlanes, hops, hact, -⟩ := ((State.acceptEng_accepts h g.flag _ []).parkFull hgo).passed
    exact ⟨_, o, exec_acc_accepts hrole hz hheld hgo hrow hcount (fun _ => ha) rfl rfl rfl h1 h128 (fun _ => hfault)
      (by rw [hop, hlines]; rfl), hlanes, hops, hact⟩
  · obtain ⟨o, hlanes, hops, hact, houts⟩ := ((State.acceptEng_accepts h g.flag _ ls).parkFull hgo).passed
    have hnone : (ls.find? fun x => tblGet 0 (s.core x.1).outs x.2 = 63) = none :=
      List.find?_eq_none.2 fun x hx => by simpa using hfull x hx
    exact ⟨_, o, exec_acc_accepts hrole hz hheld hgo hrow hcount (fun _ => ha) rfl rfl rfl h1 h128 (fun _ => hfault)
      (by rw [hop]; dsimp only; rw [hls]; dsimp only; rw [hnone]), hlanes, hops, hact, houts⟩

end Sys2Proof.Machine

end

section
/-! SUPPORT. The set-up of the matrix engine (O26): the gang, the scale queue, a code table and the program store. -/

namespace Sys2Proof.Machine

set_option Elab.async false

/-! ## The lanes of an issue with no flag full -/

/-- Lanes that only go on, from a state in which they stand as at the issue. -/
theorem State.laneIn_runLanes {s u : State} {flag : FlagSel} (hissue : u.issue = s.issue) (hu : u.Issuing)
    (hlane : ∀ l, u.issLane l = s.issLane l) (hgo : s.goLanes flag = s.issLanes) {l : Nat} (hl : l ∈ s.issLanes) :
    s.laneIn (u.runLanes flag fun _ x => x) l = (s.issLane l).goto s.nextPc := by
  have hlanes : u.issLanes = s.issLanes := by rw [State.issLanes, hissue]; rfl
  have hfull : (u.issLane l).flagFull flag = false := by
    rw [hlane]; exact (State.mem_goLanes.1 (hgo ▸ hl : l ∈ s.goLanes flag)).2
  have hdone := (State.runLanes_performs hu flag fun _ x => x).done l (hlanes ▸ hl) hfull
  rw [hlane] at hdone
  simp only [State.laneIn, State.nextPc, hissue] at hdone ⊢
  exact hdone

/-- Lanes that go on, after a change of the engine alone. -/
theorem State.updEngine_runLanes {s : State} (h : s.Issuing) {flag : FlagSel} (hgo : s.goLanes flag = s.issLanes) (f : Engine → Engine) :
    (∀ l ∈ s.issLanes, s.laneIn ((s.updEngine s.issue.core f).runLanes flag fun _ x => x) l = (s.issLane l).goto s.nextPc) ∧
      (((s.updEngine s.issue.core f).runLanes flag fun _ x => x).core s.issue.core).engine = f s.issCore.engine := by
  have hk := State.KeepsTeams.updEngine s s.issue.core f
  refine ⟨fun l hl => State.laneIn_runLanes hk.issue (hk.issuing h) (fun l => ?_) hgo hl, ?_⟩
  · rw [State.issLane, hk.issGroup]; rfl
  · exact (State.engine_updIssGroup _ _ _).trans (State.engine_updEngine _ _ _)

/-! ## The loads of an engine's instruction -/

theorem State.ownAccess_selfWalk (s : State) (w : Who) (a : DWord) (n : Nat) : s.OwnAccess (s.selfWalk w a n) :=
  .of_home (s.atHome_selfWalk w a n)

/-- A load of the whole issue that goes on is an own access. -/
theorem State.ownAccess_loadOnce {s u : State} {go : List Nat} {a : DWord} {align n : Nat} {bs : List Byte}
    (h : s.loadOnce go a align n = .ok (u, bs)) : s.OwnAccess u := by
  unfold State.loadOnce at h
  dsimp only at h
  split at h
  · cases h
  · split at h
    · split at h
      · cases h
      · rename_i p ch _ _ _ _
        have hu : _ = u := congrArg Prod.fst (Except.ok.inj h)
        exact hu ▸ (s.ownAccess_selfWalk _ _ _).trans (State.ownAccess_ownLoad _ _ _ _ p ch n)
    · cases h

theorem State.ownAccess_loadWords {s u : State} {go : List Nat} {a : DWord} {n : Nat} {ws : List Word}
    (h : s.loadWords go a n = .ok (u, ws)) : s.OwnAccess u := by
  induction n generalizing s a ws with
  | zero =>
    have hu : s = u := congrArg Prod.fst (Except.ok.inj h)
    exact hu ▸ .refl s
  | succ n ih =>
    rw [State.loadWords] at h
    split at h
    · cases h
    · rename_i t bs hone
      split at h
      · cases h
      · rename_i v ws' hmore
        obtain rfl : v = u := congrArg Prod.fst (Except.ok.inj h)
        exact (State.ownAccess_loadOnce hone).trans (ih hmore)

/-! ## The four instructions -/

section
variable {s : State} {h : VHead} (hrole : s.issGroup.role = .matrix) (hz : s.issue.lanes ≠ 0) (hgo : s.goLanes h.flag = s.issLanes)
include hrole hz hgo

theorem exec_gangSet_sets {a : Src} (ha : s.srcOk 2 a = true)
    (hok : gangOk s.issTeam (s.src64 0 (lowLane s.issue.lanes) a) = true) (hlatch : s.issCore.engine.latch = none)
    (hscales : ∀ p, p < 6 → tblGet [] s.issCore.engine.scales p = []) :
    exec (.gangSet h a) s = .next ((s.updEngine s.issue.core fun e =>
      { e with gang := s.src64 0 (lowLane s.issue.lanes) a, reuse := none }).runLanes h.flag fun _ x => x) := by
  have hexec : exec (.gangSet h a) s = execGangSet h a s := rfl
  have hfull : ((List.range 6).find? fun p => !(tblGet [] s.issCore.engine.scales p).isEmpty) = none :=
    List.find?_eq_none.2 fun p hp => by simp [hscales p (List.mem_range.1 hp)]
  rw [hexec]
  unfold execGangSet
  dsimp only
  rw [hfull, hok, hlatch, State.orFault_pass hz (by rw [State.matrixRole_none hrole, State.operands_srcOk ha]; rfl),
    State.goLanes_isEmpty hgo hz, if_neg Bool.false_ne_true, State.orFault_pass hz rfl]

theorem exec_sclPush_pushes {r : BitVec 10} {sc : Src} {p : Nat} (hr : s.regsOk 4 r.toNat = true) (hsc : s.srcOk 1 sc = true)
    (hp : gangPos s.issCore.engine.gang s.issue.group = some p) (hlen : (tblGet [] s.issCore.engine.scales p).length < 8)
    (hall : ∀ l, l < 32 → (s.issLane l).live = true → l ∈ s.issLanes) :
    exec (.sclPush h (.reg r) sc) s = .next ((s.updEngine s.issue.core fun e =>
      { e with scales := tblUpd [] s.issCore.engine.scales p fun q => q ++
        [⟨s.issLanes.map fun l => (l, packScales (s.srcRegs 0 l r.toNat 4)),
          s.issLanes.map fun l => (l, (s.src32 1 l sc).extractLsb' 0 16)⟩] }).runLanes h.flag fun _ x => x) := by
  have hexec : exec (.sclPush h (.reg r) sc) s = execSclPush h (.reg r) sc s := rfl
  have hlive : (s.issGroup.liveLanes.all fun l => s.issLanes.contains l) = true := by
    refine List.all_eq_true.2 fun l hl => ?_
    simp only [Group.liveLanes, List.mem_filter, List.mem_range] at hl
    simpa using hall l hl.1 hl.2
  have hblock : s.blockReg 4 (.reg r) = true := hr
  rw [hexec]
  unfold execSclPush
  dsimp only
  rw [hp, State.orFault_pass hz (by rw [State.matrixRole_none hrole, State.operands_none (by rw [hblock, hsc]; decide)]; rfl),
    State.goLanes_isEmpty hgo hz, if_neg Bool.false_ne_true, hgo, Option.getD_some,
    State.orFault_pass hz (by rw [hlive, decide_eq_true hlen]; rfl)]
  rfl

theorem exec_ctSet_accepts {n : BitVec 2} {r : BitVec 10} (hr : s.regsOk 8 r.toNat = true) (hheld : s.issCore.engine.held = []) :
    exec (.ctSet h n (.reg r)) s = .next ((s.acceptEng h.flag s.issLanes
      (.ctSet n.toNat (BitVec.ofNat 256 (leNat (bytesOfWords (s.srcRegs 0 (lowLane s.issue.lanes) r.toNat 8))))) []).parkFull s h.flag) := by
  have hexec : exec (.ctSet h n (.reg r)) s = execCtSet h n (.reg r) s := rfl
  have hblock : s.blockReg 8 (.reg r) = true := hr
  rw [hexec]
  unfold execCtSet
  dsimp only
  rw [State.orFault_pass hz (by rw [State.matrixRole_none hrole, State.operands_none (by rw [hblock]; decide)]; rfl),
    State.goLanes_isEmpty hgo hz, if_neg Bool.false_ne_true, hheld, List.isEmpty_nil, Bool.not_true, if_neg Bool.false_ne_true, hgo,
    State.maskOf_issLanes]

theorem exec_epiLd_loads {a : Src} {u w : State} {bs : List Byte} {ws : List Word} (ha : s.srcOk 2 a = true)
    (hheld : s.issCore.engine.held = []) (hu : s.loadOnce s.issLanes (s.src64 0 (lowLane s.issue.lanes) a) 4 4 = .ok (u, bs))
    (hlen : leNat bs ≤ 64) (hw : u.loadWords s.issLanes (s.src64 0 (lowLane s.issue.lanes) a + 4) (leNat bs) = .ok (w, ws))
    (hok : ws.all epiWordOk = true) :
    exec (.epiLd h.flag a) s =
      .next ((w.updEngine s.issue.core fun e => { e with epiProg := ws }).runLanes h.flag fun _ x => x) := by
  have hexec : exec (.epiLd h.flag a) s = execEpiLd h.flag a s := rfl
  rw [hexec]
  unfold execEpiLd
  dsimp only
  rw [State.orFault_pass hz (by rw [State.matrixRole_none hrole, State.operands_srcOk ha]; rfl),
    State.goLanes_isEmpty hgo hz, if_neg Bool.false_ne_true, hheld, List.isEmpty_nil, Bool.not_true, if_neg Bool.false_ne_true, hgo,
    State.maskOf_issLanes, hu]
  dsimp only
  rw [if_neg (Nat.not_lt.2 hlen), hw]
  exact congrArg Host.Outcome.next (if_pos hok)

end

/-- Settles O26. -/
theorem engineSetupResults : Obligations.EngineSetupResults := by
  unfold Obligations.EngineSetupResults
  intro s h n a sc hs hrole hz hgo
  refine ⟨fun ha hok hlatch hscales => ?_, fun r p ha hr hsc hp hlen hall => ?_, fun r ha hr hheld => ?_,
    fun u w bs ws ha hheld hu hlen hw hok => ?_⟩
  · obtain ⟨hlanes, hengine⟩ := State.updEngine_runLanes hs hgo fun e =>
      { e with gang := s.src64 0 (lowLane s.issue.lanes) a, reuse := none }
    exact ⟨_, exec_gangSet_sets hrole hz hgo ha hok hlatch hscales, hengine, hlanes⟩
  · subst ha
    obtain ⟨x, hx⟩ : ∃ x : ScaleSet, x = ⟨s.issLanes.map fun l => (l, packScales (s.srcRegs 0 l r.toNat 4)),
      s.issLanes.map fun l => (l, (s.src32 1 l sc).extractLsb' 0 16)⟩ := ⟨_, rfl⟩
    obtain ⟨hlanes, hengine⟩ := State.updEngine_runLanes hs hgo fun e =>
      { e with scales := tblUpd [] s.issCore.engine.scales p fun q => q ++ [x] }
    have hexec := exec_sclPush_pushes hrole hz hgo hr hsc hp hlen hall
    rw [← hx] at hexec
    refine ⟨_, x, hexec, hlanes, ?_, fun l hl => ?_⟩
    · rw [(congrArg Engine.scales hengine :), tblGet_tblUpd_same]
    · rw [hx, tblGet_eq_find, tblGet_eq_find, tblFind_map_of_mem hl, tblFind_map_of_mem hl]
      exact ⟨rfl, rfl⟩
  · subst ha
    obtain ⟨o, hops, hflag, hact, -⟩ := ((State.acceptEng_accepts hs h.flag (.ctSet n.toNat
      (BitVec.ofNat 256 (leNat (bytesOfWords (s.srcRegs 0 (lowLane s.issue.lanes) r.toNat 8))))) []).parkFull hgo).engine
    exact ⟨_, o, exec_ctSet_accepts hrole hz hgo hr hheld, hops, hflag, hact,
      ((State.acceptEng_accepts hs h.flag _ []).parkFull hgo).lanes⟩
  · have hown := (State.ownAccess_loadOnce hu).trans (State.ownAccess_loadWords hw)
    have hk := State.KeepsTeams.updEngine w s.issue.core fun e => { e with epiProg := ws }
    have hlane : ∀ l, (w.updEngine s.issue.core fun e => { e with epiProg := ws }).issLane l = s.issLane l := fun l => by
      rw [State.issLane, hk.issGroup]; exact hown.issLane hs l
    refine ⟨_, exec_epiLd_loads hrole hz hgo ha hheld hu hlen hw hok, ?_, fun l hl => ?_⟩
    · refine (congrArg Engine.epiProg (State.engine_updIssGroup _ _ _)).trans ?_
      rw [State.engine_updEngine]
    · rw [State.laneIn_runLanes (hk.issue.trans hown.issue) (hk.issuing (hown.issuing hs).1) hlane hgo hl]; rfl

end Sys2Proof.Machine

end

section
/-! SUPPORT. Words and bytes, and rows of a tile (O30, O31). -/

namespace Sys2Proof.Machine

set_option Elab.async false

/-! ## Words as bytes -/

/-- Four bytes as a word. -/
theorem bytes_append (b0 b1 b2 b3 : Byte) : b3 ++ b2 ++ b1 ++ b0 = BitVec.ofNat 32 (leNat [b0, b1, b2, b3]) := by
  refine BitVec.eq_of_toNat_eq ?_
  have h0 := b0.isLt
  have h1 := b1.isLt
  have h2 := b2.isLt
  have h3 := b3.isLt
  rw [BitVec.toNat_append, BitVec.toNat_append, BitVec.toNat_append, ← Nat.shiftLeft_add_eq_or_of_lt h0,
    ← Nat.shiftLeft_add_eq_or_of_lt h1, ← Nat.shiftLeft_add_eq_or_of_lt h2]
  simp only [Nat.shiftLeft_eq, BitVec.toNat_ofNat, leNat]
  omega

theorem wordsOf_memRead (m : Memory) (x k : Nat) :
    wordsOf (memRead m x (4 * k)) = (List.range k).map fun j => BitVec.ofNat 32 (leNat (memRead m (x + 4 * j) 4)) := by
  induction k generalizing x with
  | zero => rfl
  | succ k ih =>
    have hstep : wordsOf (memRead m x (4 * (k + 1))) = (memGet m (x + 1 + 1 + 1) ++ memGet m (x + 1 + 1) ++ memGet m (x + 1) ++
        memGet m x) :: wordsOf (memRead m (x + 4) (4 * k)) := rfl
    rw [hstep, ih, List.range_succ_eq_map, List.map_cons, List.map_map, bytes_append]
    refine congrArg₂ List.cons rfl (List.map_congr_left fun j _ => ?_)
    rw [Function.comp_apply, show x + 4 + 4 * j = x + 4 * j.succ by omega]

theorem bytesOfWords_length (ws : List Word) : (bytesOfWords ws).length = 4 * ws.length := by
  induction ws with
  | nil => rfl
  | cons w ws ih => rw [bytesOfWords, List.length_append, natLe_length, ih, List.length_cons]; omega

theorem bytesOfWords_getD {ws : List Word} {j b : Nat} (hj : j < ws.length) (hb : b < 4) :
    (bytesOfWords ws).getD (4 * j + b) 0 = (natLe (ws.getD j 0).toNat 4).getD b 0 := by
  induction ws generalizing j with
  | nil => cases hj
  | cons w ws ih =>
    rw [bytesOfWords]
    cases j with
    | zero => rw [List.getD_append _ _ _ _ (by rw [natLe_length]; omega)]; simp
    | succ j =>
      rw [List.getD_append_right _ _ _ _ (by rw [natLe_length]; omega), natLe_length,
        show 4 * (j + 1) + b - 4 = 4 * j + b by omega, ih (Nat.lt_of_succ_lt_succ hj)]
      rfl

theorem leNat_natLe_word (w : Word) : leNat (natLe w.toNat 4) = w.toNat := by
  rw [leNat_natLe]
  exact Nat.mod_eq_of_lt w.isLt

/-- A word of four bytes that a write has written. -/
theorem leNat_memRead_of_natLe {m : Memory} {a : Nat} {w : Word} (h : ∀ b, b < 4 → memGet m (a + b) = (natLe w.toNat 4).getD b 0) :
    leNat (memRead m a 4) = w.toNat := by
  have hread : memRead m a 4 = [memGet m a, memGet m (a + 1), memGet m (a + 2), memGet m (a + 3)] := rfl
  rw [hread, h 1 (by omega), h 2 (by omega), h 3 (by omega), ← Nat.add_zero a, h 0 (by omega)]
  exact leNat_natLe_word w

/-- Words written, and read back one by one. -/
theorem leNat_memRead_memWrite_words (m : Memory) (x : Nat) (ws : List Word) {j : Nat} (hj : j < ws.length) :
    leNat (memRead (memWrite m x (bytesOfWords ws)) (x + 4 * j) 4) = (ws.getD j 0).toNat := by
  refine leNat_memRead_of_natLe fun b hb => ?_
  rw [memGet_memWrite, if_pos ⟨by omega, by rw [bytesOfWords_length]; omega⟩, show x + 4 * j + b - x = 4 * j + b by omega,
    bytesOfWords_getD hj hb]

/-! ## Rows -/

theorem Engine.elem_putRows (e : Engine) (t row0 : Nat) (ws : List Word) (j : Nat) {n : Nat} (hn : n < 128) :
    (e.putRows t row0 ws).elem t j n =
      if row0 ≤ j ∧ 128 * (j - row0) + n < ws.length then ws.getD (128 * (j - row0) + n) 0 else e.elem t j n := by
  have hspot : ∀ i : Nat, tileSpot t j n = tileSpot t (row0 + i / 128) (i % 128) ↔ row0 ≤ j ∧ i = 128 * (j - row0) + n := by
    intro i
    rw [tileSpot_inj hn (Nat.mod_lt _ (by omega))]
    omega
  unfold Engine.putRows
  split
  · rename_i h
    obtain ⟨hrow, hlen⟩ := h
    have hmem : (ws.getD (128 * (j - row0) + n) 0, 128 * (j - row0) + n) ∈ ws.zipIdx := by
      rw [List.mem_zipIdx_iff_getElem?, List.getD_eq_getElem?_getD, List.getElem?_eq_getElem hlen]; rfl
    have hdiff : ws.zipIdx.Pairwise fun x y => tileSpot t (row0 + x.2 / 128) (x.2 % 128) ≠ tileSpot t (row0 + y.2 / 128) (y.2 % 128) := by
      have hidx : (ws.zipIdx.map Prod.snd).Pairwise (· ≠ ·) := by
        rw [List.zipIdx_map_snd]; exact List.nodup_range'
      refine (List.pairwise_map.1 hidx).imp fun hne h => hne ?_
      rw [tileSpot_inj (Nat.mod_lt _ (by omega)) (Nat.mod_lt _ (by omega))] at h
      omega
    have hset := Engine.elem_foldl_setElem_of_mem t (fun x : Word × Nat => row0 + x.2 / 128) (fun x => x.2 % 128) (fun x => x.1) hdiff e hmem
    have hplace := (hspot (128 * (j - row0) + n)).2 ⟨hrow, rfl⟩
    refine Eq.trans ?_ hset
    rw [Engine.elem, Engine.elem, hplace]
  · rename_i h
    refine Engine.elem_foldl_setElem_out t (fun x : Word × Nat => row0 + x.2 / 128) (fun x => x.2 % 128) (fun x => x.1) (fun x hx hp => h ?_) e
    obtain ⟨hrow, hi⟩ := (hspot x.2).1 hp
    refine ⟨hrow, ?_⟩
    rw [← hi]
    have := List.mem_zipIdx hx
    omega

theorem Engine.rowsOf_getD (e : Engine) (t row0 count : Nat) {i n : Nat} (hi : i < count) (hn : n < 128) :
    (e.rowsOf t row0 count).getD (128 * i + n) 0 = e.elem t (row0 + i) n := by
  have hlt : 128 * i + n < 128 * count := by omega
  rw [Engine.rowsOf, List.getD_eq_getElem?_getD, List.getElem?_map, List.getElem?_range hlt]
  show e.elem t (row0 + (128 * i + n) / 128) ((128 * i + n) % 128) = _
  rw [show (128 * i + n) / 128 = i by omega, show (128 * i + n) % 128 = n by omega]

theorem Engine.rowsOf_length (e : Engine) (t row0 count : Nat) : (e.rowsOf t row0 count).length = 128 * count := by
  rw [Engine.rowsOf, List.length_map, List.length_range]

end Sys2Proof.Machine

end

section
/-! SUPPORT. Completions of the engine's operations (O30). -/

namespace Sys2Proof.Machine

set_option Elab.async false

/-! ## An operation that ends -/

theorem State.updCore_keeps {β : Type} {p : Core → β} (s : State) (c d : Nat) {f : Core → Core} (hf : ∀ k, p (f k) = p k) :
    p ((s.updCore c f).core d) = p (s.core d) := by
  by_cases hc : d = c
  · subst hc; rw [State.core_updCore_same, hf]
  · rw [State.core_updCore_ne _ _ hc]

theorem State.outSub_keeps {β : Type} {p : Core → β} (hp : ∀ (k : Core) outs freed, p { k with outs := outs, freed := freed } = p k)
    (s : State) (l : Nat × Nat) (d : Nat) : p ((s.outSub l).core d) = p (s.core d) ∧ (s.outSub l).power = s.power := by
  unfold State.outSub
  split
  · exact ⟨s.updCore_keeps l.1 d fun k => hp k _ _, rfl⟩
  · exact ⟨rfl, rfl⟩

theorem State.outSubs_keep {β : Type} {p : Core → β} (hp : ∀ (k : Core) outs freed, p { k with outs := outs, freed := freed } = p k)
    (s : State) (ls : List (Nat × Nat)) (d : Nat) :
    p ((ls.foldl (fun s l => s.outSub l) s).core d) = p (s.core d) ∧ (ls.foldl (fun s l => s.outSub l) s).power = s.power :=
  List.foldlRecOn (motive := fun u : State => p (u.core d) = p (s.core d) ∧ u.power = s.power) ls _ ⟨rfl, rfl⟩ fun u h x _ =>
    ⟨(State.outSub_keeps hp u x d).1.trans h.1, (State.outSub_keeps hp u x d).2.trans h.2⟩

theorem Core.spad_updByUid (k : Core) (uid : Nat) (f : Group → Group) : (k.updByUid uid f).spad = k.spad := by
  unfold Core.updByUid
  split <;> rfl

theorem Core.spad_clearFlags (k : Core) (flag : FlagSel) (ms : List Member) : (k.clearFlags flag ms).spad = k.spad := by
  cases flag with
  | none => rfl
  | some f => exact foldl_keeps (p := Core.spad) (fun k m => k.spad_updByUid _ _) ms k

/-- An operation that ends leaves the engine, and nothing else of it changes, nor of the scratchpad and the power. -/
theorem State.endEngOp_spec (s : State) (core : Nat) (o : EngOp) :
    ((s.endEngOp core o).core core).engine =
        { (s.core core).engine with ops := (s.core core).engine.ops.filter fun x => x.id != o.id } ∧
      ((s.endEngOp core o).core core).spad = (s.core core).spad ∧ (s.endEngOp core o).power = s.power := by
  obtain ⟨u, hu⟩ : ∃ u, u = s.updCore core fun k => k.clearFlags o.flag o.members := ⟨_, rfl⟩
  have huengine : (u.core core).engine = (s.core core).engine := by rw [hu, State.core_updCore_same, Core.engine_clearFlags]
  have huspad : (u.core core).spad = (s.core core).spad := by rw [hu, State.core_updCore_same, Core.spad_clearFlags]
  obtain ⟨hengine, hpower⟩ := State.outSubs_keep (p := Core.engine) (fun _ _ _ => rfl) u o.outs core
  obtain ⟨hspad, -⟩ := State.outSubs_keep (p := Core.spad) (fun _ _ _ => rfl) u o.outs core
  have hpower' : u.power = s.power := by rw [hu]; rfl
  have heq : s.endEngOp core o = (o.outs.foldl (fun s l => s.outSub l) u).updEngine core fun e =>
      { e with ops := e.ops.filter fun x => x.id != o.id } := by rw [hu]; rfl
  rw [heq, State.engine_updEngine, hengine, huengine]
  refine ⟨rfl, ?_, hpower.trans hpower'⟩
  rw [State.updEngine, State.core_updCore_same]
  exact hspad.trans huspad

/-! ## The operation that may complete -/

theorem Engine.opAt_of_opReady {e : Engine} {id : Nat} {o : EngOp} (h : e.opReady id = some o) : e.opAt id = some o := by
  unfold Engine.opReady at h
  dsimp only at h
  rw [Engine.opAt]
  split at h
  · cases h
  · rename_i q hfind
    rw [hfind]
    exact (Option.ite_none_right_eq_some.1 h).2

/-- A source in the core's own scratchpad is not asked for. -/
theorem State.askSource_spad (s : State) (core : Nat) {o : EngOp} {x n : Nat} (h : o.act.source = some (.spad x, n)) :
    s.askSource core o = s := by
  rw [State.askSource, h]
  exact if_pos rfl

/-! ## The scratchpad without latent errors -/

theorem State.spadError_of_none {s : State} {core : Nat} (h : (s.core core).latent = []) (k : Nat) : s.spadError core k = s := by
  rw [State.spadError, h]
  rfl

theorem State.spadErrors_of_none {s : State} {core : Nat} (h : (s.core core).latent = []) (x n : Nat) : s.spadErrors core x n = s := by
  unfold State.spadErrors
  exact List.foldl_fixed' (fun k => State.spadError_of_none h k) _

theorem State.spadRead_of_none {s : State} {core : Nat} (h : (s.core core).latent = []) (x n : Nat) :
    s.spadRead core x n = (s, memRead (s.core core).spad x n) := by
  rw [State.spadRead, State.spadErrors_of_none h]

/-- A write into a scratchpad without latent errors writes its bytes, and there are none afterwards. -/
theorem State.spadWrite_of_none {s : State} {core : Nat} (h : (s.core core).latent = []) (x : Nat) (bs : List Byte) :
    ((s.spadWrite core x bs).core core).spad = memWrite (s.core core).spad x bs ∧
      ((s.spadWrite core x bs).core core).latent = [] ∧ ((s.spadWrite core x bs).core core).engine = (s.core core).engine ∧
      (s.spadWrite core x bs).power = s.power := by
  obtain ⟨u, hu⟩ : ∃ u : State, u = (sectorsOf x bs.length).foldl (fun s k =>
    if wholeSector x bs.length k then s.updCore core fun c => { c with latent := tblDel c.latent k }
    else s.spadError core k) s := ⟨_, rfl⟩
  obtain ⟨hlatent, hspad, hengine, hpower⟩ : (u.core core).latent = [] ∧ (u.core core).spad = (s.core core).spad ∧
      (u.core core).engine = (s.core core).engine ∧ u.power = s.power := by
    rw [hu]
    refine List.foldlRecOn (motive := fun u : State => (u.core core).latent = [] ∧ (u.core core).spad = (s.core core).spad ∧
      (u.core core).engine = (s.core core).engine ∧ u.power = s.power) _ _ ⟨h, rfl, rfl, rfl⟩ fun u ⟨hl, hs, he, hp⟩ k _ => ?_
    split
    · rw [State.core_updCore_same]
      exact ⟨by rw [hl]; rfl, hs, he, hp⟩
    · rw [State.spadError_of_none hl]
      exact ⟨hl, hs, he, hp⟩
  have heq : s.spadWrite core x bs = u.updCore core fun c => { c with spad := memWrite c.spad x bs } := by rw [hu]; rfl
  rw [heq, State.core_updCore_same]
  exact ⟨by rw [hspad], hlatent, hengine, hpower⟩

/-- No window holds back a request to the core's own scratchpad. -/
theorem State.pathHeld_spad (s : State) (core ch x n : Nat) : s.pathHeld core ch (.spad x) n = false :=
  List.any_eq_false.2 fun _ _ => Bool.false_ne_true

/-! ## Completions -/

section
variable {s : State} {core id : Nat} {o : EngOp} (hready : (s.core core).engine.opReady id = some o)
include hready

theorem exec_mmaComplete_ready {f : MmaForm} {k : Nat} {rows : Tbl (List Word)} {sc : Tbl (BitVec 128 × BitVec 16)} {ca cb : BitVec 256}
    (hact : o.act = .mma f k rows sc ca cb) : exec (.mmaComplete core id) s =
      .next (((s.updEngine core fun e => e.mmaRun f rows sc ca cb).returnToken core).endEngOp core o) := by
  have hexec : exec (.mmaComplete core id) s = execMmaComplete core id s := rfl
  rw [hexec]
  unfold execMmaComplete
  rw [hready]
  dsimp only
  rw [hact]

theorem exec_ctSetComplete_ready {n : Nat} {v : BitVec 256} (hact : o.act = .ctSet n v) : exec (.ctSetComplete core id) s =
      .next ((s.updEngine core fun e => { e with ct := tblSet e.ct n v }).endEngOp core o) := by
  have hexec : exec (.ctSetComplete core id) s = execCtSetComplete core id s := rfl
  rw [hexec]
  unfold execCtSetComplete
  rw [hready]
  dsimp only
  rw [hact]

theorem exec_accComplete_zero {t row0 count : Nat} (hact : o.act = .accZero t row0 count) : exec (.accComplete core id) s =
      .next ((s.updEngine core fun e => e.putRows t row0 (List.replicate (128 * count) 0)).endEngOp core o) := by
  have hexec : exec (.accComplete core id) s = execAccComplete core id s := rfl
  rw [hexec]
  unfold execAccComplete
  rw [Engine.opAt_of_opReady hready]
  dsimp only
  rw [hact]
  dsimp only
  rw [hready]

theorem exec_accComplete_st {t row0 count : Nat} {p : Place} (hact : o.act = .accSt t p row0 count) : exec (.accComplete core id) s =
      .next (s.storeRows core o p ((s.core core).engine.rowsOf t row0 count)) := by
  have hexec : exec (.accComplete core id) s = execAccComplete core id s := rfl
  rw [hexec]
  unfold execAccComplete
  rw [Engine.opAt_of_opReady hready]
  dsimp only
  rw [hact]
  dsimp only
  rw [hready]

theorem exec_accComplete_ld {t row0 count x : Nat} (hlatent : (s.core core).latent = []) (hgone : o.gone = false)
    (hact : o.act = .accLd t (.spad x) row0 count) : exec (.accComplete core id) s =
      .next ((s.updEngine core fun e => e.putRows t row0 (wordsOf (memRead (s.core core).spad x (512 * count)))).endEngOp core o) := by
  have hexec : exec (.accComplete core id) s = execAccComplete core id s := rfl
  rw [hexec]
  unfold execAccComplete
  rw [Engine.opAt_of_opReady hready]
  dsimp only
  rw [hact]
  dsimp only
  rw [State.askSource_spad s core (by rw [hact]; rfl), hready]
  dsimp only
  rw [State.engineBytes, hgone, if_neg Bool.false_ne_true]
  dsimp only
  rw [State.spadRead_of_none hlatent]

theorem exec_mmaLdbComplete_plain {f : LdbForm} {key : Option (BitVec 256)} {tensor sq num rel x : Nat}
    (hlatent : (s.core core).latent = []) (hgone : o.gone = false) (hact : o.act = .ldb f (.spad x) key tensor sq num rel) :
    exec (.mmaLdbComplete core id) s =
      .next (s.loadSquare core o f key tensor sq num rel (memRead (s.core core).spad x (squareTag f.fmt + 16))) := by
  have hexec : exec (.mmaLdbComplete core id) s = execMmaLdbComplete core id s := rfl
  rw [hexec]
  unfold execMmaLdbComplete
  rw [Engine.opAt_of_opReady hready]
  dsimp only
  rw [hact]
  dsimp only
  rw [State.askSource_spad s core (by rw [hact]; rfl), hready]
  dsimp only
  rw [State.engineBytes, hgone, if_neg Bool.false_ne_true]
  dsimp only
  rw [State.spadRead_of_none hlatent]

end

/-- A store whose target is gone writes nothing. -/
theorem State.storeRows_gone {s : State} {core : Nat} {o : EngOp} (h : o.gone = true) (p : Place) (ws : List Word) :
    s.storeRows core o p ws = s.endEngOp core o := by
  unfold State.storeRows
  rw [h, Bool.true_or, if_pos rfl]

/-- A store into the core's own scratchpad, whose lines have been zeroed. -/
theorem State.storeRows_spad {s : State} {core : Nat} {o : EngOp} (h : o.gone = false) {x : Nat} {ws : List Word}
    (hz : ∀ l ∈ linesOf x (4 * ws.length), (s.core core).zeroing.contains l = false) :
    s.storeRows core o (.spad x) ws = (s.spadWrite core x (bytesOfWords ws)).endEngOp core o := by
  have hany : s.zeroingAny ((linesOf x (4 * ws.length)).map fun l => (core, l)) = false := by
    refine List.any_eq_false.2 fun l hl => ?_
    obtain ⟨n, hn, rfl⟩ := List.mem_map.1 hl
    rw [hz n hn]; exact Bool.false_ne_true
  have hended : s.rankEnded (.spad x) = false := rfl
  have hspot : s.spadSpot core (.spad x) = some (core, x) := rfl
  unfold State.storeRows
  rw [h, hended, Bool.or_false, if_neg Bool.false_ne_true, hspot]
  dsimp only
  rw [State.pathHeld_spad, hany, Bool.or_false, if_neg Bool.false_ne_true]

theorem Core.engine_completeOp (k : Core) (p : Op) : (k.completeOp p).engine = k.engine := by
  unfold Core.completeOp Core.updByUid
  dsimp only
  split <;> rfl

/-- The buffer of a plain square takes its bytes. -/
theorem State.loadSquare_plain (s : State) (core : Nat) (o : EngOp) {f : LdbForm} (hct : f.ct = false) (key : Option (BitVec 256))
    (tensor sq num rel : Nat) (bs : List Byte) :
    ((s.loadSquare core o f key tensor sq num rel bs).core core).engine =
      { (s.core core).engine with
        bufs := tblSet (s.core core).engine.bufs (if f.s then 1 else 0) (memWrite [] 0 (bs.take (squareTag f.fmt)))
        ops := (s.core core).engine.ops.filter fun x => x.id != o.id } := by
  obtain ⟨u, hu⟩ : ∃ u, u = s.updEngine core fun e =>
    { e with bufs := tblSet e.bufs (if f.s then 1 else 0) (memWrite [] 0 (bs.take (squareTag f.fmt))) } := ⟨_, rfl⟩
  have hengine : (u.core core).engine = { (s.core core).engine with
      bufs := tblSet (s.core core).engine.bufs (if f.s then 1 else 0) (memWrite [] 0 (bs.take (squareTag f.fmt))) } := by
    rw [hu, State.engine_updEngine]
  have hdone : ∀ k : Core, (match tblFind k.ops o.id with
      | some p => k.completeOp p
      | none => k).engine = k.engine := by
    intro k
    cases tblFind k.ops o.id with
    | none => rfl
    | some p => exact k.engine_completeOp p
  obtain ⟨v, hv, hvengine⟩ : ∃ v : State, s.loadSquare core o f key tensor sq num rel bs = v.endEngOp core o ∧
      (v.core core).engine = (u.core core).engine := by
    unfold State.loadSquare
    dsimp only
    rw [hct, if_neg Bool.false_ne_true, Option.isNone_some, if_neg Bool.false_ne_true, Option.getD_some, ← hu]
    refine ⟨_, rfl, ?_⟩
    rw [State.core_updCore_same]
    refine (hdone _).trans ?_
    split
    · rfl
    · rw [State.updTeam, State.core_updCore_same]; rfl
  rw [hv, (State.endEngOp_spec v core o).1, hvengine, hengine]

end Sys2Proof.Machine

end

section
/-! SUPPORT. Accepted operations of the engine take effect (O30). -/

namespace Sys2Proof.Machine

set_option Elab.async false

/-- An operation that has taken effect in the engine, and in nothing else that the next lemmas name, ends. -/
theorem State.endEngOp_updEngine (s : State) (core : Nat) (o : EngOp) {f : Engine → Engine}
    (hops : ∀ e, (f e).ops = e.ops) :
    (((s.updEngine core f).endEngOp core o).core core).engine =
      { f (s.core core).engine with ops := (s.core core).engine.ops.filter fun x => x.id != o.id } := by
  rw [(State.endEngOp_spec _ _ _).1, State.engine_updEngine, hops]

theorem Engine.ops_putRows (e : Engine) (t row0 : Nat) (ws : List Word) : (e.putRows t row0 ws).ops = e.ops :=
  foldl_keeps (p := Engine.ops) (by exact fun _ _ => rfl) ws.zipIdx e

theorem Engine.ops_mmaRun (e : Engine) (f : MmaForm) (rows : Tbl (List Word)) (sc : Tbl (BitVec 128 × BitVec 16)) (ca cb : BitVec 256) :
    (e.mmaRun f rows sc ca cb).ops = e.ops := by
  refine foldl_keeps (p := Engine.ops) (fun d r => ?_) rows e
  rw [Engine.mmaRow]
  exact foldl_keeps (p := Engine.ops) (by exact fun _ _ => rfl) (List.range 128) d

/-- Rows of zeros. -/
theorem Engine.elem_putRows_zero (e : Engine) (t row0 count i : Nat) {n : Nat} (hn : n < 128) :
    (e.putRows t row0 (List.replicate (128 * count) 0)).elem t i n =
      if row0 ≤ i ∧ i < row0 + count then 0 else e.elem t i n := by
  have hiff : (row0 ≤ i ∧ 128 * (i - row0) + n < (List.replicate (128 * count) (0 : Word)).length) ↔ (row0 ≤ i ∧ i < row0 + count) := by
    rw [List.length_replicate]; omega
  rw [Engine.elem_putRows e t row0 _ i hn]
  by_cases h : row0 ≤ i ∧ i < row0 + count
  · rw [if_pos h, if_pos (hiff.2 h)]
    exact List.getD_replicate _ (by have := (hiff.2 h).2; rwa [List.length_replicate] at this)
  · rw [if_neg h, if_neg fun h' => h (hiff.1 h')]

/-- Rows of the words of a part of a memory. -/
theorem Engine.elem_putRows_memRead (e : Engine) (t row0 : Nat) (m : Memory) (x : Nat) {count i n : Nat} (hi : i < count) (hn : n < 128) :
    (e.putRows t row0 (wordsOf (memRead m x (512 * count)))).elem t (row0 + i) n =
      BitVec.ofNat 32 (leNat (memRead m (x + 512 * i + 4 * n) 4)) := by
  have hwords : wordsOf (memRead m x (512 * count)) =
      (List.range (128 * count)).map fun j => BitVec.ofNat 32 (leNat (memRead m (x + 4 * j) 4)) := by
    rw [← wordsOf_memRead, show 4 * (128 * count) = 512 * count by omega]
  have hlt : 128 * i + n < 128 * count := by omega
  rw [hwords, Engine.elem_putRows e t row0 _ (row0 + i) hn, show row0 + i - row0 = i by omega,
    if_pos ⟨by omega, by rw [List.length_map, List.length_range]; exact hlt⟩, List.getD_eq_getElem?_getD, List.getElem?_map,
    List.getElem?_range hlt]
  show BitVec.ofNat 32 (leNat (memRead m (x + 4 * (128 * i + n)) 4)) = _
  rw [show x + 4 * (128 * i + n) = x + 512 * i + 4 * n by omega]

/-- Settles O30: each operation changes its part of the engine or of the scratchpad, and ends. -/
theorem engineOperationsComplete : Obligations.EngineOperationsComplete := by
  unfold Obligations.EngineOperationsComplete
  intro s core id x o hready hid
  subst hid
  refine ⟨fun tile p row0 count hgone hact => ?_, fun f k rows sc ca cb hact => ?_, fun n v hact => ?_, fun tile row0 count hact _ => ?_,
    fun hlatent hgone => ⟨fun tile row0 count hact => ?_, fun tile row0 count hact hz => ?_, fun f key tensor sq num rel hact hct => ?_⟩⟩
  · obtain ⟨hengine, hspad, -⟩ := s.endEngOp_spec core o
    exact ⟨_, (exec_accComplete_st hready hact).trans (by rw [State.storeRows_gone hgone]), (congrArg Engine.ops hengine :), hspad⟩
  · have hengine : ((((s.updEngine core fun e => e.mmaRun f rows sc ca cb).returnToken core).endEngOp core o).core core).engine =
        { (s.core core).engine.mmaRun f rows sc ca cb with ops := (s.core core).engine.ops.filter fun x => x.id != o.id } := by
      have hrun : (((s.updEngine core fun e => e.mmaRun f rows sc ca cb).returnToken core).core core).engine =
          (s.core core).engine.mmaRun f rows sc ca cb :=
        s.engine_updEngine core fun e => e.mmaRun f rows sc ca cb
      rw [(State.endEngOp_spec _ _ _).1, hrun, Engine.ops_mmaRun]
    refine ⟨_, exec_mmaComplete_ready hready hact, (congrArg Engine.ops hengine :), (congrArg Engine.tiles hengine :), ?_⟩
    rw [(State.endEngOp_spec _ _ _).2.2]; rfl
  · have hengine := s.endEngOp_updEngine core o (f := fun e => { e with ct := tblSet e.ct n v }) fun _ => rfl
    exact ⟨_, exec_ctSetComplete_ready hready hact, (congrArg Engine.ops hengine :),
      (congrArg (fun e : Engine => tblGet 0 e.ct n) hengine).trans (tblGet_tblSet_same _ _ _ _),
      fun m hm => (congrArg (fun e : Engine => tblGet 0 e.ct m) hengine).trans (tblGet_tblSet_ne _ _ _ hm)⟩
  · have hengine := s.endEngOp_updEngine core o (f := fun e => e.putRows tile row0 (List.replicate (128 * count) 0)) fun e =>
      e.ops_putRows _ _ _
    exact ⟨_, exec_accComplete_zero hready hact, (congrArg Engine.ops hengine :), fun i n _ hn =>
      (congrArg (fun e : Engine => e.elem tile i n) hengine).trans (Engine.elem_putRows_zero _ tile row0 count i hn)⟩
  · have hengine := s.endEngOp_updEngine core o (f := fun e => e.putRows tile row0 (wordsOf (memRead (s.core core).spad x (512 * count))))
      fun e => e.ops_putRows _ _ _
    exact ⟨_, exec_accComplete_ld hready hlatent hgone hact, (congrArg Engine.ops hengine :), fun i n hi hn =>
      (congrArg (fun e : Engine => e.elem tile (row0 + i) n) hengine).trans (Engine.elem_putRows_memRead _ tile row0 _ x hi hn)⟩
  · have hlen : ((s.core core).engine.rowsOf tile row0 count).length = 128 * count := Engine.rowsOf_length _ _ _ _
    obtain ⟨hspad, -, hengine, -⟩ := State.spadWrite_of_none hlatent x (bytesOfWords ((s.core core).engine.rowsOf tile row0 count))
    obtain ⟨hend, hspad', -⟩ := (s.spadWrite core x (bytesOfWords ((s.core core).engine.rowsOf tile row0 count))).endEngOp_spec core o
    rw [hengine] at hend
    rw [hspad] at hspad'
    refine ⟨_, (exec_accComplete_st hready hact).trans (by
      rw [State.storeRows_spad hgone (by rw [hlen, show 4 * (128 * count) = 512 * count by omega]; exact hz)]),
      (congrArg Engine.ops hend :), fun i n hi hn => ?_, fun a ha => ?_⟩
    · rw [hspad', show x + 512 * i + 4 * n = x + 4 * (128 * i + n) by omega,
        leNat_memRead_memWrite_words _ x _ (by rw [hlen]; omega), Engine.rowsOf_getD _ _ _ _ hi hn]
    · rw [hspad', memGet_memWrite, if_neg]
      rw [bytesOfWords_length, hlen]
      omega
  · have hengine := s.loadSquare_plain core o hct key tensor sq num rel (memRead (s.core core).spad x (squareTag f.fmt + 16))
    refine ⟨_, exec_mmaLdbComplete_plain hready hlatent hgone hact, (congrArg Engine.ops hengine :), fun a ha => ?_⟩
    have hlen : ((memRead (s.core core).spad x (squareTag f.fmt + 16)).take (squareTag f.fmt)).length = squareTag f.fmt := by
      rw [List.length_take, memRead_length]; omega
    refine (congrArg (fun e : Engine => memGet (tblGet [] e.bufs (if f.s then 1 else 0)) a) hengine).trans ?_
    refine (congrArg (memGet · a) (tblGet_tblSet_same _ _ _ _)).trans ?_
    rw [memGet_memWrite, if_pos ⟨Nat.zero_le a, by rw [hlen]; omega⟩, Nat.sub_zero, List.getD_eq_getElem?_getD, List.getElem?_take_of_lt ha,
      ← List.getD_eq_getElem?_getD, memRead_getD _ _ _ _ (by omega)]

end Sys2Proof.Machine

end

section
/-! SUPPORT. The epilogue that stores its accumulators (O31). -/

namespace Sys2Proof.Machine

set_option Elab.async false

/-! ## Words written one by one -/

/-- Words written at their addresses, in order. -/
def writeWords (m : Memory) (ls : List (Nat × Word)) : Memory := ls.foldl (fun m w => memWrite m w.1 (natLe w.2.toNat 4)) m

theorem memGet_writeWords_out (m : Memory) {ls : List (Nat × Word)} {b : Nat} (h : ∀ w ∈ ls, b < w.1 ∨ w.1 + 4 ≤ b) :
    memGet (writeWords m ls) b = memGet m b := by
  induction ls generalizing m with
  | nil => rfl
  | cons w ls ih =>
    have hw := h w (.head ls)
    refine (ih _ fun y hy => h y (.tail w hy)).trans ?_
    rw [memGet_memWrite, if_neg]
    rw [natLe_length]; omega

/-- Of words that do not overlap, each can be read back. -/
theorem leNat_memRead_writeWords (m : Memory) {ls : List (Nat × Word)} {x : Nat × Word} (hx : x ∈ ls)
    (h : ∀ w ∈ ls, w = x ∨ w.1 + 4 ≤ x.1 ∨ x.1 + 4 ≤ w.1) : leNat (memRead (writeWords m ls) x.1 4) = x.2.toNat := by
  induction ls generalizing m with
  | nil => cases hx
  | cons w ls ih =>
    by_cases hmem : x ∈ ls
    · exact ih _ hmem fun y hy => h y (.tail w hy)
    · obtain rfl : x = w := (List.mem_cons.1 hx).resolve_right hmem
      refine leNat_memRead_of_natLe fun b hb => ?_
      have hout : ∀ w ∈ ls, x.1 + b < w.1 ∨ w.1 + 4 ≤ x.1 + b := fun w hw => by
        rcases h w (.tail x hw) with rfl | hw'
        · exact absurd hw hmem
        · omega
      refine (memGet_writeWords_out _ hout).trans ?_
      rw [memGet_memWrite, if_pos ⟨by omega, by rw [natLe_length]; omega⟩, show x.1 + b - x.1 = b by omega]

/-! ## The stores of a run -/

/-- The two words of the run: the accumulator to e0, and e0 to P_0 as 32 bits. -/
def storeAll : List Word := [0x00000000#32, 0xB000E000#32]

/-- The words that a run of `storeAll` stores. -/
def Engine.stored (e : Engine) (tile c0 nc m p : Nat) : List (Nat × Word) :=
  (List.range m).flatMap fun i => (List.range nc).map fun j => (p + 512 * i + 4 * j, e.elem tile i (c0 + j))

theorem Engine.mem_stored {e : Engine} {tile c0 nc m p : Nat} {w : Nat × Word} : w ∈ e.stored tile c0 nc m p ↔
    ∃ i j, i < m ∧ j < nc ∧ w = (p + 512 * i + 4 * j, e.elem tile i (c0 + j)) := by
  simp only [Engine.stored, List.mem_flatMap, List.mem_range, List.mem_map]
  constructor
  · rintro ⟨i, hi, j, hj, rfl⟩; exact ⟨i, j, hi, hj, rfl⟩
  · rintro ⟨i, j, hi, hj, rfl⟩; exact ⟨i, hi, j, hj, rfl⟩

theorem epiElem_storeAll (rd : Nat → Nat → Nat) (acc : Word) (i n : Nat) :
    epiElem rd acc i n storeAll [] = [(0xB000E000#32, acc.toNat)] := rfl

/-- A store of the run into the core's own scratchpad, without latent errors. -/
theorem State.epiStore_word {u : State} {core : Nat} (hl : (u.core core).latent = []) (ms : List Member) (a : EpiArgs) (x i j : Nat)
    (acc : Word) : u.epiStore core ms a (some (core, x)) i j (0xB000E000#32, acc.toNat) =
      u.spadWrite core (x + a.pks.getD 0 0 + 512 * i + 4 * j) (natLe acc.toNat 4) := by
  have hsize : 4 * 2 ^ ((0xB000E000#32 : Word).extractLsb' 13 2).toNat = 32 := by decide
  have hk : ((0xB000E000#32 : Word).extractLsb' 0 2).toNat = 0 := by decide
  have hbit : (0xB000E000#32 : Word).getLsbD 15 = true := by decide
  unfold State.epiStore
  dsimp only
  rw [hbit, if_pos rfl, hsize, hk, State.epiStoreSpad, State.spadErrors_of_none hl, if_neg (by decide), Nat.mod_eq_of_lt acc.isLt,
    show x + a.pks.getD 0 0 + i * 16 * 32 + j * 32 / 8 = x + a.pks.getD 0 0 + 512 * i + 4 * j by omega]

/-- The stores of one element. -/
def State.storeElem (u : State) (core tile : Nat) (o : EngOp) (a : EpiArgs) (spot : Option (Nat × Nat)) (e : Engine)
    (rd : Nat → Nat → Nat) (i j : Nat) : State :=
  (epiElem rd (e.elem tile i (a.c0 + j)) i (a.c0 + j) storeAll []).foldl (fun u w => u.epiStore core o.members a spot i j w) u

/-- The whole run, as the writes of its words. -/
theorem State.storeElems_spec {s : State} {core : Nat} (hl : (s.core core).latent = []) (tile m x : Nat) (o : EngOp) (a : EpiArgs) (e : Engine)
    (rd : Nat → Nat → Nat) :
    let u := (List.range m).foldl (fun u i => (List.range a.nc).foldl (fun u j =>
      u.storeElem core tile o a (some (core, x)) e rd i j) u) s
    (u.core core).spad = writeWords (s.core core).spad (e.stored tile a.c0 a.nc m (x + a.pks.getD 0 0)) ∧
      (u.core core).engine = (s.core core).engine := by
  have hrow : ∀ (is : List Nat) (u : State), (u.core core).latent = [] →
      let v := is.foldl (fun u i => (List.range a.nc).foldl (fun u j => u.storeElem core tile o a (some (core, x)) e rd i j) u) u
      (v.core core).latent = [] ∧ (v.core core).engine = (u.core core).engine ∧
        (v.core core).spad = writeWords (u.core core).spad (is.flatMap fun i => (List.range a.nc).map fun j =>
          (x + a.pks.getD 0 0 + 512 * i + 4 * j, e.elem tile i (a.c0 + j))) := by
    have hcol : ∀ (i : Nat) (js : List Nat) (u : State), (u.core core).latent = [] →
        let v := js.foldl (fun u j => u.storeElem core tile o a (some (core, x)) e rd i j) u
        (v.core core).latent = [] ∧ (v.core core).engine = (u.core core).engine ∧
          (v.core core).spad = writeWords (u.core core).spad (js.map fun j =>
            (x + a.pks.getD 0 0 + 512 * i + 4 * j, e.elem tile i (a.c0 + j))) := by
      intro i js
      induction js with
      | nil => exact fun u hu => ⟨hu, rfl, rfl⟩
      | cons j js ih =>
        intro u hu
        have hstep : u.storeElem core tile o a (some (core, x)) e rd i j =
            u.spadWrite core (x + a.pks.getD 0 0 + 512 * i + 4 * j) (natLe (e.elem tile i (a.c0 + j)).toNat 4) := by
          rw [State.storeElem, epiElem_storeAll]
          exact State.epiStore_word hu o.members a x i j _
        obtain ⟨hspad, hlatent, hengine, -⟩ := State.spadWrite_of_none hu (x + a.pks.getD 0 0 + 512 * i + 4 * j)
          (natLe (e.elem tile i (a.c0 + j)).toNat 4)
        have hrest := ih _ hlatent
        dsimp only at hrest ⊢
        rw [hengine, hspad] at hrest
        rw [List.foldl_cons, hstep]
        exact hrest
    intro is
    induction is with
    | nil => exact fun u hu => ⟨hu, rfl, rfl⟩
    | cons i is ih =>
      intro u hu
      obtain ⟨hlatent, hengine, hspad⟩ := hcol i (List.range a.nc) u hu
      have hrest := ih _ hlatent
      dsimp only at hrest ⊢
      rw [hengine, hspad, writeWords, writeWords, ← List.foldl_append] at hrest
      rw [List.foldl_cons, List.flatMap_cons]
      exact hrest
  obtain ⟨-, hengine, hspad⟩ := hrow (List.range m) s hl
  exact ⟨hspad, hengine⟩

/-! ## The run -/

theorem mem_linesOf {x n l : Nat} (h : l ∈ linesOf x n) : 0 < n ∧ l * 256 ≤ x + n - 1 ∧ x < (l + 1) * 256 := by
  unfold linesOf at h
  split at h
  · cases h
  · obtain ⟨k, hk, rfl⟩ := List.mem_map.1 h
    have := List.mem_range.1 hk
    omega

/-- The lines of a run of `storeAll` at a place of the core's own scratchpad. -/
theorem State.epiLines_storeAll {s : State} {core x m : Nat} {a : EpiArgs} (hplace : a.place = .spad x) :
    s.epiLines core a storeAll m = some (((List.range m).flatMap fun i =>
      (linesOf (x + a.pks.getD 0 0 + i * 16 * 32) ((a.nc * 32 + 7) / 8)).map fun l => (core, l)).eraseDups) := by
  have hspot : s.spadSpot core (.spad x) = some (core, x) := rfl
  have hfilter : storeAll.filter (fun w => w.extractLsb' 28 4 = 0xB#4 && w.getLsbD 15) = [0xB000E000#32] := by decide
  unfold State.epiLines
  rw [hplace, hspot]
  dsimp only
  rw [hfilter, List.flatMap_singleton]
  rfl

theorem State.epiFree_storeAll {s : State} {core x k : Nat} {a : EpiArgs} (hplace : a.place = .spad x) (hnc : a.nc ≤ 128)
    (hz : ∀ l ∈ (s.core core).zeroing, (l + 1) * 256 ≤ x + a.pks.getD 0 0 ∨ x + a.pks.getD 0 0 + 512 * (32 * k) ≤ l * 256) :
    s.epiFree core a storeAll (32 * k) = true := by
  have hany : s.zeroingAny (((List.range (32 * k)).flatMap fun i =>
      (linesOf (x + a.pks.getD 0 0 + i * 16 * 32) ((a.nc * 32 + 7) / 8)).map fun l => (core, l)).eraseDups) = false := by
    refine List.any_eq_false.2 fun y hy => ?_
    obtain ⟨i, hi, hy⟩ := List.mem_flatMap.1 (List.mem_eraseDups.1 hy)
    obtain ⟨l, hl, rfl⟩ := List.mem_map.1 hy
    have hi := List.mem_range.1 hi
    obtain ⟨hn, hlow, hhigh⟩ := mem_linesOf hl
    intro hc
    have := hz l (by simpa using hc)
    omega
  have hheld : ∀ r : Nat × Nat × Nat, s.pathHeld core 0 (a.place.plus (a.pks.getD r.1 0 + r.2.1)) r.2.2 = false := by
    intro r
    rw [hplace]
    exact State.pathHeld_spad s core 0 _ _
  have hreach : ((storeAll.filterMap fun w => epiReach w a.c0 a.nc (32 * k)).any fun r =>
      s.pathHeld core 0 (a.place.plus (a.pks.getD r.1 0 + r.2.1)) r.2.2) = false :=
    List.any_eq_false.2 fun r _ => by rw [hheld r]; exact Bool.false_ne_true
  unfold State.epiFree
  dsimp only
  rw [hreach, State.epiLines_storeAll hplace]
  exact congrArg (fun b => !false && !b) hany

/-- The run has no parameters to find errors in. -/
theorem State.epiErrors_storeAll (s : State) (a : EpiArgs) (m c x : Nat) : s.epiErrors a storeAll m c x = s := rfl

/-- A run of `storeAll` that nothing holds back. -/
theorem exec_epiRunComplete_storeAll {s : State} {core id x tile k : Nat} {a : EpiArgs} {o : EngOp}
    (hready : (s.core core).engine.opReady id = some o) (hact : o.act = .epi tile k a storeAll) (hplace : a.place = .spad x)
    (hgone : o.gone = false) (hfree : s.epiFree core a storeAll (32 * k) = true) :
    exec (.epiRunComplete core id) s = .next (((List.range (32 * k)).foldl (fun u i => (List.range a.nc).foldl (fun u j =>
      u.storeElem core tile o a (some (core, x)) (s.core core).engine (s.epiParams a (some (core, x))) i j) u) s).endEngOp core o) := by
  have hexec : exec (.epiRunComplete core id) s = execEpiRunComplete core id s := rfl
  have hspot : s.spadSpot core a.place = some (core, x) := by rw [hplace]; rfl
  rw [hexec]
  unfold execEpiRunComplete
  rw [hready]
  dsimp only
  rw [hact]
  dsimp only
  rw [hfree, Bool.not_true, Bool.and_false, if_neg Bool.false_ne_true, hgone, if_neg Bool.false_ne_true, hspot]
  dsimp only
  rw [State.epiErrors_storeAll]
  rfl

/-- Settles O31. -/
theorem epilogueStores : Obligations.EpilogueStores := by
  unfold Obligations.EpilogueStores
  intro s core id x tile k a o hready hid hact hplace hnc hlatent hgone p hz
  obtain ⟨hspad, hengine⟩ := State.storeElems_spec hlatent tile (32 * k) x o a (s.core core).engine (s.epiParams a (some (core, x)))
  obtain ⟨hend, hspad', -⟩ := ((List.range (32 * k)).foldl (fun u i => (List.range a.nc).foldl (fun u j =>
      u.storeElem core tile o a (some (core, x)) (s.core core).engine (s.epiParams a (some (core, x))) i j) u) s).endEngOp_spec core o
  rw [hengine, hid] at hend
  rw [hspad] at hspad'
  refine ⟨_, exec_epiRunComplete_storeAll hready hact hplace hgone (State.epiFree_storeAll hplace hnc hz), (congrArg Engine.ops hend :),
    fun i j hi hj => ?_, fun b hb => ?_⟩
  · rw [hspad']
    refine leNat_memRead_writeWords _ (x := (p + 512 * i + 4 * j, (s.core core).engine.elem tile i (a.c0 + j)))
      (Engine.mem_stored.2 ⟨i, j, hi, hj, rfl⟩) fun w hw => ?_
    obtain ⟨i', j', hi', hj', rfl⟩ := Engine.mem_stored.1 hw
    by_cases heq : i' = i ∧ j' = j
    · rw [heq.1, heq.2]; exact .inl rfl
    · right
      show p + 512 * i' + 4 * j' + 4 ≤ p + 512 * i + 4 * j ∨ p + 512 * i + 4 * j + 4 ≤ p + 512 * i' + 4 * j'
      omega
  · rw [hspad']
    refine memGet_writeWords_out _ fun w hw => ?_
    obtain ⟨i, j, hi, hj, rfl⟩ := Engine.mem_stored.1 hw
    exact hb i j hi hj

end Sys2Proof.Machine

end

section
/-! SUPPORT. Arrivals at a barrier of a team (O24). -/

namespace Sys2Proof.Machine

set_option Elab.async false

/-! ## Bits of a lane -/

theorem getLsbD_bitSet (m : BitVec 16) {b : Nat} (hb : b < 16) (v : Bool) : (bitSet m b v).getLsbD b = v := by
  cases v <;> simp [bitSet, hb]

/-! ## An arrival -/

/-- The lane's bit is set, and its arrival counts with its release point. -/
def Team.counted (t : Team) (g l b rel : Nat) : Team :=
  let t := t.updGroup g fun y => y.updLane l fun z => { z with arr := bitSet z.arr b true }
  { t with bars := tblAdj t.bars b fun q => { q with arr := q.arr + 1, rel := q.rel ++ [rel] } }

/-- The phase of a barrier completes, with no arrival held. -/
def Team.completed (t : Team) (b : Nat) : Team :=
  let x := t.bar b
  let t := t.mapAll fun _ _ l =>
    let held := l.new.getLsbD b && l.held.getLsbD b
    { l with arr := bitSet l.arr b held, new := bitSet l.new b false, held := bitSet l.held b false,
             waitOn := l.waitOn.unhold b (x.phases + 1),
             shadow := l.shadow.map fun w => { w with waitOn := w.waitOn.unhold b (x.phases + 1) } }
  { t with bars := tblSet t.bars b { x with phase := !x.phase, exp := x.exp + x.join, join := 0, arr := 0, phases := x.phases + 1,
                                             rel := [], done := tblSet x.done x.phases x.rel } }

theorem Team.check_of_open {t : Team} {b : Nat} (h : (t.bar b).arr ≠ (t.bar b).exp) (n : Nat) : t.check b (n + 1) = t := by
  rw [Team.check]
  exact if_neg h

theorem Team.check_of_full {t : Team} {b : Nat} (h : (t.bar b).arr = (t.bar b).exp) (hheld : t.heldAt b = []) (n : Nat) :
    t.check b (n + 1) = t.completed b := by
  rw [Team.check]
  dsimp only
  rw [if_pos h, hheld]
  rfl

theorem Team.arrive_counted {t : Team} {g l b : Nat} (hnew : ((t.group g).lane l).new.getLsbD b = false)
    (harr : ((t.group g).lane l).arr.getLsbD b = false) (rel : Nat) : t.arrive g l b rel = (t.counted g l b rel).check b 64 := by
  unfold Team.arrive
  dsimp only
  rw [hnew, if_neg Bool.false_ne_true, harr, if_neg Bool.false_ne_true]
  rfl

theorem Team.bar_counted {t : Team} {b : Nat} (h : (tblFind t.bars b).isSome) (g l rel : Nat) :
    (t.counted g l b rel).bar b = { t.bar b with arr := (t.bar b).arr + 1, rel := (t.bar b).rel ++ [rel] } :=
  tblGet_tblAdj_same _ _ _ _ h

theorem Team.lane_counted {t : Team} {g : Nat} (h : (tblFind t.groups g).isSome) (l b rel : Nat) :
    ((t.counted g l b rel).group g).lane l =
      { (t.group g).lane l with arr := bitSet ((t.group g).lane l).arr b true } := by
  refine (congrArg (Group.lane · l) (Team.group_updGroup_same t g _ h)).trans ?_
  rw [Group.lane_updLane, if_pos rfl]

/-- No lane of a team holds an arrival. -/
theorem Team.heldAt_eq_nil {t : Team} {b : Nat} : t.heldAt b = [] ↔
    ∀ c ∈ t.groups, ∀ d ∈ c.2.lanes, (d.2.held.getLsbD b && d.2.new.getLsbD b) = false := by
  simp only [Team.heldAt, List.flatMap_eq_nil_iff, List.map_eq_nil_iff, List.filter_eq_nil_iff, Bool.not_eq_true]

theorem Team.heldAt_counted {t : Team} {b : Nat} (h : t.heldAt b = []) (g l rel : Nat) : (t.counted g l b rel).heldAt b = [] := by
  rw [Team.heldAt_eq_nil] at h ⊢
  have hupd : ∀ y : Group, (∀ d ∈ y.lanes, (d.2.held.getLsbD b && d.2.new.getLsbD b) = false) →
      ∀ d ∈ (y.updLane l fun z => { z with arr := bitSet z.arr b true }).lanes, (d.2.held.getLsbD b && d.2.new.getLsbD b) = false := by
    intro y hy d hd
    rcases mem_tblSet hd with rfl | hd
    · show ((y.lane l).held.getLsbD b && (y.lane l).new.getLsbD b) = false
      rw [Group.lane, tblGet_eq_find]
      cases hfind : tblFind y.lanes l with
      | none =>
        show ((0 : BitVec 16).getLsbD b && (0 : BitVec 16).getLsbD b) = false
        simp
      | some z => exact hy (l, z) (mem_of_tblFind hfind)
    · exact hy d hd
  exact forall_mem_tblAdj (P := fun y : Group => ∀ d ∈ y.lanes, (d.2.held.getLsbD b && d.2.new.getLsbD b) = false) h
    (fun y hy => hupd y hy) g

theorem Team.bar_completed (t : Team) (b : Nat) : (t.completed b).bar b =
    { t.bar b with phase := !(t.bar b).phase, exp := (t.bar b).exp + (t.bar b).join, join := 0, arr := 0,
                   phases := (t.bar b).phases + 1, rel := [], done := tblSet (t.bar b).done (t.bar b).phases (t.bar b).rel } :=
  tblGet_tblSet_same _ _ _ _

theorem Team.isSome_mapAll (t : Team) (f : Nat → Nat → Lane → Lane) (g : Nat) :
    (tblFind (t.mapAll f).groups g).isSome = (tblFind t.groups g).isSome := by
  rw [Team.mapAll, tblFind_tblMap, Option.isSome_map]

theorem Team.lane_mapAll {t : Team} {g l : Nat} (hg : (tblFind t.groups g).isSome) (hl : (tblFind (t.group g).lanes l).isSome)
    (f : Nat → Nat → Lane → Lane) : ((t.mapAll f).group g).lane l = f g l ((t.group g).lane l) ∧
      ∀ m, (tblFind ((t.mapAll f).group g).lanes m).isSome = (tblFind (t.group g).lanes m).isSome := by
  have hgroup : (t.mapAll f).group g = { t.group g with lanes := tblMap (fun l y => f g l y) (t.group g).lanes } :=
    tblGet_tblMap _ _ _ _ hg
  rw [hgroup]
  exact ⟨tblGet_tblMap _ _ _ _ hl, fun m => by rw [tblFind_tblMap, Option.isSome_map]⟩

/-! ## What an arrival leaves -/

/-- The arrival of a lane that is no new member and has not arrived: its team after it. -/
theorem Team.arrive_spec {t : Team} {g l b rel : Nat} (hb : b < 16) (hg : (tblFind t.groups g).isSome)
    (hl : (tblFind (t.group g).lanes l).isSome) (hbar : (tblFind t.bars b).isSome)
    (hnew : ((t.group g).lane l).new.getLsbD b = false) (harr : ((t.group g).lane l).arr.getLsbD b = false)
    (hheldl : ((t.group g).lane l).held.getLsbD b = false) (hheld : t.heldAt b = []) :
    let u := t.arrive g l b rel
    let x := t.bar b
    (tblFind u.groups g).isSome ∧ (∀ m, (tblFind (t.group g).lanes m).isSome → (tblFind (u.group g).lanes m).isSome) ∧
      ((u.group g).lane l).held.getLsbD b = false ∧
      (x.arr + 1 ≠ x.exp → u.bar b = { x with arr := x.arr + 1, rel := x.rel ++ [rel] } ∧ ((u.group g).lane l).arr.getLsbD b = true) ∧
      (x.arr + 1 = x.exp → u.bar b = { x with phase := !x.phase, exp := x.exp + x.join, join := 0, arr := 0, phases := x.phases + 1,
                                              rel := [], done := tblSet x.done x.phases (x.rel ++ [rel]) } ∧
        ((u.group g).lane l).arr.getLsbD b = false) := by
  have hcbar := Team.bar_counted hbar g l rel
  have hclane := Team.lane_counted hg l b rel
  have hcg : (tblFind (t.counted g l b rel).groups g).isSome := (Team.isSome_updGroup t g _ g).trans hg
  have hcl : ∀ m, (tblFind (t.group g).lanes m).isSome → (tblFind ((t.counted g l b rel).group g).lanes m).isSome := by
    intro m hm
    have hgroup : (t.counted g l b rel).group g = (t.group g).updLane l fun z => { z with arr := bitSet z.arr b true } :=
      Team.group_updGroup_same t g _ hg
    rw [hgroup, Group.updLane, Group.setLane]
    by_cases e : m = l
    · subst e; simp
    · simpa [tblFind_tblSet_ne _ _ e] using hm
  dsimp only
  rw [Team.arrive_counted hnew harr]
  by_cases hfull : (t.bar b).arr + 1 = (t.bar b).exp
  · have hcheck : (t.counted g l b rel).check b 64 = (t.counted g l b rel).completed b :=
      Team.check_of_full (by rw [hcbar]; exact hfull) (Team.heldAt_counted hheld g l rel) 63
    obtain ⟨hlane, hlanes⟩ := Team.lane_mapAll hcg (hcl l hl) fun _ _ z =>
      let held := z.new.getLsbD b && z.held.getLsbD b
      { z with arr := bitSet z.arr b held, new := bitSet z.new b false, held := bitSet z.held b false,
               waitOn := z.waitOn.unhold b (((t.counted g l b rel).bar b).phases + 1),
               shadow := z.shadow.map fun w => { w with waitOn := w.waitOn.unhold b (((t.counted g l b rel).bar b).phases + 1) } }
    rw [hcheck]
    refine ⟨(Team.isSome_mapAll _ _ _).trans hcg, fun m hm => (hlanes m).trans (hcl m hm), ?_, fun h => absurd hfull h, fun _ => ⟨?_, ?_⟩⟩
    · exact (congrArg (fun z : Lane => z.held.getLsbD b) hlane).trans (getLsbD_bitSet _ hb _)
    · rw [Team.bar_completed, hcbar]
    · refine (congrArg (fun z : Lane => z.arr.getLsbD b) hlane).trans ((getLsbD_bitSet _ hb _).trans ?_)
      rw [hclane]
      exact (congrArg (· && _) hnew).trans (Bool.false_and _)
  · have hcheck : (t.counted g l b rel).check b 64 = t.counted g l b rel :=
      Team.check_of_open (by rw [hcbar]; exact hfull) 63
    rw [hcheck]
    refine ⟨hcg, hcl, ?_, fun _ => ⟨hcbar, ?_⟩, fun h => absurd h hfull⟩
    · rw [hclane]; exact hheldl
    · rw [hclane]; exact getLsbD_bitSet _ hb _

end Sys2Proof.Machine

end

section
/-! SUPPORT. The barrier instruction and arrivals at ring stages (O24). -/

namespace Sys2Proof.Machine

set_option Elab.async false

/-! ## A change of the issuing team -/

theorem State.issuing_updIssTeam {s : State} (h : s.Issuing) {f : Team → Team}
    (hg : (tblFind (f s.issTeam).groups s.issue.group).isSome)
    (hl : ∀ l, l < 32 → (tblFind ((f s.issTeam).group s.issue.group).lanes l).isSome) :
    (s.updIssTeam f).Issuing ∧ (s.updIssTeam f).issTeam = f s.issTeam := by
  have hcore : (s.updIssTeam f).issCore = s.issCore.updTeam s.issue.slot f := State.core_updCore_same _ _ _
  have hteam : (s.updIssTeam f).issTeam = f s.issTeam := by
    rw [State.issTeam, hcore]; exact Core.team_updTeam_same _ _ _ h.team
  have hgroup : (s.updIssTeam f).issGroup = (f s.issTeam).group s.issue.group := by
    rw [State.issGroup, hteam]; rfl
  refine ⟨⟨?_, by rw [hteam]; exact hg, fun l hlt => by rw [hgroup]; exact hl l hlt⟩, hteam⟩
  rw [hcore]
  exact (isSome_tblAdj _ _ _ _).trans h.team

theorem State.queue_updIssTeam (s : State) (f : Team → Team) (c : Nat) : ((s.updIssTeam f).core c).queue = (s.core c).queue :=
  s.updCore_keeps (p := Core.queue) s.issue.core c fun _ => rfl

/-- A point that joins the queue: its name, its lane and its act. -/
theorem State.queue_pushPoint (s : State) (core team ctx uid lane : Nat) (a : Act) :
    ∃ i, ((s.pushPoint core team ctx uid lane a).core core).queue = (s.core core).queue ++ [i] ∧ i.id = s.fresh ∧ i.act = a ∧
      i.lanes = (1 : BitVec 32) <<< lane := by
  unfold State.pushPoint
  dsimp only
  rw [State.core_updCore_same]
  exact ⟨_, rfl, rfl, rfl, rfl⟩

theorem Core.waitsFor_of_mem {k : Core} {i : Item} {ids : List Nat} (hi : i ∈ k.queue) (hid : i.id ∈ ids) : k.waitsFor ids = true :=
  List.any_eq_true.2 ⟨i, hi, by simpa using hid⟩

/-! ## After an arrival: a lane goes on, or waits -/

/-- One lane of the issue changes. -/
def State.setIssLane (s : State) (l : Nat) (f : Lane → Lane) : State := s.updIssGroup fun q => q.updLane l f

theorem State.setIssLane_spec {s : State} (h : s.Issuing) (l : Nat) (f : Lane → Lane) :
    (s.setIssLane l f).Issuing ∧ (s.setIssLane l f).issLane l = f (s.issLane l) ∧
      (∀ b, (s.setIssLane l f).issTeam.bar b = s.issTeam.bar b) ∧ (s.setIssLane l f).issCore.queue = s.issCore.queue := by
  refine ⟨State.issuing_updLane h l f, ?_, fun b => ?_, ?_⟩
  · refine (congrArg (Group.lane · l) (State.group_updIssGroup h _)).trans ?_
    rw [Group.lane_updLane, if_pos rfl]; rfl
  · exact (congrArg (Team.bar · b) (State.issTeam_updIssGroup h fun q => q.updLane l f) :)
  · obtain ⟨ts, hcore⟩ := s.core_updIssGroup (fun q => q.updLane l f) s.issue.core
    exact (congrArg Core.queue hcore :)

/-- The lane waits. -/
def Lane.stay (w : WaitOn) (z : Lane) : Lane := { z with status := .waiting, waitOn := w }

/-- What a lane of a bar does once its arrival has counted. -/
def State.barRest (s : State) (b : Nat) (mode : BarMode) (l before : Nat) : State :=
  let y := s.issLane l
  if y.held.getLsbD b then s.setIssLane l (Lane.stay (.barHeld b))
  else if mode != .arrive && y.arr.getLsbD b then
    (s.setIssLane l (Lane.stay (.bar b (s.issTeam.bar b).phases))).settleLive s.issue.core s.issue.slot s.issue.group l
  else if mode == .sync then
    (s.setIssLane l (Lane.stay (.bar b before))).settleLive s.issue.core s.issue.slot s.issue.group l
  else s.setIssLane l fun z => z.goto s.nextPc

theorem State.barLane_wait (s : State) (b l : Nat) : s.barLane b .wait l = s.barRest b .wait l (s.issTeam.bar b).phases := rfl

/-- The state in which the arrival of a lane has counted. -/
def State.barArrived (s : State) (b l : Nat) : State :=
  (s.pushPoint s.issue.core s.issTeam.uid s.issGrid.ctx s.issGroup.uid l (.release .team)).updIssTeam fun t =>
    t.arrive s.issue.group l b s.fresh

theorem State.barLane_arrives {s : State} {b l : Nat} {mode : BarMode} (hmode : mode ≠ .wait)
    (harr : (s.issLane l).arr.getLsbD b = false) :
    s.barLane b mode l = (s.barArrived b l).barRest b mode l (s.issTeam.bar b).phases := by
  unfold State.barLane
  dsimp only
  rw [if_neg hmode, harr, Bool.not_false, Bool.or_true, if_pos rfl]
  rfl

/-- A lane whose phase is not over, or whose phase's arrivals are not all released, waits on. -/
theorem State.stay_settles {s : State} (h : s.Issuing) {b l ph : Nat}
    (hnot : ph < (s.issTeam.bar b).phases → s.issCore.waitsFor (tblGet [] (s.issTeam.bar b).done ph) = true) :
    (s.setIssLane l (Lane.stay (.bar b ph))).settleLive s.issue.core s.issue.slot s.issue.group l =
      s.setIssLane l (Lane.stay (.bar b ph)) := by
  obtain ⟨hi, hlane, hbar, hqueue⟩ := State.setIssLane_spec h l (Lane.stay (.bar b ph))
  have hover : (s.setIssLane l (Lane.stay (.bar b ph))).over s.issue.core (s.setIssLane l (Lane.stay (.bar b ph))).issTeam
      ((s.setIssLane l (Lane.stay (.bar b ph))).issLane l) ((s.setIssLane l (Lane.stay (.bar b ph))).issLane l).flags (.bar b ph) = false := by
    show (decide (ph < ((s.setIssLane l (Lane.stay (.bar b ph))).issTeam.bar b).phases) &&
      !(s.setIssLane l (Lane.stay (.bar b ph))).issCore.waitsFor
        (tblGet [] ((s.setIssLane l (Lane.stay (.bar b ph))).issTeam.bar b).done ph)) = false
    rw [hbar, Core.waitsFor, hqueue, ← Core.waitsFor]
    by_cases hph : ph < (s.issTeam.bar b).phases
    · rw [hnot hph]; exact Bool.and_false _
    · rw [decide_eq_false hph]; exact Bool.false_and _
  have hwait : ((s.setIssLane l (Lane.stay (.bar b ph))).issLane l).status = .waiting := by rw [hlane]; rfl
  have hon : ((s.setIssLane l (Lane.stay (.bar b ph))).issLane l).waitOn = .bar b ph := by rw [hlane]; rfl
  refine (State.settleLive_of_waiting hwait).trans (if_neg ?_)
  rw [hon]
  exact ne_true_of_eq_false hover

/-- The lane of a bar that goes on. -/
theorem State.barRest_goes {s : State} {b l before : Nat} {mode : BarMode} (hheld : (s.issLane l).held.getLsbD b = false)
    (hgo : mode = .arrive ∨ mode = .wait ∧ (s.issLane l).arr.getLsbD b = false) :
    s.barRest b mode l before = s.setIssLane l fun z => z.goto s.nextPc := by
  unfold State.barRest
  dsimp only
  rw [hheld, if_neg Bool.false_ne_true]
  rcases hgo with rfl | ⟨rfl, harr⟩
  · rfl
  · rw [harr, Bool.and_false]; rfl

/-- The lane of a bar that waits. -/
theorem State.barRest_waits {s : State} (h : s.Issuing) {b l before : Nat} {mode : BarMode} (hmode : mode ≠ .arrive)
    (hheld : (s.issLane l).held.getLsbD b = false) {ph : Nat}
    (hph : (s.issLane l).arr.getLsbD b = true ∧ ph = (s.issTeam.bar b).phases ∨
      (s.issLane l).arr.getLsbD b = false ∧ mode = .sync ∧ ph = before)
    (hnot : ph < (s.issTeam.bar b).phases → s.issCore.waitsFor (tblGet [] (s.issTeam.bar b).done ph) = true) :
    s.barRest b mode l before = s.setIssLane l (Lane.stay (.bar b ph)) := by
  have hne : (mode != .arrive) = true := by simpa using hmode
  unfold State.barRest
  dsimp only
  rw [hheld, if_neg Bool.false_ne_true, hne, Bool.true_and]
  rcases hph with ⟨harr, rfl⟩ | ⟨harr, rfl, rfl⟩
  · rw [harr, if_pos rfl]; exact State.stay_settles h hnot
  · rw [harr, if_neg Bool.false_ne_true]; exact State.stay_settles h hnot

/-! ## The arrival in the state -/

theorem State.barArrived_spec {s : State} (h : s.Issuing) {b l : Nat} (hb : b < 16) (hl : l < 32) (hbar : (tblFind s.issTeam.bars b).isSome)
    (hnew : (s.issLane l).new.getLsbD b = false) (harr : (s.issLane l).arr.getLsbD b = false)
    (hheldl : (s.issLane l).held.getLsbD b = false) (hheld : s.issTeam.heldAt b = []) :
    let u := s.barArrived b l
    let x := s.issTeam.bar b
    u.Issuing ∧ (u.issLane l).held.getLsbD b = false ∧ (∀ ids, s.fresh ∈ ids → u.issCore.waitsFor ids = true) ∧
      (x.arr + 1 ≠ x.exp → u.issTeam.bar b = { x with arr := x.arr + 1, rel := x.rel ++ [s.fresh] } ∧ (u.issLane l).arr.getLsbD b = true) ∧
      (x.arr + 1 = x.exp →
        u.issTeam.bar b = { x with
          phase := !x.phase, exp := x.exp + x.join, join := 0, arr := 0, phases := x.phases + 1, rel := [],
          done := tblSet x.done x.phases (x.rel ++ [s.fresh]) } ∧
        (u.issLane l).arr.getLsbD b = false) := by
  obtain ⟨v, hv⟩ : ∃ v, v = s.pushPoint s.issue.core s.issTeam.uid s.issGrid.ctx s.issGroup.uid l (.release .team) := ⟨_, rfl⟩
  obtain ⟨hk, -⟩ := s.pushPoint_keeps s.issue.core s.issTeam.uid s.issGrid.ctx s.issGroup.uid l (.release .team)
  obtain ⟨i, hqueue, hid, -, -⟩ := s.queue_pushPoint s.issue.core s.issTeam.uid s.issGrid.ctx s.issGroup.uid l (.release .team)
  rw [← hv] at hk hqueue
  have hu : s.barArrived b l = v.updIssTeam fun t => t.arrive s.issue.group l b s.fresh := by rw [hv]; rfl
  obtain ⟨hg, hlanes, hheld', hopen, hfull⟩ := Team.arrive_spec (t := s.issTeam) (rel := s.fresh) hb h.group (h.lanes l hl) hbar hnew harr
    hheldl hheld
  obtain ⟨hi, hteam⟩ := State.issuing_updIssTeam (hk.issuing h) (f := fun t => t.arrive s.issue.group l b s.fresh)
    (by rw [hk.issTeam, hk.issue]; exact hg) (fun m hm => by rw [hk.issTeam, hk.issue]; exact hlanes m (h.lanes m hm))
  rw [← hu] at hi hteam
  rw [hk.issTeam] at hteam
  have hlane : ∀ m, (s.barArrived b l).issLane m = ((s.issTeam.arrive s.issue.group l b s.fresh).group s.issue.group).lane m := fun m => by
    rw [State.issLane, State.issGroup, hteam]; rfl
  refine ⟨hi, by rw [hlane]; exact hheld', fun ids hids => ?_, fun hne => ?_, fun heq => ?_⟩
  · refine Core.waitsFor_of_mem (i := i) ?_ (by rw [hid]; exact hids)
    have hq : (s.barArrived b l).issCore.queue = s.issCore.queue ++ [i] := by
      rw [State.issCore, State.issCore, hu, v.queue_updIssTeam, ← hqueue, ← hk.issue]; rfl
    rw [hq]; simp
  · rw [hteam, hlane]; exact hopen hne
  · rw [hteam, hlane]; exact hfull heq

/-- The bar of one lane. -/
theorem exec_bar_one {s : State} {b : BitVec 4} {mode : BarMode} {l : Nat} (hl : s.issLanes = [l])
    (hen : (s.issTeam.bar b.toNat).en = true) (hrole : (s.issTeam.bar b.toNat).roles.getLsbD (roleNum s.issGroup.role) = true) :
    exec (.bar b mode) s = .next (s.barLane b.toNat mode l) := by
  have hexec : exec (.bar b mode) s = execBar b mode s := rfl
  have hz := State.lanes_ne_zero (hl ▸ List.mem_singleton.2 rfl : l ∈ s.issLanes)
  rw [hexec]
  unfold execBar
  dsimp only
  rw [State.orFault_pass hz (by rw [hen, hrole]; rfl), hl]
  rfl

/-! ## Ring stages -/

theorem Team.stage_ringArrive (t : Team) (r n : Nat) (empty : Bool) (rel : List Nat) :
    (t.ringArrive r n empty rel).stage r n = (t.stage r n).arrive (t.ring r) empty rel := by
  rw [Team.stage, Team.ringArrive, tblGet_tblUpd_same]; rfl

/-- The state in which one lane's arrival at a stage has counted. -/
def State.ringArrived (s : State) (ring n : Nat) (empty : Bool) (l : Nat) : State :=
  (s.pushPoint s.issue.core s.issTeam.uid s.issGrid.ctx s.issGroup.uid l (.release .team)).updIssTeam fun t =>
    t.ringArrive ring n empty [s.fresh]

theorem exec_ringArrive_one {s : State} {h : VHead} {ring : BitVec 3} {empty : Bool} {st : Src} {l : Nat} (hl : s.issLanes = [l])
    (hst : s.srcOk 1 st = true) (hok : s.issTeam.stageOk ring.toNat (s.src32 0 l st).toNat = true)
    (hfull : (s.issLane l).flagFull h.flag = false) :
    exec (.ringArrive h ring empty st) s =
      .next ((s.ringArrived ring.toNat (s.src32 0 l st).toNat empty l).runLanes h.flag fun _ x => x) := by
  have hexec : exec (.ringArrive h ring empty st) s = execRingArrive h ring empty st s := rfl
  have hz := State.lanes_ne_zero (hl ▸ List.mem_singleton.2 rfl : l ∈ s.issLanes)
  have hgo : s.goLanes h.flag = [l] := by rw [State.goLanes, hl]; simp [hfull]
  rw [hexec]
  unfold execRingArrive
  dsimp only
  rw [State.orFault_pass hz (by
    rw [State.operands_srcOk hst, State.demandLanes_pass 0x05 (fun m hm => by
      obtain rfl : m = l := by rw [hl] at hm; simpa using hm
      exact hok)]; rfl), hgo]
  rfl

/-- Settles O24. -/
theorem barrierAndRingArrivals : Obligations.BarrierAndRingArrivals := by
  unfold Obligations.BarrierAndRingArrivals
  refine ⟨fun s b mode l h hl => ?_, fun s h ring empty st l hs hl hst hok hfull => ?_⟩
  · have hmem : l ∈ s.issLanes := by rw [hl]; exact List.mem_singleton.2 rfl
    have hlt := State.issLanes_lt hmem
    have hb : b.toNat < 16 := b.isLt
    dsimp only
    intro hen hrole hbar hnew hheldl hheld
    have hexec := exec_bar_one (mode := mode) hl hen hrole
    refine ⟨fun hmode harr hopen => ?_, fun hmode harr hfull => ?_, ?_⟩
    · obtain ⟨hi, hheld', -, hspec, -⟩ := State.barArrived_spec h hb hlt hbar hnew harr hheldl hheld
      obtain ⟨hbar', harr'⟩ := hspec hopen
      rw [State.barLane_arrives hmode harr] at hexec
      refine ⟨_, hexec, ?_⟩
      cases mode with
      | wait => exact absurd rfl hmode
      | arrive =>
        rw [State.barRest_goes hheld' (.inl rfl)]
        obtain ⟨-, hlane, hbars, -⟩ := State.setIssLane_spec hi l fun z => z.goto (s.barArrived b.toNat l).nextPc
        have hbars := (hbars b.toNat).trans hbar'
        exact ⟨(congrArg Barrier.arr hbars :), (congrArg Barrier.phase hbars :), (congrArg Barrier.exp hbars :),
          (congrArg (fun z : Lane => z.arr.getLsbD b.toNat) hlane).trans harr', fun _ => (congrArg Lane.pc hlane :), nofun⟩
      | sync =>
        rw [State.barRest_waits hi (by decide) hheld' (.inl ⟨harr', rfl⟩) fun hlt => absurd hlt (Nat.lt_irrefl _)]
        obtain ⟨-, hlane, hbars, -⟩ := State.setIssLane_spec hi l
          (Lane.stay (.bar b.toNat ((s.barArrived b.toNat l).issTeam.bar b.toNat).phases))
        have hbars := (hbars b.toNat).trans hbar'
        refine ⟨(congrArg Barrier.arr hbars :), (congrArg Barrier.phase hbars :), (congrArg Barrier.exp hbars :),
          (congrArg (fun z : Lane => z.arr.getLsbD b.toNat) hlane).trans harr', nofun, fun _ => ⟨(congrArg Lane.status hlane :), ?_⟩⟩
        refine (congrArg Lane.waitOn hlane).trans ?_
        rw [hbar']; rfl
    · obtain ⟨hi, hheld', hwaits, -, hspec⟩ := State.barArrived_spec h hb hlt hbar hnew harr hheldl hheld
      obtain ⟨hbar', harr'⟩ := hspec hfull
      rw [State.barLane_arrives hmode harr] at hexec
      refine ⟨_, hexec, ?_⟩
      cases mode with
      | wait => exact absurd rfl hmode
      | arrive =>
        rw [State.barRest_goes hheld' (.inl rfl)]
        obtain ⟨-, hlane, hbars, -⟩ := State.setIssLane_spec hi l fun z => z.goto (s.barArrived b.toNat l).nextPc
        have hbars := (hbars b.toNat).trans hbar'
        exact ⟨(congrArg Barrier.arr hbars :), (congrArg Barrier.phase hbars :), (congrArg Barrier.exp hbars :),
          (congrArg Barrier.join hbars :), (congrArg (fun z : Lane => z.arr.getLsbD b.toNat) hlane).trans harr',
          (congrArg Barrier.phases hbars :), fun _ => (congrArg Lane.pc hlane :), nofun⟩
      | sync =>
        rw [State.barRest_waits hi (by decide) hheld' (.inr ⟨harr', rfl, rfl⟩) fun _ => hwaits _ (by
          rw [hbar']
          exact (tblGet_tblSet_same [] (s.issTeam.bar b.toNat).done _ _).symm ▸ List.mem_append_right _ (List.mem_singleton.2 rfl))]
        obtain ⟨-, hlane, hbars, -⟩ := State.setIssLane_spec hi l (Lane.stay (.bar b.toNat (s.issTeam.bar b.toNat).phases))
        have hbars := (hbars b.toNat).trans hbar'
        exact ⟨(congrArg Barrier.arr hbars :), (congrArg Barrier.phase hbars :), (congrArg Barrier.exp hbars :),
          (congrArg Barrier.join hbars :), (congrArg (fun z : Lane => z.arr.getLsbD b.toNat) hlane).trans harr',
          (congrArg Barrier.phases hbars :), nofun, fun _ => ⟨(congrArg Lane.status hlane :), (congrArg Lane.waitOn hlane :)⟩⟩
    · rintro rfl
      rw [State.barLane_wait] at hexec
      refine ⟨_, hexec, ?_⟩
      cases harr : (s.issLane l).arr.getLsbD b.toNat with
      | false =>
        rw [State.barRest_goes hheldl (.inr ⟨rfl, harr⟩)]
        obtain ⟨-, hlane, hbars, -⟩ := State.setIssLane_spec h l fun z => z.goto s.nextPc
        exact ⟨hbars _, nofun, fun _ => (congrArg Lane.pc hlane :)⟩
      | true =>
        rw [State.barRest_waits h (by decide) hheldl (.inl ⟨harr, rfl⟩) fun hlt => absurd hlt (Nat.lt_irrefl _)]
        obtain ⟨-, hlane, hbars, -⟩ := State.setIssLane_spec h l (Lane.stay (.bar b.toNat (s.issTeam.bar b.toNat).phases))
        exact ⟨hbars _, fun _ => ⟨(congrArg Lane.status hlane :), (congrArg Lane.waitOn hlane :)⟩, nofun⟩
  · dsimp only
    have hmem : l ∈ s.issLanes := by rw [hl]; exact List.mem_singleton.2 rfl
    have hgo : s.goLanes h.flag = s.issLanes := by rw [State.goLanes, hl]; simp [hfull]
    obtain ⟨v, hv⟩ : ∃ v, v = s.pushPoint s.issue.core s.issTeam.uid s.issGrid.ctx s.issGroup.uid l (.release .team) := ⟨_, rfl⟩
    obtain ⟨hk, -⟩ := s.pushPoint_keeps s.issue.core s.issTeam.uid s.issGrid.ctx s.issGroup.uid l (.release .team)
    obtain ⟨i, hqueue, hid, hact, hilanes⟩ := s.queue_pushPoint s.issue.core s.issTeam.uid s.issGrid.ctx s.issGroup.uid l (.release .team)
    rw [← hv] at hk hqueue
    obtain ⟨hi, hteam, hgroup, -⟩ := State.updIssTeam_keeps (hk.issuing hs)
      (f := fun t => t.ringArrive ring.toNat (s.src32 0 l st).toNat empty [s.fresh]) fun _ => rfl
    have hu : s.ringArrived ring.toNat (s.src32 0 l st).toNat empty l =
        v.updIssTeam fun t => t.ringArrive ring.toNat (s.src32 0 l st).toNat empty [s.fresh] := by rw [hv]; rfl
    rw [← hu] at hi hteam hgroup
    rw [hk.issTeam] at hteam
    have hissue : (s.ringArrived ring.toNat (s.src32 0 l st).toNat empty l).issue = s.issue := rfl
    refine ⟨_, exec_ringArrive_one hl hst hok hfull, State.laneIn_runLanes hissue hi (fun m => ?_) hgo hmem, ⟨i, ?_, hid, hact, hilanes⟩, ?_⟩
    · rw [State.issLane, hgroup, hk.issGroup]; rfl
    · obtain ⟨ts, hcore⟩ := (s.ringArrived ring.toNat (s.src32 0 l st).toNat empty l).core_updIssGroup
        (fun g => g.mapLanes (s.ringArrived ring.toNat (s.src32 0 l st).toNat empty l).issLanes fun _ x =>
          x.perform h.flag (s.ringArrived ring.toNat (s.src32 0 l st).toNat empty l).nextPc id) s.issue.core
      refine (congrArg Core.queue hcore).trans ?_
      rw [hu]
      exact (v.queue_updIssTeam _ _).trans hqueue
    · have hafter : ((s.ringArrived ring.toNat (s.src32 0 l st).toNat empty l).runLanes h.flag fun _ x => x).issTeam.stage ring.toNat
          (s.src32 0 l st).toNat = (s.issTeam.ringArrive ring.toNat (s.src32 0 l st).toNat empty [s.fresh]).stage ring.toNat
            (s.src32 0 l st).toNat := by
        rw [← hteam]
        show (State.issTeam ((s.ringArrived ring.toNat (s.src32 0 l st).toNat empty l).updIssGroup _)).stage _ _ = _
        rw [State.issTeam_updIssGroup hi]
        rfl
      refine Eq.trans hafter ?_
      rw [Team.stage_ringArrive, RingStg.arrive]

end Sys2Proof.Machine

end

section
/-! SUPPORT. What an own access leaves of the operands (O25), and the answers of attach. -/

namespace Sys2Proof.Machine

set_option Elab.async false

/-! ## Operands after an own access -/

namespace State.OwnAccess
variable {s t : State}

theorem issTeam_fields (h : s.OwnAccess t) (hs : s.Issuing) : { t.issTeam with groups := [] } = { s.issTeam with groups := [] } :=
  (h.issuing hs).2.1

theorem readReg (h : s.OwnAccess t) (hs : s.Issuing) (k l r : Nat) : t.readReg k l r = s.readReg k l r := by
  have hwork : t.issCore.work = s.issCore.work := by rw [State.issCore, h.issue]; exact h.work _
  have hops : t.issCore.ops = s.issCore.ops := (congrArg Prod.fst hwork :)
  have hqueue : t.issCore.queue = s.issCore.queue := (congrArg (fun w => w.2.1) hwork :)
  have hstamp : t.stamp = s.stamp := (congrArg Prod.fst h.now :)
  have huid : t.issGroup.uid = s.issGroup.uid := (congrArg Group.uid (h.issuing hs).2.2 :)
  have hhalf : t.issCore.halfLeft = s.issCore.halfLeft := by
    funext o l i
    rw [Core.halfLeft, Core.halfLeft, hqueue]
  have hnew : ∀ o, t.issCore.newValue l r o = s.issCore.newValue l r o := fun o => by
    unfold Core.newValue
    rw [hhalf]
  simp only [State.readReg, h.issLane hs, hops, hstamp, huid, hnew]

theorem special (h : s.OwnAccess t) (hs : s.Issuing) (l : Nat) (x : Special) : t.special l x = s.special l x := by
  have hteam := h.issTeam_fields hs
  have hgroup := (h.issuing hs).2.2
  have hns : t.ns = s.ns := (congrArg (fun w => w.2.1) h.now :)
  have hregions : t.regions = s.regions := (congrArg (fun w => w.2.2.1) h.now :)
  have hphys : (t.core s.issue.core).phys = (s.core s.issue.core).phys := (congrArg (fun w => w.2.2.1) (h.work _) :)
  cases x with
  | lane => rfl
  | group | core | cluster => simp only [State.special, h.issue]
  | tx => exact (congrArg (fun y : Team => BitVec.ofNat 64 y.x) hteam :)
  | ty => exact (congrArg (fun y : Team => BitVec.ofNat 64 y.y) hteam :)
  | tz => exact (congrArg (fun y : Team => BitVec.ofNat 64 y.z) hteam :)
  | team => exact (congrArg (fun y : Team => BitVec.ofNat 64 y.t) hteam :)
  | grid => exact (congrArg (fun y : Team => BitVec.ofNat 64 y.grid) hteam :)
  | rank =>
    have hrank : t.issTeam.rank = s.issTeam.rank := (congrArg Team.rank hteam :)
    simp only [State.special, hrank]
  | tw => exact (congrArg (fun y : Group => BitVec.ofNat 64 y.tw) hgroup :)
  | depth => simp only [State.special, h.issLane hs]
  | ns => exact congrArg (BitVec.ofNat 64) hns
  | role => exact (congrArg (fun y : Group => BitVec.ofNat 64 (roleNum y.role)) hgroup :)
  | live => exact (congrArg (fun y : Group => y.liveMask.setWidth 64) hgroup :)
  | cyc => simp only [State.special, State.region, State.regionOf, hregions, h.issue, hphys]

theorem src32 (h : s.OwnAccess t) (hs : s.Issuing) (k l : Nat) (a : Src) : t.src32 k l a = s.src32 k l a := by
  cases a with
  | reg r => exact h.readReg hs k l _
  | lit x => rfl
  | special x => exact congrArg lowWord (h.special hs l x)
  | bad _ => rfl

theorem issGrid (h : s.OwnAccess t) (hs : s.Issuing) : t.issGrid.lossless = s.issGrid.lossless := by
  have hgrid : t.issTeam.grid = s.issTeam.grid := (congrArg Team.grid (h.issTeam_fields hs) :)
  have hfind := congrArg (fun x => tblFind x s.issTeam.grid) h.grids
  simp only [tblFind_tblMap] at hfind
  have hget : ∀ x : Option Grid, (x.getD Grid.absent).lossless = (x.map Grid.lossless).getD Grid.absent.lossless := fun x => by
    cases x <;> rfl
  rw [State.issGrid, hgrid, State.issGrid, State.grid, State.grid, tblGet_eq_find, tblGet_eq_find, hget, hget, hfind]

theorem issGrid_ctx (h : s.OwnAccess t) (hs : s.Issuing) : t.issGrid.ctx = s.issGrid.ctx :=
  (congrArg Grid.ctx (h.issGrid hs) :)

theorem queue (h : s.OwnAccess t) (q : Nat) : t.queue q = s.queue q :=
  (congrArg (fun x : Sched => tblGet Queue.reset x.queues q) h.sched :)

theorem gridCtr (h : s.OwnAccess t) : t.sched.gridCtr = s.sched.gridCtr := (congrArg Sched.gridCtr h.sched :)

end State.OwnAccess

/-! ## attach -/

/-- A result that the lanes with room in their flag write, from a state in which they stand as at the issue. -/
theorem State.laneIn_put32 {s u : State} (hissue : u.issue = s.issue) (hu : u.Issuing) (hlane : ∀ l, u.issLane l = s.issLane l)
    {flag : FlagSel} (dst : BitVec 10) (v : Nat → Word) {l : Nat} (hl : l ∈ s.issLanes) (hfull : (s.issLane l).flagFull flag = false) :
    s.laneIn (u.put32 flag dst v) l = ((s.issLane l).put32 dst (v l)).goto s.nextPc := by
  have hlanes : u.issLanes = s.issLanes := by rw [State.issLanes, hissue]; rfl
  have hdone := (State.runLanes_performs hu flag fun l x => x.setReg dst.toNat (v l)).done l (hlanes ▸ hl) (by rw [hlane]; exact hfull)
  rw [hlane] at hdone
  simp only [State.laneIn, State.nextPc, hissue] at hdone ⊢
  exact hdone

/-- A join that a role can take is accepted at once. -/
theorem State.acceptJoin_of_canJoin {s : State} (h : s.Issuing) {role : Role} (hcan : s.canJoin s.issue.core s.issue.slot role = true) :
    ∃ g p, s.issTeam.freeIndex = some g ∧ s.issGrid.freeSlot = some p ∧
      (s.acceptJoin s.issue.core s.issue.slot role).Issuing ∧ (s.acceptJoin s.issue.core s.issue.slot role).issue = s.issue ∧
      (s.acceptJoin s.issue.core s.issue.slot role).issGroup = s.issGroup ∧
      (s.acceptJoin s.issue.core s.issue.slot role).issTeam.joins = s.issTeam.joins ++ [(role, g, p)] ∧
      (s.issTeam.role role).live + (s.issTeam.joins.filter fun j => j.1 == role).length < (s.issTeam.role role).gmax := by
  simp only [State.canJoin, Bool.and_eq_true, decide_eq_true_eq] at hcan
  obtain ⟨⟨⟨⟨hroom, -⟩, -⟩, hg⟩, hp⟩ := hcan
  obtain ⟨g, hg⟩ := Option.isSome_iff_exists.1 hg
  obtain ⟨p, hp⟩ := Option.isSome_iff_exists.1 hp
  have hg' : (s.team s.issue.core s.issue.slot).freeIndex = some g := hg
  have hp' : (s.grid (s.team s.issue.core s.issue.slot).grid).freeSlot = some p := hp
  obtain ⟨v, hv⟩ : ∃ v, v = s.updGrid (s.team s.issue.core s.issue.slot).grid fun q => { q with slotsHeld := p :: q.slotsHeld } := ⟨_, rfl⟩
  have hk : s.KeepsTeams v := by rw [hv]; exact .of_cores rfl rfl
  have heq : s.acceptJoin s.issue.core s.issue.slot role =
      v.updIssTeam fun t => { t with joins := t.joins ++ [(role, g, p)] } := by
    unfold State.acceptJoin
    dsimp only
    rw [hg', hp', hv]
    rfl
  obtain ⟨hi, hteam, hgroup, -⟩ := State.updIssTeam_keeps (hk.issuing h) (f := fun t => { t with joins := t.joins ++ [(role, g, p)] })
    fun _ => rfl
  rw [← heq] at hi hteam hgroup
  refine ⟨g, p, hg, hp, hi, by rw [heq]; exact hk.issue, hgroup.trans hk.issGroup, ?_, hroom⟩
  rw [hteam, hk.issTeam]

/-- What attach answers, in the order of its questions. -/
theorem exec_attach_answers {s : State} {h : VHead} {role : Role} (hd : s.regsOk 1 h.dst.toNat = true)
    (hgo : ∃ l ∈ s.issLanes, (s.issLane l).flagFull h.flag = false) :
    exec (.attach h role) s = .next (
      if !(s.issTeam.role role).en || !(s.issTeam.entry role).joinEn then s.put32 h.flag h.dst fun _ => 1
      else if (s.issTeam.role role).gmax ≤ (s.issTeam.role role).live + (s.issTeam.joins.filter fun j => j.1 == role).length then
        s.put32 h.flag h.dst fun _ => 2
      else if s.canJoin s.issue.core s.issue.slot role then
        (s.acceptJoin s.issue.core s.issue.slot role).put32 h.flag h.dst fun _ => BitVec.ofNat 32 (s.issTeam.freeIndex.getD 0 * 256)
      else s.put32 h.flag h.dst fun _ => 3) := by
  obtain ⟨l, hl, hfull⟩ := hgo
  have hexec : exec (.attach h role) s = execAttach h role s := rfl
  have hempty : (s.goLanes h.flag).isEmpty = false :=
    List.isEmpty_eq_false_iff.2 (List.ne_nil_of_mem (State.mem_goLanes.2 ⟨hl, hfull⟩))
  rw [hexec]
  unfold execAttach
  dsimp only
  rw [State.orFault_pass (State.lanes_ne_zero hl) (State.firstFault_regForm hd fun _ hc => absurd hc List.not_mem_nil), hempty,
    if_neg Bool.false_ne_true]

end Sys2Proof.Machine

end

section
/-! SUPPORT. The launch of a record by one lane (O25). -/

namespace Sys2Proof.Machine

set_option Elab.async false

/-! ## A record that becomes pending -/

theorem State.issue_updCtx (s : State) (c : Nat) (f : Ctx → Ctx) : (s.updCtx c f).issue = s.issue := by
  unfold State.updCtx
  split <;> rfl

/-- A queue and the grid counter of a machine. -/
def State.setQueue (u : State) (ctr q : Nat) (f : Queue → Queue) : State :=
  ({ u with sched := { u.sched with gridCtr := ctr } } : State).updQueue q f

theorem State.keepsTeams_setQueue (u : State) (ctr q : Nat) (f : Queue → Queue) : u.KeepsTeams (u.setQueue ctr q f) := .of_cores rfl rfl

theorem State.queue_setQueue (u : State) (ctr q : Nat) (f : Queue → Queue) : (u.setQueue ctr q f).queue q = f (u.queue q) :=
  State.queue_updQueue_same _ _ _

/-- The state after a record has become pending. -/
theorem State.pendOne_state (s : State) (q : Nat) : (s.pendOne q).1 = (s.beforePend q).setQueue ((s.sched.gridCtr + 1) % 2 ^ 63) q fun x =>
    { x with tail := (x.tail + 1) % 2 ^ 31, pend := x.pend ++ [s.newPend q] } := by
  rw [State.pendOne_eq, State.setQueue]

theorem State.pendOne_id (s : State) (q : Nat) : (s.pendOne q).2 = s.sched.gridCtr := by rw [State.pendOne_eq]

/-- A record that becomes pending changes no core. -/
theorem State.pendOne_keepsTeams (s : State) (q : Nat) : s.KeepsTeams (s.pendOne q).1 := by
  have hread : s.AtHome (s.readSel q).1 := (s.atH_hRead _ _ _ _).home
  have htake : ∀ (u : State) ctx sel, (u.takeNum ctx sel).cores = u.cores ∧ (u.takeNum ctx sel).issue = u.issue := fun u ctx sel => by
    unfold State.takeNum
    split
    · exact ⟨rfl, rfl⟩
    · exact ⟨u.updCtx_cores _ _, u.issue_updCtx _ _⟩
  obtain ⟨hcores, hissue⟩ := htake (s.readSel q).1 (s.queue q).ctx (leNat (s.readSel q).2)
  have hcores' : (s.beforePend q).cores = s.cores := hcores.trans hread.cores
  have hissue' : (s.beforePend q).issue = s.issue := hissue.trans hread.issue
  rw [State.pendOne_state]
  exact State.KeepsTeams.trans (.of_cores hissue' hcores') (State.keepsTeams_setQueue _ _ _ _)

theorem State.pendOne_pend (s : State) (q : Nat) :
    ((s.pendOne q).1.queue q).tail = ((s.queue q).tail + 1) % 2 ^ 31 ∧
      ∃ r, ((s.pendOne q).1.queue q).pend = (s.queue q).pend ++ [r] ∧ r.id = s.sched.gridCtr := by
  have hqueue : (s.beforePend q).queue q = s.queue q := by rw [State.queue, s.queues_beforePend]; rfl
  have htail := (s.pendOne_spec q).1
  have hid : (s.newPend q).id = s.sched.gridCtr := rfl
  refine ⟨htail, s.newPend q, ?_, hid⟩
  rw [State.pendOne_state, State.queue_setQueue, hqueue]

/-! ## The answer -/

/-- A 64-bit answer in a register pair. -/
def Lane.answered (x : Lane) (dst : BitVec 10) (v : DWord) : Lane :=
  (x.setReg dst.toNat (lowWord v)).setReg (dst.toNat + 1) (highWord v)

theorem lowWord_ofNat (v : Nat) : lowWord (BitVec.ofNat 64 v) = BitVec.ofNat 32 v := by
  apply BitVec.eq_of_toNat_eq
  simp only [lowWord, BitVec.extractLsb'_toNat, BitVec.toNat_ofNat, Nat.shiftRight_zero]
  exact Nat.mod_mod_of_dvd _ (by decide)

theorem highWord_ofNat (v : Nat) : highWord (BitVec.ofNat 64 v) = BitVec.ofNat 32 (v / 2 ^ 32) := by
  apply BitVec.eq_of_toNat_eq
  simp only [highWord, BitVec.extractLsb'_toNat, BitVec.toNat_ofNat, Nat.shiftRight_eq_div_pow]
  omega

theorem Lane.answered_regs (x : Lane) (dst : BitVec 10) (v : Nat) :
    (x.answered dst (BitVec.ofNat 64 v)).reg dst.toNat = BitVec.ofNat 32 v ∧
      (x.answered dst (BitVec.ofNat 64 v)).reg (dst.toNat + 1) = BitVec.ofNat 32 (v / 2 ^ 32) := by
  refine ⟨?_, ?_⟩
  · rw [Lane.answered, Lane.reg_setReg_ne _ _ (by omega), Lane.reg_setReg_same, lowWord_ofNat]
  · rw [Lane.answered, Lane.reg_setReg_same, highWord_ofNat]

/-! ## The launch -/

theorem State.launchOne_refused {s : State} {q c : Nat} (h : s.launchRefusal q = some c) (bs : List Byte) :
    s.launchOne q bs = (s, BitVec.ofNat 64 (2 ^ 63 + c)) := by
  rw [State.launchOne, h]

theorem State.launchOne_pends {s : State} {q : Nat} (h : s.launchRefusal q = none) (bs : List Byte) {r : State × Nat} :
    r = (s.hWriteSweep (.ctx s.issGrid.ctx) ((s.queue q).slotAt (s.queue q).tail) bs).pendOne q →
      s.launchOne q bs = (r.1, BitVec.ofNat 64 r.2) := by
  intro hr
  unfold State.launchOne
  rw [h]
  dsimp only
  rw [← hr]

theorem State.launchOne_accepted {s : State} {q : Nat} (h : s.launchRefusal q = none) (bs : List Byte) :
    ∃ w, s.AtHome w ∧ s.launchOne q bs = ((w.pendOne q).1, BitVec.ofNat 64 w.sched.gridCtr) := by
  obtain ⟨w, hw⟩ : ∃ w, w = s.hWriteSweep (.ctx s.issGrid.ctx) ((s.queue q).slotAt (s.queue q).tail) bs := ⟨_, rfl⟩
  refine ⟨w, hw ▸ (s.atH_hWriteSweep (.ctx s.issGrid.ctx) ((s.queue q).slotAt (s.queue q).tail) bs).home, ?_⟩
  have hone := State.launchOne_pends h bs (r := w.pendOne q) (by rw [hw])
  rw [hone, State.pendOne_id]

/-- The refusal of a record, in its order. -/
theorem State.launchRefusal_eq (s : State) (q : Nat) : s.launchRefusal q = if 63 < q then some 3
    else if ¬ ((s.queue q).en = true ∧ (s.queue q).src = true ∧ (s.queue q).ctx = s.issGrid.ctx) then some 2
    else if (s.queue q).used = (s.queue q).slots then some 1
    else none := by
  have hiff : (!(s.queue q).en || !(s.queue q).src || (s.queue q).ctx != s.issGrid.ctx) = true ↔
      ¬ ((s.queue q).en = true ∧ (s.queue q).src = true ∧ (s.queue q).ctx = s.issGrid.ctx) := by
    cases (s.queue q).en <;> cases (s.queue q).src <;> simp
  rw [State.launchRefusal]
  simp only [hiff]

/-- The state in which the record of one lane has been read, and its bytes. -/
def State.launchRead (s : State) (l : Nat) (a : DWord) (p : Place) (ch : Nat) : State × List Byte :=
  let s := s.selfWalks [(l, a)]
  let core := s.issue.core
  let s := if s.wide core .dev then s.l1WB (s.l1Of core) else s
  s.ownLoad core s.issGroup.uid s.issGrid.ctx p ch 256

theorem State.ownAccess_launchRead (s : State) (l : Nat) (a : DWord) (p : Place) (ch : Nat) : s.OwnAccess (s.launchRead l a p ch).1 := by
  have hwb : ∀ u : State, u.OwnAccess (if u.wide u.issue.core .dev then u.l1WB (u.l1Of u.issue.core) else u) := fun u => by
    split
    · exact .of_home (u.atHome_l1WB _)
    · exact .refl u
  exact ((State.ownAccess_selfWalk s _ _ _).trans (hwb _)).trans (State.ownAccess_ownLoad _ _ _ _ _ _ _)

/-- The launch of one lane, from the state in which its record has been read. -/
theorem State.launchAll_read {s : State} {u : State × List Byte} {dst : BitVec 10} {queue : Src} {l : Nat} {p : Place} {ch vpn : Nat}
    {t : State × DWord} : u = (if s.wide s.issue.core .dev then s.l1WB (s.l1Of s.issue.core) else s).ownLoad s.issue.core
        (if s.wide s.issue.core .dev then s.l1WB (s.l1Of s.issue.core) else s).issGroup.uid
        (if s.wide s.issue.core .dev then s.l1WB (s.l1Of s.issue.core) else s).issGrid.ctx p ch 256 →
    t = u.1.launchOne (u.1.src32 1 l queue).toNat u.2 →
    s.launchAll dst queue [(l, p, ch, vpn)] = t.1.updIssGroup fun y => y.updLane l fun x => (x.answered dst t.2).goto t.1.nextPc := by
  intro hu ht
  rw [hu] at ht
  rw [ht]
  rfl

/-- One lane's launch. -/
theorem State.launchAll_one (s : State) (dst : BitVec 10) (queue : Src) (l : Nat) (a : DWord) (p : Place) (ch vpn : Nat) :
    (s.selfWalks [(l, a)]).launchAll dst queue [(l, p, ch, vpn)] =
      let u := s.launchRead l a p ch
      let t := u.1.launchOne (u.1.src32 1 l queue).toNat u.2
      t.1.updIssGroup fun y => y.updLane l fun x => (x.answered dst t.2).goto t.1.nextPc :=
  State.launchAll_read rfl rfl

/-- The launch of one lane that nothing holds back. -/
theorem exec_launch_one {s : State} {dst : BitVec 10} {rec queue : Src} {l : Nat} {p : Place} {ch vpn : Nat} (hl : s.issLanes = [l])
    (hd : s.regsOk 2 dst.toNat = true) (hrec : s.srcOk 2 rec = true) (hq : s.srcOk 1 queue = true) (hrel : s.releaseBlockers l = [])
    (hreach : s.ownReach l (s.src64 0 l rec) 256 256 .load = .ok p ch vpn) (hblock : s.ownBlockers l p 256 false = [])
    (hholds : s.ownHolds p ch 256 = none) :
    exec (.launch dst rec queue) s =
      let u := s.launchRead l (s.src64 0 l rec) p ch
      let t := u.1.launchOne (u.1.src32 1 l queue).toNat u.2
      .next ((t.1.updIssGroup fun y => y.updLane l fun x => (x.answered dst t.2).goto t.1.nextPc).parkLanes []) := by
  have hexec : exec (.launch dst rec queue) s = execLaunch dst rec queue s := rfl
  have hz := State.lanes_ne_zero (hl ▸ List.mem_singleton.2 rfl : l ∈ s.issLanes)
  have hlanes : s.launchLanes (fun l => s.src64 0 l rec) = ⟨[(l, p, ch, vpn)], [], [], []⟩ := by
    unfold State.launchLanes
    dsimp only
    rw [hl, List.map_cons, List.map_nil, hreach, State.sortOwn_one hblock hholds]
    simp [hrel, Lanes.inOrder]
  have hform : firstFault [s.regForm 2 dst [(2, rec), (1, queue)]] = none :=
    State.firstFault_regForm hd (by simp [hrec, hq])
  rw [hexec]
  unfold execLaunch
  dsimp only
  rw [State.orFault_pass hz hform, hlanes, hl]
  dsimp only
  rw [State.laneFault_nil, List.map_cons, List.map_nil]
  dsimp only
  rw [State.launchAll_one]
  rfl

theorem State.queue_answered (t : State) (f : Group → Group) (ws : List (Nat × WaitOn)) (q : Nat) :
    ((t.updIssGroup f).parkLanes ws).queue q = t.queue q := rfl

/-- Settles O25. -/
theorem teamShapeAndLaunchResults : Obligations.TeamShapeAndLaunchResults := by
  unfold Obligations.TeamShapeAndLaunchResults
  refine ⟨fun s h role hs hd hgo => ?_, fun s dst rec queue l p ch vpn hs hl hd hrec hq hrel hreach hblock hholds => ?_⟩
  · have hform : firstFault [s.regForm 1 h.dst []] = none := State.firstFault_regForm hd fun _ hc => absurd hc List.not_mem_nil
    have hon : (s.issTeam.role role).en = true ∧ (s.issTeam.entry role).joinEn = true →
        ¬ ((!(s.issTeam.role role).en || !(s.issTeam.entry role).joinEn) = true) := fun hj => by
      rw [hj.1, hj.2]; exact Bool.false_ne_true
    refine ⟨⟨_, rfl, State.orFault_performs hs hform h.flag _⟩, _, exec_attach_answers hd hgo, fun hno => ?_, fun hj hmax => ?_,
      fun hj hroom hcan => ?_, fun hj hcan => ?_⟩
    · have hoff : (!(s.issTeam.role role).en || !(s.issTeam.entry role).joinEn) = true := by
        cases hen : (s.issTeam.role role).en <;> cases hjoin : (s.issTeam.entry role).joinEn
        · rfl
        · rfl
        · rfl
        · exact absurd ⟨hen, hjoin⟩ hno
      intro l hl hfull
      rw [if_pos hoff]
      exact State.laneIn_put32 rfl hs (fun _ => rfl) h.dst _ hl hfull
    · intro l hl hfull
      rw [if_neg (hon hj), if_pos hmax]
      exact State.laneIn_put32 rfl hs (fun _ => rfl) h.dst _ hl hfull
    · intro l hl hfull
      rw [if_neg (hon hj), if_neg (Nat.not_le.2 hroom), if_neg (ne_true_of_eq_false hcan)]
      exact State.laneIn_put32 rfl hs (fun _ => rfl) h.dst _ hl hfull
    · obtain ⟨g, p, hg, hp, hi, hissue, hgroup, hjoins, hroom⟩ := State.acceptJoin_of_canJoin hs hcan
      rw [if_neg (hon hj), if_neg (Nat.not_le.2 hroom), if_pos hcan]
      refine ⟨g, p, hg, hp, fun l hl hfull => ?_, ?_⟩
      · refine (State.laneIn_put32 hissue hi (fun m => ?_) h.dst _ hl hfull).trans ?_
        · rw [State.issLane, hgroup]; rfl
        · rw [hg]; rfl
      · obtain ⟨u, hu⟩ : ∃ u, u = s.acceptJoin s.issue.core s.issue.slot role := ⟨_, rfl⟩
        rw [← hu] at hi hissue hjoins ⊢
        have hteam := State.issTeam_updIssGroup hi fun y => y.mapLanes u.issLanes fun l x =>
          x.perform h.flag u.nextPc fun x => x.setReg h.dst.toNat (BitVec.ofNat 32 (s.issTeam.freeIndex.getD 0 * 256))
        have hcore : (u.put32 h.flag h.dst fun _ => BitVec.ofNat 32 (s.issTeam.freeIndex.getD 0 * 256)).issTeam =
          (u.put32 h.flag h.dst fun _ => BitVec.ofNat 32 (s.issTeam.freeIndex.getD 0 * 256)).team s.issue.core s.issue.slot := by
          rw [← hissue]; rfl
        rw [← hcore]
        exact (congrArg Team.joins hteam).trans hjoins
  · dsimp only
    have hmem : l ∈ s.issLanes := hl ▸ List.mem_singleton.2 rfl
    obtain ⟨u, hu⟩ : ∃ u, u = s.launchRead l (s.src64 0 l rec) p ch := ⟨_, rfl⟩
    have hown : s.OwnAccess u.1 := by rw [hu]; exact s.ownAccess_launchRead l _ p ch
    have hui := (hown.issuing hs).1
    have hexec := exec_launch_one hl hd hrec hq hrel hreach hblock hholds
    dsimp only at hexec
    rw [← hu, hown.src32 hs] at hexec
    have hlane : ∀ (t : State) (v : Nat), u.1.KeepsTeams t →
        let r := (t.updIssGroup fun y => y.updLane l fun x => (x.answered dst (BitVec.ofNat 64 v)).goto t.nextPc).parkLanes []
        ((s.laneIn r l).reg dst.toNat = BitVec.ofNat 32 v ∧ (s.laneIn r l).reg (dst.toNat + 1) = BitVec.ofNat 32 (v / 2 ^ 32) ∧
          (s.laneIn r l).pc = s.nextPc) := by
      intro t v hk
      have ht := hk.issuing hui
      have hissue : t.issue = s.issue := hk.issue.trans hown.issue
      have hnext : t.nextPc = s.nextPc := by rw [State.nextPc, hissue]; rfl
      obtain ⟨hi, hset, -, -⟩ := State.setIssLane_spec ht l fun x => (x.answered dst (BitVec.ofNat 64 v)).goto t.nextPc
      have hafter := State.laneIn_parkLanes_nil hi hissue l
      rw [hset] at hafter
      obtain ⟨hlow, hhigh⟩ := (t.issLane l).answered_regs dst v
      exact ⟨(congrArg (Lane.reg · dst.toNat) hafter).trans hlow, (congrArg (Lane.reg · (dst.toNat + 1)) hafter).trans hhigh,
        (congrArg Lane.pc hafter).trans hnext⟩
    have hrefusal : u.1.launchRefusal (s.src32 1 l queue).toNat = if 63 < (s.src32 1 l queue).toNat then some 3
        else if ¬ ((s.queue (s.src32 1 l queue).toNat).en = true ∧ (s.queue (s.src32 1 l queue).toNat).src = true ∧
            (s.queue (s.src32 1 l queue).toNat).ctx = s.issGrid.ctx) then some 2
        else if (s.queue (s.src32 1 l queue).toNat).used = (s.queue (s.src32 1 l queue).toNat).slots then some 1
        else none := by
      rw [State.launchRefusal_eq, hown.queue, hown.issGrid_ctx hs]
    refine ⟨_, hexec, fun hbig => ?_, fun hin hmine => ?_, fun hin hmine hfull => ?_, fun hin hmine hroom _ => ?_⟩
    · rw [if_pos hbig] at hrefusal
      rw [State.launchOne_refused hrefusal]
      exact hlane u.1 _ (.refl _)
    · rw [if_neg (Nat.not_lt.2 hin), if_pos hmine] at hrefusal
      rw [State.launchOne_refused hrefusal]
      exact hlane u.1 _ (.refl _)
    · rw [if_neg (Nat.not_lt.2 hin), if_neg (not_not_intro hmine), if_pos hfull] at hrefusal
      rw [State.launchOne_refused hrefusal]
      exact hlane u.1 _ (.refl _)
    · rw [if_neg (Nat.not_lt.2 hin), if_neg (not_not_intro hmine), if_neg hroom] at hrefusal
      obtain ⟨w, hhome, hone⟩ := State.launchOne_accepted hrefusal u.2
      have hctr : w.sched.gridCtr = s.sched.gridCtr := ((congrArg Sched.gridCtr hhome.sched :)).trans hown.gridCtr
      have hqueue : w.queue (s.src32 1 l queue).toNat = s.queue (s.src32 1 l queue).toNat :=
        ((State.OwnAccess.of_home hhome).queue _).trans (hown.queue _)
      have hk : u.1.KeepsTeams (w.pendOne (s.src32 1 l queue).toNat).1 :=
        (State.KeepsTeams.of_cores hhome.issue hhome.cores).trans (w.pendOne_keepsTeams _)
      obtain ⟨htail, r, hpend, hid⟩ := w.pendOne_pend (s.src32 1 l queue).toNat
      rw [hone]
      rw [hqueue] at htail hpend
      rw [hctr] at hid
      rw [State.queue_answered, hctr]
      exact ⟨hlane _ _ hk, htail, r, hpend, hid⟩

end Sys2Proof.Machine

end

section
/-! SUPPORT. Copy units, batches and the answers to copy-engine faults (O23). -/

namespace Sys2Proof.Machine

set_option Elab.async false

/-! ## What the end of a lane's copy leaves -/

/-- What of a core an operation of the copy engine itself leaves: its scratchpad, its queue of copy faults, and its copies. -/
def Core.copying (k : Core) : Memory × List CopyFault × Tbl Copy := (k.spad, k.copyFaults, k.copies)

theorem Core.copying_updByUid (k : Core) (uid : Nat) (f : Group → Group) : (k.updByUid uid f).copying = k.copying := by
  unfold Core.updByUid
  split
  · rfl
  · rfl

theorem Core.copying_completeOp (k : Core) (o : Op) : (k.completeOp o).copying = k.copying :=
  Core.copying_updByUid k o.uid fun g => g.mapLanes (lanesOf o.lanes) fun l x => o.finishLane l x

/-- A copy ends or goes on: its bytes stand, and the lanes that had ended have. -/
def Copy.Ends (c c' : Copy) : Prop :=
  c'.id = c.id ∧ c'.units = c.units ∧ ∀ l, c.ended.getLsbD l = true → c'.ended.getLsbD l = true

theorem Copy.Ends.refl (c : Copy) : c.Ends c := ⟨rfl, rfl, fun _ h => h⟩

theorem Copy.Ends.trans {a b c : Copy} (h : a.Ends b) (h' : b.Ends c) : a.Ends c :=
  ⟨h'.1.trans h.1, h'.2.1.trans h.2.1, fun l hl => h'.2.2 l (h.2.2 l hl)⟩

/-- Memory, a core's scratchpad and its copy faults stand; a copy of a number, where it is still there, has at most ended. -/
structure State.CopyEnds (core id : Nat) (s t : State) : Prop where
  mem    : t.mem = s.mem
  spad   : (t.core core).spad = (s.core core).spad
  faults : (t.core core).copyFaults = (s.core core).copyFaults
  ends   : ∀ c', tblFind (t.core core).copies id = some c' → ∃ c, tblFind (s.core core).copies id = some c ∧ c.Ends c'

namespace State.CopyEnds
variable {core id : Nat} {s t u : State}

theorem trans (h : s.CopyEnds core id t) (h' : t.CopyEnds core id u) : s.CopyEnds core id u :=
  ⟨h'.mem.trans h.mem, h'.spad.trans h.spad, h'.faults.trans h.faults, fun c' hc' => by
    obtain ⟨b, hb, hends'⟩ := h'.ends c' hc'
    obtain ⟨a, ha, hends⟩ := h.ends b hb
    exact ⟨a, ha, hends.trans hends'⟩⟩

theorem of_copying (hmem : t.mem = s.mem) (h : (t.core core).copying = (s.core core).copying) : s.CopyEnds core id t :=
  ⟨hmem, (congrArg Prod.fst h :), (congrArg (fun x => x.2.1) h :), fun c' hc' =>
    ⟨c', (congrArg (fun x => tblFind x.2.2 id) h :).symm.trans hc', Copy.Ends.refl c'⟩⟩

theorem refl : s.CopyEnds core id s := of_copying rfl rfl

theorem updCore {f : Core → Core} (c : Nat) (hf : ∀ k, (f k).copying = k.copying) : s.CopyEnds core id (s.updCore c f) :=
  of_copying rfl (s.updCore_keeps c core hf)

/-- The table of copies changes only so. -/
theorem copies {f : Core → Core} (hspad : ∀ k, (f k).spad = k.spad) (hfaults : ∀ k, (f k).copyFaults = k.copyFaults)
    (hends : ∀ c', tblFind (f (s.core core)).copies id = some c' → ∃ c, tblFind (s.core core).copies id = some c ∧ c.Ends c') :
    s.CopyEnds core id (s.updCore core f) :=
  ⟨rfl, s.updCore_keeps core core hspad, s.updCore_keeps core core hfaults, fun c' hc' =>
    hends c' (by rwa [State.core_updCore_same] at hc')⟩

theorem outSub (l : Nat × Nat) : s.CopyEnds core id (s.outSub l) :=
  of_copying (by unfold State.outSub; split <;> rfl) (State.outSub_keeps (p := Core.copying) (fun _ _ _ => rfl) s l core).1

theorem outSubs (ls : List (Nat × Nat)) : s.CopyEnds core id (ls.foldl (fun s l => s.outSub l) s) :=
  List.foldlRecOn (motive := fun u : State => s.CopyEnds core id u) ls _ refl fun _ h x _ => h.trans (outSub x)

theorem updTeam (slot : Nat) (f : Team → Team) : s.CopyEnds core id (s.updTeam core slot f) :=
  updCore core fun _ => rfl

end State.CopyEnds

theorem tblFind_of_tblDel {β : Type} {t : Tbl β} {n m : Nat} {v : β} (h : tblFind (tblDel t n) m = some v) : tblFind t m = some v := by
  by_cases hm : m = n
  · rw [hm, tblFind_tblDel_same] at h; cases h
  · rwa [tblFind_tblDel_ne _ hm] at h

/-- A lane's copy completes: the copy stands, and the lane has ended. -/
theorem State.completeLane_spec (s : State) (core : Nat) (c : Copy) (l : Nat) (aborted : Bool) :
    s.CopyEnds core c.id (s.completeLane core c l aborted) ∧ ∀ c', tblFind ((s.completeLane core c l aborted).core core).copies c.id =
      some c' → l < 32 → c'.ended.getLsbD l = true := by
  obtain ⟨u, hu⟩ : ∃ u, u = s.updCopy core c.id fun x =>
    { x with ended := x.ended ||| maskOf [l], stopped := x.stopped &&& ~~~(maskOf [l]), failed := tblDel x.failed l } := ⟨_, rfl⟩
  have hfound : ∀ c', tblFind (u.core core).copies c.id = some c' → ∃ x, tblFind (s.core core).copies c.id = some x ∧
      { x with ended := x.ended ||| maskOf [l], stopped := x.stopped &&& ~~~(maskOf [l]), failed := tblDel x.failed l } = c' :=
    fun c' hc' => by
      rw [hu, State.updCopy, State.core_updCore_same, tblFind_tblAdj_same] at hc'
      exact Option.map_eq_some_iff.1 hc'
  have hends : s.CopyEnds core c.id u := by
    rw [hu]
    refine .copies (fun _ => rfl) (fun _ => rfl) fun c' hc' => ?_
    rw [tblFind_tblAdj_same] at hc'
    obtain ⟨x, hx, rfl⟩ := Option.map_eq_some_iff.1 hc'
    exact ⟨x, hx, rfl, rfl, fun m hm => by rw [BitVec.getLsbD_or, hm, Bool.true_or]⟩
  obtain ⟨f, hf, heq⟩ : ∃ f, (∀ k : Core, (f k).copying = k.copying) ∧
      (s.completeLane core c l aborted = u ∨ s.completeLane core c l aborted = u.updCore core f) := by
    refine ⟨fun k => k.updByUid c.uid fun g => g.mapLanes [l] fun _ x => x.finishCopy c.id
      (aborted || ((c.unitsOf l).map c.state).any (·.err)) (((c.unitsOf l).map c.state).any (·.cached)),
      fun k => k.copying_updByUid c.uid _, ?_⟩
    rw [State.completeLane, ← hu]
    split
    · exact .inl rfl
    · exact .inr rfl
  obtain ⟨hrest, hcopies⟩ : u.CopyEnds core c.id (s.completeLane core c l aborted) ∧
      ((s.completeLane core c l aborted).core core).copies = (u.core core).copies := by
    rcases heq with heq | heq
    · rw [heq]; exact ⟨.refl, rfl⟩
    · rw [heq, State.core_updCore_same]; exact ⟨.updCore core hf, (congrArg (fun x => x.2.2) (hf (u.core core)) :)⟩
  refine ⟨hends.trans hrest, fun c' hc' hl => ?_⟩
  rw [hcopies] at hc'
  obtain ⟨x, -, rfl⟩ := hfound c' hc'
  rw [BitVec.getLsbD_or, getLsbD_maskOf]
  simp [hl]

theorem State.copyEnds_completeCopy (s : State) (core id : Nat) (c : Copy) : s.CopyEnds core id (s.completeCopy core c) := by
  have hgone : s.CopyEnds core id (c.outs.foldl (fun s l => s.outSub l)
      (s.updCore core fun k => { k with copies := tblDel k.copies c.id })) :=
    (State.CopyEnds.copies (f := fun k => { k with copies := tblDel k.copies c.id }) (fun _ => rfl) (fun _ => rfl)
      fun c' hc' => ⟨c', tblFind_of_tblDel hc', Copy.Ends.refl c'⟩).trans (.outSubs c.outs)
  unfold State.completeCopy
  dsimp only
  split
  · split
    · exact hgone
    · refine hgone.trans (.updCore core fun k => ?_)
      split
      · exact Core.copying_completeOp k _
      · rfl
  · split
    · exact hgone
    · exact hgone.trans (.updTeam _ _)

theorem State.copyEnds_afterWrite {s : State} {core id : Nat} (hid : ∀ c, tblFind (s.core core).copies id = some c → c.id = id)
    (lane : Nat) (lines : List (Nat × Nat)) : s.CopyEnds core id (s.afterWrite core id lane lines) := by
  unfold State.afterWrite
  split
  · exact .refl
  · next c hc =>
    dsimp only
    obtain ⟨u, hu⟩ : ∃ u, u = if c.laneDone lane && !c.ended.getLsbD lane then s.completeLane core c lane false else s := ⟨_, rfl⟩
    have hends : s.CopyEnds core id u := by
      rw [hu]
      split
      · rw [← hid c hc]; exact (s.completeLane_spec core c lane false).1
      · exact .refl
    rw [← hu]
    split
    · exact hends
    · next x hx =>
      obtain ⟨off, hoff⟩ : ∃ off, off = lines.filter fun l => x.outs.contains l && u.lineWritten core x l := ⟨_, rfl⟩
      rw [← hoff]
      obtain ⟨v, hv⟩ : ∃ v, v = off.foldl (fun s l => s.outSub l) u := ⟨_, rfl⟩
      rw [← hv]
      have hfound : tblFind (v.core core).copies id = some x := by
        rw [← hx, hv]
        exact congrArg (tblFind · id) (State.outSubs_keep (p := Core.copies) (fun _ _ _ => rfl) u off core).1
      have hset : s.CopyEnds core id (v.updCopy core id fun _ => { x with outs := x.outs.filter fun l => !off.contains l }) := by
        refine (hends.trans (by rw [hv]; exact .outSubs off)).trans (.copies (fun _ => rfl) (fun _ => rfl) fun c' hc' => ?_)
        rw [tblFind_tblAdj_same, hfound] at hc'
        exact ⟨x, hfound, by rw [← Option.some.inj hc']; exact ⟨rfl, rfl, fun _ h => h⟩⟩
      split
      · exact hset.trans (State.copyEnds_completeCopy _ core id _)
      · exact hset

/-- A lane's copy that is aborted has ended, or the copy is gone. -/
theorem State.abortLane_spec {s : State} {core id : Nat} (hid : ∀ c, tblFind (s.core core).copies id = some c → c.id = id)
    (lane : Nat) : s.CopyEnds core id (s.abortLane core id lane) ∧
      ∀ c', tblFind ((s.abortLane core id lane).core core).copies id = some c' → lane < 32 → c'.ended.getLsbD lane = true := by
  cases hfind : tblFind (s.core core).copies id with
  | none =>
    have heq : s.abortLane core id lane = s := by rw [State.abortLane, hfind]
    rw [heq]
    exact ⟨.refl, fun c' hc' => by rw [hfind] at hc'; cases hc'⟩
  | some c =>
    by_cases hended : c.ended.getLsbD lane = true
    · have heq : s.abortLane core id lane = s := by rw [State.abortLane, hfind]; exact if_pos hended
      rw [heq]
      exact ⟨.refl, fun c' hc' _ => by rw [hfind] at hc'; rw [← Option.some.inj hc']; exact hended⟩
    · have heq : s.abortLane core id lane = (s.completeLane core c lane true).afterWrite core id lane c.outs := by
        rw [State.abortLane, hfind]; exact if_neg hended
      obtain ⟨hends, hgone⟩ := s.completeLane_spec core c lane true
      rw [hid c hfind] at hends hgone
      have hafter := State.copyEnds_afterWrite (s := s.completeLane core c lane true) (fun c' hc' => by
        obtain ⟨b, hb, hbid, -⟩ := hends.ends c' hc'
        exact hbid.trans (hid b hb)) lane c.outs
      rw [heq]
      refine ⟨hends.trans hafter, fun c' hc' hlane => ?_⟩
      obtain ⟨b, hb, -, -, hmono⟩ := hafter.ends c' hc'
      exact hmono lane (hgone b hb hlane)

/-! ## Answers to copy-engine faults (R363) -/

/-- The entries of a copy's lane leave the queue of faults. -/
def dropFault (copy lane : Nat) (q : List CopyFault) : List CopyFault := q.filter fun e => !(e.copy == copy && e.lane == lane)

theorem State.popFault_faults (s : State) (core copy lane : Nat) :
    ((s.popFault core copy lane).core core).copyFaults = dropFault copy lane (s.core core).copyFaults := by
  rw [State.popFault, State.core_updCore_same]; rfl

theorem State.popFault_copies (s : State) (core copy lane : Nat) :
    ((s.popFault core copy lane).core core).copies = (s.core core).copies := by
  rw [State.popFault, State.core_updCore_same]

/-- The copies of a number carry it. -/
def State.CopyNamed (s : State) (core id : Nat) : Prop := ∀ c, tblFind (s.core core).copies id = some c → c.id = id

/-- A lane's copy is aborted as its fault is answered. -/
theorem State.popFault_abortLane_spec {s : State} {core id : Nat} (hid : s.CopyNamed core id) (lane : Nat) :
    (((s.popFault core id lane).abortLane core id lane).core core).copyFaults = dropFault id lane (s.core core).copyFaults ∧
      ∀ c', tblFind (((s.popFault core id lane).abortLane core id lane).core core).copies id = some c' →
        (∃ c, tblFind (s.core core).copies id = some c ∧ c.Ends c') ∧ (lane < 32 → c'.ended.getLsbD lane = true) := by
  obtain ⟨hends, hgone⟩ := State.abortLane_spec (s := s.popFault core id lane) (core := core) (id := id)
    (by rw [State.popFault_copies]; exact hid) lane
  refine ⟨hends.faults.trans (s.popFault_faults core id lane), fun c' hc' => ⟨?_, hgone c' hc'⟩⟩
  obtain ⟨c, hc, hc'⟩ := hends.ends c' hc'
  rw [State.popFault_copies] at hc
  exact ⟨c, hc, hc'⟩

/-- Every lane whose entry is answered leaves the queue of faults, and its copy has ended. -/
theorem State.abortLanes_spec (es : List CopyFault) {s : State} {core id : Nat} (hid : s.CopyNamed core id) :
    let t := es.foldl (fun s e => (s.popFault core id e.lane).abortLane core id e.lane) s
    (∀ x ∈ (t.core core).copyFaults, x ∈ (s.core core).copyFaults ∧ ∀ e ∈ es, ¬(x.copy = id ∧ x.lane = e.lane)) ∧
      ∀ c', tblFind (t.core core).copies id = some c' →
        (∃ c, tblFind (s.core core).copies id = some c ∧ c.Ends c') ∧ ∀ e ∈ es, e.lane < 32 → c'.ended.getLsbD e.lane = true := by
  induction es generalizing s with
  | nil => exact ⟨fun x hx => ⟨hx, List.forall_mem_nil _⟩, fun c' hc' => ⟨⟨c', hc', Copy.Ends.refl c'⟩, List.forall_mem_nil _⟩⟩
  | cons e es ih =>
    obtain ⟨hfaults, hcopies⟩ := State.popFault_abortLane_spec hid e.lane
    obtain ⟨hfaults', hcopies'⟩ := ih (s := (s.popFault core id e.lane).abortLane core id e.lane) fun c' hc' => by
      obtain ⟨⟨c, hc, hends⟩, -⟩ := hcopies c' hc'
      exact hends.1.trans (hid c hc)
    refine ⟨fun x hx => ?_, fun c' hc' => ?_⟩
    · obtain ⟨hmem, hnot⟩ := hfaults' x hx
      rw [hfaults, dropFault, List.mem_filter] at hmem
      refine ⟨hmem.1, List.forall_mem_cons.2 ⟨fun h => ?_, hnot⟩⟩
      simp [h.1, h.2] at hmem
    · obtain ⟨⟨b, hb, hends'⟩, hrest⟩ := hcopies' c' hc'
      obtain ⟨⟨c, hc, hends⟩, hhead⟩ := hcopies b hb
      exact ⟨⟨c, hc, hends.trans hends'⟩, List.forall_mem_cons.2 ⟨fun hl => hends'.2.2 _ (hhead hl), hrest⟩⟩

/-- The entries of a copy that have waited for an answer. -/
def State.dueFaults (s : State) (wait core copy : Nat) : List CopyFault :=
  (s.core core).copyFaults.filter fun e => e.copy == copy && e.at_ + wait ≤ s.ns

theorem State.mem_dueFaults {s : State} {wait core : Nat} {e : CopyFault} (h : e ∈ (s.core core).copyFaults) (hdue : e.at_ + wait ≤ s.ns) :
    e ∈ s.dueFaults wait core e.copy :=
  List.mem_filter.2 ⟨h, by rw [beq_self_eq_true, Bool.true_and]; exact decide_eq_true hdue⟩

theorem exec_ceAnswerTimeout (s : State) (core copy : Nat) : exec (.ceAnswerTimeout core copy) s = .next
    ((s.dueFaults 100000000 core copy).foldl (fun s e => (s.popFault core copy e.lane).abortLane core copy e.lane) s) := rfl

/-- R362, R363: the third part of O23. -/
theorem copyFaultAnswers {s : State} {core : Nat} {e : CopyFault} {rest : List CopyFault} {c : Copy}
    (hq : (s.core core).copyFaults = e :: rest) (hc : tblFind (s.core core).copies e.copy = some c) (hid : c.id = e.copy)
    (hlane : e.lane < 32) :
    let popped := fun (t : State) => (t.core core).copyFaults = (e :: rest).filter fun x => !(x.copy == e.copy && x.lane == e.lane)
    let gone := fun (t : State) => ∀ c', tblFind (t.core core).copies e.copy = some c' → c'.ended.getLsbD e.lane = true
    (∃ t, exec (.ceRetry core) s = .next t ∧ popped t ∧ tblFind (t.core core).copies e.copy =
        some { c with stopped := c.stopped &&& ~~~(maskOf [e.lane]), since := s.ns }) ∧
      (∃ t, exec (.ceAbort core) s = .next t ∧ popped t ∧ gone t) ∧
      (e.at_ + 100000000 ≤ s.ns →
        ∃ t, exec (.ceAnswerTimeout core e.copy) s = .next t ∧ e ∉ (t.core core).copyFaults ∧ gone t) := by
  intro popped gone
  have hnamed : s.CopyNamed core e.copy := fun c' hc' => by rw [hc] at hc'; rw [← Option.some.inj hc']; exact hid
  refine ⟨?_, ?_, fun hdue => ?_⟩
  · have heq : s.ceRetry core = (s.popFault core e.copy e.lane).updCopy core e.copy fun c =>
        { c with stopped := c.stopped &&& ~~~(maskOf [e.lane]), since := s.ns } := by rw [State.ceRetry, hq]
    refine ⟨_, rfl, ?_, ?_⟩
    · dsimp only [popped]
      rw [heq, State.updCopy, State.core_updCore_same]
      exact (s.popFault_faults core e.copy e.lane).trans (congrArg _ hq)
    · rw [heq, State.updCopy, State.core_updCore_same, State.popFault_copies, tblFind_tblAdj_same, hc]
      rfl
  · have heq : s.ceAbort core = (s.popFault core e.copy e.lane).abortLane core e.copy e.lane := by rw [State.ceAbort, hq]
    obtain ⟨hfaults, hcopies⟩ := State.popFault_abortLane_spec hnamed e.lane
    refine ⟨_, rfl, ?_, fun c' hc' => ?_⟩
    · rw [heq]
      exact hfaults.trans (congrArg _ hq)
    · rw [heq] at hc'
      exact (hcopies c' hc').2 hlane
  · have hmem : e ∈ s.dueFaults 100000000 core e.copy := State.mem_dueFaults (by rw [hq]; exact List.mem_cons_self) hdue
    obtain ⟨es, hes⟩ : ∃ es, s.dueFaults 100000000 core e.copy = es := ⟨_, rfl⟩
    rw [hes] at hmem
    obtain ⟨hfaults, hcopies⟩ := State.abortLanes_spec es hnamed
    refine ⟨_, (exec_ceAnswerTimeout s core e.copy).trans (by rw [hes]),
      fun h => (hfaults e h).2 e hmem ⟨rfl, rfl⟩, fun c' hc' => (hcopies c' hc').2 e hmem hlane⟩

end Sys2Proof.Machine
end

section
/-! SUPPORT. CREAD, CWRITE and sealed batches (O23). -/

namespace Sys2Proof.Machine

set_option Elab.async false

/-! ## Where a unit's bytes stand -/

theorem State.ownAccess_countRefused (s : State) (die n : Nat) : s.OwnAccess (s.countRefused die n) :=
  ⟨rfl, rfl, rfl, rfl, fun _ => rfl, fun _ _ _ => rfl, fun _ => rfl, id⟩

theorem State.ownAccess_refPlace (s : State) (core ctx root : Nat) (r : Ref) (need : Need) :
    s.OwnAccess (s.refPlace core ctx root r need).1 := by
  cases r with
  | at_ p => exact .refl s
  | virt va =>
    have hwalk := s.ownAccess_tlbTranslate core ctx root va need
    unfold State.refPlace
    dsimp only
    split
    · next h => rw [h] at hwalk; exact hwalk
    · next h =>
      rw [h] at hwalk
      split
      · exact hwalk
      · exact hwalk

/-- To find where a copy's bytes stand leaves the work of the cores. -/
theorem State.ownAccess_copyAt (s : State) (core : Nat) (c : Copy) (r : Ref) (need : Need) :
    s.OwnAccess (s.copyAt core c r need).1 := by
  have hplace := s.ownAccess_refPlace core c.ctx (s.grid c.grid).desc.ptRoot r need
  unfold State.copyAt
  split
  · next h => rw [h] at hplace; exact hplace
  · next u p ch h =>
    rw [h] at hplace
    have hplace : s.OwnAccess u := hplace
    cases p with
    | dev pa => exact hplace
    | host a => exact hplace
    | peer q off ent =>
      have hexport := u.atHome_exportAt (.ctx c.ctx) off need
      dsimp only
      split
      · exact hplace
      · split
        · split
          · next h => rw [h] at hexport; exact (hplace.trans (.of_home hexport)).trans (State.ownAccess_countRefused _ _ _)
          · next h =>
            rw [h] at hexport
            split
            · exact hplace.trans (.of_home hexport)
            · exact (hplace.trans (.of_home hexport)).trans (State.ownAccess_countRefused _ _ _)
        · split
          · exact hplace
          · exact hplace
    | spad x =>
      dsimp only
      split
      · exact hplace
      · exact hplace
    | rank cl r g co off =>
      dsimp only
      split
      · split
        · exact hplace
        · split
          · exact hplace
          · exact hplace
      · split
        · exact hplace
        · split
          · exact hplace
          · exact hplace

theorem State.ownAccess_readSpot (s : State) (who : Charge) (ch n : Nat) (q : Spot) : s.OwnAccess (s.readSpot who ch n q).1 := by
  cases q with
  | mem pa =>
    rw [State.readSpot]
    split
    · exact .of_home (s.atH_hRead who ch pa n).home
    · exact .of_home (s.atHome_chargeLoss who _)
  | host a => exact .of_home (s.atH_hostRead who a n).home
  | spad c x => exact s.ownAccess_spadRead c x n
  | peer q off => exact .refl s
  | wait => exact .refl s

theorem State.OwnAccess.copies {s t : State} (h : s.OwnAccess t) (c : Nat) : (t.core c).copies = (s.core c).copies :=
  (congrArg (fun w => w.2.2.2) (h.work c) :)

/-- A region in the core's own scratchpad is where it is; a write into a line that is still to be zeroed waits. -/
theorem State.copyAt_spad (s : State) (core : Nat) (c : Copy) (x : Nat) (need : Need) :
    s.copyAt core c (.at_ (.spad x)) need =
      (s, if (need == .store && (s.core core).zeroing.contains (x / 256)) = true then .wait else .spot (.spad core x) 0 (.spad x)) := by
  cases need with
  | store =>
    unfold State.copyAt
    rw [State.refPlace]
    dsimp only
    cases c.home with
    | none => rfl
    | some h => rfl
  | _ => rfl

/-- A write into a scratchpad without latent errors changes no memory and no copy. -/
theorem State.spadWrite_rest {s : State} {core : Nat} (h : (s.core core).latent = []) (x : Nat) (bs : List Byte) :
    (s.spadWrite core x bs).mem = s.mem ∧ ((s.spadWrite core x bs).core core).copies = (s.core core).copies := by
  obtain ⟨u, hu⟩ : ∃ u : State, u = (sectorsOf x bs.length).foldl (fun s k =>
    if wholeSector x bs.length k then s.updCore core fun c => { c with latent := tblDel c.latent k }
    else s.spadError core k) s := ⟨_, rfl⟩
  obtain ⟨-, hmem, hcopies⟩ : (u.core core).latent = [] ∧ u.mem = s.mem ∧ (u.core core).copies = (s.core core).copies := by
    rw [hu]
    refine List.foldlRecOn (motive := fun u : State => (u.core core).latent = [] ∧ u.mem = s.mem ∧
      (u.core core).copies = (s.core core).copies) _ _ ⟨h, rfl, rfl⟩ fun u ⟨hl, hm, hc⟩ k _ => ?_
    split
    · rw [State.core_updCore_same]
      exact ⟨by rw [hl]; rfl, hm, hc⟩
    · rw [State.spadError_of_none hl]
      exact ⟨hl, hm, hc⟩
  have heq : s.spadWrite core x bs = u.updCore core fun c => { c with spad := memWrite c.spad x bs } := by rw [hu]; rfl
  rw [heq, State.core_updCore_same]
  exact ⟨hmem, hcopies⟩

/-! ## The unit of a step -/

section
variable {s : State} {core id k : Nat} {c : Copy} {p : CopyPart}

theorem State.copyUnit_find (h : s.copyUnit core id k = some (c, p)) : tblFind (s.core core).copies id = some c := by
  unfold State.copyUnit at h
  split at h
  · next x hx =>
    split at h
    · obtain ⟨-, heq⟩ := Option.ite_none_left_eq_some.1 h
      rw [hx, (Prod.mk.inj (Option.some.inj heq)).1]
    · cases h
  · cases h

/-- A unit of a copy that is there changes. -/
theorem State.updUnit_find (h : tblFind (s.core core).copies id = some c) (lane : Nat) (f : CopyUnit → CopyUnit) :
    tblFind ((s.updUnit core id k lane f).core core).copies id =
      some { c with units := tblSet c.units k (f (c.state k)), failed := tblDel c.failed lane } := by
  rw [State.updUnit, State.updCopy, State.core_updCore_same, tblFind_tblAdj_same, h]
  rfl

/-- CREAD of a unit that nothing holds back. -/
theorem exec_cread (hunit : s.copyUnit core id k = some (c, p)) (hdata : (c.state k).data = none) {u : State} {q : Spot} {ch : Nat}
    {via : Place} (hat : s.copyAt core c p.src .load = (u, .spot q ch via)) (hheld : s.copyHeld core ch q via = false) :
    exec (.cread core id k) s = .next ((u.readSpot (.ctx c.ctx) ch p.len q).1.updUnit core id k p.lane fun x =>
      { x with data := some (u.readSpot (.ctx c.ctx) ch p.len q).2, sent := some s.ns }) := by
  have hexec : exec (.cread core id k) s = execCread core id k s := rfl
  rw [hexec, execCread, hunit]
  dsimp only
  rw [hdata, if_neg (by exact Bool.false_ne_true), hat]
  dsimp only
  rw [hheld, if_neg Bool.false_ne_true]

/-- The copy of a unit, and what the unit has taken. -/
theorem exec_cread_took (hunit : s.copyUnit core id k = some (c, p)) {u : State} (hu : s.OwnAccess u) (bs : List Byte) :
    ∃ c', tblFind ((u.updUnit core id k p.lane fun x => { x with data := some bs, sent := some s.ns }).core core).copies id = some c' ∧
      c'.plan = c.plan ∧ c'.state k = { c.state k with data := some bs, sent := some s.ns } := by
  refine ⟨_, State.updUnit_find (c := c) ?_ p.lane _, rfl, ?_⟩
  · rw [hu.copies]; exact State.copyUnit_find hunit
  · rw [Copy.state, tblGet_eq_find, tblFind_tblSet_same]; rfl

/-- A unit is written: its copy is gone, or the unit stands as done. -/
def State.Written (t : State) (core id k : Nat) : Prop :=
  tblFind (t.core core).copies id = none ∨ ∃ c', tblFind (t.core core).copies id = some c' ∧ (c'.state k).done = true

/-- A unit is written: nothing of memory and the scratchpad changes in the copy's books. -/
theorem State.markWritten_spec (hfind : tblFind (s.core core).copies id = some c) (hid : c.id = id) (lane : Nat) (mem : Bool)
    (lines : List (Nat × Nat)) :
    let t := (s.updUnit core id k lane fun u => { u with done := true, cached := mem }).afterWrite core id lane lines
    t.mem = s.mem ∧ (t.core core).spad = (s.core core).spad ∧ t.Written core id k := by
  intro t
  have hunit := State.updUnit_find (k := k) hfind lane fun u => { u with done := true, cached := mem }
  have hends := State.copyEnds_afterWrite (s := s.updUnit core id k lane fun u => { u with done := true, cached := mem })
    (core := core) (id := id) (fun c' hc' => by rw [hunit] at hc'; rw [← Option.some.inj hc']; exact hid) lane lines
  refine ⟨hends.mem, hends.spad.trans ?_, ?_⟩
  · rw [State.updUnit, State.updCopy, State.core_updCore_same]
  · cases hc' : tblFind (t.core core).copies id with
    | none => exact .inl hc'
    | some c' =>
      obtain ⟨b, hb, -, hunits, -⟩ := hends.ends c' hc'
      rw [hunit] at hb
      refine .inr ⟨c', hc', ?_⟩
      rw [Copy.state, hunits, ← Option.some.inj hb, tblGet_eq_find, tblFind_tblSet_same]
      rfl

/-- CWRITE of a unit that nothing holds back. -/
theorem exec_cwrite (hunit : s.copyUnit core id k = some (c, p)) {bs : List Byte} (hdata : (c.state k).data = some bs)
    (hdone : (c.state k).done = false) {u : State} {q : Spot} {ch : Nat} {via : Place}
    (hat : s.copyAt core c p.dst .store = (u, .spot q ch via)) (hheld : s.copyHeld core ch q via = false) :
    (∀ page, u.mustSweep q = some page → exec (.cwrite core id k) s = .next (u.waitSweep page (.cwrite core id k))) ∧
      (u.mustSweep q = none → ∃ mem lines, exec (.cwrite core id k) s = .next
        (((u.writePart c p ch bs q).updUnit core id k p.lane fun x => { x with done := true, cached := mem }).afterWrite core id p.lane
          lines)) := by
  have hexec : exec (.cwrite core id k) s = execCwrite core id k s := rfl
  refine ⟨fun page hsweep => ?_, fun hsweep => ?_⟩
  · rw [hexec, execCwrite, hunit]
    dsimp only
    rw [hdata]
    dsimp only
    rw [hdone, if_neg Bool.false_ne_true, hat]
    dsimp only
    rw [hheld, if_neg Bool.false_ne_true, hsweep]
  · rw [hexec, execCwrite, hunit]
    dsimp only
    rw [hdata]
    dsimp only
    rw [hdone, if_neg Bool.false_ne_true, hat]
    dsimp only
    rw [hheld, if_neg Bool.false_ne_true, hsweep]
    exact ⟨_, _, rfl⟩

/-- A unit whose bytes no higher lane writes is written whole. -/
theorem State.writePart_eq (hskip : p.skip = 0) (ch : Nat) (bs : List Byte) (q : Spot) :
    s.writePart c p ch bs q = s.writeSpot (.ctx c.ctx) ch bs q := if_pos hskip

/-- A CWRITE into the core's own scratchpad, whose line has been zeroed. -/
theorem exec_cwrite_spad (hunit : s.copyUnit core id k = some (c, p)) (hid : c.id = id) {bs : List Byte}
    (hdata : (c.state k).data = some bs) (hdone : (c.state k).done = false) (hskip : p.skip = 0) {x : Nat}
    (hdst : p.dst = .at_ (.spad x)) (hlatent : (s.core core).latent = []) (hzero : (s.core core).zeroing.contains (x / 256) = false) :
    ∃ t, exec (.cwrite core id k) s = .next t ∧ t.mem = s.mem ∧ t.Written core id k ∧
      (t.core core).spad = memWrite (s.core core).spad x bs := by
  have hat : s.copyAt core c p.dst .store = (s, .spot (.spad core x) 0 (.spad x)) := by
    rw [hdst, State.copyAt_spad, hzero]; rfl
  have hheld : s.copyHeld core 0 (.spad core x) (.spad x) = false := by
    rw [State.copyHeld, State.pathHeld_spad]; rfl
  obtain ⟨mem, lines, hexec⟩ := (exec_cwrite hunit hdata hdone hat hheld).2 rfl
  obtain ⟨u, hu⟩ : ∃ u, u = s.writePart c p 0 bs (.spad core x) := ⟨_, rfl⟩
  have hwrite : u = s.spadWrite core x bs := hu.trans (State.writePart_eq hskip 0 bs _)
  have hfind : tblFind (u.core core).copies id = some c := by
    rw [hwrite, (State.spadWrite_rest hlatent x bs).2]; exact State.copyUnit_find hunit
  obtain ⟨hmem, hspad, hwritten⟩ := State.markWritten_spec (k := k) hfind hid p.lane mem lines
  refine ⟨_, by rw [hexec, hu], hmem.trans ?_, hwritten, hspad.trans ?_⟩
  · rw [hwrite]; exact (State.spadWrite_rest hlatent x bs).1
  · rw [hwrite]; exact (State.spadWrite_of_none hlatent x bs).1

/-- A CWRITE to memory at a sound home. -/
theorem exec_cwrite_mem (hunit : s.copyUnit core id k = some (c, p)) (hid : c.id = id) {bs : List Byte}
    (hdata : (c.state k).data = some bs) (hdone : (c.state k).done = false) (hskip : p.skip = 0) {u : State} {pa ch : Nat} {via : Place}
    (hat : s.copyAt core c p.dst .store = (u, .spot (.mem pa) ch via)) (hheld : s.copyHeld core ch (.mem pa) via = false)
    (hmem : u.mem.isMem pa = true) (hpending : u.scrubPending pa = false) (hsound : u.HSound) :
    ∃ t, exec (.cwrite core id k) s = .next t ∧ t.Written core id k ∧ t.mem.cells = memWrite u.mem.cells pa bs := by
  obtain ⟨mem, lines, hexec⟩ := (exec_cwrite hunit hdata hdone hat hheld).2 (by
    rw [State.mustSweep, hpending]; rfl)
  obtain ⟨v, hv⟩ : ∃ v, v = u.writePart c p ch bs (.mem pa) := ⟨_, rfl⟩
  have hwrite : v = u.hWrite (.ctx c.ctx) ch pa bs :=
    hv.trans ((State.writePart_eq hskip ch bs _).trans (if_pos hmem))
  obtain ⟨hcells, hcores, -⟩ := hsound.hWrite (.ctx c.ctx) ch pa bs
  have hu : s.OwnAccess u := by
    have h := s.ownAccess_copyAt core c p.dst .store
    rwa [hat] at h
  have hfind : tblFind (v.core core).copies id = some c := by
    rw [hwrite, State.core, hcores]
    exact (congrArg (tblFind · id) (hu.copies core)).trans (State.copyUnit_find hunit)
  obtain ⟨hmem', -, hwritten⟩ := State.markWritten_spec (k := k) hfind hid p.lane mem lines
  exact ⟨_, by rw [hexec, hv], hwritten, by rw [hmem', hwrite, hcells]⟩

end

/-! ## Sealed batches -/

/-- R118, R283: the second part of O23. -/
theorem exec_cpySeal {s : State} (h : s.Issuing) :
    ∃ t, exec .cpySeal s = .next t ∧ s.Changes t fun _ x =>
      if 16 ≤ unfinished x.sealedB then { x with status := .parked, waitOn := .batchSlot }
      else ({ x with sealedB := x.sealedB ++ [x.openB], openB := ⟨[], false, false⟩ } : Lane).goto s.nextPc := by
  exact ⟨_, rfl, (State.orFault_changes h rfl _).congr fun _ _ => rfl⟩

/-- Settles O23. -/
theorem copyUnitsBatchesAndAnswers : Obligations.CopyUnitsBatchesAndAnswers := by
  unfold Obligations.CopyUnitsBatchesAndAnswers
  refine ⟨fun s core id k x c p hunit hid => ⟨fun hdata => ⟨fun u q ch via hat hheld => ?_, fun hsrc hlatent => ?_⟩,
    fun bs hdata hdone hskip => ⟨fun hdst hlatent hzero => ?_, fun hdst hzero => ?_, fun u pa ch via hat hheld hmem =>
      ⟨fun hpending hsound => ?_, fun hpending => ?_⟩⟩⟩, fun s h => exec_cpySeal h,
    fun s core e rest c hq hc hid hlane => copyFaultAnswers hq hc hid hlane⟩
  · have hu : s.OwnAccess u := by
      have h := s.ownAccess_copyAt core c p.src .load
      rwa [hat] at h
    exact ⟨_, exec_cread hunit hdata hat hheld, exec_cread_took hunit (hu.trans (u.ownAccess_readSpot _ _ _ _)) _⟩
  · have hat : s.copyAt core c p.src .load = (s, .spot (.spad core x) 0 (.spad x)) := by
      rw [hsrc, State.copyAt_spad]; rfl
    have hheld : s.copyHeld core 0 (.spad core x) (.spad x) = false := by
      rw [State.copyHeld, State.pathHeld_spad]; rfl
    have hread : s.readSpot (.ctx c.ctx) 0 p.len (.spad core x) = (s, memRead (s.core core).spad x p.len) :=
      State.spadRead_of_none hlatent x p.len
    refine ⟨_, exec_cread hunit hdata hat hheld, ?_, ?_⟩
    · rw [hread]; exact exec_cread_took hunit (.refl s) _
    · rw [hread]; rfl
  · obtain ⟨t, hexec, hmem, hwritten, hspad⟩ := exec_cwrite_spad hunit hid hdata hdone hskip hdst hlatent hzero
    exact ⟨t, hexec, hmem, hwritten, fun a => by rw [hspad, memGet_memWrite]⟩
  · have hexec : exec (.cwrite core id k) s = execCwrite core id k s := rfl
    rw [hexec, execCwrite, hunit]
    dsimp only
    rw [hdata]
    dsimp only
    rw [hdone, if_neg Bool.false_ne_true, hdst, State.copyAt_spad, hzero]
    rfl
  · obtain ⟨t, hexec, hwritten, hcells⟩ := exec_cwrite_mem hunit hid hdata hdone hskip hat hheld hmem hpending hsound
    exact ⟨t, hexec, hwritten, fun a => by rw [hcells, memGet_memWrite]⟩
  · obtain ⟨hcells, hsweeping, hwaiters⟩ := u.waitSweep_spec (pageOf pa) (.cwrite core id k)
    exact ⟨_, (exec_cwrite hunit hdata hdone hat hheld).1 (pageOf pa) (by rw [State.mustSweep, hpending]; rfl), hcells,
      List.contains_iff_mem.1 hsweeping, hwaiters⟩

end Sys2Proof.Machine
end

section
/-! SUPPORT. cpy of one lane (O22). -/

namespace Sys2Proof.Machine

set_option Elab.async false

/-! ## One lane of an issue, followed through what is done to it -/

/-- The issue of s stands in u, and a lane of it is x there. -/
structure State.LaneAs (s u : State) (l : Nat) (x : Lane) : Prop where
  issuing : u.Issuing
  issue   : u.issue = s.issue
  lane    : u.issLane l = x

namespace State.LaneAs
variable {s u : State} {l : Nat} {x : Lane}

theorem of_ownAccess (h : s.OwnAccess u) (hs : s.Issuing) (l : Nat) : s.LaneAs u l (s.issLane l) :=
  ⟨(h.issuing hs).1, h.issue, h.issLane hs l⟩

theorem keepsTeams {v : State} (h : s.LaneAs u l x) (hk : u.KeepsTeams v) : s.LaneAs v l x :=
  ⟨hk.issuing h.issuing, hk.issue.trans h.issue, by rw [State.issLane, hk.issGroup]; exact h.lane⟩

theorem mapLanes (h : s.LaneAs u l x) (hl : l < 32) (ls : List Nat) (f : Nat → Lane → Lane) :
    s.LaneAs (u.updIssGroup fun y => y.mapLanes ls f) l (if ls.contains l then f l x else x) := by
  refine ⟨State.issuing_mapLanes h.issuing ls f, h.issue, ?_⟩
  rw [← h.lane]
  exact (congrArg (Group.lane · l) (State.group_updIssGroup h.issuing _)).trans (Group.lane_mapLanes _ _ _ _ (h.issuing.lanes l hl))

theorem updLane (h : s.LaneAs u l x) (f : Lane → Lane) : s.LaneAs (u.updIssGroup fun y => y.updLane l f) l (f x) := by
  refine ⟨State.issuing_updLane h.issuing l f, h.issue, ?_⟩
  rw [← h.lane]
  exact (congrArg (Group.lane · l) (State.group_updIssGroup h.issuing _)).trans (tblGet_tblSet_same _ _ _ _)

theorem addOp (h : s.LaneAs u l x) (hl : l < 32) {o : Op} (ho : (lanesOf o.lanes).contains l = true) :
    s.LaneAs (u.addOp o) l (x.pend o.flag) := by
  have hk : u.KeepsTeams (u.updIssCore fun k => { k with ops := tblSet k.ops o.id o }) := .updCore u _ fun _ => rfl
  unfold State.addOp Lane.pend
  dsimp only
  cases o.flag with
  | none => exact h.keepsTeams hk
  | some i =>
    have := (h.keepsTeams hk).mapLanes hl (lanesOf o.lanes) fun _ x => { x with flags := flagInc x.flags i.val }
    rwa [if_pos ho] at this

theorem noteSkips_nil (h : s.LaneAs u l x) (hl : l < 32) (v : State) (tos : List (Nat × Nat × Nat)) (n : Nat) :
    s.LaneAs (u.noteSkips v tos n []) l x := h.mapLanes hl [] _

theorem parkLanes_nil (h : s.LaneAs u l x) (hl : l < 32) : s.LaneAs (u.parkLanes []) l x := h.mapLanes hl [] _

theorem laneIn (h : s.LaneAs u l x) : s.laneIn u l = x := by rw [State.laneIn_of_issue h.issue, h.lane]

end State.LaneAs

/-- The copies and the scratchpad of a core. -/
def Core.copiesSpad (k : Core) : Tbl Copy × Memory := (k.copies, k.spad)

theorem State.copiesSpad_updIssGroup (s : State) (f : Group → Group) (c : Nat) :
    ((s.updIssGroup f).core c).copiesSpad = (s.core c).copiesSpad := by
  obtain ⟨ts, h⟩ := s.core_updIssGroup f c
  rw [h]; rfl

theorem State.copiesSpad_addOp (s : State) (o : Op) (c : Nat) : ((s.addOp o).core c).copiesSpad = (s.core c).copiesSpad := by
  have hop : ((s.updIssCore fun k => { k with ops := tblSet k.ops o.id o }).core c).copiesSpad = (s.core c).copiesSpad :=
    s.updCore_keeps _ c fun _ => rfl
  unfold State.addOp
  dsimp only
  split
  · exact hop
  · exact (State.copiesSpad_updIssGroup _ _ c).trans hop

/-! ## Where a lane's regions stand as it issues -/

/-- What an instruction itself looks up leaves the work of the cores, and their scratchpads. -/
structure State.LooksUp (s t : State) : Prop where
  access : s.OwnAccess t
  spad   : ∀ c, (t.core c).spad = (s.core c).spad

namespace State.LooksUp
variable {s t u : State}

theorem refl (s : State) : s.LooksUp s := ⟨.refl s, fun _ => rfl⟩

theorem trans (h : s.LooksUp t) (h' : t.LooksUp u) : s.LooksUp u :=
  ⟨h.access.trans h'.access, fun c => (h'.spad c).trans (h.spad c)⟩

theorem of_home (h : s.AtHome t) : s.LooksUp t := ⟨.of_home h, fun c => by rw [h.core c]⟩

theorem foldl {α : Type} {f : State → α → State} (hf : ∀ (s : State) x, s.LooksUp (f s x)) (ls : List α) (s : State) :
    s.LooksUp (ls.foldl f s) :=
  List.foldlRecOn (motive := fun u => s.LooksUp u) ls f (refl s) fun _ h x _ => h.trans (hf _ x)

end State.LooksUp

theorem State.looksUp_coreTlbAdd (s : State) (core : Nat) (e : Tlb) : s.LooksUp (s.coreTlbAdd core e) :=
  ⟨s.ownAccess_coreTlbAdd core e, fun c => s.updCore_keeps (p := Core.spad) core c fun _ => rfl⟩

theorem State.looksUp_tlbLeaf (s : State) (core ctx root va : Nat) : s.LooksUp (s.tlbLeaf core ctx root va).1 := by
  have hhome := (s.atH_lookup (clusterOf core) ctx root va).home
  unfold State.tlbLeaf
  split
  · exact .refl s
  · split
    · next h => rw [h] at hhome; exact (State.LooksUp.of_home hhome).trans (State.looksUp_coreTlbAdd _ _ _)
    · exact .of_home hhome

theorem State.looksUp_issuePlace (s : State) (r : Ref) : s.LooksUp (s.issuePlace r).1 := by
  cases r with
  | at_ p => exact .refl s
  | virt va =>
    have hleaf := s.looksUp_tlbLeaf s.issue.core s.issGrid.ctx s.issGrid.desc.ptRoot va
    unfold State.issuePlace
    dsimp only
    split
    · next h => rw [h] at hleaf; exact hleaf
    · next h => rw [h] at hleaf; exact hleaf

/-- The one lane of a cpy that may issue. -/
theorem State.cpyLanes_one {s u : State} {n l : Nat} {dst src : Nat → DWord} {c : CpyLane}
    (h : s.cpyLanes n dst src [l] = (u, [c], [])) : s.LooksUp u ∧ c.lane = l := by
  have hmoves : s.LooksUp ((s.issuePlace (s.refOf (s.whoIs l) (src l) n)).1.issuePlace (s.refOf (s.whoIs l) (dst l) n)).1 :=
    (s.looksUp_issuePlace _).trans (State.looksUp_issuePlace _ _)
  unfold State.cpyLanes at h
  dsimp only at h
  rw [State.cpyLanes] at h
  dsimp only at h
  split at h
  · cases (Prod.mk.inj (Prod.mk.inj h).2).1
  · split at h
    · split at h
      · obtain ⟨hu, hrest⟩ := Prod.mk.inj h
        rw [← hu]
        exact ⟨hmoves, by rw [← (List.cons.inj (Prod.mk.inj hrest).1).1]⟩
      · cases (Prod.mk.inj (Prod.mk.inj h).2).1
    · cases (Prod.mk.inj (Prod.mk.inj h).2).1
    · cases (Prod.mk.inj (Prod.mk.inj h).2).1

/-! ## The transfer issues -/

theorem State.atHome_copyL1 (s : State) (core n : Nat) (read : Bool) (p : Option Place) : s.AtHome (s.copyL1 core n read p) := by
  unfold State.copyL1
  split
  · split
    · refine List.foldlRecOn (motive := fun u : State => s.AtHome u) _ _ (.refl s) fun u h k _ => ?_
      split
      · exact h.trans (u.atHome_wbSector _ k)
      · exact h.trans (u.atHome_sflush _ k)
    · exact .refl s
  · exact .refl s

theorem State.refLines_atHome {s t : State} (h : s.AtHome t) (core : Nat) (r : Ref) (n : Nat) :
    t.refLines core r n = s.refLines core r n := by
  have hrank : ∀ c rank g co, t.rankAt c rank g co = s.rankAt c rank g co := fun c rank g co => by
    have hranks : (t.cluster c).ranks = (s.cluster c).ranks := (congrArg Cluster.ranks (h.cluster c) :)
    rw [State.rankAt, State.rankAt, Cluster.rankEntry, Cluster.rankEntry, hranks]
  have hspot : ∀ p, t.spadSpot core p = s.spadSpot core p := fun p => by
    cases p with
    | rank c rank g co off => simp only [State.spadSpot, hrank, State.team, h.core]
    | _ => rfl
  cases r with
  | virt va => rfl
  | at_ p => simp only [State.refLines, hspot]

theorem State.spad_outAdds (s : State) (ls : List (Nat × Nat)) (c : Nat) :
    ((ls.foldl (fun s l => s.outAdd l) s).core c).spad = (s.core c).spad :=
  List.foldlRecOn (motive := fun x : State => (x.core c).spad = (s.core c).spad) ls _ rfl fun x h l _ =>
    (x.updCore_keeps (p := Core.spad) (f := fun k => { k with outs := tblSet k.outs l.2 (tblGet 0 k.outs l.2 + 1) }) l.1 c
      fun _ => rfl).trans h

/-- The copy of one lane's transfer, which counts in the lines of its destination. -/
theorem State.issueTransfer_spec (u : State) (tos : List (Nat × Nat × Nat)) (c : CpyLane) (n op : Nat) :
    ∃ w k, u.KeepsTeams w ∧ (w.core u.issue.core).spad = (u.core u.issue.core).spad ∧
      u.issueTransfer tos [c] n op = ((w.updCore u.issue.core fun x => { x with copies := tblSet x.copies u.fresh k }).updIssGroup
        fun y => y.mapLanes [c.lane] fun _ x =>
          { x with openB := { x.openB with copies := u.fresh :: x.openB.copies }, cpySkip := none }, u.fresh) ∧
      k.plan = .parts (u.cpyParts tos n c) ∧ k.lanes = maskOf [c.lane] ∧ k.op = op ∧ k.stopped = 0 ∧
      k.outs = ((u.refLines u.issue.core c.dstR n).getD []).eraseDups := by
  obtain ⟨v, hv⟩ : ∃ v, v = (u.name.2.copyL1 u.issue.core n true c.srcP).copyL1 u.issue.core n false c.dstP := ⟨_, rfl⟩
  have hhome : u.name.2.AtHome v := by
    rw [hv]; exact (State.atHome_copyL1 _ _ _ _ _).trans (State.atHome_copyL1 _ _ _ _ _)
  have hlines : ([c].flatMap fun c => (v.refLines u.issue.core c.dstR n).getD []) = (u.refLines u.issue.core c.dstR n).getD [] := by
    rw [List.flatMap_singleton, State.refLines_atHome hhome]; rfl
  obtain ⟨w, hw⟩ : ∃ w, w = (((u.refLines u.issue.core c.dstR n).getD []).eraseDups).foldl (fun s l => s.outAdd l) v := ⟨_, rfl⟩
  have hk : u.KeepsTeams w := by
    have hv : u.KeepsTeams v := .of_cores hhome.issue hhome.cores
    rw [hw]
    exact hv.trans (.outAdds v _)
  have hspad : (w.core u.issue.core).spad = (u.core u.issue.core).spad := by
    rw [hw, State.spad_outAdds, hhome.core]; rfl
  have hparts : [c].flatMap (w.cpyParts tos n) = u.cpyParts tos n c := by
    have hskipped : ∀ l, w.skipped l = u.skipped l := fun l => by
      rw [State.skipped, State.skipped, State.issLane, State.issLane, hk.issGroup, hk.issue]
    rw [List.flatMap_singleton, State.cpyParts, State.cpyParts, hskipped]
  have heq := Eq.refl (u.issueTransfer tos [c] n op)
  conv at heq => rhs; unfold State.issueTransfer
  dsimp only [List.foldl_cons, List.foldl_nil] at heq
  rw [← hv, hlines, ← hw, hparts, hk.issue] at heq
  exact ⟨w, _, hk, hspad, heq, rfl, rfl, rfl, rfl, rfl⟩

/-! ## cpy -/

/-- The operation that one transfer of a cpy starts. -/
def State.cpyOp (s : State) (flag : FlagSel) (c : CpyLane) (id : Nat) : Op :=
  { id := s.fresh, uid := s.issGroup.uid, kind := .copy, flag := flag, tl := [c.lane].any fun l => (s.issLane l).tl,
    lanes := maskOf [c.lane], left := [id], values := [], ended := 0, pc := s.issue.p }

section
variable {s u : State} {flag : FlagSel} {sz : BitVec 2} {d a : Src} {l : Nat} {c : CpyLane}
  (hl : s.issLanes = [l]) (hsz : sz.toNat < 3) (hd : s.srcOk 2 d = true) (ha : s.srcOk 2 a = true)
  (hfull : (s.issLane l).flagFull flag = false)
  (hdst : s.preCheck (s.whoIs l) .any (cpySize sz) (cpySize sz) (s.src64 0 l d) = none)
  (hsrc : s.preCheck (s.whoIs l) .any (cpySize sz) (cpySize sz) (s.src64 1 l a) = none)
  (hlanes : s.name.2.cpyLanes (cpySize sz) (fun l => s.src64 0 l d) (fun l => s.src64 1 l a) [l] = (u, [c], []))
  (hheld : u.transferHeld [c] (cpySize sz) = none)
include hl hsz hd ha hfull hdst hsrc hlanes hheld

/-- What a cpy of one lane does, as its transfer issues. -/
theorem exec_cpy_one (tos : List (Nat × Nat × Nat))
    (htos : (s.issLanes.filterMap fun l => (s.cpyTo (cpySize sz) l (s.src64 0 l d)).map fun a => (l, a)) = tos) :
    ∃ f, (∀ x, f l x = x.goto s.nextPc) ∧
      exec (.cpy flag sz d a) s = .next (((((u.issueTransfer tos [c] (cpySize sz) s.fresh).1.addOp
        (s.cpyOp flag c (u.issueTransfer tos [c] (cpySize sz) s.fresh).2)).updIssGroup fun y => y.mapLanes [l] f).noteSkips
          s tos (cpySize sz) []).parkLanes []) := by
  have hexec : exec (.cpy flag sz d a) s = execCpy flag sz d a s := rfl
  have hlane : c.lane = l := (State.cpyLanes_one hlanes).2
  have hz : s.issue.lanes ≠ 0 := State.lanes_ne_zero (l := l) (by rw [hl]; exact List.mem_singleton_self l)
  have hgo : (s.issLanes.filter fun l => !(s.issLane l).flagFull flag) = [l] := by
    rw [hl, List.filter_cons_of_pos (by rw [hfull]; rfl), List.filter_nil]
  have hbad : mergeBads [l] (fun m => match s.preCheck (s.whoIs m) .any (cpySize sz) (cpySize sz) (s.src64 0 m d) with
      | some x => some x
      | none => s.preCheck (s.whoIs m) .any (cpySize sz) (cpySize sz) (s.src64 1 m a)) [] = [] :=
    mergeBads_nil fun m hm => by rw [List.mem_singleton.1 hm, hdst, hsrc]
  have hissue : u.issueTransfers tos (cpySize sz) s.name.1 [[c]] =
      ((u.issueTransfer tos [c] (cpySize sz) s.fresh).1, [(u.issueTransfer tos [c] (cpySize sz) s.fresh).2], [c.lane], []) := by
    unfold State.issueTransfers
    rw [hheld]
    rfl
  have hrest : ([l].filter fun m => !([c.lane].contains m)) = [] := by rw [hlane]; simp
  rw [hexec]
  unfold execCpy
  dsimp only
  rw [hgo, State.orFault_pass hz (firstFault_eq_none ?_)]
  · rw [hlanes, htos, show transfers [c] = [[c]] from rfl]
    dsimp only
    rw [hissue]
    dsimp only
    rw [hl, hrest]
    refine ⟨_, fun x => ?_, rfl⟩
    exact if_pos (by rw [hlane]; simp)
  · intro x hx
    simp only [List.mem_cons, List.not_mem_nil, or_false] at hx
    rcases hx with rfl | rfl | rfl
    · rw [State.illegal, decide_eq_true hsz]; rfl
    · exact State.operands_none fun b hb => by
        simp only [List.mem_cons, List.not_mem_nil, or_false] at hb
        rcases hb with rfl | rfl
        · exact hd
        · exact ha
    · exact congrArg (s.laneFault · _) hbad

/-- R111, R116, R282: the first part of O22. -/
theorem exec_cpy_records (h : s.Issuing) : let tos := s.issLanes.filterMap fun l => (s.cpyTo (cpySize sz) l (s.src64 0 l d)).map fun a => (l, a)
    ∃ t k, exec (.cpy flag sz d a) s = .next t ∧ tblFind (t.core s.issue.core).copies u.fresh = some k ∧
      k.plan = .parts (u.cpyParts tos (cpySize sz) c) ∧ k.lanes = maskOf [c.lane] ∧ k.op = s.fresh ∧ k.stopped = 0 ∧
      k.outs = ((u.refLines s.issue.core c.dstR (cpySize sz)).getD []).eraseDups ∧
      (s.laneIn t l).pc = s.nextPc ∧ u.fresh ∈ (s.laneIn t l).openB.copies ∧
      (s.laneIn t l).flags = ((s.issLane l).pend flag).flags ∧ (t.core s.issue.core).spad = s.issCore.spad := by
  intro tos
  obtain ⟨hlooks, hlane⟩ := State.cpyLanes_one hlanes
  have hl32 : l < 32 := State.issLanes_lt (s := s) (by rw [hl]; exact List.mem_singleton_self l)
  obtain ⟨w, k, hk, hspad, hissue, hplan, hmask, hop, hstopped, houts⟩ := u.issueTransfer_spec tos c (cpySize sz) s.fresh
  have huissue : u.issue = s.issue := hlooks.access.issue
  rw [hlane] at hissue
  rw [huissue] at hspad hissue houts
  have hu : s.LaneAs u l (s.issLane l) := by
    have hname : s.name.2.LaneAs u l (s.name.2.issLane l) :=
      .of_ownAccess hlooks.access ((State.KeepsTeams.of_cores rfl rfl : s.KeepsTeams s.name.2).issuing h) l
    exact ⟨hname.issuing, hname.issue, hname.lane⟩
  obtain ⟨f, hf, hexec⟩ := exec_cpy_one hl hsz hd ha hfull hdst hsrc hlanes hheld tos rfl
  obtain ⟨v, hv⟩ : ∃ v, v = w.updCore s.issue.core fun x => { x with copies := tblSet x.copies u.fresh k } := ⟨_, rfl⟩
  rw [← hv] at hissue
  have hlanev : s.LaneAs v l (s.issLane l) := by
    rw [hv]; exact (hu.keepsTeams hk).keepsTeams (.updCore w _ fun _ => rfl)
  have hone : [l].contains l = true := by simp
  have hmaskc : (lanesOf (maskOf [l])).contains l = true := by
    rw [lanesOf_maskOf_contains fun m hm => by rw [List.mem_singleton.1 hm]; exact hl32]; exact hone
  have hjoined := hlanev.mapLanes hl32 [l] fun _ x =>
    { x with openB := { x.openB with copies := u.fresh :: x.openB.copies }, cpySkip := none }
  rw [if_pos hone] at hjoined
  have hraised := hjoined.addOp hl32 (o := s.cpyOp flag c u.fresh) (by rw [State.cpyOp, hlane]; exact hmaskc)
  have hgone := hraised.mapLanes hl32 [l] f
  rw [if_pos hone, hf] at hgone
  obtain ⟨t, ht⟩ : ∃ t, t = ((((u.issueTransfer tos [c] (cpySize sz) s.fresh).1.addOp (s.cpyOp flag c
    (u.issueTransfer tos [c] (cpySize sz) s.fresh).2)).updIssGroup fun y => y.mapLanes [l] f).noteSkips s tos (cpySize sz) []).parkLanes [] :=
    ⟨_, rfl⟩
  rw [← ht] at hexec
  rw [hissue] at ht
  have hcore : (t.core s.issue.core).copiesSpad = (v.core s.issue.core).copiesSpad := by
    rw [ht]
    exact (State.copiesSpad_updIssGroup _ _ _).trans ((State.copiesSpad_updIssGroup _ _ _).trans
      ((State.copiesSpad_updIssGroup _ _ _).trans ((State.copiesSpad_addOp _ _ _).trans (State.copiesSpad_updIssGroup _ _ _))))
  have hlanet : s.laneIn t l = (Lane.pend { s.issLane l with
      openB := { (s.issLane l).openB with copies := u.fresh :: (s.issLane l).openB.copies }, cpySkip := none } flag).goto s.nextPc := by
    rw [ht]; exact ((hgone.noteSkips_nil hl32 s tos _).parkLanes_nil hl32).laneIn
  refine ⟨t, k, hexec, ?_, hplan, hmask, hop, hstopped, houts, ?_, ?_, ?_, ?_⟩
  · have hcopies : (t.core s.issue.core).copies = (v.core s.issue.core).copies := (congrArg Prod.fst hcore :)
    rw [hcopies, hv, State.core_updCore_same]
    exact tblFind_tblSet_same _ _ _
  · rw [hlanet]; rfl
  · rw [hlanet]; cases flag <;> exact List.mem_cons_self
  · rw [hlanet]; cases flag <;> rfl
  · have hspadt : (t.core s.issue.core).spad = (v.core s.issue.core).spad := (congrArg Prod.snd hcore :)
    rw [hspadt, hv, State.core_updCore_same]
    exact hspad.trans (hlooks.spad _)

end

end Sys2Proof.Machine
end

section
/-! SUPPORT. tcpy of one lane (O22). -/

namespace Sys2Proof.Machine

set_option Elab.async false

/-! ## What a tile's issue meets -/

theorem State.ownAccess_selfWalks_one (s : State) (l : Nat) (a : DWord) : s.OwnAccess (s.selfWalks [(l, a)]) :=
  s.ownAccess_selfWalk _ _ _

theorem State.looksUp_tileHeld (s : State) (l : Nat) (t : Tile) : s.LooksUp (s.tileHeld l t).1 := by
  unfold State.tileHeld
  dsimp only
  exact List.foldlRecOn (motive := fun a : State × List (Option Place) => s.LooksUp a.1) _ _ (.refl s) fun a h c _ =>
    h.trans (a.1.looksUp_issuePlace _)

/-- The copy of a tile that is accepted. -/
theorem State.acceptTcpy_spec {s u : State} {l : Nat} {x : Lane} (h : s.LaneAs u l x) {f : TcpyForm} {t : Tile} {stage : Nat}
    (hbytes : 0 < t.bytes) (mems : List (Option Place)) :
    ∃ k, s.LaneAs (u.acceptTcpy f l t stage mems) l (((x.setReg f.dst.toNat (BitVec.ofNat 32 u.issTeam.tlCopy.next)).setReg
        (f.dst.toNat + 1) (BitVec.ofNat 32 (u.issTeam.tlCopy.next / 2 ^ 32))).goto s.nextPc) ∧
      ((u.acceptTcpy f l t stage mems).team s.issue.core s.issue.slot).tlCopy.next = u.issTeam.tlCopy.next + 1 ∧
      tblFind ((u.acceptTcpy f l t stage mems).core s.issue.core).copies u.fresh = some k ∧ k.plan = .tile t ∧
      k.tile = some u.issTeam.tlCopy.next := by
  obtain ⟨a, ha⟩ : ∃ a, a = u.updIssTeam fun x => { x with tlCopy := x.tlCopy.accept.2 } := ⟨_, rfl⟩
  obtain ⟨hia, hteam, hgroup, -⟩ := State.updIssTeam_keeps h.issuing (f := fun x => { x with tlCopy := x.tlCopy.accept.2 }) fun _ => rfl
  rw [← ha] at hia hteam hgroup
  have hissuea : a.issue = u.issue := by rw [ha]; rfl
  have hfresh : a.fresh = u.fresh := by rw [ha]; rfl
  have hla : s.LaneAs a l x := ⟨hia, hissuea.trans h.issue, by rw [State.issLane, hgroup]; exact h.lane⟩
  obtain ⟨v, hv⟩ : ∃ v, v = mems.foldl (fun s p => s.copyL1 u.issue.core 16 (!t.st) p) a.name.2 := ⟨_, rfl⟩
  obtain ⟨outs, houts⟩ : ∃ outs, outs = if t.st then [] else
    ((t.chunks.map fun c => (v.refLines u.issue.core (t.sb.plus c.2) 16).getD []).flatten).eraseDups := ⟨_, rfl⟩
  obtain ⟨w, hw⟩ : ∃ w, w = outs.foldl (fun s x => s.outAdd x) v := ⟨_, rfl⟩
  have hk : a.KeepsTeams w := by
    have hhome : a.name.2.AtHome v := by
      rw [hv]
      exact List.foldlRecOn (motive := fun x : State => a.name.2.AtHome x) _ _ (.refl _) fun x h p _ =>
        h.trans (x.atHome_copyL1 _ _ _ p)
    have hav : a.KeepsTeams v := .of_cores hhome.issue hhome.cores
    rw [hw]
    exact hav.trans (.outAdds v outs)
  obtain ⟨k, hplan, htile, heq⟩ : ∃ k : Copy, k.plan = .tile t ∧ k.tile = some u.issTeam.tlCopy.next ∧
      u.acceptTcpy f l t stage mems = (w.updCore u.issue.core fun y => { y with copies := tblSet y.copies u.fresh k }).updIssGroup
        fun y => y.updLane l fun x => ((x.setReg f.dst.toNat (BitVec.ofNat 32 u.issTeam.tlCopy.next)).setReg (f.dst.toNat + 1)
          (BitVec.ofNat 32 (u.issTeam.tlCopy.next / 2 ^ 32))).goto
          (w.updCore u.issue.core fun y => { y with copies := tblSet y.copies u.fresh k }).nextPc := by
    have heq := Eq.refl (u.acceptTcpy f l t stage mems)
    conv at heq => rhs; unfold State.acceptTcpy
    dsimp only at heq
    rw [if_neg (by omega), ← ha, ← hv, ← houts, ← hw, show a.name.1 = u.fresh from hfresh] at heq
    exact ⟨_, rfl, rfl, heq⟩
  obtain ⟨e, he⟩ : ∃ e, e = w.updCore u.issue.core fun y => { y with copies := tblSet y.copies u.fresh k } := ⟨_, rfl⟩
  rw [← he] at heq
  have hke : a.KeepsTeams e := by rw [he]; exact hk.trans (.updCore w _ fun _ => rfl)
  have hle : s.LaneAs e l x := hla.keepsTeams hke
  have hnext : e.nextPc = s.nextPc := by rw [State.nextPc, hle.issue]; rfl
  rw [heq, hnext]
  refine ⟨k, hle.updLane _, ?_, ?_, hplan, htile⟩
  · have hteame := State.team_updIssGroup hle.issuing fun y => y.updLane l fun x =>
      ((x.setReg f.dst.toNat (BitVec.ofNat 32 u.issTeam.tlCopy.next)).setReg (f.dst.toNat + 1)
        (BitVec.ofNat 32 (u.issTeam.tlCopy.next / 2 ^ 32))).goto s.nextPc
    rw [hle.issue] at hteame
    rw [hteame, hke.issTeam, hteam]
    rfl
  · have hcopies : ∀ g, ((e.updIssGroup g).core s.issue.core).copies = (e.core s.issue.core).copies := fun g =>
      (congrArg Prod.fst (e.copiesSpad_updIssGroup g s.issue.core) :)
    rw [hcopies, he, h.issue, State.core_updCore_same]
    exact tblFind_tblSet_same _ _ _

theorem State.LaneAs.tlCopy_updIssGroup {s u : State} {l : Nat} {x : Lane} (h : s.LaneAs u l x) (g : Group → Group) :
    ((u.updIssGroup g).team s.issue.core s.issue.slot).tlCopy = (u.team s.issue.core s.issue.slot).tlCopy := by
  have hteam := State.team_updIssGroup h.issuing g
  rw [h.issue] at hteam
  rw [hteam, State.issTeam, State.issCore, h.issue]
  rfl

/-! ## tcpy -/

section
variable {s v w : State} {f : TcpyForm} {l : Nat} {p : Place} {ch vpn : Nat} {tile : Tile} {bs : List Byte} {mems : List (Option Place)}
  (hl : s.issLanes = [l]) (hrole : s.issGroup.role = .copy) (hdst : s.regsOk 2 f.dst.toNat = true) (hmb : s.srcOk 2 f.mb = true)
  (hsb : s.srcOk 2 f.sb = true) (hlay : s.srcOk 2 f.lay = true) (hq : s.srcOk 2 f.q = true)
  (hfull : (s.issLane l).flagFull f.flag = false) (hearly : s.tcpyEarly f l = none)
  (hreach : s.ownReach l (s.tcpyLane f l).rp 32 32 .load = .ok p ch vpn) (hblock : s.ownBlockers l p 32 false = [])
  (hholds : s.ownHolds p ch 32 = none)
  (hread : (s.selfWalks [(l, (s.tcpyLane f l).rp)]).ownLoad s.issue.core s.issGroup.uid s.issGrid.ctx p ch 32 = (v, bs))
  (hlate : s.tcpyLate f l bs = .ok tile) (hheld : v.tileHeld l tile = (w, none, mems))
include hl hrole hdst hmb hsb hlay hq hfull hearly hreach hblock hholds hread hlate hheld

/-- What a tcpy of one lane does, as its tile is accepted. -/
theorem exec_tcpy_one (h : s.Issuing) : ∃ g, (∀ x, g l x = x) ∧
    exec (.tcpy f) s = .next ((((w.acceptTcpy f l tile (s.tcpyLane f l).stage mems).updIssGroup fun y => y.mapLanes [l] g).parkLanes
      []).issWalks []) := by
  have hexec : exec (.tcpy f) s = execTcpy f s := rfl
  have hz : s.issue.lanes ≠ 0 := State.lanes_ne_zero (l := l) (by rw [hl]; exact List.mem_singleton_self l)
  have hwalks := s.ownAccess_selfWalks_one l (s.tcpyLane f l).rp
  have hgo : (s.issLanes.filter fun l => !(s.issLane l).flagFull f.flag) = [l] := by
    rw [hl, List.filter_cons_of_pos (by rw [hfull]; rfl), List.filter_nil]
  have hfirst : ([l].filter fun l => (s.tcpyEarly f l).isNone) = [l] := by
    rw [List.filter_cons_of_pos (by rw [hearly]; rfl), List.filter_nil]
  have hrecs : (s.selfWalks [(l, (s.tcpyLane f l).rp)]).readOwn 32 [(l, p, ch, vpn)] = (v, [(l, bs)]) := by
    unfold State.readOwn
    dsimp only
    rw [hwalks.issue, hwalks.issGrid_ctx h, show (s.selfWalks [(l, (s.tcpyLane f l).rp)]).issGroup.uid = s.issGroup.uid from
      (congrArg Group.uid (hwalks.issuing h).2.2 :), hread]
    rfl
  have haccept : v.acceptTiles f [(l, tile, (s.tcpyLane f l).stage)] = w.acceptTcpy f l tile (s.tcpyLane f l).stage mems := by
    unfold State.acceptTiles
    rw [hheld]
    rfl
  have hchecks : firstFault [s.illegal (s.issGroup.role == .copy),
      s.operands [s.regsOk 2 f.dst.toNat, s.srcOk 2 f.mb, s.srcOk 2 f.sb, s.srcOk 2 f.lay, s.srcOk 2 f.q]] = none := by
    refine firstFault_eq_none fun x hx => ?_
    simp only [List.mem_cons, List.not_mem_nil, or_false] at hx
    rcases hx with rfl | rfl
    · rw [State.illegal, hrole]; rfl
    · rw [hdst, hmb, hsb, hlay, hq]; rfl
  rw [hexec]
  unfold execTcpy
  dsimp only
  rw [if_neg hz, hchecks]
  dsimp only
  rw [hgo, hfirst, List.map_cons, List.map_nil, List.map_cons, List.map_nil, hreach, State.sortOwn_one hblock hholds]
  rw [show Lanes.inOrder ⟨[(l, p, ch, vpn)], [], [], []⟩ = ⟨[(l, p, ch, vpn)], [], [], []⟩ from rfl]
  dsimp only
  rw [hrecs, List.map_cons, List.map_nil]
  dsimp only
  rw [hlate, mergeBads_nil fun m hm => ?_, State.laneFault_nil, hl]
  · change ∃ g : Nat → Lane → Lane, (∀ x, g l x = x) ∧ Host.Outcome.next ((((v.acceptTiles f [(l, tile, (s.tcpyLane f l).stage)]).updIssGroup fun y =>
      y.mapLanes [l] fun m x => if [l].contains m then x else x.parkFlag f.flag).parkLanes []).issWalks []) =
        Host.Outcome.next ((((w.acceptTcpy f l tile (s.tcpyLane f l).stage mems).updIssGroup fun y => y.mapLanes [l] g).parkLanes
          []).issWalks [])
    rw [haccept]
    refine ⟨_, fun x => ?_, rfl⟩
    exact if_pos (by simp)
  · rw [List.mem_singleton.1 hm, hearly]
    dsimp only
    rw [List.find?_cons_of_pos (by exact beq_self_eq_true l)]

/-- R121, R123, R285, R286: the second part of O22. -/
theorem exec_tcpy_records (h : s.Issuing) (hbytes : 0 < tile.bytes) :
    ∃ t k n, exec (.tcpy f) s = .next t ∧ n = s.issTeam.tlCopy.next ∧
      (s.laneIn t l).reg f.dst.toNat = BitVec.ofNat 32 n ∧
      (s.laneIn t l).reg (f.dst.toNat + 1) = BitVec.ofNat 32 (n / 2 ^ 32) ∧ (s.laneIn t l).pc = s.nextPc ∧
      (t.team s.issue.core s.issue.slot).tlCopy.next = n + 1 ∧
      tblFind (t.core s.issue.core).copies w.fresh = some k ∧ k.plan = .tile tile ∧ k.tile = some n := by
  have hl32 : l < 32 := State.issLanes_lt (s := s) (by rw [hl]; exact List.mem_singleton_self l)
  have hsw : s.OwnAccess w := by
    have hwalks := s.ownAccess_selfWalks_one l (s.tcpyLane f l).rp
    have hv := State.ownAccess_ownLoad (s.selfWalks [(l, (s.tcpyLane f l).rp)]) s.issue.core s.issGroup.uid s.issGrid.ctx p ch 32
    rw [hread] at hv
    have hw := (v.looksUp_tileHeld l tile).access
    rw [hheld] at hw
    exact (hwalks.trans hv).trans hw
  have hnum : w.issTeam.tlCopy.next = s.issTeam.tlCopy.next := (congrArg (fun y : Team => y.tlCopy.next) (hsw.issTeam_fields h) :)
  obtain ⟨g, hg, hexec⟩ := exec_tcpy_one hl hrole hdst hmb hsb hlay hq hfull hearly hreach hblock hholds hread hlate hheld h
  obtain ⟨k, hlane, hteam, hcopy, hplan, htile⟩ := State.acceptTcpy_spec (.of_ownAccess hsw h l) (f := f)
    (stage := (s.tcpyLane f l).stage) hbytes mems
  obtain ⟨a, ha⟩ : ∃ a, a = w.acceptTcpy f l tile (s.tcpyLane f l).stage mems := ⟨_, rfl⟩
  rw [← ha] at hexec hlane hteam hcopy
  rw [hnum] at hlane hteam htile
  have hdone := hlane.mapLanes hl32 [l] g
  rw [if_pos (by simp), hg] at hdone
  obtain ⟨t, ht⟩ : ∃ t, t = ((a.updIssGroup fun y => y.mapLanes [l] g).parkLanes []).issWalks [] := ⟨_, rfl⟩
  rw [← ht] at hexec
  have hlanet : s.laneIn t l = (((s.issLane l).setReg f.dst.toNat (BitVec.ofNat 32 s.issTeam.tlCopy.next)).setReg (f.dst.toNat + 1)
      (BitVec.ofNat 32 (s.issTeam.tlCopy.next / 2 ^ 32))).goto s.nextPc := by
    rw [ht]; exact (hdone.parkLanes_nil hl32).laneIn
  have hteamt : (t.team s.issue.core s.issue.slot).tlCopy = (a.team s.issue.core s.issue.slot).tlCopy := by
    rw [ht]; exact (hdone.tlCopy_updIssGroup _).trans (hlane.tlCopy_updIssGroup _)
  have hcopies : (t.core s.issue.core).copies = (a.core s.issue.core).copies := by
    have hcore : (t.core s.issue.core).copiesSpad = (a.core s.issue.core).copiesSpad := by
      rw [ht]; exact (State.copiesSpad_updIssGroup _ _ _).trans (State.copiesSpad_updIssGroup _ _ _)
    exact (congrArg Prod.fst hcore :)
  refine ⟨t, k, _, hexec, rfl, ?_, ?_, ?_, by rw [hteamt]; exact hteam, by rw [hcopies]; exact hcopy, hplan, htile⟩
  · rw [hlanet]
    exact (Lane.reg_setReg_ne _ _ (by omega)).trans (Lane.reg_setReg_same _ _ _)
  · rw [hlanet]
    exact Lane.reg_setReg_same _ _ _
  · rw [hlanet]; rfl

end

/-- Settles O22. -/
theorem copiesIssue : Obligations.CopiesIssue := by
  unfold Obligations.CopiesIssue
  intro s u flag sz d a l c f h hl
  refine ⟨?_, fun p ch vpn tile v w bs mems hrole hdst hmb hsb hlay hq hfull hearly hreach hblock hholds hread hlate hheld hbytes =>
      exec_tcpy_records hl hrole hdst hmb hsb hlay hq hfull hearly hreach hblock hholds hread hlate hheld h hbytes⟩
  intro hsz hd ha hfull hdst hsrc hlanes tos hheld
  exact exec_cpy_records hl hsz hd ha hfull hdst hsrc hlanes hheld h

end Sys2Proof.Machine
end

section
/-! SUPPORT. nt.hint, wear.rd and boost (O32). -/

namespace Sys2Proof.Machine

set_option Elab.async false

/-! ## Islands -/

/-- An island is as it was, and so are the teams of its core. -/
structure Core.SameIsland (j : Nat) (k k' : Core) : Prop where
  near  : k'.islandNear j = k.islandNear j
  keep  : tblGet 0 k'.ntKeep j = tblGet 0 k.ntKeep j
  teams : k'.teams = k.teams

namespace Core.SameIsland
variable {j : Nat} {k k' k'' : Core}

theorem refl (k : Core) : Core.SameIsland j k k := ⟨rfl, rfl, rfl⟩

theorem trans (h : Core.SameIsland j k k') (h' : Core.SameIsland j k' k'') : Core.SameIsland j k k'' :=
  ⟨h'.near.trans h.near, h'.keep.trans h.keep, h'.teams.trans h.teams⟩

theorem keepsIsland (h : Core.SameIsland j k k') (i : Nat) : k'.keepsIsland i = k.keepsIsland i :=
  Core.keepsIsland_congr h.teams i

/-- What is done island by island is done to each once, from what it was before. -/
theorem of_foldl {g : Core → Nat → Core} (hother : ∀ k i, i ≠ j → Core.SameIsland j k (g k i)) {ls : List Nat} (hls : ls.Nodup)
    (k : Core) : (j ∉ ls → Core.SameIsland j k (ls.foldl g k)) ∧
      (j ∈ ls → ∃ k₁, Core.SameIsland j k k₁ ∧ Core.SameIsland j (g k₁ j) (ls.foldl g k)) := by
  induction ls generalizing k with
  | nil => exact ⟨fun _ => refl k, fun h => absurd h List.not_mem_nil⟩
  | cons i ls ih =>
    obtain ⟨hi, hrest⟩ := List.nodup_cons.1 hls
    obtain ⟨hout, hin⟩ := ih hrest (g k i)
    refine ⟨fun h => ?_, fun h => ?_⟩
    · obtain ⟨hne, hnot⟩ := not_or.1 (fun h' => h (List.mem_cons.2 h'))
      exact (hother k i (Ne.symm hne)).trans (hout hnot)
    · by_cases hj : j = i
      · subst hj
        exact ⟨k, refl k, hout hi⟩
      · obtain ⟨k₁, hk, hk₁⟩ := hin ((List.mem_cons.1 h).resolve_left hj)
        exact ⟨k₁, (hother k i (Ne.symm hj)).trans hk, hk₁⟩

end Core.SameIsland

theorem Core.sameIsland_shiftIsland (k : Core) {i j : Nat} (h : i ≠ j) (near : Bool) : Core.SameIsland j k (k.shiftIsland i near) := by
  obtain ⟨hteams, hkeep⟩ := k.sameTeams_shiftIsland i near
  exact ⟨by rw [Core.islandNear_shiftIsland, if_neg fun h' => h h'.1.symm], by rw [hkeep], hteams⟩

/-- An island leaves the near-threshold point by a hint. -/
def Core.hintLeave (k : Core) (i : Nat) : Core :=
  if k.islandNear i then { k.shiftIsland i false with ntKeep := tblSet k.ntKeep i 2 } else k

theorem Core.sameIsland_hintLeave (k : Core) {i j : Nat} (h : i ≠ j) : Core.SameIsland j k (k.hintLeave i) := by
  obtain ⟨hnear, -, hteams⟩ := k.sameIsland_shiftIsland h false
  unfold Core.hintLeave
  split
  · exact ⟨hnear, tblGet_tblSet_ne _ _ _ (Ne.symm h), hteams⟩
  · exact .refl k

/-- The island of an issuing lane is one of those that a hint names. -/
theorem State.mem_hintIslands {s : State} {l : Nat} (hl : l ∈ s.issLanes) : l / 8 ∈ s.hintIslands := by
  have h32 : l < 32 := State.issLanes_lt hl
  exact List.mem_filter.2 ⟨List.mem_range.2 (by omega), List.any_eq_true.2 ⟨l, hl, beq_self_eq_true _⟩⟩

theorem State.nodup_hintIslands (s : State) : s.hintIslands.Nodup := List.nodup_range.filter _

/-! ## nt.hint -/

/-- After a change of the core that keeps its teams, the lanes of the issue go on. -/
theorem State.passed_updIssCore {s : State} (h : s.Issuing) {f : Core → Core} (hf : ∀ k, (f k).teams = k.teams) :
    (∀ l ∈ s.issLanes, s.laneIn ((s.updIssCore f).advance) l = (s.issLane l).goto s.nextPc) ∧
      ∃ ts, ((s.updIssCore f).advance).core s.issue.core = { f s.issCore with teams := ts } := by
  have hk : s.KeepsTeams (s.updIssCore f) := .updCore s _ hf
  refine ⟨fun l hl => State.laneIn_runLanes hk.issue (hk.issuing h) (fun m => ?_) (flag := none) ?_ hl, ?_⟩
  · rw [State.issLane, hk.issGroup]; rfl
  · exact List.filter_eq_self.2 fun m _ => rfl
  · have hcore : (s.updIssCore f).core s.issue.core = f s.issCore := State.core_updCore_same _ _ _
    obtain ⟨ts, hts⟩ := (s.updIssCore f).core_updIssGroup _ s.issue.core
    exact ⟨ts, hts.trans (by rw [hcore])⟩

/-- R298, R378, R379: islands move to the near-threshold point, but at a boost point and where a lane keeps them. -/
theorem exec_ntHintEnter {s : State} (h : s.Issuing) (hz : s.issue.lanes ≠ 0) :
    ∃ t, exec .ntHintEnter s = .next t ∧ (∀ l ∈ s.issLanes, s.laneIn t l = (s.issLane l).goto s.nextPc) ∧
      (s.boosted s.issue.core = true → (t.core s.issue.core).ntSettle = (s.core s.issue.core).ntSettle) ∧
      (s.boosted s.issue.core = false → ∀ l ∈ s.issLanes, (t.core s.issue.core).islandNear (l / 8) =
        (!(s.core s.issue.core).keepsIsland (l / 8) || (s.core s.issue.core).islandNear (l / 8))) := by
  have hteams : ∀ k : Core, (if s.boosted s.issue.core then k else s.hintIslands.foldl (fun k i => k.shiftIsland i true) k).teams =
      k.teams := fun k => by
    split
    · rfl
    · exact foldl_keeps (p := Core.teams) (fun k i => (k.sameTeams_shiftIsland i true).teams) _ k
  obtain ⟨hpassed, ts, hcore⟩ := State.passed_updIssCore h hteams
  refine ⟨_, congrArg Host.Outcome.next (State.orFault_pass hz rfl), hpassed, fun hboost => ?_, fun hboost l hl => ?_⟩
  · rw [hcore, if_pos hboost]; rfl
  · rw [hcore, if_neg (by rw [hboost]; exact Bool.false_ne_true)]
    obtain ⟨k₁, hk, hk₁⟩ := (Core.SameIsland.of_foldl (j := l / 8) (g := fun k i => k.shiftIsland i true)
      (fun k i hi => k.sameIsland_shiftIsland hi true) s.nodup_hintIslands s.issCore).2 (State.mem_hintIslands hl)
    refine hk₁.near.trans ?_
    rw [Core.islandNear_shiftIsland, hk.keepsIsland, hk.near]
    change _ = (!s.issCore.keepsIsland (l / 8) || s.issCore.islandNear (l / 8))
    cases s.issCore.keepsIsland (l / 8) <;> simp

/-- R298, R378: islands leave the near-threshold point but where a lane keeps them, and stay out of automatic entry. -/
theorem exec_ntHintLeave {s : State} (h : s.Issuing) (hz : s.issue.lanes ≠ 0) :
    ∃ t, exec .ntHintLeave s = .next t ∧ (∀ l ∈ s.issLanes, s.laneIn t l = (s.issLane l).goto s.nextPc) ∧
      ∀ l ∈ s.issLanes, (s.core s.issue.core).islandNear (l / 8) = true →
        (t.core s.issue.core).islandNear (l / 8) = (s.core s.issue.core).keepsIsland (l / 8) ∧
          tblGet 0 (t.core s.issue.core).ntKeep (l / 8) = 2 := by
  have hteams : ∀ k : Core, (s.hintIslands.foldl Core.hintLeave k).teams = k.teams :=
    foldl_keeps (p := Core.teams) (fun k i => by
      unfold Core.hintLeave
      split
      · exact (k.sameTeams_shiftIsland i false).teams
      · rfl) _
  obtain ⟨hpassed, ts, hcore⟩ := State.passed_updIssCore h hteams
  refine ⟨_, congrArg Host.Outcome.next (State.orFault_pass hz rfl), hpassed, fun l hl hnear => ?_⟩
  obtain ⟨k₁, hk, hk₁⟩ := (Core.SameIsland.of_foldl (j := l / 8) (g := Core.hintLeave)
    (fun k i hi => k.sameIsland_hintLeave hi) s.nodup_hintIslands s.issCore).2 (State.mem_hintIslands hl)
  have hleave : k₁.hintLeave (l / 8) = { k₁.shiftIsland (l / 8) false with ntKeep := tblSet k₁.ntKeep (l / 8) 2 } :=
    if_pos (hk.near.trans hnear)
  rw [hleave] at hk₁
  have hshift := k₁.islandNear_shiftIsland (l / 8) false (l / 8)
  rw [hk.keepsIsland, hk.near] at hshift
  refine ⟨?_, ?_⟩
  · refine (congrArg (fun k : Core => k.islandNear (l / 8)) hcore).trans (hk₁.near.trans (hshift.trans ?_))
    rw [show s.issCore.islandNear (l / 8) = true from hnear]
    change _ = s.issCore.keepsIsland (l / 8)
    cases s.issCore.keepsIsland (l / 8) <;> simp
  · refine (congrArg (fun k : Core => tblGet 0 k.ntKeep (l / 8)) hcore).trans (hk₁.keep.trans ?_)
    exact tblGet_tblSet_same _ _ _ _

/-! ## wear.rd and boost -/

/-- R300: wear.rd gives the value that its selector names. -/
theorem exec_wearRd {s : State} (h : s.Issuing) {v : VHead} {sel : Src} (hd : s.regsOk 2 v.dst.toNat = true) (hs : s.srcOk 1 sel = true)
    (hok : ∀ l ∈ s.issLanes, wearSelOk (s.src32 0 l sel) = true) :
    ∃ t, exec (.wearRd v sel) s = .next t ∧ s.Performs t v.flag fun l x =>
      x.put64 v.dst (BitVec.ofNat 64 (s.wearValue (s.src32 0 l sel))) := by
  refine ⟨_, rfl, State.orFault_performs h (firstFault_eq_none fun x hx => ?_) v.flag _⟩
  simp only [List.mem_cons, List.not_mem_nil, or_false] at hx
  rcases hx with rfl | rfl
  · exact State.regForm_pass hd (by simp [hs])
  · exact State.demandLanes_pass 0x05 hok

/-- The operation that a boost starts. -/
def State.boostOp (s : State) (v : VHead) : Op :=
  { id := s.fresh, uid := s.issGroup.uid, kind := .sfu v.dst.toNat, flag := v.flag, tl := s.issLanes.any fun l => (s.issLane l).tl,
    lanes := s.issue.lanes, left := [s.fresh], values := [], ended := 0, pc := s.issue.p }

/-- The request that a boost queues, for a point and a time of the lowest issuing lane. -/
def State.boostReq (s : State) (vp vt : Word) : BoostReq :=
  { core := s.issue.core, op := s.fresh, ctx := s.issGrid.ctx, point := vp.toNat % 256, us := vt.toNat, group := s.issue.group,
    cyc := (s.region (s.regionOf s.issue.core)).cyc, at_ := s.ns }

theorem State.ops_updIssGroup (s : State) (f : Group → Group) (c : Nat) : ((s.updIssGroup f).core c).ops = (s.core c).ops := by
  obtain ⟨ts, h⟩ := s.core_updIssGroup f c
  rw [h]

theorem State.ops_addOp (s : State) (o : Op) : tblFind ((s.addOp o).core s.issue.core).ops o.id = some o := by
  have hop : tblFind ((s.updIssCore fun k => { k with ops := tblSet k.ops o.id o }).core s.issue.core).ops o.id = some o := by
    rw [State.updIssCore, State.core_updCore_same]
    exact tblFind_tblSet_same _ _ _
  unfold State.addOp
  dsimp only
  split
  · exact hop
  · exact (congrArg (tblFind · o.id) (State.ops_updIssGroup _ _ _)).trans hop

theorem State.power_addOp (s : State) (o : Op) : (s.addOp o).power = s.power := by
  unfold State.addOp
  dsimp only
  split
  · rfl
  · rfl

/-- R299, R395: boost queues one request, and its answer is pending. -/
theorem exec_boost {s : State} (h : s.Issuing) {v : VHead} {a b : Src} (hz : s.issue.lanes ≠ 0) (hgo : s.goLanes v.flag = s.issLanes)
    (hd : s.regsOk 2 v.dst.toNat = true) (ha : s.srcOk 1 a = true) (hb : s.srcOk 1 b = true)
    (hpoint : (s.src32 0 (lowLane s.issue.lanes) a).toNat < 256) :
    ∃ t r, exec (.boost v a b) s = .next t ∧ t.power.requests = s.power.requests ++ [r] ∧
      r.point = (s.src32 0 (lowLane s.issue.lanes) a).toNat ∧ r.us = (s.src32 1 (lowLane s.issue.lanes) b).toNat ∧
      r.core = s.issue.core ∧ r.ctx = s.issGrid.ctx ∧ r.op = s.fresh ∧
      s.Pending t s.issLanes v.flag (.sfu v.dst.toNat) ∧
      ∀ l ∈ s.issLanes, s.laneIn t l = ((s.issLane l).pend v.flag).goto s.nextPc := by
  have hexec : exec (.boost v a b) s = execBoost v a b s := rfl
  obtain ⟨u, hu⟩ : ∃ u, u = (s.name.2.addOp (s.boostOp v)).updIssGroup fun y => y.mapLanes s.issLanes fun _ x => x.goto s.nextPc := ⟨_, rfl⟩
  obtain ⟨t, ht⟩ : ∃ t, t = ({ u with power := { u.power with requests := u.power.requests ++
    [s.boostReq (s.src32 0 (lowLane s.issue.lanes) a) (s.src32 1 (lowLane s.issue.lanes) b)] } } : State).updIssGroup id := ⟨_, rfl⟩
  have hstep : exec (.boost v a b) s = .next t := by
    rw [hexec]
    unfold execBoost
    dsimp only
    rw [State.orFault_pass hz (firstFault_eq_none ?_), hgo, if_neg ?_, State.orFault_pass hz (firstFault_eq_none ?_),
      State.parkFull_eq hgo, State.maskOf_issLanes, ht, hu]
    · rfl
    · intro x hx
      rw [List.mem_singleton.1 hx, State.maskOf_issLanes, decide_eq_true hpoint]
      rfl
    · rw [List.isEmpty_iff]
      exact State.issLanes_ne_nil hz
    · exact fun x hx => (List.mem_singleton.1 hx).trans (State.regForm_pass hd (by simp [ha, hb]))
  have hpower : u.power = s.power := by rw [hu]; exact s.name.2.power_addOp (s.boostOp v)
  have hqueue : t.power.requests = s.power.requests ++
      [s.boostReq (s.src32 0 (lowLane s.issue.lanes) a) (s.src32 1 (lowLane s.issue.lanes) b)] := by rw [ht, ← hpower]; rfl
  refine ⟨t, _, hstep, hqueue, Nat.mod_eq_of_lt hpoint, rfl, rfl, rfl, rfl, ⟨s.boostOp v, ?_, rfl, rfl, rfl,
    s.maskOf_issLanes.symm⟩, fun l hl => ?_⟩
  · rw [ht, State.ops_updIssGroup]
    change tblFind (u.core s.issue.core).ops s.fresh = _
    rw [hu, State.ops_updIssGroup]
    exact State.ops_addOp s.name.2 (s.boostOp v)
  · have hl32 : l < 32 := State.issLanes_lt hl
    have hname : s.LaneAs s.name.2 l (s.issLane l) := ⟨(State.KeepsTeams.of_cores rfl rfl : s.KeepsTeams s.name.2).issuing h, rfl, rfl⟩
    have hu' := (hname.addOp hl32 (o := s.boostOp v) (List.contains_iff_mem.2 hl)).mapLanes hl32 s.issLanes fun _ x => x.goto s.nextPc
    rw [if_pos (List.contains_iff_mem.2 hl), ← hu] at hu'
    have hpower := hu'.keepsTeams (v := { u with power := { u.power with requests := u.power.requests ++
      [s.boostReq (s.src32 0 (lowLane s.issue.lanes) a) (s.src32 1 (lowLane s.issue.lanes) b)] } }) (.of_cores rfl rfl)
    rw [ht]
    exact (State.laneIn_updIssGroup_id hpower.issuing hpower.issue l).trans hpower.laneIn

end Sys2Proof.Machine
end

section
/-! SUPPORT. Seal chunks (O32). -/

namespace Sys2Proof.Machine

set_option Elab.async false

/-! ## The stream of a grid -/

/-- What an own access leaves of a grid's stream: all but its counts of lost data. -/
theorem State.OwnAccess.stream {s t : State} (h : s.OwnAccess t) {id : Nat} {q : Seal} (hfind : (tblFind s.sched.grids id).isSome)
    (hq : (s.grid id).stream = some q) : (tblFind t.sched.grids id).isSome ∧
      ∃ r, (t.grid id).stream = some r ∧ r.tl = q.tl ∧ r.issued = q.issued ∧ r.chunks = q.chunks := by
  obtain ⟨g, hg⟩ := Option.isSome_iff_exists.1 hfind
  have hmap := congrArg (fun x => tblFind x id) h.grids
  simp only [tblFind_tblMap, hg, Option.map_some] at hmap
  obtain ⟨g', hg', hloss⟩ := Option.map_eq_some_iff.1 hmap
  have hgrid : s.grid id = g := tblGet_of_find hg
  have hgrid' : t.grid id = g' := tblGet_of_find hg'
  have hstream : g'.stream.map (fun q => ({ q with dataLoss := 0, tagFail := 0 } : Seal)) =
      some { q with dataLoss := 0, tagFail := 0 } := by
    rw [show g'.stream.map _ = g.stream.map _ from (congrArg Grid.stream hloss :), ← hgrid, hq]
    rfl
  obtain ⟨r, hr, heq⟩ := Option.map_eq_some_iff.1 hstream
  exact ⟨by rw [hg']; rfl, r, by rw [hgrid']; exact hr, (congrArg Seal.tl heq :), (congrArg Seal.issued heq :),
    (congrArg Seal.chunks heq :)⟩

/-! ## seal.put -/

/-- The chunk that a lane submits joins its grid's stream, and its number is in the lane's registers. -/
theorem State.submitChunk_spec {s : State} (h : s.Issuing) {q : Seal} (hfind : (tblFind s.sched.grids s.issTeam.grid).isSome)
    (hq : (s.grid s.issTeam.grid).stream = some q) (dst : BitVec 10) (l n : Nat) (a : DWord) :
    s.LaneAs (s.submitChunk dst l n a) l ((((s.issLane l).setReg dst.toNat (BitVec.ofNat 32 q.tl.next)).setReg (dst.toNat + 1)
        (BitVec.ofNat 32 (q.tl.next / 2 ^ 32))).goto s.nextPc) ∧
      ∃ q' c, ((s.submitChunk dst l n a).grid s.issTeam.grid).stream = some q' ∧ q'.tl.next = q.tl.next + 1 ∧
        q'.issued = q.issued + 1 ∧ q'.chunks = q.chunks ++ [c] ∧ c.num = q.tl.next ∧ c.bytes = List.replicate n none ∧ c.done = false := by
  obtain ⟨u, hu⟩ : ∃ u, u = ((s.refOf (s.whoIs l) a n).pieces n).foldl (fun s' p =>
    (s'.issuePlace p.1).1.copyL1 s.issue.core p.2 true (s'.issuePlace p.1).2) s := ⟨_, rfl⟩
  have hlooks : s.LooksUp u := by
    have hone : ∀ (x : State) (p : Ref × Nat), x.LooksUp ((x.issuePlace p.1).1.copyL1 s.issue.core p.2 true (x.issuePlace p.1).2) :=
      fun x p => (x.looksUp_issuePlace p.1).trans (.of_home (State.atHome_copyL1 _ _ _ _ _))
    rw [hu]
    exact State.LooksUp.foldl hone _ s
  have hteam : u.issTeam.grid = s.issTeam.grid := (congrArg Team.grid (hlooks.access.issTeam_fields h) :)
  obtain ⟨hfindu, r, hr, htl, hissued, hchunks⟩ := hlooks.access.stream hfind hq
  have hru : u.issGrid.stream = some r := by rw [State.issGrid, hteam, hr]
  have heq := Eq.refl (s.submitChunk dst l n a)
  conv at heq => rhs; unfold State.submitChunk
  dsimp only at heq
  rw [← hu, hru] at heq
  dsimp only at heq
  rw [htl, hteam] at heq
  obtain ⟨c, e, he, hnum, hbytes, hdone, heq⟩ : ∃ (c : Chunk) (e : State),
      (e = u.updGrid s.issTeam.grid fun g => { g with stream := g.stream.map fun q =>
        { q with issued := q.issued + 1, tl := q.tl.accept.2, chunks := q.chunks ++ [c] } }) ∧
      c.num = q.tl.next ∧ c.bytes = List.replicate n none ∧ c.done = false ∧
      s.submitChunk dst l n a = e.updIssGroup fun y => y.updLane l fun x => ((x.setReg dst.toNat (BitVec.ofNat 32 q.tl.next)).setReg
        (dst.toNat + 1) (BitVec.ofNat 32 (q.tl.next / 2 ^ 32))).goto e.nextPc := ⟨_, _, rfl, rfl, rfl, rfl, heq⟩
  have hlane : s.LaneAs e l (s.issLane l) :=
    (State.LaneAs.of_ownAccess hlooks.access h l).keepsTeams (by rw [he]; exact .of_cores rfl rfl)
  have hnext : e.nextPc = s.nextPc := by rw [State.nextPc, hlane.issue]; rfl
  have hstream : (e.grid s.issTeam.grid).stream = some { r with issued := r.issued + 1, tl := r.tl.accept.2, chunks := r.chunks ++ [c] } := by
    rw [he, State.grid_updGrid_same hfindu]
    exact congrArg (Option.map _) hr
  rw [heq, hnext]
  refine ⟨hlane.updLane _, _, c, hstream, congrArg (fun x : Timeline => x.next + 1) htl, congrArg (· + 1) hissued,
    congrArg (· ++ [c]) hchunks, hnum, hbytes, hdone⟩

/-- R301, R409: seal.put of one lane. -/
theorem exec_sealPut_one {s : State} {v : VHead} {a b : Src} {l : Nat} {p : Place} {ch vpn : Nat} {q : Seal}
    (hl : s.issLanes = [l]) (hfull : (s.issLane l).flagFull v.flag = false) (hd : s.regsOk 2 v.dst.toNat = true)
    (ha : s.srcOk 2 a = true) (hb : s.srcOk 1 b = true) (hq : (s.grid s.issTeam.grid).stream = some q)
    (hpos : 0 < (s.src32 1 l b).toNat) (hmax : (s.src32 1 l b).toNat ≤ 2 ^ 20) (htag : tagOf (s.src64 0 l a) ∈ [0x0, 0x8, 0xA])
    (hpre : s.preCheck (s.whoIs l) .any 1 (s.src32 1 l b).toNat (s.src64 0 l a) = none)
    (hreach : s.sealReach l (s.src32 1 l b).toNat (s.src64 0 l a) = .ok p ch vpn)
    (hblock : s.sealBlockers l (s.src32 1 l b).toNat (s.src64 0 l a) = []) :
    exec (.sealPut v a b) s = .next ((((s.submitChunk v.dst l (s.src32 1 l b).toNat (s.src64 0 l a)).parkLanes []).issWalks
      []).updIssGroup id) := by
  have hexec : exec (.sealPut v a b) s = execSealPut v a b s := rfl
  have hz : s.issue.lanes ≠ 0 := State.lanes_ne_zero (l := l) (by rw [hl]; exact List.mem_singleton_self l)
  have hgo : s.goLanes v.flag = s.issLanes := by
    rw [State.goLanes, hl, List.filter_cons_of_pos (by rw [hfull]; rfl), List.filter_nil]
  have hlanes : s.sealLanes [l] (fun l => (s.src32 1 l b).toNat) (fun l => s.src64 0 l a) = ⟨[(l, p, ch, vpn)], [], [], []⟩ := by
    unfold State.sealLanes
    dsimp only
    rw [List.map_cons, List.map_nil, hreach]
    simp [sortLanes, hblock, Lanes.inOrder]
  rw [hexec]
  unfold execSealPut
  dsimp only
  rw [State.orFault_pass hz (firstFault_eq_none ?_), hgo, hl, hlanes]
  · dsimp only
    rw [State.laneFault_nil, State.parkFull_eq hgo]
    rfl
  · have hbad : mergeBads (s.goLanes v.flag) (fun m => if !([0x0, 0x8, 0xA].contains (tagOf (s.src64 0 m a))) then some (3, 0)
        else s.preCheck (s.whoIs m) .any 1 (s.src32 1 m b).toNat (s.src64 0 m a)) [] = [] := by
      refine mergeBads_nil fun m hm => ?_
      rw [hgo, hl] at hm
      rw [List.mem_singleton.1 hm, List.contains_iff_mem.2 htag, if_neg (by decide), hpre]
    intro x hx
    simp only [List.mem_cons, List.not_mem_nil, or_false] at hx
    rcases hx with rfl | rfl | rfl | rfl
    · exact State.regForm_pass hd (by simp [ha, hb])
    · rw [State.issGrid, hq]; rfl
    · refine State.demandLanes_pass 0x05 fun m hm => ?_
      rw [hl] at hm
      rw [List.mem_singleton.1 hm, decide_eq_true hpos, decide_eq_true hmax]
      rfl
    · exact congrArg (s.laneFault · _) hbad

/-! ## SEAL_CHUNK_COMPLETE -/

theorem State.ownAccess_chunkSector (s : State) (core ctx root : Nat) (r : Ref) (n : Nat) :
    s.OwnAccess (s.chunkSector core ctx root r n).1 := by
  have hplace := s.ownAccess_refPlace core ctx root r .sealRead
  unfold State.chunkSector
  split
  · next h => rw [h] at hplace; exact hplace
  · next u p ch h =>
    rw [h] at hplace
    have hplace : s.OwnAccess u := hplace
    cases p with
    | dev pa => exact hplace.trans (.of_home (u.atH_hRead _ _ _ _).home)
    | host x => exact hplace.trans (.of_home (u.atH_hostAsk _ _ _).home)
    | spad x => exact hplace.trans (u.ownAccess_spadRead _ _ _)
    | _ => exact hplace

theorem State.ownAccess_chunkRead (core ctx root : Nat) (r : Ref) (now : Nat → Bool) (ns : List Nat) :
    ∀ (s : State) (o : Nat) (bs : List (Option Byte)), s.OwnAccess (s.chunkRead core ctx root r now o ns bs).1 := by
  induction ns with
  | nil => exact fun s _ _ => .refl s
  | cons n ns ih =>
    intro s o bs
    unfold State.chunkRead
    dsimp only
    split
    · exact (s.ownAccess_chunkSector _ _ _ _ _).trans (ih _ _ _)
    · exact ih _ _ _

/-- The chunk of a number after an event of its completion. -/
def Chunk.after (c : Chunk) (bs : List (Option Byte)) (bad : Bool) : Chunk :=
  { c with bytes := bs, done := bs.all (·.isSome), lost := c.lost || bad,
           digest := if (c.lost || bad) || !bs.all (·.isSome) then none
             else some (BitVec.ofNat 384 (leNat (sha384 (bs.map (·.getD 0))))) }

/-- R301, R409: the third part of O32. -/
theorem exec_sealChunkComplete {s u : State} {grid num : Nat} {q : Seal} {c : Chunk} {bs : List (Option Byte)} {bad : Bool}
    (hq : (s.grid grid).stream = some q) (hc : (q.chunks.find? fun c => c.num == num && !c.done) = some c)
    (hfind : (tblFind s.sched.grids grid).isSome)
    (hread : s.chunkRead c.core (s.grid grid).ctx (s.grid grid).desc.ptRoot c.region (c.reads s.stamp) 0
      (sectorParts (c.bytes.length / 64 + 2) c.region.off c.bytes.length) c.bytes = (u, bs, bad)) :
    ∃ t q', exec (.sealChunkComplete grid num) s = .next t ∧ (t.grid grid).stream = some q' ∧
      q'.chunks = (q.chunks.map fun x => if x.num = num then c.after bs bad else x) ∧
      (bs.all (·.isSome) = false → q'.tl = q.tl) := by
  have hu : s.OwnAccess u := by
    have h := State.ownAccess_chunkRead c.core (s.grid grid).ctx (s.grid grid).desc.ptRoot c.region (c.reads s.stamp)
      (sectorParts (c.bytes.length / 64 + 2) c.region.off c.bytes.length) s 0 c.bytes
    rwa [hread] at h
  obtain ⟨hfindu, r, hr, htl, -, hchunks⟩ := hu.stream hfind hq
  have hexec : exec (.sealChunkComplete grid num) s = .next (u.updGrid grid fun g => { g with stream := g.stream.map fun q =>
      { q with tl := if bs.all (·.isSome) then q.tl.complete num else q.tl
               chunks := q.chunks.map fun x => if x.num = num then c.after bs bad else x } }) := by
    have hexec : exec (.sealChunkComplete grid num) s = execSealChunkComplete grid num s := rfl
    rw [hexec]
    unfold execSealChunkComplete
    dsimp only
    rw [hq]
    dsimp only
    rw [hc]
    dsimp only
    rw [hread]
    rfl
  refine ⟨_, { r with tl := if bs.all (·.isSome) then r.tl.complete num else r.tl
                      chunks := r.chunks.map fun x => if x.num = num then c.after bs bad else x }, hexec, ?_, ?_, ?_⟩
  · rw [State.grid_updGrid_same hfindu]
    exact congrArg (Option.map _) hr
  · exact congrArg (List.map fun x : Chunk => if x.num = num then c.after bs bad else x) hchunks
  · intro hwhole
    exact (if_neg (by rw [hwhole]; exact Bool.false_ne_true)).trans htl

/-- Settles O32. -/
theorem systemSubmissions : Obligations.SystemSubmissions := by
  unfold Obligations.SystemSubmissions
  refine ⟨fun s h sel hs hz => ?_, fun s v a b l p ch vpn q hs => ⟨?_, ?_⟩, fun s u grid num q c bs bad hq hc hfind hread => ?_⟩
  · exact ⟨exec_ntHintEnter hs hz, exec_ntHintLeave hs hz, fun hd hsel hok => exec_wearRd hs hd hsel hok⟩
  · exact fun hz hgo hd ha hb hpoint => exec_boost hs hz hgo hd ha hb hpoint
  · intro hl hfull hd ha hb hq hfind n ea hpos hmax htag hpre hreach hblock
    rw [State.issGrid] at hq
    have hexec := exec_sealPut_one hl hfull hd ha hb hq hpos hmax htag hpre hreach hblock
    have hl32 : l < 32 := State.issLanes_lt (s := s) (by rw [hl]; exact List.mem_singleton_self l)
    obtain ⟨hlane, q', c, hstream, hnext, hissued, hchunks, hnum, hbytes, hdone⟩ :=
      State.submitChunk_spec hs hfind hq v.dst l (s.src32 1 l b).toNat (s.src64 0 l a)
    obtain ⟨x, hx⟩ : ∃ x, x = s.submitChunk v.dst l (s.src32 1 l b).toNat (s.src64 0 l a) := ⟨_, rfl⟩
    rw [← hx] at hexec hlane hstream
    have hparked := hlane.parkLanes_nil hl32
    obtain ⟨t, ht⟩ : ∃ t, t = ((x.parkLanes []).issWalks []).updIssGroup id := ⟨_, rfl⟩
    have hlanet : s.laneIn t l = (((s.issLane l).setReg v.dst.toNat (BitVec.ofNat 32 q.tl.next)).setReg (v.dst.toNat + 1)
        (BitVec.ofNat 32 (q.tl.next / 2 ^ 32))).goto s.nextPc := by
      rw [ht]
      exact (State.laneIn_updIssGroup_id hparked.issuing hparked.issue l).trans hparked.laneIn
    refine ⟨t, q', c, by rw [hexec, ht], ?_, ?_, ?_, ?_, hnext, hissued, hchunks, hnum, hbytes, hdone⟩
    · rw [hlanet]
      exact (Lane.reg_setReg_ne _ _ (by omega)).trans (Lane.reg_setReg_same _ _ _)
    · rw [hlanet]
      exact Lane.reg_setReg_same _ _ _
    · rw [hlanet]; rfl
    · rw [ht]; exact hstream
  · obtain ⟨t, q', hexec, hstream, hchunks, htl⟩ := exec_sealChunkComplete hq hc hfind hread
    have hnum : c.num = num := by
      have h := List.find?_some hc
      simp only [Bool.and_eq_true, beq_iff_eq] at h
      exact h.1
    have hmem : c.after bs bad ∈ q'.chunks := by
      rw [hchunks, List.mem_map]
      exact ⟨c, List.mem_of_find?_eq_some hc, if_pos hnum⟩
    refine ⟨t, q', hexec, hstream, fun hwhole => ⟨?_, ?_⟩, fun hpart => ⟨?_, by rw [htl hpart]⟩⟩
    · rw [hchunks, List.find?_eq_none]
      intro y hy
      obtain ⟨x, -, rfl⟩ := List.mem_map.1 hy
      by_cases hx : x.num = num
      · rw [if_pos hx, show (c.after bs bad).done = true from hwhole]
        simp
      · rw [if_neg hx, beq_false_of_ne hx]
        exact Bool.false_ne_true
    · rw [Chunk.after, hwhole, Bool.not_true, Bool.or_false] at hmem
      exact hmem
    · rw [Chunk.after, hpart, Bool.not_false, Bool.or_true, if_pos rfl] at hmem
      exact hmem

end Sys2Proof.Machine
end

section
/-! SUPPORT. Memories stay canonical (O60): the state's own updates. -/

namespace Sys2Proof.Machine

set_option Elab.async false

/-! ## The memories of a core -/

/-- A core with the same scratchpad and the same stationary buffers. -/
theorem Core.memWf.of_same {k k' : Core} (h : k.memWf) (hspad : k'.spad = k.spad) (hbufs : k'.engine.bufs = k.engine.bufs) : k'.memWf :=
  ⟨by rw [hspad]; exact h.1, by rw [hbufs]; exact h.2⟩

theorem Core.memWf.ite {k k' : Core} {p : Prop} [Decidable p] (h : k.memWf) (h' : k'.memWf) : (if p then k else k').memWf := by
  split
  · exact h
  · exact h'

theorem Core.memWf.foldl {α : Type} {f : Core → α → Core} {ls : List α} {k : Core} (h : k.memWf)
    (hf : ∀ k x, k.memWf → (f k x).memWf) : (ls.foldl f k).memWf :=
  List.foldlRecOn (motive := Core.memWf) ls f h fun k hk x _ => hf k x hk

theorem mem_tblMap {β : Type} {f : Nat → β → β} {t : Tbl β} {c : Nat × β} (h : c ∈ tblMap f t) : ∃ x ∈ t, (x.1, f x.1 x.2) = c := by
  induction t with
  | nil => cases h
  | cons e t ih =>
    rcases List.mem_cons.1 h with rfl | h
    · exact ⟨e, List.mem_cons_self, rfl⟩
    · obtain ⟨x, hx, heq⟩ := ih h
      exact ⟨x, List.mem_cons_of_mem e hx, heq⟩

namespace State.MemWf
variable {s t : State}

/-! ## Ways to be canonical -/

/-- Nothing of memory and the cores changes. -/
theorem rest (h : s.MemWf) (hmem : t.mem = s.mem) (hcores : t.cores = s.cores) : t.MemWf := by
  rw [State.MemWf, hmem, hcores]; exact h

/-! Parts of the state that hold no memory. -/

theorem withSched (h : s.MemWf) {x} : State.MemWf { s with sched := x } := h
theorem withMgmt (h : s.MemWf) {x} : State.MemWf { s with mgmt := x } := h
theorem withPower (h : s.MemWf) {x} : State.MemWf { s with power := x } := h
theorem withWear (h : s.MemWf) {x} : State.MemWf { s with wear := x } := h
theorem withTrust (h : s.MemWf) {x} : State.MemWf { s with trust := x } := h
theorem withCtxs (h : s.MemWf) {x} : State.MemWf { s with ctxs := x } := h
theorem withLink (h : s.MemWf) {x} : State.MemWf { s with link := x } := h
theorem withAgenda (h : s.MemWf) {x} : State.MemWf { s with agenda := x } := h
theorem withFresh (h : s.MemWf) {x} : State.MemWf { s with fresh := x } := h
theorem withIssue (h : s.MemWf) {x} : State.MemWf { s with issue := x } := h

theorem of_eq {α : Type} {x : State × α} {a : α} (h : x.1.MemWf) (heq : x = (t, a)) : t.MemWf := by
  rw [heq] at h; exact h

theorem of_eq_snd {α : Type} {x : α × State} {a : α} (h : x.2.MemWf) (heq : x = (a, t)) : t.MemWf := by
  rw [heq] at h; exact h

theorem ite {p : Prop} [Decidable p] (h : s.MemWf) (h' : t.MemWf) : (if p then s else t).MemWf := by
  split
  · exact h
  · exact h'

theorem foldl {α : Type} {f : State → α → State} {ls : List α} (h : s.MemWf) (hf : ∀ s x, s.MemWf → (f s x).MemWf) :
    (ls.foldl f s).MemWf :=
  List.foldlRecOn (motive := State.MemWf) ls f h fun s hs x _ => hf s x hs

/-- A fold that carries a value with the state. -/
theorem foldl_fst {α β : Type} {f : State × β → α → State × β} {ls : List α} {x : State × β} (h : x.1.MemWf)
    (hf : ∀ x y, x.1.MemWf → (f x y).1.MemWf) : (ls.foldl f x).1.MemWf :=
  List.foldlRecOn (motive := fun x : State × β => x.1.MemWf) ls f h fun x hx y _ => hf x y hx

/-! ## The cores -/

theorem core (h : s.MemWf) (c : Nat) : (s.core c).memWf := by
  obtain ⟨-, -, -, hcores⟩ := h
  rw [State.core, tblGet_eq_find]
  cases hfind : tblFind s.cores c with
  | none => exact ⟨rfl, List.forall_mem_nil _⟩
  | some k => exact hcores (c, k) (mem_of_tblFind hfind)

theorem updCore (h : s.MemWf) {c : Nat} {f : Core → Core} (hf : ∀ k, k.memWf → (f k).memWf) : (s.updCore c f).MemWf :=
  State.memWf_updCore h (hf _)

theorem setCore (h : s.MemWf) {c : Nat} {k : Core} (hk : k.memWf) : (s.setCore c k).MemWf :=
  State.MemWf.updCore (f := fun _ => k) h fun _ _ => hk

theorem updIssCore (h : s.MemWf) {f : Core → Core} (hf : ∀ k, k.memWf → (f k).memWf) : (s.updIssCore f).MemWf := h.updCore hf

theorem updTeam (h : s.MemWf) {c slot : Nat} {f : Team → Team} : (s.updTeam c slot f).MemWf := h.updCore fun _ hk => hk

theorem updEngine (h : s.MemWf) {c : Nat} {f : Engine → Engine} (hf : ∀ e, (f e).bufs = e.bufs) : (s.updEngine c f).MemWf :=
  h.updCore fun k hk => hk.of_same rfl (hf k.engine)

/-- Every core changes. -/
theorem mapCores (h : s.MemWf) {f : Nat → Core → Core} (hf : ∀ n k, k.memWf → (f n k).memWf) :
    State.MemWf { s with cores := tblMap f s.cores } := by
  obtain ⟨hcells, hhost, hpeers, hcores⟩ := h
  refine ⟨hcells, hhost, hpeers, fun k hk => ?_⟩
  obtain ⟨x, hx, rfl⟩ := mem_tblMap hk
  exact hf _ _ (hcores x hx)

end State.MemWf

/-! ## Results -/

/-- What follows an instruction or an event keeps the memories canonical. -/
def Result.MemWf (r : Result) : Prop := ∀ t, r = .next t → t.MemWf

namespace Result.MemWf

theorem next {t : State} (h : t.MemWf) : Result.MemWf (.next t) := fun _ ht => by cases ht; exact h

theorem ite {r r' : Result} {p : Prop} [Decidable p] (h : Result.MemWf r) (h' : Result.MemWf r') : Result.MemWf (if p then r else r') := by
  split
  · exact h
  · exact h'

end Result.MemWf

end Sys2Proof.Machine
end

section
/-! SUPPORT. Memories stay canonical (O60), function by function of the model: addresses, homes, operations, lanes and issue. The rule of a
function `f` is `State.MemWf.f` or `Core.memWf.f`, that of `execF` is `Result.MemWf.f`; a rule cites those of the functions that
`f` calls. -/

namespace Sys2Proof.Machine

set_option Elab.async false

/-! ## The reset state -/

theorem Core.memWf.reset {phys} : (Core.reset phys).memWf := ⟨rfl, List.forall_mem_nil _⟩

/-! ## Messages, sweeps and counts -/

theorem Core.memWf.updTeam {k : Core} (h : k.memWf) {slot f} : (k.updTeam slot f).memWf := h

theorem State.MemWf.updGroup {s : State} (h : s.MemWf) {c slot g f} : (s.updGroup c slot g f).MemWf := .updTeam h

theorem Core.memWf.updByUid {k : Core} (h : k.memWf) {uid f} : (k.updByUid uid f).memWf := by
  unfold Core.updByUid
  split
  · exact .updTeam h
  · exact h

theorem State.MemWf.updIssTeam {s : State} (h : s.MemWf) {f} : (s.updIssTeam f).MemWf := .updTeam h

theorem State.MemWf.updIssGroup {s : State} (h : s.MemWf) {f} : (s.updIssGroup f).MemWf := .updGroup h

theorem State.MemWf.updCluster {s : State} (h : s.MemWf) {c f} : (s.updCluster c f).MemWf := h

theorem State.MemWf.updRegion {s : State} (h : s.MemWf) {r f} : (s.updRegion r f).MemWf := h

theorem State.MemWf.updGrid {s : State} (h : s.MemWf) {id f} : (s.updGrid id f).MemWf := h

theorem State.MemWf.name {s : State} (h : s.MemWf) : s.name.2.MemWf := h

theorem State.MemWf.send {s : State} (h : s.MemWf) {o} : (s.send o).MemWf := (State.atHome_send _ _).wf h

theorem State.MemWf.msi {s : State} (h : s.MemWf) {v} : (s.msi v).MemWf := (State.atHome_msi _ _).wf h

theorem State.MemWf.sendPending {s : State} (h : s.MemWf) : s.sendPending.MemWf := .foldl (.withLink h) fun _ _ hu => .send hu

theorem State.MemWf.maskVector {s : State} (h : s.MemWf) {v on} : (s.maskVector v on).MemWf := .sendPending (.withLink h)

theorem State.MemWf.msixControl {s : State} (h : s.MemWf) {enable allMask} : (s.msixControl enable allMask).MemWf :=
  .sendPending (.withLink h)

/-! ## The homes and the walks -/

theorem State.MemWf.sweepPage {s : State} (h : s.MemWf) {page} : (s.sweepPage page).MemWf := (State.atHome_sweepPage _ _).wf h

theorem State.MemWf.rawWrite {s : State} (h : s.MemWf) {pa bs} : (s.rawWrite pa bs).MemWf := (State.atHome_rawWrite _ _ _).wf h

theorem State.MemWf.updCtx {s : State} (h : s.MemWf) {c f} : (s.updCtx c f).MemWf := by
  unfold State.updCtx
  dsimp only
  split
  · exact h
  · exact h

theorem State.MemWf.countCtx {s : State} (h : s.MemWf) {c f} : (s.countCtx c f).MemWf := by
  unfold State.countCtx
  split
  · exact .rawWrite (.updCtx h)
  · exact h

theorem State.MemWf.chargeLoss {s : State} (h : s.MemWf) {who die} : (s.chargeLoss who die).MemWf :=
  (State.atHome_chargeLoss _ _ _).wf h

theorem State.MemWf.updStream {s : State} (h : s.MemWf) {i f} : (s.updStream i f).MemWf := (State.atHome_updStream _ _ _).wf h

theorem State.MemWf.useVector {s : State} (h : s.MemWf) {i} : (s.useVector i).MemWf := (State.atHome_useVector _ _).wf h

theorem State.MemWf.findError {s : State} (h : s.MemWf) {who sector} : (s.findError who sector).MemWf :=
  (State.atHome_findError _ _ _).wf h

theorem State.MemWf.l2Clear {s : State} (h : s.MemWf) : s.l2Clear.MemWf := (State.atHome_l2Clear _).wf h

theorem State.MemWf.hRead {s : State} (h : s.MemWf) {who ch pa n} : (s.hRead who ch pa n).1.MemWf :=
  (State.atH_hRead _ _ _ _ _).home.wf h

theorem State.MemWf.hWrite {s : State} (h : s.MemWf) {who ch pa bs} : (s.hWrite who ch pa bs).MemWf :=
  (State.atH_hWrite _ _ _ _ _).home.wf h

theorem State.MemWf.hWriteSweep {s : State} (h : s.MemWf) {who pa bs} : (s.hWriteSweep who pa bs).MemWf :=
  (State.atH_hWriteSweep _ _ _ _).home.wf h

theorem State.MemWf.hostError {s : State} (h : s.MemWf) {who} : (s.hostError who).MemWf := (State.atH_hostError _ _).home.wf h

theorem State.MemWf.hostWrite {s : State} (h : s.MemWf) {who a bs} : (s.hostWrite who a bs).MemWf :=
  (State.atH_hostWrite _ _ _ _).home.wf h

theorem State.MemWf.hostAsk {s : State} (h : s.MemWf) {who a n} : (s.hostAsk who a n).1.MemWf :=
  (State.atH_hostAsk _ _ _ _).home.wf h

theorem State.MemWf.hostPut {s : State} (h : s.MemWf) {who a bs} : (s.hostPut who a bs).MemWf :=
  (State.atH_hostPut _ _ _ _).home.wf h

theorem State.MemWf.coreTlbAdd {s : State} (h : s.MemWf) {core e} : (s.coreTlbAdd core e).MemWf :=
  (State.ownAccess_coreTlbAdd _ _ _).wf h

theorem State.MemWf.lookup {s : State} (h : s.MemWf) {cl ctx root va} : (s.lookup cl ctx root va).1.MemWf :=
  (State.atH_lookup _ _ _ _ _).home.wf h

theorem State.MemWf.tlbTranslate {s : State} (h : s.MemWf) {core ctx root va need} :
    (s.tlbTranslate core ctx root va need).1.MemWf :=
  (State.ownAccess_tlbTranslate _ _ _ _ _ _).wf h

theorem State.MemWf.updL1 {s : State} (h : s.MemWf) {id f} : (s.updL1 id f).MemWf := (State.atHome_updL1 _ _ _).wf h

theorem State.MemWf.sflush {s : State} (h : s.MemWf) {id k} : (s.sflush id k).MemWf := (State.atHome_sflush _ _ _).wf h

theorem State.MemWf.wbSector {s : State} (h : s.MemWf) {id k} : (s.wbSector id k).MemWf := (State.atHome_wbSector _ _ _).wf h

theorem State.MemWf.l1WB {s : State} (h : s.MemWf) {id} : (s.l1WB id).MemWf := (State.atHome_l1WB _ _).wf h

theorem State.MemWf.l1WBINV {s : State} (h : s.MemWf) {id} : (s.l1WBINV id).MemWf := (State.atHome_l1WBINV _ _).wf h

theorem State.MemWf.l1Fill {s : State} (h : s.MemWf) {id k who ch} : (s.l1Fill id k who ch).MemWf :=
  (State.atHome_l1Fill _ _ _ _ _).wf h

theorem State.MemWf.allWBINV {s : State} (h : s.MemWf) : s.allWBINV.MemWf := (State.atHome_allWBINV _).wf h

/-! ## Operations -/

theorem State.MemWf.report {s : State} (h : s.MemWf) {core r} : (s.report core r).MemWf := by
  unfold State.report
  dsimp only
  refine .ite (.updTeam h) (.ite ?_ (.msi ?_))
  · exact .updCore (.ite (.countCtx h) h) fun _ hk => hk
  · exact .updCore (.ite (.countCtx h) h) fun _ hk => hk

theorem State.MemWf.raise {s : State} (h : s.MemWf) {f} : (s.raise f).MemWf := .report h

theorem State.MemWf.orFault {s k : State} (h : s.MemWf) (hk : k.MemWf) {checks} : (s.orFault checks k).MemWf := by
  unfold State.orFault
  refine .ite h ?_
  split
  · exact .raise h
  · exact hk

theorem State.MemWf.fetchLine {s : State} (h : s.MemWf) {core grid line} : (s.fetchLine core grid line).1.MemWf := by
  unfold State.fetchLine
  dsimp only
  split
  · exact h
  · next heq =>
      split
      · next heq' => exact .of_eq (.tlbTranslate h) heq'
      · next heq' =>
          split
          · exact .of_eq (.tlbTranslate h) heq'
          · split
            · exact .of_eq (.tlbTranslate h) heq'
            · split
              · split
                · exact .updCore (.hRead (.of_eq (.tlbTranslate h) heq')) fun _ hk => hk
                · split
                  · split
                    · exact .updCore (.hRead (.hRead (.of_eq (.tlbTranslate h) heq'))) fun _ hk => hk
                    · exact .hRead (.hRead (.of_eq (.tlbTranslate h) heq'))
                  · split
                    · exact .updCore (.hostAsk (.hRead (.of_eq (.tlbTranslate h) heq'))) fun _ hk => hk
                    · exact .hostAsk (.hRead (.of_eq (.tlbTranslate h) heq'))
              · split
                · exact .updCore (.hostAsk (.of_eq (.tlbTranslate h) heq')) fun _ hk => hk
                · split
                  · split
                    · exact .updCore (.hRead (.hostAsk (.of_eq (.tlbTranslate h) heq'))) fun _ hk => hk
                    · exact .hRead (.hostAsk (.of_eq (.tlbTranslate h) heq'))
                  · split
                    · exact .updCore (.hostAsk (.hostAsk (.of_eq (.tlbTranslate h) heq'))) fun _ hk => hk
                    · exact .hostAsk (.hostAsk (.of_eq (.tlbTranslate h) heq'))

theorem State.MemWf.writeFrame {s : State} (h : s.MemWf) {core g pslot bytes} : (s.writeFrame core g pslot bytes).MemWf :=
  (State.ownAccess_writeFrame _ _ _ _ _).wf h

theorem State.MemWf.trapEnter {s : State} (h : s.MemWf) {core slot g c} : (s.trapEnter core slot g c).MemWf :=
  .writeFrame (.updGroup h)

theorem State.MemWf.trapReturn {s : State} (h : s.MemWf) {core slot g ls} : (s.trapReturn core slot g ls).MemWf := .updGroup h

theorem State.MemWf.pushPoint {s : State} (h : s.MemWf) {core team ctx uid lane a} :
    (s.pushPoint core team ctx uid lane a).MemWf :=
  .updCore (.name h) fun _ hk => hk

theorem Core.memWf.completeOp {k : Core} (h : k.memWf) {o} : (k.completeOp o).memWf := .of_same (.updByUid h) rfl rfl

theorem Core.memWf.zeroHead {k : Core} (h : k.memWf) : k.zeroHead.memWf := by
  unfold Core.zeroHead
  split
  · exact h
  · exact ⟨wf_memErase h.1 _ _, h.2⟩

theorem Core.memWf.zeroCycle {k : Core} (h : k.memWf) : k.zeroCycle.memWf := .of_same (.ite h (.zeroHead h)) rfl rfl

theorem State.MemWf.settleLive {s : State} (h : s.MemWf) {core slot g l} : (s.settleLive core slot g l).MemWf := by
  unfold State.settleLive
  dsimp only
  split
  · exact h
  · exact h
  · exact .ite (.updGroup h) h
  · refine .ite ?_ h
    split
    · refine .pushPoint (.updGroup ?_)
      split
      · exact .ite (.l1WBINV h) h
      · exact h
    · refine .updGroup ?_
      split
      · exact .ite (.l1WBINV h) h
      · exact h

theorem State.MemWf.settleShadow {s : State} (h : s.MemWf) {core slot g l} : (s.settleShadow core slot g l).MemWf := by
  unfold State.settleShadow
  dsimp only
  split
  · exact h
  · split
    · exact h
    · exact h
    · exact .ite (.updGroup h) h
    · refine .ite ?_ h
      split
      · refine .pushPoint (.updGroup ?_)
        split
        · exact .ite (.l1WBINV h) h
        · exact h
      · refine .updGroup ?_
        split
        · exact .ite (.l1WBINV h) h
        · exact h

theorem State.MemWf.settleGroup {s : State} (h : s.MemWf) {core slot g} : (s.settleGroup core slot g).MemWf :=
  .foldl h (fun _ _ hu => .settleShadow (.settleLive hu))

theorem State.MemWf.settleTeam {s : State} (h : s.MemWf) {core slot} : (s.settleTeam core slot).MemWf :=
  .foldl (.updTeam h) fun _ _ hu => .settleGroup hu

theorem State.MemWf.settle {s : State} (h : s.MemWf) : s.settle.MemWf :=
  .foldl h (fun _ _ hu => .foldl hu (fun _ _ hu => .settleTeam hu))

/-! ## Operands -/

theorem State.MemWf.runLanes {s : State} (h : s.MemWf) {flag f} : (s.runLanes flag f).MemWf := .updIssGroup h

theorem State.MemWf.put32 {s : State} (h : s.MemWf) {flag dst v} : (s.put32 flag dst v).MemWf := .runLanes h

theorem State.MemWf.put64 {s : State} (h : s.MemWf) {flag dst v} : (s.put64 flag dst v).MemWf := .runLanes h

theorem State.MemWf.putGuard {s : State} (h : s.MemWf) {flag dst v} : (s.putGuard flag dst v).MemWf := .runLanes h

theorem State.MemWf.advance {s : State} (h : s.MemWf) : s.advance.MemWf := .runLanes h

/-! ## Issue -/

theorem State.MemWf.beginIssue {s : State} (h : s.MemWf) {core slot g p} : (s.beginIssue core slot g p).MemWf := by
  unfold State.beginIssue
  exact .withIssue (.updCore (.updGroup h) (by exact fun _ hk => hk))

theorem State.MemWf.fetchIssue {s : State} (h : s.MemWf) : s.fetchIssue.1.MemWf := by
  unfold State.fetchIssue
  dsimp only
  split
  · exact .fetchLine h
  · split
    · exact .fetchLine h
    · exact .updIssGroup (.withIssue (.fetchLine h))

theorem State.MemWf.decodeIssue {s : State} (h : s.MemWf) : s.decodeIssue.1.MemWf := by
  unfold State.decodeIssue
  dsimp only
  split
  · exact h
  · exact h

theorem State.MemWf.endIssue {s : State} (h : s.MemWf) : s.endIssue.MemWf := h

theorem State.MemWf.coreCycle {s : State} (h : s.MemWf) {core} : (s.coreCycle core).MemWf :=
  .setCore h (.of_same (.zeroCycle (h.core core)) rfl rfl)

theorem State.MemWf.regionCycle {s : State} (h : s.MemWf) {r} : (s.regionCycle r).MemWf :=
  .foldl (.updRegion h) (fun _ _ hu => .ite (.coreCycle hu) hu)

theorem State.MemWf.islandCycle {s : State} (h : s.MemWf) {r} : (s.islandCycle r).MemWf :=
  .foldl h (fun _ _ hu => .ite (.updCore hu (fun _ hk => hk)) hu)

theorem State.MemWf.passNs {s : State} (h : s.MemWf) {n} : (s.passNs n).MemWf := .mapCores h fun _ _ hk => .ite hk hk

/-! ## Groups -/

theorem State.MemWf.addGroup {s : State} (h : s.MemWf) {core slot role g pslot entry} :
    (s.addGroup core slot role g pslot entry).MemWf :=
  .updTeam (.updCore (.name h) (by exact fun _ hk => hk))

theorem State.MemWf.joinGroup {s : State} (h : s.MemWf) {core slot role g pslot} :
    (s.joinGroup core slot role g pslot).MemWf :=
  .updTeam (.addGroup h)

theorem State.MemWf.landJoins {s : State} (h : s.MemWf) {core} : (s.landJoins core).MemWf :=
  .foldl h (fun _ _ hu => .foldl (.updTeam hu) (fun _ _ hu => .joinGroup hu))

theorem State.MemWf.acceptJoin {s : State} (h : s.MemWf) {core slot role} : (s.acceptJoin core slot role).MemWf := by
  unfold State.acceptJoin
  dsimp only
  split
  · exact .updTeam (.updGrid h)
  · exact h

theorem Core.memWf.clearFlags {k : Core} (h : k.memWf) {flag ms} : (k.clearFlags flag ms).memWf := by
  unfold Core.clearFlags
  split
  · exact h
  · exact .foldl h fun _ _ hk => .updByUid hk

/-- A core with the engine of a core, its gang broken. -/
theorem Core.memWf.breakGang {k : Core} {e : Engine} (h : k.memWf) (he : ∀ b ∈ e.bufs, b.2.wf = true) :
    Core.memWf { k with engine := e.breakGang } := ⟨h.1, he⟩

theorem State.MemWf.leaveGang {s : State} (h : s.MemWf) {core slot g} : (s.leaveGang core slot g).MemWf := by
  have he := (h.core core).2
  unfold State.leaveGang
  dsimp only
  refine .ite ?_ h
  split
  · exact .updCore h fun _ hk => hk.breakGang he
  · exact .foldl (.updCore h fun _ hk => (Core.memWf.clearFlags hk).breakGang he) fun _ _ hu => .report hu

theorem Core.memWf.freeLines {k : Core} (h : k.memWf) {t} : (k.freeLines t).memWf := h

theorem State.MemWf.dropPins {s : State} (h : s.MemWf) {core} : (s.dropPins core).MemWf := .updL1 h

theorem State.MemWf.endTeam {s : State} (h : s.MemWf) {core slot} : (s.endTeam core slot).MemWf := by
  have hfree : ∀ k : Core, k.memWf → (k.freeLines (s.team core slot)).memWf := fun _ hk => .freeLines hk
  unfold State.endTeam
  dsimp only
  refine .updGrid (.updCluster (.ite ?_ (.dropPins ?_)))
  · exact .updCore h fun k hk => .of_same (hfree k hk) rfl rfl
  · exact .updCore h fun k hk => .of_same (hfree k hk) rfl rfl

theorem State.MemWf.endGroup {s : State} (h : s.MemWf) {core slot g} : (s.endGroup core slot g).MemWf :=
  .ite (.endTeam (.updGrid (.updTeam (.leaveGang h)))) (.updGrid (.updTeam (.leaveGang h)))

theorem State.MemWf.detachGroup {s : State} (h : s.MemWf) {core slot g} : (s.detachGroup core slot g).MemWf :=
  .endGroup (.updTeam h)

/-! ## Integer instructions -/

theorem State.MemWf.putW {s : State} (h : s.MemWf) {flag w64 dst v} : (s.putW flag w64 dst v).MemWf :=
  .ite (.put64 h) (.put32 h)

theorem State.MemWf.intBin {s : State} (h : s.MemWf) {f op} : (s.intBin f op).MemWf := .orFault h (.putW h)

theorem State.MemWf.intShift {s : State} (h : s.MemWf) {f op} : (s.intShift f op).MemWf := .orFault h (.putW h)

theorem State.MemWf.intUn {s : State} (h : s.MemWf) {f dw op} : (s.intUn f dw op).MemWf := .orFault h (.putW h)

theorem State.MemWf.intTri {s : State} (h : s.MemWf) {f bw cw op} : (s.intTri f bw cw op).MemWf := .orFault h (.putW h)

theorem State.MemWf.intImm {s : State} (h : s.MemWf) {f limits op} : (s.intImm f limits op).MemWf := .orFault h (.putW h)

theorem Result.MemWf.add {s : State} (h : s.MemWf) {f} : Result.MemWf (execAdd f s) := .next (.intBin h)

theorem Result.MemWf.sub {s : State} (h : s.MemWf) {f} : Result.MemWf (execSub f s) := .next (.intBin h)

theorem Result.MemWf.mul {s : State} (h : s.MemWf) {f} : Result.MemWf (execMul f s) := .next (.intBin h)

theorem Result.MemWf.mulhi {s : State} (h : s.MemWf) {f} : Result.MemWf (execMulhi f s) := .next (.intBin h)

theorem Result.MemWf.mad {s : State} (h : s.MemWf) {f} : Result.MemWf (execMad f s) := .next (.intTri h)

theorem Result.MemWf.min {s : State} (h : s.MemWf) {f} : Result.MemWf (execMin f s) := .next (.intBin h)

theorem Result.MemWf.max {s : State} (h : s.MemWf) {f} : Result.MemWf (execMax f s) := .next (.intBin h)

theorem Result.MemWf.abs {s : State} (h : s.MemWf) {f} : Result.MemWf (execAbs f s) := .next (.intUn h)

theorem Result.MemWf.neg {s : State} (h : s.MemWf) {f} : Result.MemWf (execNeg f s) := .next (.intUn h)

theorem Result.MemWf.div {s : State} (h : s.MemWf) {f} : Result.MemWf (execDiv f s) := .next (.intBin h)

theorem Result.MemWf.rem {s : State} (h : s.MemWf) {f} : Result.MemWf (execRem f s) := .next (.intBin h)

theorem Result.MemWf.sad {s : State} (h : s.MemWf) {f} : Result.MemWf (execSad f s) := .next (.intTri h)

theorem Result.MemWf.mulw {s : State} (h : s.MemWf) {f} : Result.MemWf (execMulw f s) := .next (.orFault h (.putW h))

theorem Result.MemWf.and {s : State} (h : s.MemWf) {f} : Result.MemWf (execAnd f s) := .next (.intBin h)

theorem Result.MemWf.or {s : State} (h : s.MemWf) {f} : Result.MemWf (execOr f s) := .next (.intBin h)

theorem Result.MemWf.xor {s : State} (h : s.MemWf) {f} : Result.MemWf (execXor f s) := .next (.intBin h)

theorem Result.MemWf.not {s : State} (h : s.MemWf) {f} : Result.MemWf (execNot f s) := .next (.intUn h)

theorem Result.MemWf.shl {s : State} (h : s.MemWf) {f} : Result.MemWf (execShl f s) := .next (.intShift h)

theorem Result.MemWf.shr {s : State} (h : s.MemWf) {f} : Result.MemWf (execShr f s) := .next (.intShift h)

theorem Result.MemWf.sar {s : State} (h : s.MemWf) {f} : Result.MemWf (execSar f s) := .next (.intShift h)

theorem Result.MemWf.rotl {s : State} (h : s.MemWf) {f} : Result.MemWf (execRotl f s) := .next (.intShift h)

theorem Result.MemWf.popc {s : State} (h : s.MemWf) {f} : Result.MemWf (execPopc f s) := .next (.intUn h)

theorem Result.MemWf.clz {s : State} (h : s.MemWf) {f} : Result.MemWf (execClz f s) := .next (.intUn h)

theorem Result.MemWf.brev {s : State} (h : s.MemWf) {f} : Result.MemWf (execBrev f s) := .next (.intUn h)

theorem Result.MemWf.bfe {s : State} (h : s.MemWf) {f} : Result.MemWf (execBfe f s) := .next (.intTri h)

theorem Result.MemWf.bfi {s : State} (h : s.MemWf) {f} : Result.MemWf (execBfi f s) := .next (.intTri h)

theorem Result.MemWf.lea {s : State} (h : s.MemWf) {f k} : Result.MemWf (execLea f k s) := .next (.orFault h (.putW h))

theorem Result.MemWf.fsh {s : State} (h : s.MemWf) {f} : Result.MemWf (execFsh f s) := .next (.intTri h)

theorem Result.MemWf.perm {s : State} (h : s.MemWf) {f} : Result.MemWf (execPerm f s) := .next (.intTri h)

theorem Result.MemWf.lop3 {s : State} (h : s.MemWf) {f tt} : Result.MemWf (execLop3 f tt s) := .next (.intTri h)

theorem Result.MemWf.addi {s : State} (h : s.MemWf) {f} : Result.MemWf (execAddi f s) := .next (.intImm h)

theorem Result.MemWf.muli {s : State} (h : s.MemWf) {f} : Result.MemWf (execMuli f s) := .next (.intImm h)

theorem Result.MemWf.andi {s : State} (h : s.MemWf) {f} : Result.MemWf (execAndi f s) := .next (.intImm h)

theorem Result.MemWf.ori {s : State} (h : s.MemWf) {f} : Result.MemWf (execOri f s) := .next (.intImm h)

theorem Result.MemWf.xori {s : State} (h : s.MemWf) {f} : Result.MemWf (execXori f s) := .next (.intImm h)

theorem Result.MemWf.shli {s : State} (h : s.MemWf) {f} : Result.MemWf (execShli f s) := .next (.intImm h)

theorem Result.MemWf.shri {s : State} (h : s.MemWf) {f} : Result.MemWf (execShri f s) := .next (.intImm h)

theorem Result.MemWf.sari {s : State} (h : s.MemWf) {f} : Result.MemWf (execSari f s) := .next (.intImm h)

theorem Result.MemWf.movi {s : State} (h : s.MemWf) {f} : Result.MemWf (execMovi f s) := .next (.orFault h (.putW h))

theorem Result.MemWf.mov {s : State} (h : s.MemWf) {f} : Result.MemWf (execMov f s) := .next (.intUn h)

theorem Result.MemWf.gtag {s : State} (h : s.MemWf) {dst a tag} : Result.MemWf (execGtag dst a tag s) :=
  .next (.orFault h (.putW h))

theorem Result.MemWf.icmp {s : State} (h : s.MemWf) {hd cond t op gc a b} : Result.MemWf (execIcmp hd cond t op gc a b s) :=
  .next (.orFault h (.putGuard h))

theorem Result.MemWf.icmpi {s : State} (h : s.MemWf) {dst cond t a imm} : Result.MemWf (execIcmpi dst cond t a imm s) :=
  .next (.orFault h (.putGuard h))

theorem Result.MemWf.gop {s : State} (h : s.MemWf) {hd op ga gb} : Result.MemWf (execGop hd op ga gb s) :=
  .next (.orFault h (.putGuard h))

theorem Result.MemWf.gmov {s : State} (h : s.MemWf) {hd m} : Result.MemWf (execGmov hd m s) := by
  unfold execGmov
  split
  · exact .next (.orFault h (.put32 h))
  · exact .next (.orFault h (.putGuard h))

theorem Result.MemWf.sel {s : State} (h : s.MemWf) {f} : Result.MemWf (execSel f s) := .next (.orFault h (.runLanes h))

/-! ## Places and the L1 -/

theorem State.MemWf.exportAt {s : State} (h : s.MemWf) {who woff need} : (s.exportAt who woff need).1.MemWf :=
  (State.atHome_exportAt _ _ _ _).wf h

theorem State.MemWf.selfWalk {s : State} (h : s.MemWf) {w a n} : (s.selfWalk w a n).MemWf :=
  (State.atHome_selfWalk _ _ _ _).wf h

theorem State.MemWf.issWalks {s : State} (h : s.MemWf) {ws} : (s.issWalks ws).MemWf := by
  induction ws generalizing s with
  | nil => exact h
  | cons w ws ih => exact ih (.updCluster (.updIssCore h (by exact fun _ hk => .ite hk hk)))

theorem State.MemWf.dropWalkFaults {s : State} (h : s.MemWf) {core vs} : (s.dropWalkFaults core vs).MemWf :=
  .updCore h fun _ hk => hk

theorem State.MemWf.parkLanes {s : State} (h : s.MemWf) {ws} : (s.parkLanes ws).MemWf := .updIssGroup h

theorem State.MemWf.countRefused {s : State} (h : s.MemWf) {die n} : (s.countRefused die n).MemWf :=
  (State.ownAccess_countRefused _ _ _).wf h

theorem State.MemWf.raiseOwn {s : State} (h : s.MemWf) {addrs bads f} : (s.raiseOwn addrs bads f).MemWf :=
  .raise (.dropWalkFaults (.countRefused h))

theorem State.MemWf.access {s : State} (h : s.MemWf) {guard flag addr pre reach act}
    (hact : ∀ u cs, u.MemWf → (act u cs).MemWf) : (s.access guard flag addr pre reach act).MemWf := by
  unfold State.access
  dsimp only
  split
  · exact .raise h
  · split
    · refine .issWalks (.parkLanes (.updIssGroup ?_))
      exact hact _ _ (.foldl h fun _ _ hu => .selfWalk hu)
    · refine .raiseOwn (.issWalks (.parkLanes (.updIssGroup ?_)))
      exact hact _ _ (.foldl h fun _ _ hu => .selfWalk hu)

theorem State.MemWf.enqueue {s : State} (h : s.MemWf) {is} : (s.enqueue is).MemWf := .updIssCore h fun _ hk => hk

theorem State.MemWf.addOp {s : State} (h : s.MemWf) {o} : (s.addOp o).MemWf := by
  have hop : (s.updIssCore fun k => { k with ops := tblSet k.ops o.id o }).MemWf := .updIssCore h fun _ hk => hk
  unfold State.addOp
  dsimp only
  split
  · exact hop
  · exact .updIssGroup hop

theorem State.MemWf.makeRoom {s : State} (h : s.MemWf) {id line filler} : (s.makeRoom id line filler).MemWf :=
  (State.ownAccess_makeRoom _ _ _ _).wf h

theorem State.MemWf.l1Read {s : State} (h : s.MemWf) {core uid who ch pa n} : (s.l1Read core uid who ch pa n).1.MemWf :=
  (State.ownAccess_l1Read _ _ _ _ _ _ _).wf h

theorem State.MemWf.l1Store {s : State} (h : s.MemWf) {core uid ctx ch pa bs} : (s.l1Store core uid ctx ch pa bs).MemWf :=
  (State.ownAccess_l1Store _ _ _ _ _ _ _).wf h

theorem State.MemWf.spadError {s : State} (h : s.MemWf) {core k} : (s.spadError core k).MemWf :=
  (State.ownAccess_spadError _ _ _).wf h

theorem State.MemWf.spadErrors {s : State} (h : s.MemWf) {core at_ n} : (s.spadErrors core at_ n).MemWf :=
  (State.ownAccess_spadErrors _ _ _ _).wf h

theorem State.MemWf.spadRead {s : State} (h : s.MemWf) {core at_ n} : (s.spadRead core at_ n).1.MemWf :=
  (State.ownAccess_spadRead _ _ _ _).wf h

theorem State.MemWf.spadWrite {s : State} (h : s.MemWf) {core at_ bs} : (s.spadWrite core at_ bs).MemWf := by
  unfold State.spadWrite
  dsimp only
  refine .updCore (.foldl h fun _ _ hu => .ite (.updCore hu ?_) (.spadError hu)) fun _ hk => ⟨wf_memWrite hk.1 _ _, hk.2⟩
  exact fun _ hk => hk

theorem State.MemWf.ownLoad {s : State} (h : s.MemWf) {core uid ctx p ch n} : (s.ownLoad core uid ctx p ch n).1.MemWf :=
  (State.ownAccess_ownLoad _ _ _ _ _ _ _).wf h

theorem State.MemWf.selfWalks {s : State} (h : s.MemWf) {cs} : (s.selfWalks cs).MemWf := .foldl h fun _ _ hu => .selfWalk hu

theorem State.MemWf.ownStore {s : State} (h : s.MemWf) {core uid ctx p ch bs} : (s.ownStore core uid ctx p ch bs).MemWf :=
  (State.ownAccess_ownStore _ _ _ _ _ _ _).wf h

end Sys2Proof.Machine
end

section
/-! SUPPORT. Memories stay canonical (O60), function by function of the model: control flow, lane results, accesses and the switches. The rule of a
function `f` is `State.MemWf.f` or `Core.memWf.f`, that of `execF` is `Result.MemWf.f`; a rule cites those of the functions that
`f` calls. -/

namespace Sys2Proof.Machine

set_option Elab.async false

/-! ## Control flow -/

theorem Result.MemWf.nop {s : State} (h : s.MemWf) : Result.MemWf (execNop s) := .next (.orFault h (.advance h))

theorem State.MemWf.transfer {s : State} (h : s.MemWf) {ls target} : (s.transfer ls target).MemWf := .updIssGroup h

theorem Result.MemWf.bra {s : State} (h : s.MemWf) {g off} : Result.MemWf (execBra g off s) := .next (.orFault h (.transfer h))

theorem Result.MemWf.brr {s : State} (h : s.MemWf) {a} : Result.MemWf (execBrr a s) := .next (.orFault h (.transfer h))

theorem State.MemWf.callLanes {s : State} (h : s.MemWf) {checks ls target} : (s.callLanes checks ls target).MemWf := by
  unfold State.callLanes
  dsimp only
  refine .ite h ?_
  split
  · exact .raiseOwn h
  · exact .issWalks (.parkLanes (.updIssGroup (.foldl h (fun _ _ hu => .ownStore hu))))

theorem Result.MemWf.call {s : State} (h : s.MemWf) {g off} : Result.MemWf (execCall g off s) := .next (.callLanes h)

theorem Result.MemWf.callr {s : State} (h : s.MemWf) {a} : Result.MemWf (execCallr a s) := .next (.callLanes h)

theorem State.MemWf.refills {s : State} (h : s.MemWf) {cs} : (s.refills cs).1.MemWf := by
  induction cs generalizing s with
  | nil => exact h
  | cons c cs ih => exact ih (.ownLoad h)

theorem Result.MemWf.ret {s : State} (h : s.MemWf) : Result.MemWf (execRet s) := by
  unfold execRet
  dsimp only
  refine .next (.ite h ?_)
  split
  · exact .raiseOwn h
  · exact .issWalks (.parkLanes (.updIssGroup (.refills h)))

theorem Result.MemWf.exit {s : State} (h : s.MemWf) : Result.MemWf (execExit s) :=
  .next (.orFault h (.ite (.endGroup (.updIssTeam h)) (.updIssTeam h)))

theorem Result.MemWf.yield {s : State} (h : s.MemWf) : Result.MemWf (execYield s) := .next (.orFault h (.runLanes h))

theorem State.MemWf.waitLanes {s : State} (h : s.MemWf) {flag ls w} : (s.waitLanes flag ls w).MemWf :=
  .foldl (.updIssGroup h) fun _ _ hu => .settleLive hu

theorem Result.MemWf.flwait {s : State} (h : s.MemWf) {mask} : Result.MemWf (execFlwait mask s) :=
  .next (.orFault h (.waitLanes h))

theorem State.MemWf.prefixed {s : State} (h : s.MemWf) {kind takes f} : (s.prefixed kind takes f).MemWf := by
  unfold State.prefixed
  dsimp only
  exact .orFault h (.withIssue h)

theorem Result.MemWf.pxLit {s : State} (h : s.MemWf) {lit} : Result.MemWf (execPxLit lit s) := .next (.prefixed h)

theorem Result.MemWf.pxScope {s : State} (h : s.MemWf) {o sc} : Result.MemWf (execPxScope o sc s) := .next (.prefixed h)

theorem Result.MemWf.pxTile {s : State} (h : s.MemWf) {twc} : Result.MemWf (execPxTile twc s) := .next (.prefixed h)

/-! ## Float and lane instructions -/

theorem State.MemWf.flt1 {s : State} (h : s.MemWf) {hd a op} : (s.flt1 hd a op).MemWf := .orFault h (.put32 h)

theorem State.MemWf.flt2 {s : State} (h : s.MemWf) {hd a b op} : (s.flt2 hd a b op).MemWf := .orFault h (.put32 h)

theorem State.MemWf.flt3 {s : State} (h : s.MemWf) {hd a b c op} : (s.flt3 hd a b c op).MemWf := .orFault h (.put32 h)

theorem Result.MemWf.fadd {s : State} (h : s.MemWf) {f} : Result.MemWf (execFadd f s) := .next (.flt2 h)

theorem Result.MemWf.fsub {s : State} (h : s.MemWf) {f} : Result.MemWf (execFsub f s) := .next (.flt2 h)

theorem Result.MemWf.fmul {s : State} (h : s.MemWf) {f} : Result.MemWf (execFmul f s) := .next (.flt2 h)

theorem Result.MemWf.fma {s : State} (h : s.MemWf) {f} : Result.MemWf (execFma f s) := .next (.flt3 h)

theorem Result.MemWf.fmin {s : State} (h : s.MemWf) {f} : Result.MemWf (execFmin f s) := .next (.flt2 h)

theorem Result.MemWf.fmax {s : State} (h : s.MemWf) {f} : Result.MemWf (execFmax f s) := .next (.flt2 h)

theorem Result.MemWf.fabs {s : State} (h : s.MemWf) {f} : Result.MemWf (execFabs f s) := .next (.flt1 h)

theorem Result.MemWf.fneg {s : State} (h : s.MemWf) {f} : Result.MemWf (execFneg f s) := .next (.flt1 h)

theorem Result.MemWf.fcpsgn {s : State} (h : s.MemWf) {f} : Result.MemWf (execFcpsgn f s) := .next (.flt2 h)

theorem Result.MemWf.fadd2 {s : State} (h : s.MemWf) {f} : Result.MemWf (execFadd2 f s) := .next (.flt2 h)

theorem Result.MemWf.fmul2 {s : State} (h : s.MemWf) {f} : Result.MemWf (execFmul2 f s) := .next (.flt2 h)

theorem Result.MemWf.fma2 {s : State} (h : s.MemWf) {f} : Result.MemWf (execFma2 f s) := .next (.flt3 h)

theorem Result.MemWf.fmin2 {s : State} (h : s.MemWf) {f} : Result.MemWf (execFmin2 f s) := .next (.flt2 h)

theorem Result.MemWf.fmax2 {s : State} (h : s.MemWf) {f} : Result.MemWf (execFmax2 f s) := .next (.flt2 h)

theorem Result.MemWf.fdot2 {s : State} (h : s.MemWf) {f} : Result.MemWf (execFdot2 f s) := .next (.flt3 h)

theorem Result.MemWf.fcmp {s : State} (h : s.MemWf) {hd cond ty op gc a b} :
    Result.MemWf (execFcmp hd cond ty op gc a b s) :=
  .next (.orFault h (.putGuard h))

theorem Result.MemWf.fclass {s : State} (h : s.MemWf) {hd ty a mask} : Result.MemWf (execFclass hd ty a mask s) :=
  .next (.orFault h (.putGuard h))

theorem Result.MemWf.cvt {s : State} (h : s.MemWf) {hd d t rnd ct a} : Result.MemWf (execCvt hd d t rnd ct a s) :=
  .next (.orFault h (.putW h))

theorem Result.MemWf.cvtpk {s : State} (h : s.MemWf) {hd d t rnd p a b} : Result.MemWf (execCvtpk hd d t rnd p a b s) :=
  .next (.orFault h (.put32 h))

theorem Result.MemWf.unpk {s : State} (h : s.MemWf) {hd d t e a} : Result.MemWf (execUnpk hd d t e a s) := .next (.flt1 h)

theorem Result.MemWf.lut {s : State} (h : s.MemWf) {hd n p f16 a} : Result.MemWf (execLut hd n p f16 a s) := .next (.flt1 h)

theorem Result.MemWf.frnd {s : State} (h : s.MemWf) {hd ty rnd a} : Result.MemWf (execFrnd hd ty rnd a s) := .next (.flt1 h)

theorem Result.MemWf.rq {s : State} (h : s.MemWf) {hd ty rnd sh e a b c} : Result.MemWf (execRq hd ty rnd sh e a b c s) :=
  .next (.orFault h (.put32 h))

theorem State.MemWf.startOp {s : State} (h : s.MemWf) {flag kind values} : (s.startOp flag kind values).MemWf :=
  .updIssGroup (.ite h (.addOp (.name h)))

theorem State.MemWf.sfu {s : State} (h : s.MemWf) {f op} : (s.sfu f op).MemWf := .orFault h (.startOp h)

theorem Result.MemWf.rcp {s : State} (h : s.MemWf) {f} : Result.MemWf (execRcp f s) := .next (.sfu h)

theorem Result.MemWf.rsqrt {s : State} (h : s.MemWf) {f} : Result.MemWf (execRsqrt f s) := .next (.sfu h)

theorem Result.MemWf.sqrt {s : State} (h : s.MemWf) {f} : Result.MemWf (execSqrt f s) := .next (.sfu h)

theorem Result.MemWf.exp2 {s : State} (h : s.MemWf) {f} : Result.MemWf (execExp2 f s) := .next (.sfu h)

theorem Result.MemWf.log2 {s : State} (h : s.MemWf) {f} : Result.MemWf (execLog2 f s) := .next (.sfu h)

theorem Result.MemWf.sin {s : State} (h : s.MemWf) {f} : Result.MemWf (execSin f s) := .next (.sfu h)

theorem Result.MemWf.cos {s : State} (h : s.MemWf) {f} : Result.MemWf (execCos f s) := .next (.sfu h)

theorem Result.MemWf.tanh {s : State} (h : s.MemWf) {f} : Result.MemWf (execTanh f s) := .next (.sfu h)

theorem Result.MemWf.sfuComplete {s : State} (h : s.MemWf) {core op} : Result.MemWf (execSfuComplete core op s) := by
  unfold execSfuComplete
  split
  · split
    · exact .next (.updCore h (fun _ hk => .completeOp hk))
    · exact .next h
  · exact .next h

/-! ## Memory instructions -/

theorem State.MemWf.startAccess {s : State} (h : s.MemWf) {flag kind values lanes main items names} :
    (s.startAccess flag kind values lanes main items names).MemWf := by
  unfold State.startAccess
  dsimp only
  exact .ite h (.enqueue (.addOp (.withFresh h)))

theorem Result.MemWf.ld {s : State} (h : s.MemWf) {f} : Result.MemWf (execLd f s) :=
  .next (.orFault h (.access h (fun _ _ hu => .startAccess hu)))

theorem Result.MemWf.st {s : State} (h : s.MemWf) {f} : Result.MemWf (execSt f s) :=
  .next (.orFault h (.access h (fun _ _ hu => .startAccess hu)))

theorem State.MemWf.laneAtomic {s : State} (h : s.MemWf) {f w hostOk srcs act} : (s.laneAtomic f w hostOk srcs act).MemWf :=
  .orFault h (.access h (fun _ _ hu => .startAccess hu))

theorem Result.MemWf.atom {s : State} (h : s.MemWf) {f op ty} : Result.MemWf (execAtom f op ty s) := .next (.laneAtomic h)

theorem Result.MemWf.cas {s : State} (h : s.MemWf) {f ty} : Result.MemWf (execCas f ty s) := .next (.laneAtomic h)

theorem Result.MemWf.faa {s : State} (h : s.MemWf) {f ty} : Result.MemWf (execFaa f ty s) :=
  .next (.orFault h (.access h (fun _ _ hu => .startAccess hu)))

theorem Result.MemWf.fence {s : State} (h : s.MemWf) {o sc} : Result.MemWf (execFence o sc s) :=
  .next (.orFault h (.foldl (.advance h) (fun _ _ hu => .foldl hu (fun _ _ hu => .pushPoint hu))))

theorem State.MemWf.pinLine {s : State} (h : s.MemWf) {reads l a} : (s.pinLine reads l a).1.MemWf := by
  unfold State.pinLine
  split
  · exact h
  · next heq =>
      split
      · split
        · exact h
        · split
          · next heq₃ => exact .coreTlbAdd (.of_eq (.lookup h) heq₃)
          · next heq₃ => exact .of_eq (.lookup h) heq₃
          · next heq₃ => exact .of_eq (.lookup h) heq₃
      · exact h

theorem State.MemWf.fillLine {s : State} (h : s.MemWf) {id line ch} : (s.fillLine id line ch).MemWf :=
  (State.ownAccess_fillLine _ _ _ _).wf h

theorem State.MemWf.pinOne {s : State} (h : s.MemWf) {l a} : (s.pinOne l a).1.MemWf := by
  unfold State.pinOne
  split
  · next heq => exact .of_eq (.pinLine h) heq
  · next heq =>
      have hline := State.MemWf.of_eq (.pinLine h) heq
      extract_lets id ctx pins v w
      have hpin : ∀ n ch, (w.fillLine id n ch).MemWf := fun _ _ => .fillLine (.updL1 (.makeRoom hline))
      iterate 4
        split
        · exact hline
      dsimp only
      exact hpin _ _

theorem State.MemWf.unpinOne {s : State} (h : s.MemWf) {l a} : (s.unpinOne l a).1.MemWf := by
  unfold State.unpinOne
  dsimp only
  split
  · next heq => exact .of_eq (.pinLine h) heq
  · next heq =>
      split
      · exact .updL1 (.of_eq (.pinLine h) heq)
      · exact .of_eq (.pinLine h) heq

theorem State.MemWf.pinAll {s : State} (h : s.MemWf) {one ls} (hone : ∀ u l, u.MemWf → (one u l).1.MemWf) :
    (State.pinAll one s ls).1.MemWf := by
  induction ls generalizing s with
  | nil => exact h
  | cons l ls ih => exact ih (hone _ _ h)

theorem State.MemWf.pinInstr {s : State} (h : s.MemWf) {x a one} (hone : ∀ u l b, u.MemWf → (one u l b).1.MemWf) :
    (s.pinInstr x a one).MemWf := by
  unfold State.pinInstr
  exact .orFault h (.put32 (.pinAll h fun _ _ hu => hone _ _ _ hu))

theorem Result.MemWf.cachePin {s : State} (h : s.MemWf) {hd a} : Result.MemWf (execCachePin hd a s) :=
  .next (.pinInstr h (fun _ _ _ hu => .pinOne hu))

theorem Result.MemWf.cacheUnpin {s : State} (h : s.MemWf) {hd a} : Result.MemWf (execCacheUnpin hd a s) :=
  .next (.pinInstr h (fun _ _ _ hu => .unpinOne hu))

/-! ## Accesses -/

theorem Core.memWf.settleItem {k : Core} (h : k.memWf) {i x unknown} : (k.settleItem i x unknown).memWf := by
  unfold Core.settleItem
  dsimp only
  split
  · exact h
  · exact .ite (.completeOp (by exact h)) (by exact h)

theorem State.MemWf.updWaits {s : State} (h : s.MemWf) {p f} : (s.updWaits p f).MemWf := by
  unfold State.updWaits
  dsimp only
  split
  · exact .updCluster (.mapCores h (by exact fun _ _ hk => .ite hk hk))
  · exact h

theorem State.MemWf.unwait {s : State} (h : s.MemWf) {p id} : (s.unwait p id).MemWf := .updWaits h

theorem State.MemWf.dropItem {s : State} (h : s.MemWf) {core id} : (s.dropItem core id).MemWf := by
  unfold State.dropItem
  dsimp only
  split
  · exact .unwait (.updCore h (by exact fun _ hk => hk))
  · exact .updCore h (by exact fun _ hk => hk)

theorem State.MemWf.finishItem {s : State} (h : s.MemWf) {core i x unknown} : (s.finishItem core i x unknown).MemWf :=
  .updCore (.dropItem h) fun _ hk => .settleItem hk

theorem State.MemWf.waitSweep {s : State} (h : s.MemWf) {page i} : (s.waitSweep page i).MemWf := h

theorem State.MemWf.readSpot {s : State} (h : s.MemWf) {who ch n a} : (s.readSpot who ch n a).1.MemWf :=
  (State.ownAccess_readSpot _ _ _ _ _).wf h

/-- Bytes of a peer's window are written. -/
theorem State.MemWf.writePeer {s : State} (h : s.MemWf) {q off : Nat} {bs : List Byte} :
    State.MemWf { s with mem := { s.mem with peers := tblUpd [] s.mem.peers q fun m => memWrite m off bs } } := by
  obtain ⟨hcells, hhost, hpeers, hcores⟩ := h
  refine ⟨hcells, hhost, fun p hp => ?_, hcores⟩
  rcases mem_tblSet hp with rfl | hp
  · refine wf_memWrite ?_ _ _
    rw [tblGet_eq_find]
    cases hfind : tblFind s.mem.peers q with
    | none => rfl
    | some m => exact hpeers (q, m) (mem_of_tblFind hfind)
  · exact hpeers p hp

theorem State.MemWf.writeSpot {s : State} (h : s.MemWf) {who ch bs q} : (s.writeSpot who ch bs q).MemWf := by
  unfold State.writeSpot
  split
  · exact .ite (.hWrite h) h
  · exact .hostWrite h
  · exact .spadWrite h
  · exact .writePeer h
  · exact h

theorem State.MemWf.failAtomic {s : State} (h : s.MemWf) {who p} : (s.failAtomic who p).MemWf := by
  unfold State.failAtomic
  split
  · exact .ite (.chargeLoss h) (.hostError h)
  · exact .chargeLoss h
  · exact h

theorem State.MemWf.actAt {s : State} (h : s.MemWf) {who ch a p} : (s.actAt who ch a p).1.MemWf := by
  unfold State.actAt
  dsimp only
  split
  · exact .readSpot h
  · split
    · exact h
    · exact .writeSpot h
  · split
    · exact .failAtomic h
    · split
      · exact .readSpot h
      · split
        · exact h
        · exact .writeSpot (.readSpot h)

theorem State.MemWf.refuseItem {s : State} (h : s.MemWf) {core i code aux} : (s.refuseItem core i code aux).MemWf := by
  unfold State.refuseItem
  dsimp only
  refine .ite (.finishItem h) ?_
  split
  · exact .report (.finishItem h)
  · exact .finishItem h

theorem State.MemWf.performL1 {s : State} (h : s.MemWf) {core i pa} : (s.performL1 core i pa).MemWf := by
  unfold State.performL1
  dsimp only
  split
  · exact .finishItem (.l1Read h)
  · exact .finishItem (.l1Store h)
  · exact h

theorem State.MemWf.performHome {s : State} (h : s.MemWf) {core i} : (s.performHome core i).MemWf := by
  unfold State.performHome
  dsimp only
  split
  · exact .refuseItem h
  · exact h
  · next heq heq' =>
      split
      · next heq'' =>
          refine .waitSweep (.of_eq (.actAt ?_) heq'')
          split
          · exact .sflush h
          · exact h
      · next heq'' =>
          refine .ite (.finishItem (.of_eq (.actAt ?_) heq'')) (.finishItem (.of_eq (.actAt ?_) heq''))
          · split
            · exact .sflush h
            · exact h
          · split
            · exact .sflush h
            · exact h

theorem State.MemWf.perform {s : State} (h : s.MemWf) {core i} : (s.perform core i).MemWf := by
  unfold State.perform
  dsimp only
  refine .ite h ?_
  split
  · exact .ite (.ite (.finishItem h) (.ite h (.performHome h))) (.performL1 h)
  · exact .ite (.finishItem h) (.ite h (.performHome h))

theorem State.MemWf.pointStep {s : State} (h : s.MemWf) {core i wide done} (hdone : ∀ u, u.MemWf → (done u).MemWf) :
    (s.pointStep core i wide done).MemWf := by
  unfold State.pointStep
  refine .ite h ?_
  split
  · exact .dropItem (hdone _ h)
  · exact .updCore (.wbSector h) fun _ hk => hk

theorem Result.MemWf.releasePoint {s : State} (h : s.MemWf) {core id} : Result.MemWf (execReleasePoint core id s) := by
  unfold execReleasePoint
  split
  · split
    · exact .next (.pointStep h (fun _ hu => hu))
    · exact .next h
  · exact .next h

theorem Result.MemWf.acquirePoint {s : State} (h : s.MemWf) {core id} : Result.MemWf (execAcquirePoint core id s) := by
  unfold execAcquirePoint
  dsimp only
  split
  · split
    · exact .next (.pointStep h (fun _ hu => .ite (.l1WBINV hu) hu))
    · exact .next (.pointStep h (fun _ hu => .ite (.l1WBINV hu) hu))
    · exact .next h
  · exact .next h

theorem Result.MemWf.fill {s : State} (h : s.MemWf) {l1 sector} : Result.MemWf (execFill l1 sector s) :=
  .ite (.next (.l1Fill (.makeRoom h))) (.next h)

theorem Result.MemWf.evict {s : State} (h : s.MemWf) {l1 sector} : Result.MemWf (execEvict l1 sector s) :=
  .ite (.next (.sflush h)) (.next h)

theorem Result.MemWf.loadComplete {s : State} (h : s.MemWf) {core op} : Result.MemWf (execLoadComplete core op s) := by
  unfold execLoadComplete
  split
  · split
    · exact .next (.updCore h (fun _ hk => .completeOp hk))
    · exact .next h
  · exact .next h

theorem Result.MemWf.atomicReply {s : State} (h : s.MemWf) {core op} : Result.MemWf (execAtomicReply core op s) := by
  unfold execAtomicReply
  split
  · split
    · exact .next (.updCore h (fun _ hk => .completeOp hk))
    · exact .next h
  · exact .next h

theorem State.MemWf.endWalk {s : State} (h : s.MemWf) {cl ctx vpn f} (hf : ∀ k, k.memWf → (f k).memWf) :
    (s.endWalk cl ctx vpn f).MemWf :=
  .updCluster (.mapCores h (by exact fun _ _ hk => .ite (hf _ hk) hk))

theorem Core.memWf.takeWalk {k : Core} (h : k.memWf) {ctx vpn w} : (Core.takeWalk ctx vpn w k).memWf := by
  unfold Core.takeWalk
  split
  · exact h
  · exact h
  · exact h

theorem Result.MemWf.walkComplete {s : State} (h : s.MemWf) {core ctx vpn} : Result.MemWf (execWalkComplete core ctx vpn s) := by
  unfold execWalkComplete
  refine .ite (.next h) ?_
  split
  · exact .next (.endWalk h fun _ hk => hk)
  · exact .next (.endWalk (.lookup h) fun _ hk => .takeWalk hk)

theorem Result.MemWf.sweepComplete {s : State} (h : s.MemWf) {page} : Result.MemWf (execSweepComplete page s) :=
  .next (.ite (.sweepPage h) h)

theorem Result.MemWf.scratchLineZeroed {s : State} (h : s.MemWf) {core line} :
    Result.MemWf (execScratchLineZeroed core line s) :=
  .ite (.next (.updCore h (fun _ hk => .zeroHead hk))) (.next h)

theorem State.MemWf.waitRank {s : State} (h : s.MemWf) {p r} : (s.waitRank p r).MemWf := by
  unfold State.waitRank
  dsimp only
  split
  · split
    · exact .ite h (.updCluster h)
    · exact .ite h (.updCluster (.updCore h (by exact fun _ hk => hk)))
  · exact h

theorem State.MemWf.stampSent {s : State} (h : s.MemWf) {core id} : (s.stampSent core id).MemWf := .updCore h fun _ hk => hk

theorem Result.MemWf.remoteScratchRequest {s : State} (h : s.MemWf) {core id} :
    Result.MemWf (execRemoteScratchRequest core id s) := by
  unfold execRemoteScratchRequest
  split
  · exact .next h
  · split
    · exact .ite (.next h) (.ite (.next (.perform h)) (.ite (.next h) (.next (.stampSent (.waitRank h)))))
    · exact .next h

/-! ## The switches -/

theorem State.MemWf.setFabric {s : State} (h : s.MemWf) {f} : (s.setFabric f).MemWf := h

theorem State.MemWf.updComb {s : State} (h : s.MemWf) {sw f} : (s.updComb sw f).MemWf := .setFabric h

theorem State.MemWf.closeWindow {s : State} (h : s.MemWf) {c} : (s.closeWindow c).MemWf := by
  unfold State.closeWindow
  dsimp only
  refine .setFabric ?_
  split
  · exact .setFabric h
  · exact .setFabric h
  · exact .setFabric (.updWaits (.updComb (.name h)))

theorem State.MemWf.joinWindow {s : State} (h : s.MemWf) {c r} : (s.joinWindow c r).MemWf :=
  .ite (.closeWindow (.setFabric h)) (.setFabric h)

theorem State.MemWf.openWindow {s : State} (h : s.MemWf) {sw r} : (s.openWindow sw r).MemWf := .setFabric (.name h)

theorem State.MemWf.markSent {s : State} (h : s.MemWf) {r} : (s.markSent r).MemWf := by
  unfold State.markSent
  dsimp only
  split
  · exact .updCluster (.updCore (.stampSent h) (by exact fun _ hk => hk))
  · exact h

theorem State.MemWf.closeOver {s : State} (h : s.MemWf) {sw} : (s.closeOver sw).MemWf := .foldl h fun _ _ hu => .closeWindow hu

theorem State.MemWf.arrive {s : State} (h : s.MemWf) {sw r} : (s.arrive sw r).MemWf := by
  unfold State.arrive
  dsimp only
  split
  · exact .setFabric (.closeOver (.markSent h))
  · split
    · exact .joinWindow (.closeOver (.markSent h))
    · exact .ite (.setFabric (.closeOver (.markSent h))) (.ite (.openWindow (.closeOver (.markSent h))) (.setFabric
        (.updComb (.closeOver (.markSent h)))))

theorem Result.MemWf.switchRequestArrival {s : State} (h : s.MemWf) {sw id} :
    Result.MemWf (execSwitchRequestArrival sw id s) := by
  unfold execSwitchRequestArrival
  split
  · exact .next (.arrive h)
  · exact .next h

theorem Result.MemWf.combineWindowClose {s : State} (h : s.MemWf) {sw rid} :
    Result.MemWf (execCombineWindowClose sw rid s) := by
  unfold execCombineWindowClose
  split
  · exact .next (.ite (.closeWindow h) h)
  · exact .next h

theorem State.MemWf.replyTo {s : State} (h : s.MemWf) {r x} : (s.replyTo r x).MemWf := by
  unfold State.replyTo
  dsimp only
  split
  · split
    · exact .finishItem h
    · exact h
  · split
    · exact .setFabric h
    · exact .updComb h
  · exact .send h

theorem State.MemWf.applied {s : State} (h : s.MemWf) {r} : (s.applied r).MemWf := by
  unfold State.applied
  dsimp only
  refine .rest (.foldl (.setFabric h) (fun u x hu => ?_)) rfl rfl
  split
  · exact .ite (.dropItem hu) hu
  · exact hu

theorem State.MemWf.loseReq {s : State} (h : s.MemWf) {r} : (s.loseReq r).MemWf := by
  unfold State.loseReq
  dsimp only
  refine .foldl (.setFabric (.unwait h)) fun u x hu => ?_
  split
  · exact .finishItem hu
  · exact hu

theorem State.MemWf.refuseReq {s : State} (h : s.MemWf) {r code aux} : (s.refuseReq r code aux).MemWf := by
  unfold State.refuseReq
  dsimp only
  refine .foldl (.setFabric h) fun u x hu => ?_
  split
  · exact .refuseItem hu
  · exact hu

theorem State.MemWf.applyReq {s : State} (h : s.MemWf) {r p} : (s.applyReq r p).MemWf := by
  unfold State.applyReq
  dsimp only
  split
  · next heq =>
      refine .waitSweep (.of_eq (.actAt ?_) heq)
      split
      · exact .foldl h fun _ _ hu => .sflush hu
      · exact h
  · next heq =>
      refine .ite (.foldl (.applied (.of_eq (.actAt ?_) heq)) (fun u x hu => ?_)) (.replyTo (.applied (.of_eq
        (.actAt ?_) heq)))
      · split
        · exact .foldl h fun _ _ hu => .sflush hu
        · exact h
      · split
        · exact .finishItem hu
        · exact hu
      · split
        · exact .foldl h fun _ _ hu => .sflush hu
        · exact h

theorem State.MemWf.performReq {s : State} (h : s.MemWf) {r} : (s.performReq r).MemWf := by
  unfold State.performReq
  dsimp only
  refine .ite h ?_
  split
  · exact .ite h (.applyReq h)
  · refine .ite (.loseReq h) ?_
    split
    · exact .ite h (.waitRank h)
    · exact .applyReq (.unwait h)
  · exact h

theorem Result.MemWf.accessPerform {s : State} (h : s.MemWf) {core id} : Result.MemWf (execAccessPerform core id s) := by
  unfold execAccessPerform
  split
  · exact .next (.performReq h)
  · split
    · exact .next (.perform h)
    · exact .next h

theorem State.MemWf.shares {s : State} (h : s.MemWf) {f rs} : (s.shares f rs).MemWf := by
  induction rs generalizing s f with
  | nil => exact h
  | cons r rs ih => exact ih (.replyTo h)

theorem Result.MemWf.contrailReplySplit {s : State} (h : s.MemWf) {sw rid lost} :
    Result.MemWf (execContrailReplySplit sw rid lost s) := by
  unfold execContrailReplySplit
  dsimp only
  split
  · split
    · exact .next h
    · exact .next (.ite (.updComb (.setFabric h)) (.shares (.setFabric h)))
  · exact .next h

theorem Result.MemWf.recordExpire {s : State} (h : s.MemWf) {sw rid} : Result.MemWf (execRecordExpire sw rid s) := by
  unfold execRecordExpire
  split
  · exact .ite (.next (.updComb (.setFabric h))) (.next h)
  · exact .next h

theorem State.MemWf.stampCore {s : State} (h : s.MemWf) {core} : (s.stampCore core).MemWf :=
  .foldl h (fun _ _ hu => .ite (.stampSent hu) hu)

theorem State.MemWf.stampSends {s : State} (h : s.MemWf) : s.stampSends.MemWf := .foldl h fun _ _ hu => .stampCore hu

/-- What is queued changes. -/
theorem Core.memWf.withQueue {k : Core} (h : k.memWf) {q} : Core.memWf { k with queue := q } := h

theorem State.MemWf.endRequest {s : State} (h : s.MemWf) {core i coming} : (s.endRequest core i coming).MemWf :=
  .ite (.updCore (.chargeLoss h) (by exact fun _ hk => .withQueue (.settleItem hk))) (.finishItem (.chargeLoss h))

theorem State.MemWf.timeoutItem {s : State} (h : s.MemWf) {core i} : (s.timeoutItem core i).MemWf := .ite (.endRequest h) h

theorem State.MemWf.targetGone {s : State} (h : s.MemWf) {r rank} : (s.targetGone r rank).MemWf := by
  unfold State.targetGone
  split
  · split
    · exact .refuseItem h
    · exact h
  · split
    · exact .refuseReq h
    · exact h

end Sys2Proof.Machine
end

section
/-! SUPPORT. Memories stay canonical (O60), function by function of the model: copies, rings and the matrix engine. The rule of a
function `f` is `State.MemWf.f` or `Core.memWf.f`, that of `execF` is `Result.MemWf.f`; a rule cites those of the functions that
`f` calls. -/

namespace Sys2Proof.Machine

set_option Elab.async false

/-! ## Copies -/

theorem State.MemWf.copyL1 {s : State} (h : s.MemWf) {core n read p} : (s.copyL1 core n read p).MemWf :=
  (State.atHome_copyL1 _ _ _ _ _).wf h

theorem State.MemWf.issuePlace {s : State} (h : s.MemWf) {r} : (s.issuePlace r).1.MemWf :=
  (State.looksUp_issuePlace _ _).access.wf h

theorem State.MemWf.outAdd {s : State} (h : s.MemWf) {l} : (s.outAdd l).MemWf := .updCore h fun _ hk => hk

theorem State.MemWf.outSub {s : State} (h : s.MemWf) {l} : (s.outSub l).MemWf :=
  .ite (.updCore h (fun _ hk => hk)) (.withSched h)

theorem State.MemWf.updCopy {s : State} (h : s.MemWf) {core id f} : (s.updCopy core id f).MemWf := .updCore h fun _ hk => hk

theorem State.MemWf.completeLane {s : State} (h : s.MemWf) {core c l aborted} : (s.completeLane core c l aborted).MemWf :=
  .ite (.updCopy h) (.updCore (.updCopy h) (fun _ hk => .updByUid hk))

theorem State.MemWf.completeCopy {s : State} (h : s.MemWf) {core c} : (s.completeCopy core c).MemWf := by
  have hdel : (s.updCore core fun k => { k with copies := tblDel k.copies c.id }).MemWf := .updCore h fun _ hk => hk
  have hout := State.MemWf.foldl (f := fun u l => u.outSub l) (ls := c.outs) hdel fun _ _ hu => .outSub hu
  unfold State.completeCopy
  dsimp only
  split
  · split
    · exact hout
    · exact .updCore hout fun _ hk => .ite (.completeOp hk) hk
  · split
    · exact hout
    · exact .updTeam hout

theorem State.MemWf.issueTransfer {s : State} (h : s.MemWf) {tos g n op} : (s.issueTransfer tos g n op).1.MemWf := by
  unfold State.issueTransfer
  dsimp only
  exact .updIssGroup (.updCore (.foldl (.foldl (.name h) (fun _ _ hu => .copyL1 (.copyL1 hu))) (fun _ _ hu => .outAdd hu))
    (by exact fun _ hk => hk))

theorem State.MemWf.issueTransfers {s : State} (h : s.MemWf) {tos n op gs} : (s.issueTransfers tos n op gs).1.MemWf := by
  induction gs generalizing s with
  | nil => exact h
  | cons g gs ih =>
    unfold State.issueTransfers
    split
    · exact h
    · exact ih (.issueTransfer h)

theorem State.MemWf.cpyLanes {s : State} (h : s.MemWf) {n dst src ls} : (s.cpyLanes n dst src ls).1.MemWf := by
  induction ls generalizing s with
  | nil => exact h
  | cons l ls ih =>
    have hrest : ∀ r r', ((((s.issuePlace r).1.issuePlace r').1).cpyLanes n dst src ls).1.MemWf := fun _ _ =>
      ih (.issuePlace (.issuePlace h))
    unfold State.cpyLanes
    dsimp only
    split
    · exact hrest _ _
    · split
      · split
        · exact hrest _ _
        · exact hrest _ _
      · exact hrest _ _
      · exact hrest _ _

theorem State.MemWf.noteSkips {u : State} (h : u.MemWf) {s tos n ls} : (u.noteSkips s tos n ls).MemWf := .updIssGroup h

theorem Result.MemWf.cpy {s : State} (h : s.MemWf) {flag sz dst src} : Result.MemWf (execCpy flag sz dst src s) :=
  .next (.orFault h (.parkLanes (.noteSkips (.updIssGroup (.ite (.issueTransfers (.cpyLanes (.name h))) (.addOp
    (.issueTransfers (.cpyLanes (.name h)))))))))

theorem Result.MemWf.cpySeal {s : State} (h : s.MemWf) : Result.MemWf (execCpySeal s) := .next (.orFault h (.updIssGroup h))

theorem Result.MemWf.cpyWait {s : State} (h : s.MemWf) {n ge} : Result.MemWf (execCpyWait n ge s) :=
  .next (.orFault h (.waitLanes h))

theorem State.MemWf.readOwn {s : State} (h : s.MemWf) {n cs} : (s.readOwn n cs).1.MemWf := by
  induction cs generalizing s with
  | nil => exact h
  | cons c cs ih => exact ih (.ownLoad h)

theorem State.MemWf.tileHeld {s : State} (h : s.MemWf) {l t} : (s.tileHeld l t).1.MemWf :=
  (State.looksUp_tileHeld _ _ _).access.wf h

theorem State.MemWf.acceptTcpy {s : State} (h : s.MemWf) {f l t stage mems} : (s.acceptTcpy f l t stage mems).MemWf := by
  unfold State.acceptTcpy
  dsimp only
  exact .ite (.completeCopy (.updIssGroup (.updCore (.foldl (.foldl (.name (.updIssTeam h)) (fun _ _ hu => .copyL1 hu))
    (fun _ _ hu => .outAdd hu)) (by exact fun _ hk => hk)))) (.updIssGroup (.updCore (.foldl (.foldl (.name
    (.updIssTeam h)) (fun _ _ hu => .copyL1 hu)) (fun _ _ hu => .outAdd hu)) (by exact fun _ hk => hk)))

theorem State.MemWf.acceptTiles {s : State} (h : s.MemWf) {f ts} : (s.acceptTiles f ts).MemWf := by
  induction ts generalizing s with
  | nil => exact h
  | cons t ts ih =>
    obtain ⟨l, t, stage⟩ := t
    unfold State.acceptTiles
    split
    · next heq => exact ih (.acceptTcpy (.of_eq (.tileHeld h) heq))
    · next heq =>
        have hheld := State.MemWf.of_eq (.tileHeld h) heq
        exact .ite (.parkLanes hheld) (ih (.parkLanes hheld))

theorem Result.MemWf.tcpy {s : State} (h : s.MemWf) {f} : Result.MemWf (execTcpy f s) := by
  unfold execTcpy
  dsimp only
  refine .next (.ite h ?_)
  split
  · exact .raise h
  · split
    · exact .raiseOwn (.readOwn (.selfWalks h))
    · exact .issWalks (.parkLanes (.updIssGroup (.acceptTiles (.readOwn (.selfWalks h)))))

theorem State.MemWf.copyFault {s : State} (h : s.MemWf) {core c k p r code} : (s.copyFault core c k p r code).MemWf := by
  unfold State.copyFault
  dsimp only
  exact .ite h (.ite (.msi (.updCore (.updCopy h) (by exact fun _ hk => hk))) (.updCore (.updCopy h) (by exact
    fun _ hk => hk)))

theorem State.MemWf.copyAt {s : State} (h : s.MemWf) {core c r need} : (s.copyAt core c r need).1.MemWf :=
  (State.ownAccess_copyAt _ _ _ _ _).wf h

theorem State.MemWf.copyReport {s : State} (h : s.MemWf) {core c lanes code aux addr} :
    (s.copyReport core c lanes code aux addr).MemWf := by
  unfold State.copyReport
  split
  · exact h
  · exact .report h

theorem State.MemWf.updUnit {s : State} (h : s.MemWf) {core id k lane f} : (s.updUnit core id k lane f).MemWf := .updCopy h

theorem State.MemWf.afterWrite {s : State} (h : s.MemWf) {core id lane lines} :
    (s.afterWrite core id lane lines).MemWf := by
  unfold State.afterWrite
  dsimp only
  split
  · exact h
  · split
    · exact .ite (.completeLane h) h
    · exact .ite (.completeCopy (.updCopy (.foldl (.ite (.completeLane h) h) (fun _ _ hu => .outSub hu)))) (.updCopy
        (.foldl (.ite (.completeLane h) h) (fun _ _ hu => .outSub hu)))

theorem State.MemWf.abortLane {s : State} (h : s.MemWf) {core copy lane} : (s.abortLane core copy lane).MemWf := by
  unfold State.abortLane
  split
  · exact .ite h (.afterWrite (.completeLane h))
  · exact h

theorem State.MemWf.copyPeerGone {s : State} (h : s.MemWf) {core c p r peer} : (s.copyPeerGone core c p r peer).MemWf :=
  .copyReport (.abortLane h)

theorem Result.MemWf.cread {s : State} (h : s.MemWf) {core id k} : Result.MemWf (execCread core id k s) := by
  unfold execCread
  dsimp only
  split
  · exact .next h
  · next heq =>
      refine .ite (.next h) ?_
      split
      · exact .next h
      · exact .next h
      · next heq' => exact .next (.copyFault (.of_eq (.copyAt h) heq'))
      · next heq' => exact .next (.copyPeerGone (.of_eq (.copyAt h) heq'))
      · next heq' => exact .ite (.next h) (.next (.updUnit (.readSpot (.of_eq (.copyAt h) heq'))))

theorem State.MemWf.writePart {s : State} (h : s.MemWf) {c p ch bs q} : (s.writePart c p ch bs q).MemWf :=
  .ite (.writeSpot h) (.foldl h (fun _ _ hu => .ite hu (.writeSpot hu)))

theorem Result.MemWf.cwrite {s : State} (h : s.MemWf) {core id k} : Result.MemWf (execCwrite core id k s) := by
  unfold execCwrite
  dsimp only
  split
  · exact .next h
  · next heq =>
      split
      · exact .next h
      · next heq' =>
          refine .ite (.next h) ?_
          split
          · exact .next h
          · next heq'' => exact .next (.afterWrite (.updUnit (.of_eq (.copyAt h) heq'')))
          · next heq'' => exact .next (.copyFault (.of_eq (.copyAt h) heq''))
          · next heq'' => exact .next (.copyPeerGone (.of_eq (.copyAt h) heq''))
          · next heq'' =>
              refine .ite (.next h) ?_
              split
              · exact .next (.waitSweep (.of_eq (.copyAt h) heq''))
              · exact .next (.afterWrite (.updUnit (.writePart (.of_eq (.copyAt h) heq''))))

theorem State.MemWf.popFault {s : State} (h : s.MemWf) {core copy lane} : (s.popFault core copy lane).MemWf :=
  .updCore h fun _ hk => hk

theorem State.MemWf.ceRetry {s : State} (h : s.MemWf) {core} : (s.ceRetry core).MemWf := by
  unfold State.ceRetry
  split
  · exact h
  · exact .updCopy (.popFault h)

theorem State.MemWf.ceAbort {s : State} (h : s.MemWf) {core} : (s.ceAbort core).MemWf := by
  unfold State.ceAbort
  split
  · exact h
  · exact .abortLane (.popFault h)

theorem Result.MemWf.ceRetry {s : State} (h : s.MemWf) {core} : Result.MemWf (execCeRetry core s) := .next (.ceRetry h)

theorem Result.MemWf.ceAbort {s : State} (h : s.MemWf) {core} : Result.MemWf (execCeAbort core s) := .next (.ceAbort h)

theorem Result.MemWf.ceAnswerTimeout {s : State} (h : s.MemWf) {core copy} :
    Result.MemWf (execCeAnswerTimeout core copy s) :=
  .next (.foldl h (fun _ _ hu => .abortLane (.popFault hu)))

theorem State.MemWf.endUnit {s : State} (h : s.MemWf) {core id u err} : (s.endUnit core id u err).MemWf := by
  unfold State.endUnit
  split
  · exact h
  · exact .ite (.updUnit h) (.afterWrite (.updUnit h))

theorem State.MemWf.lateWrite {s : State} (h : s.MemWf) {core c u} : (s.lateWrite core c u).MemWf := by
  unfold State.lateWrite
  split
  · exact h
  · next heq =>
      refine .ite ?_ h
      split
      · next heq' => exact .ite (.writePart (.of_eq (.copyAt h) heq')) h
      · exact h

theorem State.MemWf.timeoutCopy {s : State} (h : s.MemWf) {core c} : (s.timeoutCopy core c).MemWf := by
  unfold State.timeoutCopy
  dsimp only
  split
  · exact .endUnit (.chargeLoss (.lateWrite h))
  · exact h

theorem Result.MemWf.fabricTimeout {s : State} (h : s.MemWf) {core id} : Result.MemWf (execFabricTimeout core id s) := by
  unfold execFabricTimeout
  split
  · exact .next (.timeoutItem h)
  · exact .next (.timeoutCopy h)
  · exact .next h

theorem Result.MemWf.hostCompletionTimeout {s : State} (h : s.MemWf) {core id} :
    Result.MemWf (execHostCompletionTimeout core id s) := by
  unfold execHostCompletionTimeout
  split
  · exact .next (.ite (.finishItem (.hostError h)) h)
  · split
    · exact .next (.endUnit (.hostError h))
    · exact .next h
  · exact .next h

theorem State.MemWf.copyGone {s : State} (h : s.MemWf) {x cluster e} : (s.copyGone x cluster e).MemWf :=
  .copyReport (.foldl h (fun _ _ hu => .abortLane hu))

/-! ## Ports -/

theorem State.MemWf.updPort {s : State} (h : s.MemWf) {p f} : (s.updPort p f).MemWf := .setFabric h

theorem State.MemWf.loseItem {s : State} (h : s.MemWf) {core i} : (s.loseItem core i).MemWf := by
  have hend : (if i.ended then s.dropItem core i.id else s.endRequest core i false).MemWf := .ite (.dropItem h) (.endRequest h)
  unfold State.loseItem
  dsimp only
  refine .ite ?_ hend
  split
  · split
    · exact .writePeer hend
    · exact hend
  · exact hend

theorem State.MemWf.portFalls {s : State} (h : s.MemWf) {port} : (s.portFalls port).MemWf :=
  .msi (.foldl (.foldl (.updPort h) (fun _ _ hu => .loseItem hu)) (fun _ _ hu => .endUnit (.chargeLoss hu)))

theorem Result.MemWf.flitReplay {s : State} (h : s.MemWf) {port ok} : Result.MemWf (execFlitReplay port ok s) :=
  .ite (.next (.updPort h)) (.next h)

theorem Result.MemWf.portRetrain {s : State} (h : s.MemWf) {port ok} : Result.MemWf (execPortRetrain port ok s) :=
  .ite (.next (.ite (.portFalls (.updPort h)) (.updPort h))) (.next h)

theorem Result.MemWf.portDown {s : State} (h : s.MemWf) {port} : Result.MemWf (execPortDown port s) :=
  .next (.ite (.portFalls h) h)

theorem Result.MemWf.portUp {s : State} (h : s.MemWf) {port} : Result.MemWf (execPortUp port s) := .next (.ite (.updPort h) h)

theorem Result.MemWf.parkReqWrite {s : State} (h : s.MemWf) {port q} : Result.MemWf (execParkReqWrite port q s) :=
  .next (.updPort h)

theorem Result.MemWf.parkAck {s : State} (h : s.MemWf) {port} : Result.MemWf (execParkAck port s) := .next (.updPort h)

theorem Result.MemWf.parkTimeout {s : State} (h : s.MemWf) {port} : Result.MemWf (execParkTimeout port s) := .next (.updPort h)

theorem Result.MemWf.farEndParkRequest {s : State} (h : s.MemWf) {port q} : Result.MemWf (execFarEndParkRequest port q s) :=
  .next (.ite (.updPort h) h)

theorem Result.MemWf.cgtEntryWrite {s : State} (h : s.MemWf) {peer v} : Result.MemWf (execCgtEntryWrite peer v s) :=
  .next (.setFabric h)

/-! ## Rings and launch queues -/

theorem State.MemWf.updQueue {s : State} (h : s.MemWf) {q f} : (s.updQueue q f).MemWf := h

theorem State.MemWf.pendOne {s : State} (h : s.MemWf) {q} : (s.pendOne q).1.MemWf := by
  unfold State.pendOne
  extract_lets x id
  split
  next heq =>
    have hread := State.MemWf.of_eq (.hRead h) heq
    extract_lets sel num u sched v p
    have hnum : u.MemWf := .ite hread (.updCtx hread)
    have hctr : v.MemWf := .withSched hnum
    exact hctr.updQueue

theorem State.MemWf.signal {s : State} (h : s.MemWf) {ctx sel num} : (s.signal ctx sel num).MemWf := .ite h (.updCtx h)

theorem State.MemWf.readDesc {s : State} (h : s.MemWf) {c} : (s.readDesc c).1.MemWf := (State.atH_readDesc _ _).home.wf h

theorem State.MemWf.vaWrite {s : State} (h : s.MemWf) {ctx root va bs} : (s.vaWrite ctx root va bs).1.MemWf :=
  (State.atH_vaWrite _ _ _ _ _).home.wf h

theorem State.MemWf.calm {s : State} (h : s.MemWf) : s.calm.MemWf := .ite (.mapCores h (fun _ _ hk => hk)) h

theorem State.MemWf.writeCompletion {s : State} (h : s.MemWf) {q ctx root compl e} :
    (s.writeCompletion q ctx root compl e).MemWf := by
  unfold State.writeCompletion
  dsimp only
  refine .msi (.ite h ?_)
  split
  · exact h
  · split
    · next heq => exact .of_eq (.vaWrite h) heq
    · next heq => exact .countCtx (.of_eq (.vaWrite h) heq)

theorem State.MemWf.rejectRoot {s : State} (h : s.MemWf) {ctx} : (s.rejectRoot ctx).1.MemWf :=
  (State.atH_rejectRoot _ _).home.wf h

theorem State.MemWf.rejectGrid {s : State} (h : s.MemWf) {q gid sel num code bs} :
    (s.rejectGrid q gid sel num code bs).MemWf :=
  .signal (.writeCompletion (.rejectRoot h))

theorem State.MemWf.finaliseSeal {s : State} (h : s.MemWf) {g} : (s.finaliseSeal g).1.MemWf := by
  obtain ⟨n, hn⟩ := s.atH_finaliseSeal g
  exact hn.home.wf h

/-! ## Barriers -/

theorem State.MemWf.parkFull {u : State} (h : u.MemWf) {s flag} : (u.parkFull s flag).MemWf := .updIssGroup h

theorem State.MemWf.barLane {s : State} (h : s.MemWf) {b mode l} : (s.barLane b mode l).MemWf :=
  .ite (.updIssGroup (.ite h (.updTeam (.ite (.pushPoint h) h)))) (.ite (.settleLive (.updIssGroup (.ite h (.updTeam (.ite
    (.pushPoint h) h))))) (.ite (.settleLive (.updIssGroup (.ite h (.updTeam (.ite (.pushPoint h) h))))) (.updIssGroup
    (.ite h (.updTeam (.ite (.pushPoint h) h))))))

theorem Result.MemWf.bar {s : State} (h : s.MemWf) {b mode} : Result.MemWf (execBar b mode s) :=
  .next (.orFault h (.foldl h (fun _ _ hu => .barLane hu)))

theorem Result.MemWf.ringWait {s : State} (h : s.MemWf) {hd ring empty v stage} :
    Result.MemWf (execRingWait hd ring empty v stage s) :=
  .next (.orFault h (.parkFull (.waitLanes h)))

theorem Result.MemWf.ringArrive {s : State} (h : s.MemWf) {hd ring empty stage} :
    Result.MemWf (execRingArrive hd ring empty stage s) :=
  .next (.orFault h (.runLanes (.foldl h (fun _ _ hu => .updIssTeam (.pushPoint hu)))))

theorem Result.MemWf.tlwait {s : State} (h : s.MemWf) {hd sel sc n} : Result.MemWf (execTlwait hd sel sc n s) :=
  .next (.orFault h (.parkFull (.waitLanes h)))

theorem Result.MemWf.attach {s : State} (h : s.MemWf) {hd role} : Result.MemWf (execAttach hd role s) :=
  .next (.orFault h (.ite (.put32 h) (.ite (.put32 h) (.ite (.put32 h) (.ite (.put32 (.acceptJoin h)) (.put32 h))))))

theorem Result.MemWf.detach {s : State} (h : s.MemWf) : Result.MemWf (execDetach s) := .next (.orFault h (.detachGroup h))

theorem Result.MemWf.shrinkq {s : State} (h : s.MemWf) {hd} : Result.MemWf (execShrinkq hd s) := .next (.orFault h (.put32 h))

theorem State.MemWf.launchOne {s : State} (h : s.MemWf) {q bs} : (s.launchOne q bs).1.MemWf := by
  unfold State.launchOne
  split
  · exact h
  · extract_lets x
    split
    next heq => exact .of_eq (.pendOne (.hWriteSweep h)) heq

theorem State.MemWf.launchAll {s : State} (h : s.MemWf) {dst queue cs} : (s.launchAll dst queue cs).MemWf := by
  induction cs generalizing s with
  | nil => exact h
  | cons c cs ih =>
    unfold State.launchAll
    extract_lets core u
    have hwb : u.MemWf := .ite (.l1WB h) h
    split
    next heq =>
      have hread := State.MemWf.of_eq (.ownLoad hwb) heq
      split
      next heq' => exact ih (.updIssGroup (.of_eq (.launchOne hread) heq'))

theorem Result.MemWf.launch {s : State} (h : s.MemWf) {dst record queue} :
    Result.MemWf (execLaunch dst record queue s) := by
  unfold execLaunch
  dsimp only
  refine .next (.orFault h ?_)
  split
  · exact .raiseOwn h
  · exact .issWalks (.parkLanes (.launchAll (.selfWalks h)))

/-! ## The matrix engine -/

theorem State.MemWf.endEngOp {s : State} (h : s.MemWf) {core o} : (s.endEngOp core o).MemWf :=
  .updEngine (.foldl (.updCore h (fun _ hk => .clearFlags hk)) (fun _ _ hu => .outSub hu)) fun _ => rfl

theorem State.MemWf.passLanes {s : State} (h : s.MemWf) {flag go} : (s.passLanes flag go).MemWf := .updIssGroup h

theorem State.MemWf.acceptEng {s : State} (h : s.MemWf) {flag go act outs} : (s.acceptEng flag go act outs).MemWf :=
  .updEngine (.passLanes (.foldl (.name h) (fun _ _ hu => .outAdd hu))) fun _ => rfl

theorem State.MemWf.parkAll {s : State} (h : s.MemWf) {go w} : (s.parkAll go w).MemWf := .parkLanes h

theorem State.MemWf.stopOn {s t : State} (h : s.MemWf) {go a r} (heq : s.stopOn go a r = some t) : t.MemWf := by
  cases r with
  | ok => cases heq
  | miss ctx vpns => cases heq; exact .issWalks (.parkAll h)
  | absent core ls => cases heq; exact .parkAll h
  | bad code aux => cases heq; exact .raiseOwn h

theorem State.MemWf.loadOnce_ok {s t : State} (h : s.MemWf) {go a align n bs}
    (heq : s.loadOnce go a align n = .ok (t, bs)) : t.MemWf := (State.ownAccess_loadOnce heq).wf h

theorem State.MemWf.loadOnce_error {s t : State} (h : s.MemWf) {go a align n}
    (heq : s.loadOnce go a align n = .error t) : t.MemWf := by
  unfold State.loadOnce at heq
  dsimp only at heq
  split at heq
  · next hstop => cases heq; exact .stopOn h hstop
  · split at heq
    · split at heq
      · cases heq; exact .parkAll h
      · cases heq
    · cases heq; exact h

theorem State.MemWf.acceptJoint {s : State} (h : s.MemWf) {core la} : (s.acceptJoint core la).MemWf := by
  unfold State.acceptJoint
  dsimp only
  split
  · exact .updEngine (.name h) fun _ => rfl
  · split
    · exact .ite (.updCore (.name h) (fun _ hk => .clearFlags hk)) (.updEngine (.foldl (.name h) (fun _ _ hu =>
        .outAdd hu)) (fun _ => rfl))
    · exact .name h

theorem State.MemWf.takeToken {s : State} (h : s.MemWf) {core} : (s.takeToken core).MemWf := by
  unfold State.takeToken
  dsimp only
  exact .withPower (.updEngine h (by exact fun _ => rfl))

theorem State.MemWf.returnToken {s : State} (h : s.MemWf) {core} : (s.returnToken core).MemWf := h

theorem State.MemWf.joinLatch {s : State} (h : s.MemWf) {op m} : (s.joinLatch op m).MemWf := by
  unfold State.joinLatch
  dsimp only
  refine .ite (.updEngine h (by exact fun _ => rfl)) (.ite (.acceptJoint ?_) (.updEngine ?_ (by exact fun _ => rfl)))
  · split
    · exact .takeToken (.updEngine h (by exact fun _ => rfl))
    · exact .updEngine h (by exact fun _ => rfl)
  · split
    · exact .takeToken (.updEngine h (by exact fun _ => rfl))
    · exact .updEngine h (by exact fun _ => rfl)

theorem Result.MemWf.mma {s : State} (h : s.MemWf) {f} : Result.MemWf (execMma f s) :=
  .next (.orFault h (.ite (.parkFull h) (.orFault h (.joinLatch (.passLanes h)))))

theorem Result.MemWf.gangSet {s : State} (h : s.MemWf) {hd a} : Result.MemWf (execGangSet hd a s) := by
  unfold execGangSet
  dsimp only
  exact .next (.orFault h (.ite (.parkFull h) (.orFault h (.runLanes (.updEngine h (by exact fun _ => rfl))))))

theorem Result.MemWf.sclPush {s : State} (h : s.MemWf) {hd m sc} : Result.MemWf (execSclPush hd m sc s) := by
  unfold execSclPush
  dsimp only
  exact .next (.orFault h (.ite (.parkFull h) (.orFault h (.runLanes (.updEngine h (by exact fun _ => rfl))))))

theorem Result.MemWf.ctSet {s : State} (h : s.MemWf) {hd n a} : Result.MemWf (execCtSet hd n a s) :=
  .next (.orFault h (.ite (.parkFull h) (.ite (.parkFull (.parkAll h)) (.parkFull (.acceptEng h)))))

theorem State.MemWf.issueLdb {s : State} (h : s.MemWf) {f go tensor sq} : (s.issueLdb f go tensor sq).MemWf :=
  .ite (.parkAll h) (.updCore (.acceptEng (.ite (.pushPoint (.updIssTeam h)) (.updIssTeam h))) (fun _ hk => hk))

theorem Result.MemWf.mmaLdb {s : State} (h : s.MemWf) {f} : Result.MemWf (execMmaLdb f s) := by
  unfold execMmaLdb
  dsimp only
  refine .next (.orFault h (.ite (.parkFull h) (.orFault h (.parkFull (.ite (.parkAll h) (.ite ?_ (.issueLdb h)))))))
  split
  · next heq => exact .loadOnce_error h heq
  · next heq => exact .issueLdb (.loadOnce_ok h heq)

theorem State.MemWf.engReport {s : State} (h : s.MemWf) {core o p code aux} : (s.engReport core o p code aux).MemWf := by
  unfold State.engReport
  split
  · exact h
  · split
    · exact h
    · exact .report h

theorem State.MemWf.tookSource {s : State} (h : s.MemWf) {core id p bs} : (s.tookSource core id p bs).MemWf :=
  .updEngine (.unwait h) fun _ => rfl

theorem State.MemWf.askSource {s : State} (h : s.MemWf) {core o} : (s.askSource core o).MemWf := by
  unfold State.askSource
  split
  · exact h
  · refine .ite h (.ite (.engReport (.tookSource h)) ?_)
    split
    · exact .tookSource (.spadRead h)
    · exact .ite h (.waitRank h)

theorem State.MemWf.engineBytes {s t : State} (h : s.MemWf) {core o p n bs}
    (heq : s.engineBytes core o p n = some (t, bs)) : t.MemWf := by
  unfold State.engineBytes at heq
  split at heq
  · cases heq; exact h
  · split at heq
    · next x =>
        have hread : (s.spadRead core x n).1.MemWf := .spadRead h
        rw [Option.some.inj heq] at hread
        exact hread
    · obtain ⟨bs, -, hbs⟩ := Option.map_eq_some_iff.1 heq
      cases hbs; exact h

theorem State.MemWf.countTagFail {s : State} (h : s.MemWf) {core ctx} : (s.countTagFail core ctx).MemWf := by
  unfold State.countTagFail
  dsimp only
  exact .withSched (.updCtx (.updEngine h (by exact fun _ => rfl)))

/-- A stationary buffer is filled. -/
theorem State.MemWf.fillBuffer {s : State} (h : s.MemWf) {c i : Nat} {buf : Memory} (hbuf : buf.wf = true) :
    (s.updEngine c fun e => { e with bufs := tblSet e.bufs i buf }).MemWf :=
  .updCore h fun _ hk => ⟨hk.1, fun _ hb => by
    rcases mem_tblSet hb with rfl | hb
    · exact hbuf
    · exact hk.2 _ hb⟩

theorem State.MemWf.loadSquare {s : State} (h : s.MemWf) {core o f key tensor sq num rel bs} :
    (s.loadSquare core o f key tensor sq num rel bs).MemWf := by
  have hdone : ∀ k : Core, k.memWf → Core.memWf (match tblFind k.ops o.id with
      | some p => k.completeOp p
      | none => k) := fun k hk => by
    split
    · exact .completeOp hk
    · exact hk
  have hbuf : ∀ (p : Prop) [Decidable p] buf, Memory.wf buf = true →
      ((if p then s.countTagFail core (s.grid o.grid).ctx else s).updEngine core fun e =>
        { e with bufs := tblSet e.bufs (if f.s then 1 else 0) buf }).MemWf := fun _ _ _ hb =>
    .fillBuffer (.ite (.countTagFail h) h) hb
  unfold State.loadSquare
  dsimp only
  refine .endEngOp (.updCore ?_ hdone)
  split
  · exact hbuf _ _ (wf_memWrite rfl _ _)
  · exact .updTeam (hbuf _ _ (wf_memWrite rfl _ _))

theorem Result.MemWf.mmaLdbComplete {s : State} (h : s.MemWf) {core id} : Result.MemWf (execMmaLdbComplete core id s) := by
  unfold execMmaLdbComplete
  dsimp only
  split
  · exact .next h
  · next heq =>
      split
      · split
        · exact .next (.askSource h)
        · split
          · exact .next (.askSource h)
          · next heq₃ => exact .next (.loadSquare (.engineBytes (.askSource h) heq₃))
      · exact .next h

theorem Result.MemWf.tokenGrant {s : State} (h : s.MemWf) {core} : Result.MemWf (execTokenGrant core s) :=
  .next (.ite (.updEngine h (fun _ => rfl)) h)

theorem Result.MemWf.engineHeldAccept {s : State} (h : s.MemWf) {core} : Result.MemWf (execEngineHeldAccept core s) := by
  unfold execEngineHeldAccept
  split
  · exact .next h
  · exact .next (.ite (.updEngine (.acceptJoint h) (fun _ => rfl)) h)

theorem Result.MemWf.mmaComplete {s : State} (h : s.MemWf) {core id} : Result.MemWf (execMmaComplete core id s) := by
  unfold execMmaComplete
  split
  · split
    · exact .next (.endEngOp (.returnToken (.updEngine h fun e =>
        foldl_keeps (p := Engine.bufs) (fun d r => d.bufs_mmaRow _ _ _ _ _ _) _ e)))
    · exact .next h
  · exact .next h

theorem Result.MemWf.ctSetComplete {s : State} (h : s.MemWf) {core id} : Result.MemWf (execCtSetComplete core id s) := by
  unfold execCtSetComplete
  split
  · split
    · exact .next (.endEngOp (.updEngine h (by exact fun _ => rfl)))
    · exact .next h
  · exact .next h

theorem Result.MemWf.acc {s : State} (h : s.MemWf) {f} : Result.MemWf (execAcc f s) := by
  unfold execAcc
  dsimp only
  refine .next (.orFault h (.ite (.parkFull h) (.orFault h (.parkFull (.ite (.parkAll h) ?_)))))
  split
  · exact .acceptEng h
  · exact .ite (.acceptEng h) (.parkAll h)
  · split
    · exact .parkAll h
    · split
      · exact .parkAll h
      · exact .acceptEng h

theorem State.MemWf.storeRows {s : State} (h : s.MemWf) {core o p ws} : (s.storeRows core o p ws).MemWf := by
  unfold State.storeRows
  refine .ite (.endEngOp h) ?_
  split
  · exact h
  · exact .ite h (.endEngOp (.spadWrite h))

theorem Engine.bufs_putRows (e : Engine) (t row0 : Nat) (ws : List Word) : (e.putRows t row0 ws).bufs = e.bufs :=
  foldl_keeps (p := Engine.bufs) (by exact fun _ _ => rfl) _ e

theorem Result.MemWf.accComplete {s : State} (h : s.MemWf) {core id} : Result.MemWf (execAccComplete core id s) := by
  unfold execAccComplete
  dsimp only
  split
  · exact .next h
  · split
    · split
      · exact .next h
      · exact .next (.endEngOp (.updEngine h fun e => e.bufs_putRows _ _ _))
    · split
      · exact .next (.askSource h)
      · split
        · exact .next (.askSource h)
        · next heq => exact .next (.endEngOp (.updEngine (.engineBytes (.askSource h) heq) fun e => e.bufs_putRows _ _ _))
    · split
      · exact .next h
      · exact .next (.storeRows h)
    · exact .next h

theorem State.MemWf.loadWords_ok {s t : State} (h : s.MemWf) {go a n ws}
    (heq : s.loadWords go a n = .ok (t, ws)) : t.MemWf := (State.ownAccess_loadWords heq).wf h

theorem State.MemWf.loadWords_error {s t : State} (h : s.MemWf) {go a n}
    (heq : s.loadWords go a n = .error t) : t.MemWf := by
  induction n generalizing s a with
  | zero => cases heq
  | succ n ih =>
    unfold State.loadWords at heq
    split at heq
    · next hload => cases heq; exact .loadOnce_error h hload
    · next hload =>
        split at heq
        · next hrest => cases heq; exact ih (.loadOnce_ok h hload) hrest
        · cases heq

theorem Result.MemWf.epiLd {s : State} (h : s.MemWf) {flag a} : Result.MemWf (execEpiLd flag a s) := by
  unfold execEpiLd
  dsimp only
  refine .next (.orFault h (.ite (.parkFull h) (.ite (.parkFull (.parkAll h)) ?_)))
  split
  · next heq => exact .parkFull (.loadOnce_error h heq)
  · next heq =>
      have hlen := State.MemWf.loadOnce_ok h heq
      refine .ite (.raise hlen) ?_
      split
      · next heq' => exact .parkFull (.loadWords_error hlen heq')
      · next heq' =>
          have hload := State.MemWf.loadWords_ok hlen heq'
          refine .ite (.runLanes ?_) (.raise hload)
          exact .updEngine hload fun _ => rfl

theorem Result.MemWf.epiRun {s : State} (h : s.MemWf) {f} : Result.MemWf (execEpiRun f s) :=
  .next (.orFault h (.ite (.parkFull h) (.orFault h (.joinLatch (.passLanes h)))))

theorem State.MemWf.epiStoreReg {s : State} (h : s.MemWf) {core ms i e r size v} :
    (s.epiStoreReg core ms i e r size v).MemWf := by
  unfold State.epiStoreReg
  dsimp only
  split
  · exact h
  · exact .updCore h fun _ hk => .updByUid hk

theorem State.MemWf.epiStoreSpad {s : State} (h : s.MemWf) {core p i e size v} : (s.epiStoreSpad core p i e size v).MemWf :=
  .ite (.spadWrite (.spadErrors h)) (.spadWrite (.spadErrors h))

theorem State.MemWf.epiStore {s : State} (h : s.MemWf) {core ms a spot i e w} :
    (s.epiStore core ms a spot i e w).MemWf := by
  unfold State.epiStore
  dsimp only
  refine .ite ?_ (.epiStoreReg h)
  split
  · exact .epiStoreSpad h
  · exact h

theorem State.MemWf.epiErrors {s : State} (h : s.MemWf) {a prog m c x} : (s.epiErrors a prog m c x).MemWf := by
  unfold State.epiErrors
  refine .foldl h fun u x hu => ?_
  split
  · exact .ite hu (.spadErrors hu)
  · exact hu

theorem Result.MemWf.epiRunComplete {s : State} (h : s.MemWf) {core id} : Result.MemWf (execEpiRunComplete core id s) := by
  unfold execEpiRunComplete
  dsimp only
  split
  · split
    · refine .ite (.next h) (.next (.endEngOp (.foldl ?_ (fun _ _ hu => .foldl hu (fun _ _ hu => .foldl hu (fun _ _ hu =>
        .epiStore hu))))))
      split
      · exact .epiErrors h
      · exact h
    · exact .next h
  · exact .next h

theorem State.MemWf.engGone {s : State} (h : s.MemWf) {core cluster e} : (s.engGone core cluster e).MemWf :=
  .foldl (.foldl (.updEngine h (fun _ => rfl)) (fun _ _ hu => .unwait hu)) fun _ _ hu => .engReport hu

theorem State.MemWf.parkGone {s : State} (h : s.MemWf) {core slot g l cluster e} :
    (s.parkGone core slot g l cluster e).MemWf := by
  unfold State.parkGone
  dsimp only
  split
  · exact h
  · exact .report (.updGroup h)

theorem State.MemWf.parksGone {s : State} (h : s.MemWf) {core cluster e} : (s.parksGone core cluster e).MemWf :=
  .foldl h (fun _ _ hu => .foldl hu (fun _ _ hu => .foldl hu (fun _ _ hu => .parkGone hu)))

theorem State.MemWf.endHeld {s : State} (h : s.MemWf) {cluster e} : (s.endHeld cluster e).MemWf :=
  .foldl (.foldl (.foldl (.updCluster h) (fun _ _ hu => .targetGone hu)) (fun _ _ hu => .copyGone hu)) (fun _ _ hu =>
    .parksGone (.engGone hu))

theorem Result.MemWf.holdTimeout {s : State} (h : s.MemWf) {cluster rank} : Result.MemWf (execHoldTimeout cluster rank s) :=
  .next (.foldl h (fun _ _ hu => .endHeld hu))

end Sys2Proof.Machine
end

section
/-! SUPPORT. Memories stay canonical (O60), function by function of the model: system instructions, faults, admission and pre-emption. The rule of a
function `f` is `State.MemWf.f` or `Core.memWf.f`, that of `execF` is `Result.MemWf.f`; a rule cites those of the functions that
`f` calls. -/

namespace Sys2Proof.Machine

set_option Elab.async false

/-! ## Wear -/

theorem State.MemWf.updWear {s : State} (h : s.MemWf) {unit f} : (s.updWear unit f).MemWf := h

theorem State.MemWf.commitUnit {s : State} (h : s.MemWf) {unit} : (s.commitUnit unit).MemWf := h

/-! ## System instructions -/

theorem Result.MemWf.unassignedEncoding {s : State} (h : s.MemWf) {parcel} :
    Result.MemWf (execUnassignedEncoding parcel s) :=
  .next (.orFault h h)

theorem Result.MemWf.instructionFetchFault {s : State} (h : s.MemWf) {code addr aux} :
    Result.MemWf (execInstructionFetchFault code addr aux s) :=
  .next (.orFault h h)

theorem State.MemWf.waitNs {s : State} (h : s.MemWf) {hd d sleep} : (s.waitNs hd d sleep).MemWf :=
  .orFault h (.parkFull (.updIssGroup h))

theorem Result.MemWf.sleepNs {s : State} (h : s.MemWf) {hd d} : Result.MemWf (execSleepNs hd d s) := .next (.waitNs h)

theorem Result.MemWf.waitNs {s : State} (h : s.MemWf) {hd d} : Result.MemWf (execWaitNs hd d s) := .next (.waitNs h)

theorem Result.MemWf.waitExpire {s : State} (h : s.MemWf) {core guid lane} :
    Result.MemWf (execWaitExpire core guid lane s) :=
  .next (.updCore h (fun _ hk => .updByUid hk))

theorem Core.memWf.moveIsland {k : Core} (h : k.memWf) {i near} : (k.moveIsland i near).memWf := .ite h h

theorem Core.memWf.shiftIsland {k : Core} (h : k.memWf) {i near} : (k.shiftIsland i near).memWf := .ite h (.moveIsland h)

theorem Result.MemWf.ntHintEnter {s : State} (h : s.MemWf) : Result.MemWf (execNtHintEnter s) :=
  .next (.orFault h (.advance (.updIssCore h (fun _ hk => .ite hk (.foldl hk (fun _ _ hk => .shiftIsland hk))))))

theorem Result.MemWf.ntHintLeave {s : State} (h : s.MemWf) : Result.MemWf (execNtHintLeave s) := by
  refine .next (.orFault h (.advance (.updIssCore h fun _ hk => .foldl hk fun _ _ hk => .ite ?_ hk)))
  exact .of_same (.shiftIsland hk) rfl rfl

theorem Result.MemWf.boost {s : State} (h : s.MemWf) {hd p t} : Result.MemWf (execBoost hd p t s) :=
  .next (.orFault h (.ite (.parkFull h) (.orFault h (.parkFull (.withPower (.updIssGroup (.addOp (.name h))))))))

theorem Result.MemWf.wearRd {s : State} (h : s.MemWf) {hd sel} : Result.MemWf (execWearRd hd sel s) :=
  .next (.orFault h (.put64 h))

theorem State.MemWf.submitChunk {s : State} (h : s.MemWf) {dst l n a} : (s.submitChunk dst l n a).MemWf :=
  .updIssGroup (.updGrid (.foldl h (fun _ _ hu => .copyL1 (.issuePlace hu))))

theorem Result.MemWf.sealPut {s : State} (h : s.MemWf) {hd a n} : Result.MemWf (execSealPut hd a n s) := by
  unfold execSealPut
  dsimp only
  refine .next (.orFault h ?_)
  split
  · exact .parkFull (.issWalks (.parkLanes (.foldl h (fun _ _ hu => .submitChunk hu))))
  · exact .raiseOwn (.parkFull (.issWalks (.parkLanes (.foldl h (fun _ _ hu => .submitChunk hu)))))

theorem State.MemWf.chunkRead {s : State} (h : s.MemWf) {core ctx root r now o ns bs} :
    (s.chunkRead core ctx root r now o ns bs).1.MemWf := (State.ownAccess_chunkRead core ctx root r now ns s o bs).wf h

theorem Result.MemWf.sealChunkComplete {s : State} (h : s.MemWf) {grid chunk} :
    Result.MemWf (execSealChunkComplete grid chunk s) := by
  unfold execSealChunkComplete
  dsimp only
  split
  · exact .next h
  · split
    · exact .next h
    · exact .next (.updGrid (.chunkRead h))

theorem Result.MemWf.trap {s : State} (h : s.MemWf) {code} : Result.MemWf (execTrap code s) :=
  .next (.orFault h (.trapEnter (.advance h)))

theorem Result.MemWf.rtrap {s : State} (h : s.MemWf) : Result.MemWf (execRtrap s) := .next (.orFault h (.trapReturn h))

theorem Result.MemWf.brk {s : State} (h : s.MemWf) {code} : Result.MemWf (execBrk code s) :=
  .next (.orFault h (.raise (.advance h)))

/-! ## Faults -/

theorem State.MemWf.updFlt {s : State} (h : s.MemWf) {core f} : (s.updFlt core f).MemWf := .updCore h fun _ hk => hk

theorem State.MemWf.resumeCore {s : State} (h : s.MemWf) {core} : (s.resumeCore core).MemWf :=
  .ite (.msi (.updFlt h)) (.updFlt h)

theorem State.MemWf.faultAction {s : State} (h : s.MemWf) {core n act} (hact : ∀ r, (act r).MemWf) :
    (s.faultAction core n act).MemWf := by
  unfold State.faultAction
  dsimp only
  split
  · exact .ite (.ite (hact _) (.updFlt h)) (.updFlt h)
  · exact .updFlt h

theorem Result.MemWf.fltRetry {s : State} (h : s.MemWf) {core} : Result.MemWf (execFltRetry core s) :=
  .next (.faultAction h (fun _ => .resumeCore h))

theorem Result.MemWf.fltContinue {s : State} (h : s.MemWf) {core} : Result.MemWf (execFltContinue core s) :=
  .next (.faultAction h (fun _ => .resumeCore h))

theorem State.MemWf.restop {s : State} (h : s.MemWf) {core r} : (s.restop core r).MemWf := .updFlt h

theorem State.MemWf.deliverTo {s : State} (h : s.MemWf) {core r} : (s.deliverTo core r).MemWf := by
  unfold State.deliverTo
  dsimp only
  split
  · exact .resumeCore h
  · exact .ite (.restop (.countCtx h)) (.ite (.restop h) (.resumeCore (.trapEnter h)))

theorem Result.MemWf.deliver {s : State} (h : s.MemWf) {core} : Result.MemWf (execDeliver core s) :=
  .next (.faultAction h (fun _ => .deliverTo h))

theorem State.MemWf.discardFaults {s : State} (h : s.MemWf) {core uids} : (s.discardFaults core uids).MemWf :=
  .ite (.msi (.updFlt h)) (.updFlt h)

theorem State.MemWf.countKills {s : State} (h : s.MemWf) {ctx n code} : (s.countKills ctx n code).MemWf :=
  (State.atHome_countKills _ _ _ _).wf h

theorem State.MemWf.killGroupOf {s : State} (h : s.MemWf) {core r} : (s.killGroupOf core r).MemWf := by
  unfold State.killGroupOf
  dsimp only
  split
  · exact .resumeCore h
  · exact .discardFaults (.detachGroup (.updGrid (.countKills h)))

theorem Result.MemWf.killGroup {s : State} (h : s.MemWf) {core} : Result.MemWf (execKillGroup core s) :=
  .next (.faultAction h (fun _ => .killGroupOf h))

theorem State.MemWf.killGridOf {s : State} (h : s.MemWf) {gid code} : (s.killGridOf gid code).MemWf :=
  .calm (.foldl (.foldl (.foldl (.withSched (.updGrid (.countKills h))) (fun _ _ hu => .updCluster hu)) (fun _ _ hu =>
    .detachGroup hu)) (fun _ _ hu => .discardFaults hu))

theorem State.MemWf.killGridFor {s : State} (h : s.MemWf) {core r} : (s.killGridFor core r).MemWf := by
  unfold State.killGridFor
  split
  · exact .killGridOf h
  · exact .resumeCore h

theorem Result.MemWf.killGrid {s : State} (h : s.MemWf) {core} : Result.MemWf (execKillGrid core s) :=
  .next (.faultAction h (fun _ => .killGridFor h))

/-! ## Admission -/

theorem State.MemWf.switchL1 {s : State} (h : s.MemWf) {c} : (s.switchL1 c).MemWf :=
  .updCluster (.foldl h (fun _ _ hu => .updL1 (.l1WBINV hu)))

theorem State.MemWf.chooseMode {s : State} (h : s.MemWf) {c mode} : (s.chooseMode c mode).MemWf := .ite h (.switchL1 h)

theorem Result.MemWf.l1ModeSwitch {s : State} (h : s.MemWf) {cluster} : Result.MemWf (execL1ModeSwitch cluster s) := by
  unfold execL1ModeSwitch
  split
  · exact .next (.ite (.chooseMode h) h)
  · exact .next h

theorem State.MemWf.startGroup {s : State} (h : s.MemWf) {core slot r} : (s.startGroup core slot r).MemWf := by
  unfold State.startGroup
  dsimp only
  split
  · exact .addGroup (.updGrid h)
  · exact h

theorem State.MemWf.putRank {s : State} (h : s.MemWf) {core slot} : (s.putRank core slot).MemWf := by
  unfold State.putRank
  dsimp only
  split
  · exact h
  · exact .updCluster h

theorem State.MemWf.seat {s : State} (h : s.MemWf) {core t engine}
    (he : ∀ e ∈ engine, ∀ b ∈ Engine.bufs e, b.2.wf = true) :
    (s.seat core t engine).1.MemWf := by
  refine .putRank (.updCore (.ite h (.dropPins h)) fun k hk => ?_)
  cases engine with
  | none => exact hk
  | some e => exact ⟨hk.1, he e rfl⟩

theorem Launch.bufs_newEngine (p : Prop) [Decidable p] (ct : Tbl (BitVec 256)) :
    ∀ e ∈ (if p then some { Engine.reset with ct := ct } else none), ∀ b ∈ Engine.bufs e, b.2.wf = true := by
  intro e he
  split at he
  · cases he; exact List.forall_mem_nil _
  · cases he

theorem State.MemWf.admitTeam {s : State} (h : s.MemWf) {gid t core} : (s.admitTeam gid t core).MemWf := by
  unfold State.admitTeam
  extract_lets g l u
  have hmode : u.MemWf := .chooseMode h
  split
  · exact hmode
  · split
    next heq =>
      have hname := State.MemWf.of_eq_snd (.name hmode) heq
      extract_lets x
      split
      next heq' =>
        have hseat := State.MemWf.of_eq (.seat hname (Launch.bufs_newEngine _ _)) heq'
        extract_lets v w
        have hzero : v.MemWf := .updCore hseat fun _ hk => hk
        exact .updGrid (.foldl hzero fun _ _ hu => .foldl hu fun _ _ hu => .startGroup hu)

theorem State.MemWf.clearShrinks {s : State} (h : s.MemWf) {which} : (s.clearShrinks which).MemWf :=
  .ite h (.mapCores h (fun _ _ hk => hk))

theorem State.MemWf.entryDone {s : State} (h : s.MemWf) {tag} : (s.entryDone tag).MemWf := .withSched (.clearShrinks h)

theorem Result.MemWf.teamAdmit {s : State} (h : s.MemWf) : Result.MemWf (execTeamAdmit s) := by
  unfold execTeamAdmit
  dsimp only
  split
  · exact .next h
  · refine .ite (.next h) ?_
    split
    · exact .next h
    · exact .next (.calm (.entryDone (.foldl h (fun _ _ hu => .admitTeam hu))))

theorem Result.MemWf.shrinkRequest {s : State} (h : s.MemWf) : Result.MemWf (execShrinkRequest s) := by
  unfold execShrinkRequest
  dsimp only
  split
  · exact .next h
  · split
    · refine .ite (.next h) ?_
      split
      · exact .next h
      · exact .next (.withSched (.foldl h (fun _ _ hu => .updTeam hu)))
    · exact .next h

theorem Result.MemWf.shrinkWaitExpire {s : State} (h : s.MemWf) : Result.MemWf (execShrinkWaitExpire s) :=
  .next (.clearShrinks h)

theorem Result.MemWf.groupGrow {s : State} (h : s.MemWf) {core} : Result.MemWf (execGroupGrow core s) := by
  unfold execGroupGrow
  dsimp only
  refine .ite ?_ (.next h)
  split
  · exact .next (.updCore (.landJoins (.acceptJoin h)) (fun _ hk => hk))
  · exact .next h

/-! ## Saved areas -/

theorem State.MemWf.writeArea {s : State} (h : s.MemWf) {ctx a bs} : (s.writeArea ctx a bs).MemWf :=
  (State.atHome_writeArea _ _ _ _).wf h

theorem State.MemWf.readArea {s : State} (h : s.MemWf) {ctx a n} : (s.readArea ctx a n).1.MemWf :=
  .foldl_fst h fun _ _ hu => .hRead hu

/-! ## Pre-emption and restore -/

theorem State.MemWf.markMoving {s : State} (h : s.MemWf) {core slot} : (s.markMoving core slot).MemWf := by
  unfold State.markMoving
  dsimp only
  split
  · exact h
  · exact .updCluster (.updCore h (by exact fun _ hk => hk))

theorem State.MemWf.beginLeave {s : State} (h : s.MemWf) {m} : (s.beginLeave m).MemWf := .updTeam h

theorem State.MemWf.restartQuantum {s : State} (h : s.MemWf) {m} : (s.restartQuantum m).MemWf := .updTeam h

theorem Core.memWf.vacate {k : Core} (h : k.memWf) {slot} : (k.vacate slot).memWf := by
  refine ⟨h.1, fun b hb => ?_⟩
  unfold Core.vacate at hb
  dsimp only at hb
  split at hb
  · cases hb
  · exact h.2 b hb

theorem State.MemWf.makeRoom349 {s : State} (h : s.MemWf) : s.makeRoom349.MemWf := .foldl h fun _ _ hu => .beginLeave hu

theorem Result.MemWf.quantumExpire {s : State} (h : s.MemWf) {core slot} : Result.MemWf (execQuantumExpire core slot s) :=
  .ite (.next h) (.ite (.next (.ite (.foldl h (fun _ _ hu => .beginLeave hu)) (.foldl h (fun _ _ hu =>
    .restartQuantum hu)))) (.ite (.next (.foldl h (fun _ _ hu => .restartQuantum hu))) (.next (.makeRoom349 (.foldl h
    (fun _ _ hu => .updTeam hu))))))

theorem State.MemWf.mapCopies {s : State} (h : s.MemWf) {f} : (s.mapCopies f).MemWf := .mapCores h fun _ _ hk => hk

theorem State.MemWf.mapEngines {s : State} (h : s.MemWf) {f} (hf : ∀ e, (f e).bufs = e.bufs) : (s.mapEngines f).MemWf :=
  .mapCores (f := fun _ k => { k with engine := f k.engine }) h fun _ k hk => .of_same hk rfl (hf k.engine)

theorem State.MemWf.mapOuts {s : State} (h : s.MemWf) {f} : (s.mapOuts f).MemWf := .mapEngines (.mapCopies h) fun _ => rfl

theorem State.MemWf.rehome {s : State} (h : s.MemWf) {uid core base} : (s.rehome uid core base).MemWf := .mapCopies h

theorem State.MemWf.recluster {s : State} (h : s.MemWf) {old x} : (s.recluster old x).MemWf := by
  unfold State.recluster
  dsimp only
  exact .ite h (.mapCores (.mapEngines (.mapCopies h) (by exact fun _ => rfl)) (by exact fun _ _ hk => hk))

theorem State.MemWf.joinOrder {s : State} (h : s.MemWf) {gid cohort} : (s.joinOrder gid cohort).2.MemWf := by
  unfold State.joinOrder
  dsimp only
  split
  · exact h
  · exact h

theorem State.MemWf.saveTeam {s : State} (h : s.MemWf) {core slot area} : (s.saveTeam core slot area).MemWf := by
  unfold State.saveTeam
  extract_lets t s₁ k g size _ engine s₂ n bufs mhz kept s₃ s₄ susp ids mine moves
  have hwb : s₄.MemWf := .l1WB (.writeArea (.updCtx (.spadErrors h)))
  clear_value s₄ s₃ s₂
  split
  next heq =>
    have hjoin := State.MemWf.of_eq_snd (.joinOrder hwb) heq
    extract_lets w u sched v x
    have hfree : u.MemWf := .updCore hjoin fun _ hk => .of_same (.vacate hk) rfl rfl
    have hput : x.MemWf := .rehome (.mapOuts (.withSched hfree))
    exact .ite hput (.dropPins hput)

theorem State.MemWf.discardSaved {s : State} (h : s.MemWf) {uid} : (s.discardSaved uid).MemWf := by
  unfold State.discardSaved
  dsimp only
  split
  · exact h
  · exact .updCluster (.updGrid (.withSched (.countKills h)))

theorem State.MemWf.endHere {s : State} (h : s.MemWf) {core slot} : (s.endHere core slot).MemWf :=
  .foldl (.updTeam (.countKills h)) fun _ _ hu => .detachGroup hu

theorem State.MemWf.endLate {s : State} (h : s.MemWf) {c e} : (s.endLate c e).MemWf := .ite (.endHeld h) h

theorem State.MemWf.stay {s : State} (h : s.MemWf) {core slot} : (s.stay core slot).MemWf := by
  unfold State.stay
  dsimp only
  refine .foldl (.updCore (.updCluster (.restartQuantum (.updTeam ?_))) (fun _ hk => hk)) fun _ _ hu => .report hu
  split
  · exact .endLate h
  · exact h

theorem State.MemWf.saveCohort {s : State} (h : s.MemWf) {ms killed} : (s.saveCohort ms killed).MemWf := by
  unfold State.saveCohort
  dsimp only
  split
  · exact .ite (.foldl (.foldl h (fun _ _ hu => .saveTeam hu)) (fun _ _ hu => .discardSaved hu)) (.foldl h (fun _ _ hu =>
      .saveTeam hu))
  · exact .ite (.foldl h (fun _ _ hu => .endHere hu)) (.foldl h (fun _ _ hu => .stay hu))

theorem Result.MemWf.preemptTeam {s : State} (h : s.MemWf) {core slot} : Result.MemWf (execPreemptTeam core slot s) := by
  unfold execPreemptTeam
  dsimp only
  split
  · exact .next h
  · exact .ite (.next (.ite (.makeRoom349 h) h)) (.ite (.next (.markMoving h)) (.ite (.next (.saveCohort h)) (.next h)))

theorem State.MemWf.takeHeld {s : State} (h : s.MemWf) {w} : (s.takeHeld w).1.MemWf := by
  unfold State.takeHeld
  dsimp only
  split
  · exact h
  · exact .updCluster (.endLate h)

theorem Core.memWf.takeBack {k : Core} (h : k.memWf) {w m x ds held now} : (k.takeBack w m x ds held now).memWf :=
  ⟨wf_memWrite (wf_memErase h.1 _ _) _ _, h.2⟩

theorem State.wf_openBuffers (s : State) (w : Waiting) (m : Memory) : ∀ b ∈ s.openBuffers w m, b.2.wf = true := by
  intro b hb
  obtain ⟨i, -, rfl⟩ := List.mem_map.1 hb
  dsimp only
  split
  · exact wf_memWrite rfl _ _
  · rfl

/-- An engine that comes back has the buffers that its area opens to. -/
theorem State.bufs_engineBack (s : State) (w : Waiting) (m : Memory) (f : Engine → Engine) :
    ∀ e ∈ w.engine.map (fun e => { f e with bufs := (s.openBuffers w m).zipIdx.map fun b => (b.2, b.1.2) }),
      ∀ b ∈ Engine.bufs e, b.2.wf = true := by
  intro e he b hb
  obtain ⟨e, -, rfl⟩ := Option.map_eq_some_iff.1 he
  obtain ⟨c, hc, rfl⟩ := List.mem_map.1 hb
  exact s.wf_openBuffers w m _ (List.fst_mem_of_mem_zipIdx hc)

theorem State.MemWf.restoreTeam {s : State} (h : s.MemWf) {w core} : (s.restoreTeam w core).MemWf := by
  unfold State.restoreTeam
  extract_lets u
  have hmode : u.MemWf := .chooseMode h
  split
  · exact hmode
  · extract_lets x
    split
    next m heq =>
      have hread := State.MemWf.of_eq (.readArea hmode) heq
      extract_lets tail counts ds
      split
      next heq' =>
        have hname := State.MemWf.of_eq_snd (.name hread) heq'
        extract_lets bufs engine
        split
        next v held heq'' =>
          have hheld := State.MemWf.of_eq (.takeHeld hname) heq''
          extract_lets t
          split
          next heq₃ =>
            have hseat := State.MemWf.of_eq (.seat hheld (State.bufs_engineBack _ w m _)) heq₃
            extract_lets u₁ now u₂ sched u₃ u₄ u₅ mhz u₆ u₇
            have hback : u₂.MemWf := .updCore (.ite hseat (.l1WBINV hseat)) fun _ hk => .takeBack hk
            have hmoved : u₆.MemWf := .updTeam (.recluster (.rehome (.mapOuts (.withSched hback))))
            have htags : u₇.MemWf := .ite (.foldl hmoved fun _ _ hu => .countTagFail hu) hmoved
            exact .foldl htags fun _ _ hu => .report hu

theorem Result.MemWf.teamRestore {s : State} (h : s.MemWf) : Result.MemWf (execTeamRestore s) := by
  unfold execTeamRestore
  dsimp only
  split
  · exact .next h
  · refine .ite (.next h) ?_
    split
    · exact .next h
    · refine .next (.calm (.entryDone (.foldl h (fun u x hu => ?_))))
      split
      · exact .restoreTeam hu
      · exact hu

theorem State.MemWf.gate {s : State} (h : s.MemWf) {core} : (s.gate core).MemWf := .updCore h fun _ hk => hk

theorem State.MemWf.quiesce {s : State} (h : s.MemWf) {core} : (s.quiesce core).MemWf := by
  unfold State.quiesce
  dsimp only
  exact .ite (.gate (.foldl (.updCore h (by exact fun _ hk => hk)) (fun _ _ hu => .ite (.foldl hu (fun _ _ hu =>
    .beginLeave hu)) hu))) (.foldl (.updCore h (by exact fun _ hk => hk)) (fun _ _ hu => .ite (.foldl hu (fun _ _ hu =>
    .beginLeave hu)) hu))

theorem Result.MemWf.coreQuiesce {s : State} (h : s.MemWf) {o} : Result.MemWf (execCoreQuiesce o s) := by
  unfold execCoreQuiesce
  dsimp only
  split
  · exact .next (.ite h (.quiesce h))
  · exact .next (.ite h (.gate h))
  · exact .next (.ite h (.updCore h (fun _ hk => hk)))

/-! ## Growth and shrinking -/

theorem State.MemWf.checkRecord {s : State} (h : s.MemWf) {q p bs} : (s.checkRecord q p bs).1.MemWf :=
  (State.atH_checkRecord _ _ _ _).home.wf h

theorem Result.MemWf.dispatchTakeRecord {s : State} (h : s.MemWf) {q} : Result.MemWf (execDispatchTakeRecord q s) := by
  unfold execDispatchTakeRecord
  extract_lets x
  split
  · exact .next h
  · refine .ite (.next h) ?_
    split
    next heq =>
      have hread := State.MemWf.of_eq (.hRead h) heq
      extract_lets u
      have hqueue : u.MemWf := .updQueue hread
      split
      · next heq' => exact .next (.rejectGrid (.of_eq (.checkRecord hqueue) heq'))
      · next heq' => exact .next (.withSched (.of_eq (.checkRecord hqueue) heq'))

theorem State.MemWf.boundary {s : State} (h : s.MemWf) {ctx} : (s.boundary ctx).MemWf :=
  .mapCores (.allWBINV h) fun _ _ hk => hk

theorem Result.MemWf.gridStart {s : State} (h : s.MemWf) {grid} : Result.MemWf (execGridStart grid s) := by
  unfold execGridStart
  split
  · exact .next h
  · extract_lets l running u
    have hboundary : u.MemWf := .boundary h
    refine .ite (.next h) ?_
    split
    next heq =>
      have hdesc := State.MemWf.of_eq (.readDesc hboundary) heq
      exact .next (.updGrid (.withSched hdesc))

theorem Result.MemWf.gridEnd {s : State} (h : s.MemWf) {grid} : Result.MemWf (execGridEnd grid s) := by
  unfold execGridEnd
  dsimp only
  split
  · exact .next h
  · exact .ite (.next h) (.next (.rest (.signal (.writeCompletion (.finaliseSeal (.boundary h)))) rfl rfl))

theorem Result.MemWf.throttleWindowEnd {s : State} (h : s.MemWf) {core} : Result.MemWf (execThrottleWindowEnd core s) :=
  .ite (.next h) (.next (.setCore h (.of_same (h.core core) rfl rfl)))

end Sys2Proof.Machine
end

section
/-! SUPPORT. Memories stay canonical (O60), function by function of the model: power, the host, trust, registers and turns. The rule of a
function `f` is `State.MemWf.f` or `Core.memWf.f`, that of `execF` is `Result.MemWf.f`; a rule cites those of the functions that
`f` calls. -/

namespace Sys2Proof.Machine

set_option Elab.async false

/-! ## Power -/

theorem Core.memWf.retime {k : Core} (h : k.memWf) {near old new} : (k.retime near old new).memWf := h

theorem Result.MemWf.ratioChange {s : State} (h : s.MemWf) {region} : Result.MemWf (execRatioChange region s) :=
  .ite (.next h) (.next (.foldl (.updRegion h) (fun _ _ hu => .updCore hu (fun _ hk => .retime hk))))

theorem Result.MemWf.refLoss {s : State} (h : s.MemWf) {region} : Result.MemWf (execRefLoss region s) :=
  .next (.ite (.updRegion h) (.msi (.updRegion h)))

theorem Result.MemWf.refReturn {s : State} (h : s.MemWf) {x0} : Result.MemWf (execRefReturn x0 s) := .next h

theorem Result.MemWf.supplyDroop {s : State} (h : s.MemWf) {region} : Result.MemWf (execSupplyDroop region s) :=
  .next (.updRegion h)

theorem State.MemWf.setReason {s : State} (h : s.MemWf) {cluster c} : (s.setReason cluster c).MemWf :=
  .ite h (.msi (.updCluster h))

theorem State.MemWf.keepLow {s : State} (h : s.MemWf) {region} : (s.keepLow region).MemWf := .updRegion h

theorem State.MemWf.lowerPoint {s : State} (h : s.MemWf) {region c} : (s.lowerPoint region c).MemWf := .updRegion h

theorem State.MemWf.hold {s : State} (h : s.MemWf) {region} : (s.hold region).MemWf := .setReason (.lowerPoint h)

theorem State.MemWf.retarget {s : State} (h : s.MemWf) {region} : (s.retarget region).MemWf :=
  .ite (.keepLow h) (.ite (.hold h) (.ite (.updRegion h) (.foldl (.updRegion h) (fun _ _ hu => .updCore hu (fun _ hk =>
    .foldl hk (fun _ _ hk => .moveIsland hk))))))

theorem Result.MemWf.throttleCause {s : State} (h : s.MemWf) {region cause} :
    Result.MemWf (execThrottleCause region cause s) :=
  .next (.setReason (.lowerPoint h))

theorem Result.MemWf.ntWindowEnd {s : State} (h : s.MemWf) {core} : Result.MemWf (execNtWindowEnd core s) := by
  unfold execNtWindowEnd
  extract_lets k exit enter leave may k' keep
  have hisland : k'.memWf := .foldl (h.core core) fun _ _ hk => .ite (.shiftIsland hk) (.ite (.shiftIsland hk) hk)
  exact .ite (.next h) (.next (.setCore h (.of_same hisland rfl rfl)))

theorem Result.MemWf.islandPointSettled {s : State} (h : s.MemWf) {core island} :
    Result.MemWf (execIslandPointSettled core island s) := by
  unfold execIslandPointSettled
  dsimp only
  split
  · exact .next h
  · exact .next (.updCore (.updCore h (by exact fun _ hk => hk)) (by exact fun _ hk => hk))

theorem State.MemWf.writeTokens {s : State} (h : s.MemWf) {v} : (s.writeTokens v).MemWf :=
  .ite (.foldl (.withPower h) (fun _ _ hu => .setReason hu)) (.withPower h)

theorem Result.MemWf.pwrTokSizeWrite {s : State} (h : s.MemWf) {v} : Result.MemWf (execPwrTokSizeWrite v s) :=
  .next (.writeTokens h)

theorem Result.MemWf.energyWrap {s : State} (h : s.MemWf) {die units} : Result.MemWf (execEnergyWrap die units s) :=
  .next (.withPower h)

theorem State.MemWf.readEnergyLo {s : State} (h : s.MemWf) {die r} : (s.readEnergyLo die r).1.MemWf := h

theorem State.MemWf.readEnergyHi {s : State} (h : s.MemWf) {die r} : (s.readEnergyHi die r).1.MemWf := h

theorem Result.MemWf.energyLoRead {s : State} (h : s.MemWf) {die r} : Result.MemWf (execEnergyLoRead die r s) :=
  .next (.ite (.send h) (.send (.readEnergyLo h)))

theorem Result.MemWf.energyHiRead {s : State} (h : s.MemWf) {die r} : Result.MemWf (execEnergyHiRead die r s) :=
  .next (.ite (.send h) (.send (.readEnergyHi h)))

theorem State.MemWf.endGrant {s : State} (h : s.MemWf) {id} : (s.endGrant id).MemWf := by
  unfold State.endGrant
  dsimp only
  split
  · exact h
  · exact .retarget (.withPower h)

theorem State.MemWf.finishBoost {s : State} (h : s.MemWf) {r dur point code} : (s.finishBoost r dur point code).MemWf := by
  unfold State.finishBoost
  dsimp only
  refine .updCore h fun k hk => ?_
  split
  · exact .completeOp hk
  · exact hk

theorem Result.MemWf.boostEvaluate {s : State} (h : s.MemWf) : Result.MemWf (execBoostEvaluate s) := by
  unfold execBoostEvaluate
  dsimp only
  split
  · exact .next h
  · refine .ite (.next h) ?_
    split
    · exact .next (.finishBoost (.foldl (.withPower h) (fun _ _ hu => .endGrant hu)))
    · exact .next (.finishBoost (.ite (.setReason (.withPower h)) (.withPower h)))
    · exact .next (.finishBoost (.ite (.setReason (.retarget (.withPower (.name (.foldl (.withPower h) (fun _ _ hu =>
        .endGrant hu)))))) (.retarget (.withPower (.name (.foldl (.withPower h) (fun _ _ hu => .endGrant hu)))))))

theorem Result.MemWf.boostGrantExpire {s : State} (h : s.MemWf) {grant} : Result.MemWf (execBoostGrantExpire grant s) := by
  unfold execBoostGrantExpire
  split
  · exact .next (.ite (.endGrant h) h)
  · exact .next h

theorem State.MemWf.tickUnits {s : State} (h : s.MemWf) {rs us} : (s.tickUnits rs us).MemWf :=
  .foldl (.withWear h) fun _ _ hu => .updWear hu

theorem State.MemWf.checkCeilings {s : State} (h : s.MemWf) : s.checkCeilings.MemWf :=
  .foldl h (fun _ _ hu => .ite hu (.hold hu))

theorem State.MemWf.tickRegions {s : State} (h : s.MemWf) {rs} : (s.tickRegions rs).MemWf :=
  .foldl (.foldl h (fun _ _ hu => .updRegion hu)) (fun _ _ hu => .ite hu (.ite (.retarget (.updRegion hu)) (.updRegion hu)))

theorem State.MemWf.endRests {s : State} (h : s.MemWf) : s.endRests.MemWf := by
  unfold State.endRests
  dsimp only
  refine .foldl h fun u x hu => ?_
  split
  · exact .ite (.updCore (.updWear (.updWear hu)) (fun _ hk => hk)) hu
  · exact hu

theorem State.MemWf.fillDusk {s : State} (h : s.MemWf) {cluster n} : (s.fillDusk cluster n).MemWf := by
  induction n generalizing s with
  | zero => exact h
  | succ n ih =>
    unfold State.fillDusk
    dsimp only
    refine .ite ?_ h
    split
    · exact ih (.updCore h fun _ hk => hk)
    · exact h

theorem State.MemWf.admitAll {s : State} (h : s.MemWf) {n} : (s.admitAll n).MemWf := by
  induction n generalizing s with
  | zero => exact h
  | succ n ih =>
    unfold State.admitAll
    split
    · exact h
    · refine .ite h ?_
      split
      · next heq => exact ih ((Result.MemWf.ite (.teamRestore h) (.teamAdmit h)) _ heq)
      · exact h

theorem State.MemWf.applyLife {s : State} (h : s.MemWf) : s.applyLife.MemWf := h

theorem Result.MemWf.wearTick {s : State} (h : s.MemWf) {regions units} : Result.MemWf (execWearTick regions units s) :=
  .ite (.next h) (.next (.admitAll (.ite (.foldl (.withPower (.applyLife (.tickRegions (.endRests (.withPower
    (.checkCeilings (.tickUnits h))))))) (fun _ _ hu => .fillDusk hu)) (.withPower (.applyLife (.tickRegions (.endRests
    (.withPower (.checkCeilings (.tickUnits h))))))))))

theorem Result.MemWf.wearCommit {s : State} (h : s.MemWf) : Result.MemWf (execWearCommit s) := by
  unfold execWearCommit
  dsimp only
  split
  · exact .ite (.next h) (.next (.withWear (.commitUnit h)))
  · exact .ite (.next (.withWear (.commitUnit h))) (.next (.withWear (.commitUnit h)))

theorem Result.MemWf.powerLoss {s : State} (h : s.MemWf) : Result.MemWf (execPowerLoss s) := .next (.withWear h)

theorem Result.MemWf.calibrationFactorSet {s : State} (h : s.MemWf) {unit cB cH cE} :
    Result.MemWf (execCalibrationFactorSet unit cB cH cE s) :=
  .ite (.next h) (.next (.updWear h))

theorem Result.MemWf.coreRetire {s : State} (h : s.MemWf) {core spare} : Result.MemWf (execCoreRetire core spare s) :=
  .ite (.next h) (.next (.setCore (.updL1 (.l1WBINV (.updCluster (.updWear (.updWear (.updWear (.updWear h))))))) .reset))

/-! ## The host and peers -/

theorem State.MemWf.waitBehind {s : State} (h : s.MemWf) {page i} : (s.waitBehind page i).MemWf := h

theorem State.MemWf.holdL2 {s : State} (h : s.MemWf) {i} : (s.holdL2 i).MemWf := h

theorem State.MemWf.holdWindow {s : State} (h : s.MemWf) {i} : (s.holdWindow i).MemWf := .setFabric h

theorem State.MemWf.holdStream {s : State} (h : s.MemWf) {stream i} : (s.holdStream stream i).MemWf := .updStream h

theorem State.MemWf.joinHost {s t : State} (h : s.MemWf) {i} (heq : s.joinHost i = some t) : t.MemWf := by
  unfold State.joinHost at heq
  split at heq
  · cases heq; exact .waitBehind h
  · split at heq
    · cases heq; exact .holdL2 h
    · split at heq
      · cases heq; exact .holdWindow h
      · split at heq
        · cases heq; exact .holdStream h
        · cases heq

theorem State.MemWf.hostNothing {s : State} (h : s.MemWf) {r} : (s.hostNothing r).MemWf := .ite h (.send h)

theorem State.MemWf.hostAct {s : State} (h : s.MemWf) {r} : (s.hostAct r).MemWf := by
  unfold State.hostAct
  dsimp only
  refine .ite (.holdStream h) ?_
  split
  · split
    · exact .waitSweep h
    · exact .hWrite h
  · exact .send (.hRead h)

theorem State.MemWf.hostPerform {s : State} (h : s.MemWf) {r} : (s.hostPerform r).MemWf :=
  .ite (.hostNothing h) (.ite (.hostNothing (.withMgmt h)) (.ite (.hostNothing h) (.hostAct h)))

theorem State.MemWf.hostInside {s : State} (h : s.MemWf) {r} : (s.hostInside r).MemWf := by
  unfold State.hostInside
  dsimp only
  split
  · next heq => exact .joinHost h heq
  · exact .ite (.holdL2 h) (.ite (.holdWindow h) (.hostPerform h))

theorem State.MemWf.firmwareAccess {s : State} (h : s.MemWf) {r} : (s.firmwareAccess r).MemWf := by
  unfold State.firmwareAccess
  dsimp only
  refine .ite (.hostNothing h) (.ite (.ite (.hostNothing h) (.ite (.holdL2 h) (.ite (.holdWindow h) (.hostAct h))))
    (.ite ?_ (.ite h (.send h))))
  split
  · exact .hostPut h
  · exact .send (.hostAsk h)

theorem State.MemWf.hostLost {s : State} (h : s.MemWf) {r} : (s.hostLost r).MemWf := .chargeLoss (.hostNothing h)

theorem State.MemWf.byStream {s : State} (h : s.MemWf) {r} : (s.byStream r).MemWf :=
  .ite (.ite (.hostNothing h) (.hostInside h)) (.ite (.hostNothing h) (.ite (.hostLost h) (.ite (.holdStream h)
    (.hostInside (.useVector h)))))

theorem Result.MemWf.hostAccess {s : State} (h : s.MemWf) {r} : Result.MemWf (execHostAccess r s) := by
  unfold execHostAccess
  refine .next ?_
  split
  · exact .firmwareAccess h
  · exact .firmwareAccess h
  · exact .ite (.hostInside h) (.ite (.hostNothing h) (.byStream h))

theorem State.MemWf.refusePeer {s : State} (h : s.MemWf) {r code} : (s.refusePeer r code).MemWf := .send (.countRefused h)

theorem State.MemWf.peerReply {s : State} (h : s.MemWf) {a x} : (s.peerReply a x).MemWf := .ite (.send h) h

theorem State.MemWf.sendPeer {s : State} (h : s.MemWf) {r hd w add} : (s.sendPeer r hd w add).MemWf := .setFabric (.name h)

theorem State.MemWf.peerPerform {s : State} (h : s.MemWf) {r hd} : (s.peerPerform r hd).MemWf := by
  unfold State.peerPerform
  dsimp only
  refine .ite (.holdStream h) (.ite (.peerReply (.hostError h)) ?_)
  split
  · next heq => exact .waitSweep (.of_eq (.actAt h) heq)
  · next heq => exact .peerReply (.of_eq (.actAt h) heq)

theorem State.MemWf.peerAt {s : State} (h : s.MemWf) {r hd} : (s.peerAt r hd).MemWf := by
  unfold State.peerAt
  refine .ite (.holdWindow h) ?_
  split
  · exact .sendPeer h
  · exact .ite (.holdWindow h) (.peerPerform h)

theorem State.MemWf.peerGo {s : State} (h : s.MemWf) {r hd} : (s.peerGo r hd).MemWf := by
  unfold State.peerGo
  split
  · exact .waitBehind h
  · exact .ite (.holdL2 h) (.peerAt h)

theorem State.MemWf.acceptPeer {s : State} (h : s.MemWf) {r} : (s.acceptPeer r).1.MemWf := by
  unfold State.acceptPeer
  split
  · exact h
  · next heq =>
      split
      · exact h
      · next heq' =>
          split
          · next heq'' => exact .of_eq (.exportAt h) heq''
          · next heq'' => exact .of_eq (.exportAt h) heq''

theorem Result.MemWf.peerRequest {s : State} (h : s.MemWf) {r} : Result.MemWf (execPeerRequest r s) := by
  unfold execPeerRequest
  refine .next ?_
  split
  · exact .peerGo h
  · next heq =>
      split
      · next heq' => exact .refusePeer (.of_eq (.acceptPeer h) heq')
      · next heq' => exact .peerGo (.of_eq (.acceptPeer h) heq')

theorem State.MemWf.stallEnds {s : State} (h : s.MemWf) {stream} : (s.stallEnds stream).MemWf :=
  .ite (.withAgenda (.msi (.updStream h))) h

theorem Result.MemWf.ideStallTimeout {s : State} (h : s.MemWf) {stream} : Result.MemWf (execIdeStallTimeout stream s) :=
  .next (.stallEnds h)

theorem State.MemWf.keyStream {s : State} (h : s.MemWf) {stream i} : (s.keyStream stream i).MemWf :=
  .ite (.stallEnds (.withAgenda h)) (.withAgenda (.updStream h))

theorem Result.MemWf.expansionHotRemove {s : State} (h : s.MemWf) {device} :
    Result.MemWf (execExpansionHotRemove device s) := by
  unfold execExpansionHotRemove
  dsimp only
  exact .ite (.next (by exact h)) (.next h)

theorem Result.MemWf.patrolRead {s : State} (h : s.MemWf) {sector} : Result.MemWf (execPatrolRead sector s) :=
  .next (.ite (.findError h) h)

/-! ## Islands -/

theorem Result.MemWf.shfl {s : State} (h : s.MemWf) {hd mode w64 gv a b} : Result.MemWf (execShfl hd mode w64 gv a b s) :=
  .next (.orFault h (.runLanes h))

theorem Result.MemWf.vote {s : State} (h : s.MemWf) {hd mode ga} : Result.MemWf (execVote hd mode ga s) := by
  unfold execVote
  dsimp only
  split
  · exact .next (.orFault h (.putGuard h))
  · exact .next (.orFault h (.putGuard h))
  · exact .next (.orFault h (.putGuard h))
  · exact .next (.orFault h (.put32 h))

theorem Result.MemWf.matchLanes {s : State} (h : s.MemWf) {hd w64 a} : Result.MemWf (execMatchLanes hd w64 a s) :=
  .next (.orFault h (.put32 h))

theorem Result.MemWf.red {s : State} (h : s.MemWf) {hd op ty rnd a} : Result.MemWf (execRed hd op ty rnd a s) :=
  .next (.orFault h (.putW h))

theorem Result.MemWf.scan {s : State} (h : s.MemWf) {hd op ty rnd excl a} : Result.MemWf (execScan hd op ty rnd excl a s) :=
  .next (.orFault h (.putW h))

theorem Result.MemWf.twset {s : State} (h : s.MemWf) {tw} : Result.MemWf (execTwset tw s) :=
  .next (.orFault h (.updIssGroup (.advance h)))

/-! ## Trust -/

theorem State.MemWf.respond {s : State} (h : s.MemWf) {code payload} : (s.respond code payload).MemWf := .msi (.send h)

theorem State.MemWf.spdm {s k : State} (h : s.MemWf) (hk : k.MemWf) : (s.spdm k).MemWf := .ite hk (.send h)

theorem State.MemWf.spdmError {s : State} (h : s.MemWf) : s.spdmError.MemWf := .respond h

theorem Result.MemWf.getVersion {s : State} (h : s.MemWf) : Result.MemWf (execGetVersion s) := .next (.spdm h (.respond h))

theorem Result.MemWf.getCapabilities {s : State} (h : s.MemWf) : Result.MemWf (execGetCapabilities s) :=
  .next (.spdm h (.respond h))

theorem Result.MemWf.negotiateAlgorithms {s : State} (h : s.MemWf) : Result.MemWf (execNegotiateAlgorithms s) :=
  .next (.spdm h (.respond h))

theorem Result.MemWf.getDigests {s : State} (h : s.MemWf) : Result.MemWf (execGetDigests s) := .next (.spdm h (.respond h))

theorem Result.MemWf.getCertificate {s : State} (h : s.MemWf) {slot} : Result.MemWf (execGetCertificate slot s) := by
  unfold execGetCertificate
  refine .next (.spdm h ?_)
  split
  · exact .respond h
  · exact .spdmError h

theorem Result.MemWf.keyExchange {s : State} (h : s.MemWf) {session} : Result.MemWf (execKeyExchange session s) :=
  .next (.spdm h (.respond (.withTrust h)))

theorem Result.MemWf.finish {s : State} (h : s.MemWf) {session} : Result.MemWf (execFinish session s) :=
  .next (.spdm h (.ite (.respond (.withTrust h)) (.spdmError h)))

theorem Result.MemWf.endSession {s : State} (h : s.MemWf) {session} : Result.MemWf (execEndSession session s) :=
  .next (.spdm h (.ite (.respond (.withTrust h)) (.spdmError h)))

theorem State.MemWf.unstage {s : State} (h : s.MemWf) {slot} : (s.unstage slot).MemWf := by
  unfold State.unstage
  dsimp only
  refine .ite h ?_
  split
  · exact h
  · exact h

theorem State.MemWf.signed {s : State} (h : s.MemWf) {code slot content} : (s.signed code slot content).MemWf := .respond h

theorem State.MemWf.signedRequest {s : State} (h : s.MemWf) {r again content code} :
    (s.signedRequest r again content code).MemWf :=
  .ite (.spdmError h) (.ite (.unstage (.signed (.withTrust h))) (by exact h))

theorem Result.MemWf.challenge {s : State} (h : s.MemWf) {slot nonce} : Result.MemWf (execChallenge slot nonce s) :=
  .next (.spdm h (.signedRequest h))

theorem Result.MemWf.getMeasurements {s : State} (h : s.MemWf) {index raw signed} :
    Result.MemWf (execGetMeasurements index raw signed s) := by
  unfold execGetMeasurements
  refine .next (.spdm h (.ite (.spdmError h) ?_))
  split
  · exact .respond h
  · exact .signedRequest h

theorem Result.MemWf.setCertificate {s : State} (h : s.MemWf) {slot chain session} :
    Result.MemWf (execSetCertificate slot chain session s) :=
  .next (.spdm h (.ite (.respond (.ite (.withTrust h) (.withTrust h))) (.spdmError h)))

theorem Result.MemWf.weightKeyInstall {s : State} (h : s.MemWf) {ctx slot key session} :
    Result.MemWf (execWeightKeyInstall ctx slot key session s) :=
  .next (.ite (.updCtx h) h)

theorem Result.MemWf.ideKeyProgram {s : State} (h : s.MemWf) {m} : Result.MemWf (execIdeKeyProgram m s) :=
  .next (.ite (.keyStream h) h)

theorem Result.MemWf.sharedRangeWrite {s : State} (h : s.MemWf) {i v session} :
    Result.MemWf (execSharedRangeWrite i v session s) :=
  .next (.ite (.withTrust h) h)

/-! ## Resets -/

theorem Core.memWf.restart {k : Core} : k.restart.memWf := ⟨rfl, List.forall_mem_nil _⟩

theorem State.MemWf.fullReset {s : State} (h : s.MemWf) : s.fullReset.MemWf := by
  obtain ⟨-, hhost, hpeers, -⟩ := h
  refine ⟨rfl, hhost, hpeers, fun k hk => ?_⟩
  obtain ⟨x, -, rfl⟩ := mem_tblMap hk
  exact .restart

theorem Result.MemWf.fullReset {s : State} (h : s.MemWf) {x0} : Result.MemWf (execFullReset x0 s) := .next (.fullReset h)

theorem Result.MemWf.devCtlReset {s : State} (h : s.MemWf) {v} : Result.MemWf (execDevCtlReset v s) :=
  .next (.ite (.fullReset h) h)

theorem Result.MemWf.bringupReady {s : State} (h : s.MemWf) : Result.MemWf (execBringupReady s) := .next (.withMgmt h)

/-! ## Registers -/

theorem State.MemWf.dropEntries {s : State} (h : s.MemWf) {c} : (s.dropEntries c).MemWf := .mapCores h fun _ _ hk => hk

theorem State.MemWf.tlbGo {s : State} (h : s.MemWf) {ctx scope} : (s.tlbGo ctx scope).MemWf :=
  .ite (.withMgmt h) (.dropEntries (.withMgmt h))

theorem State.MemWf.tlbCommand {s : State} (h : s.MemWf) {ctx scope} : (s.tlbCommand ctx scope).MemWf := .tlbGo (.withMgmt h)

theorem Result.MemWf.tlbInvPage {s : State} (h : s.MemWf) {ctx} : Result.MemWf (execTlbInvPage ctx s) := .next (.tlbCommand h)

theorem Result.MemWf.tlbInvCtx {s : State} (h : s.MemWf) {ctx} : Result.MemWf (execTlbInvCtx ctx s) := .next (.tlbCommand h)

theorem Result.MemWf.tlbInvAll {s : State} (h : s.MemWf) : Result.MemWf (execTlbInvAll s) := .next (.tlbCommand h)

theorem Result.MemWf.tlbInvNone {s : State} (h : s.MemWf) : Result.MemWf (execTlbInvNone s) := .next (.tlbCommand h)

theorem Result.MemWf.tlbInvComplete {s : State} (h : s.MemWf) : Result.MemWf (execTlbInvComplete s) :=
  .next (.ite h (.ite (.withMgmt h) (.ite h (.withMgmt h))))

theorem State.MemWf.scrubGo {s : State} (h : s.MemWf) {n} : (s.scrubGo n).MemWf := by
  unfold State.scrubGo
  dsimp only
  exact .ite (.withMgmt h) (.ite h (.ite (.withMgmt h) (by exact h)))

theorem Result.MemWf.scrubSet {s : State} (h : s.MemWf) {count} : Result.MemWf (execScrubSet count s) :=
  .next (.scrubGo (.withMgmt h))

theorem Result.MemWf.scrubSetComplete {s : State} (h : s.MemWf) : Result.MemWf (execScrubSetComplete s) := .next (.withMgmt h)

theorem State.MemWf.l2Go {s : State} (h : s.MemWf) {req} : (s.l2Go req).MemWf := .ite (.withMgmt h) (.withMgmt h)

theorem Result.MemWf.l2ModeChange {s : State} (h : s.MemWf) {req} : Result.MemWf (execL2ModeChange req s) := .next (.l2Go h)

theorem Result.MemWf.l2ModeChangeComplete {s : State} (h : s.MemWf) : Result.MemWf (execL2ModeChangeComplete s) :=
  .ite (.next (.rest (.l2Clear h) rfl rfl)) (.next h)

theorem State.MemWf.ctxErr {s : State} (h : s.MemWf) : s.ctxErr.MemWf := h

theorem State.MemWf.createCtx {s : State} (h : s.MemWf) {c} : (s.createCtx c).MemWf := .withCtxs (.dropEntries (.rawWrite h))

theorem State.MemWf.destroyCtx {s : State} (h : s.MemWf) {c} : (s.destroyCtx c).MemWf :=
  .withCtxs (.foldl (.dropEntries h) (fun _ _ hu => .endGrant hu))

theorem State.MemWf.ctxCommand {s : State} (h : s.MemWf) {c op go} : (s.ctxCommand c op go).MemWf :=
  .ite (.withCtxs h) (.ite (.ctxErr (.withCtxs h)) (.withCtxs h))

theorem State.MemWf.ctxRun {s : State} (h : s.MemWf) {op c} : (s.ctxRun op c).MemWf :=
  .ite (.ctxErr (.withCtxs h)) (.ite (.createCtx (.withCtxs h)) (.destroyCtx (.withCtxs h)))

theorem State.MemWf.ctxStep {s : State} (h : s.MemWf) {op c} : (s.ctxStep op c).MemWf := by
  unfold State.ctxStep
  dsimp only
  split
  · exact .ite (.ctxRun h) (.ctxErr h)
  · exact .ctxRun (.withCtxs h)

theorem Result.MemWf.ctxCreate {s : State} (h : s.MemWf) {ctx} : Result.MemWf (execCtxCreate ctx s) := .next (.ctxStep h)

theorem Result.MemWf.ctxDestroy {s : State} (h : s.MemWf) {ctx} : Result.MemWf (execCtxDestroy ctx s) := .next (.ctxStep h)

theorem State.MemWf.queueErr {s : State} (h : s.MemWf) {q} : (s.queueErr q).MemWf := .ite h (.msi (.updQueue h))

theorem State.MemWf.writeCfg {s : State} (h : s.MemWf) {q v} : (s.writeCfg q v).MemWf := .ite (.queueErr h) (.updQueue h)

theorem State.MemWf.pendMany {s : State} (h : s.MemWf) {q n} : (s.pendMany q n).MemWf := by
  induction n generalizing s with
  | zero => exact h
  | succ n ih => exact ih (.pendOne h)

theorem State.MemWf.writePtr {s : State} (h : s.MemWf) {q v} : (s.writePtr q v).MemWf :=
  .ite (.ite (.updQueue h) h) (.ite (.queueErr (.ite (.updQueue h) h)) (.pendMany (.ite (.updQueue h) h)))

theorem State.MemWf.hostPosted {s : State} (h : s.MemWf) {i k} (hk : ∀ u, u.MemWf → (k u).MemWf) :
    (s.hostPosted i k).MemWf := by
  unfold State.hostPosted
  refine .ite h ?_
  split
  · next heq => exact .joinHost h heq
  · exact hk _ h

theorem Result.MemWf.lqCfgWrite {s : State} (h : s.MemWf) {q v} : Result.MemWf (execLqCfgWrite q v s) :=
  .next (.hostPosted h (fun _ hu => .ite (.writeCfg hu) hu))

theorem Result.MemWf.lqDoorbell {s : State} (h : s.MemWf) {q v} : Result.MemWf (execLqDoorbell q v s) :=
  .next (.hostPosted h (fun _ hu => .ite (.writePtr hu) hu))

theorem State.MemWf.regRead {s : State} (h : s.MemWf) {r i who} : (s.regRead r i who).1.MemWf := by
  unfold State.regRead
  split
  · exact h
  · split
    · exact .readEnergyLo h
    · exact .readEnergyHi h
    · exact h

theorem State.MemWf.setMgmt {s : State} (h : s.MemWf) {f} : (s.setMgmt f).MemWf := h

theorem State.MemWf.setPower {s : State} (h : s.MemWf) {f} : (s.setPower f).MemWf := h

theorem State.MemWf.writeInvCmd {s : State} (h : s.MemWf) {v} : (s.writeInvCmd v).MemWf :=
  .ite (.tlbGo (.setMgmt h)) (.setMgmt h)

theorem State.MemWf.writeScrub {s : State} (h : s.MemWf) {v} : (s.writeScrub v).MemWf :=
  .ite (.scrubGo (.setMgmt h)) (.setMgmt h)

theorem State.MemWf.writeL2 {s : State} (h : s.MemWf) {v} : (s.writeL2 v).MemWf :=
  .ite (.l2Go (.setMgmt h)) (.setMgmt (.setMgmt h))

theorem State.MemWf.writePort {s : State} (h : s.MemWf) {i v low} : (s.writePort i v low).MemWf :=
  .ite (.updPort h) (.ite (.portFalls (.updPort (.updPort h))) (.updPort (.updPort h)))

theorem State.MemWf.writeFltCtl {s : State} (h : s.MemWf) {c v} : (s.writeFltCtl c v).MemWf :=
  .ite (.updFlt h) (.ite (.faultAction h (fun _ => .ite (.resumeCore h) (.ite (.deliverTo h) (.ite (.killGroupOf h)
    (.killGridFor h))))) h)

theorem State.MemWf.writeCeFlt {s : State} (h : s.MemWf) {c v} : (s.writeCeFlt c v).MemWf :=
  .ite (.ceRetry h) (.ite (.ceAbort h) h)

theorem State.MemWf.writeCtxd {s : State} (h : s.MemWf) {v} : (s.writeCtxd v).MemWf := .ite (.withCtxs h) (.ctxErr h)

theorem State.MemWf.writeCtxCmd {s : State} (h : s.MemWf) {v} : (s.writeCtxCmd v).MemWf := .ctxCommand (.ite (.withCtxs h) h)

theorem State.MemWf.writeReg {s : State} (h : s.MemWf) {w r i v low high} : (s.writeReg w r i v low high).MemWf := by
  unfold State.writeReg
  dsimp only
  refine .ite h ?_
  split
  · exact .setFabric h
  · exact .setFabric h
  · exact .setFabric h
  · exact .ite h (.setMgmt h)
  · exact .ite h (.writeInvCmd h)
  · exact .setMgmt h
  · exact .writeScrub h
  · exact .writeL2 h
  · exact .writePort h
  · exact .setFabric h
  · exact .setFabric h
  · exact .writeCfg h
  · exact .writePtr h
  · exact h
  · exact .updFlt h
  · exact .ite (.writeFltCtl h) h
  · exact .writeCeFlt h
  · exact .writeCtxd h
  · exact .ite (.writeCtxCmd h) h
  · exact .updRegion h
  · exact .updCore h fun _ hk => hk
  · exact .writeTokens h
  · exact .updCluster h
  · exact .ite (.setPower h) h
  · exact .setPower h
  · exact .setPower h
  · exact .setPower h
  · exact .ite h (.setPower h)
  · exact h
  · exact .ite (.setMgmt h) h
  · exact .setMgmt h
  · exact .ite (.fullReset h) h
  · exact .ite (.setMgmt h) h
  · exact h
  · exact h
  · exact h
  · exact h
  · exact h
  · exact h
  · exact h
  · exact h
  · exact h
  · exact h
  · exact h
  · exact h
  · exact h
  · exact h
  · exact h
  · exact h
  · exact h
  · exact h
  · exact h
  · exact h
  · exact h
  · exact .ite (.maskVector h) h
  · exact .ite (.msixControl h) h

theorem Result.MemWf.registerWrite {s : State} (h : s.MemWf) {w reg index v} :
    Result.MemWf (execRegisterWrite w reg index v s) :=
  .next (.ite (.ite (.send h) (.hostPosted h (fun _ hu => .writeReg hu))) (.writeReg h))

theorem State.MemWf.hostReg {s : State} (h : s.MemWf) {size offset reg index write} :
    (s.hostReg size offset reg index write).MemWf := by
  unfold State.hostReg
  dsimp only
  split
  · exact .send (.regRead h)
  · exact .ite (.writeReg h) (.writeReg h)

theorem Result.MemWf.hostRegisterAccess {s : State} (h : s.MemWf) {size offset reg index write} :
    Result.MemWf (execHostRegisterAccess size offset reg index write s) :=
  .next (.ite (.send h) (.ite (.send h) (.ite (.hostPosted h (fun _ hu => .hostReg hu)) (.ite (.send h) (.hostReg h)))))

/-! ## Turns -/

theorem State.MemWf.startIssue {s t : State} (h : s.MemWf) {core} (heq : s.startIssue core = some t) : t.MemWf := by
  unfold State.startIssue at heq
  split at heq
  · cases heq
  · split at heq
    · cases heq; exact .beginIssue h
    · cases heq

theorem State.MemWf.endCycle {s : State} (h : s.MemWf) {r} : (s.endCycle r).MemWf :=
  .foldl (.ite (.islandCycle (.regionCycle h)) (.regionCycle h)) (fun _ _ hu => .ite (.landJoins hu) hu)

/-! ## The end of a turn -/

theorem State.MemWf.nextTurn {s : State} (h : s.MemWf) : (Machine.nextTurn s).2.MemWf := by
  unfold Machine.nextTurn
  split
  · exact h
  · exact h

theorem State.MemWf.meet {s u : State} (h : s.MemWf) (hu : u.MemWf) {turn stream} : (s.meet turn u stream).MemWf := by
  unfold State.meet
  dsimp only
  split
  · exact .holdStream h
  · exact .holdStream h
  · split
    · exact .updCore h fun _ hk => hk
    · exact h
  · exact hu
  · exact hu
  · exact hu

theorem State.MemWf.endTurn {s t : State} (h : s.MemWf) (ht : t.MemWf) {turn} : (s.endTurn turn t).MemWf := by
  unfold State.endTurn
  dsimp only
  split
  · exact h
  · split
    · exact .meet h (.stampSends (.settle (.endIssue ht)))
    · exact .stampSends (.settle (.endIssue ht))

end Sys2Proof.Machine
end

section
/-! SUPPORT. O60: a step keeps the memories canonical and leaves no instruction half done. -/

namespace Sys2Proof.Machine

set_option Elab.async false

/-! ## Every instruction and event -/

namespace Result.MemWf
variable {s : State}

/-- One rule for each instruction and event. -/
theorem exec (h : s.MemWf) {i} : Result.MemWf (Machine.exec i s) := by
  unfold Machine.exec
  split
  exacts [.nop h, .bra h, .brr h, .call h, .callr h, .ret h, .exit h, .yield h, .flwait h, .pxLit h, .pxScope h, .pxTile h,
    .add h, .sub h, .mul h, .mulhi h, .mad h, .min h, .max h, .abs h, .neg h, .div h, .rem h, .sad h, .mulw h, .and h,
    .or h, .xor h, .not h, .shl h, .shr h, .sar h, .rotl h, .popc h, .clz h, .brev h, .bfe h, .bfi h, .lea h, .fsh h,
    .perm h, .lop3 h, .addi h, .muli h, .andi h, .ori h, .xori h, .shli h, .shri h, .sari h, .movi h, .mov h, .gtag h,
    .icmp h, .fcmp h, .icmpi h, .gop h, .gmov h, .sel h, .fclass h, .cvt h, .cvtpk h, .unpk h, .lut h, .frnd h, .rq h,
    .fadd h, .fsub h, .fmul h, .fma h, .fmin h, .fmax h, .fabs h, .fneg h, .fcpsgn h, .fadd2 h, .fmul2 h, .fma2 h,
    .fmin2 h, .fmax2 h, .fdot2 h, .rcp h, .rsqrt h, .sqrt h, .exp2 h, .log2 h, .sin h, .cos h, .tanh h, .sfuComplete h,
    .shfl h, .vote h, .red h, .scan h, .twset h, .matchLanes h, .ld h, .st h, .faa h, .atom h, .cas h, .fence h,
    .cachePin h, .cacheUnpin h, .cpy h, .cpySeal h, .cpyWait h, .tcpy h, .bar h, .ringWait h, .ringArrive h, .tlwait h,
    .attach h, .detach h, .shrinkq h, .launch h, .mma h, .mmaLdb h, .sclPush h, .ctSet h, .gangSet h, .acc h, .epiLd h,
    .epiRun h, .trap h, .rtrap h, .brk h, .sleepNs h, .waitNs h, .ntHintEnter h, .ntHintLeave h, .boost h, .wearRd h,
    .sealPut h, .accessPerform h, .releasePoint h, .acquirePoint h, .fill h, .evict h, .loadComplete h, .atomicReply h,
    .walkComplete h, .sweepComplete h, .scratchLineZeroed h, .remoteScratchRequest h, .cread h, .cwrite h, .ceRetry h,
    .ceAbort h, .ceAnswerTimeout h, .mmaLdbComplete h, .tokenGrant h, .engineHeldAccept h, .mmaComplete h,
    .ctSetComplete h, .epiRunComplete h, .sealChunkComplete h, .waitExpire h, .fltRetry h, .deliver h, .fltContinue h,
    .killGroup h, .killGrid h, .switchRequestArrival h, .combineWindowClose h, .contrailReplySplit h, .fabricTimeout h,
    .recordExpire h, .hostAccess h, .hostRegisterAccess h, .peerRequest h, .flitReplay h, .portRetrain h, .portDown h,
    .parkReqWrite h, .parkAck h, .parkTimeout h, .cgtEntryWrite h, .holdTimeout h, .expansionHotRemove h, .patrolRead h,
    .tlbInvPage h, .tlbInvCtx h, .tlbInvAll h, .tlbInvNone h, .tlbInvComplete h, .scrubSet h, .l2ModeChange h,
    .l1ModeSwitch h, .ctxCreate h, .ctxDestroy h, .lqCfgWrite h, .lqDoorbell h, .dispatchTakeRecord h, .gridStart h,
    .teamAdmit h, .groupGrow h, .shrinkRequest h, .shrinkWaitExpire h, .quantumExpire h, .preemptTeam h, .teamRestore h,
    .coreQuiesce h, .gridEnd h, .throttleWindowEnd h, .ntWindowEnd h, .ratioChange h, .refLoss h, .refReturn h,
    .supplyDroop h, .throttleCause h, .pwrTokSizeWrite h, .wearTick h, .wearCommit h, .powerLoss h, .coreRetire h,
    .boostEvaluate h, .boostGrantExpire h, .energyLoRead h, .energyHiRead h, .registerWrite h, .getCertificate h,
    .challenge h, .getMeasurements h, .keyExchange h, .finish h, .setCertificate h, .endSession h, .ideKeyProgram h,
    .ideStallTimeout h, .weightKeyInstall h, .sharedRangeWrite h, .fullReset h, .devCtlReset h, .unassignedEncoding h,
    .instructionFetchFault h, .accComplete h, .portUp h, .farEndParkRequest h, .hostCompletionTimeout h, .energyWrap h,
    .islandPointSettled h, .calibrationFactorSet h, .getVersion h, .getCapabilities h, .negotiateAlgorithms h,
    .getDigests h, .bringupReady h, .l2ModeChangeComplete h, .scrubSetComplete h]

theorem runDecoded (h : s.MemWf) {n} : Result.MemWf (Machine.runDecoded n s) := by
  induction n generalizing s with
  | zero => exact .next h
  | succ n ih =>
    have hexec : Result.MemWf (Machine.exec s.decodeIssue.2 s.decodeIssue.1) := .exec (.decodeIssue h)
    unfold Machine.runDecoded
    split
    · next heq => exact .ite (ih (hexec _ heq)) (.next (hexec _ heq))
    · exact hexec

theorem runIssue (h : s.MemWf) : Result.MemWf (Machine.runIssue s) := by
  unfold Machine.runIssue
  split
  · next heq => exact .exec (.of_eq (.fetchIssue h) heq)
  · next heq => exact .runDecoded (.of_eq (.fetchIssue h) heq)

theorem takeTurn (h : s.MemWf) {t} : Result.MemWf (Machine.takeTurn t s) := by
  unfold Machine.takeTurn
  split
  · exact .exec h
  · exact .exec h
  · split
    · next heq => exact .runIssue (.startIssue h heq)
    · exact .next h
  · exact .next (.endCycle h)
  · exact .next (.islandCycle h)
  · exact .next (.passNs h)

theorem step (h : s.MemWf) : Result.MemWf (Machine.step s) := by
  have hturn : Result.MemWf (Machine.takeTurn (Machine.nextTurn s).1 (Machine.nextTurn s).2) := .takeTurn (.nextTurn h)
  unfold Machine.step
  split
  · next heq => exact .next (.endTurn (.nextTurn h) (hturn _ heq))
  · exact hturn

end Result.MemWf

/-! ## What issues, after an issue -/

theorem State.issue_nextTurn (s : State) : (nextTurn s).2.issue = s.issue := by
  unfold nextTurn
  split <;> rfl

theorem State.issue_l1WBINV (s : State) (id : Nat) : (s.l1WBINV id).issue = s.issue := (s.atHome_l1WBINV id).issue

theorem State.issue_settleLive (s : State) (core slot g l : Nat) : (s.settleLive core slot g l).issue = s.issue := by
  unfold State.settleLive
  extract_lets t y x
  split
  · rfl
  · rfl
  · split
    · rfl
    · rfl
  · split
    · next u _ _ _ _ =>
        have hu : u.issue = s.issue := by
          unfold u
          split
          · split
            · exact s.issue_l1WBINV _
            · rfl
          · rfl
        split
        · exact hu
        · exact hu
    · rfl

theorem State.issue_settleShadow (s : State) (core slot g l : Nat) : (s.settleShadow core slot g l).issue = s.issue := by
  unfold State.settleShadow
  extract_lets t y x
  split
  · rfl
  · split
    · rfl
    · rfl
    · split
      · rfl
      · rfl
    · split
      · extract_lets u v
        have hu : u.issue = s.issue := by
          unfold u
          split
          · split
            · exact s.issue_l1WBINV _
            · rfl
          · rfl
        split
        · exact hu
        · exact hu
      · rfl

theorem State.issue_settleGroup (s : State) (core slot g : Nat) : (s.settleGroup core slot g).issue = s.issue :=
  foldl_keeps (p := State.issue) (fun _ _ => (State.issue_settleShadow ..).trans (State.issue_settleLive ..)) _ s

theorem State.issue_settleTeam (s : State) (core slot : Nat) : (s.settleTeam core slot).issue = s.issue :=
  foldl_keeps (p := State.issue) (fun _ _ => State.issue_settleGroup ..) _ _

theorem State.issue_settle (s : State) : s.settle.issue = s.issue :=
  foldl_keeps (p := State.issue) (fun s _ => foldl_keeps (p := State.issue) (fun _ _ => State.issue_settleTeam ..) _ s) _ s

theorem State.issue_stampCore (s : State) (core : Nat) : (s.stampCore core).issue = s.issue :=
  foldl_keeps (p := State.issue) (fun s i => by
    split
    · rfl
    · rfl) _ s

theorem State.issue_stampSends (s : State) : s.stampSends.issue = s.issue :=
  foldl_keeps (p := State.issue) (fun _ _ => State.issue_stampCore ..) _ s

namespace State.Between
variable {s t u : State}

/-- What issues is as it was. -/
theorem of_issue (h : s.Between) (heq : t.issue = s.issue) : t.Between := heq.trans h

theorem nextTurn (h : s.Between) : (Machine.nextTurn s).2.Between := h.of_issue s.issue_nextTurn

theorem meet (h : s.Between) (hu : u.Between) {turn stream} : (s.meet turn u stream).Between := by
  unfold State.meet
  split
  · exact h
  · exact h
  · split
    · exact h
    · exact h
  · exact hu
  · exact hu
  · exact hu

/-- The end of a turn ends the issue. -/
theorem endTurn (h : s.Between) {turn} : (s.endTurn turn t).Between := by
  have hend : t.endIssue.settle.stampSends.Between := ((State.issue_stampSends _).trans (State.issue_settle _)).trans rfl
  unfold State.endTurn
  split
  · exact h
  · extract_lets u
    split
    · exact .meet h hend
    · exact hend

theorem step (h : s.Between) (heq : Machine.step s = .next t) : t.Between := by
  unfold Machine.step at heq
  split at heq
  · cases heq; exact h.nextTurn.endTurn
  · next hnot => exact absurd heq (hnot _)

end State.Between

/-! ## The obligation -/

/-- Settles O60: each function that a step calls keeps the memories canonical, and the end of a turn ends its issue. -/
theorem stepKeepsTheInvariants : Obligations.StepKeepsTheInvariants := by
  unfold Obligations.StepKeepsTheInvariants
  intro s t hwf hbetween hstep
  exact ⟨Result.MemWf.step hwf t hstep, hbetween.step hstep⟩

end Sys2Proof.Machine
end
